-- ==== Sys2Proof/Word.lean ====
section
/-! DEFINITION. The plain number types of the model: bytes, register words, positions and
addresses (spec/00_scope.md R4, R6; spec/11_encoders_and_eject.md R278). -/

namespace Sys2Proof

/-- A byte of memory, of a packet or of a file. -/
abbrev Byte := BitVec 8

/-- A control-space register (R6: every register is 32 bits wide). -/
abbrev Word := BitVec 32

/-- A position: a 48-bit count in bits [55:8] and a fraction in bits [7:0] (R278). -/
abbrev Pos := BitVec 56

/-- A string of bytes: a file, a payload, a record. -/
abbrev Bytes := List Byte

/-- A table by number: pairs in ascending number, at most one per number. -/
abbrev Tab (α : Type) := List (Nat × α)

end Sys2Proof
end

