-- ==== Sys2Proof/Syntax.lean ====
section
/-! DEFINITION. The commands the block takes: one constructor for each row of
spec/opcode_table.json, with the operands the rule named by the row gives it. Quantities that
the device measures or receives from outside (a temperature, a level, a packet) are operands. -/

namespace Sys2Proof

/-- What every ring command carries (16_host_interface.md R411, R414): the seat and ring it is
taken from, its tag, FLAGS.OVERRIDE and FLAGS.FENCE, its LAUNCH field, and whether some byte or
bit that R414 reserves is not 0. -/
structure Hdr where
  seat : Fin 4
  ring : Fin 16
  tag : Word
  override : Bool
  fence : Bool
  launch : BitVec 64
  reservedSet : Bool
  deriving DecidableEq, Repr

/-- The peer and header of a Beyholdo datagram (16_host_interface.md R421). TYPE is the
constructor of the command. -/
structure BhHdr where
  ip : Word
  port : BitVec 16
  magic : BitVec 16
  version : Byte
  session : Word
  seq : Word
  ack : Word
  length : BitVec 16
  seat : Byte
  flags : Byte
  deriving DecidableEq, Repr

/-- The peer and header of a line group message (15_line_group_and_time.md R373): the port it
came in by (0 J50, 1 J51), the sender's addresses and the header fields. TYPE is the
constructor of the command. -/
structure GrpHdr where
  inPort : Fin 2
  mac : BitVec 48
  ip : Word
  version : Byte
  sender : Byte
  flags : Byte
  length : BitVec 16
  payloadBytes : Nat
  seq : Word
  configId : Bytes
  deriving DecidableEq, Repr

/-- The payload of a CAPS message (R374). -/
structure CapsMsg where
  index : Nat
  size : Nat
  fwVersion : Word
  imageId : Bytes
  imageGen : Word
  strip0 : Bytes
  strip1 : Bytes
  stripShape : List (Nat × Nat)
  ptpState : Nat
  domain : Nat
  members : BitVec 24
  deriving DecidableEq, Repr

/-- The payload of a HANDOFF message (R378). -/
structure HandoffMsg where
  kind : Nat
  slot : Nat
  source : Nat
  damaged : Bool
  arith : BitVec 16
  verdict : Nat
  partId : BitVec 64
  startPos : Pos
  endPos : Pos
  ejectPos : Pos
  lateral : Word
  axisRatio : Nat
  anchorP : Pos
  anchorG : Pos
  axisDistance : Int
  lateralOrigin : Int
  scores : List Word
  deriving DecidableEq, Repr

/-- The payload of a STRIP message (R381). -/
structure StripMsg where
  lineIndex : BitVec 64
  group : Pos
  tb0 : BitVec 64
  damaged : Bool
  band : Bytes
  deriving DecidableEq, Repr

/-- What the transparent clock reads and changes in a PTP event message (R384): whether it is a Sync,
and its correctionField, in nanoseconds times 2^16. -/
structure PtpEvent where
  sync : Bool
  correction : BitVec 64
  deriving DecidableEq, Repr

/-- An Ethernet frame at the switch (R369): addresses, the 802.1Q priority code point if the
frame is tagged, and its length. -/
structure Frame where
  dst : BitVec 48
  src : BitVec 48
  pcp : Option (Fin 8)
  bytes : Nat
  ptp : Option PtpEvent := none
  deriving DecidableEq, Repr

/-- What a PTP Announce message names (R384): the fields of IEEE 1588 that the best master clock
algorithm compares, in the standard's order. -/
structure Announce where
  priority1 : Nat
  clockClass : Nat
  accuracy : Nat
  variance : Nat
  priority2 : Nat
  identity : BitVec 64
  stepsRemoved : Nat
  domain : Nat
  deriving DecidableEq, Repr

/-- One access that a seat makes through a BAR2 aperture (R408). -/
inductive Access where
  | read (bytes : Nat)
  | write (data : Bytes)
  deriving DecidableEq, Repr

/-- What a camera answers to a control transaction (03_camera_ingest.md R74). -/
inductive CamAnswer where
  | ok (data : Bytes)
  | error (code : Word)
  deriving DecidableEq, Repr

/-- A coefficient request of IEEE 802.3 Clause 92 (18_serdes_lanes.md R458). -/
inductive CoefReq where
  | hold
  | preset
  | initial
  | change (coef : Fin 3) (up : Bool)
  deriving DecidableEq, Repr

/-- The causes of R479 that trip an output. -/
inductive TripCause where
  | over1500mA
  | over1000mA
  | overload
  | thermal
  deriving DecidableEq, Repr

/-- The parties that a debug request, a clock failure or a lock-up concerns (R490). -/
inductive Scope where
  | die
  | core (n : Fin 4)
  deriving DecidableEq, Repr

/-- The commands of the block, in the order of spec/opcode_table.json. -/
inductive Instr where
  -- ring commands (R417)
  | nop (h : Hdr)
  | imageVerify (h : Hdr) (length : BitVec 64)
  | verificationComplete
  | imageApply (h : Hdr) (fieldChange : Byte)
  | imageApplyCancel (h : Hdr)
  | imageStore (h : Hdr)
  | imageLock (h : Hdr)
  | imageQuery (h : Hdr) (resultAddr : BitVec 64)
  | overlayApply (h : Hdr) (recordAddr : BitVec 64)
  | overlayRevert (h : Hdr) (gen : Byte)
  | powerMode (h : Hdr) (mode : Byte)
  | detOverride (h : Hdr) (mode : Byte)
  | groupLaunch (h : Hdr) (itemAddr : BitVec 64)
  | ctxCreate (h : Hdr) (pin : Byte)
  | ctxDestroy (h : Hdr) (context : BitVec 16)
  | jobReplay (h : Hdr) (context : BitVec 16) (model stream : Byte) (lines : Word)
      (lineAddr resultAddr : BitVec 64) (resultBytes : Word)
  | jobCancel (h : Hdr) (context : BitVec 16) (jobTag : Word)
  | streamPause (h : Hdr) (stream : Byte)
  | streamResume (h : Hdr) (stream : Byte)
  | streamSave (h : Hdr) (stream : Byte) (areaAddr areaBytes : BitVec 64)
  | streamRestore (h : Hdr) (stream : Byte) (recordAddr posDelta : BitVec 64)
  | cxpControl (h : Hdr) (port op tagged : Byte) (camAddr length : Word) (dataAddr : BitVec 64)
  | cxpDescription (h : Hdr) (port : Byte) (areaAddr areaBytes : BitVec 64)
  | libraryAttach (h : Hdr) (library : Byte) (hostAddr bytes : BitVec 64)
  | sampleDecode (h : Hdr) (library : Byte) (sampleIndex outAddr : BitVec 64) (outBytes : Word)
  | trainStart (h : Hdr) (job : Byte)
  | trainPause (h : Hdr) (job : Byte)
  | trainResume (h : Hdr) (job : Byte)
  | trainStop (h : Hdr) (job : Byte)
  | trainCheckpoint (h : Hdr) (job : Byte) (areaAddr areaBytes : BitVec 64)
  | trainRestore (h : Hdr) (job : Byte) (recordAddr : BitVec 64)
  | candidatePublish (h : Hdr) (job : Byte)
  | candidatePromote (h : Hdr) (force : Byte)
  | firmwareStore (h : Hdr) (fileAddr length : BitVec 64)
  | keyLoad (h : Hdr) (slot : Byte) (blockAddr : BitVec 64)
  | keyEnrol (h : Hdr) (recordAddr : BitVec 64)
  | certRead (h : Hdr) (areaAddr areaBytes : BitVec 64)
  | attest (h : Hdr) (nonce : BitVec 256) (resultAddr : BitVec 64)
  | opcodeUnknown (h : Hdr) (opcode : BitVec 16)
  -- console (R428)
  | status
  | events (n : Nat)
  | peek (addr : BitVec 40)
  | poke (addr : BitVec 40) (v : Word)
  | options
  | fwload (file : Bytes)
  | reset
  -- Beyholdo (R421 to R425)
  | hello (d : BhHdr) (reqSeat : Byte) (maxPayload : BitVec 16)
  | submit (d : BhHdr) (ring : Byte) (entries : List Bytes)
  | regRead (d : BhHdr) (offset : Word) (count : BitVec 16)
  | regWrite (d : BhHdr) (offset : Word) (values : List Word)
  | memRead (d : BhHdr) (addr : BitVec 64) (length : Word)
  | memWrite (d : BhHdr) (addr : BitVec 64) (data : Bytes)
  | keepalive (d : BhHdr)
  | ack (d : BhHdr)
  | bye (d : BhHdr)
  | bhAckTimer (seat : Fin 4)
  | bhRetransmit (seat : Fin 4)
  | bhSilence (seat : Fin 4)
  | bhKeepaliveTimer (seat : Fin 4)
  -- seats (R406 to R420); hostWrites: what the host wrote into its own memory beforehand
  | usb4LinkLoss (seat : Fin 2)
  | hotReset (seat : Fin 2)
  | functionLevelReset (seat : Fin 2)
  | seatConnect (seat : Fin 2) (gen3 : Bool)
  | busMasterEnable (seat : Fin 2) (on : Bool)
  | bar2Access (seat : Fin 2) (aperture : Fin 4) (offset : BitVec 30) (a : Access)
  | sqTail (writer seat : Fin 4) (ring : Fin 16) (value : Word) (hostWrites : List (Nat × Byte))
  | cqHead (writer seat : Fin 4) (ring : Fin 16) (value : Word)
  | enable (writer seat : Fin 4) (ring : Fin 16) (value : Word)
  | cqModTimer (seat : Fin 4) (ring : Fin 16)
  -- line group (R373 to R383, R323)
  | caps (g : GrpHdr) (m : CapsMsg)
  | capsTimer
  | peerAbsent (index : Fin 24)
  | axis (g : GrpHdr) (tb0 : BitVec 64) (p : Pos) (encState : Fin 4)
  | axisTimer
  | axisStale
  | handoff (g : GrpHdr) (m : HandoffMsg)
  | strip (g : GrpHdr) (m : StripMsg)
  | stripSeamUpdate (strip : Fin 2)
  | launchItem (g : GrpHdr) (item : Bytes) (launch : BitVec 64)
  | launchAnswer (g : GrpHdr) (launch : BitVec 64) (status : Byte) (ptpState : Byte)
  | go (g : GrpHdr) (launch : BitVec 64)
  | groupLaunchDeadline
  | event (g : GrpHdr) (record : Bytes)
  | groupAck (g : GrpHdr) (ackSeq : Word)
  | groupRetransmit (peer : Fin 24) (seq : Word)
  -- network (R369, R371, R458)
  | frameForward (inPort : Fin 3) (f : Frame)
  | addressAgeing (mac : BitVec 48)
  | arpRequest (inPort : Fin 2) (senderMac : BitVec 48) (senderIp targetIp : Word)
  | icmpEcho (senderIp targetIp : Word) (fragmented : Bool) (data : Bytes)
  | coefficientRequest (lane : Fin 44) (r : CoefReq)
  | trainingTimeout (lane : Fin 44)
  -- time (R384 to R402, R321)
  | ptpSync (offsetNs : Int) (meanPathDelay : Word)
  | ptpAnnounce (port : Fin 2) (a : Announce)
  | ptpDelayReq (port : Fin 2) (identity : BitVec 64) (seq : BitVec 16) (peer : Bool)
  | ptpMessageTimer (kind : Fin 3)
  | holdover (base : Fin 4)
  | launchEdge
  | tbStepGo (seat : Fin 4) (base : Fin 4) (value : Word)
  | snapCapture (seat : Fin 4)
  | ipAddr (seat : Fin 4) (value : Word)
  -- camera ports and streams
  | powerEn (seat : Fin 4) (port : Fin 32) (on loadFound : Bool)
  | rediscover (seat : Fin 4) (port : Fin 32)
  | limit (seat : Fin 4) (port : Fin 32) (watts : BitVec 4)
  | budgetW (seat : Fin 4) (watts : Byte)
  | streamCfg (seat : Fin 4) (stream : Fin 64) (value : Word)
  | discoveryAttempt (port : Fin 32)
  | cameraLinkUp (port : Fin 32) (rates connections connIndex : Nat) (master : Bool)
      (eqSetting lengthM : Nat)
  | descriptionRetrieved (port : Fin 32) (file : Bytes)
  | cableEstimate (port : Fin 32) (eqSetting lengthM : Nat)
  | pocxpMeasure (port : Fin 32) (currentMa voltageDv totalDw supplyMv : Nat)
  | pocxpShort (port : Fin 32)
  | cameraAcknowledge (port : Fin 32) (a : CamAnswer)
  | cxpTimeout (port : Fin 32)
  | imageHeader (port : Fin 32) (cxpStream : Byte) (rectangular : Bool) (format : BitVec 16)
      (xOffset xSize lines : Word) (sourceTag : BitVec 16)
  | lineData (port : Fin 32) (cxpStream : Byte) (tag : Byte) (crcOk : Bool) (lengthBytes : Nat)
      (elements : List (BitVec 16))
  | eventPacket (port : Fin 32) (code : BitVec 64) (data : BitVec 64)
  | cameraLinkLoss (port : Fin 32)
  | streamClose (stream : Fin 64)
  | tickWord (crcOk : Bool) (flags : List (Fin 8 × Byte)) (pps : Bool) (residue : Fin 4)
  | triggerPacketStart (stream : Fin 64)
  | lineServed (pipe : Fin 4)
  | lineEmitted (stream : Fin 64)
  | spillReentry (stream : Fin 64)
  | alignmentTimeout (stream : Fin 64)
  | pipeHang (pipe : Option (Fin 4))
  | statCons (seat : Fin 4) (stream : Fin 64) (value : Word)
  | streamHeaderUpdate (stream : Fin 64)
  -- scheduling
  | stageSpaceReserved (command : Nat)
  | commandDispatch
  | killAck (core : Fin 4)
  | dispatchComplete (core : Fin 4)
  | contextSwap (context : Fin 1024)
  | commitPhase (core : Fin 4) (long : Bool)
  | publish (core : Fin 4)
  | histWrite (stream : Fin 64)
  | turnEnd
  | starvation
  | coreWatchdog (progress : List Bool)
  | coreSetReloaded (core : Fin 4)
  | sliceUs (seat : Fin 4) (value : Word)
  | offline (seat : Fin 4) (core : Fin 4) (on : Bool)
  -- ledger and deadlines
  | deadlineTest
  | cutoffPassed (slot : Nat)
  | partWindowEnd (slot view : Nat)
  | shadowLimit (slot : Nat)
  -- eject list, encoders, dividers, outputs
  | ejectInsert
  | listCtrlClear (seat : Fin 4)
  | cropEncoded
  | encoderEdge (enc : Fin 8) (aLeads illegal : Bool)
  | wireLoss (enc : Fin 8)
  | indexPulse (enc : Fin 8)
  | ssiRead (enc : Fin 8)
  | ssiWord (enc : Fin 8) (word : Word) (errBit : Bool) (crc : BitVec 16)
  | ssiTimeout (enc : Fin 8)
  | encoderStopped (enc : Fin 8)
  | clearLost (seat : Fin 4) (enc : Fin 8)
  | dividerEvent (div : Fin 8)
  | trigOutPulseEnd (div : Fin 8)
  | outputSwitchOn (enc : Fin 8)
  | peakPhaseEnd (output : Fin 64)
  | pulseEnd (output : Fin 64)
  -- field inputs and outputs
  | inputEdge (input : Fin 32) (active : Bool)
  | counterGate (counter : Fin 4)
  | cntCtrlZero (seat : Fin 4) (counter : Fin 4)
  | outputOvercurrent (output : Fin 64) (cause : TripCause)
  | groupCurrentCheck (group : Fin 8) (meanMa : Nat)
  | outputMeasure (output : Fin 64) (meanMa : Nat) (pinMv : Nat)
  | openLoadTest (output : Fin 64) (pinMv : Nat)
  | clearTrip (seat : Fin 4) (output : Fin 64)
  | gCtrlClear (seat : Fin 4) (group : Fin 8)
  | qHost (seat : Fin 4) (high : Bool) (value : Word)
  | fieldMirrorRead (seat : Fin 4) (offset : BitVec 20)
  | fieldMirrorWrite (seat : Fin 4) (offset : BitVec 20) (value : Word)
  | barrierFrameSend
  | barrierDownFrame (good : Bool)
  | barrierUpFrame (good : Bool)
  | frameTimeout (down : Bool)
  | fcWatchdog
  | fieldSupplyOn (mv : Nat)
  -- reset, boot, power
  | powerOn (recoveryN backupValid : Bool)
  | brownOut (rail : Option (Fin 8)) (recoveryN : Bool)
  | resetN (recoveryN : Bool)
  | controlWatchdog (recoveryN : Bool)
  | swResetDie (seat : Fin 4) (value : Word) (recoveryN : Bool)
  | swResetCore (seat : Fin 4) (value : Word)
  | swResetStreams (seat : Fin 4) (value : Word)
  | debugReset (u : Scope) (recoveryN : Bool)
  | debugForceRelease (island : Fin 15)
  | clockFailure (u : Scope) (recoveryN : Bool)
  | lockUp (u : Scope) (recoveryN : Bool)
  | islandClockGood (island : Fin 15)
  | supplyGood (trimEqual : List Bool)
  | firmwareVerified
  | memoryTrained (channels : Nat)
  | bootComplete (linksUp : Bool)
  | bootFailureReset (recoveryN : Bool)
  | slotCopyComplete
  | throttleCheck (junction : List Int) (plateDeci : Int) (powerDw : Nat)
  | operatingPointDone (core : Fin 4)
  | supplyMeasure (j1Mv j1Dw : Nat) (railMv : List Nat)
  | bootClear (seat : Fin 4)
  | commit (seat : Fin 4)
  | optionCopiesWritten
  | revert (seat : Fin 4)
  | rtcHi (seat : Fin 4) (value : Word)
  -- memory
  | patrolScrub (addr : BitVec 40) (uncorrectable corrected : Bool)
  | refreshRateRead (channel : Fin 32) (rate : BitVec 3)
  | stagingWrite (seat : Fin 4) (offset : BitVec 33) (data : Bytes)
  | unmappedAccess (initiator : Byte) (addr : BitVec 64) (a : Access)
  -- image apply phases
  | drainEnd
  | drainTimeout
  | loadPhaseEnd (failed : Option Byte)
  | fieldWaitEnd
  -- decoding and training
  | decodeComplete (stream : Fin 36)
  | decodeTimeout (stream : Fin 36)
  | sampleDelivery (stream : Fin 36)
  | epochStart (job : Fin 32)
  | sampleSetRetake (job : Fin 32)
  | checkpointWrite (job : Fin 32)
  | candidateRecordStored
  | flush (seat : Fin 4)
  -- event recorder
  | eventRecord
  | spillMove
  | tokenRefill (key : Nat)
  | floodEnd (key : Nat)
  | clearCritical (seat : Fin 4)
  | clearAll (seat : Fin 4)
  | zeroCounters (seat : Fin 4)
  -- control space
  | w1cClear (seat : Fin 4) (offset : BitVec 28) (value : Word) (hardwareSets : Word)
  | registerWrite (seat : Fin 4) (offset : BitVec 28) (value : Word)
  | unalignedAccess (initiator : Byte) (offset : BitVec 28) (bytes : Nat) (write : Bool)
  | unoccupiedAccess (initiator : Byte) (offset : BitVec 28) (write : Bool)
  | loReadLatch (seat : Fin 4) (offset : BitVec 28)
  -- lanes
  | laneAligned (lane : Fin 44) (position : Nat)
  | alignmentLoss (lane : Fin 44) (lossOfSignal : Bool)
  | laneCtrlMode (seat : Fin 4) (lane : Fin 44) (mode : Bool)
  | slip (seat : Fin 4) (lane : Fin 44)
  | inject (seat : Fin 4) (lane : Fin 44)
  | loopback (seat : Fin 4) (lane : Fin 44) (mode : BitVec 2)
  | prbsChk (seat : Fin 4) (lane : Fin 44) (on : Bool)
  -- rows the table lists last
  | fieldSupplyLoss (mv : Nat)
  | wireSignalReturn (enc : Fin 8)
  | ppsInEdge (rising : Bool) (heldSamples : Nat)
  | imageStoreDone
  | firmwareStoreDone (readBackOk : Bool)
  | overlayApplyGapEnd
  | prbsLock (lane : Fin 44)
  | prbsLockLoss (lane : Fin 44)
  | historyHeaderUpdate (stream : Fin 64)
  | interruptDatagramInterval (seat : Fin 4)
  | loadMeterRefresh (unit : Nat) (value : Word)
  | rateCountRefresh
  deriving DecidableEq, Repr

end Sys2Proof
end

