-- ==== Sys2Proof/Decode.lean ====
section
/-! DEFINITION. Commands spelt by words of spec/opcode_table.json. No row of the table gives its command any
bits: a ring command's 64 bytes are read by Machine/Take.lean (decodeEntry), and every other command is an
event or an access with operands, not a word. -/

namespace Sys2Proof

/-- The command that a word spells by the table's bits: none, as no row gives any. -/
def decodeTableWord (_nbits _w : Nat) : Option Instr := none

end Sys2Proof
end

