-- ==== Sys2Proof/Config.lean ====
section
/-! DEFINITION. What one device fixes and the manual does not: fused identity, values the spec
leaves open. Every constant here has no body that a proof could look at, so a statement about it
holds for every value (notes/assumptions/30.md to 39.md). -/

namespace Sys2Proof.Config

/-! ### Identity, written at manufacture -/

/-- GLB.SERIAL (01_device_overview.md R34). -/
opaque serial : BitVec 64

/-- HOST.PCI_ID.VENDOR (16_host_interface.md R431). -/
opaque pciVendor : BitVec 16

/-- SEC.ROOT_HASH, the key hash of the vendor root key (22_security.md R554). -/
opaque rootHash : Bytes

/-- The modulus of the identity key, big-endian (R548). -/
opaque identityModulus : Bytes

/-- The device carries the conformal coating of the variant IL-9640-AC (00_scope.md R1). -/
opaque coated : Bool

/-- The stretches of the identity certificate between the contents that R548 fixes, as written at manufacture. -/
opaque certificatePart : Nat → Bytes

/-- The bytes of a text in ASCII. -/
def ascii (t : String) : Bytes := t.toList.map fun c => BitVec.ofNat 8 c.toNat

/-- The 16 upper-case hexadecimal digits of the serial number (R34, R548). -/
def serialDigits : Bytes :=
  (List.range 16).map fun k =>
    let d := serial.toNat / 16 ^ (15 - k) % 16
    BitVec.ofNat 8 (if d < 10 then 0x30 + d else 0x37 + d)

/-- The device identity certificate in DER form, at most 4 KiB (R548): its notAfter, its subject serialNumber, its
public key and the ordering code stand in it in the order of X.509, between stretches that the spec does not give
(notes/assumptions/33.md). -/
def certificate : Bytes :=
  let part (k : Nat) : Bytes := (certificatePart k).take 700
  part 0 ++ ascii "99991231235959Z" ++ part 1 ++ serialDigits ++ part 2 ++ identityModulus.take 512 ++ part 3 ++
    ascii (if coated then "IL-9640-AC" else "IL-9640-A") ++ part 4

/-- The SIGNATURE the identity key makes over a message hash; the salt of RSASSA-PSS is drawn
afresh for each signature (R540), so the draw number is an argument. -/
opaque identitySign : Nat → Bytes → Bytes

/-- The MAC address of the die (15_line_group_and_time.md R402). -/
opaque macAddress : BitVec 48

/-! ### Values the spec leaves open -/

/-- A fresh open value for each draw. -/
opaque freeNat : Nat → Nat

/-- The FP32 result of an approximated vector function (06_arithmetic.md): function, FP32 operand. -/
opaque vectorFn : Nat → Word → Word

/-- Every opcode of a program's data is one of the sequencer of its core: the content of program data is die-specific
and not defined (02_deurzor_image.md R50). -/
opaque opcodesDefined : Nat → Bytes → Bool

/-- The mappings that a program's data records: operator, mapping (0 dense, 1 block-diagonal, 2 diagonal) and the
columns of an array of its partition (07_window_operators.md R189; the data are not defined, R50). -/
opaque programMappings : Bytes → List (Nat × Nat × Nat)

/-- A coefficient of the capture encoder's forward transform, which R328 leaves to the encoder:
its 8 by 8 block of level-shifted samples, row by row, and the coefficient's place. -/
opaque encoderCoef : List Int → Nat → Int

/-- A sample of the decoder's inverse transform where the standard's tolerance leaves it open
(13_capture_and_decode.md): the block's 64 dequantised coefficients and the sample's place. -/
opaque decoderSample : List Int → Nat → Int

/-- The decode cycles of a sample, a function of its bytes alone (R334). -/
opaque decodeCycles : Bytes → Nat

end Sys2Proof.Config
end

