-- ==== Sys2Proof/Machine/Bits.lean ====
section
/-! DEFINITION. Byte strings, numbered tables and sparse memory: the plain helpers that the
operations of the block are written with (spec/00_scope.md R4: little-endian, bit 0 the least
significant bit of byte 0). -/

namespace Sys2Proof.Machine

/-! ### Bytes and numbers -/

/-- The number a little-endian byte string holds (R4). -/
def leNat : Bytes → Nat
  | [] => 0
  | b :: bs => b.toNat + 256 * leNat bs

/-- The low `n` bytes of a number, little-endian (R4). -/
def natLe : Nat → Nat → Bytes
  | 0, _ => []
  | n + 1, v => BitVec.ofNat 8 v :: natLe n (v / 256)

/-- The number in the `n` bytes at offset `off` of a byte string; bytes past its end count 0. -/
def leAt (bs : Bytes) (off n : Nat) : Nat := leNat ((bs.drop off).take n)

/-- The signed number in the `n` bytes at an offset. -/
def sleAt (bs : Bytes) (off n : Nat) : Int :=
  let v := leAt bs off n
  if v < 2 ^ (8 * n - 1) then v else (v : Int) - 2 ^ (8 * n)

/-- One byte of a byte string, 0 past its end. -/
def byteAt (bs : Bytes) (off : Nat) : Nat := ((bs.drop off).headD 0).toNat

/-- The `n` bytes at an offset, zeros past the end. -/
def bytesAt (bs : Bytes) (off n : Nat) : Bytes :=
  let t := (bs.drop off).take n
  t ++ List.replicate (n - t.length) 0

/-- A number as the two's complement of `w` bits. -/
def toUnsigned (w : Nat) (v : Int) : Nat := (v % (2 ^ w : Int)).toNat

/-- The signed number that `w` bits hold. -/
def toSigned (w : Nat) (v : Nat) : Int :=
  let v := v % 2 ^ w
  if v < 2 ^ (w - 1) then v else (v : Int) - 2 ^ w

/-- A signed number in `n` bytes, little-endian. -/
def intLe (n : Nat) (v : Int) : Bytes := natLe n (toUnsigned (8 * n) v)

/-- Bit `i` of a number. -/
def bit (v i : Nat) : Bool := v / 2 ^ i % 2 == 1

/-- The sum of a list. -/
def sum (l : List Nat) : Nat := l.foldl (· + ·) 0

/-- A Boolean as a bit. -/
def b2n (b : Bool) : Nat := if b then 1 else 0

/-- Bits [lo+w-1:lo] of a number. -/
def slice (v lo w : Nat) : Nat := v / 2 ^ lo % 2 ^ w

/-- A number with bits [lo+w-1:lo] replaced. -/
def putSlice (v lo w x : Nat) : Nat :=
  v - slice v lo w * 2 ^ lo + x % 2 ^ w * 2 ^ lo

/-- The number of bits set among the low `n`. -/
def popCount (v n : Nat) : Nat := ((List.range n).filter (bit v)).length

/-- The bytes a byte string holds at an offset, replaced. -/
def spliceBytes (bs : Bytes) (off : Nat) (data : Bytes) : Bytes :=
  bs.take off ++ data ++ bs.drop (off + data.length)

/-- Every byte is 0. -/
def allZero (bs : Bytes) : Bool := bs.all (· == 0)

/-- The smallest multiple of `m` at or above `v`. -/
def roundUp (v m : Nat) : Nat := (v + m - 1) / m * m

/-- The quotient rounded up. -/
def ceilDiv (a b : Nat) : Nat := (a + b - 1) / b

/-- A number limited to a largest value. -/
def sat (v top : Nat) : Nat := min v top

/-! ### Tables -/

/-- The entry of a table at a number. -/
def Tab.get {α : Type} (t : Tab α) (k : Nat) : Option α :=
  match t with
  | [] => none
  | (j, a) :: r => if j = k then some a else Tab.get r k

/-- A table with one entry put in its place. -/
def Tab.put {α : Type} (t : Tab α) (k : Nat) (v : α) : Tab α :=
  match t with
  | [] => [(k, v)]
  | (j, a) :: r =>
      if k < j then (k, v) :: (j, a) :: r
      else if k = j then (k, v) :: r
      else (j, a) :: Tab.put r k v

/-- A table without one number. -/
def Tab.del {α : Type} (t : Tab α) (k : Nat) : Tab α := t.filter fun e => e.1 != k

/-- The entry at a number, or a default. -/
def Tab.getD {α : Type} (t : Tab α) (k : Nat) (d : α) : α := (Tab.get t k).getD d

/-- A table with the entry at a number changed, where there is one. -/
def Tab.upd {α : Type} (t : Tab α) (k : Nat) (f : α → α) : Tab α :=
  match Tab.get t k with
  | some a => Tab.put t k (f a)
  | none => t

/-- A table with the entry at a number changed, a default standing for a missing one. -/
def Tab.updD {α : Type} (t : Tab α) (k : Nat) (d : α) (f : α → α) : Tab α :=
  Tab.put t k (f (Tab.getD t k d))

/-- A list with element `i` changed. -/
def listUpd {α : Type} (l : List α) (i : Nat) (f : α → α) : List α :=
  match l, i with
  | [], _ => []
  | a :: r, 0 => f a :: r
  | a :: r, i + 1 => a :: listUpd r i f

/-! ### Sparse memory

A memory is a list of (address, byte) pairs in strictly rising address order that lists no byte
equal to 0x00, which is what an unlisted address reads as (notes/assumptions/1.md). -/

/-- One byte of a memory. -/
def Mem.read (m : List (Nat × Byte)) (a : Nat) : Byte :=
  match m with
  | [] => 0
  | (k, v) :: r => if k = a then v else if a < k then 0 else Mem.read r a

/-- A memory with one byte written: 0x00 removes the entry. -/
def Mem.write (m : List (Nat × Byte)) (a : Nat) (b : Byte) : List (Nat × Byte) :=
  match m with
  | [] => if b = 0 then [] else [(a, b)]
  | (k, v) :: r =>
      if a < k then (if b = 0 then (k, v) :: r else (a, b) :: (k, v) :: r)
      else if a = k then (if b = 0 then r else (a, b) :: r)
      else (k, v) :: Mem.write r a b

/-- A memory with a byte string written from an address up. -/
def Mem.writeAll (m : List (Nat × Byte)) (a : Nat) : Bytes → List (Nat × Byte)
  | [] => m
  | b :: bs => Mem.writeAll (Mem.write m a b) (a + 1) bs

/-- `n` bytes of a memory. -/
def Mem.readAll (m : List (Nat × Byte)) (a n : Nat) : Bytes :=
  (List.range n).map fun i => Mem.read m (a + i)

/-- Every address is above a bound, addresses rise strictly and no entry is 0x00. -/
def Mem.above (lo : Option Nat) : List (Nat × Byte) → Bool
  | [] => true
  | (k, v) :: r =>
      (match lo with
        | none => true
        | some l => decide (l < k)) && v != 0 && Mem.above (some k) r

/-- A memory is in canonical form. -/
def Mem.wf (m : List (Nat × Byte)) : Bool := Mem.above none m

end Sys2Proof.Machine
end

