-- ==== Sys2Proof/Machine/Jpeg.lean ====
section
/-! DEFINITION. The ITU-T T.81 streams of the capture library: the encoder of
13_capture_and_decode.md R328 and the decoder subset of R331 to R333. The tables and the syntax are
the standard's, which the spec names and does not repeat (PRESUMED, notes/assumptions/21.md). The two
transforms are free values of Config. -/

namespace Sys2Proof.Machine

/-! ### Tables of the standard -/

/-- The natural place of each coefficient in zigzag order. -/
def zigzag : List Nat :=
  [0, 1, 8, 16, 9, 2, 3, 10, 17, 24, 32, 25, 18, 11, 4, 5, 12, 19, 26, 33, 40, 48, 41, 34, 27, 20, 13, 6,
   7, 14, 21, 28, 35, 42, 49, 56, 57, 50, 43, 36, 29, 22, 15, 23, 30, 37, 44, 51, 58, 59, 52, 45, 38, 31,
   39, 46, 53, 60, 61, 54, 47, 55, 62, 63]

/-- Annex K, luminance quantisation, row by row. -/
def quantLum : List Nat :=
  [16, 11, 10, 16, 24, 40, 51, 61, 12, 12, 14, 19, 26, 58, 60, 55, 14, 13, 16, 24, 40, 57, 69, 56,
   14, 17, 22, 29, 51, 87, 80, 62, 18, 22, 37, 56, 68, 109, 103, 77, 24, 35, 55, 64, 81, 104, 113, 92,
   49, 64, 78, 87, 103, 121, 120, 101, 72, 92, 95, 98, 112, 100, 103, 99]

/-- Annex K, chrominance quantisation. -/
def quantChrom : List Nat :=
  [17, 18, 24, 47, 99, 99, 99, 99, 18, 21, 26, 66, 99, 99, 99, 99, 24, 26, 56, 99, 99, 99, 99, 99,
   47, 66, 99, 99, 99, 99, 99, 99] ++ List.replicate 32 99

/-- A Huffman table: the number of codes of each length 1 to 16, and the values. -/
abbrev Huff := List Nat × List Nat

/-- A run of values. -/
def span (a b : Nat) : List Nat := (List.range (b + 1 - a)).map (· + a)

/-- Annex K, DC tables. -/
def dcLum : Huff := ([0, 1, 5, 1, 1, 1, 1, 1, 1, 0, 0, 0, 0, 0, 0, 0], span 0 11)
def dcChrom : Huff := ([0, 3, 1, 1, 1, 1, 1, 1, 1, 1, 1, 0, 0, 0, 0, 0], span 0 11)

/-- Annex K, AC tables. -/
def acLum : Huff :=
  ([0, 2, 1, 3, 3, 2, 4, 3, 5, 5, 4, 4, 0, 0, 1, 0x7D],
   [0x01, 0x02, 0x03, 0x00, 0x04, 0x11, 0x05, 0x12, 0x21, 0x31, 0x41, 0x06, 0x13, 0x51, 0x61, 0x07,
    0x22, 0x71, 0x14, 0x32, 0x81, 0x91, 0xA1, 0x08, 0x23, 0x42, 0xB1, 0xC1, 0x15, 0x52, 0xD1, 0xF0,
    0x24, 0x33, 0x62, 0x72, 0x82] ++ span 0x09 0x0A ++ span 0x16 0x1A ++ span 0x25 0x2A ++
    span 0x34 0x3A ++ span 0x43 0x4A ++ span 0x53 0x5A ++ span 0x63 0x6A ++ span 0x73 0x7A ++
    span 0x83 0x8A ++ span 0x92 0x9A ++ span 0xA2 0xAA ++ span 0xB2 0xBA ++ span 0xC2 0xCA ++
    span 0xD2 0xDA ++ span 0xE1 0xEA ++ span 0xF1 0xFA)
def acChrom : Huff :=
  ([0, 2, 1, 2, 4, 4, 3, 4, 7, 5, 4, 4, 0, 1, 2, 0x77],
   [0x00, 0x01, 0x02, 0x03, 0x11, 0x04, 0x05, 0x21, 0x31, 0x06, 0x12, 0x41, 0x51, 0x07, 0x61, 0x71,
    0x13, 0x22, 0x32, 0x81, 0x08, 0x14, 0x42, 0x91, 0xA1, 0xB1, 0xC1, 0x09, 0x23, 0x33, 0x52, 0xF0,
    0x15, 0x62, 0x72, 0xD1, 0x0A, 0x16, 0x24, 0x34, 0xE1, 0x25, 0xF1] ++ span 0x17 0x1A ++
    span 0x26 0x2A ++ span 0x35 0x3A ++ span 0x43 0x4A ++ span 0x53 0x5A ++ span 0x63 0x6A ++
    span 0x73 0x7A ++ span 0x82 0x8A ++ span 0x92 0x9A ++ span 0xA2 0xAA ++ span 0xB2 0xBA ++
    span 0xC2 0xCA ++ span 0xD2 0xDA ++ span 0xE2 0xEA ++ span 0xF2 0xFA)

/-- The canonical codes of a table: length, code, value. -/
def huffCodes (h : Huff) : List (Nat × Nat × Nat) :=
  let step (a : Nat × List Nat × List (Nat × Nat × Nat)) (x : Nat × Nat) :
      Nat × List Nat × List (Nat × Nat × Nat) :=
    let (code, vals, acc) := a
    let (n, i) := x
    ((code + n) * 2, vals.drop n,
      acc ++ (vals.take n).zipIdx.map fun (v, j) => (i + 1, code + j, v))
  (h.1.zipIdx.foldl step (0, h.2, [])).2.2

/-! ### The encoder (R328) -/

/-- The low `n` bits of a number, highest first. -/
def bitsOf (n v : Nat) : List Bool := (List.range n).map fun i => bit v (n - 1 - i)

/-- The magnitude category of a value. -/
def category (v : Int) : Nat := if v = 0 then 0 else Nat.log2 v.natAbs + 1

/-- The additional bits of a value of a category. -/
def extraBits (v : Int) : List Bool :=
  let n := category v
  bitsOf n (if v < 0 then (v + 2 ^ n - 1).toNat else v.toNat)

/-- The code of a value; nothing for one the table lacks. -/
def codeOf (cs : List (Nat × Nat × Nat)) (v : Nat) : List Bool :=
  match cs.find? fun c => c.2.2 == v with
  | some c => bitsOf c.1 c.2.1
  | none => []

/-- Runs of zeros before the AC coefficients, in zigzag order. -/
def acBits (cs : List (Nat × Nat × Nat)) : Nat → List Int → List Bool
  | run, [] => if run = 0 then [] else codeOf cs 0
  | run, v :: r =>
      if v = 0 then acBits cs (run + 1) r
      else (List.replicate (run / 16) (codeOf cs 0xF0)).flatten ++
        codeOf cs (run % 16 * 16 + category v) ++ extraBits v ++ acBits cs 0 r

/-- The quantisation entry of a table value (R328). -/
def quantEntry (quality : Nat) (twelve : Bool) (t : Nat) : Nat :=
  let s := if quality < 50 then 5000 / max 1 quality else 200 - 2 * quality
  let q := if twelve then (16 * t * s + 50) / 100 else (t * s + 50) / 100
  max 1 (min q (if twelve then 4095 else 255))

/-- The quantised coefficients of a block in zigzag order: the encoder's own transform, rounded, and
for a value beyond what the Annex K tables code, a free value within it. -/
def quantBlock (q : List Nat) (block : List Int) : List Int :=
  zigzag.map fun k =>
    let lo : Int := if k = 0 then -1024 else -1023
    let d : Int := ((q.getD k 1 : Nat) : Int)
    let c := Config.encoderCoef block k
    let v := (2 * c + d) / (2 * d)
    if lo ≤ v ∧ v ≤ 1023 then v else Config.encoderCoef block (64 + k) % (1024 - lo) + lo

/-- The bits of a block after a DC prediction, and its DC value. -/
def blockBits (dc ac : List (Nat × Nat × Nat)) (pred : Int) (z : List Int) : List Bool × Int :=
  let v := z.headD 0
  let diff := v - pred
  (codeOf dc (category diff) ++ extraBits diff ++ acBits ac 0 z.tail, v)

/-- Bits packed into bytes, filled with ones. -/
def packBits : Nat → List Bool → List Nat
  | 0, _ => []
  | _ + 1, [] => []
  | n + 1, bs =>
      let t := bs.take 8 ++ List.replicate (8 - (bs.take 8).length) true
      t.foldl (fun a b => 2 * a + b2n b) 0 :: packBits n (bs.drop 8)

/-- Entropy-coded bytes with a zero stuffed after each 0xFF. -/
def stuff (bs : List Nat) : List Nat := bs.flatMap fun b => if b = 0xFF then [0xFF, 0] else [b]

/-- Two bytes, big-endian. -/
def be2 (v : Nat) : List Nat := [v / 256 % 256, v % 256]

/-- A sample of a component plane, the last column and line repeated. -/
def planeAt (p : List (List Nat)) (y x : Nat) : Nat :=
  let row := p.getD (min y (p.length - 1)) []
  row.getD (min x (row.length - 1)) 0

/-- One MCU row: a restart interval (R328). -/
def mcuRow (planes : List (List (List Nat))) (qs : List (List Nat)) (twelve : Bool) (cols y : Nat) :
    List Nat :=
  let shift : Int := if twelve then 2048 else 128
  let step (a : List Bool × List Int) (x : Nat) : List Bool × List Int :=
    planes.zipIdx.foldl (fun a (p, c) =>
      let block : List Int := (List.range 64).map fun k =>
        ((planeAt p (8 * y + k / 8) (8 * x + k % 8) : Nat) : Int) - shift
      let h := if c = 0 then (dcLum, acLum) else (dcChrom, acChrom)
      let (bs, v) := blockBits (huffCodes h.1) (huffCodes h.2) (a.2.getD c 0)
        (quantBlock (qs.getD c []) block)
      (a.1 ++ bs, a.2.set c v)) a
  let bits := ((List.range cols).foldl step ([], [0, 0, 0])).1
  stuff (packBits bits.length bits)

/-- The stream of a crop: component planes, row by row (R328). -/
def jpegEncode (quality : Nat) (twelve : Bool) (planes : List (List (List Nat))) : Bytes :=
  let h := (planes.headD []).length
  let w := ((planes.headD []).headD []).length
  let n := planes.length
  let qs := (List.range n).map fun c => (if c = 0 then quantLum else quantChrom).map (quantEntry quality twelve)
  let one (k : Nat) : List Nat := if twelve then be2 k else [k]
  let dqt := qs.zipIdx.flatMap fun (q, c) => (b2n twelve * 16 + c) :: zigzag.flatMap fun k => one (q.getD k 1)
  let sof := [if twelve then 12 else 8] ++ be2 h ++ be2 w ++ [n] ++
    (List.range n).flatMap fun c => [c + 1, 0x11, c]
  let table (cls id : Nat) (t : Huff) : List Nat := (cls * 16 + id) :: t.1 ++ t.2
  let dht := table 0 0 dcLum ++ table 1 0 acLum ++
    (if 1 < n then table 0 1 dcChrom ++ table 1 1 acChrom else [])
  let sos := n :: ((List.range n).flatMap fun c => [c + 1, if c = 0 then 0 else 0x11]) ++ [0, 63, 0]
  let seg (m : Nat) (body : List Nat) : List Nat := [0xFF, m] ++ be2 (body.length + 2) ++ body
  let cols := ceilDiv w 8
  let rows := ceilDiv h 8
  let scan := (List.range rows).flatMap fun y =>
    mcuRow planes qs twelve cols y ++ (if y + 1 < rows then [0xFF, 0xD0 + y % 8] else [])
  ([0xFF, 0xD8] ++ seg 0xDB dqt ++ seg (if twelve then 0xC1 else 0xC0) sof ++ seg 0xC4 dht ++
    seg 0xDD (be2 cols) ++ seg 0xDA sos ++ scan ++ [0xFF, 0xD9]).map (BitVec.ofNat 8)

/-! ### Reading a stream (R331, R332) -/

/-- A stretch of entropy-coded bytes with their offsets, and the RSTn that ends it, if one does. -/
abbrev Chunk := List (Nat × Nat) × Option Nat

/-- What the segments of a stream say. `bad`: a feature outside R331 was met; `cut`: the entropy data ran into the end of
the data and not into a marker. -/
structure Jpg where
  quant : Tab (List Nat) := []
  huff : Tab Huff := []
  dri : Nat := 0
  sof : Option (Bool × Nat × Nat × List (Nat × Nat × Nat × Nat)) := none
  scan : Option (List (Nat × Nat × Nat)) := none
  chunks : List Chunk := []
  bad : Bool := false
  stop : Nat := 0
  cut : Bool := false

/-- Two bytes at an offset, big-endian. -/
def beAt (d : Bytes) (o : Nat) : Nat := byteAt d o * 256 + byteAt d (o + 1)

/-- DQT: tables of 8-bit or 16-bit entries. -/
def readDqt (j : Jpg) : Nat → Bytes → Jpg
  | 0, _ => j
  | n + 1, b =>
      if b.isEmpty then j else
      let t := byteAt b 0
      let e := if t / 16 = 0 then 1 else 2
      if 1 < t / 16 ∨ 3 < t % 16 ∨ b.length < 1 + 64 * e then { j with bad := true } else
      let z := (List.range 64).map fun k => if e = 1 then byteAt b (1 + k) else beAt b (1 + 2 * k)
      readDqt { j with quant := Tab.put j.quant (t % 16) z } n (b.drop (1 + 64 * e))

/-- DHT. -/
def readDht (j : Jpg) : Nat → Bytes → Jpg
  | 0, _ => j
  | n + 1, b =>
      if b.isEmpty then j else
      let t := byteAt b 0
      let bits := (List.range 16).map fun k => byteAt b (1 + k)
      let m := bits.foldl (· + ·) 0
      if 1 < t / 16 ∨ 3 < t % 16 ∨ b.length < 17 + m then { j with bad := true } else
      readDht { j with huff := Tab.put j.huff t (bits, (List.range m).map fun k => byteAt b (17 + k)) } n
        (b.drop (17 + m))

/-- SOF0 or SOF1: one frame of one to three components, only the first of which is sampled at 2. -/
def readSof (j : Jpg) (extended : Bool) (b : Bytes) : Jpg :=
  let p := byteAt b 0
  let n := byteAt b 5
  let cs := (List.range n).map fun i =>
    (byteAt b (6 + 3 * i), byteAt b (7 + 3 * i) / 16, byteAt b (7 + 3 * i) % 16, byteAt b (8 + 3 * i))
  let okC := cs.zipIdx.all fun ((_, h, v, q), i) => decide (q ≤ 3) &&
    (if i = 0 then (h == 1 || h == 2) && (v == 1 || v == 2) else h == 1 && v == 1)
  if j.sof.isSome || !(p == 8 || (extended && p == 12)) || !(1 ≤ n && n ≤ 3) || b.length != 6 + 3 * n || !okC
  then { j with bad := true }
  else { j with sof := some (p == 12, beAt b 1, beAt b 3, cs) }

/-- SOS: one scan of every component, with its tables defined. -/
def readSos (j : Jpg) (b : Bytes) : Jpg :=
  let n := byteAt b 0
  let cs := (List.range n).map fun i =>
    (byteAt b (1 + 2 * i), byteAt b (2 + 2 * i) / 16, byteAt b (2 + 2 * i) % 16)
  match j.sof with
  | none => { j with bad := true }
  | some (_, _, _, fs) =>
      let ok := j.scan.isNone && b.length == 4 + 2 * n && cs.map Prod.fst == fs.map Prod.fst &&
        (byteAt b (1 + 2 * n) == 0 && byteAt b (2 + 2 * n) == 63 && byteAt b (3 + 2 * n) == 0) &&
        (cs.all fun c => (Tab.get j.huff c.2.1).isSome && (Tab.get j.huff (16 + c.2.2)).isSome) &&
        (fs.all fun f => (Tab.get j.quant f.2.2.2).isSome)
      if ok then { j with scan := some cs } else { j with bad := true }

/-- Entropy-coded data: stuffed zeros and fill bytes go, RSTn ends a chunk; the offset of the marker
that ends the scan, or of the end. -/
def readEntropy : Nat → Bytes → Nat → List (Nat × Nat) → List Chunk → List Chunk × Nat
  | 0, _, o, cur, acc => (acc ++ [(cur.reverse, none)], o)
  | n + 1, b, o, cur, acc =>
      match b with
      | [] => (acc ++ [(cur.reverse, none)], o)
      | x :: r =>
          if x.toNat ≠ 0xFF then readEntropy n r (o + 1) ((x.toNat, o) :: cur) acc
          else match r with
            | [] => (acc ++ [(cur.reverse, none)], o)
            | y :: r2 =>
                let v := y.toNat
                if v = 0 then readEntropy n r2 (o + 2) ((0xFF, o) :: cur) acc
                else if v = 0xFF then readEntropy n r (o + 1) cur acc
                else if 0xD0 ≤ v ∧ v ≤ 0xD7 then
                  readEntropy n r2 (o + 2) [] (acc ++ [(cur.reverse, some (v - 0xD0))])
                else (acc ++ [(cur.reverse, none)], o)

/-- The markers and segments from an offset on. -/
def readSegs (d : Bytes) : Nat → Nat → Jpg → Jpg
  | 0, _, j => j
  | n + 1, o, j =>
      if j.bad then j else
      if d.length < o + 2 then { j with stop := d.length } else
      if byteAt d o ≠ 0xFF then { j with bad := true } else
      let m := byteAt d (o + 1)
      if m = 0xFF then readSegs d n (o + 1) j
      else if m = 0xD9 then { j with stop := o }
      else if m = 0x01 ∨ m = 0 ∨ (0xD0 ≤ m ∧ m ≤ 0xD8) then { j with bad := true }
      else if d.length < o + 4 ∨ d.length < o + 2 + beAt d (o + 2) then { j with stop := o }
      else
        let len := beAt d (o + 2)
        let b := bytesAt d (o + 4) (len - 2)
        let next := o + 2 + len
        if len < 2 then { j with bad := true }
        else if m = 0xDB then readSegs d n next (readDqt j len b)
        else if m = 0xC4 then readSegs d n next (readDht j len b)
        else if m = 0xDD then readSegs d n next { j with dri := beAt b 0, bad := decide (b.length ≠ 2) }
        else if m = 0xC0 ∨ m = 0xC1 then readSegs d n next (readSof j (m == 0xC1) b)
        else if (0xE0 ≤ m ∧ m ≤ 0xEF) ∨ m = 0xFE then readSegs d n next j
        else if m = 0xDA then
          let j := readSos j b
          if j.bad then j else
          let (cs, e) := readEntropy (d.length + 1) (d.drop next) next [] []
          readSegs d n e { j with chunks := cs, cut := decide (d.length < e + 2) }
        else { j with bad := true }

/-- The segments of a whole sample. -/
def readJpeg (d : Bytes) : Jpg :=
  if byteAt d 0 ≠ 0xFF ∨ byteAt d 1 ≠ 0xD8 then { bad := true }
  else readSegs d (d.length + 1) 2 {}

/-- The geometry of a frame: MCU columns and rows, and the blocks of the first component in an MCU. -/
def Jpg.mcus (j : Jpg) : Nat × Nat × Nat × Nat :=
  match j.sof with
  | some (_, y, x, (_, h, v, _) :: r) =>
      if r.isEmpty then (ceilDiv x 8, ceilDiv y 8, 1, 1) else (ceilDiv x (8 * h), ceilDiv y (8 * v), h, v)
  | _ => (0, 0, 1, 1)

/-- The number of components. -/
def Jpg.comps (j : Jpg) : Nat := ((j.sof.map fun f => f.2.2.2.length)).getD 0

/-- The checks of R332 in their order: the code, if one fails. -/
def Jpg.refused (j : Jpg) (maxW maxH : Nat) : Option Nat :=
  let (mx, my, h, v) := j.mcus
  let blocks := mx * my * (h * v + (j.comps - 1))
  let bits := 8 * (j.chunks.foldl (fun t c => t + c.1.length) 0)
  if j.bad then some 0x43
  else match j.sof with
    | some (_, y, x, _) =>
        if x = 0 ∨ y = 0 ∨ maxW < x ∨ maxH < y then some 0x44
        else if j.scan.isNone ∨ bits < 2 * blocks then some 0x41 else none
    | none => some 0x41

/-! ### Entropy decoding (R333) -/

/-- The bits of a chunk with the offsets of their bytes. -/
def chunkBits (c : List (Nat × Nat)) : List (Bool × Nat) :=
  c.flatMap fun (b, o) => (bitsOf 8 b).map fun x => (x, o)

/-- The number that some bits spell. -/
def bitsNat (bs : List (Bool × Nat)) : Nat := bs.foldl (fun a b => 2 * a + b2n b.1) 0

/-- The next Huffman value. -/
def nextCode (cs : List (Nat × Nat × Nat)) (bs : List (Bool × Nat)) : Option (Nat × List (Bool × Nat)) :=
  (List.range 16).findSome? fun i =>
    if bs.length < i + 1 then none else
    let v := bitsNat (bs.take (i + 1))
    (cs.find? fun c => c.1 == i + 1 && c.2.1 == v).map fun c => (c.2.2, bs.drop (i + 1))

/-- A value of a category from its additional bits. -/
def nextExtra (n : Nat) (bs : List (Bool × Nat)) : Option (Int × List (Bool × Nat)) :=
  if bs.length < n then none else
  let v := bitsNat (bs.take n)
  some (if n = 0 then 0 else if v < 2 ^ (n - 1) then (v : Int) - 2 ^ n + 1 else (v : Int), bs.drop n)

/-- The AC coefficients from zigzag place `k` on, by place. -/
def nextAc (cs : List (Nat × Nat × Nat)) : Nat → Nat → List (Bool × Nat) → Tab Int →
    Option (Tab Int × List (Bool × Nat))
  | 0, _, bs, acc => some (acc, bs)
  | n + 1, k, bs, acc =>
      if 63 < k then some (acc, bs) else
      match nextCode cs bs with
      | none => none
      | some (v, bs) =>
          let run := v / 16
          let size := v % 16
          if size = 0 then
            if run = 15 then (if 63 < k + 15 then none else nextAc cs n (k + 16) bs acc)
            else if run = 0 then some (acc, bs) else none
          else if 63 < k + run then none
          else match nextExtra size bs with
            | none => none
            | some (x, bs) => nextAc cs n (k + run + 1) bs (Tab.put acc (k + run) x)

/-- A block: its coefficients in natural order before dequantisation, and its DC value. -/
def nextBlock (dc ac : List (Nat × Nat × Nat)) (pred : Int) (bs : List (Bool × Nat)) :
    Option (List Int × Int × List (Bool × Nat)) :=
  match nextCode dc bs with
  | none => none
  | some (t, bs) =>
      if 15 < t then none else
      match nextExtra t bs with
      | none => none
      | some (d, bs) => match nextAc ac 64 1 bs [] with
          | none => none
          | some (acs, bs) =>
              let z : Tab Int := Tab.put acs 0 (pred + d)
              some ((List.range 64).map fun k => Tab.getD z (zigzag.idxOf k) 0, pred + d, bs)

/-- The blocks of MCU `m`: component, block row and block column. -/
def Jpg.blocksOf (j : Jpg) (m : Nat) : List (Nat × Nat × Nat) :=
  let (mx, _, h, v) := j.mcus
  let my := m / max 1 mx
  let mcol := m % max 1 mx
  ((List.range (h * v)).map fun k => (0, my * v + k / h, mcol * h + k % h)) ++
    (List.range (j.comps - 1)).map fun c => (c + 1, my, mcol)

/-- What decoding has reached: blocks by place, lost MCUs, and where the first error was found. -/
structure Decoded where
  blocks : List ((Nat × Nat × Nat) × List Int) := []
  lost : List Nat := []
  errAt : Option Nat := none
  deriving DecidableEq, Repr

/-- The tables of a component: DC codes, AC codes, quantisation in zigzag order. -/
def Jpg.tables (j : Jpg) (c : Nat) : List (Nat × Nat × Nat) × List (Nat × Nat × Nat) × List Nat :=
  match j.scan, j.sof with
  | some cs, some (_, _, _, fs) =>
      let x := cs.getD c (0, 0, 0)
      (huffCodes (Tab.getD j.huff x.2.1 ([], [])), huffCodes (Tab.getD j.huff (16 + x.2.2) ([], [])),
        Tab.getD j.quant ((fs.getD c (0, 0, 0, 0)).2.2.2) [])
  | _, _ => ([], [], [])

/-- The blocks of an interval: after an error the rest of it is lost. -/
def Jpg.interval (j : Jpg) (endAt : Nat) :
    List (Nat × Nat × Nat × Nat) → List (Bool × Nat) → List Int → Decoded → Decoded
  | [], _, _, d => d
  | (m, b) :: r, bs, preds, d =>
      let (dc, ac, q) := j.tables b.1
      match nextBlock dc ac (preds.getD b.1 0) bs with
      | some (co, v, bs) =>
          let deq := co.zipIdx.map fun (x, k) => x * ((q.getD (zigzag.idxOf k) 1 : Nat) : Int)
          Jpg.interval j endAt r bs (preds.set b.1 v) { d with blocks := (b, deq) :: d.blocks }
      | none =>
          { d with lost := d.lost ++ (m :: r.map Prod.fst).dedup.filter fun m => !d.lost.contains m
                   errAt := d.errAt.orElse fun _ => some ((bs.head?.map Prod.snd).getD endAt) }

/-- The MCUs of interval `i`. -/
def Jpg.mcusOf (j : Jpg) (i : Nat) : List Nat :=
  let (mx, my, _, _) := j.mcus
  let n := if j.dri = 0 then mx * my else j.dri
  (List.range (min n (mx * my - i * n))).map (· + i * n)

/-- All MCUs of an interval are lost. -/
def Decoded.lose (d : Decoded) (ms : List Nat) (at' : Nat) : Decoded :=
  { d with lost := d.lost ++ ms, errAt := d.errAt.orElse fun _ => some at' }

/-- The intervals in turn. One that ends with a marker other than the expected RSTn is lost, and decoding goes on after
the next RSTn in sequence, which is the expected one (DEDUCED, notes/assumptions/151.md); one that the end of the data
cuts has the blocks before the cut. -/
def Jpg.intervals (j : Jpg) : Nat → Nat → List Chunk → Decoded → Decoded
  | 0, _, _, d => d
  | n + 1, i, cs, d =>
      let ms := j.mcusOf i
      if ms.isEmpty then d else
      let last := (j.mcusOf (i + 1)).isEmpty
      match cs with
      | [] => Jpg.intervals j n (i + 1) [] (d.lose ms j.stop)
      | c :: r =>
          let at' := ((c.1.getLast?.map Prod.snd).getD j.stop)
          let places := ms.flatMap fun m => (j.blocksOf m).map fun b => (m, b)
          if last ∨ c.2 = some (i % 8) then
            Jpg.intervals j n (i + 1) r (j.interval at' places (chunkBits c.1) [0, 0, 0] d)
          else if c.2 = none ∧ j.cut then
            Jpg.intervals j n (i + 1) [] (j.interval at' places (chunkBits c.1) [0, 0, 0] d)
          else
            let skip := r.dropWhile fun x => x.2 != some (i % 8)
            Jpg.intervals j n (i + 1) (skip.drop 1) (d.lose ms at')

/-- The samples of a block: a decoded one, or for a lost one those of the block above it, or
mid-grey (R333). -/
def Decoded.samples (d : Decoded) (twelve : Bool) (c bx by' : Nat) : List Nat :=
    let top : Int := if twelve then 4095 else 255
    let mid : Int := if twelve then 2048 else 128
    let here (y : Nat) : Option (List Nat) := (d.blocks.find? fun b => b.1 == (c, y, bx)).map fun b =>
      (List.range 64).map fun k => (max 0 (min top (Config.decoderSample b.2 k + mid))).toNat
    ((List.range (by' + 1)).findSome? fun k => here (by' - k)).getD (List.replicate 64 mid.toNat)

/-- The planes of a decoded sample at the resolution of component 0 (R331). -/
def Jpg.planes (j : Jpg) (d : Decoded) : List (List (List Nat)) :=
  match j.sof with
  | none => []
  | some (twelve, y, x, _) =>
      let (_, _, h, v) := j.mcus
      (List.range j.comps).map fun c =>
        let (dy, dx) := if c = 0 then (1, 1) else (v, h)
        (List.range y).map fun yy => (List.range x).map fun xx =>
          let py := yy / dy
          let px := xx / dx
          (d.samples twelve c (px / 8) (py / 8)).getD (py % 8 * 8 + px % 8) 0

/-- A sample decoded as far as its bytes allow. -/
def Jpg.decode (j : Jpg) : Decoded :=
  let (mx, my, _, _) := j.mcus
  j.intervals (mx * my) 0 (if j.dri = 0 then (j.chunks.take 1).map fun c => (c.1, none) else j.chunks) {}

end Sys2Proof.Machine
end

