-- ==== Sys2Proof/Machine/Arith.lean ====
section
/-! DEFINITION. Element formats, exact values, rounding and conversion, the vector functions and
the register reductions (06_arithmetic.md R144 to R163). Each function that can set a bit of
ARITH_STATUS answers the bits beside its result. -/

namespace Sys2Proof.Machine

/-! ### Values -/

/-- A value that an element can hold: not a number, an infinity, or a finite magnitude with a sign
(zero has one, R147). -/
inductive Val where
  | nan
  | inf (neg : Bool)
  | fin (neg : Bool) (m : Rat)
  deriving DecidableEq, Repr

namespace Val

/-- The value of an exact number; zero is +0. -/
def ofRat (q : Rat) : Val := if q < 0 then .fin true (-q) else .fin false q

/-- The value of an integer. -/
def ofInt (z : Int) : Val := ofRat (z : Rat)

/-- The exact number a finite value is; 0 for the others. -/
def rat : Val → Rat
  | .fin true m => -m
  | .fin false m => m
  | _ => 0

def isNan : Val → Bool
  | .nan => true
  | _ => false

/-- The exact product (R147). -/
def mul : Val → Val → Val
  | .nan, _ => .nan
  | _, .nan => .nan
  | .inf a, .inf b => .inf (a != b)
  | .inf a, .fin b m => if m = 0 then .nan else .inf (a != b)
  | .fin a m, .inf b => if m = 0 then .nan else .inf (a != b)
  | .fin a m, .fin b n => .fin (a != b) (m * n)

/-- The exact sum (R147). -/
def add : Val → Val → Val
  | .nan, _ => .nan
  | _, .nan => .nan
  | .inf a, .inf b => if a = b then .inf a else .nan
  | .inf a, .fin _ _ => .inf a
  | .fin _ _, .inf b => .inf b
  | .fin a m, .fin b n =>
      if a = b then .fin a (m + n)
      else if m = n then .fin false 0
      else if n < m then .fin a (m - n) else .fin b (n - m)

/-- The value of opposite sign. -/
def neg : Val → Val
  | .nan => .nan
  | .inf a => .inf (!a)
  | .fin a m => .fin (!a) m

/-- The exact quotient. -/
def div : Val → Val → Val
  | .nan, _ => .nan
  | _, .nan => .nan
  | .inf _, .inf _ => .nan
  | .inf a, .fin b _ => .inf (a != b)
  | .fin a _, .inf b => .fin (a != b) 0
  | .fin a m, .fin b n =>
      if n = 0 then (if m = 0 then .nan else .inf (a != b)) else .fin (a != b) (m / n)

/-- A total order of the numbers, with -0 below +0: that of minimum and maximum (R160). -/
def lt : Val → Val → Bool
  | .nan, _ => false
  | _, .nan => false
  | .inf a, .inf b => a && !b
  | .inf a, .fin _ _ => a
  | .fin _ _, .inf b => !b
  | .fin a m, .fin b n =>
      if m = 0 ∧ n = 0 then a && !b
      else decide ((if a then -m else m) < (if b then -n else n))

/-- A comparison: IEEE 754, so -0 equals +0 and a NaN is unordered (R160). -/
def less : Val → Val → Bool
  | .fin a m, .fin b n => decide ((if a then -m else m) < (if b then -n else n))
  | a, b => a.lt b

/-- Maximum of R160: a NaN gives way to the other operand. -/
def max (a b : Val) : Val := if a.isNan then b else if b.isNan then a else if a.lt b then b else a

/-- Minimum of R160. -/
def min (a b : Val) : Val := if a.isNan then b else if b.isNan then a else if b.lt a then b else a

/-- Limits a number; a NaN is not limited (R158). -/
def clamp (v lo hi : Val) : Val :=
  if v.isNan then v else if v.less lo then lo else if hi.less v then hi else v

end Val

/-! ### Formats (R144 to R146) -/

/-- A code of R144. -/
def fmtKnown (f : Nat) : Bool := (1 ≤ f && f ≤ 7) || (0x10 ≤ f && f ≤ 0x14) || f == 0x20

/-- A floating-point format. -/
def fmtFloat (f : Nat) : Bool := 0x10 ≤ f && f ≤ 0x14

/-- An integer format. -/
def fmtInt (f : Nat) : Bool := 1 ≤ f && f ≤ 7

/-- The bits of an element. -/
def fmtBits (f : Nat) : Nat :=
  match f with
  | 0x01 | 0x02 => 4
  | 0x03 | 0x04 | 0x10 | 0x11 => 8
  | 0x05 | 0x06 | 0x12 | 0x13 => 16
  | 0x07 | 0x14 => 32
  | _ => 128

/-- The bytes that `n` elements of a format take. -/
def fmtBytes (f n : Nat) : Nat := (n * fmtBits f + 7) / 8

/-! ### Tensor layouts (R129 to R131) -/

/-- Planar layout: the byte of element (x, c) in its row of `w` columns (R129). -/
def planarByte (f w x c : Nat) : Nat := c * roundUp (fmtBytes f w) 64 + x * fmtBytes f 1

/-- The channels of a block: 32 for elements of 1 B or less, else 16 (R131). -/
def blockChannels (f : Nat) : Nat := if fmtBits f ≤ 8 then 32 else 16

/-- Bytes of one block of a channel-blocked row of `w` columns (R130). -/
def blockBytes (f w : Nat) : Nat := roundUp (fmtBytes f (w * blockChannels f)) 64

/-- Bytes of a channel-blocked row of `w` columns and `c` channels, the last block whole (R130). -/
def blockedRowBytes (f w c : Nat) : Nat := ceilDiv c (blockChannels f) * blockBytes f w

/-- Channel-blocked layout: the byte of element (x, c) in its row of `w` columns, and the bit it starts at within
that byte: two INT4 channels share a byte (R130). -/
def blockedAt (f w x c : Nat) : Nat × Nat :=
  let b := blockChannels f
  let bits := (x * b + c % b) * fmtBits f
  (c / b * blockBytes f w + bits / 8, bits % 8)

/-- The bytes of a channel-blocked row from its columns' channel codes; channels beyond the last hold 0 (R130). -/
def blockedRow (f c : Nat) (row : List (List Nat)) : Bytes :=
  let b := blockChannels f
  (List.range (ceilDiv c b)).flatMap fun k =>
    let codes := row.flatMap fun px => (List.range b).map fun i => px.getD (k * b + i) 0
    let bytes := if fmtBits f = 4 then
        (List.range (codes.length / 2)).map fun i =>
          BitVec.ofNat 8 (codes.getD (2 * i) 0 % 16 + codes.getD (2 * i + 1) 0 % 16 * 16)
      else codes.flatMap fun v => natLe (fmtBits f / 8) v
    bytes ++ List.replicate (blockBytes f row.length - bytes.length) 0

/-- The range of an integer format. -/
def fmtRange (f : Nat) : Int × Int :=
  match f with
  | 0x01 => (-8, 7)
  | 0x02 => (-2040, 1785)
  | 0x03 => (-128, 127)
  | 0x04 => (0, 255)
  | 0x05 => (-32768, 32767)
  | 0x06 => (0, 65535)
  | _ => (-2147483648, 2147483647)

/-- Exponent bits, mantissa bits and bias of a floating-point format. -/
def fmtFields (f : Nat) : Nat × Nat × Int :=
  match f with
  | 0x10 => (4, 3, 7)
  | 0x11 => (5, 2, 15)
  | 0x12 => (5, 10, 15)
  | 0x13 => (8, 7, 127)
  | _ => (8, 23, 127)

/-- The canonical NaN of a format. -/
def fmtNan (f : Nat) : Nat :=
  match f with
  | 0x10 => 0x7F
  | 0x11 => 0x7E
  | 0x12 => 0x7E00
  | 0x13 => 0x7FC0
  | _ => 0x7FC00000

/-- A power of two. -/
def pow2 (z : Int) : Rat := if 0 ≤ z then (2 : Rat) ^ z.toNat else 1 / (2 : Rat) ^ (-z).toNat

/-- The value of an element's encoding (R145, R146). -/
def decodeEl (f code : Nat) : Val :=
  if fmtFloat f then
    let (e, m, bias) := fmtFields f
    let s := bit code (e + m)
    let x := slice code m e
    let y := slice code 0 m
    if x = 2 ^ e - 1 ∧ f ≠ 0x10 then (if y = 0 then .inf s else .nan)
    else if f = 0x10 ∧ x = 15 ∧ y = 7 then .nan
    else if x = 0 then .fin s ((y : Rat) * pow2 (1 - bias - m))
    else .fin s (((2 ^ m + y : Nat) : Rat) * pow2 ((x : Int) - bias - m))
  else if f = 0x04 ∨ f = 0x06 then Val.ofInt (code % 2 ^ fmtBits f : Nat)
  else Val.ofInt (toSigned (fmtBits f) code)

/-! ### Rounding (R148) -/

/-- The nearest integer, ties to even. -/
def rneInt (q : Rat) : Int :=
  let f := q.floor
  let r := q - (f : Rat)
  if r < 1 / 2 then f else if 1 / 2 < r then f + 1 else if f % 2 = 0 then f else f + 1

/-- The exponent of the leading bit of a positive number. -/
def log2Floor (m : Rat) : Int :=
  let e : Int := (Nat.log2 m.num.natAbs : Int) - Nat.log2 m.den
  if m < pow2 e then e - 1 else e

/-- The encoding of a magnitude rounded to a format, without its sign, and whether it lies beyond
the largest finite value. Halfway beyond that value is beyond it (R148's example of 464.0). -/
def roundMag (f : Nat) (m : Rat) : Nat × Bool :=
  let (e, mb, bias) := fmtFields f
  let top : Nat := if f = 0x10 then 0x7E else (2 ^ e - 1) * 2 ^ mb - 1
  if m = 0 then (0, false) else
  let ex := max (log2Floor m) (1 - bias)
  let quantum := pow2 (ex - mb)
  let n := (rneInt (m / quantum)).toNat
  let code := ((ex + bias - 1) * 2 ^ mb).toNat + n
  let limit := (decodeEl f top).rat + pow2 ((2 ^ e - 2 : Nat) - bias - mb + (if f = 0x10 then 1 else 0)) / 2
  if top < code ∨ limit ≤ m then (top, true) else (code, false)

namespace Arith
abbrev intSat : Nat := 0x01
abbrev floatSat : Nat := 0x02
abbrev infOut : Nat := 0x04
abbrev nanOut : Nat := 0x08
abbrev nanIn : Nat := 0x10
abbrev domain : Nat := 0x20
abbrev zeroSize : Nat := 0x40
abbrev padFallback : Nat := 0x80
end Arith

/-- A value rounded to a floating-point format, with the status bits it sets (R148). -/
def roundFloat (f : Nat) (infOut : Bool) (v : Val) : Nat × Nat :=
  let (e, m, _) := fmtFields f
  let sign (s : Bool) : Nat := b2n s * 2 ^ (e + m)
  let top : Nat := if f = 0x10 then 0x7E else (2 ^ e - 1) * 2 ^ m - 1
  let infC : Nat := (2 ^ e - 1) * 2 ^ m
  match v with
  | .nan => (fmtNan f, Arith.nanOut)
  | .inf s => if f = 0x10 then (sign s + top, Arith.floatSat) else (sign s + infC, Arith.infOut)
  | .fin s q =>
      let (c, over') := roundMag f q
      if over' then
        if infOut && f != 0x10 then (sign s + infC, Arith.infOut) else (sign s + top, Arith.floatSat)
      else (sign s + c, 0)

/-- A value rounded to FP32 inside a chain: beyond the range is an infinity (R156). -/
def round32 (v : Val) : Val :=
  match v with
  | .fin s q =>
      let (c, over') := roundMag 0x14 q
      if over' then .inf s else .fin s (decodeEl 0x14 c).rat
  | v => v

/-- An FP32 operation of the vector engine: correctly rounded, the largest finite value beyond the range (R148,
R160). -/
def op32 (v : Val) : Val := decodeEl 0x14 (roundFloat 0x14 false v).1

/-- A value saturated to an integer format (R148): the zero point stands for a NaN. -/
def roundInt (f : Nat) (zero : Int) (v : Val) : Int × Nat :=
  let (lo, hi) := fmtRange f
  match v with
  | .nan => (zero, Arith.nanOut)
  | .inf s => (if s then lo else hi, Arith.intSat)
  | v => (rneInt v.rat, 0)

/-- An integer in its format, saturated. -/
def satInt (f : Nat) (y : Int) : Nat × Nat :=
  let (lo, hi) := fmtRange f
  if y < lo then (toUnsigned (fmtBits f) lo, Arith.intSat)
  else if hi < y then (toUnsigned (fmtBits f) hi, Arith.intSat)
  else (toUnsigned (fmtBits f) y, 0)

/-! ### The arithmetic descriptor and requantisation (R150, R151, R158) -/

/-- The arithmetic descriptor of an operator. -/
structure Desc where
  in0 : Nat
  in1 : Nat
  out : Nat
  clampEn : Bool
  infOut : Bool
  inZero : Int
  outZero : Int
  qtab : Option Nat
  clampMin : Nat
  clampMax : Nat
  deriving DecidableEq, Repr

/-- The descriptor in bytes 0x00 to 0x0F of PARAMS. -/
def Desc.ofParams (p : Bytes) : Desc :=
  { in0 := byteAt p 0, in1 := byteAt p 1, out := byteAt p 2
    clampEn := bit (byteAt p 3) 0, infOut := bit (byteAt p 3) 1
    inZero := sleAt p 4 2, outZero := sleAt p 6 2
    qtab := if leAt p 8 4 = 0xFFFFFFFF then none else some (leAt p 8 4)
    clampMin := leAt p 0xC 2, clampMax := leAt p 0xE 2 }

/-- A clamp bound of a floating-point OUT, a BF16 encoding, as a value of OUT (R148). -/
def Desc.bound (d : Desc) (c : Nat) : Val := decodeEl d.out (roundFloat d.out false (decodeEl 0x13 c)).1

/-- The result of an operator from its accumulator times its scale (R158). -/
def Desc.convert (d : Desc) (v : Val) : Nat × Nat :=
  if fmtFloat d.out then
    let (c, st) := roundFloat d.out d.infOut v
    if d.clampEn && !v.isNan then
      let y := (decodeEl d.out c).clamp (d.bound d.clampMin) (d.bound d.clampMax)
      ((roundFloat d.out true y).1, st)
    else (c, st)
  else
    match v with
    | .nan => ((satInt d.out d.outZero).1, Arith.nanOut)
    | v =>
        let (y, st) := roundInt d.out d.outZero v
        let y := match v with
          | .inf _ => y
          | _ => y + d.outZero
        let y := if d.clampEn then
            max (toSigned 16 d.clampMin) (min y (toSigned 16 d.clampMax)) else y
        let (c, st') := satInt d.out y
        (c, st ||| st')

/-- A value of OUT's own format, limited by CLAMP_EN: nothing is rounded; a NaN is written in its canonical form
(R147, R158, R187). -/
def Desc.limit (d : Desc) (v : Val) : Nat × Nat :=
  if fmtFloat d.out then
    let y := if d.clampEn then v.clamp (d.bound d.clampMin) (d.bound d.clampMax) else v
    roundFloat d.out true y
  else
    let y := v.rat.floor
    ((satInt d.out (if d.clampEn then max (toSigned 16 d.clampMin) (min y (toSigned 16 d.clampMax)) else y)).1, 0)

/-- BIAS and SCALE of an output channel from the bytes of a QTAB entry (R150). -/
def qtabBias (q : Option Bytes) (isInt : Bool) (c : Nat) : Val :=
  match q with
  | none => .fin false 0
  | some b => if isInt then Val.ofInt (sleAt b (16 * c) 4) else decodeEl 0x14 (leAt b (16 * c) 4)

/-- The SCALE of an output channel. -/
def qtabScale (q : Option Bytes) (c : Nat) : Val :=
  match q with
  | none => .fin false 1
  | some b => decodeEl 0x14 (leAt b (16 * c + 4) 4)

/-! ### Weights (R149, R155) -/

/-- Element `k` of a weight tensor of a format and element count. -/
def weightEl (f elements : Nat) (b : Bytes) (k : Nat) : Val :=
  match f with
  | 0x01 => Val.ofInt (toSigned 4 (slice (byteAt b (k / 2)) (4 * (k % 2)) 4))
  | 0x02 =>
      let w := toSigned 4 (slice (byteAt b (k / 2)) (4 * (k % 2)) 4)
      Val.ofInt (w * (byteAt b (elements / 2 + k / 32) : Int))
  | f => decodeEl f (leAt b (k * (fmtBits f / 8)) (fmtBits f / 8))

/-! ### Accumulation (R154, R156) -/

/-- An accumulator over a reduction sequence of (activation, weight) pairs: exact for integers, a
chain of fused steps rounded to FP32 otherwise. -/
def accumulate (isInt : Bool) (bias : Val) (pairs : List (Val × Val)) : Val :=
  if isInt then Val.ofRat (pairs.foldl (fun a p => a + p.1.rat * p.2.rat) bias.rat)
  else pairs.foldl (fun a p => round32 (a.add (p.1.mul p.2))) bias

/-- NAN_IN for the operands of a sequence. -/
def nanInOf (pairs : List (Val × Val)) : Nat :=
  if pairs.any fun p => p.1.isNan || p.2.isNan then Arith.nanIn else 0

/-! ### Reductions over lanes (R161) -/

/-- One level of the tree. -/
def treeLevel {α : Type} (op : α → α → α) (e : α) : List α → List α
  | a :: b :: r => op a b :: treeLevel op e r
  | [a] => [op a e]
  | [] => []

/-- `n` levels of the tree. -/
def treeLevels {α : Type} (op : α → α → α) (e : α) : Nat → List α → List α
  | 0, l => l
  | n + 1, l => treeLevels op e n (treeLevel op e l)

/-- A reduction over registers of 1,024 elements, one after another. -/
def treeReduce {α : Type} (op : α → α → α) (e : α) (l : List α) : α :=
  let regs := (List.range ((l.length + 1023) / 1024)).map fun i =>
    ((treeLevels op e 10 ((l.drop (1024 * i)).take 1024)).head?).getD e
  match regs with
  | [] => e
  | r :: rs => rs.foldl op r

/-- An FP32 addition of the vector engine, with status (R148, R160). -/
def addSt (infOut : Bool) (a b : Val × Nat) : Val × Nat :=
  let (c, st) := roundFloat 0x14 infOut (a.1.add b.1)
  (decodeEl 0x14 c, a.2 ||| b.2 ||| st)

/-- A maximum with status. -/
def maxSt (a b : Val × Nat) : Val × Nat := (a.1.max b.1, a.2 ||| b.2)

/-! ### Vector functions (R162, R163) -/

/-- The square root of a positive number, close enough below it that rounding to FP32 or to any
narrower format is right. -/
def sqrtNear (m : Rat) : Rat :=
  let x := m * (4 : Rat) ^ 128
  let n := Nat.sqrt x.floor.toNat
  ((n : Rat) + (if ((n * n : Nat) : Rat) = x then 0 else 1 / 2)) / (2 : Rat) ^ 128

/-- What a function gives for its special inputs; none: it is computed. -/
def vectorSpecial (fn : Nat) (x : Val) : Option (Val × Nat) :=
  let one : Val := .fin false 1
  let zero : Val := .fin false 0
  match x with
  | .nan => some (.nan, Arith.nanIn)
  | .inf s =>
      match fn, s with
      | 0x11, false => some (.inf false, 0)
      | 0x11, true => some (zero, 0)
      | 0x12, false => some (.inf false, 0)
      | 0x13, s => some (.fin s 0, 0)
      | 0x14, false => some (.inf false, 0)
      | 0x15, false => some (zero, 0)
      | 0x12, true | 0x14, true | 0x15, true => some (.nan, Arith.domain)
      | 0x16, false => some (one, 0)
      | 0x16, true => some (zero, 0)
      | 0x17, s | 0x18, s => some (.fin s 1, 0)
      | 0x19, false | 0x1A, false | 0x1B, false => some (.inf false, 0)
      | 0x19, true | 0x1A, true | 0x1B, true => some (.fin true 0, 0)
      | 0x1C, false => some (.inf false, 0)
      | 0x1C, true => some (zero, 0)
      | _, _ => none
  | .fin s m =>
      match fn with
      | 0x11 => if !s && decide ((8872284 : Rat) / 100000 < m) then some (.inf false, 0)
          else if s && decide ((10397208 : Rat) / 100000 < m) then some (zero, 0) else none
      | 0x12 => if m = 0 then some (.inf true, 0) else if s then some (.nan, Arith.domain) else none
      | 0x13 => if m = 0 then some (.inf s, 0) else none
      | 0x14 => if m = 0 then some (.fin s 0, 0) else if s then some (.nan, Arith.domain)
          else some (decodeEl 0x14 (roundMag 0x14 (sqrtNear m)).1, 0)
      | 0x15 => if m = 0 then some (.inf s, 0) else if s then some (.nan, Arith.domain) else none
      | _ => none

/-! Values close to the exact ones, by series in fixed point: 320 bits after the point, over 100 of them right for
every FP32 operand within the bounds that the functions below keep to. -/

/-- The unit of the fixed point. -/
abbrev fixOne : Nat := 2 ^ 320

/-- A positive number in fixed point. -/
def toFix (q : Rat) : Nat := (q * (fixOne : Rat)).floor.toNat

def ofFix (n : Nat) : Rat := (n : Rat) / (fixOne : Rat)

/-- 1 + c(n) (1 + c(n+1) (1 + …)), cut after some terms. -/
def nested (c : Nat → Nat) : Nat → Nat → Nat
  | 0, _ => fixOne
  | k + 1, n => fixOne + c n * nested c k (n + 1) / fixOne

/-- e^x of a number of magnitude at most 128. -/
def expNear (x : Rat) : Rat :=
  let a := toFix (if x < 0 then -x else x)
  let e := ofFix (nested (fun n => a / n) 700 1)
  if x < 0 then 1 / e else e

/-- 2 artanh z of a number from 0 to 1/3. -/
def artanhTwice (z : Rat) : Rat :=
  let a := toFix z
  let sq := a * a / fixOne
  2 * ofFix (a * nested (fun n => sq * (2 * n - 1) / (2 * n + 1)) 130 1 / fixOne)

/-- ln of a positive number. -/
def lnNear (m : Rat) : Rat :=
  let k := log2Floor m
  let r := m / pow2 k
  (k : Rat) * artanhTwice (1 / 3) + artanhTwice ((r - 1) / (r + 1))

/-- The square root of a number from 0 to 2^20. -/
def rootNear (q : Rat) : Rat := ofFix (Nat.sqrt (toFix q * fixOne))

/-- arctan (1/k), by the series of odd powers with a factor 2n/(2n+1) per term (Euler's form). -/
def arctanInv (k : Nat) : Rat :=
  ofFix (nested (fun n => fixOne * (2 * n) / ((2 * n + 1) * (k * k + 1))) 200 1) * (k : Rat) / ((k * k + 1 : Nat) : Rat)

/-- π (Machin). -/
def piNear : Rat := 16 * arctanInv 5 - 4 * arctanInv 239

/-- erf of a number; ±1 from a magnitude of 9 on. -/
def erfNear (x : Rat) : Rat :=
  let a := if x < 0 then -x else x
  let v := if 9 ≤ a then 1 else
    let sq := toFix (a * a)
    2 / rootNear piNear * expNear (-(a * a)) * ofFix (toFix a * nested (fun n => 2 * sq / (2 * n + 1)) 500 1 / fixOne)
  if x < 0 then -v else v

/-- tanh of a number; ±1 from a magnitude of 60 on. -/
def tanhNear (x : Rat) : Rat :=
  let a := if x < 0 then -x else x
  let v := if 60 ≤ a then 1 else let e := expNear (2 * a); (e - 1) / (e + 1)
  if x < 0 then -v else v

/-- The value of a function at a finite operand outside the table's special inputs, close to the exact one (R162). -/
def vectorNear (fn : Nat) (x : Rat) : Rat :=
  match fn with
  | 0x11 => expNear (max (-128) (min 128 x))
  | 0x12 => lnNear x
  | 0x13 => 1 / x
  | 0x15 => sqrtNear (1 / x)
  | 0x16 => 1 / (1 + expNear (max (-128) (min 128 (-x))))
  | 0x17 => tanhNear x
  | 0x18 => erfNear x
  | 0x19 => x * (1 + erfNear (x / rootNear 2)) / 2
  | 0x1A => x * (1 + tanhNear ((7978846 : Rat) / 10000000 * (x + (44715 : Rat) / 1000000 * x * x * x))) / 2
  | 0x1B => if x < -128 then 0 else x / (1 + expNear (max (-128) (-x)))
  | 0x1C => if 128 < x then x else lnNear (1 + expNear (max (-128) x))
  | _ => 0

/-- The bound of a function in FP32 ulps (R162). -/
def vectorUlps (fn : Nat) : Nat :=
  match fn with
  | 0x13 => 1
  | 0x16 | 0x17 | 0x18 | 0x1C => 3
  | 0x19 | 0x1A | 0x1B => 4
  | _ => 2

/-- A result that R162 allows where the exact one is near `y`: so many ulps of it, or 2^-30 where that is larger and
`y` lies below 2^-24. -/
def withinBound (fn : Nat) (y : Rat) (r : Val) : Bool :=
  match r with
  | .fin _ _ =>
      let a := if y < 0 then -y else y
      let d := if r.rat < y then y - r.rat else r.rat - y
      let ulps := if a = 0 then 0 else (vectorUlps fn : Rat) * pow2 (max (log2Floor a) (-126) - 23)
      d ≤ (if a < pow2 (-24) then max ulps (pow2 (-30)) else ulps)
  | _ => false

/-- A vector function of an FP32 value. Outside the special inputs the result is the device's own (R163), a free value of the
function and the operand, wherever it keeps to the bound of R162, and else the exact result rounded; a result beyond FP32 is
answered exactly (notes/assumptions/36.md). -/
def vectorFn (fn : Nat) (x : Val) : Val × Nat :=
  match vectorSpecial fn x with
  | some r => r
  | none =>
      let y := vectorNear fn x.rat
      let own := decodeEl 0x14 (Config.vectorFn fn (BitVec.ofNat 32 (roundFloat 0x14 true x).1)).toNat
      if (roundMag 0x14 (if y < 0 then -y else y)).2 then (Val.ofRat y, 0)
      else if withinBound fn y own then (own, 0)
      else (decodeEl 0x14 (roundFloat 0x14 true (Val.ofRat y)).1, 0)

end Sys2Proof.Machine
end

