-- ==== Sys2Proof/Machine/RegName.lean ====
section
/-! DEFINITION. The registers of control space (spec/01_device_overview.md R29): their names.
One name for each row of the register tables; a row that stands for several registers (one per
stream, per seat and ring, ...) is indexed. -/

namespace Sys2Proof.Machine

/-- The access codes of R8 (00_scope.md). Rows of the tables named Reserved are not listed: a
bit that no field covers reads 0 and ignores writes (R10). -/
inductive Acc where
  | rw | ro | wo | w1c | w1s | rwl
  deriving DecidableEq, Repr

/-- One field of a register: its lowest bit, its width, its access and its reset value. -/
structure Fld where
  lo : Nat
  w : Nat
  acc : Acc
  reset : Nat
  deriving DecidableEq, Repr

/-- One row of the register tables: the control-space offset of its first register, the strides
and counts of its indices (outer first), and its fields. -/
structure RegRow where
  base : Nat
  dims : List (Nat × Nat)
  fields : List Fld
  deriving DecidableEq, Repr

/-- The names of the register rows. -/
inductive RN where
  | glbIdent | glbCaps | glbState | glbFwVersion | glbSerial | glbScratch
  | rstCause | rstResetCount | rstBoot | rstBootStatus | rstSwReset | rstScopedCount
  | rstOptStatus | rstOptCtrl | rstTrimStatus | rstRtcLo | rstRtcHi | rstOptWindow
  | rstJ1 | rstTempPlate | rstTempCore | rstThrottle | rstPwrErr | rstPwrErrCnt
  | rstIslands | rstRail | secStatus | secSlotState | secFlags | secFlagsCnt
  | secVerifyCount | secAttestCount | secRootHash | evrStatus | evrRingCount | evrSeqNext
  | evrSeqOldest | evrCtrl | evrFlags | evrFlagsCnt | evrCritCount | evrDropSev
  | evrRateSev | evrSyslogCfg | evrSyslogIp | evrExportDropSyslog | evrExportDropFanout | evrCursorLo
  | evrCursorHi | evrWindow | evrClassMatch | evrClassAddr | timeSnap | timePtpStatus
  | timeMeanPathDelay | timeGmId | tbCtrl | tbStatus | tbStatusCnt | tbW2
  | tbW1 | tbW0 | tbIncHi | tbIncLo | tbOffset | tbBasePpb
  | tbStepHi | tbStepLo | tbStepCtrl | snapW | netPortStatus | netPortErr
  | netPortErrCnt | netIpAddr | netIpCfg | netMacLo | netMacHi | netGroupStatus
  | netGroupMembers | netGroupFlags | netGroupFlagsCnt | netAxisAge | netGroupRxDrop | netStripStatus
  | netStripRx | netStripLost | netStripSeam | hostLock | hostBhPort | hostPciId
  | hostBhDrop | hostLostCompletions | sqBaseLo | sqBaseHi | cqBaseLo | cqBaseHi
  | ringCfg | sqTail | sqHead | cqHead | cqTail | cqMod
  | ringStatus | ringStatusCnt | seatStatus | intPending | intStatus | intStatusCnt
  | intMask | apBaseLo | apBaseHi | peerIp | peerPort | session
  | cmdArrived | memStatus | memScrubCfg | memScrubPos | memErr | memErrCnt
  | memCeCount | memUeCount | memUeAddrLo | memUeAddrHi | memBwRead | memBwWrite
  | memRegBaseLo | memRegBaseHi | memRegSize | memChStatus | memChCe | laneCtrl
  | laneCmd | laneStatus | lanePattern | laneMatchCfg | laneMatchCnt | lanePrbsBitsLo
  | lanePrbsBitsHi | lanePrbsErr | laneErr | laneErrCnt | laneCodeErr | laneTrain
  | laneTxCoef | cxpPocxpBudget | cxpPocxpTotal | cxpUnboundCnt | cxpPortCtrl | cxpPortStatus
  | cxpPortCaps | cxpPortPower | cxpPortCable | cxpPortErr | cxpPortErrCnt | cxpStreamCfg
  | cxpStreamStatus | cxpStreamLb | cxpStreamTrig | cxpStreamLines | cxpStreamErr | cxpStreamErrCnt
  | cxpStreamDropped | linePipeStatus | linePipeLoad | linePipeBacklog | lineStatBaseLo | lineStatBaseHi
  | lineStatCfg | lineStatProd | lineStatCons | lineStatLost | lineStreamFlags | lineStreamFlagsCnt
  | lineSpillLines | lineLinesOut | schedStatus | schedSlice | schedTurn | schedContexts
  | schedFlags | schedFlagsCnt | schedSeatDebt | schedCtxSel | schedCtxState | schedCtxBlockedUs
  | schedCtxStarve | ledgBaseLo | ledgBaseHi | ledgInFlight | ledgOpenRate | ledgSeqLo
  | ledgSeqHi | ledgFlags | ledgFlagsCnt | ledgSourceCnt | ledgSlack | ejListBaseLo
  | ejListBaseHi | ejListCount | ejInsertRate | ejListCtrl | ejFlags | ejFlagsCnt
  | ejFiredCnt | ejMissedCnt | ejMismatchCnt | encPosLo | encPosHi | encPeriod
  | encStatus | encIndexLo | encIndexHi | encIndexCnt | encCtrl | encErr
  | encErrCnt | divStatus | divKLo | divKHi | divSuppressed | mapBaseLo
  | mapBaseHi | mapCfg | divErr | divErrCnt | capStatus | capCount
  | capDropped | capFlags | capFlagsCnt | decFlags | decFlagsCnt | decLoad
  | decCount | cacheUsed | cacheHits | cacheCtrl | libStatus | libIndexLo
  | libIndexHi | libNextLo | libNextHi | libOldestLo | libOldestHi | libFree
  | candStatus | shadowRun | shadowDisagree | shadowCancelled | tallyBaseLo | tallyBaseHi
  | trainFlags | trainFlagsCnt | jobStatus | jobEpoch | jobStep | jobLoss
  | jobUsed | jobSkipped | jobTLo | jobTHi | fldLinkStatus | fldLinkErr
  | fldLinkErrCnt0 | fldLinkErrCnt1 | fldRetransmit | fldSupply | fldPpsIgnored | fldDiLevel
  | fldQOnLo | fldQOnHi | fldQHostLo | fldQHostHi | qMeas | qErr
  | qErrCnt | qCtrl | gCurrent | gErr | gErrCnt | gCtrl
  | cntValue | cntFreq | cntCtrl | coreCtrl | coreStatus | coreClock
  | coreLoad | corePool | coreDone | coreKills | coreErr | coreErrCnt
  deriving DecidableEq, Repr

end Sys2Proof.Machine
end

