-- ==== Sys2Proof/Machine/RegMap.lean ====
section
/-! DEFINITION. The register tables of the spec, row by row: offset, layout, access codes and
reset values (R8, R11), and the look-up of a control-space offset. -/

namespace Sys2Proof.Machine

/-- The row of each register, by the register tables of the rule named beside it. -/
def RN.row : RN → RegRow
  -- GLB.IDENT R30
  | .glbIdent => ⟨0x0, [], [⟨16, 16, .ro, 0x9640⟩, ⟨8, 8, .ro, 0xa⟩, ⟨0, 8, .ro, 1⟩]⟩
  -- GLB.CAPS R31
  | .glbCaps => ⟨0x4, [], [⟨0, 8, .ro, 0x20⟩, ⟨8, 8, .ro, 0x40⟩, ⟨16, 4, .ro, 4⟩, ⟨20, 4, .ro,
      4⟩, ⟨24, 4, .ro, 4⟩]⟩
  -- GLB.STATE R32
  | .glbState => ⟨0x8, [], [⟨0, 4, .ro, 0⟩, ⟨4, 2, .ro, 2⟩, ⟨6, 1, .ro, 0⟩, ⟨7, 1, .ro, 0⟩]⟩
  -- GLB.FW_VERSION R33
  | .glbFwVersion => ⟨0xc, [], [⟨0, 16, .ro, 0⟩, ⟨16, 8, .ro, 0⟩, ⟨24, 8, .ro, 0⟩]⟩
  -- GLB.SERIAL_LO/HI R34
  | .glbSerial => ⟨0x10, [(0x4, 2)], [⟨0, 32, .ro, 0⟩]⟩
  -- GLB.SCRATCHn R35
  | .glbScratch => ⟨0x20, [(0x4, 4)], [⟨0, 32, .rw, 0⟩]⟩
  -- RST.CAUSE R511
  | .rstCause => ⟨0x100000, [], [⟨0, 8, .ro, 0⟩, ⟨8, 1, .ro, 0⟩, ⟨9, 3, .ro, 0⟩]⟩
  -- RST.RESET_COUNT R511
  | .rstResetCount => ⟨0x100004, [], [⟨0, 32, .ro, 0⟩]⟩
  -- RST.BOOT R511
  | .rstBoot => ⟨0x100008, [], [⟨0, 4, .ro, 0⟩, ⟨4, 3, .ro, 3⟩, ⟨8, 1, .w1s, 0⟩]⟩
  -- RST.BOOT_STATUS R511
  | .rstBootStatus => ⟨0x10000c, [], [⟨0, 8, .ro, 0⟩, ⟨8, 1, .ro, 0⟩, ⟨9, 1, .ro, 0⟩, ⟨10, 1,
      .ro, 0⟩, ⟨11, 1, .ro, 0⟩, ⟨12, 1, .ro, 0⟩, ⟨13, 1, .ro, 0⟩]⟩
  -- RST.SW_RESET R511
  | .rstSwReset => ⟨0x100010, [], [⟨0, 1, .wo, 0⟩, ⟨1, 4, .wo, 0⟩, ⟨5, 1, .wo, 0⟩, ⟨24, 8, .wo,
      0⟩]⟩
  -- RST.SCOPED_COUNT R511
  | .rstScopedCount => ⟨0x100014, [], [⟨0, 16, .ro, 0⟩, ⟨16, 16, .ro, 0⟩]⟩
  -- RST.OPT_STATUS R512
  | .rstOptStatus => ⟨0x100018, [], [⟨0, 3, .ro, 0⟩, ⟨3, 3, .ro, 0⟩, ⟨6, 1, .ro, 0⟩, ⟨7, 1, .ro,
      0⟩, ⟨8, 8, .ro, 0⟩]⟩
  -- RST.OPT_CTRL R512
  | .rstOptCtrl => ⟨0x10001c, [], [⟨0, 1, .w1s, 0⟩, ⟨1, 1, .w1s, 0⟩]⟩
  -- RST.TRIM_STATUS R512
  | .rstTrimStatus => ⟨0x100020, [], [⟨0, 3, .ro, 0⟩, ⟨3, 1, .ro, 0⟩]⟩
  -- RST.RTC_LO R512
  | .rstRtcLo => ⟨0x100024, [], [⟨0, 32, .rw, 0⟩]⟩
  -- RST.RTC_HI R512
  | .rstRtcHi => ⟨0x100028, [], [⟨0, 16, .rw, 0⟩]⟩
  -- RST.OPT_WINDOW R512
  | .rstOptWindow => ⟨0x100400, [(0x4, 256)], [⟨0, 32, .rw, 0⟩]⟩
  -- RST.J1 R513
  | .rstJ1 => ⟨0x100030, [], [⟨0, 16, .ro, 0⟩, ⟨16, 16, .ro, 0⟩]⟩
  -- RST.TEMP_PLATE R513
  | .rstTempPlate => ⟨0x100034, [], [⟨0, 16, .ro, 0⟩]⟩
  -- RST.TEMP_CORE R513
  | .rstTempCore => ⟨0x100038, [], [⟨0, 32, .ro, 0⟩]⟩
  -- RST.THROTTLE R513
  | .rstThrottle => ⟨0x10003c, [], [⟨0, 4, .ro, 0⟩, ⟨4, 1, .ro, 0⟩, ⟨5, 1, .ro, 0⟩, ⟨6, 1, .ro,
      0⟩]⟩
  -- RST.PWR_ERR R514
  | .rstPwrErr => ⟨0x100040, [], [⟨0, 1, .w1c, 0⟩, ⟨1, 1, .w1c, 0⟩, ⟨2, 1, .w1c, 0⟩, ⟨3, 1,
      .w1c, 0⟩, ⟨4, 1, .w1c, 0⟩, ⟨5, 1, .w1c, 0⟩]⟩
  -- RST.PWR_ERR_CNT0/1 CNT
  | .rstPwrErrCnt => ⟨0x100044, [(0x4, 2)], [⟨0, 32, .ro, 0⟩]⟩
  -- RST.ISLANDS R513
  | .rstIslands => ⟨0x100050, [], [⟨0, 15, .ro, 0⟩, ⟨16, 15, .ro, 0⟩]⟩
  -- RST.RAILn R513
  | .rstRail => ⟨0x100060, [(0x4, 8)], [⟨0, 16, .ro, 0⟩, ⟨16, 1, .ro, 0⟩]⟩
  -- SEC.STATUS R554
  | .secStatus => ⟨0x200000, [], [⟨0, 4, .ro, 0⟩, ⟨4, 1, .ro, 0⟩, ⟨5, 1, .ro, 0⟩]⟩
  -- SEC.SLOT_STATE R554
  | .secSlotState => ⟨0x200004, [], [⟨0, 8, .ro, 0⟩, ⟨8, 1, .ro, 0⟩]⟩
  -- SEC.FLAGS R554
  | .secFlags => ⟨0x200008, [], [⟨0, 1, .w1c, 0⟩, ⟨1, 1, .w1c, 0⟩, ⟨2, 1, .w1c, 0⟩]⟩
  -- SEC.FLAGS_CNT R554
  | .secFlagsCnt => ⟨0x20000c, [], [⟨0, 24, .ro, 0⟩]⟩
  -- SEC.VERIFY_COUNT R554
  | .secVerifyCount => ⟨0x200010, [], [⟨0, 32, .ro, 0⟩]⟩
  -- SEC.ATTEST_COUNT R554
  | .secAttestCount => ⟨0x200014, [], [⟨0, 32, .ro, 0⟩]⟩
  -- SEC.ROOT_HASHw R554
  | .secRootHash => ⟨0x200040, [(0x4, 16)], [⟨0, 32, .ro, 0⟩]⟩
  -- EVR.STATUS R534
  | .evrStatus => ⟨0x300000, [], [⟨0, 14, .ro, 0⟩, ⟨14, 1, .ro, 0⟩]⟩
  -- EVR.RING_COUNT R534
  | .evrRingCount => ⟨0x300004, [], [⟨0, 20, .ro, 0⟩]⟩
  -- EVR.SEQ_NEXT_LO/HI R534
  | .evrSeqNext => ⟨0x300008, [(0x4, 2)], [⟨0, 32, .ro, 0⟩]⟩
  -- EVR.SEQ_OLDEST_LO/HI R534
  | .evrSeqOldest => ⟨0x300010, [(0x4, 2)], [⟨0, 32, .ro, 0⟩]⟩
  -- EVR.CTRL R534
  | .evrCtrl => ⟨0x300018, [], [⟨0, 1, .w1s, 0⟩, ⟨1, 1, .w1s, 0⟩, ⟨2, 1, .w1s, 0⟩, ⟨3, 1, .rw,
      0⟩]⟩
  -- EVR.FLAGS R535
  | .evrFlags => ⟨0x30001c, [], [⟨0, 1, .w1c, 0⟩, ⟨1, 1, .w1c, 0⟩, ⟨2, 1, .w1c, 0⟩, ⟨3, 1, .w1c,
      0⟩, ⟨4, 1, .w1c, 0⟩]⟩
  -- EVR.FLAGS_CNT0/1 CNT
  | .evrFlagsCnt => ⟨0x300020, [(0x4, 2)], [⟨0, 32, .ro, 0⟩]⟩
  -- EVR.CRIT_COUNT R534
  | .evrCritCount => ⟨0x300028, [], [⟨0, 20, .ro, 0⟩]⟩
  -- EVR.DROP_SEVv R536
  | .evrDropSev => ⟨0x300030, [(0x4, 6)], [⟨0, 32, .ro, 0⟩]⟩
  -- EVR.RATE_SEVv R536
  | .evrRateSev => ⟨0x300050, [(0x4, 6)], [⟨0, 16, .rw, 0⟩, ⟨16, 8, .rw, 0⟩]⟩
  -- EVR.SYSLOG_CFG R537
  | .evrSyslogCfg => ⟨0x300070, [], [⟨0, 1, .rw, 0⟩, ⟨1, 3, .rw, 3⟩, ⟨4, 3, .rw, 0⟩, ⟨16, 16,
      .rw, 0x202⟩]⟩
  -- EVR.SYSLOG_IP R537
  | .evrSyslogIp => ⟨0x300074, [], [⟨0, 32, .rw, 0⟩]⟩
  -- EVR.EXPORT_DROP_SYSLOG R537
  | .evrExportDropSyslog => ⟨0x300078, [], [⟨0, 32, .ro, 0⟩]⟩
  -- EVR.EXPORT_DROP_FANOUT R537
  | .evrExportDropFanout => ⟨0x30007c, [], [⟨0, 32, .ro, 0⟩]⟩
  -- EVR.CURSOR_LO R538
  | .evrCursorLo => ⟨0x300100, [(0x80, 4)], [⟨0, 32, .rw, 0⟩]⟩
  -- EVR.CURSOR_HI R538
  | .evrCursorHi => ⟨0x300104, [(0x80, 4)], [⟨0, 32, .rw, 0⟩]⟩
  -- EVR.WINDOWw R538
  | .evrWindow => ⟨0x300140, [(0x80, 4), (0x4, 16)], [⟨0, 32, .ro, 0⟩]⟩
  -- EVR.CLASS_MATCH R539
  | .evrClassMatch => ⟨0x300400, [(0x80, 4)], [⟨0, 1, .rw, 0⟩, ⟨1, 3, .rw, 4⟩, ⟨8, 8, .rw,
      0xff⟩, ⟨16, 8, .rw, 0xff⟩]⟩
  -- EVR.CLASS_ADDRn R539
  | .evrClassAddr => ⟨0x300440, [(0x80, 4), (0x4, 16)], [⟨2, 26, .rw, 0⟩, ⟨31, 1, .rw, 0⟩]⟩
  -- TIME.SNAP R399
  | .timeSnap => ⟨0x400000, [], [⟨0, 1, .w1s, 0⟩]⟩
  -- TIME.PTP_STATUS R399
  | .timePtpStatus => ⟨0x400004, [], [⟨0, 2, .ro, 0⟩, ⟨2, 1, .ro, 0⟩]⟩
  -- TIME.MEAN_PATH_DELAY R399
  | .timeMeanPathDelay => ⟨0x400008, [], [⟨0, 32, .ro, 0⟩]⟩
  -- TIME.GM_ID_LO/HI R399
  | .timeGmId => ⟨0x40000c, [(0x4, 2)], [⟨0, 32, .ro, 0⟩]⟩
  -- TIME.TB_CTRL R400
  | .tbCtrl => ⟨0x400100, [(0x40, 4)], [⟨0, 1, .rw, 0⟩]⟩
  -- TIME.TB_STATUS R400
  | .tbStatus => ⟨0x400104, [(0x40, 4)], [⟨0, 3, .ro, 0⟩, ⟨3, 1, .w1c, 0⟩, ⟨4, 1, .w1c, 0⟩, ⟨5,
      1, .ro, 1⟩]⟩
  -- TIME.TB_STATUS_CNT R400
  | .tbStatusCnt => ⟨0x400108, [(0x40, 4)], [⟨0, 16, .ro, 0⟩]⟩
  -- TIME.TB_W2 R401
  | .tbW2 => ⟨0x40010c, [(0x40, 4)], [⟨0, 32, .ro, 0⟩]⟩
  -- TIME.TB_W1 R401
  | .tbW1 => ⟨0x400110, [(0x40, 4)], [⟨0, 32, .ro, 0⟩]⟩
  -- TIME.TB_W0 R401
  | .tbW0 => ⟨0x400114, [(0x40, 4)], [⟨0, 32, .ro, 0⟩]⟩
  -- TIME.TB_INC_HI R401
  | .tbIncHi => ⟨0x400118, [(0x40, 4)], [⟨0, 32, .rw, 4⟩]⟩
  -- TIME.TB_INC_LO R401
  | .tbIncLo => ⟨0x40011c, [(0x40, 4)], [⟨0, 32, .rw, 0⟩]⟩
  -- TIME.TB_OFFSET R401
  | .tbOffset => ⟨0x400120, [(0x40, 4)], [⟨0, 32, .ro, 0⟩]⟩
  -- TIME.TB_BASE_PPB R401
  | .tbBasePpb => ⟨0x400124, [(0x40, 4)], [⟨0, 32, .rw, 0⟩]⟩
  -- TIME.TB_STEP_HI R402
  | .tbStepHi => ⟨0x400128, [(0x40, 4)], [⟨0, 32, .rw, 0⟩]⟩
  -- TIME.TB_STEP_LO R402
  | .tbStepLo => ⟨0x40012c, [(0x40, 4)], [⟨0, 32, .rw, 0⟩]⟩
  -- TIME.TB_STEP_CTRL R402
  | .tbStepCtrl => ⟨0x400130, [(0x40, 4)], [⟨0, 1, .w1s, 0⟩, ⟨1, 1, .rw, 0⟩]⟩
  -- TIME.SNAP_W2/W1/W0 SNAPW
  | .snapW => ⟨0x400200, [(0x10, 4), (0x4, 3)], [⟨0, 32, .ro, 0⟩]⟩
  -- NET.PORT_STATUS R394
  | .netPortStatus => ⟨0x500000, [(0x10, 2)], [⟨0, 1, .ro, 0⟩, ⟨1, 2, .ro, 0⟩, ⟨3, 1, .ro, 0⟩,
      ⟨4, 1, .ro, 0⟩, ⟨5, 1, .ro, 0⟩, ⟨6, 1, .ro, 0⟩]⟩
  -- NET.PORT_ERR R394
  | .netPortErr => ⟨0x500004, [(0x10, 2)], [⟨0, 1, .w1c, 0⟩, ⟨1, 1, .w1c, 0⟩, ⟨2, 1, .w1c, 0⟩,
      ⟨3, 1, .w1c, 0⟩]⟩
  -- NET.PORT_ERR_CNT CNT
  | .netPortErrCnt => ⟨0x500008, [(0x10, 2)], [⟨0, 32, .ro, 0⟩]⟩
  -- NET.IP_ADDR R395
  | .netIpAddr => ⟨0x500020, [], [⟨0, 32, .rw, 0⟩]⟩
  -- NET.IP_CFG R395
  | .netIpCfg => ⟨0x500024, [], [⟨0, 6, .rw, 0⟩]⟩
  -- NET.MAC_LO R395
  | .netMacLo => ⟨0x500028, [], [⟨0, 32, .ro, 0⟩]⟩
  -- NET.MAC_HI R395
  | .netMacHi => ⟨0x50002c, [], [⟨0, 16, .ro, 0⟩]⟩
  -- NET.GROUP_STATUS R396
  | .netGroupStatus => ⟨0x500040, [], [⟨0, 2, .ro, 0⟩, ⟨2, 5, .ro, 0⟩, ⟨7, 5, .ro, 0⟩, ⟨12, 1,
      .ro, 0⟩]⟩
  -- NET.GROUP_MEMBERS R396
  | .netGroupMembers => ⟨0x500044, [], [⟨0, 24, .ro, 0⟩]⟩
  -- NET.GROUP_FLAGS R397
  | .netGroupFlags => ⟨0x500048, [], [⟨0, 1, .w1c, 0⟩, ⟨1, 1, .w1c, 0⟩, ⟨2, 1, .w1c, 0⟩, ⟨3, 1,
      .w1c, 0⟩, ⟨4, 1, .w1c, 0⟩, ⟨5, 1, .w1c, 0⟩, ⟨6, 1, .w1c, 0⟩]⟩
  -- NET.GROUP_FLAGS_CNT0/1 CNT
  | .netGroupFlagsCnt => ⟨0x50004c, [(0x4, 2)], [⟨0, 32, .ro, 0⟩]⟩
  -- NET.AXIS_AGE R396
  | .netAxisAge => ⟨0x500054, [], [⟨0, 32, .ro, 0xffffffff⟩]⟩
  -- NET.GROUP_RX_DROP R396
  | .netGroupRxDrop => ⟨0x500058, [], [⟨0, 32, .ro, 0⟩]⟩
  -- NET.STRIP_STATUS R398
  | .netStripStatus => ⟨0x500080, [(0x10, 2)], [⟨0, 1, .ro, 0⟩, ⟨1, 5, .ro, 0⟩]⟩
  -- NET.STRIP_RX R398
  | .netStripRx => ⟨0x500084, [(0x10, 2)], [⟨0, 32, .ro, 0⟩]⟩
  -- NET.STRIP_LOST R398
  | .netStripLost => ⟨0x500088, [(0x10, 2)], [⟨0, 32, .ro, 0⟩]⟩
  -- NET.STRIP_SEAM R398
  | .netStripSeam => ⟨0x50008c, [(0x10, 2)], [⟨0, 24, .ro, 0⟩]⟩
  -- HOST.LOCK R431
  | .hostLock => ⟨0x600000, [], [⟨0, 8, .ro, 0xff⟩]⟩
  -- HOST.BH_PORT R431
  | .hostBhPort => ⟨0x600004, [], [⟨0, 16, .rw, 0xba5e⟩]⟩
  -- HOST.PCI_ID R431
  | .hostPciId => ⟨0x600008, [], [⟨0, 16, .ro, 0⟩, ⟨16, 16, .ro, 0x9640⟩]⟩
  -- HOST.BH_DROP R431
  | .hostBhDrop => ⟨0x60000c, [], [⟨0, 32, .ro, 0⟩]⟩
  -- HOST.LOST_COMPLETIONS R431
  | .hostLostCompletions => ⟨0x600010, [], [⟨0, 32, .ro, 0⟩]⟩
  -- HOST.SQ_BASE_LO R432
  | .sqBaseLo => ⟨0x601000, [(0x1000, 4), (0x40, 16)], [⟨0, 32, .rw, 0⟩]⟩
  -- HOST.SQ_BASE_HI R432
  | .sqBaseHi => ⟨0x601004, [(0x1000, 4), (0x40, 16)], [⟨0, 32, .rw, 0⟩]⟩
  -- HOST.CQ_BASE_LO R432
  | .cqBaseLo => ⟨0x601008, [(0x1000, 4), (0x40, 16)], [⟨0, 32, .rw, 0⟩]⟩
  -- HOST.CQ_BASE_HI R432
  | .cqBaseHi => ⟨0x60100c, [(0x1000, 4), (0x40, 16)], [⟨0, 32, .rw, 0⟩]⟩
  -- HOST.RING_CFG R432
  | .ringCfg => ⟨0x601010, [(0x1000, 4), (0x40, 16)], [⟨0, 1, .rw, 0⟩, ⟨1, 1, .rw, 0⟩, ⟨2, 5,
      .rw, 6⟩]⟩
  -- HOST.SQ_TAIL R432
  | .sqTail => ⟨0x601014, [(0x1000, 4), (0x40, 16)], [⟨0, 16, .rw, 0⟩]⟩
  -- HOST.SQ_HEAD R432
  | .sqHead => ⟨0x601018, [(0x1000, 4), (0x40, 16)], [⟨0, 16, .ro, 0⟩]⟩
  -- HOST.CQ_HEAD R432
  | .cqHead => ⟨0x60101c, [(0x1000, 4), (0x40, 16)], [⟨0, 16, .rw, 0⟩]⟩
  -- HOST.CQ_TAIL R432
  | .cqTail => ⟨0x601020, [(0x1000, 4), (0x40, 16)], [⟨0, 16, .ro, 0⟩, ⟨16, 1, .ro, 1⟩]⟩
  -- HOST.CQ_MOD R432
  | .cqMod => ⟨0x601024, [(0x1000, 4), (0x40, 16)], [⟨0, 8, .rw, 1⟩, ⟨8, 16, .rw, 0⟩]⟩
  -- HOST.RING_STATUS R433
  | .ringStatus => ⟨0x601028, [(0x1000, 4), (0x40, 16)], [⟨0, 2, .ro, 0⟩, ⟨2, 1, .w1c, 0⟩, ⟨3,
      1, .w1c, 0⟩, ⟨4, 1, .w1c, 0⟩]⟩
  -- HOST.RING_STATUS_CNT CNT
  | .ringStatusCnt => ⟨0x60102c, [(0x1000, 4), (0x40, 16)], [⟨0, 32, .ro, 0⟩]⟩
  -- HOST.SEAT_STATUS R434
  | .seatStatus => ⟨0x601800, [(0x1000, 4)], [⟨0, 1, .ro, 0⟩, ⟨1, 1, .ro, 0⟩, ⟨2, 2, .ro, 0⟩,
      ⟨4, 1, .ro, 0⟩]⟩
  -- HOST.INT_PENDING R434
  | .intPending => ⟨0x601804, [(0x1000, 4)], [⟨0, 17, .ro, 0⟩]⟩
  -- HOST.INT_STATUS R434
  | .intStatus => ⟨0x601808, [(0x1000, 4)], [⟨0, 1, .w1c, 0⟩, ⟨1, 1, .w1c, 0⟩, ⟨2, 1, .w1c, 0⟩,
      ⟨3, 1, .w1c, 0⟩]⟩
  -- HOST.INT_STATUS_CNT R434
  | .intStatusCnt => ⟨0x60180c, [(0x1000, 4)], [⟨0, 32, .ro, 0⟩]⟩
  -- HOST.INT_MASK R434
  | .intMask => ⟨0x601810, [(0x1000, 4)], [⟨0, 17, .rw, 0⟩]⟩
  -- HOST.APn_BASE_LO R435
  | .apBaseLo => ⟨0x601820, [(0x1000, 4), (0x8, 4)], [⟨0, 32, .rw, 0⟩]⟩
  -- HOST.APn_BASE_HI R435
  | .apBaseHi => ⟨0x601824, [(0x1000, 4), (0x8, 4)], [⟨0, 8, .rw, 0⟩]⟩
  -- HOST.PEER_IP R435
  | .peerIp => ⟨0x601840, [(0x1000, 4)], [⟨0, 32, .ro, 0⟩]⟩
  -- HOST.PEER_PORT R435
  | .peerPort => ⟨0x601844, [(0x1000, 4)], [⟨0, 16, .ro, 0⟩]⟩
  -- HOST.SESSION R435
  | .session => ⟨0x601848, [(0x1000, 4)], [⟨0, 32, .ro, 0⟩]⟩
  -- HOST.CMD_ARRIVED R435
  | .cmdArrived => ⟨0x60184c, [(0x1000, 4)], [⟨0, 32, .ro, 0⟩]⟩
  -- MEM.STATUS R449
  | .memStatus => ⟨0x700000, [], [⟨0, 1, .ro, 0⟩, ⟨1, 6, .ro, 0⟩, ⟨7, 1, .ro, 0⟩]⟩
  -- MEM.SCRUB_CFG R449
  | .memScrubCfg => ⟨0x700004, [], [⟨0, 8, .rw, 0x18⟩, ⟨8, 1, .rw, 1⟩]⟩
  -- MEM.SCRUB_POS R449
  | .memScrubPos => ⟨0x700008, [], [⟨0, 16, .ro, 0⟩, ⟨16, 16, .ro, 0⟩]⟩
  -- MEM.ERR R450
  | .memErr => ⟨0x70000c, [], [⟨0, 1, .w1c, 0⟩, ⟨1, 1, .w1c, 0⟩, ⟨2, 1, .w1c, 0⟩, ⟨3, 1, .w1c,
      0⟩]⟩
  -- MEM.ERR_CNT CNT
  | .memErrCnt => ⟨0x700010, [], [⟨0, 32, .ro, 0⟩]⟩
  -- MEM.CE_COUNT CNT32
  | .memCeCount => ⟨0x700014, [], [⟨0, 32, .ro, 0⟩]⟩
  -- MEM.UE_COUNT CNT32
  | .memUeCount => ⟨0x700018, [], [⟨0, 32, .ro, 0⟩]⟩
  -- MEM.UE_ADDR_LO R451
  | .memUeAddrLo => ⟨0x70001c, [], [⟨0, 32, .ro, 0⟩]⟩
  -- MEM.UE_ADDR_HI R451
  | .memUeAddrHi => ⟨0x700020, [], [⟨0, 8, .ro, 0⟩, ⟨8, 4, .ro, 0⟩, ⟨12, 1, .ro, 0⟩, ⟨13, 5,
      .ro, 0⟩]⟩
  -- MEM.BW_READ R452
  | .memBwRead => ⟨0x700024, [], [⟨0, 32, .ro, 0⟩]⟩
  -- MEM.BW_WRITE R452
  | .memBwWrite => ⟨0x700028, [], [⟨0, 32, .ro, 0⟩]⟩
  -- MEM.REG_BASE_LO R453
  | .memRegBaseLo => ⟨0x700100, [(0x10, 14)], [⟨0, 32, .ro, 0⟩]⟩
  -- MEM.REG_BASE_HI R453
  | .memRegBaseHi => ⟨0x700104, [(0x10, 14)], [⟨0, 8, .ro, 0⟩]⟩
  -- MEM.REG_SIZE R453
  | .memRegSize => ⟨0x700108, [(0x10, 14)], [⟨0, 32, .ro, 0⟩]⟩
  -- MEM.CH_STATUS R454
  | .memChStatus => ⟨0x700400, [(0x10, 32)], [⟨0, 1, .ro, 0⟩, ⟨1, 3, .ro, 0⟩]⟩
  -- MEM.CH_CE R454
  | .memChCe => ⟨0x700404, [(0x10, 32)], [⟨0, 32, .ro, 0⟩]⟩
  -- LANE.LANE_CTRL R465
  | .laneCtrl => ⟨0x801000, [(0x40, 44)], [⟨0, 1, .rw, 0⟩, ⟨1, 2, .rw, 0⟩, ⟨3, 1, .rw, 0⟩, ⟨4,
      1, .rw, 0⟩, ⟨5, 3, .rw, 4⟩, ⟨8, 5, .rw, 0⟩]⟩
  -- LANE.LANE_CMD R465
  | .laneCmd => ⟨0x801004, [(0x40, 44)], [⟨0, 1, .w1s, 0⟩, ⟨1, 1, .w1s, 0⟩]⟩
  -- LANE.LANE_STATUS R466
  | .laneStatus => ⟨0x801008, [(0x40, 44)], [⟨0, 1, .ro, 0⟩, ⟨1, 1, .ro, 0⟩, ⟨2, 1, .ro, 0⟩, ⟨3,
      1, .ro, 0⟩, ⟨4, 7, .ro, 0⟩, ⟨12, 4, .ro, 0⟩, ⟨16, 8, .ro, 0⟩]⟩
  -- LANE.PATTERN R467
  | .lanePattern => ⟨0x80100c, [(0x40, 44)], [⟨0, 32, .rw, 0⟩]⟩
  -- LANE.MATCH_CFG R467
  | .laneMatchCfg => ⟨0x801010, [(0x40, 44)], [⟨0, 5, .rw, 9⟩]⟩
  -- LANE.MATCH_CNT R467
  | .laneMatchCnt => ⟨0x801014, [(0x40, 44)], [⟨0, 32, .ro, 0⟩]⟩
  -- LANE.PRBS_BITS_LO R467
  | .lanePrbsBitsLo => ⟨0x801018, [(0x40, 44)], [⟨0, 32, .ro, 0⟩]⟩
  -- LANE.PRBS_BITS_HI R467
  | .lanePrbsBitsHi => ⟨0x80101c, [(0x40, 44)], [⟨0, 32, .ro, 0⟩]⟩
  -- LANE.PRBS_ERR R467
  | .lanePrbsErr => ⟨0x801020, [(0x40, 44)], [⟨0, 32, .ro, 0⟩]⟩
  -- LANE.LANE_ERR R468
  | .laneErr => ⟨0x801024, [(0x40, 44)], [⟨0, 1, .w1c, 0⟩, ⟨1, 1, .w1c, 0⟩, ⟨2, 1, .w1c, 0⟩, ⟨3,
      1, .w1c, 0⟩]⟩
  -- LANE.LANE_ERR_CNT CNT
  | .laneErrCnt => ⟨0x801028, [(0x40, 44)], [⟨0, 32, .ro, 0⟩]⟩
  -- LANE.CODE_ERR CNT32
  | .laneCodeErr => ⟨0x80102c, [(0x40, 44)], [⟨0, 32, .ro, 0⟩]⟩
  -- LANE.TRAIN R469
  | .laneTrain => ⟨0x801030, [(0x40, 44)], [⟨0, 2, .ro, 0⟩, ⟨2, 1, .rw, 0⟩, ⟨16, 16, .ro, 0⟩]⟩
  -- LANE.TX_COEF R469
  | .laneTxCoef => ⟨0x801034, [(0x40, 44)], [⟨0, 4, .ro, 0⟩, ⟨4, 6, .ro, 0⟩, ⟨10, 5, .ro, 0⟩]⟩
  -- CXP.POCXP_BUDGET R88
  | .cxpPocxpBudget => ⟨0x900000, [], [⟨0, 8, .rw, 0xf0⟩]⟩
  -- CXP.POCXP_TOTAL R89
  | .cxpPocxpTotal => ⟨0x900004, [], [⟨0, 12, .ro, 0⟩, ⟨16, 16, .ro, 0⟩]⟩
  -- CXP.UNBOUND_CNT R90
  | .cxpUnboundCnt => ⟨0x900008, [], [⟨0, 32, .ro, 0⟩]⟩
  -- CXP.PORT_CTRL R91
  | .cxpPortCtrl => ⟨0x901000, [(0x40, 32)], [⟨0, 1, .rw, 0⟩, ⟨1, 1, .w1s, 0⟩, ⟨4, 4, .rw, 0xd⟩,
      ⟨8, 3, .rw, 0⟩]⟩
  -- CXP.PORT_STATUS R92
  | .cxpPortStatus => ⟨0x901004, [(0x40, 32)], [⟨0, 4, .ro, 0⟩, ⟨4, 3, .ro, 0⟩, ⟨7, 1, .ro, 0⟩,
      ⟨8, 3, .ro, 0⟩, ⟨11, 1, .ro, 0⟩, ⟨12, 1, .ro, 0⟩]⟩
  -- CXP.PORT_CAPS R93
  | .cxpPortCaps => ⟨0x901008, [(0x40, 32)], [⟨0, 8, .ro, 0⟩, ⟨8, 4, .ro, 0⟩]⟩
  -- CXP.PORT_POWER R94
  | .cxpPortPower => ⟨0x90100c, [(0x40, 32)], [⟨0, 10, .ro, 0⟩, ⟨16, 9, .ro, 0⟩]⟩
  -- CXP.PORT_CABLE R94
  | .cxpPortCable => ⟨0x901010, [(0x40, 32)], [⟨0, 8, .ro, 0⟩, ⟨8, 8, .ro, 0⟩, ⟨16, 8, .ro, 0⟩]⟩
  -- CXP.PORT_ERR R95
  | .cxpPortErr => ⟨0x901014, [(0x40, 32)], [⟨0, 1, .w1c, 0⟩, ⟨1, 1, .w1c, 0⟩, ⟨2, 1, .w1c, 0⟩,
      ⟨3, 1, .w1c, 0⟩, ⟨4, 1, .w1c, 0⟩, ⟨5, 1, .w1c, 0⟩, ⟨6, 1, .w1c, 0⟩, ⟨7, 1, .w1c, 0⟩]⟩
  -- CXP.PORT_ERR_CNT0/1 CNT
  | .cxpPortErrCnt => ⟨0x901018, [(0x40, 32), (0x4, 2)], [⟨0, 32, .ro, 0⟩]⟩
  -- CXP.STREAM_CFG R96
  | .cxpStreamCfg => ⟨0x904000, [(0x40, 64)], [⟨0, 1, .rw, 1⟩, ⟨4, 4, .rw, 4⟩]⟩
  -- CXP.STREAM_STATUS R97
  | .cxpStreamStatus => ⟨0x904004, [(0x40, 64)], [⟨0, 3, .ro, 0⟩, ⟨3, 1, .ro, 0⟩]⟩
  -- CXP.STREAM_LB R97
  | .cxpStreamLb => ⟨0x904008, [(0x40, 64)], [⟨0, 32, .ro, 0⟩]⟩
  -- CXP.STREAM_TRIG R97
  | .cxpStreamTrig => ⟨0x90400c, [(0x40, 64)], [⟨0, 32, .ro, 0⟩]⟩
  -- CXP.STREAM_LINES R97
  | .cxpStreamLines => ⟨0x904010, [(0x40, 64)], [⟨0, 32, .ro, 0⟩]⟩
  -- CXP.STREAM_ERR R98
  | .cxpStreamErr => ⟨0x904014, [(0x40, 64)], [⟨0, 1, .w1c, 0⟩, ⟨1, 1, .w1c, 0⟩, ⟨2, 1, .w1c,
      0⟩, ⟨3, 1, .w1c, 0⟩, ⟨4, 1, .w1c, 0⟩, ⟨5, 1, .w1c, 0⟩, ⟨6, 1, .w1c, 0⟩, ⟨7, 1, .w1c, 0⟩]⟩
  -- CXP.STREAM_ERR_CNT0/1 CNT
  | .cxpStreamErrCnt => ⟨0x904018, [(0x40, 64), (0x4, 2)], [⟨0, 32, .ro, 0⟩]⟩
  -- CXP.STREAM_DROPPED CNT32
  | .cxpStreamDropped => ⟨0x904020, [(0x40, 64)], [⟨0, 32, .ro, 0⟩]⟩
  -- LINE.PIPE_STATUS R116
  | .linePipeStatus => ⟨0xa01000, [(0x40, 4)], [⟨0, 6, .ro, 0⟩, ⟨6, 1, .ro, 0⟩, ⟨8, 8, .ro, 0⟩]⟩
  -- LINE.PIPE_LOAD R117
  | .linePipeLoad => ⟨0xa01004, [(0x40, 4)], [⟨0, 16, .ro, 0⟩]⟩
  -- LINE.PIPE_BACKLOG R117
  | .linePipeBacklog => ⟨0xa01008, [(0x40, 4)], [⟨0, 32, .ro, 0⟩]⟩
  -- LINE.STAT_BASE_LO R118
  | .lineStatBaseLo => ⟨0xa04000, [(0x40, 64)], [⟨0, 32, .ro, 0⟩]⟩
  -- LINE.STAT_BASE_HI R118
  | .lineStatBaseHi => ⟨0xa04004, [(0x40, 64)], [⟨0, 8, .ro, 0⟩]⟩
  -- LINE.STAT_CFG R118
  | .lineStatCfg => ⟨0xa04008, [(0x40, 64)], [⟨0, 5, .ro, 0⟩, ⟨16, 16, .ro, 0⟩]⟩
  -- LINE.STAT_PROD R119
  | .lineStatProd => ⟨0xa0400c, [(0x40, 64)], [⟨0, 32, .ro, 0⟩]⟩
  -- LINE.STAT_CONS R119
  | .lineStatCons => ⟨0xa04010, [(0x40, 64)], [⟨0, 32, .rw, 0⟩]⟩
  -- LINE.STAT_LOST R119
  | .lineStatLost => ⟨0xa04014, [(0x40, 64)], [⟨0, 32, .ro, 0⟩]⟩
  -- LINE.STREAM_FLAGS R120
  | .lineStreamFlags => ⟨0xa04018, [(0x40, 64)], [⟨0, 1, .w1c, 0⟩, ⟨1, 1, .w1c, 0⟩, ⟨2, 1, .w1c,
      0⟩, ⟨3, 1, .w1c, 0⟩, ⟨4, 1, .w1c, 0⟩]⟩
  -- LINE.STREAM_FLAGS_CNT0/1 CNT
  | .lineStreamFlagsCnt => ⟨0xa0401c, [(0x40, 64), (0x4, 2)], [⟨0, 32, .ro, 0⟩]⟩
  -- LINE.SPILL_LINES R121
  | .lineSpillLines => ⟨0xa04024, [(0x40, 64)], [⟨0, 32, .ro, 0⟩]⟩
  -- LINE.LINES_OUT R121
  | .lineLinesOut => ⟨0xa04028, [(0x40, 64)], [⟨0, 32, .ro, 0⟩]⟩
  -- SCHED.STATUS R238
  | .schedStatus => ⟨0xb00000, [], [⟨0, 4, .ro, 0⟩, ⟨4, 1, .ro, 0⟩, ⟨8, 8, .ro, 0⟩, ⟨16, 8, .ro,
      0⟩]⟩
  -- SCHED.SLICE R239
  | .schedSlice => ⟨0xb00004, [], [⟨0, 17, .rw, 0x7d0⟩]⟩
  -- SCHED.TURN R240
  | .schedTurn => ⟨0xb00008, [], [⟨0, 2, .ro, 0⟩, ⟨2, 1, .ro, 0⟩, ⟨3, 1, .ro, 0⟩, ⟨12, 20, .ro,
      0⟩]⟩
  -- SCHED.CONTEXTS R241
  | .schedContexts => ⟨0xb0000c, [], [⟨0, 11, .ro, 0⟩, ⟨16, 11, .ro, 0⟩]⟩
  -- SCHED.FLAGS R242
  | .schedFlags => ⟨0xb00010, [], [⟨0, 1, .w1c, 0⟩, ⟨1, 1, .w1c, 0⟩, ⟨2, 1, .w1c, 0⟩, ⟨3, 1,
      .w1c, 0⟩, ⟨4, 1, .w1c, 0⟩]⟩
  -- SCHED.FLAGS_CNT0/1 CNT
  | .schedFlagsCnt => ⟨0xb00014, [(0x4, 2)], [⟨0, 32, .ro, 0⟩]⟩
  -- SCHED.SEAT_DEBTs R243
  | .schedSeatDebt => ⟨0xb00020, [(0x4, 4)], [⟨0, 16, .ro, 0⟩, ⟨16, 8, .ro, 0⟩]⟩
  -- SCHED.CTX_SEL R244
  | .schedCtxSel => ⟨0xb00040, [(0x10, 4)], [⟨0, 10, .rw, 0⟩]⟩
  -- SCHED.CTX_STATE R244
  | .schedCtxState => ⟨0xb00044, [(0x10, 4)], [⟨0, 3, .ro, 0⟩, ⟨3, 2, .ro, 0⟩, ⟨5, 1, .ro, 0⟩,
      ⟨6, 1, .ro, 0⟩, ⟨7, 2, .ro, 0⟩, ⟨9, 7, .ro, 0⟩, ⟨16, 2, .ro, 0⟩]⟩
  -- SCHED.CTX_BLOCKED_US R244
  | .schedCtxBlockedUs => ⟨0xb00048, [(0x10, 4)], [⟨0, 32, .ro, 0⟩]⟩
  -- SCHED.CTX_STARVE R244
  | .schedCtxStarve => ⟨0xb0004c, [(0x10, 4)], [⟨0, 32, .ro, 0⟩]⟩
  -- LEDG.BASE_LO R273
  | .ledgBaseLo => ⟨0xc00000, [], [⟨0, 32, .ro, 0⟩]⟩
  -- LEDG.BASE_HI R273
  | .ledgBaseHi => ⟨0xc00004, [], [⟨0, 8, .ro, 0⟩]⟩
  -- LEDG.IN_FLIGHT R274
  | .ledgInFlight => ⟨0xc00008, [], [⟨0, 21, .ro, 0⟩]⟩
  -- LEDG.OPEN_RATE R274
  | .ledgOpenRate => ⟨0xc0000c, [], [⟨0, 18, .ro, 0⟩]⟩
  -- LEDG.SEQ_LO R275
  | .ledgSeqLo => ⟨0xc00010, [], [⟨0, 32, .ro, 1⟩]⟩
  -- LEDG.SEQ_HI R275
  | .ledgSeqHi => ⟨0xc00014, [], [⟨0, 12, .ro, 0⟩]⟩
  -- LEDG.FLAGS R276
  | .ledgFlags => ⟨0xc00018, [], [⟨0, 1, .w1c, 0⟩, ⟨1, 1, .w1c, 0⟩, ⟨2, 1, .w1c, 0⟩, ⟨3, 1,
      .w1c, 0⟩, ⟨4, 1, .w1c, 0⟩, ⟨5, 1, .w1c, 0⟩, ⟨6, 1, .w1c, 0⟩, ⟨7, 1, .w1c, 0⟩]⟩
  -- LEDG.FLAGS_CNT0/1 CNT
  | .ledgFlagsCnt => ⟨0xc0001c, [(0x4, 2)], [⟨0, 32, .ro, 0⟩]⟩
  -- LEDG.SOURCE_CNTs R277
  | .ledgSourceCnt => ⟨0xc00030, [(0x4, 5)], [⟨0, 32, .ro, 0⟩]⟩
  -- LEDG.SLACK R277
  | .ledgSlack => ⟨0xc00050, [], [⟨0, 32, .ro, 0x7fffffff⟩]⟩
  -- EJECT.LIST_BASE_LO R303
  | .ejListBaseLo => ⟨0xd00000, [], [⟨0, 32, .ro, 0⟩]⟩
  -- EJECT.LIST_BASE_HI R303
  | .ejListBaseHi => ⟨0xd00004, [], [⟨0, 8, .ro, 0⟩]⟩
  -- EJECT.LIST_COUNT R303
  | .ejListCount => ⟨0xd00008, [], [⟨0, 22, .ro, 0⟩]⟩
  -- EJECT.INSERT_RATE R303
  | .ejInsertRate => ⟨0xd0000c, [], [⟨0, 32, .ro, 0⟩]⟩
  -- EJECT.LIST_CTRL R303
  | .ejListCtrl => ⟨0xd00010, [], [⟨0, 1, .w1s, 0⟩]⟩
  -- EJECT.FLAGS R304
  | .ejFlags => ⟨0xd00014, [], [⟨0, 1, .w1c, 0⟩, ⟨1, 1, .w1c, 0⟩, ⟨2, 1, .w1c, 0⟩, ⟨3, 1, .w1c,
      0⟩, ⟨4, 1, .w1c, 0⟩, ⟨5, 1, .w1c, 0⟩, ⟨6, 1, .w1c, 0⟩, ⟨7, 1, .w1c, 0⟩]⟩
  -- EJECT.FLAGS_CNT0/1 CNT
  | .ejFlagsCnt => ⟨0xd00018, [(0x4, 2)], [⟨0, 32, .ro, 0⟩]⟩
  -- EJECT.FIRED_CNT CNT32
  | .ejFiredCnt => ⟨0xd00020, [], [⟨0, 32, .ro, 0⟩]⟩
  -- EJECT.MISSED_CNT CNT32
  | .ejMissedCnt => ⟨0xd00024, [], [⟨0, 32, .ro, 0⟩]⟩
  -- EJECT.MISMATCH_CNT CNT32
  | .ejMismatchCnt => ⟨0xd00028, [], [⟨0, 32, .ro, 0⟩]⟩
  -- EJECT.ENC_POS_LO R305
  | .encPosLo => ⟨0xd01000, [(0x40, 8)], [⟨0, 32, .ro, 0⟩]⟩
  -- EJECT.ENC_POS_HI R305
  | .encPosHi => ⟨0xd01004, [(0x40, 8)], [⟨0, 24, .ro, 0⟩]⟩
  -- EJECT.ENC_PERIOD R305
  | .encPeriod => ⟨0xd01008, [(0x40, 8)], [⟨0, 32, .ro, 0xffffffff⟩]⟩
  -- EJECT.ENC_STATUS R305
  | .encStatus => ⟨0xd0100c, [(0x40, 8)], [⟨0, 2, .ro, 0⟩, ⟨2, 1, .ro, 0⟩, ⟨3, 1, .ro, 0⟩, ⟨16,
      11, .ro, 0⟩]⟩
  -- EJECT.ENC_INDEX_LO R305
  | .encIndexLo => ⟨0xd01010, [(0x40, 8)], [⟨0, 32, .ro, 0⟩]⟩
  -- EJECT.ENC_INDEX_HI R305
  | .encIndexHi => ⟨0xd01014, [(0x40, 8)], [⟨0, 16, .ro, 0⟩]⟩
  -- EJECT.ENC_INDEX_CNT R305
  | .encIndexCnt => ⟨0xd01018, [(0x40, 8)], [⟨0, 32, .ro, 0⟩]⟩
  -- EJECT.ENC_CTRL R305
  | .encCtrl => ⟨0xd0101c, [(0x40, 8)], [⟨0, 1, .w1s, 0⟩]⟩
  -- EJECT.ENC_ERR R306
  | .encErr => ⟨0xd01020, [(0x40, 8)], [⟨0, 1, .w1c, 0⟩, ⟨1, 1, .w1c, 0⟩, ⟨2, 1, .w1c, 0⟩, ⟨3,
      1, .w1c, 0⟩, ⟨4, 1, .w1c, 0⟩, ⟨5, 1, .w1c, 0⟩, ⟨6, 1, .w1c, 0⟩, ⟨7, 1, .w1c, 0⟩]⟩
  -- EJECT.ENC_ERR_CNT0/1 CNT
  | .encErrCnt => ⟨0xd01024, [(0x40, 8), (0x4, 2)], [⟨0, 32, .ro, 0⟩]⟩
  -- EJECT.DIV_STATUS R307
  | .divStatus => ⟨0xd02000, [(0x40, 8)], [⟨0, 1, .ro, 0⟩, ⟨1, 3, .ro, 0⟩]⟩
  -- EJECT.DIV_K_LO R307
  | .divKLo => ⟨0xd02004, [(0x40, 8)], [⟨0, 32, .ro, 0⟩]⟩
  -- EJECT.DIV_K_HI R307
  | .divKHi => ⟨0xd02008, [(0x40, 8)], [⟨0, 32, .ro, 0⟩]⟩
  -- EJECT.DIV_SUPPRESSED R307
  | .divSuppressed => ⟨0xd0200c, [(0x40, 8)], [⟨0, 32, .ro, 0⟩]⟩
  -- EJECT.MAP_BASE_LO R307
  | .mapBaseLo => ⟨0xd02010, [(0x40, 8)], [⟨0, 32, .ro, 0⟩]⟩
  -- EJECT.MAP_BASE_HI R307
  | .mapBaseHi => ⟨0xd02014, [(0x40, 8)], [⟨0, 8, .ro, 0⟩]⟩
  -- EJECT.MAP_CFG R307
  | .mapCfg => ⟨0xd02018, [(0x40, 8)], [⟨0, 5, .ro, 0⟩]⟩
  -- EJECT.DIV_ERR R307
  | .divErr => ⟨0xd0201c, [(0x40, 8)], [⟨0, 1, .w1c, 0⟩]⟩
  -- EJECT.DIV_ERR_CNT R307
  | .divErrCnt => ⟨0xd02020, [(0x40, 8)], [⟨0, 8, .ro, 0⟩]⟩
  -- ADAPT.CAP_STATUS R341
  | .capStatus => ⟨0xe00000, [], [⟨0, 9, .ro, 0⟩, ⟨9, 1, .ro, 0⟩]⟩
  -- ADAPT.CAP_COUNT R341
  | .capCount => ⟨0xe00004, [], [⟨0, 32, .ro, 0⟩]⟩
  -- ADAPT.CAP_DROPPED R341
  | .capDropped => ⟨0xe00008, [], [⟨0, 32, .ro, 0⟩]⟩
  -- ADAPT.CAP_FLAGS R342
  | .capFlags => ⟨0xe0000c, [], [⟨0, 1, .w1c, 0⟩, ⟨1, 1, .w1c, 0⟩, ⟨2, 1, .w1c, 0⟩, ⟨3, 1, .w1c,
      0⟩]⟩
  -- ADAPT.CAP_FLAGS_CNT CNT
  | .capFlagsCnt => ⟨0xe00010, [], [⟨0, 32, .ro, 0⟩]⟩
  -- ADAPT.DEC_FLAGS R343
  | .decFlags => ⟨0xe00020, [], [⟨0, 1, .w1c, 0⟩, ⟨1, 1, .w1c, 0⟩, ⟨2, 1, .w1c, 0⟩, ⟨3, 1, .w1c,
      0⟩, ⟨4, 1, .w1c, 0⟩, ⟨5, 1, .w1c, 0⟩, ⟨6, 1, .w1c, 0⟩, ⟨7, 1, .w1c, 0⟩]⟩
  -- ADAPT.DEC_FLAGS_CNT0/1 CNT
  | .decFlagsCnt => ⟨0xe00024, [(0x4, 2)], [⟨0, 32, .ro, 0⟩]⟩
  -- ADAPT.DEC_LOAD R344
  | .decLoad => ⟨0xe0002c, [], [⟨0, 16, .ro, 0⟩]⟩
  -- ADAPT.DEC_COUNT R344
  | .decCount => ⟨0xe00030, [], [⟨0, 32, .ro, 0⟩]⟩
  -- ADAPT.CACHE_USED R344
  | .cacheUsed => ⟨0xe00034, [], [⟨0, 32, .ro, 0⟩]⟩
  -- ADAPT.CACHE_HITS R344
  | .cacheHits => ⟨0xe00038, [], [⟨0, 32, .ro, 0⟩]⟩
  -- ADAPT.CACHE_CTRL R344
  | .cacheCtrl => ⟨0xe0003c, [], [⟨0, 1, .w1s, 0⟩]⟩
  -- ADAPT.LIB_STATUS R345
  | .libStatus => ⟨0xe00100, [(0x20, 8)], [⟨0, 1, .ro, 0⟩, ⟨1, 1, .ro, 0⟩, ⟨2, 1, .ro, 0⟩, ⟨3,
      5, .ro, 0⟩]⟩
  -- ADAPT.LIB_INDEX_LO R345
  | .libIndexLo => ⟨0xe00104, [(0x20, 8)], [⟨0, 32, .ro, 0⟩]⟩
  -- ADAPT.LIB_INDEX_HI R345
  | .libIndexHi => ⟨0xe00108, [(0x20, 8)], [⟨0, 8, .ro, 0⟩]⟩
  -- ADAPT.LIB_NEXT_LO R345
  | .libNextLo => ⟨0xe0010c, [(0x20, 8)], [⟨0, 32, .ro, 0⟩]⟩
  -- ADAPT.LIB_NEXT_HI R345
  | .libNextHi => ⟨0xe00110, [(0x20, 8)], [⟨0, 32, .ro, 0⟩]⟩
  -- ADAPT.LIB_OLDEST_LO R345
  | .libOldestLo => ⟨0xe00114, [(0x20, 8)], [⟨0, 32, .ro, 0⟩]⟩
  -- ADAPT.LIB_OLDEST_HI R345
  | .libOldestHi => ⟨0xe00118, [(0x20, 8)], [⟨0, 32, .ro, 0⟩]⟩
  -- ADAPT.LIB_FREE R345
  | .libFree => ⟨0xe0011c, [(0x20, 8)], [⟨0, 32, .ro, 0⟩]⟩
  -- ADAPT.CAND_STATUS R364
  | .candStatus => ⟨0xe00200, [], [⟨0, 1, .ro, 0⟩, ⟨1, 5, .ro, 0⟩, ⟨8, 8, .ro, 0⟩, ⟨16, 16, .ro,
      0⟩]⟩
  -- ADAPT.SHADOW_RUN R365
  | .shadowRun => ⟨0xe00204, [], [⟨0, 32, .ro, 0⟩]⟩
  -- ADAPT.SHADOW_DISAGREE R365
  | .shadowDisagree => ⟨0xe00208, [], [⟨0, 32, .ro, 0⟩]⟩
  -- ADAPT.SHADOW_CANCELLED R365
  | .shadowCancelled => ⟨0xe0020c, [], [⟨0, 32, .ro, 0⟩]⟩
  -- ADAPT.TALLY_BASE_LO R365
  | .tallyBaseLo => ⟨0xe00210, [], [⟨0, 32, .ro, 0⟩]⟩
  -- ADAPT.TALLY_BASE_HI R365
  | .tallyBaseHi => ⟨0xe00214, [], [⟨0, 8, .ro, 0⟩]⟩
  -- ADAPT.TRAIN_FLAGS R366
  | .trainFlags => ⟨0xe00218, [], [⟨0, 1, .w1c, 0⟩, ⟨1, 1, .w1c, 0⟩, ⟨2, 1, .w1c, 0⟩, ⟨3, 1,
      .w1c, 0⟩, ⟨4, 1, .w1c, 0⟩]⟩
  -- ADAPT.TRAIN_FLAGS_CNT0/1 CNT
  | .trainFlagsCnt => ⟨0xe0021c, [(0x4, 2)], [⟨0, 32, .ro, 0⟩]⟩
  -- ADAPT.JOB_STATUS R367
  | .jobStatus => ⟨0xe00400, [(0x20, 32)], [⟨0, 3, .ro, 0⟩, ⟨3, 1, .ro, 0⟩, ⟨4, 1, .ro, 0⟩]⟩
  -- ADAPT.JOB_EPOCH R367
  | .jobEpoch => ⟨0xe00404, [(0x20, 32)], [⟨0, 32, .ro, 0⟩]⟩
  -- ADAPT.JOB_STEP R367
  | .jobStep => ⟨0xe00408, [(0x20, 32)], [⟨0, 32, .ro, 0⟩]⟩
  -- ADAPT.JOB_LOSS R367
  | .jobLoss => ⟨0xe0040c, [(0x20, 32)], [⟨0, 32, .ro, 0x7fc00000⟩]⟩
  -- ADAPT.JOB_USED R367
  | .jobUsed => ⟨0xe00410, [(0x20, 32)], [⟨0, 32, .ro, 0⟩]⟩
  -- ADAPT.JOB_SKIPPED R367
  | .jobSkipped => ⟨0xe00414, [(0x20, 32)], [⟨0, 32, .ro, 0⟩]⟩
  -- ADAPT.JOB_T_LO R367
  | .jobTLo => ⟨0xe00418, [(0x20, 32)], [⟨0, 32, .ro, 0⟩]⟩
  -- ADAPT.JOB_T_HI R367
  | .jobTHi => ⟨0xe0041c, [(0x20, 32)], [⟨0, 32, .ro, 0⟩]⟩
  -- FIELD.LINK_STATUS R486
  | .fldLinkStatus => ⟨0xf00000, [], [⟨0, 2, .ro, 0⟩, ⟨2, 1, .ro, 1⟩]⟩
  -- FIELD.LINK_ERR R486
  | .fldLinkErr => ⟨0xf00004, [], [⟨0, 1, .w1c, 0⟩, ⟨1, 1, .w1c, 0⟩, ⟨2, 1, .w1c, 0⟩, ⟨3, 1,
      .w1c, 0⟩, ⟨4, 1, .w1c, 0⟩, ⟨5, 1, .w1c, 0⟩]⟩
  -- FIELD.LINK_ERR_CNT0 R486
  | .fldLinkErrCnt0 => ⟨0xf00008, [], [⟨0, 32, .ro, 0⟩]⟩
  -- FIELD.LINK_ERR_CNT1 R486
  | .fldLinkErrCnt1 => ⟨0xf0000c, [], [⟨0, 16, .ro, 0⟩]⟩
  -- FIELD.RETRANSMIT R486
  | .fldRetransmit => ⟨0xf00010, [], [⟨0, 32, .ro, 0⟩]⟩
  -- FIELD.FIELD_SUPPLY R486
  | .fldSupply => ⟨0xf00014, [], [⟨0, 16, .ro, 0⟩]⟩
  -- FIELD.PPS_IGNORED R486
  | .fldPpsIgnored => ⟨0xf00018, [], [⟨0, 32, .ro, 0⟩]⟩
  -- FIELD.DI_LEVEL R487
  | .fldDiLevel => ⟨0xf00020, [], [⟨0, 32, .ro, 0⟩]⟩
  -- FIELD.Q_ON_LO R487
  | .fldQOnLo => ⟨0xf00024, [], [⟨0, 32, .ro, 0⟩]⟩
  -- FIELD.Q_ON_HI R487
  | .fldQOnHi => ⟨0xf00028, [], [⟨0, 32, .ro, 0⟩]⟩
  -- FIELD.Q_HOST_LO R487
  | .fldQHostLo => ⟨0xf0002c, [], [⟨0, 32, .rw, 0⟩]⟩
  -- FIELD.Q_HOST_HI R487
  | .fldQHostHi => ⟨0xf00030, [], [⟨0, 32, .rw, 0⟩]⟩
  -- FIELD.Q_MEAS R488
  | .qMeas => ⟨0xf01000, [(0x10, 64)], [⟨0, 10, .ro, 0⟩, ⟨10, 1, .ro, 0⟩, ⟨11, 1, .ro, 0⟩]⟩
  -- FIELD.Q_ERR R488
  | .qErr => ⟨0xf01004, [(0x10, 64)], [⟨0, 1, .w1c, 0⟩, ⟨1, 1, .w1c, 0⟩, ⟨2, 1, .w1c, 0⟩, ⟨3, 1,
      .w1c, 0⟩]⟩
  -- FIELD.Q_ERR_CNT R488
  | .qErrCnt => ⟨0xf01008, [(0x10, 64)], [⟨0, 32, .ro, 0⟩]⟩
  -- FIELD.Q_CTRL R488
  | .qCtrl => ⟨0xf0100c, [(0x10, 64)], [⟨0, 1, .w1s, 0⟩]⟩
  -- FIELD.G_CURRENT R489
  | .gCurrent => ⟨0xf02000, [(0x10, 8)], [⟨0, 13, .ro, 0⟩]⟩
  -- FIELD.G_ERR R489
  | .gErr => ⟨0xf02004, [(0x10, 8)], [⟨0, 1, .w1c, 0⟩]⟩
  -- FIELD.G_ERR_CNT R489
  | .gErrCnt => ⟨0xf02008, [(0x10, 8)], [⟨0, 8, .ro, 0⟩]⟩
  -- FIELD.G_CTRL R489
  | .gCtrl => ⟨0xf0200c, [(0x10, 8)], [⟨0, 1, .w1s, 0⟩]⟩
  -- FIELD.CNT_VALUE R489
  | .cntValue => ⟨0xf03000, [(0x10, 4)], [⟨0, 32, .ro, 0⟩]⟩
  -- FIELD.CNT_FREQ R489
  | .cntFreq => ⟨0xf03004, [(0x10, 4)], [⟨0, 32, .ro, 0⟩]⟩
  -- FIELD.CNT_CTRL R489
  | .cntCtrl => ⟨0xf03008, [(0x10, 4)], [⟨0, 1, .w1s, 0⟩, ⟨1, 1, .ro, 0⟩]⟩
  -- CORE.CTRL R245
  | .coreCtrl => ⟨0x1000000, [(0x400000, 4)], [⟨0, 1, .rw, 0⟩]⟩
  -- CORE.STATUS R246
  | .coreStatus => ⟨0x1000004, [(0x400000, 4)], [⟨0, 4, .ro, 0⟩, ⟨4, 2, .ro, 0⟩, ⟨16, 10, .ro,
      0⟩]⟩
  -- CORE.CLOCK R247
  | .coreClock => ⟨0x1000008, [(0x400000, 4)], [⟨0, 11, .ro, 0⟩, ⟨11, 1, .ro, 0⟩]⟩
  -- CORE.LOAD R247
  | .coreLoad => ⟨0x100000c, [(0x400000, 4)], [⟨0, 16, .ro, 0⟩, ⟨16, 16, .ro, 0⟩]⟩
  -- CORE.POOL R248
  | .corePool => ⟨0x1000010, [(0x400000, 4)], [⟨0, 16, .ro, 0⟩, ⟨16, 16, .ro, 0⟩]⟩
  -- CORE.DONE R248
  | .coreDone => ⟨0x1000014, [(0x400000, 4)], [⟨0, 32, .ro, 0⟩]⟩
  -- CORE.KILLS R248
  | .coreKills => ⟨0x1000018, [(0x400000, 4)], [⟨0, 16, .ro, 0⟩, ⟨16, 16, .ro, 0⟩]⟩
  -- CORE.ERR R249
  | .coreErr => ⟨0x100001c, [(0x400000, 4)], [⟨0, 1, .w1c, 0⟩, ⟨1, 1, .w1c, 0⟩, ⟨2, 1, .w1c, 0⟩,
      ⟨3, 1, .w1c, 0⟩]⟩
  -- CORE.ERR_CNT CNT
  | .coreErrCnt => ⟨0x1000020, [(0x400000, 4)], [⟨0, 32, .ro, 0⟩]⟩

/-- Register rows, part 0. -/
def RN.part0 : List RN :=
  [.glbIdent, .glbCaps, .glbState, .glbFwVersion, .glbSerial, .glbScratch,
   .rstCause, .rstResetCount, .rstBoot, .rstBootStatus, .rstSwReset, .rstScopedCount,
   .rstOptStatus, .rstOptCtrl, .rstTrimStatus, .rstRtcLo, .rstRtcHi, .rstOptWindow,
   .rstJ1, .rstTempPlate, .rstTempCore, .rstThrottle, .rstPwrErr, .rstPwrErrCnt,
   .rstIslands, .rstRail, .secStatus, .secSlotState, .secFlags, .secFlagsCnt]

/-- Register rows, part 1. -/
def RN.part1 : List RN :=
  [.secVerifyCount, .secAttestCount, .secRootHash, .evrStatus, .evrRingCount, .evrSeqNext,
   .evrSeqOldest, .evrCtrl, .evrFlags, .evrFlagsCnt, .evrCritCount, .evrDropSev,
   .evrRateSev, .evrSyslogCfg, .evrSyslogIp, .evrExportDropSyslog, .evrExportDropFanout, .evrCursorLo,
   .evrCursorHi, .evrWindow, .evrClassMatch, .evrClassAddr, .timeSnap, .timePtpStatus,
   .timeMeanPathDelay, .timeGmId, .tbCtrl, .tbStatus, .tbStatusCnt, .tbW2]

/-- Register rows, part 2. -/
def RN.part2 : List RN :=
  [.tbW1, .tbW0, .tbIncHi, .tbIncLo, .tbOffset, .tbBasePpb,
   .tbStepHi, .tbStepLo, .tbStepCtrl, .snapW, .netPortStatus, .netPortErr,
   .netPortErrCnt, .netIpAddr, .netIpCfg, .netMacLo, .netMacHi, .netGroupStatus,
   .netGroupMembers, .netGroupFlags, .netGroupFlagsCnt, .netAxisAge, .netGroupRxDrop, .netStripStatus,
   .netStripRx, .netStripLost, .netStripSeam, .hostLock, .hostBhPort, .hostPciId]

/-- Register rows, part 3. -/
def RN.part3 : List RN :=
  [.hostBhDrop, .hostLostCompletions, .sqBaseLo, .sqBaseHi, .cqBaseLo, .cqBaseHi,
   .ringCfg, .sqTail, .sqHead, .cqHead, .cqTail, .cqMod,
   .ringStatus, .ringStatusCnt, .seatStatus, .intPending, .intStatus, .intStatusCnt,
   .intMask, .apBaseLo, .apBaseHi, .peerIp, .peerPort, .session,
   .cmdArrived, .memStatus, .memScrubCfg, .memScrubPos, .memErr, .memErrCnt]

/-- Register rows, part 4. -/
def RN.part4 : List RN :=
  [.memCeCount, .memUeCount, .memUeAddrLo, .memUeAddrHi, .memBwRead, .memBwWrite,
   .memRegBaseLo, .memRegBaseHi, .memRegSize, .memChStatus, .memChCe, .laneCtrl,
   .laneCmd, .laneStatus, .lanePattern, .laneMatchCfg, .laneMatchCnt, .lanePrbsBitsLo,
   .lanePrbsBitsHi, .lanePrbsErr, .laneErr, .laneErrCnt, .laneCodeErr, .laneTrain,
   .laneTxCoef, .cxpPocxpBudget, .cxpPocxpTotal, .cxpUnboundCnt, .cxpPortCtrl, .cxpPortStatus]

/-- Register rows, part 5. -/
def RN.part5 : List RN :=
  [.cxpPortCaps, .cxpPortPower, .cxpPortCable, .cxpPortErr, .cxpPortErrCnt, .cxpStreamCfg,
   .cxpStreamStatus, .cxpStreamLb, .cxpStreamTrig, .cxpStreamLines, .cxpStreamErr, .cxpStreamErrCnt,
   .cxpStreamDropped, .linePipeStatus, .linePipeLoad, .linePipeBacklog, .lineStatBaseLo, .lineStatBaseHi,
   .lineStatCfg, .lineStatProd, .lineStatCons, .lineStatLost, .lineStreamFlags, .lineStreamFlagsCnt,
   .lineSpillLines, .lineLinesOut, .schedStatus, .schedSlice, .schedTurn, .schedContexts]

/-- Register rows, part 6. -/
def RN.part6 : List RN :=
  [.schedFlags, .schedFlagsCnt, .schedSeatDebt, .schedCtxSel, .schedCtxState, .schedCtxBlockedUs,
   .schedCtxStarve, .ledgBaseLo, .ledgBaseHi, .ledgInFlight, .ledgOpenRate, .ledgSeqLo,
   .ledgSeqHi, .ledgFlags, .ledgFlagsCnt, .ledgSourceCnt, .ledgSlack, .ejListBaseLo,
   .ejListBaseHi, .ejListCount, .ejInsertRate, .ejListCtrl, .ejFlags, .ejFlagsCnt,
   .ejFiredCnt, .ejMissedCnt, .ejMismatchCnt, .encPosLo, .encPosHi, .encPeriod]

/-- Register rows, part 7. -/
def RN.part7 : List RN :=
  [.encStatus, .encIndexLo, .encIndexHi, .encIndexCnt, .encCtrl, .encErr,
   .encErrCnt, .divStatus, .divKLo, .divKHi, .divSuppressed, .mapBaseLo,
   .mapBaseHi, .mapCfg, .divErr, .divErrCnt, .capStatus, .capCount,
   .capDropped, .capFlags, .capFlagsCnt, .decFlags, .decFlagsCnt, .decLoad,
   .decCount, .cacheUsed, .cacheHits, .cacheCtrl, .libStatus, .libIndexLo]

/-- Register rows, part 8. -/
def RN.part8 : List RN :=
  [.libIndexHi, .libNextLo, .libNextHi, .libOldestLo, .libOldestHi, .libFree,
   .candStatus, .shadowRun, .shadowDisagree, .shadowCancelled, .tallyBaseLo, .tallyBaseHi,
   .trainFlags, .trainFlagsCnt, .jobStatus, .jobEpoch, .jobStep, .jobLoss,
   .jobUsed, .jobSkipped, .jobTLo, .jobTHi, .fldLinkStatus, .fldLinkErr,
   .fldLinkErrCnt0, .fldLinkErrCnt1, .fldRetransmit, .fldSupply, .fldPpsIgnored, .fldDiLevel]

/-- Register rows, part 9. -/
def RN.part9 : List RN :=
  [.fldQOnLo, .fldQOnHi, .fldQHostLo, .fldQHostHi, .qMeas, .qErr,
   .qErrCnt, .qCtrl, .gCurrent, .gErr, .gErrCnt, .gCtrl,
   .cntValue, .cntFreq, .cntCtrl, .coreCtrl, .coreStatus, .coreClock,
   .coreLoad, .corePool, .coreDone, .coreKills, .coreErr, .coreErrCnt]

/-- Every register row. -/
def RN.all : List RN :=
  RN.part0 ++ RN.part1 ++ RN.part2 ++ RN.part3 ++ RN.part4 ++ RN.part5 ++ RN.part6 ++ RN.part7 ++ RN.part8 ++ RN.part9

/-- The index a row gives an offset, as the list of its index values, if the offset is one of
the row's registers. -/
def RegRow.index (r : RegRow) (off : Nat) : Option (List Nat) :=
  if off < r.base then none else
  let d := off - r.base
  match r.dims with
  | [] => if d = 0 then some [] else none
  | [(s, n)] => if d % s = 0 ∧ d / s < n then some [d / s] else none
  | (s, n) :: (t, m) :: _ =>
      if d / s < n ∧ d % s % t = 0 ∧ d % s / t < m then some [d / s, d % s / t] else none

/-- The control-space offset of a register: a row and its index values. -/
def RN.off (r : RN) (ix : List Nat) : Nat :=
  (List.zipWith (fun d i => d.1 * i) r.row.dims ix).foldl (· + ·) r.row.base

/-- The register at a control-space offset, if a block occupies it (R7). -/
def regAt (off : Nat) : Option (RN × List Nat) :=
  RN.all.findSome? fun r => (r.row.index off).map fun ix => (r, ix)

/-- The bits of a field, set. -/
def Fld.mask (f : Fld) : Nat := (2 ^ f.w - 1) * 2 ^ f.lo

/-- The value a field reads in a register word. -/
def Fld.get (f : Fld) (v : Word) : Nat := v.toNat / 2 ^ f.lo % 2 ^ f.w

/-- The reset word of a register (R11), as its fields' reset values give it. EVR.RATE_SEVv and
EVR.SEQ_NEXT (R534, R536) give one value for each index. -/
def RN.reset (r : RN) (ix : List Nat) : Word :=
  match r, ix with
  | .evrRateSev, [v] =>
      BitVec.ofNat 32 ((([0x10, 0x10, 0x20, 0x20, 0x40, 0x80] : List Nat).getD v 0) * 65536 +
        ([0x000A, 0x0032, 0x0032, 0x0064, 0x00C8, 0x03E8] : List Nat).getD v 0)
  | .evrSeqNext, [0] => 1
  | r, _ => BitVec.ofNat 32 ((r.row.fields.map fun f => f.reset * 2 ^ f.lo).foldl (· + ·) 0)

/-- Where the companion counter of a status flag lies (R521): the counter's row, its index and
its byte, by the register tables of the flag's chapter. -/
def RN.counter (r : RN) (ix : List Nat) (bit : Nat) : Option (RN × List Nat × Nat) :=
  let two (c : RN) : Option (RN × List Nat × Nat) := some (c, ix ++ [bit / 4], bit % 4)
  let one (c : RN) : Option (RN × List Nat × Nat) := some (c, ix, bit % 4)
  match r with
  | .rstPwrErr => two .rstPwrErrCnt
  | .secFlags => one .secFlagsCnt
  | .evrFlags => two .evrFlagsCnt
  | .tbStatus => some (.tbStatusCnt, ix, bit - 3)
  | .netPortErr => one .netPortErrCnt
  | .netGroupFlags => two .netGroupFlagsCnt
  | .ringStatus => some (.ringStatusCnt, ix, bit - 2)
  | .intStatus => one .intStatusCnt
  | .memErr => one .memErrCnt
  | .laneErr => one .laneErrCnt
  | .cxpPortErr => two .cxpPortErrCnt
  | .cxpStreamErr => two .cxpStreamErrCnt
  | .lineStreamFlags => two .lineStreamFlagsCnt
  | .schedFlags => two .schedFlagsCnt
  | .ledgFlags => two .ledgFlagsCnt
  | .ejFlags => two .ejFlagsCnt
  | .encErr => two .encErrCnt
  | .divErr => one .divErrCnt
  | .capFlags => one .capFlagsCnt
  | .decFlags => two .decFlagsCnt
  | .trainFlags => two .trainFlagsCnt
  | .fldLinkErr => if bit < 4 then some (.fldLinkErrCnt0, [], bit)
      else some (.fldLinkErrCnt1, [], bit - 4)
  | .qErr => one .qErrCnt
  | .gErr => one .gErrCnt
  | .coreErr => one .coreErrCnt
  | _ => none

/-- The rows that hold companion counters (R521), which EVR.CTRL.ZERO_COUNTERS zeroes. -/
def RN.isCounter : RN → Bool
  | .rstPwrErrCnt | .secFlagsCnt | .evrFlagsCnt | .tbStatusCnt | .netPortErrCnt
  | .netGroupFlagsCnt | .ringStatusCnt | .intStatusCnt | .memErrCnt | .laneErrCnt
  | .cxpPortErrCnt | .cxpStreamErrCnt | .lineStreamFlagsCnt | .schedFlagsCnt | .ledgFlagsCnt
  | .ejFlagsCnt | .encErrCnt | .divErrCnt | .capFlagsCnt | .decFlagsCnt | .trainFlagsCnt
  | .fldLinkErrCnt0 | .fldLinkErrCnt1 | .qErrCnt | .gErrCnt | .coreErrCnt => true
  | _ => false

end Sys2Proof.Machine
end

