-- ==== Sys2Proof/Machine/State.lean ====
section
/-! DEFINITION. The state of the block as plain data: everything the spec gives the machine, one
group of fields for each chapter, and the state right after reset. INVENTORY.md lists every
piece with the rule that names it and its reset value. A register of control space lives in
`regs` unless a field below holds what it shows; it is then a view of that field. -/

namespace Sys2Proof.Machine

/-! ### Who asked, and for what -/

/-- The ring command a piece of work answers to (16_host_interface.md R415, R416): its seat and
ring, the connection of the seat it came by, its tag, its opcode and its ARRIVAL stamp. -/
structure CmdRef where
  seat : Nat
  ring : Nat
  conn : Nat
  tag : Word
  opcode : Nat
  arrival : BitVec 64
  fence : Bool
  deriving DecidableEq, Repr

/-! ### The image (02_deurzor_image.md) -/

/-- Device states (R26). -/
inductive DevState where
  | boot | idle | applying | running | recovery
  deriving DecidableEq, Repr

/-- Power modes (R21). -/
inductive PowerMode where
  | full | balanced | sealed
  deriving DecidableEq, Repr

/-- Staging region states (R55). -/
inductive Staging where
  | empty | written | verifying | verified | pending
  deriving DecidableEq, Repr

/-- An image as verification read it: the half it lies in, its header, the payloads of its
fifteen sections in ascending TYPE (R40) with their ENTRY_COUNTs, and its DIGEST (R39). -/
structure Image where
  half : Nat
  header : Bytes
  secs : List Bytes
  counts : List Nat
  digest : Bytes
  deriving DecidableEq, Repr

/-- A verification in progress (R58): who asked (none: the automatic image load) and the length
given. -/
structure VerifyRun where
  by' : Option CmdRef
  length : Nat
  deriving DecidableEq, Repr

/-- The phases of an apply (R62, R63). -/
inductive ApplyPhase where
  | fieldWait | drain | load
  deriving DecidableEq, Repr

/-- An apply in progress: its phase, launch count, FIELD_CHANGE with a difference, the state it
left, who asked, the new image, the TB1 time the drain started, and for every stream that has
taken its boundary the TB0 time of it (R61, R62); `edges` are presence edges of streams past their
boundary (input, level, position, streams), which wait for the new image. -/
structure ApplyRun where
  phase : ApplyPhase
  launch : Nat
  fieldChange : Bool
  left : DevState
  by' : Option CmdRef
  newImage : Image
  drainStart : Nat
  boundaries : Tab Nat
  detItem : Bool
  powerItem : Option PowerMode
  edges : List (Nat × Bool × Pos × List Nat)
  deriving DecidableEq, Repr

/-- An overlay of the running chain: its generation, where its record lies and the record
(R66, R67). -/
structure Overlay where
  gen : Nat
  addr : Nat
  record : Bytes
  deriving DecidableEq, Repr

/-- What takes effect at a launch count (12_reproducibility.md R322), in the order listed there. -/
inductive LaunchKind where
  | imageApply (fieldChange : Bool)
  | overlayApply (addr : Nat) (record : Bytes)
  | overlayRevert (gen : Nat)
  | det (mode : Nat)
  | power (mode : PowerMode)
  | pause (stream : Nat)
  | resume (stream : Nat)
  | restore (stream : Nat) (record : Bytes) (delta : Pos)
  | promote (addr : Nat) (record : Bytes) (stored : Bool)
  deriving DecidableEq, Repr

/-- A pending launch item (R321): its count, the order in which it reached the host block, what
it does, and who asked. -/
structure LaunchItem where
  launch : Nat
  order : Nat
  kind : LaunchKind
  by' : Option CmdRef
  fromGroup : Bool
  deriving DecidableEq, Repr

/-- An overlay that is taking effect (R67): its launch count, its generation, who asked and where a
promotion's record lies, and the streams that have still to reach their boundary. -/
structure OverlayRun where
  launch : Nat
  gen : Nat
  by' : Option CmdRef
  promoted : Option Nat
  left : List Nat
  deriving DecidableEq, Repr

/-- The state of images, overlays and launch items. `autoLoad` is the step of the automatic
image load (R65): 0 none, 1 copying, 2 verifying, 3 applying. -/
structure ImgState where
  runHalf : Nat := 0
  running : Option Image := none
  old : Option Image := none
  staging : Staging := .empty
  staged : Option Image := none
  verify : Option VerifyRun := none
  gen : Word := 0
  apply : Option ApplyRun := none
  overlays : List Overlay := []
  overlayRuns : List OverlayRun := []
  lock : Option (Fin 4) := none
  store : Option (CmdRef × Bytes) := none
  autoLoad : Nat := 0
  items : List LaunchItem := []
  itemOrder : Nat := 0
  detMode : Bool := false
  detOverride : Bool := false
  power : PowerMode := .sealed
  deriving DecidableEq, Repr

/-- The serial NOR flash (R65, 20_reset_clocks_power.md R505): firmware area, image slot, and
the three option copies. -/
structure Flash where
  firmware : Bytes := []
  slot : Bytes := []
  options : List Bytes := []
  deriving DecidableEq, Repr

/-! ### Host block (16_host_interface.md) -/

/-- A Beyholdo datagram sent and not acknowledged (R424): its SEQ, its TYPE, its payload, how
often it has been sent, and for a COMPLETE the ring and the number of completions it carries. -/
structure SentDgram where
  seq : Nat
  type : Nat
  payload : Bytes
  tries : Nat
  ring : Nat
  completions : Nat
  deriving DecidableEq, Repr

/-- A Beyholdo session (R421 to R425). `held` are datagrams received ahead of their turn. -/
structure Session where
  ip : Word
  port : BitVec 16
  id : Word
  maxPayload : Nat
  txSeq : Nat
  rxSeq : Nat
  unacked : List SentDgram
  waiting : List SentDgram
  held : List (Nat × Instr)
  ackOwed : Bool
  deriving DecidableEq, Repr

/-- The host block beyond its registers. `conns` counts connections of each seat; `outstanding`
are commands taken and not complete; `sentCauses` the interrupt causes of a seat already
signalled; `timeUp` the rings whose moderation time has passed; `spacing` the network seats
within 50 microseconds of an INTERRUPT datagram; `latches` the _HI values latched by a seat's
read of a _LO register; `heldDone` completions that wait for Bus Master Enable; `groupAnswer` the outcome of
the group item checked last. -/
structure HostState where
  conns : Tab Nat := []
  lostConns : List (Nat × Nat) := []
  turnPos : Nat := 0
  outstanding : List CmdRef := []
  sentCauses : Tab (BitVec 17) := []
  timeUp : List (Nat × Nat) := []
  spacing : List Nat := []
  intHeld : List Nat := []
  latches : List (Nat × Nat × Word) := []
  mem0 : List (Nat × Byte) := []
  mem1 : List (Nat × Byte) := []
  heldDone : List (CmdRef × Nat × Nat × Nat) := []
  sessions : Tab Session := []
  nextSession : Word := 1
  groupAnswer : Option Nat := none
  deriving DecidableEq, Repr

/-! ### Event recorder (21_faults_and_event_recorder.md) -/

/-- An event record (R522) with the continuation records that follow it (R525). R59 says that events carry the image
generation, and the layout of R522 has no place for it: no record carries it (DESIGN CHOICE, notes/assumptions/147.md). -/
structure EvRec where
  seq : Nat := 0
  time : BitVec 64 := 0
  tb1 : BitVec 64 := 0
  severity : Nat
  source : Nat
  status : Nat := 0
  flags : Byte := 0
  initiator : Nat := 0xFF
  sender : Nat := 0xFF
  count : Nat := 1
  flagReg : Word := 0xFFFFFFFF
  flagBit : Nat := 0xFF
  cls : Nat := 0xFF
  arg0 : BitVec 64 := 0
  arg1 : BitVec 64 := 0
  conts : List Bytes := []
  deriving DecidableEq, Repr

/-- A source key (R528): the SOURCE with the flag that was set, or with the STATUS. -/
structure SrcKey where
  source : Nat
  flagReg : Word
  flagBit : Nat
  status : Nat
  deriving DecidableEq, Repr

/-- A token bucket and its pending coalesced record (R528). -/
structure Bucket where
  key : SrcKey
  severity : Nat
  tokens : Nat
  pending : Option EvRec
  deriving DecidableEq, Repr

/-- A flood of a source key (R529): start in TB1, records in it, highest severity seen. -/
structure Flood where
  key : SrcKey
  start : Nat
  total : Nat
  severity : Nat
  deriving DecidableEq, Repr

/-- An export path (R532): its queue, drops by severity since the last summary, and the SEQ of
the last record dropped. -/
structure ExportPath where
  queue : List EvRec := []
  drops : List Nat := [0, 0, 0, 0, 0, 0]
  lastDropped : Nat := 0
  deriving DecidableEq, Repr

/-- The recorder. `ring` indexes the spill ring's records, which are bytes of DRAM: slot, SEQ and
severity of each. -/
structure RecState where
  queue : List EvRec := []
  chip : List EvRec := []
  ring : List (Nat × Nat × Nat) := []
  ringNext : Nat := 0
  seqNext : Nat := 1
  spillOk : Bool := false
  buckets : List Bucket := []
  floods : List Flood := []
  syslog : ExportPath := {}
  fanout : ExportPath := {}
  deriving DecidableEq, Repr

/-! ### Time, network, line group (15_line_group_and_time.md) -/

/-- States of a disciplined base (R389). -/
inductive TbSt where
  | free | listening | uncalibrated | locked | holdover | master | refusing
  deriving DecidableEq, Repr

/-- A time base (R386, R388): its value and increment in units of 2^-32 ns, its format, its servo
and what of the servo's history counts. -/
structure TimeBase where
  value : Nat := 0
  inc : Nat := 0x400000000
  seconds : Bool := false
  st : TbSt := .free
  integ : Rat := 0
  adj : Rat := 0
  lockCount : Nat := 0
  sampled : Bool := false
  stepped : Bool := false
  deriving DecidableEq, Repr

/-- The time unit and PTP (R384 to R402). -/
structure TimeState where
  tb0 : TimeBase := {}
  tb1 : TimeBase := {}
  tb2 : TimeBase := {}
  tb3 : TimeBase := {}
  master : Option (Nat × Announce) := none
  ptpSeq : Nat := 0
  deriving DecidableEq, Repr

/-- A peer of the line group (R375), as its CAPS told. -/
structure Peer where
  mac : BitVec 48
  ip : Word
  caps : CapsMsg
  present : Bool
  excluded : Bool
  deriving DecidableEq, Repr

/-- A group message sent and not acknowledged (R374), with the part a HANDOFF concerns. -/
structure GroupMsg where
  peer : Nat
  seq : Word
  type : Nat
  tries : Nat
  payload : Bytes
  partId : BitVec 64
  deriving DecidableEq, Repr

/-- A boundary strip (R381, R382): active, the index of the next line expected, the next slot of
the receive ring, and the sums of the current seam window. -/
structure StripState where
  active : Bool := false
  expect : Option Nat := none
  slots : Nat := 0
  sumAbs : Nat := 0
  elements : Nat := 0
  deriving DecidableEq, Repr

/-- A group launch at the leader (R323) and the members that have accepted it. -/
structure GroupLaunch where
  launch : Nat
  item : Bytes
  by' : Option CmdRef
  accepted : List Nat
  deriving DecidableEq, Repr

/-- A group item held by a member: its launch count, the entry, and whether GO has arrived. -/
structure MemberItem where
  launch : Nat
  item : Bytes
  go : Bool
  deriving DecidableEq, Repr

/-- The network and the line group. `answers` are the LAUNCH_ANSWER payloads given to LAUNCH_ITEM messages, by sender and
SEQ, newest first. -/
structure NetState where
  macTable : List (BitVec 48 × Nat) := []
  noForward : Bool := false
  peers : Tab Peer := []
  everFormed : Bool := false
  txSeq : Word := 0
  seen : Tab (List Word) := []
  unacked : List GroupMsg := []
  anchor : Option (Pos × Pos) := none
  anchorAt : Nat := 0
  strip0 : StripState := {}
  strip1 : StripState := {}
  launches : List GroupLaunch := []
  member : List MemberItem := []
  answers : List (Nat × Word × Bytes) := []
  deriving DecidableEq, Repr

/-! ### Cameras and streams (03 to 05) -/

/-- A control transaction (R74). -/
structure CtrlCmd where
  by' : CmdRef
  write : Bool
  camAddr : Word
  length : Nat
  dataAddr : Nat
  tagged : Bool := false
  deriving DecidableEq, Repr

/-- A camera port beyond its registers: powered, its control queue (the head is in progress),
the description file's length, how long its current has been low, whether the budget last
refused it, the seat that last wrote to the camera (R74), and the rate that step 6 of its discovery selected, 0 while
it has none (R77, R78). -/
structure Port where
  powered : Bool := false
  unpoweredDiscovery : Bool := false
  budgetRefused : Bool := false
  ctrl : List CtrlCmd := []
  fileBytes : Nat := 0
  lowMs : Nat := 0
  writer : Option Nat := none
  picked : Nat := 0
  deriving DecidableEq, Repr

/-- A divider event as the die knows it: its divider and index, its grid position and its TB0
time. -/
structure Trig where
  div : Nat
  k : Nat
  pos : Pos
  time : BitVec 64
  deriving DecidableEq, Repr

/-- What an image header says beside its line count: the port it arrived on, whether it is rectangular, its pixel
format, X offset and X size. -/
structure HdrInfo where
  port : Nat
  rect : Bool
  format : Nat
  xOff : Nat
  xSize : Nat
  deriving DecidableEq, Repr

/-- A line block being filed (R80, R81). `cause` is the code of R262 that its drop gives, `lineEls` the elements of one
of its lines as the camera sends them. `held` is its header while the stream boundary of an apply may still lie before
it (02_deurzor_image.md R62). -/
structure Block where
  number : Word
  declared : Nat
  arrived : Nat
  filed : Nat
  firstLine : Nat
  headerTime : BitVec 64
  flags : BitVec 16
  sourceTag : BitVec 16
  dropping : Bool
  trusted : Bool
  cause : Nat
  lineEls : Nat := 0
  held : Option HdrInfo := none
  deriving DecidableEq, Repr

/-- A raw line: its index, its line map position and TB0 time, its line block with the TB0 time of its
header, whether it is the last of its block and the block was cut short, why it is unusable (0: it is
usable), whether it waits for a new image (R63), its elements where they are not in the raw area, whether it is the
last before a stripe origin (R124), and the TB0 time in ns at which its position is to be interpolated while no encoder
sample after it has come (11_encoders_and_eject.md R286). -/
structure RawLine where
  index : Nat
  pos : Pos
  time : BitVec 64
  block : Word
  blockTime : BitVec 64
  last : Bool
  short : Bool
  cause : Nat
  gap : Bool
  pix : List Nat
  cut : Bool := false
  bracket : Option Nat := none
  deriving DecidableEq, Repr

/-- Where a corrected line lies (R127). -/
inductive LineLoc where
  | window | corrected | raw
  deriving DecidableEq, Repr

/-- A corrected line and who holds it (R138): jobs by number, the shoal hold, capture crops by
number. -/
structure CorrLine where
  index : Nat
  pos : Pos
  time : BitVec 64
  block : Word
  cause : Nat
  loc : LineLoc
  spilled : Bool
  jobs : List Nat
  shoalHold : Bool
  crops : List Nat
  deriving DecidableEq, Repr

/-- A line inside the pipe: working values by component (R105 to R108), what the statistics take of
it before alignment (R112), and the target offsets of its components in 1/256 count (R107). -/
structure WorkLine where
  index : Nat
  pos : Pos
  time : BitVec 64
  block : Word
  blockTime : BitVec 64
  last : Bool
  short : Bool
  cause : Nat
  comps : List (List Nat)
  alignFlag : Bool
  rawSat : List Nat
  ffSat : List Nat
  drift : List (List Nat)
  offs : List Rat
  cut : Bool := false
  deriving DecidableEq, Repr

/-- The statistics of the line block in the pipe (R112): for each component its histogram by bin
and the sums of its columns; saturation counts; the drift sums of the flat-fielded values. -/
structure StatAcc where
  block : Word
  headerTime : BitVec 64
  lines : Nat
  flags : Byte
  hist : List (Tab Nat)
  colSum : List (List Nat)
  rawSat : List Nat
  ffSat : List Nat
  drift : List (List Nat)
  deriving DecidableEq, Repr

/-- Where a bound stream's buffer lies (R133, R134, R136). -/
structure StreamLayout where
  base : Nat
  size : Nat
  statOff : Nat
  rawOff : Nat
  corrOff : Nat
  rawLineBytes : Nat
  corrLineBytes : Nat
  laneRowBytes : Nat
  corrSlots : Nat
  winOff : Nat
  winRows : Nat
  deriving DecidableEq, Repr

/-- A stream beyond its registers. `cfg` is its STREAMS entry, `lp` its LINEPIPE entry followed by
its tables, if it has one; `ovls` holds the overlay generations in force by the first corrected line
each one governs. `imageGen` is the generation that runs, `layGen` the one that laid the buffer out (R133). `stats` holds
the statistics of the blocks in the pipe, in their order. `past` holds what is known of reclaimed lines that parts still to open may count (R252), and `base`
is the first corrected line of the running image. -/
structure Stream where
  cfg : Bytes
  lp : Option (Bytes × Bytes)
  layout : StreamLayout
  imageGen : Word
  layGen : Word := 0
  ovls : List (Nat × Nat) := []
  offsetEn : Bool := true
  slack : Nat := 4
  blockNext : Word := 0
  block : Option Block := none
  window : List (Nat × List (BitVec 16) × Nat) := []
  nextTag : Option Nat := none
  partial' : List (BitVec 16) := []
  partialTime : BitVec 64 := 0
  nextRaw : Nat := 0
  sent : Nat := 0
  paired : Nat := 0
  trigQueue : List Trig := []
  sentTrigs : List Trig := []
  uplinkFree : Nat := 0
  rawLines : List RawLine := []
  align : List WorkLine := []
  binGroup : List WorkLine := []
  readyLines : List WorkLine := []
  stats : List StatAcc := []
  lines : List CorrLine := []
  past : List CorrLine := []
  base : Nat := 0
  nextCorr : Nat := 0
  origins : List Nat := [0]
  nextStripe : Nat := 0
  closed : Bool := true
  lastLine : Nat := 0
  hdrSeq : Nat := 0
  descProd : Nat := 0
  peakHeld : Nat := 0
  overflowBlocks : Nat := 0
  shadowDropped : Nat := 0
  captureDropped : Nat := 0
  damagedStripes : Nat := 0
  overflowing : Bool := false
  paused : Bool := false
  restores : List (Bytes × Pos × Option CmdRef) := []
  deriving DecidableEq, Repr

/-- Cameras and streams. `pipeNext` is each pipe's place in its round robin (R100), `statSeq` the statistics records
written for each stream since reset (R113), `supplyLow` whether the camera supply was last measured below 20.0 V (R85). -/
structure CamState where
  ports : Tab Port := []
  streams : Tab Stream := []
  pipeNext : Tab Nat := []
  statSeq : Tab Nat := []
  supplyLow : Bool := false
  deriving DecidableEq, Repr

/-! ### Scheduling (09_scheduling.md) -/

/-- Kinds of context (R216). -/
inductive CtxKind where
  | live | shadow | training | host
  deriving DecidableEq, Repr

/-- A defined context: kind, owning seat, pin, resident slot, when it last blocked (TB1, none
while runnable), starvation increments, and the wait for a slot. -/
structure Ctx where
  kind : CtxKind
  owner : Nat
  pinned : Bool
  slot : Option Nat
  blockedSince : Option Nat
  starve : Nat
  waiting : Bool
  evicting : Bool
  deriving DecidableEq, Repr

/-- Command states (R218). -/
inductive CmdSt where
  | queued | ready | dispatched | running | committing | done
  deriving DecidableEq, Repr

/-- What a job is (R215). -/
inductive JobKind where
  | stripe | tail | replay | trainSample | trainStep | trainPublish
  deriving DecidableEq, Repr

/-- The tensor a job takes in: element format, first row in the segment and first column in the stream,
rows of columns of element codes, the index, position and CAUSE of the line of each row, the segment's
first line and, once known, one past its last, and the stream's binned width. -/
structure InTensor where
  fmt : Nat
  row0 : Nat
  col0 : Nat
  rows : List (List (List Nat))
  lines : List (Nat × Pos × Nat)
  segStart : Nat
  segEnd : Option Nat
  width : Nat
  deriving DecidableEq, Repr

/-- A detection or an anchor: corrected line, binned column, line map position (R201, R254). -/
structure Anchor where
  line : Nat
  col : Nat
  pos : Pos
  deriving DecidableEq, Repr

/-- A history row of a stripe job: the HIST_WRITE operator, the anchor, key and value codes (R201). -/
structure HistRow where
  op : Nat
  anchor : Anchor
  key : List Nat
  value : List Nat
  deriving DecidableEq, Repr

/-- What a stripe job leaves for its tail and for the ledger: for each reducing operator its
per-channel partials (code, and number of positions), history rows, detections, the digest of each of its stripe taps by
operator, ARITH_STATUS, and the CAUSE of its damage (0: it is no damaged stripe). -/
structure JobResult where
  partials : List (Nat × List Int × List Word × Nat)
  hist : List HistRow
  members : List Anchor
  digests : List (Nat × BitVec 64)
  arith : BitVec 16
  cause : Nat
  deriving DecidableEq, Repr

/-- A job: what it is, whom it serves, its image generation, the lines it reads (first, one past
the last), its captured input once its first stage has committed, its result, the order in
which its publish was accepted, and the NEXT_INDEX of each stream's store when its lookups started (R214). -/
structure Job where
  id : Nat
  kind : JobKind
  ctx : Nat
  model : Nat
  stream : Nat
  stripe : Nat
  lane : Nat
  gen : Word
  first : Nat
  last : Nat
  ownFirst : Nat
  ownLast : Nat
  slot : Nat
  view : Nat
  input : Option InTensor
  result : Option JobResult
  accepted : Nat
  closedEnd : Bool
  det : Bool
  by' : Option CmdRef
  aux : Nat
  looks : Tab Nat := []
  deriving DecidableEq, Repr

/-- A command: one stage of one job (R215), with its state, its core and when it started. -/
structure Cmd where
  id : Nat
  job : Nat
  stage : Nat
  st : CmdSt
  core : Option Nat
  startOrder : Nat
  spaceReserved : Bool
  doomed : Bool
  turnKills : Nat
  deriving DecidableEq, Repr

/-- Core states (R246). -/
inductive CoreSt where
  | off | idle | dispatched | running | committing | killing | hung | clockFault
  deriving DecidableEq, Repr

/-- A core: state, the command on it, resident unpinned sets (least recently used first), sets lost
to a kill or an eviction, its clock, the checks of R517 without progress, throttling, why it is
held off, whether it has been reset since, whether the dispatch under way loads weights, and the command for which
the kill under way was made. -/
structure Core where
  st : CoreSt := .off
  cmd : Option Nat := none
  sets : List Nat := []
  lostSets : List Nat := []
  mhz : Nat := 0
  stalled : Nat := 0
  throttled : Bool := false
  clearMs : Nat := 0
  targetMhz : Nat := 500
  hotOff : Bool := false
  resetSince : Bool := false
  reloading : Bool := false
  loading : Bool := false
  claim : Option Nat := none
  deriving DecidableEq, Repr

/-- The host turn (R225, R226), with the last commit point of its extension. -/
structure Turn where
  seat : Nat := 0
  active : Bool := false
  extended : Bool := false
  start : Nat := 0
  nominalEnd : Nat := 0
  lastCommit : Nat := 0
  deriving DecidableEq, Repr

/-- The scheduler. `replays` are the buffers of replay jobs: job number of the tail, first line
address, lines, result address and bytes (R316). -/
structure SchedState where
  ctxs : Tab Ctx := []
  jobs : List Job := []
  cmds : List Cmd := []
  nextJob : Nat := 1
  nextCmd : Nat := 1
  order : Nat := 0
  acceptOrder : Nat := 0
  core0 : Core := {}
  core1 : Core := {}
  core2 : Core := {}
  core3 : Core := {}
  turn : Turn := {}
  replays : Tab (Nat × Nat × Nat × Nat) := []
  deriving DecidableEq, Repr

/-! ### Ledger (10_ledger_and_deadlines.md) -/

/-- Record states (R257). -/
inductive PartSt where
  | free | open' | imaged | scored | decided | scheduled | fired | retired
  deriving DecidableEq, Repr

/-- One view of a part: its stream, whether it is local, the scope's first and last corrected line
once known, whether its window has been passed, whether the last line has been emitted, the CAUSE
of its damage (0: none), the joined scores of the deep, shoal and candidate models, the OR of
ARITH_STATUS over the deep and shoal commands that serve it, its tail digests, and the number of its scope
among those of its stream once it is known (R200). -/
structure View where
  stream : Nat
  local' : Bool
  first : Option Nat
  last : Option Nat
  passed : Bool
  complete : Bool
  cause : Nat
  deep : Option (List Word)
  shoal : Option (List Word)
  cand : Option (List Word)
  arithDeep : BitVec 16
  arithShoal : BitVec 16
  tailDigests : List (Nat × BitVec 64)
  scope : Option Nat := none
  deriving DecidableEq, Repr

/-- A part record as the ledger engine holds it (R256, R271), with the scope's columns, the
window of a part-mode scope, the determinism mode that governs it once known (R311), the views
whose history write is done, whether it is void, what capture and shadow still hold, how many of its eject
entries were inserted, have fired and have ended without firing (R300), and whether its DRAM copy is known to be
lost (R271). -/
structure Part where
  seq : Nat
  id : BitVec 64
  st : PartSt
  verdict : Nat
  source : Nat
  mode : Nat
  views : List View
  short : Bool
  handedIn : Bool
  handedOut : Bool
  concealed : Bool
  captured : Bool
  shoalRan : Bool
  digestValid : Bool
  deepPending : Bool
  stream : Nat
  encoder : Nat
  arith : BitVec 16
  imageGen : Word
  startPos : Pos
  endPos : Pos
  cutoff : Pos
  ejectPos : Pos
  refPos : Pos
  windowEnd : Pos
  lateral : Word
  scopeSeq : Nat
  scoreDeep : Word
  scoreShoal : Word
  scoreCand : Word
  deepClass : Nat
  shoalClass : Nat
  candClass : Nat
  overlayGen : Nat
  tOpen : BitVec 64
  tDecided : BitVec 64
  tFired : BitVec 64
  decidedTb1 : Nat
  cause : Nat
  captureRule : Nat
  groupPeer : Nat
  recipe : Nat
  colFirst : Nat
  colLast : Nat
  det : Option Bool
  settled : Bool
  void : Bool
  histDone : List Nat
  shadow : Bool
  candBuf : Nat
  digests : List (BitVec 64)
  crops : List Nat
  entries : Nat := 0
  firedEntries : Nat := 0
  endedEntries : Nat := 0
  recordLost : Bool := false
  deriving DecidableEq, Repr

/-- An object being formed (R254): its opening order and its members. -/
structure Obj where
  order : Nat
  members : List Anchor
  short : Bool
  deriving DecidableEq, Repr

/-- Object mode of one stream: open objects, what stripe jobs have published and not been taken yet
(first and last own line, lane, members), the first own line of the next stripe to take, and the
positions and CAUSEs of lines that objects can still reach. -/
structure ObjState where
  objs : List Obj := []
  nextOrder : Nat := 0
  published : List (Nat × Nat × Nat × List Anchor) := []
  nextLine : Nat := 0
  linePos : List (Nat × Pos × Nat) := []
  deriving DecidableEq, Repr

/-- The history store of a stream beyond its bytes (08_history_and_sequence_ops.md R206). -/
structure HistStore where
  record : Bytes
  base : Nat
  entryBytes : Nat
  keyFormat : Nat
  valueFormat : Nat
  seq : Nat := 0
  nextIndex : Nat := 0
  settled : Nat := 0
  void : Nat := 0
  truncated : Nat := 0
  damaged : Nat := 0
  lookups : Nat := 0
  emptyLookups : Nat := 0
  eccOmitted : Nat := 0
  genEmptied : Word := 0
  deriving DecidableEq, Repr

/-- The verdict block. `scopeNext` is the number of each stream's next scope (R200); `openFree` is when the parts in
the open queue will all have been opened, in ns of TB1 (R270). -/
structure LedgState where
  parts : Tab Part := []
  retired : List Nat := []
  seqNext : Nat := 1
  opened : Nat := 0
  slack : Int := 0x7FFFFFFF
  scopeNext : Tab Nat := []
  openFree : Nat := 0
  lastCutoff : Tab Pos := []
  objects : Tab ObjState := []
  hist : Tab HistStore := []
  deriving DecidableEq, Repr

/-! ### Encoders, dividers, eject list (11_encoders_and_eject.md) -/

/-- Channel states (R285). -/
inductive EncSt where
  | off | run | stopped | lost
  deriving DecidableEq, Repr

/-- An encoder channel at the field controller (R279 to R285): its MOTION record, counter,
direction, times of the edges of the current run (newest first, with the counts moved), the time
of the last edge or good read, the period last computed in ns (none: saturated), P, the index
latch, the SSI reading; and what the die last received (R286), its period in 1/256 ns. -/
structure Enc where
  cfg : Bytes := []
  count : BitVec 48 := 0
  forward : Bool := true
  edges : List (Nat × Nat) := []
  te : Nat := 0
  period : Option Rat := none
  lastStep : Nat := 1
  p : Pos := 0
  st : EncSt := .off
  wireLost : Bool := false
  indexSeen : Bool := false
  indexCount : BitVec 48 := 0
  indexPulses : Word := 0
  ssiValue : Option Nat := none
  ssiBad : Nat := 0
  ssiReadAt : Nat := 0
  diePos : Pos := 0
  diePeriod : Nat := 0xFFFFFFFF0
  dieExactPeriod : Nat := 0xFFFFFFFF
  dieSt : EncSt := .off
  dieReverse : Bool := false
  dieIndex : BitVec 48 := 0
  samples : List (Nat × Pos) := []
  deriving DecidableEq, Repr

/-- A divider (R287, R288): its MOTION record, grid origin, next event, the tick of the last event
that was not suppressed; whether it waits for the trigger restart. -/
structure Divider where
  cfg : Bytes
  origin : Pos
  k : Nat
  lastEvent : Option Nat
  mapLog2 : Nat
  dieK : Nat
  stopped : Bool
  deriving DecidableEq, Repr

/-- An eject entry (R292) with its entry index within its part. -/
structure Eject where
  seq : Nat
  pos : Pos
  mask : BitVec 64
  failMask : BitVec 64
  partId : BitVec 64
  partSlot : Nat
  encoder : Nat
  shape : Nat
  failShape : Nat
  st : Nat
  lateCounts : Nat
  fired : BitVec 64
  index : Nat
  deriving DecidableEq, Repr

/-- A near-window entry (R299): the list slot, both copies (one may have been found
uncorrectable), the outputs switched on so far, and whether it has been evaluated. -/
structure WinEntry where
  slot : Nat
  copy0 : Eject
  copy1 : Eject
  bad0 : Bool
  bad1 : Bool
  switched : BitVec 64
  evaluated : Bool
  deriving DecidableEq, Repr

/-- Encoders, dividers, the list and the windows. `insertQueue` holds the parts whose entries wait
(R294), each with its entries; `transfers` the window transfers on their way (insert or remove, channel, slot of the
list), `applied` those made and not yet acknowledged. `insertHold` holds the parts that found that queue full, and
`decideWait` the decisions that the deciding block has not taken because of them: slot, verdict, SOURCE and CAUSE.
`suppressed` counts each divider's suppressed events. -/
structure MotionState where
  encs : Tab Enc := []
  divs : Tab Divider := []
  list : Tab Eject := []
  insertQueue : List (Nat × List Eject) := []
  insertHold : List (Nat × List Eject) := []
  decideWait : List (Nat × Nat × Nat × Nat) := []
  suppressed : Tab Word := []
  windows : Tab (List WinEntry) := []
  transfers : List (Bool × Nat × Nat) := []
  applied : List (Bool × Nat × Nat) := []
  inserted : Nat := 0
  records : List Bytes := []
  deriving DecidableEq, Repr

/-! ### Field controller (19_field_io.md) -/

/-- An output (R297, R478, R479): on, its phase (peak or hold), when the peak and the pulse end
(ns), the position at which a MODE 1 pulse ends with its encoder, when it was last switched off,
tripped by itself or its group, switched on by the host or a divider, when it was switched on,
MIN_GAP_NS of the shape it last ran, and the ends of the pulses merged into the present one. -/
structure Output where
  on : Bool := false
  peak : Bool := false
  hold : Nat := 0
  peakEnd : Nat := 0
  endAt : Nat := 0
  endPos : Option (Nat × Pos) := none
  offAt : Option Nat := none
  tripped : Bool := false
  groupTripped : Bool := false
  host : Bool := false
  onAt : Nat := 0
  gap : Nat := 0
  more : List (Nat × Option (Nat × Pos)) := []
  deriving DecidableEq, Repr

/-- A hardware counter (R477): its count and the counted edges of the current gate. -/
structure Counter where
  count : Word := 0
  edges : Nat := 0
  first : Nat := 0
  last : Nat := 0
  freq : Word := 0
  deriving DecidableEq, Repr

/-- A message up the barrier (R473): a firing report (slot of the list, STATE, tick), or an input
edge; kept until a good frame carries it. -/
inductive BarMsg where
  | fired (slot st time : Nat)
  | edge (input : Nat) (active : Bool) (pos : Pos)
  deriving DecidableEq, Repr

/-- The barrier link and the field controller (R470 to R484). `cfg` are the FIELD records in
force; `mirror` holds the value last received for each mirrored register, by offset (R484, R525). -/
structure FieldState where
  cfg : List Bytes := []
  powered : Bool := false
  held : Bool := true
  fcReset : Bool := false
  fcSafe : Bool := true
  fcLost : Bool := false
  dieSafe : Bool := true
  linkState : Nat := 0
  downFails : Nat := 0
  upFails : Nat := 0
  goodDown : Nat := 0
  goodUp : Nat := 0
  downSeq : BitVec 6 := 0
  upSeq : BitVec 6 := 0
  ackDown : BitVec 6 := 0
  ackUp : BitVec 6 := 0
  upQueue : List BarMsg := []
  rotation : Nat := 0
  upFrames : Nat := 0
  supplyMv : Nat := 0
  inputs : BitVec 32 := 0
  outputs : Tab Output := []
  counters : Tab Counter := []
  ppsLast : Option Nat := none
  ppsIgnored : Word := 0
  ppsPending : Bool := false
  ppsAt : Nat := 0
  qHost : BitVec 64 := 0
  mirror : Tab Word := []
  deriving DecidableEq, Repr

/-! ### Capture, decoding, training (13, 14) -/

/-- A library (R325, R326, R345): its ADAPT record, next and oldest SAMPLE_INDEX, where the next
sample's bytes go and how many are in use, and the host buffer attached (seat, address, size). -/
structure Library where
  cfg : Bytes
  indexBase : Nat
  dataBase : Nat
  next : Nat := 0
  oldest : Nat := 0
  wr : Nat := 0
  used : Nat := 0
  host : Option (Nat × Nat × Nat) := none
  deriving DecidableEq, Repr

/-- A crop (R327): its number, part slot and PART_ID, rule, view, stream, first line and line
count, first column and column count, and whether it was clipped. -/
structure Crop where
  id : Nat
  slot : Nat
  partId : BitVec 64
  rule : Nat
  view : Nat
  stream : Nat
  library : Nat
  line0 : Nat
  lines : Nat
  col0 : Nat
  cols : Nat
  edge : Bool
  ready : Bool
  deriving DecidableEq, Repr

/-- One decode request of a decode stream (R334 to R336): what it names, who asked, its index in the
stream, the virtual schedule's stamps, MCUs, the outcome it has from the start if its sample could not
be decoded at all, its outcome once it has one, what was decoded, the index entry it copied, whether
it has been delivered and as which delivery event, its delivery order, and whether the sample may be
cached. -/
structure DecReq where
  library : Nat
  sample : Nat
  by' : Option CmdRef
  outAddr : Nat
  outBytes : Nat
  position : Nat
  engine : Nat
  start : Nat
  stop : Nat
  cycles : Nat
  mcus : Nat
  early : Option Nat
  outcome : Option Nat
  lostMcu : Nat
  lostByte : Nat
  lostCount : Nat
  planes : List (List (List Nat))
  bits12 : Bool
  entry : Bytes
  delivered : Bool
  event : Nat
  det : Bool
  mayCache : Bool
  deriving DecidableEq, Repr

/-- A decode stream: the four engine stamps, its requests in order, the last 256 samples behind
the mean (end stamp, cycles, MCUs). -/
structure DecStream where
  stamps : List Nat := [0, 0, 0, 0]
  reqs : List DecReq := []
  hist : List (Nat × Nat × Nat) := []
  deriving DecidableEq, Repr

/-- A sample in the cache (R338). -/
structure CacheEntry where
  library : Nat
  sample : Nat
  dataLength : Nat
  outcome : Nat
  lostMcu : Nat
  lostByte : Nat
  lostCount : Nat
  cycles : Nat
  mcus : Nat
  planes : List (List (List Nat))
  bits12 : Bool
  deriving DecidableEq, Repr

/-- The capture and decode side of the adaptation block. Decode streams 0 to 31 are the training
jobs', 32 to 35 the seats'. -/
structure CaptureState where
  libs : Tab Library := []
  crops : List Crop := []
  waiting : List Crop := []
  nextCrop : Nat := 1
  streams : Tab DecStream := []
  cache : List CacheEntry := []
  deriving DecidableEq, Repr

/-- States of a training job (R367). -/
inductive TrainSt where
  | idle | running | paused | checkpointing | done | stopped
  deriving DecidableEq, Repr

/-- A delivered and augmented training sample (R351): its delivery event, stream, label, whether its
elements are UINT16, and its planes. -/
structure TrainSample where
  event : Nat
  stream : Nat
  label : Nat
  wide : Bool
  planes : List (List (List Nat))
  deriving DecidableEq, Repr

/-- A training job (R346 to R358). `ranges` are the sample set of the epoch by library; `events` counts
delivery events of the epoch, `nextAdd` those whose gradient has been added or that had none; `queue`
are samples not yet committed, `grads` gradients that wait for an earlier one; `resumeTo` is the state
a checkpoint returns to. `weights` are the trainable weights in ascending identifier:
identifier, masters, first moment, second moment, accumulator. -/
structure TrainJob where
  st : TrainSt := .idle
  waiting : Bool := false
  det : Bool := false
  epoch : Nat := 0
  step : Nat := 0
  t : Nat := 0
  c1 : Word := 0x3F800000
  c2 : Word := 0x3F800000
  loss : Word := 0x7FC00000
  lossSum : Word := 0
  used : Nat := 0
  skipped : Nat := 0
  baseGen : Nat := 0
  ranges : List (Nat × Nat) := []
  events : Nat := 0
  contributing : Nat := 0
  weights : List (Nat × List Word × List Word × List Word × List Word) := []
  queue : List TrainSample := []
  grads : List (Nat × List (List Word) × Word) := []
  nextAdd : Nat := 0
  epochOn : Bool := false
  checkpoint : Option (CmdRef × Nat × Nat) := none
  resumeTo : TrainSt := .running
  publish : List CmdRef := []
  publishDue : Bool := false
  deriving DecidableEq, Repr

/-- The candidate (R357, R364): which of two buffers is current, and their contents. -/
structure Candidate where
  current : Option Nat := none
  buf0 : List (Nat × Bytes) := []
  buf1 : List (Nat × Bytes) := []
  job : Nat := 0
  base : Nat := 0
  gen : BitVec 16 := 0
  deriving DecidableEq, Repr

/-- Training and shadow trial. `tally` holds the counts of R360 by row * 16 + column. -/
structure TrainState where
  jobs : Tab TrainJob := []
  cand : Candidate := {}
  tally : Tab Nat := []
  tallyBase : Nat := 0
  deriving DecidableEq, Repr

/-! ### Reset, security, lanes, memory (17, 18, 20, 22) -/

/-- The backup domain (R491, R511, R512). -/
structure Backup where
  valid : Bool := false
  cause : Nat := 0
  warm : Bool := false
  rail : Nat := 0
  count : Word := 0
  attempts : Nat := 0
  rtcNs : Nat := 0
  rtcValid : Bool := false
  trained : Bool := false
  deriving DecidableEq, Repr

/-- What an option commit in progress will write (R507): the record, who asked (a KEY_ENROL), and
how many copies have been written. -/
structure OptCommit where
  record : Bytes
  by' : Option CmdRef
  slot : Option Nat
  deriving DecidableEq, Repr

/-- Bring-up (R501): the step in progress (0: done), whether this start is warm and must send
FIELD_RESET, whether a step has failed, the option record in use, the window, and the image of
firmware that runs. -/
structure BootState where
  step : Nat := 1
  warm : Bool := false
  sendFieldReset : Bool := true
  failed : Bool := false
  option : Bytes := []
  window : Bytes := []
  rtcLo : Word := 0
  commit : Option OptCommit := none
  fwHash : Bytes := []
  fwVersion : Word := 0
  fwStore : List (Option CmdRef × Bytes) := []
  pendingStreams : Bool := false
  deriving DecidableEq, Repr

/-- The security block (R543): key RAM by slot, and the root key block. -/
structure SecState where
  keyRam : Tab Bytes := []
  root : Option Bytes := none
  deriving DecidableEq, Repr

/-- A lane beyond its registers (R458): a coefficient request has not yet returned to hold. -/
structure Lane where
  pendingReq : Bool := false
  deriving DecidableEq, Repr

/-- The memory controller (R438 to R443): granules whose next read is uncorrectable, granules
rewritten after one with the TB1 time of it, and the running plan of the flexible regions
(region code, base, size), and the granules of the running image, as offsets in it, that are lost until the
next apply. -/
structure McState where
  bad : List Nat := []
  lost : List Nat := []
  rewritten : List (Nat × Nat) := []
  plan : List (Nat × Nat × Nat) := []
  deriving DecidableEq, Repr

/-! ### What leaves the block -/

/-- What the block sends. -/
inductive Emission where
  | msix (seat vector : Nat)
  | beyholdo (seat : Nat) (ip : Word) (port : BitVec 16) (bytes : Bytes)
  | console (text : List String)
  | group (peer : Option Nat) (type : Nat) (seq : Word) (retry : Bool) (payload : Bytes)
  | frame (port : Nat) (queue : Nat) (f : Frame)
  | arpReply (port : Nat) (mac : BitVec 48) (ip : Word)
  | echoReply (ip : Word) (data : Bytes)
  | ptp (kind : Nat) (port : Nat) (seq : Nat)
  | coefStatus (lane : Nat) (coef : Nat) (code : Nat)
  | triggerPacket (stream : Nat) (startNs offsetNs : Nat)
  | camControl (port : Nat) (write : Bool) (addr : Word) (data : Bytes) (tagged : Bool := false)
  | syslog (text : List String)
  | barrier (down : Bool) (header : BitVec 16) (samples : List (BitVec 38))
  | readData (seat : Nat) (data : Bytes)
  deriving DecidableEq, Repr

/-- The state of the block. `free` counts the free values drawn so far; `out` is what the block has
sent, oldest first; `pending` is the queue of waiting commands. -/
structure State where
  regs : List (Nat × Word) := []
  mem : List (Nat × Byte) := []
  dev : DevState := .boot
  img : ImgState := {}
  flash : Flash := {}
  host : HostState := {}
  rec' : RecState := {}
  time : TimeState := {}
  net : NetState := {}
  cam : CamState := {}
  sched : SchedState := {}
  ledg : LedgState := {}
  motion : MotionState := {}
  field : FieldState := {}
  cap : CaptureState := {}
  train : TrainState := {}
  backup : Backup := {}
  boot : BootState := {}
  sec : SecState := {}
  lanes : Tab Lane := []
  mc : McState := {}
  free : Nat := 0
  out : List Emission := []
  pending : List Instr := []
  deriving DecidableEq, Repr

/-- No command of this block ends in a fault: the block reports faults in its own state (status
flags, event records, status codes, interrupts), and that report is the command's effect. The
type has no constructor. -/
inductive Fault where
  deriving DecidableEq, Repr

/-- The refusals. -/
inductive Refusal where
  /-- Raised by an arm of Dispatch.lean for a command whose meaning is not written yet. Safe: the
  run stops, so nothing can be proved about what follows. -/
  | notModelled (mnemonic : String)
  deriving DecidableEq, Repr

/-- The default option record (20_reset_clocks_power.md R505): AUTO_LOAD 0, BOOT_LIMIT 3, IP_ADDR 0,
PREFIX 0, no keys enrolled, and its CRC. -/
def defaultOption : Bytes :=
  [0x49, 0x4F, 0x50, 0x54, 0, 0, 0, 0, 1, 0, 3, 0] ++ List.replicate 244 0 ++ [1] ++
    List.replicate 763 0 ++ [0x74, 0x50, 0x49, 0x99]

/-- The flash as delivered: both areas erased, and three equal copies of the default option record
(R505). DESIGN CHOICE, UNSAFE (notes/assumptions/5.md): the spec gives no delivered content. -/
def Flash.delivered : Flash :=
  { firmware := [], slot := [], options := [defaultOption, defaultOption, defaultOption] }

/-- The machine right after the power-on reset: bring-up stands before its first step, every
register and field at the value the spec states for reset. -/
def State.reset : State := { flash := Flash.delivered }

end Sys2Proof.Machine
end

