-- ==== Sys2Proof/Machine/Flags.lean ====
section
/-! DEFINITION. Stored registers, time, status flags with their companion counters, and event
records on their way to the recorder: what every family of commands reports with. -/

namespace Sys2Proof.Machine

/-- A number as 64 bits. -/
abbrev n64 (v : Nat) : BitVec 64 := BitVec.ofNat 64 v

/-- A number as a register word. -/
abbrev n32 (v : Nat) : Word := BitVec.ofNat 32 v

/-- What a command answers. -/
abbrev Res := Host.Outcome State Fault Refusal

/-! ### Stored registers -/

/-- The stored word of a register: what was last put there, or its reset value (R11). -/
def State.stored (s : State) (r : RN) (ix : List Nat) : Word :=
  Tab.getD s.regs (r.off ix) (r.reset ix)

/-- Puts a word into a register. A word equal to the reset value is not listed. -/
def State.setStored (s : State) (r : RN) (ix : List Nat) (v : Word) : State :=
  { s with regs :=
      if v = r.reset ix then Tab.del s.regs (r.off ix) else Tab.put s.regs (r.off ix) v }

/-- Bits [lo+w-1:lo] of a register. -/
def State.fld (s : State) (r : RN) (ix : List Nat) (lo w : Nat) : Nat :=
  slice (s.stored r ix).toNat lo w

/-- Puts a number into bits [lo+w-1:lo] of a register. -/
def State.setFld (s : State) (r : RN) (ix : List Nat) (lo w x : Nat) : State :=
  s.setStored r ix (n32 (putSlice (s.stored r ix).toNat lo w x))

/-- A whole register as a number. -/
def State.reg (s : State) (r : RN) (ix : List Nat) : Nat := (s.stored r ix).toNat

/-- Puts a number into a whole register, modulo 2^32. -/
def State.setReg (s : State) (r : RN) (ix : List Nat) (x : Nat) : State :=
  s.setStored r ix (n32 x)

/-- Adds to a wrapping 32-bit count. -/
def State.count (s : State) (r : RN) (ix : List Nat) (n : Nat := 1) : State :=
  s.setReg r ix (s.reg r ix + n)

/-- Adds to a count that saturates at all ones. -/
def State.countSat (s : State) (r : RN) (ix : List Nat) (n : Nat := 1) : State :=
  s.setReg r ix (sat (s.reg r ix + n) 0xFFFFFFFF)

/-- Puts a 64-bit number into a _LO and _HI pair. -/
def State.setPair (s : State) (lo hi : RN) (ix : List Nat) (v : Nat) : State :=
  (s.setReg lo ix v).setReg hi ix (v / 2 ^ 32)

/-- The number a _LO and _HI pair holds. -/
def State.pair (s : State) (lo hi : RN) (ix : List Nat) : Nat :=
  s.reg lo ix + 2 ^ 32 * s.reg hi ix

/-! ### Time (15_line_group_and_time.md R386, R321) -/

/-- A time base as nanoseconds since its epoch. -/
def TimeBase.ns (b : TimeBase) : Nat := b.value / 2 ^ 32

/-- The stored form of a time base (R386). -/
def TimeBase.stored (b : TimeBase) : BitVec 64 :=
  if b.seconds then n64 (b.ns / 1000000000 % 2 ^ 34 * 2 ^ 30 + b.ns % 1000000000) else n64 b.ns

/-- The nanoseconds since the epoch that a stored form names. -/
def TimeBase.ofStored (b : TimeBase) (v : Nat) : Nat :=
  if b.seconds then v / 2 ^ 30 * 1000000000 + v % 2 ^ 30 else v

/-- The length of a time base's cycle in nanoseconds: it wraps there. -/
def TimeBase.cycle (b : TimeBase) : Nat := if b.seconds then 2 ^ 48 * 1000000000 else 2 ^ 64

/-- A time base set to a number of units of 2^-32 ns. -/
def TimeBase.set (b : TimeBase) (v : Nat) : TimeBase :=
  { b with value := v % (b.cycle * 2 ^ 32) }

/-- TB0 in its stored form. -/
def State.tb0 (s : State) : BitVec 64 := s.time.tb0.stored

/-- TB0 in nanoseconds. -/
def State.tb0Ns (s : State) : Nat := s.time.tb0.ns

/-- TB1 in nanoseconds; events and timers of the block are timed by it. -/
def State.now (s : State) : Nat := s.time.tb1.ns

/-- The launch counter (R321). -/
def State.launchCounter (s : State) : Nat := s.tb0Ns / 1000

/-- Time base `b`. -/
def TimeState.base (t : TimeState) (b : Nat) : TimeBase :=
  match b with
  | 0 => t.tb0
  | 1 => t.tb1
  | 2 => t.tb2
  | _ => t.tb3

/-- A time state with base `b` changed. -/
def TimeState.setBase (t : TimeState) (b : Nat) (x : TimeBase) : TimeState :=
  match b with
  | 0 => { t with tb0 := x }
  | 1 => { t with tb1 := x }
  | 2 => { t with tb2 := x }
  | _ => { t with tb3 := x }

/-! ### What leaves the block, free values -/

/-- Sends something. -/
def State.emit (s : State) (e : Emission) : State := { s with out := s.out ++ [e] }

/-- Sends several things. -/
def State.emits (s : State) (es : List Emission) : State := { s with out := s.out ++ es }

/-- Draws a fresh free value below a bound (notes/assumptions/9.md). -/
def State.draw (s : State) (bound : Nat) : Nat × State :=
  (Config.freeNat s.free % bound, { s with free := s.free + 1 })

/-! ### Status codes (00_scope.md R13, R14 and the chapters' code tables) -/

namespace Code
abbrev ok : Nat := 0x00
abbrev late : Nat := 0x01
abbrev lengthRange : Nat := 0x10
abbrev fieldReserved : Nat := 0x11
abbrev badIndex : Nat := 0x12
abbrev opcodeUnknown : Nat := 0x13
abbrev recoveryUnavailable : Nat := 0x14
abbrev addressUnmapped : Nat := 0x15
abbrev seatBusy : Nat := 0x16
abbrev alignment : Nat := 0x17
abbrev ringFull : Nat := 0x18
abbrev imageSignature : Nat := 0x20
abbrev imageFormat : Nat := 0x21
abbrev imageLocked : Nat := 0x22
abbrev imageSuperseded : Nat := 0x27
abbrev launchLate : Nat := 0x30
abbrev decodeDamaged : Nat := 0x40
abbrev decodeImplausible : Nat := 0x41
abbrev decodeTimeout : Nat := 0x42
abbrev memoryUncorrectable : Nat := 0x50
abbrev streamOverflow : Nat := 0x60
abbrev internal : Nat := 0x7F
end Code

/-! ### Event records on their way (21_faults_and_event_recorder.md) -/

/-- The SOURCE of a register's block (R523). -/
def sourceOf (off : Nat) : Nat :=
  if off < 0x1000000 then off / 0x100000 else 16 + (off - 0x1000000) / 0x400000

/-- A record of a severity and SOURCE with nothing else known. -/
def ev (severity source : Nat) : EvRec := { severity := severity, source := source }

/-- An info record. -/
def info (source : Nat) : EvRec := ev 1 source
/-- A notice record. -/
def notice (source : Nat) : EvRec := ev 2 source
/-- A warning record. -/
def warning (source : Nat) : EvRec := ev 3 source
/-- An error record. -/
def errorRec (source : Nat) : EvRec := ev 4 source
/-- A critical record. -/
def critical (source : Nat) : EvRec := ev 5 source

/-- Counts a dropped record of a severity (R530, R524). -/
def State.countDrop (s : State) (sev : Nat) : State := s.count .evrDropSev [sev]

/-- Sets a status flag: the flag reads 1 and its companion counter counts the set, saturating at
0xFF (R520, R521). -/
def State.setFlag (s : State) (r : RN) (ix : List Nat) (b : Nat) : State :=
  let s := s.setFld r ix b 1 1
  match r.counter ix b with
  | some (c, jx, k) => s.setFld c jx (8 * k) 8 (sat (s.fld c jx (8 * k) 8 + 1) 0xFF)
  | none => s

/-- Whether a status flag is set. -/
def State.flag (s : State) (r : RN) (ix : List Nat) (b : Nat) : Bool := s.fld r ix b 1 == 1

/-- The index in a list of the first element a test accepts. -/
def findIdxOpt {α : Type} (p : α → Bool) : List α → Option Nat
  | [] => none
  | a :: r => if p a then some 0 else (findIdxOpt p r).map (· + 1)

/-- Puts a record into the recorder's input queue of 1,024 (R530). -/
def State.enqueueRec (s : State) (r : EvRec) : State :=
  if s.rec'.queue.length < 1024 then
    { s with rec' := { s.rec' with queue := s.rec'.queue ++ [r] } }
  else
    let s := s.setFlag .evrFlags [] 4
    match findIdxOpt (fun q => q.severity < r.severity) s.rec'.queue with
    | some i =>
        let gone := (s.rec'.queue.getD i r).severity
        let s := s.countDrop gone
        { s with rec' := { s.rec' with queue := s.rec'.queue.eraseIdx i ++ [r] } }
    | none => s.countDrop r.severity

/-- Reports a record: stamped with TB0 and TB1 now, then queued for the recorder (R522). FW_STAMPED reads 0 in every
record (DESIGN CHOICE, notes/assumptions/172.md). -/
def State.log (s : State) (r : EvRec) : State :=
  s.enqueueRec { r with time := s.tb0, tb1 := n64 s.now }

/-- Reports a record that a status flag caused, and sets the flag. -/
def State.flagLog (s : State) (r : RN) (ix : List Nat) (b : Nat) (e : EvRec) : State :=
  (s.setFlag r ix b).log { e with flagReg := n32 (r.off ix), flagBit := b }

end Sys2Proof.Machine
end

