-- ==== Sys2Proof/Machine/Ops.lean ====
section
/-! DEFINITION. The device address space, memory and its regions, and uncorrectable granules: the
named operations over memory that every family of commands uses (spec/17_memory.md). -/

namespace Sys2Proof.Machine

/-! ### Device address space (01_device_overview.md R27, R28) -/

/-- What lies at a device address. -/
inductive Place where
  | dram
  | pool (core : Nat)
  | lineStore
  | control (off : Nat)
  | unmapped
  deriving DecidableEq, Repr

/-- The end of DRAM. -/
abbrev dramEnd : Nat := 0xE00000000

/-- The place of a device address. An unpopulated part of a pool window is unmapped (R28). -/
def place (a : Nat) : Place :=
  if a < dramEnd then .dram
  else if 0x2000000000 ≤ a ∧ a < 0x2010000000 then
    if (a - 0x2000000000) % 0x4000000 < 0x2800000 then .pool ((a - 0x2000000000) / 0x4000000)
    else .unmapped
  else if 0x2100000000 ≤ a ∧ a < 0x2102000000 then .lineStore
  else if 0x3000000000 ≤ a ∧ a < 0x3010000000 then .control (a - 0x3000000000)
  else .unmapped

/-- Core `n` of the scheduler. -/
def SchedState.core (t : SchedState) (n : Nat) : Core :=
  match n with
  | 0 => t.core0
  | 1 => t.core1
  | 2 => t.core2
  | _ => t.core3

/-- The scheduler with core `n` changed. -/
def SchedState.setCore (t : SchedState) (n : Nat) (c : Core) : SchedState :=
  match n with
  | 0 => { t with core0 := c }
  | 1 => { t with core1 := c }
  | 2 => { t with core2 := c }
  | _ => { t with core3 := c }

/-- A core is powered off: in RECOVERY (R502), or switched off above 115 °C (R500). Its pool reads 0x00 and takes no
write (R28). A core that a reset holds, or whose pinned sets are loading, is powered. -/
def State.coreOff (s : State) (n : Nat) : Bool := (s.sched.core n).hotOff || s.dev == .recovery

/-- A whole buffer lies in DRAM (16_host_interface.md R414). -/
def inDram (a n : Nat) : Bool := a + n ≤ dramEnd

/-- Bytes of memory as they lie. -/
def State.load (s : State) (a n : Nat) : Bytes := Mem.readAll s.mem a n

/-- Writes bytes into memory as they are. -/
def State.poke (s : State) (a : Nat) (data : Bytes) : State :=
  { s with mem := Mem.writeAll s.mem a data }

/-! ### Regions (17_memory.md R441) -/

/-- The region code of a DRAM address: the fixed regions, then the running plan. -/
def State.regionOf (s : State) (a : Nat) : Nat :=
  if a < 0x40000000 then 0
  else if a < 0x50000000 then 1
  else if a < 0x60000000 then 2
  else if a < 0x64000000 then 3
  else if a < 0x66000000 then 4
  else if a < 0x100000000 then 5
  else if a < 0x180000000 then 6
  else if a < 0x2A0000000 then 7
  else if a < 0x3C0000000 then 8
  else match s.mc.plan.find? (fun r => r.2.1 ≤ a && a < r.2.1 + r.2.2) with
    | some r => r.1
    | none => 13

/-- The channel of an address (R437). -/
def channelOf (a : Nat) : Nat :=
  slice a 8 5 ^^^ slice a 13 5 ^^^ slice a 18 5 ^^^ slice a 23 5 ^^^ slice a 28 5

/-- The granule of an address (R436). -/
def granule (a : Nat) : Nat := a / 64 * 64

/-- The granules that bytes touch. -/
def granules (a n : Nat) : List Nat :=
  if n = 0 then [] else
  (List.range ((a + n - 1) / 64 - a / 64 + 1)).map fun i => (a / 64 + i) * 64

/-- The first granule of a range whose read is uncorrectable. -/
def State.badIn (s : State) (a n : Nat) : Option Nat :=
  s.mc.bad.find? fun g => g < a + n && a < g + 64 && 0 < n

/-- Reports an uncorrectable granule (R438, R451); found by the scrub it shows SCRUB (R440). -/
def State.noteUe (s : State) (g : Nat) (scrub : Bool) (initiator : Nat) : State :=
  let region := s.regionOf g
  let s := s.count .memUeCount []
  let s := s.setReg .memUeAddrLo [] g
  let s := s.setReg .memUeAddrHi []
    (g / 2 ^ 32 + region * 2 ^ 8 + b2n scrub * 2 ^ 12 + channelOf g * 2 ^ 13)
  s.flagLog .memErr [] 1
    { errorRec 7 with status := Code.memoryUncorrectable, initiator := initiator,
                      arg0 := n64 g, arg1 := n64 region }

/-- A granule is found bad again within 1 s of being rewritten (R443). -/
def State.badAgain (s : State) (g : Nat) : Bool :=
  match Tab.get s.mc.rewritten g with
  | some t => decide (s.now < t + 1000000000)
  | none => false

/-- An uncorrectable granule is used: it is reported and rewritten with zeros; what its region's action
recovers is written after that. Found bad again within 1 s of being rewritten it sets REPEAT (R443). -/
def State.reportUe (s : State) (g : Nat) (initiator : Nat) : State :=
  let s := s.noteUe g false initiator
  let s := if s.badAgain g then
      s.flagLog .memErr [] 3 { critical 7 with status := Code.memoryUncorrectable, arg0 := n64 g }
    else s
  let s := s.poke g (List.replicate 64 0)
  { s with mc := { s.mc with bad := s.mc.bad.filter (· != g)
                             rewritten := Tab.put s.mc.rewritten g s.now } }

/-- Writes into DRAM, granule by granule: a whole granule replaces an uncorrectable one, a part of
an uncorrectable one is discarded (R436, R438). -/
def State.storeGranules (s : State) (a : Nat) (data : Bytes) : List Nat → State
  | [] => s
  | g :: gs =>
      let lo := max a g
      let hi := min (a + data.length) (g + 64)
      let part := (data.drop (lo - a)).take (hi - lo)
      let s :=
        if s.mc.bad.contains g then
          if hi - lo = 64 then
            ({ s with mc := { s.mc with bad := s.mc.bad.filter (· != g) } } : State).poke lo part
          else (s.setFlag .memErr [] 2).reportUe g 0x40
        else s.poke lo part
      State.storeGranules s a data gs

/-- Writes bytes into DRAM, a pool or the line store. -/
def State.store (s : State) (a : Nat) (data : Bytes) : State :=
  match s.badIn a data.length with
  | none => s.poke a data
  | some _ => s.storeGranules a data (granules a data.length)

/-! ### Fixed places in DRAM -/

/-- The base of an image half (R441, R54). -/
def halfBase (h : Nat) : Nat := if h = 0 then 0x180000000 else 0x2A0000000

/-- The base of a half's overlay store (R54). -/
def overlayBase (h : Nat) : Nat := if h = 0 then 0x280000000 else 0x3A0000000

/-- The base of the ledger (R441). -/
abbrev ledgerBase : Nat := 0x40000000
/-- The base of the eject list (R441). -/
abbrev ejectBase : Nat := 0x50000000
/-- The base of the eject list's ordering structure, in two copies after the entries (R441). -/
abbrev orderBase : Nat := 0x58000000
/-- The base of the library index (R441). -/
abbrev libIndexBase : Nat := 0x60000000
/-- The base of the recorder spill (R441). -/
abbrev spillBase : Nat := 0x64000000
/-- The base of divider d's line map ring (R441). -/
def lineMapBase (d : Nat) : Nat := 0x100000000 + d * 0x10000000
/-- Where a context's state of 256 B lies in the firmware region (R217, R441; the place is a DESIGN CHOICE,
notes/assumptions/125.md). -/
def contextAddr (c : Nat) : Nat := 0x1E000000 + c * 256

end Sys2Proof.Machine
end

