-- ==== Sys2Proof/Machine/Completion.lean ====
section
/-! DEFINITION. The host block's shared operations: who is connected, interrupt causes
(16_host_interface.md R420), datagrams to network seats (R421, R424), and the one operation that
completes a ring command (R413, R415, R416). -/

namespace Sys2Proof.Machine

/-! ### Seats and rings -/

/-- A seat is connected (R434). -/
def State.connected (s : State) (seat : Nat) : Bool := s.fld .seatStatus [seat] 0 1 == 1

/-- The device may access a seat's host memory (R410). -/
def State.busMaster (s : State) (seat : Nat) : Bool :=
  s.connected seat && s.fld .seatStatus [seat] 4 1 == 1

/-- The number of the seat's present connection. -/
def State.conn (s : State) (seat : Nat) : Nat := Tab.getD s.host.conns seat 0

/-- A ring is enabled (R411). -/
def State.ringOn (s : State) (seat ring : Nat) : Bool := s.fld .ringCfg [seat, ring] 0 1 == 1

/-- A ring lies in host memory (R411). -/
def State.ringInHost (s : State) (seat ring : Nat) : Bool := s.fld .ringCfg [seat, ring] 1 1 == 1

/-- The number of entries of a ring (R411). -/
def State.ringSize (s : State) (seat ring : Nat) : Nat := 2 ^ s.fld .ringCfg [seat, ring] 2 5

/-- The completions of a ring that its seat has not read (R413). -/
def State.unread (s : State) (seat ring : Nat) : Nat :=
  let n := s.ringSize seat ring
  (s.fld .cqTail [seat, ring] 0 16 + n - s.fld .cqHead [seat, ring] 0 16) % n

/-- The commands of a ring taken whose completions are not written. -/
def State.ringOutstanding (s : State) (seat ring : Nat) : Nat :=
  (s.host.outstanding.filter fun c => c.seat == seat && c.ring == ring).length +
  (s.host.heldDone.filter fun x => x.1.seat == seat && x.1.ring == ring).length

/-- The completion ring has a free slot beyond those promised (R413). One slot stays empty, so
that a full ring differs from an empty one (DEDUCED, notes/assumptions/14.md). -/
def State.slotFree (s : State) (seat ring : Nat) : Bool :=
  s.unread seat ring + s.ringOutstanding seat ring + 1 < s.ringSize seat ring

/-! ### Host memory -/

/-- Reads a seat's host memory. -/
def State.hostLoad (s : State) (seat a n : Nat) : Bytes :=
  Mem.readAll (if seat = 0 then s.host.mem0 else s.host.mem1) a n

/-- Writes a seat's host memory. -/
def State.hostStore (s : State) (seat a : Nat) (data : Bytes) : State :=
  if seat = 0 then { s with host := { s.host with mem0 := Mem.writeAll s.host.mem0 a data } }
  else { s with host := { s.host with mem1 := Mem.writeAll s.host.mem1 a data } }

/-! ### Datagrams to a network seat (R421, R424) -/

/-- The bytes of a Beyholdo datagram. -/
def bhBytes (seat type session seq ack : Nat) (retry : Bool) (payload : Bytes) : Bytes :=
  [0x42, 0x48, 0x01, BitVec.ofNat 8 type] ++ natLe 4 session ++ natLe 4 seq ++ natLe 4 ack ++
  natLe 2 payload.length ++ [BitVec.ofNat 8 seat, if retry then 1 else 0] ++
  List.replicate 12 0 ++ payload

/-- Sends one datagram of a session; it carries the cumulative ACK, so none is owed after it. -/
def State.bhPut (s : State) (seat type seq : Nat) (retry : Bool) (payload : Bytes) : State :=
  match Tab.get s.host.sessions seat with
  | none => s
  | some x =>
      let s := s.emit (.beyholdo seat x.ip x.port
        (bhBytes seat type x.id.toNat seq x.rxSeq retry payload))
      { s with host := { s.host with
          sessions := Tab.put s.host.sessions seat { x with ackOwed := false } } }

/-- Sends a sequenced datagram, or keeps it back while 64 are unacknowledged (R424). -/
def State.bhSend (s : State) (seat type : Nat) (payload : Bytes) (ring completions : Nat := 0) :
    State :=
  match Tab.get s.host.sessions seat with
  | none => s
  | some x =>
      let d : SentDgram := ⟨x.txSeq + 1, type, payload, 0, ring, completions⟩
      if x.unacked.length < 64 then
        let x := { x with txSeq := x.txSeq + 1, unacked := x.unacked ++ [d] }
        let s := { s with host := { s.host with sessions := Tab.put s.host.sessions seat x } }
        s.bhPut seat type d.seq false payload
      else
        { s with host := { s.host with
            sessions := Tab.put s.host.sessions seat { x with waiting := x.waiting ++ [d] } } }

/-! ### Interrupts (R420) -/

/-- Ring r's cause is pending. -/
def State.ringCause (s : State) (seat r : Nat) : Bool :=
  0 < s.unread seat r &&
  (max 1 (s.fld .cqMod [seat, r] 0 8) ≤ s.unread seat r || s.host.timeUp.contains (seat, r))

/-- The pending causes of a seat, bit c for cause c. -/
def State.intPending (s : State) (seat : Nat) : Nat :=
  ((List.range 16).map fun r => b2n (s.ringCause seat r) * 2 ^ r).foldl (· + ·) 0 +
  b2n (s.reg .intStatus [seat] != 0) * 2 ^ 16

/-- Sends the INTERRUPT datagram of a network seat with its pending set. -/
def State.sendInterrupt (s : State) (seat : Nat) : State :=
  let s := s.bhSend seat 0x0B (natLe 4 (s.intPending seat) ++ natLe 4 (s.reg .intStatus [seat]))
  { s with host := { s.host with
      spacing := seat :: s.host.spacing.filter (· != seat)
      intHeld := s.host.intHeld.filter (· != seat) } }

/-- Signals what has become pending on a seat: MSI-X vectors once each, or an INTERRUPT datagram,
held while the last one is less than 50 microseconds old. -/
def State.signalSeat (s : State) (seat : Nat) : State :=
  let pend : BitVec 17 := BitVec.ofNat 17 (s.intPending seat &&& s.reg .intMask [seat])
  let old := Tab.getD s.host.sentCauses seat 0
  let new := pend &&& ~~~old
  if !(if seat < 2 then s.busMaster seat else s.connected seat) then s else
  let s := { s with host := { s.host with
    sentCauses := Tab.put s.host.sentCauses seat pend } }
  if new = 0 then s
  else if seat < 2 then
    s.emits (((List.range 17).filter fun c => bit new.toNat c).map fun c => .msix seat c)
  else if s.host.spacing.contains seat then
    { s with host := { s.host with intHeld := seat :: s.host.intHeld.filter (· != seat) } }
  else s.sendInterrupt seat

/-- Lets a cause that is still pending be sent again. -/
def State.resignal (s : State) (seat c : Nat) : State :=
  let old := Tab.getD s.host.sentCauses seat 0
  { s with host := { s.host with
      sentCauses := Tab.put s.host.sentCauses seat (old &&& ~~~(BitVec.ofNat 17 (2 ^ c))) } }
  |>.signalSeat seat

/-- Sets a flag of a seat's INT_STATUS and signals it. -/
def State.raiseInt (s : State) (seat b : Nat) : State :=
  (s.setFlag .intStatus [seat] b).signalSeat seat

/-- Sets a flag of every seat's INT_STATUS. -/
def State.raiseAll (s : State) (b : Nat) : State :=
  (((s.raiseInt 0 b).raiseInt 1 b).raiseInt 2 b).raiseInt 3 b

/-- Sets a flag of INT_STATUS on every connected seat but one. -/
def State.raisePeers (s : State) (seat b : Nat) : State :=
  (List.range 4).foldl (fun s p => if p ≠ seat ∧ s.connected p then s.raiseInt p b else s) s

/-- Changes what GLB.STATE shows: INT_STATUS.STATE is set when it changed (R434). -/
def State.setDev (s : State) (d : DevState) : State :=
  if s.dev = d then s else ({ s with dev := d } : State).raiseAll 1

/-! ### Completions (R413, R415, R416) -/

/-- The bytes of a completion entry (R415). -/
def cqeBytes (c : CmdRef) (status r0 r1 phase sqHead : Nat) : Bytes :=
  natLe 4 c.tag.toNat ++ natLe 2 c.opcode ++ natLe 1 status ++ natLe 1 (phase + 2) ++
  natLe 8 c.arrival.toNat ++ natLe 8 r0 ++ natLe 4 r1 ++ natLe 2 sqHead ++ natLe 1 c.ring ++ [0]

/-- Leaves DRAINING when a disabled ring has no command outstanding (R429). -/
def State.ringSettle (s : State) (seat ring : Nat) : State :=
  if s.fld .ringStatus [seat, ring] 0 2 = 2 ∧ s.ringOutstanding seat ring = 0 then
    s.setFld .ringStatus [seat, ring] 0 2 0
  else s

/-- Writes a completion into its ring, advances CQ_TAIL and the phase, and signals the seat; a
network seat is sent a COMPLETE datagram (R423). -/
def State.writeCqe (s : State) (c : CmdRef) (status r0 r1 : Nat) : State :=
  let ix := [c.seat, c.ring]
  let tail := s.fld .cqTail ix 0 16
  let phase := s.fld .cqTail ix 16 1
  let e := cqeBytes c status r0 r1 phase (s.fld .sqHead ix 0 16)
  let a := s.pair .cqBaseLo .cqBaseHi ix + 32 * tail
  let s := if s.ringInHost c.seat c.ring then s.hostStore c.seat a e else s.store a e
  let wrap := tail + 1 == s.ringSize c.seat c.ring
  let s := s.setFld .cqTail ix 0 16 (if wrap then 0 else tail + 1)
  let s := if wrap then s.setFld .cqTail ix 16 1 (1 - phase) else s
  let s := if 2 ≤ c.seat then
      s.bhSend c.seat 0x04 (natLe 1 c.ring ++ [1, 0, 0] ++ e) c.ring 1 else s
  s.signalSeat c.seat

/-- The seat number of an item that a group launch brought: no seat of this module asked for it, and its
outcome goes to the leader (12_reproducibility.md R323). -/
abbrev groupSeat : Nat := 0xFF

/-- What a completion does on its own: exactly once, into its completion ring, or discarded and counted when
the connection it came by is lost (R416, R426). While Bus Master Enable is 0 a completion for host
memory waits (R410). -/
def State.finish (s : State) (c : CmdRef) (status : Nat) (r0 : Nat := 0) (r1 : Nat := 0) :
    State :=
  if c.seat = groupSeat then { s with host := { s.host with groupAnswer := some status } } else
  if !s.host.outstanding.contains c then s else
  let s := { s with host := { s.host with outstanding := s.host.outstanding.erase c } }
  let s :=
    if s.conn c.seat ≠ c.conn ∨ !s.connected c.seat then s.count .hostLostCompletions []
    else if s.ringInHost c.seat c.ring && !s.busMaster c.seat then
      { s with host := { s.host with heldDone := s.host.heldDone ++ [(c, status, r0, r1)] } }
    else s.writeCqe c status r0 r1
  s.ringSettle c.seat c.ring

/-- Finishes the command that asked, if there is one. -/
def State.finishFor (s : State) (c : Option CmdRef) (status : Nat) : State :=
  match c with
  | some c => s.finish c status 0 0
  | none => s

/-- The seat of a command as an INITIATOR (R522): 0x30, firmware, where nobody asked. -/
def initiatorOf (c : Option CmdRef) : Nat :=
  match c with
  | some c => c.seat
  | none => 0x30

/-! ### Writes into the staging region (02_deurzor_image.md R56, R65) -/

/-- The half that is the staging region. -/
def State.stagingHalf (s : State) : Nat := 1 - s.img.runHalf

/-- The pending image apply. -/
def State.pendingApply (s : State) : Option LaunchItem :=
  s.img.items.find? fun it => match it.kind with
    | .imageApply _ => true
    | _ => false

/-- Removes a launch item. -/
def State.dropItem (s : State) (it : LaunchItem) : State :=
  { s with img := { s.img with items := s.img.items.filter fun x => x.order != it.order } }

/-- The automatic image load ends without an image (R65). -/
def State.autoFail (s : State) (code : Nat) : State :=
  ({ s with img := { s.img with autoLoad := 0 } } : State).log
    { errorRec 0x20 with status := code, initiator := 0x30 }

/-- What a write into the staging region does to its state, whoever made it. The warning record names the seat
and says whether it held the lock (R69). -/
def State.watchStaging (s : State) (initiator a n : Nat) : State :=
  let base := halfBase s.stagingHalf
  if n = 0 ∨ base + 0x120000000 ≤ a ∨ a + n ≤ base then s else
  let held : Bool := match s.img.lock with
    | some x => x.val == initiator
    | none => false
  let note (s : State) : State := s.log { warning 7 with
    status := Code.imageSuperseded, initiator := initiator, arg0 := n64 (b2n held) }
  let to' (s : State) : State := { s with img := { s.img with staging := .written, staged := none } }
  match s.img.staging with
  | .empty | .written => to' s
  | .verified => note (to' s)
  | .verifying =>
      match s.img.verify with
      | some v =>
          let s := note { to' s with img := { (to' s).img with verify := none } }
          if v.by'.isSome then s.finishFor v.by' Code.imageSuperseded else s.autoFail Code.imageSuperseded
      | none => note (to' s)
  | .pending =>
      match s.pendingApply with
      | some it =>
          let s := note ((to' s).dropItem it)
          if it.by'.isSome then s.finishFor it.by' Code.imageSuperseded else s.autoFail Code.imageSuperseded
      | none => note (to' s)

/-- The device writes for a command of a seat, or for itself (R56: any initiator). -/
def State.storeFor (s : State) (initiator a : Nat) (data : Bytes) : State :=
  (s.watchStaging initiator a data.length).store a data

/-! ### Completing a command -/

/-- Where a completion that is written now lies, if it lies in device memory. -/
def State.cqePlace (s : State) (c : CmdRef) : Option Nat :=
  let ix := [c.seat, c.ring]
  if c.seat ≠ groupSeat ∧ s.host.outstanding.contains c ∧ s.conn c.seat = c.conn ∧ s.connected c.seat ∧
      !s.ringInHost c.seat c.ring then
    some (s.pair .cqBaseLo .cqBaseHi ix + 32 * s.fld .cqTail ix 0 16)
  else none

/-- A command completes (R413, R415, R416). A completion ring may lie in the staging region, and its entry is then a
write there (02_deurzor_image.md R56). -/
def State.complete (s : State) (c : CmdRef) (status : Nat) (r0 : Nat := 0) (r1 : Nat := 0) :
    State :=
  let t := s.finish c status r0 r1
  match s.cqePlace c with
  | some a => t.watchStaging c.seat a 32
  | none => t

/-- Completes the command that asked, if there is one. -/
def State.answer (s : State) (c : Option CmdRef) (status : Nat) (r0 : Nat := 0) (r1 : Nat := 0) :
    State :=
  match c with
  | some c => s.complete c status r0 r1
  | none => s

end Sys2Proof.Machine
end

