-- ==== Sys2Proof/Machine/Hash.lean ====
section
/-! DEFINITION. The checks over byte strings that the spec names: CRC-32 (02_deurzor_image.md
R38), CRC-64 (12_reproducibility.md R312), the CRC of an SSI word, SHA-512 and the verification of
an RSASSA-PSS signature with an RSA-4096 key (R39, 22_security.md R540, R541). -/

namespace Sys2Proof.Machine

/-! ### Cyclic redundancy checks -/

/-- One step of a reflected CRC on `w` bits' worth of data already combined. -/
def crcDown (poly : Nat) : Nat → Nat → Nat
  | 0, c => c
  | k + 1, c => crcDown poly k (if c % 2 = 1 then (c / 2) ^^^ poly else c / 2)

/-- CRC-32 of R38: polynomial 0x04C1_1DB7 reflected, initial value and final XOR all ones. -/
def crc32 (bs : Bytes) : Nat :=
  (bs.foldl (fun c b => crcDown 0xEDB88320 8 (c ^^^ b.toNat)) 0xFFFFFFFF) ^^^ 0xFFFFFFFF

/-- One step of a CRC that is not reflected, on a register of `w` bits. -/
def crcUp (w poly : Nat) : Nat → Nat → Nat
  | 0, c => c
  | k + 1, c =>
      crcUp w poly k (if c / 2 ^ (w - 1) % 2 = 1 then (c * 2 % 2 ^ w) ^^^ poly else c * 2 % 2 ^ w)

/-- CRC-64 of R312 continued over bytes: ECMA-182, not reflected. -/
def crc64 (c : Nat) (bs : Bytes) : Nat :=
  bs.foldl (fun c b => crcUp 64 0x42F0E1EBA9EA3693 8 (c ^^^ (b.toNat * 2 ^ 56))) c

/-- The CRC of `n` bits, most significant first, over a register of `w` bits (R282). -/
def crcBits (w poly init n v : Nat) : Nat :=
  (List.range n).foldl (fun c i =>
    let top := b2n (bit v (n - 1 - i))
    if (c / 2 ^ (w - 1) % 2 + top) % 2 = 1 then (c * 2 % 2 ^ w) ^^^ poly else c * 2 % 2 ^ w) init

/-! ### SHA-512 (FIPS 180-4) -/

/-- The largest `r + m`, `m` below `2 ^ b`, whose `k`-th power does not exceed a number: bits from the top. -/
def rootDown (k n : Nat) : Nat → Nat → Nat
  | 0, r => r
  | b + 1, r => rootDown k n b (if (r + 2 ^ b) ^ k ≤ n then r + 2 ^ b else r)

/-- The first 64 bits of the fraction of the `k`-th root of a number below `2 ^ (6 k)`. -/
def rootFraction (k n : Nat) : BitVec 64 := BitVec.ofNat 64 (rootDown k (n * 2 ^ (64 * k)) 70 0)

/-- The primes below 410, of which there are 80. -/
def smallPrimes : List Nat :=
  (List.range 410).filter fun n => 2 ≤ n && (List.range 21).all fun d => d < 2 || n ≤ d || n % d != 0

/-- The 80 round constants: the fractions of the cube roots of the first 80 primes. -/
def shaK : List (BitVec 64) := smallPrimes.map (rootFraction 3)

/-- The eight initial words: the fractions of the square roots of the first eight primes. -/
def shaH : List (BitVec 64) := (smallPrimes.take 8).map (rootFraction 2)

/-- The number in a big-endian byte string. -/
def beNat (bs : Bytes) : Nat := bs.foldl (fun n b => n * 256 + b.toNat) 0

/-- The low `n` bytes of a number, big-endian. -/
def natBe (n v : Nat) : Bytes := (natLe n v).reverse

/-- The XOR of a word's rotations to the right by each of some counts. -/
def spin (x : BitVec 64) (ns : List Nat) : BitVec 64 := ns.foldl (fun y n => y ^^^ x.rotateRight n) 0

/-- The next word of the message schedule from the sixteen before it, newest first. -/
def shaNext (w : List (BitVec 64)) : BitVec 64 :=
  let old := w.getD 14 0
  let new := w.getD 1 0
  (spin new [19, 61] ^^^ new >>> 6) + w.getD 6 0 + (spin old [1, 8] ^^^ old >>> 7) + w.getD 15 0

/-- `n` more words of the schedule, newest first. -/
def shaGrow : Nat → List (BitVec 64) → List (BitVec 64)
  | 0, w => w
  | n + 1, w => shaGrow n (shaNext w :: w)

/-- The message schedule of a block of 128 bytes: its sixteen words and 64 more. -/
def shaWords (block : Bytes) : List (BitVec 64) :=
  let first := (List.range 16).map fun i => BitVec.ofNat 64 (beNat (bytesAt block (8 * i) 8))
  (shaGrow 64 first.reverse).reverse

/-- One round: the words move down by one, the first and the fifth take what the round mixes. -/
def shaRound (v : List (BitVec 64)) (k w : BitVec 64) : List (BitVec 64) :=
  let x (i : Nat) := v.getD i 0
  let pick := (x 4 &&& x 5) ||| (~~~(x 4) &&& x 6)
  let most := (x 0 &&& x 1) ||| (x 0 &&& x 2) ||| (x 1 &&& x 2)
  let mix := x 7 + spin (x 4) [14, 18, 41] + pick + k + w
  (mix + spin (x 0) [28, 34, 39] + most) :: x 0 :: x 1 :: x 2 :: (x 3 + mix) :: (v.drop 4).take 3

/-- The digest after `n` blocks of 128 bytes. -/
def shaBlocks (bs : Bytes) : Nat → List (BitVec 64)
  | 0 => shaH
  | n + 1 =>
      let v := shaBlocks bs n
      let words := shaWords (bytesAt bs (128 * n) 128)
      List.zipWith (· + ·) v ((shaK.zip words).foldl (fun u p => shaRound u p.1 p.2) v)

/-- SHA-512 of a byte string, 64 bytes. -/
def sha512 (bs : Bytes) : Bytes :=
  let pad := (239 - bs.length % 128) % 128
  let m := bs ++ 0x80 :: List.replicate pad 0 ++ natBe 16 (8 * bs.length)
  (shaBlocks m (m.length / 128)).flatMap fun w => natBe 8 w.toNat

/-! ### RSASSA-PSS (RFC 8017) -/

/-- A power modulo a number, the exponent's `k` low bits taken from the top. -/
def powMod (b n e : Nat) : Nat → Nat
  | 0 => 1 % n
  | k + 1 =>
      let r := powMod b n (e / 2) k
      let r := r * r % n
      if e % 2 = 1 then r * b % n else r

/-- MGF1 with SHA-512: the first `len` bytes of the mask. -/
def mgf1 (seed : Bytes) (len : Nat) : Bytes :=
  ((List.range (ceilDiv len 64)).flatMap fun i => sha512 (seed ++ natBe 4 i)).take len

/-- EMSA-PSS-VERIFY for 4,095 bits, SHA-512 and a 64-byte salt, over a message hash. -/
def pssVerify (mHash em : Bytes) : Bool :=
  let masked := em.take 447
  let h := (em.drop 447).take 64
  let db0 := List.zipWith (· ^^^ ·) masked (mgf1 h 447)
  let db := (db0.headD 0 &&& 0x7F) :: db0.drop 1
  (byteAt em 511 == 0xBC) && (byteAt em 0 < 128) &&
  allZero (db.take 382) && (byteAt db 382 == 1) &&
  (sha512 (List.replicate 8 0 ++ mHash ++ db.drop 383) == h)

/-- A key block is well formed (R541). -/
def keyBlockOk (k : Bytes) : Bool :=
  (k.length == 1024) && (k.take 4 == [0x44, 0x5A, 0x4B, 0x01]) && allZero (bytesAt k 4 4) &&
  (leAt k 8 4 % 2 == 1) && (3 ≤ leAt k 8 4) && allZero (bytesAt k 0x20C 500) &&
  (128 ≤ byteAt k 0xC)

/-- The key hash of a key block (R541). -/
def keyHash (k : Bytes) : Bytes := sha512 (bytesAt k 8 516)

/-- A signature over a message hash verifies under a key given by exponent and modulus (R540: the
modulus is exactly 4,096 bits long). -/
def rsaVerify (e n : Nat) (mHash sig : Bytes) : Bool :=
  (2 ^ 4095 ≤ n) && (n < 2 ^ 4096) && (sig.length == 512) && (beNat sig < n) &&
  pssVerify mHash (natBe 512 (powMod (beNat sig) n e 32))

/-- A trailer's SIGNATURE over a message verifies under a key block (R39, R540). -/
def keyVerify (k message sig : Bytes) : Bool :=
  rsaVerify (leAt k 8 4) (beNat (bytesAt k 0xC 512)) (sha512 message) sig

/-- A trailer's SIGNATURE verifies under the device identity key (R549): RSA-4096, exponent 65,537
(R548). -/
def identityVerify (message sig : Bytes) : Bool :=
  rsaVerify 65537 (beNat (bytesAt Config.identityModulus 0 512)) (sha512 message) sig

end Sys2Proof.Machine
end

