-- ==== Sys2Proof/Machine/Image.lean ====
section
/-! DEFINITION. Reading a verified image: its sections, entries and records by the layouts of
02_deurzor_image.md R36 to R53, and the weight values that its overlays leave in force (R66, R67). -/

namespace Sys2Proof.Machine

/-- A byte string cut into `n` pieces of `size` bytes. -/
def chunks (size : Nat) : Nat → Bytes → List Bytes
  | 0, _ => []
  | n + 1, bs => bs.take size :: chunks size n (bs.drop size)

/-- The payload of the section of a TYPE (R40). -/
def Image.sec (i : Image) (t : Nat) : Bytes := i.secs.getD (t - 1) []

/-- The offset in the image of the payload of the section of a TYPE (R36 to R40). -/
def Image.secStart (i : Image) (t : Nat) : Nat :=
  ((i.secs.take (t - 1)).map fun b => 64 + roundUp b.length 64).foldl (· + ·) (128 + 64)

/-- The ENTRY_COUNT of the section of a TYPE (R38). -/
def Image.cnt (i : Image) (t : Nat) : Nat := i.counts.getD (t - 1) 0

/-- The records of a record section (R52). -/
def Image.records (i : Image) (t : Nat) : List Bytes := chunks 64 (i.cnt t) (i.sec t)

/-- The record of a KIND and INDEX (R52). -/
def Image.record (i : Image) (t kind index : Nat) : Option Bytes :=
  (i.records t).find? fun r => byteAt r 0 == kind && byteAt r 1 == index

/-- The records of a KIND. -/
def Image.kindOf (i : Image) (t kind : Nat) : List Bytes :=
  (i.records t).filter fun r => byteAt r 0 == kind

/-! ### Header, IDENT, MODES (R36, R42, R43) -/

def Image.length (i : Image) : Nat := leAt i.header 0x08 8
def Image.keySlot (i : Image) : Nat := byteAt i.header 0x14
def Image.imageId (i : Image) : Bytes := bytesAt i.header 0x18 16
def Image.powerMode (i : Image) : PowerMode :=
  match byteAt (i.sec 2) 0 with
  | 0 => .full
  | 1 => .balanced
  | _ => .sealed
def Image.detMode (i : Image) : Bool := byteAt (i.sec 2) 1 == 1
def Image.sliceUs (i : Image) : Nat :=
  let v := leAt (i.sec 2) 4 4
  if v = 0 then 2000 else v

/-! ### FABRIC (R44) -/

def Image.stageCount (i : Image) : Nat := leAt (i.sec 3) 0 2
def Image.setCount (i : Image) : Nat := leAt (i.sec 3) 2 2
def Image.stage (i : Image) (k : Nat) : Bytes := bytesAt (i.sec 3) (16 + 16 * k) 16
def Image.set (i : Image) (k : Nat) : Bytes := bytesAt (i.sec 3) (16 + 16 * (i.stageCount + k)) 16

namespace Stage
def model (e : Bytes) : Nat := byteAt e 2
def coreMask (e : Bytes) : Nat := slice (byteAt e 3) 0 4
def firstOp (e : Bytes) : Nat := leAt e 4 4
def lastOp (e : Bytes) : Nat := leAt e 8 4
def set (e : Bytes) : Nat := byteAt e 0xC
end Stage

namespace RSet
def core (e : Bytes) : Nat := byteAt e 1
def pinned (e : Bytes) : Bool := byteAt e 2 == 1
def weightFirst (e : Bytes) : Nat := leAt e 4 4
def weightLast (e : Bytes) : Nat := leAt e 8 4
def bytes (e : Bytes) : Nat := leAt e 0xC 4
end RSet

/-! ### STREAMS and LINEPIPE (R45, R47) -/

def Image.streams (i : Image) : List Bytes := chunks 64 (i.cnt 4) (i.sec 4)

namespace Strm
def stream (e : Bytes) : Nat := byteAt e 0
def portFirst (e : Bytes) : Nat := byteAt e 1
def portCount (e : Bytes) : Nat := byteAt e 2
def cxpId (e : Bytes) : Nat := byteAt e 3
def dataType (e : Bytes) : Nat := leAt e 4 2
def pipe (e : Bytes) : Nat := byteAt e 6
def inLine (e : Bytes) : Bool := byteAt e 7 == 1
def width (e : Bytes) : Nat := leAt e 8 4
def blockLines (e : Bytes) : Nat := leAt e 0xC 4
def bufferLines (e : Bytes) : Nat := leAt e 0x10 4
def rateMax (e : Bytes) : Nat := leAt e 0x14 4
def lanes (e : Bytes) : Nat := leAt e 0x18 2
def laneWidth (e : Bytes) : Nat := leAt e 0x1A 2
def haloCols (e : Bytes) : Nat := leAt e 0x1C 2
def stripeRows (e : Bytes) : Nat := leAt e 0x1E 2
def haloBefore (e : Bytes) : Nat := leAt e 0x20 2
def haloAfter (e : Bytes) : Nat := leAt e 0x22 2
def partMode (e : Bytes) : Nat := byteAt e 0x24
def encoder (e : Bytes) : Nat := byteAt e 0x25
def layout (e : Bytes) : Nat := byteAt e 0x26
end Strm

def Image.streamEntry (i : Image) (n : Nat) : Option Bytes :=
  i.streams.find? fun e => Strm.stream e == n

def Image.linePipes (i : Image) : List Bytes := chunks 32 (i.cnt 5) (i.sec 5)

namespace Lp
def stream (e : Bytes) : Nat := byteAt e 0
def function (e : Bytes) (b : Nat) : Bool := bit (byteAt e 1) b
def binning (e : Bytes) : Nat := byteAt e 2
def alignLines (e : Bytes) : Nat := byteAt e 3
def defectCount (e : Bytes) : Nat := leAt e 4 2
def tableOffset (e : Bytes) : Nat := leAt e 8 4
def tableLength (e : Bytes) : Nat := leAt e 0xC 4
end Lp

/-- A stream's LINEPIPE entry with its tables. -/
def Image.linePipe (i : Image) (n : Nat) : Option (Bytes × Bytes) :=
  (i.linePipes.find? fun e => Lp.stream e == n).map fun e =>
    (e, bytesAt (i.sec 5) (Lp.tableOffset e) (Lp.tableLength e))

/-! ### GRAPH (R48, R569) -/

def Image.modelCount (i : Image) : Nat := byteAt (i.sec 6) 0
def Image.models (i : Image) : List Bytes := chunks 32 i.modelCount ((i.sec 6).drop 16)
def Image.op (i : Image) (k : Nat) : Bytes := bytesAt (i.sec 6) (16 + 32 * i.modelCount + 64 * k) 64

namespace Mdl
def kind (e : Bytes) : Nat := byteAt e 0
def tapCount (e : Bytes) : Nat := byteAt e 1
def opFirst (e : Bytes) : Nat := leAt e 4 4
def opCount (e : Bytes) : Nat := leAt e 8 4
def streamMask (e : Bytes) : Nat := leAt e 0xC 8
def tensorCount (e : Bytes) : Nat := leAt e 0x14 4
end Mdl

namespace Op
def opcode (e : Bytes) : Nat := leAt e 0 2
def trainable (e : Bytes) : Bool := bit (byteAt e 2) 0
def tap (e : Bytes) : Bool := bit (byteAt e 2) 1
def reduces (e : Bytes) : Bool := bit (byteAt e 2) 2
def input (e : Bytes) (k : Nat) : Option Nat :=
  let v := leAt e (4 + 4 * k) 4
  if v = 0xFFFFFFFF then none else some v
def out (e : Bytes) : Nat := leAt e 0x10 4
def weight (e : Bytes) : Option Nat :=
  let v := leAt e 0x14 4
  if v = 0xFFFFFFFF then none else some v
/-- A field of PARAMS: the offset is from the start of the entry. -/
def param (e : Bytes) (off n : Nat) : Nat := leAt e off n
end Op

/-- The model of a KIND. -/
def Image.model (i : Image) (kind : Nat) : Option Bytes :=
  i.models.find? fun m => Mdl.kind m == kind

/-- The model whose operators a KIND runs: a candidate slot runs the deep model's (R49, R569). -/
def Image.opModel (i : Image) (kind : Nat) : Option Bytes :=
  i.model (if kind = 2 then 0 else kind)

/-- The indices of the operators of a model. -/
def Mdl.ops (m : Bytes) : List Nat := (List.range (Mdl.opCount m)).map (· + Mdl.opFirst m)

/-- The operators a KIND runs. -/
def Image.ops (i : Image) (kind : Nat) : List Nat :=
  match i.opModel kind with
  | some m => Mdl.ops m
  | none => []

/-- A stream is a view of a model (R48 STREAM_MASK). -/
def Image.inModel (i : Image) (kind stream : Nat) : Bool :=
  match i.model kind with
  | some m => bit (Mdl.streamMask m) stream
  | none => false

/-- The index of a model's first operator with REDUCES_ACROSS_STRIPES (R44); past the last
operator where there is none. -/
def Image.firstReducing (i : Image) (kind : Nat) : Nat :=
  match i.opModel kind with
  | some m => ((Mdl.ops m).find? fun k => Op.reduces (i.op k)).getD
      (Mdl.opFirst m + Mdl.opCount m)
  | none => 0

/-- The stages of a model in order: stripe stages, or tail stages (R44). -/
def Image.stagesOf (i : Image) (kind : Nat) (tail : Bool) : List Nat :=
  let cut := i.firstReducing kind
  (List.range i.stageCount).filter fun k =>
    Stage.model (i.stage k) == kind && (decide (cut ≤ Stage.firstOp (i.stage k)) == tail)

/-- The tap operators of a model in ascending index (R313). -/
def Image.taps (i : Image) (kind : Nat) : List Nat := (i.ops kind).filter fun k => Op.tap (i.op k)

/-! ### WEIGHTS (R51) and overlays (R66) -/

def Image.weight (i : Image) (k : Nat) : Bytes := bytesAt (i.sec 8) (32 * k) 32

namespace Wt
def format (e : Bytes) : Nat := byteAt e 0
def trainable (e : Bytes) : Bool := bit (byteAt e 1) 0
def elements (e : Bytes) : Nat := leAt e 4 4
def dataOffset (e : Bytes) : Nat := leAt e 8 8
def dataLength (e : Bytes) : Nat := leAt e 0x10 8
end Wt

/-- The image's own bytes of a weight. -/
def Image.weightData (i : Image) (k : Nat) : Bytes :=
  let e := i.weight k
  bytesAt (i.sec 8) (Wt.dataOffset e) (Wt.dataLength e)

/-- The bytes an overlay record gives a weight, if it holds it. -/
def overlayWeight (r : Bytes) (k : Nat) : Option Bytes :=
  ((List.range (leAt r 0x20 4)).map fun j => bytesAt r (64 + 16 * j) 16).findSome? fun e =>
    if leAt e 0 4 = k then some (bytesAt r (leAt e 8 4) (leAt e 0xC 4)) else none

/-- The bytes of a weight under an overlay chain up to a generation (R67, R68). -/
def weightIn (i : Image) (chain : List Overlay) (gen k : Nat) : Bytes :=
  (chain.filter fun o => o.gen ≤ gen).foldl
    (fun w o => (overlayWeight o.record k).getD w) (i.weightData k)

/-- The overlay generation in force (R66). -/
def State.overlayGen (s : State) : Nat := (s.img.overlays.map Overlay.gen).foldl max 0

/-! ### Record sections, TIME, GROUP -/

/-- The running image's record, if an image runs. -/
def State.imgRecord (s : State) (t kind index : Nat) : Option Bytes :=
  s.img.running.bind fun i => i.record t kind index

/-- The image of a part: the running one, or the one that ran before it. A part keeps the generation
under which it opened (R61). -/
def State.imageOf (s : State) (p : Part) : Option Image :=
  if p.imageGen = s.img.gen then s.img.running
  else if p.imageGen + 1 = s.img.gen then s.img.old
  else none

/-- The state with a part's image in the place of the running one, to look the part's records up. -/
def State.seen (s : State) (p : Part) : State :=
  if p.imageGen = s.img.gen then s else { s with img := { s.img with running := s.imageOf p } }

/-- The GROUP section of the running image, if the module is in a group (R53). -/
def State.group (s : State) : Option Bytes :=
  match s.img.running with
  | some i => if (i.sec 14).isEmpty then none else some (i.sec 14)
  | none => none

namespace Grp
def index (g : Bytes) : Nat := byteAt g 0
def size (g : Bytes) : Nat := byteAt g 1
def port (g : Bytes) : Nat :=
  let v := leAt g 2 2
  if v = 0 then 47711 else v
def configId (g : Bytes) : Bytes := bytesAt g 4 16
/-- A byte string of STRETCH: the offset is from the start of the section. -/
def stretch (g : Bytes) (off n : Nat) : Nat := leAt g off n
end Grp

end Sys2Proof.Machine
end

