-- ==== Sys2Proof/Machine/Encoder.lean ====
section
/-! DEFINITION. Positions and encoder channels at the field controller
(11_encoders_and_eject.md R278 to R286): count edges, SSI reads, the count period and the
interpolated position, and what the compute die knows of them. -/

namespace Sys2Proof.Machine

/-! ### Positions (R278) -/

/-- The signed difference of two positions of one encoder, in 1/256 count. -/
def posSub (a b : Pos) : Int := (a - b).toInt

/-- A position moved by a signed number of 1/256 counts, modulo 2^56. -/
def posAdd (a : Pos) (d : Int) : Pos := a + BitVec.ofInt 56 d

/-- A position moved by a signed number of counts. -/
def posCounts (a : Pos) (d : Int) : Pos := posAdd a (256 * d)

/-- `a` has reached `b`: it lies at or beyond it. -/
def reached (a b : Pos) : Bool := 0 ≤ posSub a b

/-! ### A channel's MOTION record (R279) -/

namespace EncCfg
def type (r : Bytes) : Nat := byteAt r 4
def direction (r : Bytes) : Bool := byteAt r 5 == 1
def avg (r : Bytes) : Nat := 2 ^ byteAt r 8
def wordBits (r : Bytes) : Nat := byteAt r 9
def gray (r : Bytes) : Bool := byteAt r 0xA == 1
def errBit (r : Bytes) : Nat := byteAt r 0xB
def crcBits (r : Bytes) : Nat := byteAt r 0xE
def crcInvert (r : Bytes) : Bool := byteAt r 0xF == 1
def crcPoly (r : Bytes) : Nat := leAt r 0x10 2
def crcInit (r : Bytes) : Nat := leAt r 0x12 2
def maxStep (r : Bytes) : Nat := leAt r 0x18 4
def errLimit (r : Bytes) : Nat := byteAt r 0x1C
def indexCheck (r : Bytes) : Nat := leAt r 0x20 4
end EncCfg

/-- The channel is incremental. -/
def Enc.incremental (e : Enc) : Bool := EncCfg.type e.cfg == 1 || EncCfg.type e.cfg == 2

/-- The channel is SSI. -/
def Enc.ssi (e : Enc) : Bool := EncCfg.type e.cfg == 3

/-- Channel `n`; a channel never configured is OFF. -/
def State.enc (s : State) (n : Nat) : Enc := Tab.getD s.motion.encs n {}

/-- Puts a channel back. -/
def State.setEnc (s : State) (n : Nat) (e : Enc) : State :=
  { s with motion := { s.motion with encs := Tab.put s.motion.encs n e } }

/-! ### Period and position (R283, R284) -/

/-- The period that the run's newest edges give, once it holds two of them. -/
def runPeriod (avg : Nat) (edges : List (Nat × Nat)) : Option Rat :=
  let n := min avg (edges.length - 1)
  if n = 0 then none else
  let span : Nat := (edges.getD 0 (0, 0)).1 - (edges.getD n (0, 0)).1
  let moved : Nat := ((edges.take n).map Prod.snd).foldl (· + ·) 0
  if moved = 0 then none else some ((span : Rat) / (moved : Rat))

/-- The count period at a time, in ns: raised to the time since the last edge if that is longer.
None: saturated. -/
def Enc.periodAt (e : Enc) (t : Nat) : Option Rat :=
  match e.period with
  | none => none
  | some p =>
      let since : Rat := ((t - (e.edges.getD 0 (0, 0)).1 : Nat) : Rat)
      let p := if e.edges.isEmpty then p else max p since
      if p * 16 < 0xFFFFFFFF then some p else none

/-- The count period in 1/16 ns, as ENC_PERIOD reports it. -/
def Enc.period16 (e : Enc) (t : Nat) : Nat :=
  match e.periodAt t with
  | some p => (p * 16).floor.toNat
  | none => 0xFFFFFFFF

/-- The time up to which a channel interpolates: in LOST any; else until its period exceeds 100 ms, from where P holds
(R285). -/
def Enc.liveUntil (e : Enc) (t : Nat) : Nat :=
  if e.st == .lost then t else
  match e.period with
  | some p => if p ≤ 100000000 then min t ((e.edges.headD (e.te, 0)).1 + 100000000) else e.te
  | none => e.te

/-- The interpolated position at a time, before the hold (R284). The period is not limited to what ENC_PERIOD can
show; before the first one it is the saturated value. -/
def Enc.rawPos (e : Enc) (t : Nat) : Pos :=
  let t := e.liveUntil t
  let since : Rat := ((t - (e.edges.headD (e.te, 0)).1 : Nat) : Rat)
  let p := max (e.period.getD (0xFFFFFFFF / 16)) since
  let u : Nat := if p ≤ 0 then 256 * e.lastStep - 1
    else min ((256 * ((t - e.te : Nat) : Rat) / p).floor.toNat) (256 * e.lastStep - 1)
  let n := e.count.toNat * 256
  if e.forward then BitVec.ofNat 56 (n + u) else BitVec.ofInt 56 ((n : Int) + 255 - u)

/-- A position with the hold of R284: while the direction holds, P is never behind the previous one. -/
def Enc.hold (e : Enc) (before r : Pos) : Pos :=
  if e.forward then (if posSub r before < 0 then before else r)
  else (if posSub before r < 0 then before else r)

/-- The interpolated position P at a time (R284, R285). -/
def Enc.posAt (e : Enc) (t : Nat) : Pos := if e.st == .off then e.p else e.hold e.p (e.rawPos t)

/-- The position of channel `n` now, at the field controller. -/
def State.encPos (s : State) (n : Nat) : Pos := (s.enc n).posAt s.now

/-- RUN or STOPPED by the period (R285). -/
def Enc.settleState (e : Enc) (t : Nat) : Enc :=
  if e.st == .off || e.st == .lost then e else
  match e.periodAt t with
  | some p => { e with st := if p ≤ 100000000 then .run else .stopped }
  | none => { e with st := .stopped }

/-- A count edge or moving read of `step` counts at a time (R280, R283): a reversal starts a new
run with this edge. `te` is the time it is latched at, `now` that from which it counts. -/
def Enc.move (e : Enc) (up : Bool) (step te now : Nat) : Enc :=
  let before := e.posAt now
  let turned := up != e.forward
  let edges := (te, step) :: (if turned then [] else e.edges.take 256)
  let count := if up then e.count + BitVec.ofNat 48 step else e.count - BitVec.ofNat 48 step
  let e1 : Enc := { e with
    count := count, forward := up, edges := edges, te := te
    lastStep := max 1 step
    period := (runPeriod (EncCfg.avg e.cfg) edges).orElse fun _ => e.period
    p := before }
  let raw := e1.rawPos now
  ({ e1 with p := if turned then raw else e1.hold before raw } : Enc).settleState te

/-- A channel enters LOST (R285): flag and error record. What becomes of its undecided parts is the
ledger's. -/
def State.loseEnc (s : State) (n : Nat) : State :=
  let e := s.enc n
  if e.st == .lost then s else
  let s := s.setEnc n { e with st := .lost, p := e.posAt s.now }
  s.flagLog .encErr [n] 7 { errorRec 13 with status := 0x95, arg0 := n64 n }

/-- Whether a channel has just entered LOST. -/
def lostNow (s t : State) (n : Nat) : Bool := (s.enc n).st != .lost && (t.enc n).st == .lost

/-! ### Incremental channels (R280, R281) -/

/-- A qualified count edge, or a sample in which A and B both change. -/
def State.encEdge (s : State) (n : Nat) (aLeads illegal : Bool) : State :=
  let e := s.enc n
  if !e.incremental || e.wireLost then s
  else if illegal then (s.setFlag .encErr [n] 0).loseEnc n
  else s.setEnc n (e.move (aLeads != EncCfg.direction e.cfg) 1 s.now s.now)

/-- The signal of a differential input is lost: those of an RS-422 channel, incremental or SSI (R280, R562). -/
def State.encWire (s : State) (n : Nat) : State :=
  let e := s.enc n
  if (EncCfg.type e.cfg != 1 && EncCfg.type e.cfg != 3) || e.wireLost then s else
  ((s.setEnc n { e with wireLost := true }).setFlag .encErr [n] 1).loseEnc n

/-- A qualified rising edge of Z: the counter is latched, and the counts since the previous pulse
are checked. -/
def State.encIndex (s : State) (n : Nat) : State :=
  let e := s.enc n
  if !e.incremental || e.wireLost then s else
  let moved := ((e.count - e.indexCount).toInt).natAbs
  let drift := EncCfg.indexCheck e.cfg != 0 && e.indexSeen && moved != EncCfg.indexCheck e.cfg
  let s := s.setEnc n { e with
    indexSeen := true, indexCount := e.count, indexPulses := e.indexPulses + 1 }
  if drift then
    s.flagLog .encErr [n] 2 { warning 13 with arg0 := n64 n, arg1 := n64 moved }
  else s

/-! ### SSI channels (R282) -/

/-- Binary from Gray, `w` bits. -/
def grayDecode (w v : Nat) : Nat :=
  (List.range w).foldl (fun acc i => acc + b2n ((List.range (w - i)).foldl
    (fun x j => x != bit v (i + j)) false) * 2 ^ i) 0

/-- A bad read: its flags, and LOST after ERR_LIMIT in a row. -/
def State.ssiBad (s : State) (n : Nat) (flags : List Nat) : State :=
  let e := s.enc n
  let s := flags.foldl (fun s f => s.setFlag .encErr [n] f) (s.setEnc n { e with ssiBad := e.ssiBad + 1 })
  if EncCfg.errLimit e.cfg ≤ e.ssiBad + 1 then s.loseEnc n else s

/-- An SSI word ends: every check of the list that it fails sets its flag; a word that passes all of them moves the
counter. The first good read sets the counter; P follows by the formula of R284, its hold included. -/
def State.ssiWord (s : State) (n : Nat) (word : Nat) (errBit : Bool) (crc : Nat) : State :=
  let e := s.enc n
  if !e.ssi || e.wireLost then s else
  let w := EncCfg.wordBits e.cfg
  let raw := word % 2 ^ w
  let withErr := if EncCfg.errBit e.cfg = 0 then raw else raw * 2 + b2n errBit
  let bits := if EncCfg.errBit e.cfg = 0 then w else w + 1
  let k := EncCfg.crcBits e.cfg
  let want := crcBits k (EncCfg.crcPoly e.cfg) (EncCfg.crcInit e.cfg % 2 ^ k) bits withErr
  let want := if EncCfg.crcInvert e.cfg then 2 ^ k - 1 - want else want
  let v := if EncCfg.gray e.cfg then grayDecode w raw else raw
  let moved : Int := match e.ssiValue with
    | some old => toSigned w ((v + 2 ^ w - old) % 2 ^ w)
    | none => 0
  let bad := (if k ≠ 0 ∧ crc % 2 ^ k ≠ want then [3] else []) ++
    (if (EncCfg.errBit e.cfg = 1 ∧ errBit) ∨ (EncCfg.errBit e.cfg = 2 ∧ !errBit) then [4] else []) ++
    (if EncCfg.maxStep e.cfg < moved.natAbs then [6] else [])
  if !bad.isEmpty then s.ssiBad n bad else
  let before := e.posAt s.now
  let good := { e with ssiValue := some v, ssiBad := 0 }
  let d := if EncCfg.direction e.cfg then -moved else moved
  if d ≠ 0 then s.setEnc n (good.move (0 < d) d.natAbs e.ssiReadAt s.now)
  else
    let count := if e.ssiValue.isNone then BitVec.ofNat 48 v else e.count
    let e1 : Enc := { good with count := count, te := e.ssiReadAt, lastStep := 1 }
    s.setEnc n (({ e1 with p := e1.hold before (e1.rawPos s.now) } : Enc).settleState s.now)

/-! ### Leaving LOST, what the die knows (R285, R286, R471) -/

/-- ENC_CTRL.CLEAR_LOST: the channel returns to RUN or STOPPED; an SSI channel takes its next good
read without a step check. -/
def State.clearLost (s : State) (n : Nat) : State :=
  let e := s.enc n
  if e.st != .lost then s else
  s.setEnc n (({ e with st := .stopped, ssiBad := 0
                        ssiValue := none } : Enc).settleState s.now)

/-- The severity of every record held. -/
def State.heldSev (s : State) : List Nat :=
  s.rec'.chip.map (·.severity) ++ s.rec'.ring.map fun r => r.2.2

/-! ### Numbers of states -/

def DevState.code : DevState → Nat
  | .boot => 0
  | .idle => 1
  | .applying => 2
  | .running => 3
  | .recovery => 4

def PowerMode.code : PowerMode → Nat
  | .full => 0
  | .balanced => 1
  | .sealed => 2

def TbSt.code : TbSt → Nat
  | .free => 0
  | .listening => 1
  | .uncalibrated => 2
  | .locked => 3
  | .holdover => 4
  | .master => 5
  | .refusing => 6

def EncSt.code : EncSt → Nat
  | .off => 0
  | .run => 1
  | .stopped => 2
  | .lost => 3

/-- PERIOD_CODE of a period in ns, and the period it stands for in 1/256 ns (R471): the largest
code not above the period (DEDUCED, notes/assumptions/15.md). -/
def periodCode (p : Rat) : Nat :=
  let v := (p * 256).floor.toNat
  if v < 256 then 0 else
  let e := min 31 (Nat.log2 (v / 256))
  let m := min 255 (v / 2 ^ e - 256)
  e * 256 + m

/-- The period of a PERIOD_CODE, in 1/256 ns. -/
def codePeriod (c : Nat) : Nat := (256 + c % 256) * 2 ^ (c / 256)

/-- The PERIOD_CODE that the frame carries now; a saturated period has the largest. -/
def Enc.frameCode (e : Enc) (t : Nat) : Nat :=
  match e.periodAt t with
  | some p => periodCode p
  | none => 31 * 256 + 255

/-- The encoder sample of an up frame reaches the die: the low 23 bits of P exactly, the period by
its code, the state. The full P is the value nearest to the previous one. -/
def Enc.sample (e : Enc) (t tb0 : Nat) : Enc :=
  let p := e.posAt t
  let low := BitVec.ofNat 56 (p.toNat % 2 ^ 23)
  let near (q : Pos) : Nat := (posSub q e.diePos).natAbs
  let hi := BitVec.ofNat 56 (e.diePos.toNat / 2 ^ 23 * 2 ^ 23)
  let step : Pos := BitVec.ofNat 56 (2 ^ 23)
  let best := [hi + low, hi - step + low, hi + step + low].foldl
    (fun a b => if near b < near a then b else a) (hi + low)
  { e with diePos := best, diePeriod := codePeriod (e.frameCode t), dieSt := e.st
           dieReverse := !e.forward, samples := ((tb0, best) :: e.samples).take 1024 }

/-- The die's position of channel `n`. -/
def State.diePos (s : State) (n : Nat) : Pos := (s.enc n).diePos

/-- The die treats a channel as not moving: STOPPED, OFF, or the link is down (R474). -/
def State.dieStopped (s : State) (n : Nat) : Bool :=
  let e := s.enc n
  e.dieSt != .run || s.field.linkState == 0

/-- A time in ns as counts in 1/256, at the die's period (R263, R286). -/
def Enc.countsOf (e : Enc) (ns : Nat) : Nat := if e.diePeriod = 0 then 0 else ns * 65536 / e.diePeriod

end Sys2Proof.Machine
end

