-- ==== Sys2Proof/Machine/Field.lean ====
section
/-! DEFINITION. The field controller's inputs, counters and outputs and the barrier link
(19_field_io.md R470 to R484, 11_encoders_and_eject.md R297). What a lost channel, a firing report
or a field controller reset means for parts is in Motion.lean. -/

namespace Sys2Proof.Machine

/-! ### FIELD records (R482) -/

/-- The FIELD record of a KIND and INDEX in force at the field controller. -/
def State.fieldRec (s : State) (kind index : Nat) : Option Bytes :=
  s.field.cfg.find? fun r => byteAt r 0 == kind && byteAt r 1 == index

/-- FILTER_N of an input. -/
def State.inFilter (s : State) (i : Nat) : Nat :=
  match s.fieldRec 1 i with
  | some r => leAt r 6 2
  | none => 100

/-- POS_ENCODER of an input, if its edges are reported. -/
def State.inEncoder (s : State) (i : Nat) : Option Nat :=
  match s.fieldRec 1 i with
  | some r => if byteAt r 8 = 0xFF then none else some (byteAt r 8)
  | none => none

/-- MODE of an output. -/
def State.outMode (s : State) (q : Nat) : Nat :=
  match s.fieldRec 2 q with
  | some r => byteAt r 4
  | none => 0

/-- SAFE of an output. -/
def State.outSafe (s : State) (q : Nat) : Nat :=
  match s.fieldRec 2 q with
  | some r => byteAt r 5
  | none => 0

/-- OPEN_TEST of an output. -/
def State.outOpenTest (s : State) (q : Nat) : Bool :=
  match s.fieldRec 2 q with
  | some r => byteAt r 6 == 1
  | none => false

/-- LIMIT_MA of a group. -/
def State.groupLimit (s : State) (g : Nat) : Nat :=
  match s.fieldRec 3 g with
  | some r => leAt r 4 2
  | none => 4000

/-! ### Outputs (R297, R478) -/

/-- Output `q`. -/
def State.output (s : State) (q : Nat) : Output := Tab.getD s.field.outputs q {}

/-- Puts an output back. -/
def State.setOutput (s : State) (q : Nat) (o : Output) : State :=
  { s with field := { s.field with outputs := Tab.put s.field.outputs q o } }

/-- An output is tripped, by itself or with its group (R479). -/
def Output.isTripped (o : Output) : Bool := o.tripped || o.groupTripped

/-- The output switches off at a time. -/
def Output.off (o : Output) (t : Nat) : Output :=
  { o with on := false, peak := false, endPos := none, more := []
           offAt := if o.on then some t else o.offAt }

namespace Shape
def mode (r : Bytes) : Nat := byteAt r 4
def holdDuty (r : Bytes) : Nat := byteAt r 5
def peakNs (r : Bytes) : Nat := leAt r 8 4
def onNs (r : Bytes) : Nat := leAt r 0xC 4
def onCounts (r : Bytes) : Nat := leAt r 0x10 4
def maxOnNs (r : Bytes) : Nat := leAt r 0x14 4
def minGapNs (r : Bytes) : Nat := leAt r 0x18 4
end Shape

/-- The outputs are unpowered or held off: no supply, a reset, or the safe state (R474, R475). -/
def State.outputsHeld (s : State) : Bool := s.field.held || !s.field.powered || s.field.fcSafe

/-- An output switches on with a pulse shape at a position of a channel. An output that is on, or
off for less than MIN_GAP_NS, is merged: it stays on until the later of the ends and its peak
is not restarted (R297). A tripped output stays off (R479). -/
def State.pulseOn (s : State) (q : Nat) (shape : Bytes) (encN : Nat) (p : Pos) : State :=
  let o := s.output q
  if o.isTripped || s.outputsHeld then s else
  let t := s.now
  let recent : Bool := match o.offAt with
    | some f => decide (t < f + max o.gap (Shape.minGapNs shape))
    | none => false
  let ends := t + (if Shape.mode shape = 0 then Shape.onNs shape else Shape.maxOnNs shape)
  let endP := if Shape.mode shape = 0 then none
    else some (encN, posAdd p (Shape.onCounts shape))
  if o.on || recent then
    let s := s.setOutput q { o with
      on := true, hold := Shape.holdDuty shape, gap := Shape.minGapNs shape
      onAt := if o.on then o.onAt else t
      endAt := ends, endPos := endP
      more := if o.on then (o.endAt, o.endPos) :: o.more else [] }
    s.setFlag .ejFlags [] 5
  else
    s.setOutput q { o with
      on := true, peak := 0 < Shape.peakNs shape, hold := Shape.holdDuty shape
      peakEnd := t + Shape.peakNs shape, endAt := ends, endPos := endP, more := [], onAt := t
      gap := Shape.minGapNs shape, host := false }

/-- The peak phase of an output ends: it goes on with the hold PWM. -/
def State.peakEnd (s : State) (q : Nat) : State :=
  let o := s.output q
  if o.on && o.peak then s.setOutput q { o with peak := false } else s

/-- The end of a pulse is reached: its time, or the position of its channel (R297). -/
def State.pulseOver (s : State) (e : Nat × Option (Nat × Pos)) : Bool :=
  decide (e.1 ≤ s.now) || (match e.2 with
    | some (n, p) => reached (s.encPos n) p
    | none => false)

/-- A pulse of an output ends, once every end of the pulses merged into it is reached. -/
def State.pulseEnd (s : State) (q : Nat) : State :=
  let o := s.output q
  if o.on && !o.host && ((o.endAt, o.endPos) :: o.more).all s.pulseOver then s.setOutput q (o.off s.now) else s

/-- A divider's event pulses its TRIG_OUT for TRIG_PULSE_NS (R289). -/
def State.trigPulse (s : State) (q ns : Nat) : State :=
  let o := s.output q
  if o.isTripped || s.outputsHeld || s.outMode q != 2 then s else
  s.setOutput q { o with on := true, peak := false, onAt := s.now, endAt := s.now + ns }

/-- The levels FIELD.Q_HOST gives the MODE 3 outputs (R478). -/
def State.applyHost (s : State) : State :=
  (List.range 64).foldl (fun s q =>
    if s.outMode q != 3 then s else
    let o := s.output q
    if bit s.field.qHost.toNat q && !o.isTripped && !s.outputsHeld then
      if o.on then s else s.setOutput q { o with on := true, host := true, onAt := s.now }
    else s.setOutput q (o.off s.now)) s

/-- The outputs take their safe states: SAFE 0 off; SAFE 1 lets a running pulse end, a host output
off at once. Both window copies are cleared (R474, R478, R300). -/
def State.enterSafe (s : State) : State :=
  if s.field.fcSafe then s else
  let s := (List.range 64).foldl (fun s q =>
    let o := s.output q
    if o.on && (s.outSafe q == 0 || s.outMode q == 3) then s.setOutput q (o.off s.now) else s) s
  { s with field := { s.field with fcSafe := true }
           motion := { s.motion with windows := [] } }

/-- Every output off at once: no supply, or a reset of the field controller (R475). -/
def State.outputsOff (s : State) : State :=
  { s with field := { s.field with
      outputs := s.field.outputs.map fun (q, o) => (q, o.off s.now) } }

/-! ### Protection and measurement (R479, R480) -/

/-- An output trips: off until a seat clears it. -/
def State.trip (s : State) (q : Nat) (cause : TripCause) : State :=
  let o := s.output q
  let applies : Bool := match cause with
    | .thermal => true
    | .overload => o.on && !o.peak
    | _ => o.on
  if !applies then s else
  let s := s.setOutput q { o.off s.now with tripped := true, peak := false }
  let b := match cause with
    | .thermal => 1
    | _ => 0
  s.flagLog .qErr [q] b { errorRec 15 with status := 0xB1, arg0 := n64 q }

/-- The 1 ms mean of a group's current. -/
def State.groupCheck (s : State) (g meanMa : Nat) : State :=
  let s := s.setFld .gCurrent [g] 0 13 meanMa
  if meanMa ≤ s.groupLimit g then s else
  let s := (List.range 8).foldl (fun s k =>
    let q := 8 * g + k
    s.setOutput q { (s.output q).off s.now with groupTripped := true }) s
  s.flagLog .gErr [g] 0 { errorRec 15 with status := 0xB2, arg0 := n64 g }

/-- The 1 ms mean of an output and its pin voltage: OPEN and READBACK. -/
def State.outMeasure (s : State) (q meanMa pinMv : Nat) : State :=
  let o := s.output q
  let s := s.setFld .qMeas [q] 0 10 (sat (meanMa / 2) 0x3FF)
  let s := if o.on && decide (o.onAt + 1000000 ≤ s.now) && decide (meanMa < 4) then
      s.setFlag .qErr [q] 2 else s
  let wrong := (!o.on && decide (12000 < pinMv)) ||
    (o.on && decide (o.onAt + 10000 ≤ s.now) && decide (pinMv < 12000))
  if wrong && !o.isTripped then
    s.flagLog .qErr [q] 3 { warning 15 with arg0 := n64 q, arg1 := n64 pinMv }
  else s

/-- The 100 ms open load test of an output that is off. -/
def State.openTest (s : State) (q pinMv : Nat) : State :=
  if s.outOpenTest q && !(s.output q).on && decide (18000 < pinMv) then s.setFlag .qErr [q] 2
  else s

/-! ### Inputs and counters (R473, R476, R477) -/

/-- EDGE_POS of a qualified edge (R476). While the encoder is STOPPED it is P itself. -/
def State.edgePos (s : State) (i n : Nat) : Pos :=
  let e := s.enc n
  let p := e.posAt s.now
  if e.st == .stopped then p else
  match e.periodAt s.now with
  | none => p
  | some per =>
      if per ≤ 0 then p else
      posAdd p (-((((s.inFilter i * 2560 : Nat) : Rat) / per + 1 / 2).floor))

/-- Queues an input edge for the die: of 64, the oldest of its kind replaced when full. -/
def State.queueEdge (s : State) (m : BarMsg) : State :=
  let isEdge : BarMsg → Bool := fun x => match x with
    | .edge .. => true
    | _ => false
  if ((s.field.upQueue.filter isEdge).length < 64) then
    { s with field := { s.field with upQueue := s.field.upQueue ++ [m] } }
  else
    let i := (findIdxOpt isEdge s.field.upQueue).getD 0
    ({ s with field := { s.field with upQueue := s.field.upQueue.eraseIdx i ++ [m] } } : State)
      |>.setFlag .fldLinkErr [] 3

/-- A counter counts an edge of its input. -/
def State.countEdge (s : State) (c i : Nat) (active : Bool) : State :=
  match s.fieldRec 4 c with
  | none => s
  | some r =>
      if byteAt r 4 ≠ i ∨ (byteAt r 5 = 0 ∧ !active) ∨ (byteAt r 5 = 1 ∧ active) then s else
      let k := Tab.getD s.field.counters c {}
      let k := { k with count := k.count + 1, edges := k.edges + 1, last := s.now
                        first := if k.edges = 0 then s.now else k.first }
      { s with field := { s.field with counters := Tab.put s.field.counters c k } }

/-- An edge of an input's filtered level. -/
def State.inputEdge (s : State) (i : Nat) (active : Bool) : State :=
  if s.field.held || bit s.field.inputs.toNat i == active then s else
  let s := { s with field := { s.field with
    inputs := BitVec.ofNat 32 (putSlice s.field.inputs.toNat i 1 (b2n active)) } }
  let s := (List.range 4).foldl (fun s c => s.countEdge c i active) s
  match s.inEncoder i with
  | some n => s.queueEdge (.edge i active (s.edgePos i n))
  | none => s

/-- A counter's gate ends: the frequency in 24.8 Hz, saturating. -/
def State.counterGate (s : State) (c : Nat) : State :=
  match s.fieldRec 4 c with
  | none => s
  | some _ =>
      let k := Tab.getD s.field.counters c {}
      let f := if k.edges < 2 ∨ k.last ≤ k.first then 0
        else sat ((k.edges - 1) * 256000000000 / (k.last - k.first)) 0xFFFFFFFF
      { s with field := { s.field with
          counters := Tab.put s.field.counters c { k with edges := 0, freq := n32 f } } }

/-- CNT_CTRL.ZERO: the count is 0. -/
def State.counterZero (s : State) (c : Nat) : State :=
  let k := Tab.getD s.field.counters c {}
  { s with field := { s.field with
      counters := Tab.put s.field.counters c { k with count := 0 } } }

/-! ### The 1PPS input (R481) -/

/-- PPS_EDGE of TB3's TIME record: falling. -/
def State.ppsFalling (s : State) : Bool :=
  match s.imgRecord 13 1 3 with
  | some r => byteAt r 7 == 1
  | none => false

/-- An edge on the 1PPS pin after a level held for some samples. -/
def State.ppsEdge (s : State) (rising : Bool) (held : Nat) : State :=
  if s.field.held || rising == s.ppsFalling || held < 10 then s else
  let t := s.now
  let early : Bool := match s.field.ppsLast with
    | some l => decide (t < l + 500000000)
    | none => false
  if early then
    { s with field := { s.field with ppsIgnored := s.field.ppsIgnored + 1 } }
  else { s with field := { s.field with
      ppsLast := some t, ppsPending := true, ppsAt := t - 100 } }

/-! ### Reset of the field controller (R475, R281) -/

/-- The field controller starts again: counters at 0, every output off, windows empty. The die
learns of it from FC_RESET in the next good up frame. -/
def State.resetFc (s : State) : State :=
  let s := s.outputsOff
  { s with
    field := { s.field with
      fcReset := true, fcSafe := true, upQueue := [], inputs := 0, counters := []
      outputs := [], goodDown := 0, fcLost := false, downFails := 0, ppsLast := none, ppsPending := false
      ppsIgnored := 0, rotation := 0, upFrames := 0, qHost := 0 }
    motion := { s.motion with
      windows := []
      encs := s.motion.encs.map fun (n, e) => (n, { e with
        count := 0, forward := true, edges := [], te := s.now, period := none, lastStep := 1
        p := 0, st := if e.st == .off then .off else .stopped, wireLost := false
        indexSeen := false, indexCount := 0, indexPulses := 0, ssiValue := none, ssiBad := 0 }) } }

/-- J3 rises through 17.0 V: the field controller starts from reset (R475, R561). Below 19.2 V the
supply is low (R483). -/
def State.supplyOn (s : State) (mv : Nat) : State :=
  let s := if s.field.powered then s else
    ({ s with field := { s.field with powered := true, held := false } } : State).resetFc
  let s := { s with field := { s.field with supplyMv := mv } }
  if mv < 19200 then s.log { warning 15 with arg0 := n64 mv } else s

/-- J3 falls below 16.0 V: the outputs lose power and the field controller is held in reset. -/
def State.supplyLoss (s : State) (mv : Nat) : State :=
  let s := s.resetFc
  let s := { s with field := { s.field with powered := false, held := true, supplyMv := mv } }
  s.log { warning 15 with arg0 := n64 mv }

/-! ### Frames (R470, R474) -/

/-- The die asks for the safe state: the link is being restored, or no image runs (R474, R26). -/
def State.wantSafe (s : State) : Bool :=
  s.field.dieSafe || s.dev == .boot || s.dev == .idle || s.dev == .recovery

/-- A frame's header (R471). -/
def barHeader (seq ack : BitVec 6) (safe fcReset : Bool) : BitVec 16 :=
  BitVec.ofNat 16 (seq.toNat + ack.toNat * 64 + b2n safe * 4096 + b2n fcReset * 8192)

/-- A channel's sample in an up frame (R471): the low 23 bits of P, PERIOD_CODE, STATE. -/
def Enc.frameBits (e : Enc) (t : Nat) : BitVec 38 :=
  BitVec.ofNat 38 ((e.posAt t).toNat % 2 ^ 23 + e.frameCode t * 2 ^ 23 + e.st.code * 2 ^ 36)

/-- Each side sends a frame: the header and, up, the eight samples of R471. The message slots, the near-window transfer
and the CRC over them are not part of the emission (notes/assumptions/145.md). -/
def State.sendFrames (s : State) : State :=
  let s := (s.emit (.barrier true (barHeader s.field.downSeq s.field.ackUp s.wantSafe false) [])).emit
    (.barrier false (barHeader s.field.upSeq s.field.ackDown s.field.fcSafe s.field.fcReset)
      ((List.range 8).map fun n => (s.enc n).frameBits s.now))
  { s with field := { s.field with
      downSeq := s.field.downSeq + 1, upSeq := s.field.upSeq + 1 } }

/-- A down frame failed at the field controller: counted, messages sent again, and the safe state
at the fourth in a row. -/
def State.downFailed (s : State) : State :=
  if s.field.held then s else
  let n := s.field.downFails + 1
  let s := s.setFlag .fldLinkErr [] 0
  let s := if s.motion.transfers.isEmpty then s else s.count .fldRetransmit []
  let s := { s with field := { s.field with downFails := n, goodDown := 0 } }
  if n = 4 then ({ s.enterSafe with field := { s.enterSafe.field with fcLost := true } } : State).setFlag .fldLinkErr [] 4
  else s

/-- An up frame failed at the die; at the fourth in a row the link is DOWN. -/
def State.upFailed (s : State) : State :=
  let n := s.field.upFails + 1
  let s := s.setFlag .fldLinkErr [] 1
  let s := if s.field.upQueue.isEmpty then s else s.count .fldRetransmit []
  let s := { s with field := { s.field with upFails := n, goodUp := 0 } }
  if n = 4 then
    ({ s with field := { s.field with dieSafe := true, linkState := 0 } } : State).log
      { errorRec 15 with status := 0xB0 }
  else s

end Sys2Proof.Machine
end

