-- ==== Sys2Proof/Machine/Lines.lean ====
section
/-! DEFINITION. Bound streams and the references that hold their corrected lines
(05_stripes_and_layouts.md R123, R138, R139). -/

namespace Sys2Proof.Machine

/-- A bound stream. -/
def State.stream (s : State) (n : Nat) : Option Stream := Tab.get s.cam.streams n

/-- Puts a stream back. -/
def State.setStream (s : State) (n : Nat) (x : Stream) : State :=
  { s with cam := { s.cam with streams := Tab.put s.cam.streams n x } }

/-- Changes a stream, where it is bound. -/
def State.updStream (s : State) (n : Nat) (f : Stream → Stream) : State :=
  { s with cam := { s.cam with streams := Tab.upd s.cam.streams n f } }

/-- Changes every bound stream. -/
def State.mapStreams (s : State) (f : Stream → Stream) : State :=
  { s with cam := { s.cam with streams := s.cam.streams.map fun (n, x) => (n, f x) } }

/-- A corrected line is held (R138). -/
def CorrLine.held (l : CorrLine) : Bool := !l.jobs.isEmpty || l.shoalHold || !l.crops.isEmpty

/-- The oldest corrected line still held (R139): the next line's index where none is. -/
def Stream.heldPoint (x : Stream) : Nat := ((x.lines.find? CorrLine.held).map (·.index)).getD x.nextCorr

/-- Space is reclaimed in line order only: lines before the hold point go (R139). What is known of them stays. -/
def Stream.reclaim (x : Stream) : Stream :=
  { x with lines := x.lines.dropWhile fun l => !l.held
           past := x.past ++ x.lines.takeWhile fun l => !l.held }

/-- The corrected lines of the running image that are known, reclaimed or not. -/
def Stream.known (x : Stream) : List CorrLine := (x.past ++ x.lines).filter fun l => decide (x.base ≤ l.index)

/-- A corrected line that is still there. -/
def Stream.line (x : Stream) (k : Nat) : Option CorrLine := x.lines.find? fun l => l.index == k

/-- A job gives back every line reference it holds. -/
def State.releaseJob (s : State) (job : Nat) : State :=
  s.mapStreams fun x => Stream.reclaim { x with
    lines := x.lines.map fun l => { l with jobs := l.jobs.filter (· != job) } }

/-- A crop gives back every line reference it holds. -/
def State.releaseCrop (s : State) (crop : Nat) : State :=
  s.mapStreams fun x => Stream.reclaim { x with
    lines := x.lines.map fun l => { l with crops := l.crops.filter (· != crop) } }

/-- The stream is past its boundary of an apply, so its lines wait for the end of the load phase (R63). -/
def State.inGap (s : State) (n : Nat) : Bool :=
  match s.img.apply with
  | some a => (Tab.get a.boundaries n).isSome
  | none => false

/-- The overlay generation that governs a corrected line (R67). -/
def Stream.ovlAt (x : Stream) (k : Nat) : Nat :=
  x.ovls.foldl (fun g e => if e.1 ≤ k then e.2 else g) 0

/-- The overlay generation under which a stream's parts open now. -/
def Stream.ovlNow (x : Stream) : Nat := ((x.ovls.getLast?).map Prod.snd).getD 0

/-- The stripe origin at or before a corrected line (R124). -/
def Stream.originOf (x : Stream) (k : Nat) : Nat := (x.origins.filter (· ≤ k)).foldl max 0

/-- The first stripe origin after a corrected line, if there is one. -/
def Stream.nextOrigin (x : Stream) (k : Nat) : Option Nat :=
  (x.origins.filter (k < ·)).foldl (fun m o => match m with
    | none => some o
    | some v => some (min v o)) none

/-- Binning of a stream: 1 without a LINEPIPE entry or its binning function. -/
def Stream.binning (x : Stream) : Nat :=
  match x.lp with
  | some (e, _) => if Lp.function e 5 then max 1 (Lp.binning e) else 1
  | none => 1

/-- Binned columns of a stream (R122). -/
def Stream.columns (x : Stream) : Nat := Strm.width x.cfg / x.binning

/-- The divider that triggers a stream, if it is not free-running (R287, R84). -/
def State.dividerOf (s : State) (stream : Nat) : Option Nat :=
  (s.motion.divs.find? fun d => bit (leAt d.2.cfg 0x14 8) stream).map Prod.fst

/-- PITCH of a stream's divider in 1/256 count, or 0. -/
def State.pitchOf (s : State) (stream : Nat) : Nat :=
  match s.dividerOf stream with
  | some d => leAt ((Tab.get s.motion.divs d).map (·.cfg) |>.getD []) 8 4
  | none => 0

end Sys2Proof.Machine
end

