-- ==== Sys2Proof/Machine/Sched.lean ====
section
/-! DEFINITION. The scheduler (09_scheduling.md R215 to R236): contexts and residency, commands and
their states, kills, ordering, placement, host turns. What a committed command publishes is in
Publish.lean. -/

namespace Sys2Proof.Machine

/-! ### Contexts (R216, R217, R231) -/

/-- A context. -/
def State.ctx (s : State) (c : Nat) : Option Ctx := Tab.get s.sched.ctxs c

/-- Changes a context, where it is defined. -/
def State.updCtx (s : State) (c : Nat) (f : Ctx → Ctx) : State :=
  { s with sched := { s.sched with ctxs := Tab.upd s.sched.ctxs c f } }

/-- Defines a context, blocked from now. -/
def State.defineCtx (s : State) (c : Nat) (kind : CtxKind) (owner : Nat) (pinned : Bool) : State :=
  let x : Ctx := { kind := kind, owner := owner, pinned := pinned, slot := none,
                   blockedSince := some s.now, starve := 0, waiting := false, evicting := false }
  { s with sched := { s.sched with ctxs := Tab.put s.sched.ctxs c x } }

/-- The priority class of a kind (R216). -/
def CtxKind.cls : CtxKind → Nat
  | .live => 0
  | .shadow => 1
  | .host => 2
  | .training => 3

/-- The class of a context by its number (R216). -/
def ctxClass (c : Nat) : Nat := if c < 64 then 0 else if c < 128 then 1 else if c < 160 then 3 else 2

/-- Pinned contexts (R232). -/
def State.pinnedCount (s : State) : Nat := (s.sched.ctxs.filter fun c => c.2.pinned).length

/-- The slots that are occupied. -/
def State.slotsUsed (s : State) : List Nat := s.sched.ctxs.filterMap fun c => c.2.slot

/-- The lowest free resident slot of 128 (R217). -/
def State.freeSlot (s : State) : Option Nat :=
  let used := s.slotsUsed
  (List.range 128).find? fun k => !used.contains k

/-! ### Jobs and commands (R215, R218) -/

/-- A job. -/
def State.job (s : State) (j : Nat) : Option Job := s.sched.jobs.find? fun x => x.id == j

/-- Changes a job. -/
def State.updJob (s : State) (j : Nat) (f : Job → Job) : State :=
  { s with sched := { s.sched with jobs := s.sched.jobs.map fun x => if x.id = j then f x else x } }

/-- A command. -/
def State.cmd (s : State) (c : Nat) : Option Cmd := s.sched.cmds.find? fun x => x.id == c

/-- Changes a command. -/
def State.updCmd (s : State) (c : Nat) (f : Cmd → Cmd) : State :=
  { s with sched := { s.sched with cmds := s.sched.cmds.map fun x => if x.id = c then f x else x } }

/-- Changes a core. -/
def State.updCore (s : State) (n : Nat) (f : Core → Core) : State :=
  { s with sched := s.sched.setCore n (f (s.sched.core n)) }

/-- The commands of a job. -/
def State.jobCmds (s : State) (j : Nat) : List Cmd := s.sched.cmds.filter fun c => c.job == j

/-- A context has a ready, dispatched, running or committing command, as far as class 0 to 3 count
it runnable (R217): a ready one. -/
def State.runnable (s : State) (c : Nat) : Bool :=
  s.sched.cmds.any fun x => x.st == .ready && (match s.job x.job with
    | some j => j.ctx == c
    | none => false)

/-- A context has a command on a core. -/
def State.ctxRunning (s : State) (c : Nat) : Bool :=
  s.sched.cmds.any fun x => (x.st == .dispatched || x.st == .running || x.st == .committing) &&
    (match s.job x.job with
      | some j => j.ctx == c
      | none => false)

/-- Keeps what a context knows of being blocked, and asks for a slot when it is runnable and not
resident (R231). -/
def State.ctxCheck (s : State) (c : Nat) : State :=
  let run := s.runnable c
  s.updCtx c fun x =>
    if run then { x with blockedSince := none, waiting := x.slot.isNone }
    else { x with blockedSince := x.blockedSince.orElse (fun _ => some s.now), waiting := false }

/-- The context of a command's job. -/
def State.cmdCtx (s : State) (c : Cmd) : Nat := ((s.job c.job).map (·.ctx)).getD 1023

/-- Adds a job with no command yet; its number is its `id`. -/
def State.addJob (s : State) (j : Job) : State :=
  let j := { j with id := s.sched.nextJob }
  { s with sched := { s.sched with
      jobs := s.sched.jobs ++ [j], nextJob := s.sched.nextJob + 1 } }

/-- Adds a QUEUED command of a job for a stage. -/
def State.addCmd (s : State) (job stage : Nat) : State :=
  let c : Cmd := { id := s.sched.nextCmd, job := job, stage := stage, st := .queued, core := none,
                   startOrder := 0, spaceReserved := false, doomed := false, turnKills := 0 }
  { s with sched := { s.sched with
      cmds := s.sched.cmds ++ [c], nextCmd := s.sched.nextCmd + 1 } }

/-- A command becomes READY: its context is runnable (R218). A stripe job that becomes ready takes the
determinism mode in force (R311). -/
def State.makeReady (s : State) (c : Nat) : State :=
  match s.cmd c with
  | some x =>
      let s := s.updJob x.job fun j =>
        if j.kind = .stripe ∧ j.input.isNone then { j with det := s.img.detMode } else j
      (s.updCmd c fun x => { x with st := .ready }).ctxCheck (s.cmdCtx x)
  | none => s

/-! ### Kills and withdrawal (R221, R264) -/

/-- A kill on a core is counted (R248). -/
def State.countKill (s : State) (n : Nat) (preempt : Bool) : State :=
  if preempt then s.setFld .coreKills [n] 0 16 (s.fld .coreKills [n] 0 16 + 1)
  else s.setFld .coreKills [n] 16 16 (s.fld .coreKills [n] 16 16 + 1)

/-- The core under a command leaves it and enters KILLING; a weight load under way leaves its set not resident
(R221, R236). -/
def State.killOnCore (s : State) (x : Cmd) (preempt : Bool) : State :=
  match x.core with
  | none => s
  | some n =>
      let set := match s.img.running with
        | some i => Stage.set (i.stage x.stage)
        | none => 0xFF
      let cut := x.st == .dispatched && (s.sched.core n).loading
      let f (c : Core) : Core :=
        { c with st := .killing, cmd := none, stalled := 0, loading := false,
                 lostSets := if cut && c.sets.contains set then set :: c.lostSets else c.lostSets,
                 sets := if cut then c.sets.filter (· != set) else c.sets }
      (s.updCore n f).countKill n preempt

/-- A stage runs an operator of an opcode. -/
def Image.stageHas (i : Image) (stage opcode : Nat) : Bool :=
  let e := i.stage stage
  (List.range (Stage.lastOp e + 1 - Stage.firstOp e)).any fun k => Op.opcode (i.op (Stage.firstOp e + k)) == opcode

/-- A command runs the lookups of its job (R196). -/
def State.looksUp (s : State) (x : Cmd) : Bool :=
  match s.img.running with
  | some i => i.stageHas x.stage 0x0203
  | none => false

/-- A command that ran its job's lookups has left its core: they will start anew. -/
def State.forgetLooks (s : State) (x : Cmd) : State :=
  if s.looksUp x then s.updJob x.job fun j => { j with looks := [] } else s

/-- A kill: a DISPATCHED or RUNNING command returns to READY and keeps its references; a
COMMITTING one is never killed (R218, R221). -/
def State.kill (s : State) (c : Nat) (preempt : Bool) : State :=
  match s.cmd c with
  | none => s
  | some x =>
      if x.st = .dispatched ∨ x.st = .running then
        let s := (s.killOnCore x preempt).forgetLooks x
        (s.updCmd c fun x => { x with st := .ready, core := none }).ctxCheck (s.cmdCtx x)
      else s

/-- A job goes: its uncommitted commands are killed or dropped, its references given back. A
command that is committing completes normally (R218): the job goes with it, or, where it is the job's last, ends as ever. -/
def State.withdraw (s : State) (j : Nat) : State :=
  match s.job j with
  | none => s
  | some x =>
      let cs := s.jobCmds j
      if cs.any fun c => c.st == .committing then
        if cs.length = 1 then s else
        { s with sched := { s.sched with
            cmds := (s.sched.cmds.filter fun c => c.job != j || c.st == .committing).map fun c =>
              if c.job = j then { c with doomed := true } else c } }
      else
        let s := cs.foldl (fun s c => if c.st = .dispatched ∨ c.st = .running then
          s.killOnCore c false else s) s
        let s := { s with sched := { s.sched with
          cmds := s.sched.cmds.filter fun c => c.job != j
          jobs := s.sched.jobs.filter fun y => y.id != j
          replays := Tab.del s.sched.replays j } }
        (s.releaseJob j).ctxCheck x.ctx

/-- A host or training job is cancelled: its command completes with a code; a job that is committing its last unit
completes normally (R216, R218, R236). -/
def State.cancelJob (s : State) (j status : Nat) : State :=
  match s.job j with
  | none => s
  | some x =>
      if (s.jobCmds j).all (fun c => c.st == .committing) && !(s.jobCmds j).isEmpty then s
      else (s.withdraw j).answer x.by' status

/-! ### Cores (R228, R246) -/

/-- CORE.CTRL.OFFLINE. -/
def State.offline (s : State) (n : Nat) : Bool := s.fld .coreCtrl [n] 0 1 == 1

/-- A core is in service (R228). -/
def State.inService (s : State) (n : Nat) : Bool :=
  let c := s.sched.core n
  !s.offline n && !c.reloading && !(c.st == .off || c.st == .hung || c.st == .clockFault)

/-- A core is free: in service with nothing on it. -/
def State.coreFree (s : State) (n : Nat) : Bool := s.inService n && (s.sched.core n).st == .idle

/-- The cores in service. -/
def State.serviceCount (s : State) : Nat := ((List.range 4).filter s.inService).length

/-- The stage's CORE_MASK. -/
def State.maskOf (s : State) (x : Cmd) : Nat :=
  match s.img.running with
  | some i => Stage.coreMask (i.stage x.stage)
  | none => 15

/-- The eligible cores of a command, ascending (R228). -/
def State.eligible (s : State) (x : Cmd) : List Nat :=
  (List.range 4).filter fun n => bit (s.maskOf x) n && s.inService n

/-- The largest COST_CYCLES among a stage's programs for its eligible in-service cores (R264). -/
def State.stageCost (s : State) (stage : Nat) : Nat :=
  match s.img.running with
  | none => 0
  | some i =>
      let n := leAt (i.sec 7) 4 4
      ((chunks 32 n ((i.sec 7).drop 16)).filter fun p =>
          leAt p 2 2 == stage && s.inService (byteAt p 0)).foldl
        (fun m p => max m (leAt p 0x10 8)) 0

/-! ### Keys (R223, R224) -/

/-- The TB1 time at which the die expects a channel to reach a position; none: never, because the
channel stands (R263). -/
def State.timeOf (s : State) (enc : Nat) (p : Pos) : Option Int :=
  if s.dieStopped enc then none else
  let e := s.enc enc
  some ((s.now : Int) + posSub p e.diePos * e.diePeriod / 65536)

/-- A part is not yet decided. -/
def Part.undecided (p : Part) : Bool :=
  p.st == .open' || p.st == .imaged || p.st == .scored

/-- A view of a part covers some of a range of corrected lines of its stream. -/
def View.covers (v : View) (stream lo hi : Nat) : Bool :=
  v.local' && v.stream == stream && (match v.first with
    | none => false
    | some f => decide (f ≤ hi) && (match v.last with
        | none => true
        | some l => decide (lo ≤ l)))

/-- A stripe job serves a part: own rows of the job lie in the part's scope (R264). -/
def Job.serves (j : Job) (p : Part) : Bool :=
  p.views.any fun v => v.covers j.stream j.ownFirst j.ownLast

/-- The parts a job serves, by slot. -/
def State.servedBy (s : State) (j : Job) : List (Nat × Part) :=
  match j.kind with
  | .stripe => s.ledg.parts.filter fun p => j.serves p.2
  | .tail => (Tab.get s.ledg.parts j.slot).toList.map fun p => (j.slot, p)
  | _ => []

/-- The smaller of two keys; none stands for no time. -/
def minKey (a b : Option Int) : Option Int :=
  match a, b with
  | none, b => b
  | a, none => a
  | some x, some y => some (min x y)

/-- SEGMENT_LINES of the part definition that looks at a stream, as its primary stream or as a view of it. -/
def State.segmentOf (s : State) (n : Nat) : Nat :=
  let viewed (r : Bytes) : Bool := match s.imgRecord 9 2 (byteAt r 1) with
    | some v => (List.range (byteAt v 5)).any fun k => byteAt v (8 + 7 * k) == n && byteAt v (9 + 7 * k) == 0xFF
    | none => false
  match (s.imgRecord 9 1 n).orElse fun _ => (s.img.running.bind fun i => (i.kindOf 9 1).find? viewed) with
  | some r => leAt r 0x10 4
  | none => 0

/-- The key of a job: the earliest cutoff among the parts it serves, in TB1 time; a job whose
parts have none yet takes the stream's most recent cutoff plus one segment (R223). -/
def State.jobKey (s : State) (j : Job) : Option Int :=
  let ps := s.servedBy j
  if ps.isEmpty then
    match Tab.get s.ledg.lastCutoff j.stream, s.stream j.stream with
    | some c, some x =>
        s.timeOf (Strm.encoder x.cfg) (posAdd c (s.segmentOf j.stream * s.pitchOf j.stream))
    | _, _ => none
  else ps.foldl (fun m p => minKey m (s.timeOf p.2.encoder p.2.cutoff)) none

/-- One key comes before another; no time comes last. -/
def keyLt (a b : Option Int) : Bool :=
  match a, b with
  | some x, some y => decide (x < y)
  | some _, none => true
  | none, _ => false

/-- Numbers in order, compared one after another. -/
def lexLt : List Nat → List Nat → Bool
  | a :: as, b :: bs => if a < b then true else if b < a then false else lexLt as bs
  | [], _ :: _ => true
  | _, [] => false

/-- Command `a` is dispatched before `b`: class, then key, then context, stripe, lane and stage;
class 2 in order of arrival, class 3 by job index and unit (R222 to R225). -/
def State.before (s : State) (a b : Cmd) : Bool :=
  match s.job a.job, s.job b.job with
  | some x, some y =>
      let ca := ctxClass x.ctx
      let cb := ctxClass y.ctx
      if ca ≠ cb then decide (ca < cb)
      else if ca < 2 then
        let ka := s.jobKey x
        let kb := s.jobKey y
        if keyLt ka kb then true else if keyLt kb ka then false
        else lexLt [x.ctx, x.stripe, x.lane, a.stage, a.id] [y.ctx, y.stripe, y.lane, b.stage, b.id]
      else lexLt [x.ctx, a.id] [y.ctx, b.id]
  | _, _ => decide (a.id < b.id)

/-- The first of some commands in dispatch order. -/
def State.firstOf (s : State) (cs : List Cmd) : Option Cmd :=
  cs.foldl (fun m c => match m with
    | none => some c
    | some d => if s.before c d then some c else some d) none

/-! ### Host turns (R225, R226) -/

/-- A seat's host contexts. -/
def State.hostCtxs (s : State) (seat : Nat) : List Nat :=
  (s.sched.ctxs.filter fun c => c.2.kind == .host && c.2.owner == seat).map Prod.fst

/-- A seat has a runnable host context. -/
def State.seatRunnable (s : State) (seat : Nat) : Bool := (s.hostCtxs seat).any s.runnable

/-- A seat has a host command on a core. -/
def State.seatRunning (s : State) (seat : Nat) : Bool := (s.hostCtxs seat).any s.ctxRunning

/-- The length of a turn in ns (R225, R239). -/
def State.sliceNs (s : State) : Nat := s.fld .schedSlice [] 0 17 * 1000

/-- Begins the turn of a seat: its debt is deducted; a debt of a turn or more takes the turn
whole, which then passes without dispatch (R226). -/
def State.beginTurn (s : State) (seat : Nat) : State :=
  let debt := s.fld .schedSeatDebt [seat] 0 16 * 1000
  let cut := min debt s.sliceNs
  let s := s.setFld .schedSeatDebt [seat] 0 16 ((debt - cut) / 1000)
  { s with sched := { s.sched with turn :=
      { seat := seat, active := decide (cut < s.sliceNs), extended := false, start := s.now,
        nominalEnd := s.now + s.sliceNs - cut, lastCommit := s.now + s.sliceNs - cut } } }

/-- The next seat in order that has a runnable host context. -/
def State.nextSeat (s : State) (from' : Nat) : Option Nat :=
  ([1, 2, 3, 4].map fun k => (from' + k) % 4).find? s.seatRunnable

/-- Passes the turn on. -/
def State.passTurn (s : State) : State :=
  match s.nextSeat s.sched.turn.seat with
  | some n => s.beginTurn n
  | none => { s with sched := { s.sched with turn := { s.sched.turn with
      active := false, extended := false } } }

/-- A turn ends early, with no debt, when its seat has nothing runnable and nothing running; when
no turn is in progress, one begins for the next seat that has work. -/
def State.turnCheck (s : State) : State :=
  let t := s.sched.turn
  if t.active && (s.seatRunnable t.seat || s.seatRunning t.seat) then s else s.passTurn

/-! ### Dispatch (R222, R229, R230) -/

/-- The weights a stage's operators name: WEIGHT and QTAB. -/
def Image.stageWeights (i : Image) (e : Bytes) : List Nat :=
  ((List.range (Stage.lastOp e + 1 - Stage.firstOp e)).map fun k => i.op (Stage.firstOp e + k)).flatMap
    fun o => (Op.weight o).toList ++ (if leAt o 0x20 4 = 0xFFFFFFFF then [] else [leAt o 0x20 4])

/-- A set holds every weight of a stage (R234). -/
def Image.covers (i : Image) (set stage : Bytes) : Bool :=
  (i.stageWeights stage).all fun w => RSet.weightFirst set ≤ w && w ≤ RSet.weightLast set

/-- The sets pinned on a core. -/
def Image.pinnedOn (i : Image) (n : Nat) : List Nat :=
  (List.range i.setCount).filter fun k => RSet.pinned (i.set k) && RSet.core (i.set k) == n

/-- The stage's weights are in a core's pool: a set pinned there holds them, or its own is loaded (R229, R234). -/
def State.weightsOn (s : State) (x : Cmd) (n : Nat) : Bool :=
  match s.img.running with
  | none => true
  | some i =>
      let set := Stage.set (i.stage x.stage)
      if set = 0xFF then true
      else
        (i.pinnedOn n).any (fun k => k == set || i.covers (i.set k) (i.stage x.stage)) ||
          (s.sched.core n).sets.contains set

/-- The core rotation names for a class 0 or 1 command in Reproducible mode (R230). -/
def State.rotationCore (s : State) (x : Cmd) (j : Job) : Option Nat :=
  let e := s.eligible x
  if e.isEmpty then none else
  let k := match j.kind with
    | .tail => j.stripe
    | _ =>
        let lanes := ((s.stream j.stream).map fun y => Strm.lanes y.cfg).getD 1
        j.stripe * lanes + j.lane
  e[k % e.length]?

/-- The core a command may go to now, if one is free (R229, R230). -/
def State.chooseCore (s : State) (x : Cmd) : Option Nat :=
  match s.job x.job with
  | none => none
  | some j =>
      if s.img.detMode && decide (ctxClass j.ctx < 2) then
        match s.rotationCore x j with
        | some n => if s.coreFree n then some n else none
        | none => none
      else
        let free := (s.eligible x).filter s.coreFree
        ((free.find? fun n => s.weightsOn x n).orElse fun _ => free.head?)

/-- The command on a core. -/
def State.onCore (s : State) (n : Nat) : Option Cmd := (s.sched.core n).cmd.bind s.cmd

/-- The victim of a ready command that finds no free core: lowest class, then latest start, then
highest core (R222). In Reproducible mode only its own core counts (R230). One kill for its sake at a time. -/
def State.victim (s : State) (x : Cmd) : Option Nat :=
  match s.job x.job with
  | none => none
  | some j =>
      let cls := ctxClass j.ctx
      let cores := if s.img.detMode && decide (cls < 2) then (s.rotationCore x j).toList
        else s.eligible x
      if cores.any fun n => (s.sched.core n).claim == some x.id then none else
      let cand := cores.filterMap fun n => (s.onCore n).bind fun c =>
        let cc := ctxClass (s.cmdCtx c)
        if cls < cc ∧ (c.st = .dispatched ∨ c.st = .running) then some (cc, c.startOrder, n, c.id)
        else none
      (cand.foldl (fun m v => match m with
        | none => some v
        | some w => if lexLt [w.1, w.2.1, w.2.2.1] [v.1, v.2.1, v.2.2.1] then some v else some w)
        none).map fun v => v.2.2.2

/-- A granule of the image, as an offset in it, holds weights of a set, or programs, which every stage
needs (17_memory.md R443). -/
def Image.setHolds (i : Image) (set off : Nat) : Bool :=
  let hit (a n : Nat) : Bool := decide (a < off + 64) && decide (off < a + n)
  let e := i.set set
  let w := i.secStart 8
  hit (i.secStart 7) (i.sec 7).length ||
  (set != 0xFF && (List.range (RSet.weightLast e + 1 - RSet.weightFirst e)).any fun k =>
    let x := i.weight (RSet.weightFirst e + k)
    hit (w + Wt.dataOffset x) (Wt.dataLength x))

/-- A stage cannot run: what it needs of the running image is lost (17_memory.md R443). -/
def State.stageLost (s : State) (stage : Nat) : Bool :=
  match s.img.running with
  | none => false
  | some i => s.mc.lost.any fun off => i.setHolds (Stage.set (i.stage stage)) off

/-- A READY command may be dispatched at all: its context is resident, its stream is not paused, a
host command has the turn, a training job runs (R217, R225, R317, 14_fine_tuning_and_shadow.md R356). A
publish unit is not held by a pause (DEDUCED, notes/assumptions/40.md); no unit of a job is dispatched while its
checkpoint is written (R358). -/
def State.mayDispatch (s : State) (x : Cmd) : Bool :=
  x.st == .ready && !s.stageLost x.stage && (match s.job x.job with
    | none => false
    | some j => (match s.ctx j.ctx with
        | none => false
        | some c => c.slot.isSome && (match c.kind with
            | .host => s.sched.turn.active && !s.sched.turn.extended && c.owner == s.sched.turn.seat
            | .training =>
                let st := (Tab.getD s.train.jobs (j.ctx - 128) {}).st
                st == .running || (j.kind == .trainPublish && st != .checkpointing)
            | _ => !((s.stream j.stream).map (·.paused)).getD false)))

/-- The largest WORK_BYTES of a core's programs (R44, R50). -/
def Image.workBytes (i : Image) (n : Nat) : Nat :=
  ((chunks 32 (leAt (i.sec 7) 4 4) ((i.sec 7).drop 16)).filter fun e => byteAt e 0 == n).foldl
    (fun m e => max m (leAt e 0xC 4)) 0

/-- Loads an unpinned set for a command into what pinned sets and work space leave of the pool, least recently used sets going first; a set lost to a
kill or an eviction counts as loaded again (R233, R234, R236). -/
def State.loadSet (s : State) (x : Cmd) (n : Nat) : State :=
  match s.img.running with
  | none => s
  | some i =>
      let set := Stage.set (i.stage x.stage)
      if set = 0xFF ∨ RSet.pinned (i.set set) ∨
          (s.weightsOn x n && !(s.sched.core n).sets.contains set) then s else
      let c := s.sched.core n
      let again := c.lostSets.contains set && !c.sets.contains set
      let pinned := (i.pinnedOn n).foldl (fun t k => t + RSet.bytes (i.set k)) 0
      let size (l : List Nat) : Nat := l.foldl (fun t k => t + RSet.bytes (i.set k)) 0
      let others := c.sets.filter (· != set)
      let room := 41943040 - pinned - i.workBytes n - RSet.bytes (i.set set)
      let kept := (List.range (others.length + 1)).findSome? fun k =>
        if size (others.drop k) ≤ room then some k else none
      let drop := kept.getD others.length
      let s := s.updCore n fun c => { c with
        sets := others.drop drop ++ [set],
        lostSets := (c.lostSets.filter (· != set)) ++ others.take drop }
      if again then s.setFlag .coreErr [n] 2 else s

/-- Dispatches a command to a core: DISPATCHED. -/
def State.dispatchTo (s : State) (x : Cmd) (n : Nat) : State :=
  let loads := !s.weightsOn x n
  let s := s.loadSet x n
  let k := s.sched.order
  let s := { s with sched := { s.sched with order := k + 1 } }
  let s := s.updCmd x.id fun c => { c with st := .dispatched, core := some n, startOrder := k }
  let s := s.updCore n fun c => { c with
    st := .dispatched, cmd := some x.id, stalled := 0, loading := loads, claim := none }
  s.ctxCheck (s.cmdCtx x)

/-- One dispatch decision: the first command in order that finds its core free is dispatched; one
that does not, and has a victim, kills it. -/
def State.dispatch (s : State) : State :=
  let s := s.turnCheck
  let rec go : Nat → List Cmd → State
    | 0, _ => s
    | fuel + 1, cs =>
        match s.firstOf cs with
        | none => s
        | some x =>
            match s.chooseCore x with
            | some n => s.dispatchTo x n
            | none =>
                match s.victim x with
                | some v =>
                    let n := (s.cmd v).bind (·.core)
                    n.toList.foldl (fun s n => s.updCore n fun c => { c with claim := some x.id }) (s.kill v true)
                | none => go fuel (cs.filter fun c => c.id != x.id)
  go s.sched.cmds.length (s.sched.cmds.filter s.mayDispatch)

/-- A core acknowledges a kill and is free again (R221). -/
def State.killAck (s : State) (n : Nat) : State :=
  if (s.sched.core n).st = .killing then s.updCore n fun c => { c with st := .idle, cmd := none, claim := none }
  else s

/-- The lookups of a command start: their selections are fixed as the stores stand (R214). -/
def State.fixLooks (s : State) (x : Cmd) : State :=
  if s.looksUp x then
    s.updJob x.job fun j => { j with looks := s.ledg.hist.map fun (n, h) => (n, h.nextIndex) }
  else s

/-- The context switch and weight load of a core's command are complete (R218). -/
def State.dispatched (s : State) (n : Nat) : State :=
  match s.onCore n with
  | some x => if x.st = .dispatched then
        ((s.fixLooks x).updCmd x.id fun c => { c with st := .running }).updCore n fun c => { c with st := .running, loading := false }
      else s
  | none => s

/-- A core's program ends and its commit phase begins; one of more than 20 microseconds is
reported (R220). -/
def State.commitPhase (s : State) (n : Nat) (long : Bool) : State :=
  match s.onCore n with
  | some x =>
      if x.st = .running ∨ x.st = .committing then
        let s := (s.updCmd x.id fun c => { c with st := .committing }).updCore n
          fun c => { c with st := .committing }
        if long then s.setFlag .coreErr [n] 1 else s
      else s
  | none => s

/-! ### Residency (R231) -/

/-- A context waits for a slot: it takes a free one, or that of the unpinned context blocked
longest, lower number first. -/
def State.swapIn (s : State) (c : Nat) : State :=
  match s.ctx c with
  | none => s
  | some x =>
      if x.slot.isSome ∨ !s.runnable c then s else
      match s.freeSlot with
      | some k => s.updCtx c fun x => { x with slot := some k, waiting := false }
      | none =>
          let cand := s.sched.ctxs.filter fun y =>
            y.2.slot.isSome && !y.2.pinned && !s.runnable y.1 && !s.ctxRunning y.1
          let best := cand.foldl (fun m y => match m with
            | none => some y
            | some w => if y.2.blockedSince.getD s.now < w.2.blockedSince.getD s.now then some y
                else some w) none
          match best with
          | none => s.updCtx c fun x => { x with waiting := true }
          | some v =>
              let s := s.updCtx v.1 fun y => { y with slot := none }
              let s := s.updCtx c fun x => { x with slot := v.2.slot, waiting := false }
              s.setFlag .schedFlags [] 1

/-- Each 1 ms that a runnable context waits while all 128 resident contexts are pinned. -/
def State.starvation (s : State) : State :=
  let res := s.sched.ctxs.filter fun c => c.2.slot.isSome
  if res.length = 128 ∧ res.all fun c => c.2.pinned then
    (s.sched.ctxs.filter fun c => c.2.waiting && s.runnable c.1).foldl (fun s c =>
      let s := s.updCtx c.1 fun x => { x with starve := x.starve + 1 }
      s.flagLog .schedFlags [] 0 { warning 11 with arg0 := n64 c.1 }) s
  else s

/-! ### Contexts made and destroyed (R216, R232) -/

/-- Destroys a context: its queued and running commands complete with CANCELLED. -/
def State.destroyCtx (s : State) (c : Nat) : State :=
  let js := (s.sched.jobs.filter fun j => j.ctx == c).map (·.id)
  let s := js.foldl (fun s j => s.cancelJob j 0x73) s
  { s with sched := { s.sched with ctxs := Tab.del s.sched.ctxs c } }

/-- A context's state is read into a slot. An uncorrectable granule in it destroys a host context; that of
another context is rebuilt from the image (R443). -/
def State.readContext (s : State) (c : Nat) : State :=
  match s.ctx c, s.badIn (contextAddr c) 256 with
  | some x, some _ =>
      if x.slot.isSome ∨ !s.runnable c then s else
      let s := (s.mc.bad.filter fun g => decide (contextAddr c < g + 64) && decide (g < contextAddr c + 256)).foldl
        (fun s g => s.reportUe g 0x40) s
      if x.kind = .host then (s.destroyCtx c).turnCheck else s.swapIn c
  | _, _ => s.swapIn c

/-! ### The end of a turn (R226, R227) -/

/-- The rows of turn-end kills end of those of the turn's seat's commands that a turn end does not kill (R227). -/
def State.endRows (s : State) (kill : List Cmd) : State :=
  let mine := s.sched.cmds.filter fun c => (s.hostCtxs s.sched.turn.seat).contains (s.cmdCtx c)
  { s with sched := { s.sched with cmds := s.sched.cmds.map fun (c : Cmd) =>
    if (mine.any fun m => m.id == c.id) && !(kill.any fun k => k.id == c.id) then { c with turnKills := 0 } else c } }

/-- The nominal end of a host turn: commands not committing are killed, and one killed so in eight
consecutive turns completes with SLICE_EXHAUSTED, a turn without such a kill ending the row (R227); committing ones
extend the turn. -/
def State.turnEnd (s : State) : State :=
  let t := s.sched.turn
  if !t.active then s.passTurn else
  let mine := s.sched.cmds.filter fun c => (s.hostCtxs t.seat).contains (s.cmdCtx c)
  let kill := mine.filter fun c => c.st == .dispatched || c.st == .running
  let s := kill.foldl (fun s c =>
    let s := s.kill c.id false
    let s := s.updCmd c.id fun c => { c with turnKills := c.turnKills + 1 }
    if 8 ≤ c.turnKills + 1 then
      (s.cancelJob c.job 0x70).setFlag .schedFlags [] 2
    else s) (s.endRows kill)
  if mine.any fun c => c.st == .committing then
    ({ s with sched := { s.sched with turn := { t with extended := true } } } : State)
      |>.setFlag .schedFlags [] 4
  else s.passTurn

/-- SLICE_KILLS of a seat: the turn-end kills in a row of its oldest killed command (R243). -/
def State.sliceKills (s : State) (seat : Nat) : Nat :=
  ((s.sched.cmds.find? fun c => (s.hostCtxs seat).contains (s.cmdCtx c) && decide (0 < c.turnKills)).map
    (·.turnKills)).getD 0

/-- A command of the seat is off its core in an extended turn, by a commit or with the core: when none is committing any
more, the overrun to the last commit point becomes the seat's debt and the turn ends (R226). -/
def State.turnCommit (s : State) (committed : Bool) : State :=
  let t := { s.sched.turn with lastCommit := if committed then s.now else s.sched.turn.lastCommit }
  if !t.extended then s.turnCheck else
  let s := { s with sched := { s.sched with turn := t } }
  if s.sched.cmds.any fun c => c.st == .committing && (s.hostCtxs t.seat).contains (s.cmdCtx c) then s
  else
    let excess := (t.lastCommit - t.nominalEnd) / 1000
    (s.setFld .schedSeatDebt [t.seat] 0 16 (sat (s.fld .schedSeatDebt [t.seat] 0 16 + excess) 0xFFFF))
      |>.passTurn

/-! ### Losing a core (R492, R516, R517) -/

/-- A core is lost: its uncommitted command returns to READY with its references and key, which is a kill unless it
was committing (R220, R221, R236). -/
def State.fence (s : State) (n : Nat) : State :=
  match s.onCore n with
  | none => s.updCore n fun c => { c with cmd := none, loading := false, claim := none }
  | some x =>
      let s := if x.st = .dispatched ∨ x.st = .running then s.countKill n false else s
      let s := s.forgetLooks x
      let s := s.updCmd x.id fun c => { c with st := .ready, core := none }
      let s := (s.updCore n fun c => { c with cmd := none, loading := false, claim := none }).ctxCheck (s.cmdCtx x)
      if s.sched.turn.extended then s.turnCommit false else s

end Sys2Proof.Machine
end

