-- ==== Sys2Proof/Machine/Operators.lean ====
section
/-! DEFINITION. The operators of GRAPH, evaluated element by element from a job's input
(07_window_operators.md R169 to R188, 08_history_and_sequence_ops.md R196 to R209): positions,
borders, owned outputs, cross-stripe reductions and layer digests
(12_reproducibility.md R311 to R313). -/

namespace Sys2Proof.Machine

/-! ### Parameters -/

namespace Op
/-- Bytes of PARAMS at an offset within PARAMS. -/
def par (e : Bytes) (off n : Nat) : Nat := leAt e (0x18 + off) n
/-- The arithmetic descriptor (R151). -/
def desc (e : Bytes) : Desc := Desc.ofParams (e.drop 0x18)
/-- Opcodes that slide a window over their input (R170). -/
def windowed (e : Bytes) : Bool := 0x0101 ≤ opcode e && opcode e ≤ 0x0104
def kh (e : Bytes) : Nat := par e 0x10 1
def kw (e : Bytes) : Nat := par e 0x11 1
def strideH (e : Bytes) : Nat := max 1 (par e 0x12 1)
def strideW (e : Bytes) : Nat := max 1 (par e 0x13 1)
def dilH (e : Bytes) : Nat := par e 0x14 1
def dilW (e : Bytes) : Nat := par e 0x15 1
def padMode (e : Bytes) : Nat := par e 0x16 1
def countPad (e : Bytes) : Bool := bit (par e 0x17 1) 0
def padTop (e : Bytes) : Nat := par e 0x18 1
def padBottom (e : Bytes) : Nat := par e 0x19 1
def padLeft (e : Bytes) : Nat := par e 0x1A 1
def padRight (e : Bytes) : Nat := par e 0x1B 1
def padValue (e : Bytes) : Nat := par e 0x1C 2
def groups (e : Bytes) : Nat := max 1 (par e 0x1E 2)
def inChannels (e : Bytes) : Nat := par e 0x20 2
def outChannels (e : Bytes) : Nat := par e 0x22 2
def poolMode (e : Bytes) : Nat := par e 0x10 1
def resizeMode (e : Bytes) : Nat := par e 0x10 1
def upH (e : Bytes) : Nat := max 1 (par e 0x12 1)
def upW (e : Bytes) : Nat := max 1 (par e 0x13 1)
def downH (e : Bytes) : Nat := max 1 (par e 0x14 1)
def downW (e : Bytes) : Nat := max 1 (par e 0x15 1)
def func (e : Bytes) : Nat := par e 0x10 1
def broadcast (e : Bytes) : Bool := par e 0x11 1 == 1
def in1Zero (e : Bytes) : Int := sleAt e (0x18 + 0x12) 2
def scale0 (e : Bytes) : Val := decodeEl 0x14 (par e 0x14 4)
def scale1 (e : Bytes) : Val := decodeEl 0x14 (par e 0x18 4)
def mmK (e : Bytes) : Nat := par e 0x10 4
def mmN (e : Bytes) : Nat := par e 0x14 2
def mmFromIn1 (e : Bytes) : Bool := par e 0x16 1 == 1
def hwStream (e : Bytes) : Nat := par e 0x10 1
def hwCapLog2 (e : Bytes) : Nat := par e 0x11 1
def hwKeyDim (e : Bytes) : Nat := par e 0x12 2
def hwValueDim (e : Bytes) : Nat := par e 0x14 2
def hwMaxAge (e : Bytes) : Nat := par e 0x18 4
def hwKey (e : Bytes) : Nat := par e 0x1C 8
def haStream (e : Bytes) : Nat := par e 0x10 1
def haWindow (e : Bytes) : Nat := par e 0x11 1
def haPFormat (e : Bytes) : Nat := par e 0x12 1
def haFlags (e : Bytes) : Nat := par e 0x13 1
def haMax (e : Bytes) : Nat := par e 0x14 4
def haLagMin (e : Bytes) : Int := sleAt e (0x18 + 0x18) 4
def haLagMax (e : Bytes) : Int := sleAt e (0x18 + 0x1C) 4
def haColWindow (e : Bytes) : Nat := par e 0x20 2
def haScale (e : Bytes) : Val := decodeEl 0x14 (par e 0x24 4)
end Op

/-! ### What a job evaluates on -/

/-- A tensor that is not cut into stripes and has been computed: rows, columns and, position by
position, the channel codes. -/
structure Fixed where
  rows : Nat
  cols : Nat
  chans : Nat
  data : List (List Nat)
  deriving DecidableEq, Repr

/-- What operators are evaluated on: the image, the operators of the model, the bytes of every
weight, the stream input with its extents, and the tensors already computed. -/
structure Env where
  img : Image
  ops : List Nat
  weight : Nat → Bytes
  fmt : Nat
  row0 : Int
  col0 : Int
  rows : List (List (List Nat))
  extH : Option Nat
  extW : Nat
  channels : Nat
  fixed : Tab Fixed

/-- The operator that produces a tensor (R569). -/
def Env.producer (v : Env) (t : Nat) : Option Bytes :=
  ((v.ops.map v.img.op).find? fun e => Op.out e == t)

/-- Output size along a direction (R172); nothing comes of a tensor of size zero (R179). -/
def windowSize (e k s d pb pa : Nat) : Nat :=
  if 0 < e ∧ d * (k - 1) + 1 ≤ e + pb + pa then (e + pb + pa - d * (k - 1) - 1) / s + 1 else 0

/-- Rows (unknown while the segment is open), columns and channels of a tensor. -/
def Env.shape (v : Env) : Nat → Nat → Option Nat × Nat × Nat
  | 0, _ => (v.extH, v.extW, v.channels)
  | fuel + 1, t =>
      if t = 0 then (v.extH, v.extW, v.channels) else
      match Tab.get v.fixed t with
      | some x => (some x.rows, x.cols, x.chans)
      | none =>
      match v.producer t with
      | none => (some 0, 0, 0)
      | some e =>
          let (h, w, c) := Env.shape v fuel ((Op.input e 0).getD 0)
          match Op.opcode e with
          | 0x0101 | 0x0102 | 0x0103 | 0x0104 =>
              (h.map fun h => windowSize h (Op.kh e) (Op.strideH e) (Op.dilH e) (Op.padTop e)
                (Op.padBottom e),
               windowSize w (Op.kw e) (Op.strideW e) (Op.dilW e) (Op.padLeft e) (Op.padRight e),
               Op.outChannels e)
          | 0x0106 =>
              let f (x up down : Nat) : Nat :=
                if 1 < down then (if x = 0 then 0 else (x - 1) / down + 1) else x * up
              (h.map fun h => f h (Op.upH e) (Op.downH e), f w (Op.upW e) (Op.downW e), c)
          | 0x0201 => (h, w, Op.mmN e)
          | 0x0105 => (some 1, 1, c)
          | 0x0202 => (some 1, 0, Op.hwKeyDim e)
          | 0x0203 =>
              (h, w, (((v.img.ops 0).map v.img.op).find? fun x =>
                Op.opcode x == 0x0202 && Op.hwStream x == Op.haStream e).elim c Op.hwValueDim)
          | _ => (h, w, c)

/-- The columns of a tensor are known only at run time: they are the entries of a scope (R201). -/
def Env.openFrom (v : Env) : Nat → Nat → Bool
  | 0, _ => false
  | fuel + 1, t =>
      if t = 0 then false else
      match v.producer t with
      | none => false
      | some e =>
          match Op.opcode e with
          | 0x0202 => true
          | 0x0105 => false
          | _ => Env.openFrom v fuel ((Op.input e 0).getD 0)

def Env.openWidth (v : Env) (t : Nat) : Bool := v.openFrom (v.ops.length + 1) t

/-- Where a read position falls (R176 to R178). -/
inductive Border where
  | at' (p : Nat)
  | omit
  | const

/-- The border rule along one direction; the flag says that reflect fell back to replicate. -/
def border (mode : Nat) (ext : Option Nat) (pb pa : Nat) (p : Int) : Border × Bool :=
  let beyond : Bool := match ext with
    | some e => decide ((e : Int) ≤ p)
    | none => false
  if 0 ≤ p ∧ !beyond then (.at' p.toNat, false) else
  let clampP : Nat := if p < 0 then 0 else (ext.getD 1) - 1
  match mode with
  | 1 => (.const, false)
  | 2 => (.at' clampP, false)
  | 3 =>
      let short : Bool := match ext with
        | some e => decide (e - 1 < pb ∨ e - 1 < pa)
        | none => false
      if short then (.at' clampP, true)
      else if p < 0 then (.at' (-p).toNat, false)
      else (.at' (2 * ((ext.getD 1 : Int) - 1) - p).toNat, false)
  | _ => (.omit, false)

/-- An activation in a product: its value less its zero point for an integer format. -/
def activation (f : Nat) (zero : Int) (code : Nat) : Val :=
  let v := decodeEl f code
  if fmtFloat f then v else Val.ofRat (v.rat - zero)

/-- The bytes of an operator's QTAB. -/
def Env.qtab (v : Env) (d : Desc) : Option Bytes := d.qtab.map v.weight

/-- A weight element of an operator. -/
def Env.weightOf (v : Env) (e : Bytes) (k : Nat) : Val :=
  match Op.weight e with
  | none => .fin false 0
  | some w =>
      let h := v.img.weight w
      weightEl (Wt.format h) (Wt.elements h) (v.weight w) k

/-- The index of weight `k` of output channel `o` when a sequence holds `n` weights (R149). -/
def Env.weightIndex (v : Env) (e : Bytes) (o n k : Nat) : Nat :=
  match Op.weight e with
  | some w => if Wt.format (v.img.weight w) = 0x02 then o * roundUp n 32 + k else o * n + k
  | none => o * n + k

/-- Requantises an accumulator of a channel (R158). -/
def Env.requant (v : Env) (d : Desc) (c : Nat) (acc : Val) : Nat × Nat :=
  d.convert (acc.mul (qtabScale (v.qtab d) c))

/-- Bilinear terms along one direction: input index and weight (R186). -/
def resizeTerms (f : Nat) (ext : Option Nat) (y : Nat) : List (Nat × Rat) :=
  let i : Int := ((y / f : Nat) : Int)
  let t : Int := 2 * ((y % f : Nat) : Int) + 1 - f
  let lim (p : Int) : Nat := if p < 0 then 0 else match ext with
    | some e => min p.toNat (e - 1)
    | none => p.toNat
  let ff : Int := (f : Int)
  let w (n : Int) : Rat := (n : Rat) / ((2 * ff : Int) : Rat)
  if 0 ≤ t then [(lim i, w (2 * ff - t)), (lim (i + 1), w t)]
  else [(lim (i - 1), w (-t)), (lim i, w (2 * ff + t))]

/-- One element of a tensor: its code and the status its evaluation sets. -/
def Env.at (v : Env) : Nat → Nat → Nat → Nat → Nat → Nat × Nat
  | 0, _, _, _, _ => (0, 0)
  | fuel + 1, t, y, x, c =>
      if t = 0 then
        ((((v.rows.getD ((y : Int) - v.row0).toNat []).getD ((x : Int) - v.col0).toNat []).getD c 0), 0)
      else
      match Tab.get v.fixed t with
      | some z => ((z.data.getD (y * z.cols + x) []).getD c 0, 0)
      | none =>
      match v.producer t with
      | none => (0, 0)
      | some e =>
          let d := Op.desc e
          let src := (Op.input e 0).getD 0
          let read (y x c : Nat) : Nat × Nat := Env.at v fuel src y x c
          let (eh, ew, ec) := v.shape v.ops.length src
          let isInt := fmtInt d.in0
          let bias := qtabBias (v.qtab d) isInt c
          match Op.opcode e with
          | 0x0101 | 0x0102 | 0x0103 | 0x0104 =>
              let conv := Op.opcode e ≤ 0x0102
              let gin := Op.inChannels e / Op.groups e
              let gout := max 1 (Op.outChannels e / Op.groups e)
              let first := if conv then c / gout * gin else c
              let many := if conv then gin else 1
              let n := Op.kh e * Op.kw e * gin
              let taps := (List.range (Op.kh e)).flatMap fun u => (List.range (Op.kw e)).map fun w => (u, w)
              let padV : Val := if isInt then Val.ofInt (toSigned 16 (Op.padValue e) - d.inZero)
                else decodeEl 0x13 (Op.padValue e)
              let cells := taps.flatMap fun (u, w) =>
                let (by', fy) := border (Op.padMode e) eh (Op.padTop e) (Op.padBottom e)
                  ((y * Op.strideH e + Op.dilH e * u : Nat) - (Op.padTop e : Int))
                let (bx, fx) := border (Op.padMode e) (some ew) (Op.padLeft e) (Op.padRight e)
                  ((x * Op.strideW e + Op.dilW e * w : Nat) - (Op.padLeft e : Int))
                let fb := if fy || fx then Arith.padFallback else 0
                (List.range many).filterMap fun i =>
                  let k := (u * Op.kw e + w) * gin + i
                  match by', bx with
                  | .omit, _ => none
                  | _, .omit => none
                  | .at' p, .at' q =>
                      let (code, st) := read p q (first + i)
                      some (k, activation d.in0 d.inZero code, st ||| fb)
                  | _, _ => some (k, padV, fb)
              let st0 := cells.foldl (fun a r => a ||| r.2.2) 0
              let vals := cells.map fun r => r.2.1
              match Op.opcode e with
              | 0x0103 =>
                  let m := vals.foldl Val.max .nan
                  let acc := if vals.isEmpty then bias
                    else if isInt then Val.ofRat (bias.rat + m.rat) else round32 (bias.add m)
                  let (r, st) := v.requant d c acc
                  (r, st ||| st0 ||| nanInOf (vals.map fun a => (a, .fin false 0)))
              | 0x0104 =>
                  let pairs := vals.map fun a => (a, Val.fin false 1)
                  let acc := accumulate isInt (.fin false 0) pairs
                  let n := if Op.countPad e then Op.kh e * Op.kw e else max 1 vals.length
                  let (r, st) := v.requant d c (acc.mul (.fin false (1 / (n : Rat))))
                  (r, st ||| st0 ||| nanInOf pairs)
              | _ =>
                  let pairs := cells.map fun r => (r.2.1, v.weightOf e (v.weightIndex e c n r.1))
                  let (r, st) := v.requant d c (accumulate isInt bias pairs)
                  (r, st ||| st0 ||| nanInOf pairs)
          | 0x0106 =>
              if Op.resizeMode e = 0 then
                let (code, st) := read (if 1 < Op.downH e then y * Op.downH e else y / Op.upH e)
                  (if 1 < Op.downW e then x * Op.downW e else x / Op.upW e) c
                let a := decodeEl d.in0 code
                let (r, st') := d.limit a
                (r, st ||| st' ||| if a.isNan then Arith.nanIn else 0)
              else
                let ts := (resizeTerms (Op.upH e) eh y).flatMap fun (p, a) =>
                  (resizeTerms (Op.upW e) (some ew) x).map fun (q, b) => (p, q, a * b)
                let vs := ts.map fun (p, q, w) =>
                  let (code, st) := read p q c
                  (decodeEl d.in0 code, w, st)
                let sum := (vs.map fun r => r.1.mul (Val.ofRat r.2.1)).foldl
                  (fun a b => match a with
                    | none => some b
                    | some a => some (Val.add a b)) none
                let total := sum.getD (.fin false 0)
                let st0 := vs.foldl (fun a r => a ||| r.2.2) 0
                let nin := if vs.any fun r => r.1.isNan then Arith.nanIn else 0
                if fmtFloat d.out then
                  let (r, st) := roundFloat d.out d.infOut total
                  (r, st ||| st0 ||| nin)
                else
                  let (r, st) := satInt d.out (rneInt total.rat)
                  (r, st ||| st0)
          | 0x0107 =>
              let (ca, sa) := read y x c
              let a := activation d.in0 d.inZero ca
              let nin (b : Val) : Nat := if a.isNan || b.isNan then Arith.nanIn else 0
              let f := Op.func e
              if f ≤ 0x05 then
                let (b, sb) : Val × Nat :=
                  if Op.broadcast e then
                    let h := match Op.weight e with
                      | some w => Wt.format (v.img.weight w)
                      | none => 0x03
                    let w := v.weightOf e c
                    (if fmtFloat h then w else Val.ofRat (w.rat - Op.in1Zero e), 0)
                  else
                    let (cb, sb) := Env.at v fuel ((Op.input e 1).getD 0) y x c
                    (activation d.in1 (Op.in1Zero e) cb, sb)
                let p := if isInt && f != 0x03 then a.mul (Op.scale0 e) else a
                let q := if isInt && f != 0x03 then b.mul (Op.scale1 e) else b
                let r := match f with
                  | 0x01 => p.add q
                  | 0x02 => p.add q.neg
                  | 0x03 => if isInt then (p.mul q).mul (Op.scale0 e) else p.mul q
                  | 0x04 => p.max q
                  | _ => p.min q
                let (code, st) := d.convert r
                (code, st ||| sa ||| sb ||| nin b)
              else if f = 0x10 then
                let (code, st) := d.convert (a.mul (Op.scale0 e))
                (code, st ||| sa ||| nin a)
              else if f = 0x1D then
                let w := v.weightOf e ca
                let (code, st) := d.limit w
                (code, st ||| sa ||| if w.isNan then Arith.nanIn else 0)
              else
                let (r, st) := vectorFn f a
                let (code, st') := d.convert r
                (code, st ||| st' ||| sa)
          | 0x0201 =>
              let n := Op.mmK e
              let rows := (List.range n).map fun k =>
                let (ca, sa) := read y x k
                let (w, sb) : Val × Nat :=
                  if Op.mmFromIn1 e then
                    let t1 := (Op.input e 1).getD 0
                    let (_, w1, _) := v.shape v.ops.length t1
                    let (cb, sb) := Env.at v fuel t1 (c / max 1 w1) (c % max 1 w1) k
                    (decodeEl d.in1 cb, sb)
                  else (v.weightOf e (v.weightIndex e c n k), 0)
                (activation d.in0 d.inZero ca, w, sa ||| sb)
              let pairs := rows.map fun r => (r.1, r.2.1)
              let (r, st) := v.requant d c (accumulate isInt bias pairs)
              (r, st ||| rows.foldl (fun a r => a ||| r.2.2) 0 ||| nanInOf pairs)
          | _ => (if ec ≤ c then 0 else (read y x c).1, 0)

/-- One element of a tensor of the environment. -/
def Env.elem (v : Env) (t y x c : Nat) : Nat × Nat := v.at (v.ops.length + 1) t y x c

/-- The shape of a tensor. -/
def Env.dims (v : Env) (t : Nat) : Option Nat × Nat × Nat := v.shape (v.ops.length + 1) t

/-- The channel codes of a position with their status. -/
def Env.pos (v : Env) (t y x : Nat) : List Nat × Nat :=
  let (_, _, c) := v.dims t
  let r := (List.range c).map (v.elem t y x)
  (r.map Prod.fst, r.foldl (fun a e => a ||| e.2) 0)

/-! ### Anchors and owned outputs (R173) -/

/-- The least output index whose anchor in the stream input is at or beyond `n`. -/
def Env.firstFrom (v : Env) (vertical : Bool) : Nat → Nat → Nat → Nat
  | 0, _, n => n
  | fuel + 1, t, n =>
      if t = 0 then n else
      match v.producer t with
      | none => n
      | some e =>
          let m := Env.firstFrom v vertical fuel ((Op.input e 0).getD 0) n
          match Op.opcode e with
          | 0x0101 | 0x0102 | 0x0103 | 0x0104 => ceilDiv m (if vertical then Op.strideH e else Op.strideW e)
          | 0x0106 =>
              let up := if vertical then Op.upH e else Op.upW e
              let down := if vertical then Op.downH e else Op.downW e
              if 1 < down then ceilDiv m down else m * up
          | _ => m

/-- The anchor of an output index in the stream input. -/
def Env.anchor (v : Env) (vertical : Bool) : Nat → Nat → Nat → Nat
  | 0, _, i => i
  | fuel + 1, t, i =>
      if t = 0 then i else
      match v.producer t with
      | none => i
      | some e =>
          let src := (Op.input e 0).getD 0
          match Op.opcode e with
          | 0x0101 | 0x0102 | 0x0103 | 0x0104 =>
              Env.anchor v vertical fuel src (i * (if vertical then Op.strideH e else Op.strideW e))
          | 0x0106 =>
              let up := if vertical then Op.upH e else Op.upW e
              let down := if vertical then Op.downH e else Op.downW e
              Env.anchor v vertical fuel src (if 1 < down then i * down else i / up)
          | _ => Env.anchor v vertical fuel src i

/-- What a stripe job owns, in rows of the segment and columns of the stream: half-open; the last
lane and the last stripe own whatever is anchored beyond. -/
structure Own where
  row0 : Nat
  row1 : Nat
  lastRow : Bool
  col0 : Nat
  col1 : Nat
  lastCol : Bool
  deriving DecidableEq, Repr

/-- The owned positions of a tensor, row by row. -/
def Env.owned (v : Env) (o : Own) (t : Nat) : List (Nat × Nat) :=
  let (h, w, _) := v.dims t
  let n := v.ops.length + 1
  let y0 := v.firstFrom true n t o.row0
  let y1 := match h with
    | some h => if o.lastRow then h else min h (v.firstFrom true n t o.row1)
    | none => v.firstFrom true n t o.row1
  let x0 := v.firstFrom false n t o.col0
  let x1 := if o.lastCol then w else min w (v.firstFrom false n t o.col1)
  (List.range (y1 - y0)).flatMap fun i => (List.range (x1 - x0)).map fun j => (y0 + i, x0 + j)

/-! ### Layer digests (R312) -/

/-- The bytes of one position of a tensor. -/
def posBytes (f : Nat) (codes : List Nat) : Bytes :=
  if fmtBits f = 4 then
    (List.range ((codes.length + 1) / 2)).map fun i =>
      BitVec.ofNat 8 (codes.getD (2 * i) 0 % 16 + codes.getD (2 * i + 1) 0 % 16 * 16)
  else codes.flatMap fun c => natLe (fmtBits f / 8) c

/-- The digest of some positions of an operator's output. -/
def Env.digest (v : Env) (e : Bytes) (ps : List (Nat × Nat)) : BitVec 64 × Nat :=
  let r := ps.map fun (y, x) => v.pos (Op.out e) y x
  (n64 (r.foldl (fun c p => crc64 c (posBytes (Op.desc e).out p.1)) 0),
    r.foldl (fun a p => a ||| p.2) 0)

/-! ### Partials of a cross-stripe reduction (R184) -/

/-- The per-channel partial of a GLOBAL_POOL over some positions: integer sums or maxima, FP32
codes, the number of positions, and status. -/
def Env.partialOf (v : Env) (e : Bytes) (ps : List (Nat × Nat)) : (List Int × List Word × Nat) × Nat :=
  let d := Op.desc e
  let src := (Op.input e 0).getD 0
  let (_, _, c) := v.dims src
  let cells := ps.map fun (y, x) => v.pos src y x
  let st := cells.foldl (fun a p => a ||| p.2) 0
  let col (k : Nat) : List Val := cells.map fun p => activation d.in0 d.inZero (p.1.getD k 0)
  if fmtInt d.in0 then
    let f (k : Nat) : Int :=
      let vs := (col k).map fun a => a.rat.floor
      if Op.poolMode e = 2 then vs.foldl max (vs.headD 0) else vs.foldl (· + ·) 0
    (((List.range c).map f, [], ps.length), st)
  else
    let f (k : Nat) : Word × Nat :=
      let vs := (col k).map fun a => (a, if a.isNan then Arith.nanIn else 0)
      let r := if Op.poolMode e = 2 then treeReduce maxSt (.inf true, 0) vs
        else treeReduce (addSt d.infOut) (.fin false 0, 0) vs
      (n32 (roundFloat 0x14 true r.1).1, r.2)
    let rs := (List.range c).map f
    (([], rs.map Prod.fst, ps.length), rs.foldl (fun a r => a ||| r.2) st)

/-- The output of a GLOBAL_POOL from partials in combination order (R184, R311). -/
def Env.combine (v : Env) (e : Bytes) (parts : List (List Int × List Word × Nat)) :
    List Nat × Nat :=
  let d := Op.desc e
  let (_, _, c) := v.dims ((Op.input e 0).getD 0)
  let used := parts.filter fun p => 0 < p.2.2
  let n : Nat := used.foldl (fun a p => a + p.2.2) 0
  let avg (x : Val) : Val :=
    if Op.poolMode e = 1 then
      if fmtInt d.in0 then x.mul (.fin false (1 / (n : Rat)))
      else decodeEl 0x14 (roundFloat 0x14 d.infOut (x.mul (.fin false (1 / (n : Rat))))).1
    else x
  let one (k : Nat) : Nat × Nat :=
    if n = 0 then (if fmtFloat d.out then 0 else (satInt d.out d.outZero).1, Arith.zeroSize) else
    if fmtInt d.in0 then
      let xs := used.map fun p => p.1.getD k 0
      let x := if Op.poolMode e = 2 then xs.foldl max (xs.headD 0) else xs.foldl (· + ·) 0
      v.requant d k (avg (Val.ofInt x))
    else
      let xs := used.map fun p => decodeEl 0x14 (p.2.1.getD k 0).toNat
      let r := if Op.poolMode e = 2 then (xs.foldl Val.max .nan, 0)
        else xs.foldl (fun a x => addSt d.infOut a (x, 0)) (.fin false 0, 0)
      let (code, st) := v.requant d k (avg r.1)
      (code, st ||| r.2)
  let rs := (List.range c).map one
  (rs.map Prod.fst, rs.foldl (fun a r => a ||| r.2) 0)

/-! ### History entries and lookups (R201 to R209) -/

/-- The slots of a store. -/
def HistStore.slots (h : HistStore) : Nat := 2 ^ Op.hwCapLog2 h.record

/-- The store of a stream. -/
def State.histStore (s : State) (n : Nat) : Option HistStore := Tab.get s.ledg.hist n

/-- The address of the slot of an entry index: the slots follow the 4 KiB header (R205). -/
def HistStore.slotAddr (h : HistStore) (i : Nat) : Nat := h.base + 0x1000 + i % h.slots * h.entryBytes

/-- Bytes of a key, padded to 64 (R204). -/
def HistStore.keyBytes (h : HistStore) : Nat :=
  roundUp (fmtBytes h.keyFormat (Op.hwKeyDim h.record)) 64

namespace HEntry
def index (e : Bytes) : Nat := leAt e 0 8
def position (e : Bytes) : Pos := BitVec.ofNat 56 (leAt e 0x10 7)
def column (e : Bytes) : Nat := leAt e 0x18 4
def scopeSeq (e : Bytes) : Nat := leAt e 0x1C 4
def imageGen (e : Bytes) : Nat := leAt e 0x20 4
def overlayGen (e : Bytes) : Nat := byteAt e 0x24
def damaged (e : Bytes) : Bool := bit (byteAt e 0x25) 0
end HEntry

/-- The entries present in the ring, ascending: index, bytes, and whether the read is
uncorrectable. -/
def State.histEntries (s : State) (h : HistStore) : List (Nat × Bytes × Bool) :=
  let n := min h.nextIndex h.slots
  (List.range n).map fun i =>
    let k := h.nextIndex - n + i
    let a := h.slotAddr k
    (k, s.load a h.entryBytes, (s.badIn a h.entryBytes).isSome)

/-- The query side of a lookup: its scope number, its POSITION and its column. -/
structure Query where
  scope : Nat
  pos : Pos
  col : Nat
  deriving DecidableEq, Repr

/-- A stored scope number, of which 32 bits are kept, lies before a query's scope: by less than 2^31 (R200, R208). -/
def scopeBefore (stored scope : Nat) : Bool :=
  let d := (scope + 2 ^ 32 - stored) % 2 ^ 32
  decide (0 < d) && decide (d < 2 ^ 31)

/-- The selection of a query with the uncorrectable entries it would have held (R208). -/
def selection (e : Bytes) (h : HistStore) (es : List (Nat × Bytes × Bool))
    (gen : Word) (ovl : Nat) (q : Query) : List (Nat × Bytes) × Nat :=
  let newest := (es.getLast?.map fun x => HEntry.position x.2.1).getD 0
  let ok (x : Nat × Bytes × Bool) : Bool :=
    let b := x.2.1
    let lag := posSub q.pos (HEntry.position b)
    scopeBefore (HEntry.scopeSeq b) q.scope && !HEntry.damaged b &&
    (Op.hwMaxAge h.record == 0xFFFFFFFF ||
      decide (posSub newest (HEntry.position b) ≤ 256 * (Op.hwMaxAge h.record : Int))) &&
    (!bit (Op.haFlags e) 0 || HEntry.imageGen b == gen.toNat) &&
    (!bit (Op.haFlags e) 1 || HEntry.overlayGen b == ovl) &&
    (Op.haColWindow e == 0xFFFF ||
      decide (((HEntry.column b : Int) - q.col).natAbs ≤ Op.haColWindow e)) &&
    (Op.haWindow e == 0 || (decide (256 * Op.haLagMin e ≤ lag) && decide (lag ≤ 256 * Op.haLagMax e)))
  let qual := es.filter ok
  let kept := qual.drop (qual.length - Op.haMax e)
  ((kept.filter fun x => !x.2.2).map fun x => (x.1, x.2.1), (kept.filter fun x => x.2.2).length)

/-- Element `k` of `n` elements of a format stored at an offset. -/
def storedEl (f : Nat) (b : Bytes) (off k : Nat) : Nat :=
  if fmtBits f = 4 then slice (byteAt b (off + k / 2)) (4 * (k % 2)) 4
  else leAt b (off + k * (fmtBits f / 8)) (fmtBits f / 8)

/-- One query of HIST_ATTEND (R209). -/
def Env.attend (v : Env) (e : Bytes) (h : HistStore) (q : List Nat) (sel : List (Nat × Bytes)) :
    List Nat × Nat :=
  let d := Op.desc e
  let vd := Op.hwValueDim h.record
  let isInt := fmtInt d.in0
  let qs := q.map (activation d.in0 d.inZero)
  let score (b : Bytes) : Val × Nat :=
    let pairs := qs.zipIdx.map fun (a, k) => (a, decodeEl h.keyFormat (storedEl h.keyFormat b 64 k))
    let f := round32 ((accumulate isInt (.fin false 0) pairs).mul (Op.haScale e))
    (f, nanInOf pairs)
  let bias (c : Nat) : Val := qtabBias (v.qtab d) false c
  if sel.isEmpty then
    let rs := (List.range vd).map fun c => v.requant d c (bias c)
    (rs.map Prod.fst, rs.foldl (fun a r => a ||| r.2) 0)
  else
    let fs := sel.map fun x => score x.2
    let m := (treeReduce maxSt (.inf true, 0) fs).1
    let xs := fs.map fun f =>
      let (a, st) := addSt false (f.1, 0) (m.neg, 0)
      let (x, st') := vectorFn 0x11 a
      (x, st ||| st')
    let sum := treeReduce (addSt false) (.fin false 0, 0) xs
    let r := vectorFn 0x13 sum.1
    let ps := xs.map fun x =>
      let (c, st) := roundFloat (Op.haPFormat e) false (x.1.mul r.1)
      (decodeEl (Op.haPFormat e) c, st)
    let st0 := (fs.map Prod.snd ++ xs.map Prod.snd ++ ps.map Prod.snd ++ [sum.2, r.2]).foldl (· ||| ·) 0
    let rs := (List.range vd).map fun c =>
      let pairs := (ps.zip sel).map fun (p, x) =>
        (p.1, decodeEl h.valueFormat (storedEl h.valueFormat x.2 (64 + h.keyBytes) c))
      let (code, st) := v.requant d c (accumulate false (bias c) pairs)
      (code, st ||| nanInOf pairs)
    (rs.map Prod.fst, rs.foldl (fun a r => a ||| r.2) st0)

end Sys2Proof.Machine
end

