-- ==== Sys2Proof/Machine/Wire.lean ====
section
/-! DEFINITION. Sending line group messages (15_line_group_and_time.md R372 to R374) and the
translation of positions between modules (R376, R377). -/

namespace Sys2Proof.Machine

/-- The code PEER_LOST (15_line_group_and_time.md). -/
abbrev Code.peerLost : Nat := 0x33

/-- A peer of the group that is present (R375). -/
def State.peerHere (s : State) (i : Nat) : Bool :=
  match Tab.get s.net.peers i with
  | some p => p.present && !p.excluded
  | none => false

/-- Sends a group message; one with ACK_REQ is kept until it is acknowledged (R374). A standalone
module sends none. -/
def State.groupSend (s : State) (peer : Option Nat) (type : Nat) (payload : Bytes)
    (acked : Bool := false) (partId : BitVec 64 := 0) : State :=
  match s.group with
  | none => s
  | some _ =>
      let seq := s.net.txSeq
      let s := s.emit (.group peer type seq false payload)
      let keep : List GroupMsg := match acked, peer with
        | true, some p => [⟨p, seq, type, 0, payload, partId⟩]
        | _, _ => []
      { s with net := { s.net with txSeq := seq + 1, unacked := s.net.unacked ++ keep } }

/-- A handoff that could not be delivered (R379). -/
def State.handoffLost (s : State) (partId : BitVec 64) : State :=
  s.flagLog .netGroupFlags [] 2 { errorRec 5 with status := Code.peerLost, arg0 := partId }

/-! ### The axis map (R376, R377) -/

/-- Half-up rounding of an exact number of 1/256 counts. -/
def halfUp (q : Rat) : Int := (q + 1 / 2).floor

/-- AXIS_RATIO of a group section, leader counts per local count. -/
def axisRatio (g : Bytes) : Rat := (Grp.stretch g 0x1C 4 : Rat) / 16777216

/-- The anchor of this module's axis map: local P and leader P. The leader's own map is the
identity. -/
def State.axisAnchor (s : State) (g : Bytes) : Option (Pos × Pos) :=
  if Grp.index g = 0 then
    let p := s.diePos (Grp.stretch g 0x18 1)
    some (p, p)
  else s.net.anchor

/-- The group coordinate of a local position (R377), where the axis map has an anchor. -/
def State.groupCoord (s : State) (g : Bytes) (p : Pos) : Option Pos :=
  (s.axisAnchor g).map fun (ap, ag) =>
    posAdd (posAdd ag (halfUp (axisRatio g * (posSub p ap : Rat)))) (-(256 * sleAt g 0x20 4))

/-- A sender's position in this module's counts (R377). -/
def translate (ap ag : Pos) (ratio : Nat) (distance : Int) (lp lg : Pos) (g : Bytes) (p : Pos) : Pos :=
  let r : Rat := (ratio : Rat) / 16777216
  let grp := posAdd ag (halfUp (r * (posSub p ap : Rat)))
  let grp := posAdd grp (-(256 * distance))
  let own : Int := sleAt g 0x20 4
  let d : Rat := (posSub (posAdd grp (256 * own)) lg : Rat)
  if axisRatio g = 0 then lp else posAdd lp (halfUp (d / axisRatio g))

end Sys2Proof.Machine
end

