-- ==== Sys2Proof/Machine/Ledger.lean ====
section
/-! DEFINITION. Part records and verdicts (10_ledger_and_deadlines.md R250 to R272): record bytes,
opening, joining scores, deciding, the eject entries a verdict inserts
(11_encoders_and_eject.md R293 to R295), capture selection (R266, R267), the start of a shadow
trial (14_fine_tuning_and_shadow.md R360), handoffs sent (R269) and retirement. -/

namespace Sys2Proof.Machine

/-! ### Codes (R272, R302) -/

namespace Code
abbrev imageFieldChange : Nat := 0x29
abbrev partNotFound : Nat := 0x80
abbrev ledgerFull : Nat := 0x81
abbrev handoffLate : Nat := 0x82
abbrev handoffMismatch : Nat := 0x83
abbrev scoreInvalid : Nat := 0x84
abbrev positionLost : Nat := 0x85
abbrev linesDropped : Nat := 0x86
abbrev triggerPairing : Nat := 0x87
abbrev applyCut : Nat := 0x88
abbrev remoteDamaged : Nat := 0x89
abbrev applyDrain : Nat := 0x8A
abbrev ejectMissed : Nat := 0x90
abbrev ejectLate : Nat := 0x91
abbrev ejectListFull : Nat := 0x92
abbrev ejectNoValve : Nat := 0x93
abbrev windowMismatch : Nat := 0x94
abbrev encoderLost : Nat := 0x95
abbrev streamReset : Nat := 0xD7
end Code

/-! ### VERDICT records (R251, R259, R262) -/

/-- The part definition of a primary stream. -/
def State.partDef (s : State) (stream : Nat) : Option Bytes := s.imgRecord 9 1 stream

namespace PD
def mode (r : Bytes) : Nat := byteAt r 4
def presenceDi (r : Bytes) : Nat := byteAt r 5
def falling (r : Bytes) : Bool := byteAt r 6 == 1
def openOffset (r : Bytes) : Int := sleAt r 8 4
def windowCounts (r : Bytes) : Nat := leAt r 0xC 4
def segmentLines (r : Bytes) : Nat := leAt r 0x10 4
def detectOp (r : Bytes) : Nat := leAt r 0x14 4
def threshold (r : Bytes) : Nat := leAt r 0x18 4
def mergeCols (r : Bytes) : Nat := leAt r 0x1C 2
def mergeLines (r : Bytes) : Nat := leAt r 0x1E 2
def ejectDistance (r : Bytes) : Nat := leAt r 0x20 4
def guardCounts (r : Bytes) : Nat := leAt r 0x24 4
def recipe (r : Bytes) (v : Nat) : Nat := byteAt r (0x28 + v)
def handoffKind (r : Bytes) : Nat := byteAt r 0x38
def handoffTo (r : Bytes) : Nat := byteAt r 0x39
def handoffSlot (r : Bytes) : Nat := byteAt r 0x3A
end PD

/-- One view of a view join record: stream, group (0xFF: local) and offset in counts. -/
def viewOf (r : Bytes) (v : Nat) : Nat × Nat × Int :=
  (byteAt r (8 + 7 * v), byteAt r (9 + 7 * v), sleAt r (0xA + 7 * v) 4)

/-- The views of a primary stream's parts. -/
def State.viewsOf (s : State) (stream : Nat) : List (Nat × Nat × Int) :=
  match s.imgRecord 9 2 stream with
  | some r => (List.range (byteAt r 5)).map (viewOf r)
  | none => [(stream, 0xFF, 0)]

/-- JOIN_RULE of a primary stream. -/
def State.joinRule (s : State) (stream : Nat) : Nat :=
  match s.imgRecord 9 2 stream with
  | some r => byteAt r 4
  | none => 0

/-- The default class of a SOURCE (R262): REJECT without a record. -/
def State.defaultClass (s : State) (stream source : Nat) : Nat :=
  match s.imgRecord 9 3 stream with
  | some r => byteAt r (4 + (source - 3))
  | none => 1

/-! ### Records (R256, R257) -/

/-- The number of a record state. -/
def PartSt.code : PartSt → Nat
  | .free => 0
  | .open' => 1
  | .imaged => 2
  | .scored => 3
  | .decided => 4
  | .scheduled => 5
  | .fired => 6
  | .retired => 7

/-- A bit for each view that a test accepts. -/
def viewBits (vs : List View) (f : View → Bool) : Nat :=
  (vs.zipIdx.map fun (v, i) => b2n (f v) * 2 ^ i).foldl (· + ·) 0

/-- The 128 bytes of a record (R256). -/
def Part.bytes (p : Part) : Bytes :=
  natLe 8 p.seq ++ natLe 8 p.id.toNat ++
  natLe 1 p.st.code ++ natLe 1 p.verdict ++ natLe 1 p.source ++ natLe 1 p.mode ++
  natLe 1 (viewBits p.views fun _ => true) ++
  natLe 1 (viewBits p.views fun v => v.deep.isSome || v.shoal.isSome) ++
  natLe 1 (viewBits p.views fun v => v.cause != 0) ++
  natLe 1 (b2n p.short + 2 * b2n p.handedIn + 4 * b2n p.handedOut + 8 * b2n p.concealed +
    16 * b2n p.captured + 32 * b2n p.shoalRan + 64 * b2n p.digestValid + 128 * b2n p.deepPending) ++
  natLe 1 p.stream ++ natLe 1 p.encoder ++ natLe 2 p.arith.toNat ++ natLe 4 p.imageGen.toNat ++
  natLe 8 p.startPos.toNat ++ natLe 8 p.endPos.toNat ++ natLe 8 p.cutoff.toNat ++
  natLe 8 p.ejectPos.toNat ++ natLe 4 p.lateral.toNat ++ natLe 4 p.scopeSeq ++
  natLe 4 p.scoreDeep.toNat ++ natLe 4 p.scoreShoal.toNat ++ natLe 4 p.scoreCand.toNat ++
  natLe 1 p.deepClass ++ natLe 1 p.shoalClass ++ natLe 1 p.candClass ++ natLe 1 p.overlayGen ++
  natLe 8 p.tOpen.toNat ++ natLe 8 p.tDecided.toNat ++ natLe 8 p.tFired.toNat ++
  natLe 1 p.cause ++ natLe 1 p.captureRule ++ natLe 1 p.groupPeer ++ natLe 1 p.recipe ++
  natLe 4 0 ++ natLe 8 p.seq

/-- The 128 bytes of a digest block. -/
def Part.digestBytes (p : Part) : Bytes :=
  (List.range 16).flatMap fun t =>
    natLe 8 (if p.digestValid then (p.digests.getD t 0).toNat else 0)

/-- The part in a slot. -/
def State.part (s : State) (slot : Nat) : Option Part := Tab.get s.ledg.parts slot

/-- Updates a record: SEQ increments and the DRAM copy is rewritten. -/
def State.putPart (s : State) (slot : Nat) (p : Part) : State :=
  let p := { p with seq := p.seq + 1, recordLost := false }
  let s := { s with ledg := { s.ledg with parts := Tab.put s.ledg.parts slot p } }
  (s.store (ledgerBase + slot * 128) p.bytes).store (ledgerBase + 0x8000000 + slot * 128)
    p.digestBytes

/-- Updates the record in a slot, if it holds a part. -/
def State.updPart (s : State) (slot : Nat) (f : Part → Part) : State :=
  match s.part slot with
  | some p => s.putPart slot (f p)
  | none => s

/-- Changes one view of a part without counting as an update of the record. -/
def State.updView (s : State) (slot view : Nat) (f : View → View) : State :=
  { s with ledg := { s.ledg with
      parts := Tab.upd s.ledg.parts slot fun p => { p with views := listUpd p.views view f } } }

/-- Changes a part without an update of its record. -/
def State.notePart (s : State) (slot : Nat) (f : Part → Part) : State :=
  { s with ledg := { s.ledg with parts := Tab.upd s.ledg.parts slot f } }

/-- Parts not retired, by slot. -/
def State.liveParts (s : State) : List (Nat × Part) :=
  s.ledg.parts.filter fun p => p.2.st != .retired

/-- Undecided parts. -/
def State.undecidedParts (s : State) : List (Nat × Part) := s.ledg.parts.filter fun p => p.2.undecided

/-! ### Cutoffs (R263, R293) -/

/-- LEAD_NS of an output (R296). -/
def State.leadNs (s : State) (q : Nat) : Nat :=
  match s.imgRecord 10 4 q with
  | some r => leAt r 4 4
  | none => 0

/-- The outputs a recipe can select. -/
def State.recipeOutputs (s : State) (r : Bytes) : List Nat :=
  if byteAt r 4 = 0 then (List.range 64).filter (bit (leAt r 8 8))
  else match s.imgRecord 10 2 (byteAt r 5) with
    | some m => (List.range (byteAt m 5)).map (· + byteAt m 4)
    | none => []

/-- A recipe's lead in ns (R293). -/
def State.recipeLead (s : State) (k : Nat) : Nat :=
  match s.imgRecord 10 1 k with
  | some r => ((s.recipeOutputs r).map s.leadNs).foldl max 0
  | none => 0

/-- The largest lead among the recipes of a part definition, in counts at the present period. -/
def State.leadCounts (s : State) (r : Bytes) (enc : Nat) : Nat :=
  if s.dieStopped enc then 0 else
  let ns := ((List.range 16).map fun v =>
    if PD.recipe r v = 0xFF then 0 else s.recipeLead (PD.recipe r v)).foldl max 0
  ceilDiv (ns * 256) (max 1 (s.enc enc).diePeriod)

/-- The decision cutoff of an eject position. -/
def State.cutoffOf (s : State) (r : Bytes) (enc : Nat) (eject : Pos) : Pos :=
  posCounts eject (-((s.leadCounts r enc + PD.guardCounts r : Nat) : Int))

/-! ### Lines of a view -/

/-- The corrected lines of a stream whose positions a test accepts. -/
def Stream.linesAt (x : Stream) (f : Pos → Bool) : List CorrLine := x.lines.filter fun l => f l.pos

/-- A stream's lines whose pipe has not emitted them yet. -/
def Stream.inFlight (x : Stream) : List Pos :=
  (x.rawLines.filter fun l => !l.gap).map (·.pos) ++ x.align.map (·.pos) ++ x.binGroup.map (·.pos) ++
    x.readyLines.map (·.pos)

/-- One more line of a block goes into groups of `b` lines: the groups that are whole, the lines of the open one and
its block (04_line_pipes.md R108). -/
def groupStep (b : Nat) (t : Nat × Nat × Word) (l : Word × Bool) : Nat × Nat × Word :=
  let (n, k) := if t.2.1 ≠ 0 ∧ t.2.2 ≠ l.1 then (t.1 + 1, 0) else (t.1, t.2.1)
  if l.2 ∨ b ≤ k + 1 then (n + 1, 0, l.1) else (n, k + 1, l.1)

/-- The corrected lines that the lines on their way through the pipe become. -/
def Stream.corrInFlight (x : Stream) : Nat :=
  let work (l : WorkLine) : Word × Bool := (l.block, l.last || l.cut)
  let (n, k, _) := (x.binGroup.map work ++ x.align.map work ++
    (x.rawLines.filter fun l => !l.gap).map fun l => (l.block, l.last || l.cut)).foldl (groupStep x.binning) (0, 0, 0)
  x.readyLines.length + n + b2n (k ≠ 0)

/-! ### Capture selection (R266, R267, R327, R329) -/

/-- The capture rules of a primary stream: number and record. -/
def State.captureRules (s : State) (stream : Nat) : List (Nat × Bytes) :=
  (List.range 16).filterMap fun i => (s.imgRecord 9 4 i).bind fun r =>
    if byteAt r 4 = stream then some (i, r) else none

/-- AUDIT of a rule for a part. -/
def auditHolds (r : Bytes) (id : BitVec 64) : Bool :=
  bit (byteAt r 5) 3 && crc32 (bytesAt r 0x10 8 ++ natLe 8 id.toNat) % max 1 (leAt r 0xC 4) == 0

/-- A crop covers a corrected line of its stream, as far as its view's scope is known. -/
def State.cropCovers (s : State) (c : Crop) (k : Nat) : Bool :=
  match s.part c.slot, s.stream c.stream, (s.part c.slot).bind fun p => (s.seen p).imgRecord 9 4 c.rule with
  | some p, some x, some r =>
      p.id == c.partId && (match p.views[c.view]? with
        | none => false
        | some v => match v.first with
          | none => false
          | some f =>
              decide (f ≤ k + leAt r 0x18 2) && x.originOf k == x.originOf f &&
              (match v.last with
                | none => true
                | some l => decide (k ≤ l + leAt r 0x18 2)))
  | _, _, _ => false

/-- Every crop of a part takes its references on the lines that are there. -/
def State.cropRefs (s : State) (slot : Nat) : State :=
  (s.cap.crops.filter fun c => c.slot == slot).foldl (fun s c =>
    s.updStream c.stream fun x => { x with lines := x.lines.map (fun l =>
      if s.cropCovers c l.index && !l.crops.contains c.id then { l with crops := l.crops ++ [c.id] }
      else l) }) s

/-- Opens the provisional crops of a part: every rule with REJECT, BORDER, DISAGREE or DEFAULT, and
every rule whose AUDIT holds. -/
def State.openCrops (s : State) (slot : Nat) (p : Part) : State :=
  let s := (s.captureRules p.stream).foldl (fun s (i, r) =>
    if (byteAt r 5 &&& 0x17) = 0 ∧ !auditHolds r p.id then s else
    (p.views.zipIdx.filter fun (v, k) => v.local' && bit (byteAt r 6) k).foldl (fun s (v, k) =>
      let c : Crop := { id := s.cap.nextCrop, slot := slot, partId := p.id, rule := i, view := k,
                        stream := v.stream, library := byteAt r 7, line0 := 0, lines := 0, col0 := 0,
                        cols := 0, edge := false, ready := false }
      { s with cap := { s.cap with crops := s.cap.crops ++ [c], nextCrop := s.cap.nextCrop + 1 } }) s) s
  s.cropRefs slot

/-- Removes a crop and gives its references back. -/
def State.dropCrop (s : State) (id : Nat) : State :=
  ({ s with cap := { s.cap with crops := s.cap.crops.filter fun c => c.id != id
                                waiting := s.cap.waiting.filter fun c => c.id != id } } : State)
    |>.releaseCrop id

/-- A crop is abandoned. -/
def State.abandonCrop (s : State) (id : Nat) : State := (s.dropCrop id).count .capDropped []

/-- The extent of a crop whose lines have all been emitted: first line, lines, first column,
columns, and whether it was clipped (R327). -/
def State.cropExtent (s : State) (c : Crop) : Option (Nat × Nat × Nat × Nat × Bool) :=
  match s.part c.slot, s.stream c.stream, (s.part c.slot).bind fun p => (s.seen p).imgRecord 9 4 c.rule with
  | some p, some x, some r => match p.views[c.view]? with
      | none => none
      | some v => match v.first, v.last with
          | some f, some l =>
              let n := leAt r 0x18 2
              let lo := max (x.originOf f) (f - n)
              let stop := match x.nextOrigin f with
                | some o => o - 1
                | none => if x.closed then x.nextCorr - 1 else l + n
              let hi := min stop (l + n)
              if x.nextCorr ≤ hi then none else
              let w := leAt r 0x1A 2
              let clo := if p.mode = 2 then p.colFirst - w else 0
              let chi := if p.mode = 2 then min (x.columns - 1) (p.colLast + w) else x.columns - 1
              let edge := decide (f < lo + n) || decide (hi < l + n) ||
                (p.mode == 2 && (decide (p.colFirst < w) || decide (x.columns ≤ p.colLast + w)))
              some (lo, hi + 1 - lo, clo, chi + 1 - clo, edge)
          | _, _ => none
  | _, _, _ => none

/-- Selected crops whose last line has been emitted join the encoder's queue of 256 (R329). -/
def State.queueCrops (s : State) : State :=
  (s.cap.crops.filter fun c => c.ready).foldl (fun s c =>
    match s.cropExtent c with
    | none => s
    | some (lo, n, clo, m, edge) =>
        if 16384 < n ∨ 16384 < m then (s.setFlag .capFlags [] 1).abandonCrop c.id
        else if 256 ≤ s.cap.waiting.length then (s.setFlag .capFlags [] 0).abandonCrop c.id
        else
          let c := { c with line0 := lo, lines := n, col0 := clo, cols := m, edge := edge }
          { s with cap := { s.cap with crops := s.cap.crops.filter fun d => d.id != c.id
                                       waiting := s.cap.waiting ++ [c] } }) s

/-! ### Joining scores (R258 to R260) -/

/-- The joined score of a class. -/
def joinClass (rule : Nat) (vs : List Val) : Val :=
  match rule with
  | 0 => vs.foldl Val.max .nan
  | 2 => vs.foldl Val.min .nan
  | _ =>
      let sum := vs.foldl (fun a v => round32 (a.add v)) (.fin false 0)
      decodeEl 0x14 (roundFloat 0x14 false (sum.mul (.fin false (1 / (max 1 vs.length : Nat))))).1

/-- The joined scores of a model over the views, once every view has them. -/
def joinViews (rule : Nat) (vs : List (Option (List Word))) : Option (List Val) :=
  if vs.any Option.isNone || vs.isEmpty then none else
  let ss := vs.filterMap id
  let n := (ss.headD []).length
  some ((List.range n).map fun c => joinClass rule (ss.map fun l => decodeEl 0x14 (l.getD c 0x7FC00000).toNat))

/-- The winning class and its score; none if every score is NaN. -/
def winner (scores : List Val) : Option (Nat × Val) :=
  scores.zipIdx.foldl (fun m (v, c) => if v.isNan then m else match m with
    | none => some (c, v)
    | some (_, w) => if w.less v then some (c, v) else m) none

/-- The margin: the winning score less the second highest (R260). -/
def margin (scores : List Val) : Val :=
  match winner scores with
  | none => .nan
  | some (c, v) =>
      let rest := (scores.zipIdx.filter fun x => x.2 != c).map Prod.fst
      match winner rest with
      | none => .nan
      | some (_, w) => decodeEl 0x14 (roundFloat 0x14 false (v.add w.neg)).1

/-- The joined scores of a part's deep (0), shoal (1) or candidate (2) model. -/
def State.joined (s : State) (p : Part) (model : Nat) : Option (List Val) :=
  joinViews ((s.seen p).joinRule p.stream) (p.views.map fun v => match model with
    | 0 => v.deep
    | 1 => v.shoal
    | _ => v.cand)

/-! ### Eject entries (R294, R295) -/

/-- The outputs a valve map selects for a LATERAL (R295). -/
def valveMask (m : Bytes) (lateral : Nat) : BitVec 64 :=
  let count : Int := (byteAt m 5 : Int)
  let spread : Int := (byteAt m 6 : Int)
  let pitch : Int := ((max 1 (leAt m 0xC 4) : Nat) : Int)
  let x := toSigned 32 lateral - sleAt m 8 4
  let v := x / pitch
  let r := x - v * pitch
  let band : Int := (leAt m 0x10 4 : Int)
  let valves : List Int :=
    if v < 0 ∨ count ≤ v then
      if byteAt m 0x14 = 1 ∧ v = -1 then [0]
      else if byteAt m 0x14 = 1 ∧ v = count then [count - 1] else []
    else
      let lo := if r < band then v - spread - 1 else v - spread
      let hi := if pitch - band ≤ r then v + spread + 1 else v + spread
      ((List.range (hi - lo + 1).toNat).map fun (i : Nat) => lo + (i : Int)).filter fun k =>
        decide (0 ≤ k) && decide (k < count)
  let out (k : Int) : Nat :=
    byteAt m 4 + (if byteAt m 7 = 1 then (count - 1 - k).toNat else k.toNat)
  n64 ((valves.map fun k => 2 ^ out k).foldl (· ||| ·) 0)

/-- The mask a recipe gives a part. -/
def State.recipeMask (s : State) (r : Bytes) (p : Part) : BitVec 64 :=
  if byteAt r 4 = 0 then n64 (leAt r 8 8)
  else match s.imgRecord 10 2 (byteAt r 5) with
    | some m => valveMask m p.lateral.toNat
    | none => 0

/-- The entries of a part under a recipe, with empty masks still among them. -/
def State.ejectEntries (s : State) (slot : Nat) (p : Part) (def' : Bytes) (recipe : Nat) : List Eject :=
  match s.imgRecord 10 1 recipe with
  | none => []
  | some r =>
      let rej := PD.recipe def' 1
      let (fm, fs) := match (if rej = 0xFF then none else s.imgRecord 10 1 rej) with
        | some f => (s.recipeMask f p, byteAt f 0x18)
        | none => (0, 0)
      (List.range (byteAt r 6)).map fun i =>
        { seq := 0, pos := posCounts p.ejectPos (sleAt r (0x14 + 8 * i) 4), mask := s.recipeMask r p
          failMask := fm, partId := p.id, partSlot := slot, encoder := p.encoder
          shape := byteAt r (0x18 + 8 * i), failShape := fs, st := 1, lateCounts := leAt r 0x10 4
          fired := 0, index := i }

/-! ### Handoffs sent (R269, R378) -/

/-- The payload of a HANDOFF for a part. -/
def State.handoffBytes (s : State) (g : Bytes) (p : Part) (kind slot : Nat) (damaged : Bool)
    (scores : List Word) : Bytes :=
  let (ap, ag) := (s.axisAnchor g).getD (0, 0)
  natLe 1 kind ++ natLe 1 slot ++ natLe 1 p.source ++ natLe 1 (b2n damaged) ++ natLe 2 p.arith.toNat ++
  natLe 1 (if kind = 2 then p.verdict else 0xFF) ++ [0] ++ natLe 8 p.id.toNat ++
  natLe 8 p.startPos.toNat ++ natLe 8 p.endPos.toNat ++ natLe 8 p.ejectPos.toNat ++
  natLe 4 p.lateral.toNat ++ natLe 4 (Grp.stretch g 0x1C 4) ++ natLe 8 ap.toNat ++ natLe 8 ag.toNat ++
  natLe 4 (Grp.stretch g 0x20 4) ++ natLe 4 (Grp.stretch g 0x14 4) ++
  ((List.range 16).flatMap fun i => natLe 4 (scores.getD i 0).toNat)

/-- Sends a handoff of a part to the member its definition names, if the kind is asked for. -/
def State.handoff (s : State) (p : Part) (kind : Nat) (damaged : Bool) (scores : List Word) : State :=
  match s.group, (s.seen p).partDef p.stream with
  | some g, some r =>
      if PD.handoffKind r ≠ kind then s else
      let dest := PD.handoffTo r
      let s := s.updPart (p.id.toNat % 2 ^ 20) fun q => if q.id = p.id then { q with groupPeer := dest } else q
      if s.peerHere dest then
        s.groupSend (some dest) 0x03 (s.handoffBytes g p kind (PD.handoffSlot r) damaged scores) true p.id
      else s.handoffLost p.id
  | _, _ => s

/-! ### Retirement (R257) -/

/-- Deep, shoal, shadow or capture work remains for a part. -/
def State.partWork (s : State) (slot : Nat) (p : Part) : Bool :=
  p.deepPending || p.shadow || !p.settled ||
  s.sched.jobs.any (fun j => j.kind == .tail && j.slot == slot) ||
  s.cap.crops.any (fun c => c.partId == p.id) || s.cap.waiting.any (fun c => c.partId == p.id)

/-- The insertion queue of 8,192 entries has room for some more (R294). -/
def State.queueRoom (s : State) (es : List Eject) : Bool :=
  decide ((s.motion.insertQueue.map fun q => q.2.length).foldl (· + ·) 0 + es.length ≤ 8192)

/-- A part's entries go to the insertion queue; a full one holds them back, and with them the deciding block. -/
def State.queueEntries (s : State) (slot : Nat) (es : List Eject) : State :=
  if s.motion.insertHold.isEmpty && s.queueRoom es then
    { s with motion := { s.motion with insertQueue := s.motion.insertQueue ++ [(slot, es)] } }
  else { s with motion := { s.motion with insertHold := s.motion.insertHold ++ [(slot, es)] } }

/-- The entries of a part wait for the list manager. -/
def State.entriesWait (s : State) (slot : Nat) : Bool :=
  (s.motion.insertQueue ++ s.motion.insertHold).any fun q => q.1 == slot

/-- An entry fired. -/
def Eject.didFire (e : Eject) : Bool := e.st == 3 || e.st == 4 || e.st == 6

/-- An entry ended without firing. -/
def Eject.didNot (e : Eject) : Bool := e.st == 5 || e.st == 7

/-- Moves a part on to FIRED and RETIRED as far as its entries and its work allow (R257, R300). -/
def State.settlePart (s : State) (slot : Nat) : State :=
  match s.part slot with
  | none => s
  | some p =>
      let s := if p.st == .scheduled && decide (0 < p.entries) && p.firedEntries == p.entries then
          s.updPart slot fun p => { p with st := .fired } else s
      let p := (s.part slot).getD p
      let queued := s.entriesWait slot
      let done := match p.st with
        | .fired => true
        | .decided => !queued && p.entries == 0
        | .scheduled => decide (p.entries ≤ p.firedEntries + p.endedEntries) && decide (0 < p.endedEntries)
        | _ => false
      if done && !s.partWork slot p then
        let s := s.updPart slot fun p => { p with st := .retired }
        { s with ledg := { s.ledg with retired := s.ledg.retired ++ [slot] } }
      else s

/-- Settles every part that could have moved on. -/
def State.settleParts (s : State) : State :=
  (s.ledg.parts.filter fun p => !p.2.undecided && p.2.st != .retired).foldl
    (fun s p => s.settlePart p.1) s

/-! ### Capture at the decision (R267) -/

/-- A rule matches a decided part. -/
def State.ruleMatches (s : State) (r : Bytes) (p : Part) : Bool :=
  let sel := byteAt r 5
  let model := if p.source = 2 then 1 else 0
  let cls := if p.source = 1 then p.deepClass else if p.source = 2 then p.shoalClass else p.verdict
  (bit sel 0 && p.verdict != 0) ||
  (bit sel 1 && (p.source == 1 || p.source == 2) && (match s.joined p model with
    | some v => (margin v).less (decodeEl 0x14 (leAt r 8 4))
    | none => false)) ||
  (bit sel 2 && p.candClass != 0xFF && p.candClass != cls) ||
  auditHolds r p.id ||
  (bit sel 4 && decide (3 ≤ p.source))

/-- Settles the crops of a decided part: rules that match are selected; the others give their
references back, DISAGREE alone waiting while the shadow run goes on. -/
def State.settleCrops (s : State) (slot : Nat) : State :=
  match s.part slot with
  | none => s
  | some p =>
      if p.undecided then s else
      let s := ((s.seen p).captureRules p.stream).foldl (fun s (i, r) =>
        let mine := (s.cap.crops.filter fun c => c.partId == p.id && c.rule == i).map (·.id)
        if s.ruleMatches r p then
          let s := { s with cap := { s.cap with crops := s.cap.crops.map (fun c =>
            if mine.contains c.id then { c with ready := true } else c) } }
          if p.captureRule ≤ i then s
          else s.updPart slot fun p => { p with captureRule := min p.captureRule i }
        else if bit (byteAt r 5) 2 && p.shadow then s
        else mine.foldl (fun s c => s.dropCrop c) s) s
      s.queueCrops

/-! ### Deciding (R259 to R262, R265) -/

/-- The mode that governs a part's scope (R264, R311). -/
def State.partDet (s : State) (p : Part) : Bool := p.det.getD s.img.detMode

/-- Every local view's deep tail has committed. -/
def Part.deepDone (p : Part) : Bool := p.views.all fun v => !v.local' || v.deep.isSome

/-- Decides a part: the record, the counts and flags, the entries, the handoff and the capture.
Deep work that goes on after the decision in Reproducible mode is marked DEEP_PENDING; in
Throughput mode it ends and the scope is void (R265). -/
def State.decideNow (s : State) (slot verdict source cause : Nat) : State :=
  match s.part slot with
  | none => s
  | some p =>
      if !p.undecided then s else
      let det := s.partDet p
      let def' := ((s.seen p).partDef p.stream).getD []
      let r := PD.recipe def' verdict
      let waitF : Bool := match s.img.apply with
        | some a => a.phase == .fieldWait
        | none => false
      let recipe := if waitF then 0xFF else r
      let model := if source = 2 then 1 else 0
      let arith := if source = 1 ∨ source = 2 then
          (p.views.map fun v => if model = 1 then v.arithShoal else v.arithDeep).foldl (· ||| ·) 0
        else (p.views.map (·.arithDeep)).foldl (· ||| ·) 0
      let goOn := det && !p.deepDone && source != 5
      let p := { p with
        st := .decided, verdict := verdict, source := source, cause := cause, recipe := recipe
        tDecided := s.tb0, decidedTb1 := s.now, arith := p.arith ||| arith
        deepPending := goOn
        void := p.void || (!goOn && !p.deepDone)
        settled := p.settled || (!goOn && !p.deepDone) }
      let s := s.putPart slot p
      let s := s.count .ledgSourceCnt [source - 1]
      let s := if 3 ≤ source ∧ source ≤ 5 then s.setFlag .ledgFlags [] (source + 1) else s
      let s := match s.timeOf p.encoder p.cutoff with
        | some t => if source = 1 ∨ source = 2 then
            { s with ledg := { s.ledg with slack := min s.ledg.slack ((t - s.now) / 1000) } } else s
        | none => s
      let s := if waitF && r != 0xFF then
          s.log { warning 12 with status := Code.imageFieldChange, arg0 := p.id } else s
      let s := if recipe = 0xFF then s else
        s.queueEntries slot ((s.seen p).ejectEntries slot p def' recipe)
      let s := if PD.handoffKind def' = 2 then
          let score := if source = 2 then p.scoreShoal else p.scoreDeep
          (s.handoff p 2 (p.views.any fun v => v.cause != 0) [score]).updPart slot
            fun p => { p with handedOut := true }
        else s
      s.settleCrops slot

/-- Decides a part, unless a full insertion queue holds the deciding block back: then the first decision the part is
given waits (R294; notes/assumptions/137.md). The list refuses entries during the field wait alone: from its end to the
end of the load phase it takes them again (R60 and R62; DESIGN CHOICE, notes/assumptions/148.md). -/
def State.decidePart (s : State) (slot verdict source cause : Nat) : State :=
  if s.motion.insertHold.isEmpty then s.decideNow slot verdict source cause
  else if ((s.part slot).map Part.undecided).getD false && !s.motion.decideWait.any (fun d => d.1 == slot) then
    { s with motion := { s.motion with decideWait := s.motion.decideWait ++ [(slot, verdict, source, cause)] } }
  else s

/-- Decides a part with a default. -/
def State.decideDefault (s : State) (slot source cause : Nat) : State :=
  match s.part slot with
  | some p => s.decidePart slot ((s.seen p).defaultClass p.stream source) source cause
  | none => s

/-- The order of R262's table: the smaller number prevails. -/
def causeRank (c : Nat) : Nat :=
  match c with
  | 0x60 => 0
  | 0x50 => 1
  | 0x10 => 2
  | 0x61 => 3
  | 0x86 => 4
  | 0x87 => 5
  | 0x88 => 6
  | 0xD7 => 7
  | _ => 8

/-- The first CAUSE of R262 among some. -/
def firstCause (cs : List Nat) : Nat :=
  cs.foldl (fun m c => if c = 0 then m else if m = 0 then c else if causeRank c < causeRank m then c else m) 0

/-- The CAUSE of a part's damage: the first row of R262 that applies to any view; 0 for none. -/
def Part.damage (p : Part) : Nat := firstCause (p.views.map (·.cause))

/-- Marks a view damaged, in its record too; the first row of R262 is kept. -/
def State.damageView (s : State) (slot view cause : Nat) : State :=
  match (s.part slot).bind fun p => p.views[view]? with
  | none => s
  | some v =>
      if v.cause = 0 ∨ causeRank cause < causeRank v.cause then
        s.updPart slot fun p => { p with views := listUpd p.views view fun v => { v with cause := cause } }
      else s

/-- Every local view's shoal tail has committed. -/
def Part.shoalDone (p : Part) : Bool := p.views.all fun v => !v.local' || v.shoal.isSome

/-- A part is SCORED once every local view's tail of the deciding model has committed (R257): the deep model's, or
the shoal model's where it runs. -/
def State.scored (s : State) (slot : Nat) : State :=
  match s.part slot with
  | none => s
  | some p =>
      let local' := p.views.any (·.local')
      if (p.st == .open' || p.st == .imaged) && local' && (p.deepDone || (p.shoalRan && p.shoalDone)) then
        s.updPart slot fun p => { p with st := .scored }
      else s

/-- Decides a part whose scores are joined or that is damaged. A score set that is all NaN faults
(R259); damage prevails over a joined verdict only while the part is undecided (R262). -/
def State.judge (s : State) (slot : Nat) : State :=
  match s.part slot with
  | none => s
  | some p =>
      if !p.undecided then s else
      let deep := s.joined p 0
      let shoal := if p.shoalRan then s.joined p 1 else none
      let pick := match deep, shoal with
        | some d, _ => some (d, 1)
        | none, some h => some (h, 2)
        | none, none => none
      match pick with
      | some (sc, _) =>
          if (winner sc).isNone then s.decideDefault slot 5 Code.scoreInvalid
          else if p.damage ≠ 0 then s.decideDefault slot 4 p.damage
          else
            let s := s.updPart slot fun p => { p with st := .scored }
            (match pick, winner sc with
              | some (_, src), some (c, _) => s.decidePart slot c src 0
              | _, _ => s)
      | none => if p.damage ≠ 0 then s.decideDefault slot 4 p.damage else s.scored slot

/-! ### Opening (R250, R255, R270) -/

/-- The lowest number from `n` up that a table does not list. -/
def lowestFree : Nat → List Nat → Nat
  | n, k :: r => if k = n then lowestFree (n + 1) r else if k < n then lowestFree n r else n
  | n, [] => n

/-- The slot a new record takes: the lowest FREE one, else the one RETIRED earliest. -/
def State.newSlot (s : State) : Option Nat :=
  let k := lowestFree 0 (s.ledg.parts.map Prod.fst)
  if k < 1048576 then some k else s.ledg.retired.head?

/-- A view of a new part. -/
def newView (stream : Nat) (local' : Bool) : View :=
  { stream := stream, local' := local', first := none, last := none, passed := false
    complete := false, cause := 0, deep := none, shoal := none, cand := none, arithDeep := 0
    arithShoal := 0, tailDigests := [] }

/-- The shadow trial of a part (R360): trialled with the current candidate buffer, or not. -/
def State.trialled (s : State) (stream : Nat) (id : BitVec 64) : Option Nat :=
  match s.train.cand.current, s.imgRecord 15 4 stream with
  | some b, some r =>
      if crc32 (bytesAt r 0xC 8 ++ natLe 8 id.toNat) % max 1 (leAt r 8 4) = 0 then some b else none
  | _, _ => none

/-- A record that has just been opened. -/
def State.newPart (s : State) (slot stream : Nat) (ref : Pos) : Part :=
  let def' := (s.partDef stream).getD []
  let id : BitVec 64 := n64 (s.ledg.seqNext * 2 ^ 20 + slot)
  let enc := ((s.stream stream).map fun x => Strm.encoder x.cfg).getD 0
  let eject := posCounts ref (PD.ejectDistance def')
  let trial := s.trialled stream id
  { seq := 0, id := id, st := .open', verdict := 0xFF, source := 0, mode := PD.mode def'
    views := (s.viewsOf stream).map fun v => newView v.1 (v.2.1 == 0xFF)
    short := false, handedIn := false, handedOut := false, concealed := false, captured := false
    shoalRan := false, digestValid := false, deepPending := false, stream := stream, encoder := enc
    arith := 0, imageGen := s.img.gen, startPos := ref, endPos := 0
    cutoff := s.cutoffOf def' enc eject, ejectPos := eject, refPos := ref, windowEnd := 0
    lateral := 0xFFFFFFFF, scopeSeq := Tab.getD s.ledg.scopeNext stream 0
    scoreDeep := 0x7FC00000, scoreShoal := 0x7FC00000, scoreCand := 0x7FC00000
    deepClass := 0xFF, shoalClass := 0xFF, candClass := 0xFF, overlayGen := ((s.stream stream).map Stream.ovlNow).getD s.overlayGen
    tOpen := s.tb0, tDecided := 0, tFired := 0, decidedTb1 := 0, cause := 0, captureRule := 0xFF
    groupPeer := 0xFF, recipe := 0xFF, colFirst := 0, colLast := 0, det := none
    settled := false, void := false, histDone := [], shadow := trial.isSome
    candBuf := trial.getD 0, digests := [], crops := [] }

/-- The local streams of a part. -/
def Part.streams (p : Part) : List Nat := ((p.views.filter (·.local')).map (·.stream)).dedup

/-- A cutoff becomes the most recent one of a part's streams (R223). -/
def State.noteCutoff (s : State) (p : Part) : State :=
  if p.handedIn then s else
  { s with ledg := { s.ledg with
      lastCutoff := p.streams.foldl (fun t n => Tab.put t n p.cutoff) s.ledg.lastCutoff } }

/-- The time the open queue takes for one part, and its length (R270; notes/assumptions/20.md). -/
abbrev openNs : Nat := 5000
abbrev openQueue : Nat := 4096

/-- A part finds the open queue full. -/
def State.openFull (s : State) : Bool := decide (openQueue * openNs < s.ledg.openFree + openNs - s.now)

/-- A part is not opened: the ledger or its queue is full (R270). -/
def State.notOpened (s : State) (stream : Nat) : State :=
  s.flagLog .ledgFlags [] 0 { errorRec 12 with status := Code.ledgerFull, arg0 := n64 stream }

/-- Opens a part on a primary stream, adjusted by `f`; none where the open queue is full or no slot is left (R255,
R270). -/
def State.openPart (s : State) (stream : Nat) (ref : Pos) (f : Part → Part) : State × Option Nat :=
  if s.openFull then ((s.notOpened stream).setFlag .ledgFlags [] 1, none) else
  match s.newSlot with
  | none => (s.notOpened stream, none)
  | some slot =>
      let p := f (s.newPart slot stream ref)
      let s := { s with ledg := { s.ledg with
        seqNext := s.ledg.seqNext % (2 ^ 44 - 1) + 1, opened := s.ledg.opened + 1
        openFree := max s.ledg.openFree s.now + openNs
        retired := s.ledg.retired.filter (· != slot)
        parts := Tab.put s.ledg.parts slot { p with seq := 0 } } }
      let s := (s.noteCutoff p).putPart slot p
      (if p.handedIn then s else s.openCrops slot p, some slot)

end Sys2Proof.Machine
end

