-- ==== Sys2Proof/Machine/Deadline.lean ====
section
/-! DEFINITION. Stripe jobs and tails as the ledger needs them (05_stripes_and_layouts.md R123 to
R125, 09_scheduling.md R215) and the deadline monitor (10_ledger_and_deadlines.md R263 to R265):
predictions, the shoal fallback, withdrawal, and the cutoff. -/

namespace Sys2Proof.Machine

/-! ### Stripes of a stream (R123) -/

/-- The stripe that holds a corrected line: its origin and its index counted from it. -/
def Stream.stripeOf (x : Stream) (k : Nat) : Nat × Nat :=
  let o := x.originOf k
  (o, (k - o) / max 1 (Strm.stripeRows x.cfg))

/-- The first and last own line of a stripe. -/
def Stream.ownLines (x : Stream) (o j : Nat) : Nat × Nat :=
  let r := max 1 (Strm.stripeRows x.cfg)
  let stop := o + (j + 1) * r - 1
  (o + j * r, match x.nextOrigin o with
    | some n => min stop (n - 1)
    | none => stop)

/-- The lines a stripe reads: first, and one past the last. -/
def Stream.readLines (x : Stream) (o j : Nat) : Nat × Nat :=
  let (a, b) := x.ownLines o j
  let stop := b + Strm.haloAfter x.cfg + 1
  (max o (a - Strm.haloBefore x.cfg), match x.nextOrigin o with
    | some n => min stop n
    | none => stop)

/-- The own columns of a lane. -/
def Stream.laneCols (x : Stream) (l : Nat) : Nat × Nat :=
  (l * Strm.laneWidth x.cfg, (l + 1) * Strm.laneWidth x.cfg)

/-- The number of lanes. -/
def Stream.lanes (x : Stream) : Nat := max 1 (Strm.lanes x.cfg)

/-- The context of a stream for a model: its live context, or its shadow context (R216). -/
def ctxOf (stream model : Nat) : Nat := if model = 2 then 64 + stream else stream

/-- Adds a stripe job with its stages' commands and takes its line references. -/
def State.addStripe (s : State) (stream o j lane model aux : Nat) : State :=
  match s.stream stream, s.img.running with
  | some x, some i =>
      let (a, b) := x.ownLines o j
      let (lo, hi) := x.readLines o j
      let id := s.sched.nextJob
      let job : Job :=
        { id := id, kind := .stripe, ctx := ctxOf stream model, model := model, stream := stream
          stripe := j, lane := lane, gen := s.img.gen, first := lo, last := hi, ownFirst := a
          ownLast := b, slot := 0, view := 0, input := none, result := none, accepted := 0
          closedEnd := false, det := s.img.detMode, by' := none, aux := aux }
      let s := s.addJob job
      let s := (i.stagesOf model false).foldl (fun s k => s.addCmd id k) s
      s.updStream stream fun x => { x with lines := x.lines.map fun l =>
        if lo ≤ l.index ∧ l.index < hi then { l with jobs := l.jobs ++ [id] } else l }
  | _, _ => s

/-- A stripe job of a stream for a model, if there is one. -/
def State.stripeJob (s : State) (stream first lane model aux : Nat) : Option Job :=
  s.sched.jobs.find? fun y => y.kind == .stripe && y.stream == stream && y.ownFirst == first &&
    y.lane == lane && y.model == model && (model != 2 || y.aux == aux)

/-- The stripes, by origin and index, that own lines of a range. -/
def Stream.stripesIn (x : Stream) (lo hi : Nat) : List (Nat × Nat) :=
  ((List.range (hi + 1 - lo)).map fun i => x.stripeOf (lo + i)).dedup

/-- A lane of a view's stream belongs to the scope of a part: in object mode its own columns meet
the part's. -/
def Part.inLane (p : Part) (x : Stream) (lane : Nat) : Bool :=
  p.mode != 2 || (decide ((x.laneCols lane).1 ≤ p.colLast) && decide (p.colFirst < (x.laneCols lane).2))

/-- The last line of a view's scope as far as lines have been emitted. -/
def View.lastKnown (v : View) (x : Stream) : Nat :=
  match v.last with
  | some l => l
  | none => x.nextCorr - 1

/-- Queues the stripe jobs of a model that serve a view and are not there yet, for the lines
emitted so far. -/
def State.ensureStripes (s : State) (p : Part) (v : View) (model aux : Nat) : State :=
  match s.stream v.stream, v.first with
  | some x, some f =>
      (x.stripesIn f (v.lastKnown x)).foldl (fun s (o, j) =>
        (List.range x.lanes).foldl (fun s l =>
          if !p.inLane x l || (s.stripeJob v.stream (x.ownLines o j).1 l model aux).isSome then s
          else s.addStripe v.stream o j l model aux) s) s
  | _, _ => s

/-! ### What a part needs (R264) -/

/-- A part still needs a model: deep until decided, or in Reproducible mode until complete; shoal
until decided; the candidate while its trial goes on. -/
def State.needs (s : State) (p : Part) (model : Nat) : Bool :=
  match model with
  | 0 => if s.partDet p then !p.deepDone && !p.void && (p.undecided || p.deepPending) else p.undecided
  | 1 => p.shoalRan && p.undecided
  | _ => p.shadow

/-- The first and last line of an object's members. -/
def Obj.span (o : Obj) : Nat × Nat :=
  let l := (o.members.headD ⟨0, 0, 0⟩).line
  o.members.foldl (fun (a, b) m => (min a m.line, max b m.line)) (l, l)

/-- The lowest first line that a scope of a stream in object mode can still have: that of an open object, or of one
whose members have not been taken (R254); none for another stream. -/
def State.scopeFloor (s : State) (n : Nat) : Option Nat :=
  match s.partDef n, s.stream n with
  | some r, some x =>
      if PD.mode r ≠ 2 then none else
      let t := Tab.getD s.ledg.objects n {}
      let from' (l : Nat) : Nat := max (x.originOf l) (l - PD.mergeLines r)
      some ((t.objs.map fun o => from' o.span.1).foldl min (from' t.nextLine))
  | _, _ => none

/-- A corrected line that is known, reclaimed or not. -/
def Stream.lineEver (x : Stream) (k : Nat) : Option CorrLine := x.known.find? fun l => l.index == k

/-- A line of a stream can still join a part that opens later under a definition that looks at the stream (R264): as
view 0 or as another view, which lies an offset on. -/
def State.futureLine (s : State) (r : Bytes) (n : Nat) (l : CorrLine) : Bool :=
  let p := byteAt r 1
  (s.viewsOf p).zipIdx.any fun ((m, g, off), k) => g == 0xFF && m == n &&
    (match PD.mode r, s.stream n, s.stream p with
      | 0, some x, _ => reached l.pos (posCounts (s.diePos (Strm.encoder x.cfg)) (PD.openOffset r + off))
      | 1, _, some y => k != 0 && (match y.lineEver (y.nextCorr - 1) with
          | some q => reached l.pos (posCounts q.pos off)
          | none => true)
      | _, _, some y => if k = 0 then (s.scopeFloor n).elim false (fun f => decide (f ≤ l.index))
          else match (s.scopeFloor p).bind y.lineEver with
            | some q => reached l.pos (posCounts q.pos off)
            | none => true
      | _, _, none => false)

/-- A line of a stream can still join a part that opens later. -/
def State.future (s : State) (n : Nat) (l : CorrLine) : Bool :=
  match s.img.running with
  | some i => (i.kindOf 9 1).any fun r => s.futureLine r n l
  | none => false

/-- A row of a stripe job can still join a part that opens later (R264). -/
def State.laterPart (s : State) (j : Job) : Bool :=
  match s.stream j.stream with
  | some x => decide (x.nextCorr ≤ j.ownLast) ||
      x.known.any fun l => decide (j.ownFirst ≤ l.index) && decide (l.index ≤ j.ownLast) && s.future j.stream l
  | none => false

/-- A job belongs to the model that holds DETECT_OP, on a primary stream in object mode: it is never withdrawn (R264). -/
def State.detects (s : State) (j : Job) : Bool :=
  j.model == 0 && ((s.partDef j.stream).map fun r => PD.mode r == 2).getD false

/-- Forgets the reclaimed lines that no part still to open, no undecided part and no open object can count. -/
def State.forgetLines (s : State) (n : Nat) : State :=
  match s.stream n with
  | none => s
  | some x =>
      let keep (l : CorrLine) : Bool := decide (x.base ≤ l.index) && (s.future n l || decide (x.nextCorr ≤ l.index + 1) ||
        s.ledg.parts.any fun p => p.2.views.any fun v => v.local' && v.stream == n && !v.complete &&
          (v.first.isNone || v.covers n l.index l.index))
      s.setStream n { x with past := x.past.filter keep }

/-- Nobody needs a job any more. -/
def State.unneeded (s : State) (j : Job) : Bool :=
  match j.kind with
  | .stripe =>
      if j.model = 2 then !((s.servedBy j).any fun p => p.2.shadow && p.2.candBuf == j.aux)
      else !((s.servedBy j).any fun p => s.needs p.2 j.model) && !s.detects j && !s.laterPart j
  | .tail => match s.part j.slot with
      | some p => !s.needs p j.model
      | none => true
  | _ => false

/-- The lowest line that an open object of a stream holds, or whose members have not been taken. -/
def State.objectLow (s : State) (n : Nat) : Nat :=
  let t := Tab.getD s.ledg.objects n {}
  ((t.objs.flatMap (·.members)).map (·.line)).foldl min t.nextLine

/-- A committed stripe job's result may still be taken: its part's tail is to come, its part's
digests are not combined, or its members or history rows are wanted. -/
def State.resultWanted (s : State) (j : Job) : Bool :=
  s.laterPart j ||
  (s.servedBy j).any fun p => s.needs p.2 j.model ||
    s.sched.jobs.any (fun t => t.kind == .tail && t.slot == p.1 && t.model == j.model) ||
    (j.model == 0 && !p.2.settled && !p.2.void)

/-- Withdraws the work nobody needs, and forgets committed stripe jobs whose results nobody will
take. -/
def State.withdrawUnneeded (s : State) : State :=
  let gone := s.sched.jobs.filter fun j =>
    (j.kind == .stripe || j.kind == .tail) && j.result.isNone && s.unneeded j
  let s := gone.foldl (fun s j => s.withdraw j.id) s
  let old := s.sched.jobs.filter fun j => j.kind == .stripe && j.result.isSome && !s.resultWanted j
  { s with sched := { s.sched with
      jobs := s.sched.jobs.filter fun j => !old.any fun o => o.id == j.id } }

/-- A part decided, with what follows for the work that served it. -/
def State.afterDecision (s : State) : State := s.withdrawUnneeded.settleParts

/-! ### Tails (R200, R215) -/

/-- The operators of a model include an opcode. -/
def Image.hasOp (i : Image) (kind opcode : Nat) : Bool :=
  (i.ops kind).any fun k => Op.opcode (i.op k) == opcode

/-- The scope of a view is settled: its deep tail has been abandoned, its entries are written, or, where its stream
has no store, its deep tail has committed (R200). -/
def State.viewSettled (s : State) (p : Part) (view : Nat) (v : View) : Bool :=
  p.void || p.settled || p.histDone.contains view || ((s.histStore v.stream).isNone && v.deep.isSome)

/-- Every scope of a stream before a scope number is settled. -/
def State.settledBefore (s : State) (stream scope : Nat) : Bool :=
  s.ledg.parts.all fun (_, p) => p.handedIn || p.views.zipIdx.all fun (v, k) =>
    !v.local' || v.stream != stream || v.scope.elim true (fun q => decide (scope ≤ q)) || s.viewSettled p k v

/-- The scopes of a stream that have no number yet and whose first line is known, or that are complete without a line:
first line, PART_ID, slot and view. -/
def State.unnumbered (s : State) (n : Nat) : List (Nat × Nat × Nat × Nat) :=
  match s.stream n with
  | none => []
  | some x => s.ledg.parts.flatMap fun (slot, p) => if p.handedIn || p.imageGen != s.img.gen then [] else
      (p.views.zipIdx.filter fun (v, _) => v.local' && v.stream == n && v.scope.isNone &&
        (v.first.isSome || v.complete)).map fun (v, k) => (v.first.getD x.nextCorr, p.id.toNat, slot, k)

/-- A scope takes the next number of its stream; the record of its part and its tails show it. -/
def State.numberScope (s : State) (n slot view : Nat) : State :=
  let q := Tab.getD s.ledg.scopeNext n 0
  let s := { s with ledg := { s.ledg with scopeNext := Tab.put s.ledg.scopeNext n (q + 1) } }
  let s := s.updView slot view fun v => { v with scope := some q }
  let s : State := { s with sched := { s.sched with jobs := s.sched.jobs.map fun j =>
    if j.kind = .tail ∧ j.slot = slot ∧ j.view = view then { j with stripe := q } else j } }
  match s.part slot with
  | some p => if view = 0 ∧ p.scopeSeq ≠ q then s.updPart slot fun p => { p with scopeSeq := q } else s
  | none => s

/-- Scopes take their numbers in the order of their first line, then of their parts, as soon as no scope can come
before them any more (R200). -/
def State.numberScopes (s : State) (n : Nat) : State :=
  let due := (s.unnumbered n).filter fun c => (s.scopeFloor n).elim true fun f => decide (c.1 ≤ f)
  (due.mergeSort fun a b => !lexLt [b.1, b.2.1, b.2.2.2] [a.1, a.2.1, a.2.2.2]).foldl
    (fun s c => s.numberScope n c.2.2.1 c.2.2.2) s

/-- The number under which a view's tail looks into the store of a stream: that of its own scope, or of its part's
first view on that stream. -/
def Part.scopeOn (p : Part) (view n : Nat) : Option Nat :=
  match p.views[view]? with
  | none => none
  | some v => if v.stream = n then v.scope
      else ((p.views.find? fun w => w.local' && w.stream == n).elim v.scope (·.scope))

/-- The streams whose earlier scopes a view's tail waits for (R200, R214): its own where the model writes or looks up
history, and those of the stores it looks into. -/
def Image.waitStreams (i : Image) (model stream : Nat) : List Nat :=
  let looks := ((i.ops model).filter fun k => Op.opcode (i.op k) == 0x0203).map fun k => Op.haStream (i.op k)
  if i.hasOp model 0x0202 || !looks.isEmpty then (stream :: looks).dedup else []

/-- A tail may start: the scopes before its own are settled where it waits for them, and its number is known where
its core goes by it (R230). -/
def State.tailTurn (s : State) (i : Image) (p : Part) (view model : Nat) : Bool :=
  match p.views[view]? with
  | none => false
  | some v => (!(s.img.detMode || s.partDet p) || v.scope.isSome) &&
      (i.waitStreams model v.stream).all fun n => (p.scopeOn view n).elim false (s.settledBefore n)

/-- The stripe jobs that serve a view of a part for a model, in ascending stripe, then lane. -/
def State.serving (s : State) (p : Part) (v : View) (model : Nat) : List Job :=
  match s.stream v.stream with
  | none => []
  | some x =>
      let js := s.sched.jobs.filter fun j => j.kind == .stripe && j.model == model &&
        v.covers j.stream j.ownFirst j.ownLast && p.inLane x j.lane && (model != 2 || j.aux == p.candBuf)
      js.mergeSort fun a b => decide (a.ownFirst < b.ownFirst) ||
        (a.ownFirst == b.ownFirst && decide (a.lane ≤ b.lane))

/-- Every stripe job of a complete view's scope has committed. -/
def State.scopeCommitted (s : State) (p : Part) (v : View) (model : Nat) : Bool :=
  match s.stream v.stream, v.first with
  | some _, none => v.complete
  | some x, some f =>
      v.complete && (x.stripesIn f (v.lastKnown x)).all fun (o, j) =>
        (List.range x.lanes).all fun l => !p.inLane x l ||
          ((s.stripeJob v.stream (x.ownLines o j).1 l model p.candBuf).map
            fun y => y.result.isSome).getD false
  | _, _ => false

/-- The inputs of a queued command are complete (R125, R215). -/
def State.inputsDone (s : State) (c : Cmd) : Bool :=
  match s.job c.job with
  | none => false
  | some j =>
      let head := ((s.jobCmds j.id).head?.map fun h => h.id == c.id).getD false
      head && (match j.kind with
        | .stripe => match s.stream j.stream with
            | some x => decide (j.last ≤ x.nextCorr) || j.closedEnd || j.input.isSome
            | none => false
        | .tail => match s.part j.slot, s.img.running with
            | some p, some i => match p.views[j.view]? with
                | some v => s.scopeCommitted p v j.model && s.tailTurn i p j.view j.model
                | none => false
            | _, _ => false
        | _ => true)

/-- Queued commands whose inputs are complete and whose output has space become ready. -/
def State.readyCheck (s : State) : State :=
  (s.sched.cmds.filter fun c => c.st == .queued && c.spaceReserved && s.inputsDone c).foldl
    (fun s c => s.makeReady c.id) s

/-- The stage area reserves space for a command's output (R142). -/
def State.reserveSpace (s : State) (c : Nat) : State :=
  match s.cmd c with
  | some x => if x.st = .queued then
        (s.updCmd c fun x => { x with spaceReserved := true }).readyCheck
      else s
  | none => s

/-- Adds the tail job of a view of a part for a model. -/
def State.addTail (s : State) (slot view model : Nat) : State :=
  match s.part slot, s.img.running with
  | some p, some i =>
      if s.sched.jobs.any fun j => j.kind == .tail && j.slot == slot && j.view == view && j.model == model
      then s else
      match p.views[view]? with
      | none => s
      | some v =>
          let id := s.sched.nextJob
          let job : Job :=
            { id := id, kind := .tail, ctx := ctxOf p.stream model, model := model, stream := v.stream
              stripe := v.scope.getD p.scopeSeq, lane := 0, gen := p.imageGen, first := 0, last := 0, ownFirst := 0
              ownLast := 0, slot := slot, view := view, input := none, result := none, accepted := 0
              closedEnd := false, det := s.partDet p, by' := none
              aux := if model = 2 then p.candBuf else p.overlayGen }
          (i.stagesOf model true).foldl (fun s k => s.addCmd id k) (s.addJob job)
  | _, _ => s

/-- A view's scope is complete: the tails of the models the part needs are queued, and the part is
IMAGED once every view is complete (R257). -/
def State.viewComplete (s : State) (slot view : Nat) : State :=
  match s.part slot with
  | none => s
  | some p =>
      match p.views[view]? with
      | none => s
      | some v =>
          if v.complete then s else
          let s := (s.updView slot view fun v => { v with complete := true }).numberScopes v.stream
          let p := (s.part slot).getD p
          let s := if p.shadow then s.ensureStripes p v 2 p.candBuf else s
          let s := if p.shoalRan && p.undecided then s.ensureStripes p v 1 p.overlayGen else s
          let s := if s.needs p 0 then s.addTail slot view 0 else s
          let s := if s.needs p 1 then s.addTail slot view 1 else s
          let s := if p.shadow then s.addTail slot view 2 else s
          let s := match view, s.stream v.stream, v.last with
            | 0, some x, some l => match x.line l with
                | some ln => s.updPart slot fun p => { p with endPos := ln.pos }
                | none => s
            | _, _, _ => s
          let all := ((s.part slot).map fun p => p.views.all fun v => !v.local' || v.complete).getD false
          let s := if all && p.st == .open' then s.updPart slot fun p => { p with st := .imaged } else s
          s.readyCheck

/-! ### Predictions (R264) -/

/-- The remaining cost of a job's commands. -/
def State.jobCost (s : State) (j : Nat) : Nat :=
  (s.jobCmds j).foldl (fun t c => t + s.stageCost c.stage) 0

/-- The cost of the stages of a model. -/
def State.stagesCost (s : State) (model : Nat) (tail : Bool) : Nat :=
  match s.img.running with
  | some i => (i.stagesOf model tail).foldl (fun t k => t + s.stageCost k) 0
  | none => 0

/-- The lines a view's scope spans, as far as they can be counted. -/
def State.scopeLines (s : State) (p : Part) (v : View) : Nat :=
  match v.first, v.last with
  | some f, some l => l + 1 - f
  | _, _ =>
      let def' := (s.partDef p.stream).getD []
      if p.mode = 1 then PD.segmentLines def'
      else if p.mode = 0 then ceilDiv (PD.windowCounts def' * 256) (max 1 (s.pitchOf v.stream))
      else 0

/-- A view has its scores of a model. -/
def View.scored (v : View) (model : Nat) : Bool :=
  match model with
  | 0 => v.deep.isSome
  | _ => v.shoal.isSome

/-- The jobs of a model that serve the views of a part that have no scores yet. -/
def State.jobsFor (s : State) (slot : Nat) (p : Part) (model : Nat) : List Job :=
  (p.views.zipIdx.filter fun v => v.1.local' && !v.1.scored model).flatMap fun (v, k) =>
    s.serving p v model ++ s.sched.jobs.filter fun j =>
      j.kind == .tail && j.slot == slot && j.view == k && j.model == model

/-- The stripes of a view's scope, as far as they can be counted. -/
def State.scopeStripes (s : State) (p : Part) (v : View) (x : Stream) : Nat :=
  match v.first, v.last with
  | some f, some l => (x.stripesIn f l).length
  | _, _ => ceilDiv (s.scopeLines p v) (max 1 (Strm.stripeRows x.cfg))

/-- The cost of the commands of a model that a part needs and that do not exist yet: stripe jobs, one per lane of the
scope and stage, and the stages of tails. -/
def State.workToCome (s : State) (slot : Nat) (p : Part) (model : Nat) : Nat :=
  (p.views.zipIdx.filter fun v => v.1.local' && !v.1.scored model).foldl (fun t (v, k) =>
    match s.stream v.stream with
    | none => t
    | some x =>
        let lanes := ((List.range x.lanes).filter (p.inLane x)).length
        let missing := s.scopeStripes p v x * lanes - (s.serving p v model).length
        let tail := if s.sched.jobs.any fun j => j.kind == .tail && j.slot == slot && j.view == k && j.model == model
          then 0 else s.stagesCost model true
        t + missing * s.stagesCost model false + tail) 0

/-- W_m of a part: every uncommitted command of a model that the part still needs, whether it
exists yet or not. -/
def State.workOf (s : State) (slot : Nat) (p : Part) (model : Nat) : Nat :=
  ((s.jobsFor slot p model).foldl (fun t j => t + s.jobCost j.id) 0) + s.workToCome slot p model

/-- W_ahead: the remaining cost of class 0 commands with earlier keys than a part's cutoff, other
than the part's own. -/
def State.workAhead (s : State) (slot : Nat) (cut : Int) : Nat :=
  (s.sched.jobs.filter fun j => ctxClass j.ctx == 0 && j.result.isNone &&
      !(s.servedBy j).any (fun q => q.1 == slot) && keyLt (s.jobKey j) (some cut)).foldl
    (fun t j => t + s.jobCost j.id) 0

/-- The work for which a part's tails wait under R200: what earlier unsettled scopes of the streams still need of
the deep model, beyond what W_ahead counts. -/
def State.workWait (s : State) (slot : Nat) (p : Part) (model : Nat) (cut : Int) : Nat :=
  match s.img.running with
  | none => 0
  | some i =>
      let before' (q : Part) : Bool := p.views.zipIdx.any fun (v, k) => v.local' &&
        (i.waitStreams model v.stream).any fun n => q.views.zipIdx.any fun (w, m) =>
          w.local' && w.stream == n && !s.viewSettled q m w &&
          (match p.scopeOn k n, w.scope with
            | some a, some b => decide (b < a)
            | none, some _ => true
            | _, none => decide (q.id.toNat < p.id.toNat))
      let qs := s.ledg.parts.filter fun q => q.1 != slot && !q.2.handedIn && before' q.2
      let js := s.sched.jobs.filter fun j => j.result.isNone &&
        qs.any (fun q => (s.jobsFor q.1 q.2 0).any fun y => y.id == j.id) &&
        !(s.servedBy j).any (fun q => q.1 == slot) && !keyLt (s.jobKey j) (some cut)
      (js.foldl (fun t j => t + s.jobCost j.id) 0) + (qs.foldl (fun t q => t + s.workToCome q.1 q.2 0) 0)

/-- pred(m) as a TB1 time; none: no core is in service or none has a clock. -/
def State.pred (s : State) (slot : Nat) (p : Part) (model : Nat) (cut : Int) : Option Int :=
  let cores := (List.range 4).filter s.inService
  let mhz := cores.foldl (fun m n => match m with
    | 0 => (s.sched.core n).mhz
    | m => min m (s.sched.core n).mhz) 0
  if cores.isEmpty ∨ mhz = 0 then none else
  some ((s.now : Int) + ((s.workAhead slot cut + s.workWait slot p model cut + s.workOf slot p model) * 1000 : Nat) /
    ((cores.length * mhz : Nat) : Int))

/-- The shoal model runs for a part (R264): SHOAL_RAN, its stripe jobs and its tails. -/
def State.runShoal (s : State) (slot : Nat) : State :=
  let s := (s.updPart slot fun p => { p with shoalRan := true }).setFlag .ledgFlags [] 3
  match s.part slot with
  | none => s
  | some p =>
      let s := (p.views.filter fun v => v.local').foldl (fun s v => s.ensureStripes p v 1 p.overlayGen) s
      let s := (p.views.zipIdx.filter fun v => v.1.local' && v.1.complete).foldl
        (fun s v => s.addTail slot v.2 1) s
      s.readyCheck

/-- The cutoff rule (R265): an undecided part takes the default of SOURCE 3. -/
def State.lateDefault (s : State) (slot : Nat) : State := s.decideDefault slot 3 Code.late

/-- The cutoff of a part is passed: its channel has reached it and does not stand. -/
def State.cutoffPassedNow (s : State) (p : Part) : Bool :=
  !s.dieStopped p.encoder && reached (s.diePos p.encoder) p.cutoff

/-- The deadline test of one undecided part (R264). -/
def State.deadlineOf (s : State) (slot : Nat) : State :=
  match s.part slot with
  | none => s
  | some p =>
      if !p.undecided then s
      else if s.cutoffPassedNow p then s.lateDefault slot
      else
        match s.img.running, s.timeOf p.encoder p.cutoff with
        | some i, some cut =>
            if s.partDet p || (i.model 1).isNone || p.shoalRan || p.imageGen != s.img.gen then s else
            let late (x : Option Int) : Bool := match x with
              | none => true
              | some t => decide (cut < t)
            if late (s.pred slot p 0 cut) && !late (s.pred slot p 1 cut) then s.runShoal slot else s
        | _, _ => s

/-! ### Shoal holds (R138, R264) -/

/-- Gives back the shoal holds that no part can need: every part whose scope contains the line is
decided, no shoal command reads it, and no part that opens later could contain it. -/
def State.releaseShoal (s : State) : State :=
  s.cam.streams.foldl (fun s (n, x) =>
    let kept (l : CorrLine) : Bool :=
      (s.undecidedParts.any fun p => p.2.views.any fun v => v.covers n l.index l.index) ||
      (s.sched.jobs.any fun j => j.kind == .stripe && j.model == 1 && j.stream == n &&
        j.input.isNone && decide (j.first ≤ l.index) && decide (l.index < j.last)) || s.future n l
    s.setStream n (Stream.reclaim { x with
      lines := x.lines.map fun l => if l.shoalHold && !kept l then { l with shoalHold := false } else l })) s

/-! ### The monitor's tick (R263, R264, R271) -/

/-- Recomputes the cutoff of a part. -/
def State.refreshCutoff (s : State) (slot : Nat) : State :=
  match s.part slot with
  | none => s
  | some p =>
      let c := (s.seen p).cutoffOf (((s.seen p).partDef p.stream).getD []) p.encoder p.ejectPos
      if c = p.cutoff then s else
      let newest := s.ledg.parts.all fun q => q.2.handedIn || decide (q.2.id.toNat ≤ p.id.toNat) ||
        !p.streams.any q.2.streams.contains
      let s := s.updPart slot fun p => { p with cutoff := c }
      if newest then s.noteCutoff { p with cutoff := c } else s

/-- A part that is DECIDED and whose entries still wait is decided anew: its entries leave the queue (R271). -/
def State.undecide (s : State) (slot : Nat) : State :=
  match s.part slot with
  | none => s
  | some p =>
      if p.st == .decided && s.entriesWait slot then
        { s with motion := { s.motion with
            insertQueue := s.motion.insertQueue.filter fun q => q.1 != slot
            insertHold := s.motion.insertHold.filter fun q => q.1 != slot } }
          |>.notePart slot fun p => { p with st := .scored }
      else s

/-- A record whose DRAM copy is uncorrectable: a part not yet scheduled is decided by fault. The record itself is
rewritten at the part's next update, at RETIRED at the latest (R271). -/
def State.checkRecord (s : State) (slot : Nat) : State :=
  match s.badIn (ledgerBase + slot * 128) 128, s.part slot with
  | some g, some p =>
      if p.recordLost then s else
      let s := (s.reportUe g 0x40).notePart slot fun p => { p with recordLost := true }
      (s.undecide slot).decideDefault slot 5 Code.memoryUncorrectable
  | _, _ => s

/-- The deadline monitor's tick: cutoffs and predictions of every undecided part, the shoal holds
nobody needs, and damage found in the records. -/
def State.deadlineTick (s : State) : State :=
  let slots := s.undecidedParts.map Prod.fst
  let s := (s.liveParts.map Prod.fst).foldl (fun s k => s.checkRecord k) s
  let s := slots.foldl (fun s k => s.refreshCutoff k) s
  let s := slots.foldl (fun s k => s.deadlineOf k) s
  let s := (s.cam.streams.map Prod.fst).foldl (fun s n => s.forgetLines n) s
  s.releaseShoal.afterDecision

/-- The cutoff of one part is reported passed. -/
def State.cutoffEvent (s : State) (slot : Nat) : State :=
  match s.part slot with
  | some p => if p.undecided && s.cutoffPassedNow p then (s.lateDefault slot).afterDecision else s
  | none => s

/-! ### The end of a trial (R360, R365) -/

/-- Shadow work of a part ends without scores. -/
def State.cancelShadow (s : State) (slot : Nat) : State :=
  match s.part slot with
  | none => s
  | some p =>
      if !p.shadow then s else
      let s := s.updPart slot fun p => { p with shadow := false, candClass := 0xFF }
      let s := (s.count .shadowCancelled []).setFlag .trainFlags [] 3
      (s.settleCrops slot).afterDecision

/-- LIMIT_MS after DECIDED, unfinished shadow work is withdrawn. -/
def State.shadowLimit (s : State) (slot : Nat) : State :=
  match s.part slot with
  | some p =>
      let limit := match (s.seen p).imgRecord 15 4 p.stream with
        | some r => leAt r 0x10 4
        | none => 0
      if p.shadow && !p.undecided && decide (p.decidedTb1 + limit * 1000000 ≤ s.now) then
        s.cancelShadow slot
      else s
  | none => s

/-- Every undecided part of a channel faults: its position is lost (R271). -/
def State.positionLost (s : State) (enc : Nat) : State :=
  ((s.undecidedParts.filter fun p => p.2.encoder == enc).foldl
    (fun s p => s.decideDefault p.1 5 Code.positionLost) s).afterDecision

end Sys2Proof.Machine
end

