-- ==== Sys2Proof/Machine/Joined.lean ====
section
/-! DEFINITION. Joined scores in the record of a part, and the tally of a shadow trial
(10_ledger_and_deadlines.md R260, 14_fine_tuning_and_shadow.md R360). -/

namespace Sys2Proof.Machine

/-- The SOURCE of the adaptation block in event records (R530). -/
abbrev adaptSource : Nat := 14

/-! ### The tally of a trial (R360) -/

/-- A trialled part has both classes: it counts in the tally; classes that differ are reported. -/
def State.tallyPart (s : State) (p : Part) : State :=
  let k := p.deepClass * 16 + p.candClass
  let n := (Tab.getD s.train.tally k 0 + 1) % 2 ^ 32
  let s := { s with train := { s.train with tally := Tab.put s.train.tally k n } }
  let s := if s.train.tallyBase = 0 then s else s.store (s.train.tallyBase + 4 * k) (natLe 4 n)
  if p.deepClass = p.candClass then s
  else (s.count .shadowDisagree []).log { info adaptSource with arg0 := p.id }

/-- The joined scores of a model go into the record (R260). -/
def State.recordJoined (s : State) (slot model : Nat) : State :=
  match s.part slot with
  | none => s
  | some p => match s.joined p model with
      | none => s
      | some sc =>
          let (w, c) : Word × Nat := match winner sc with
            | some (c, v) => (n32 (roundFloat 0x14 true v).1, c)
            | none => (0x7FC00000, 0xFF)
          match model with
          | 0 =>
              let s := s.updPart slot fun p => { p with scoreDeep := w, deepClass := c }
              if c ≠ 0xFF ∧ p.candClass ≠ 0xFF ∧ p.deepClass = 0xFF then
                s.tallyPart { p with deepClass := c }
              else s
          | 1 => s.updPart slot fun p => { p with scoreShoal := w, shoalClass := c }
          | _ =>
              let s := s.updPart slot fun p => { p with scoreCand := w, candClass := c, shadow := false }
              let s := if c = 0xFF then s else s.count .shadowRun []
              let s := if c ≠ 0xFF ∧ p.deepClass ≠ 0xFF then s.tallyPart { p with candClass := c } else s
              s.settleCrops slot

end Sys2Proof.Machine
end

