-- ==== Sys2Proof/Machine/Scope.lean ====
section
/-! DEFINITION. How corrected lines become stripe jobs, line references and the scopes of parts:
what follows when a line leaves the line pipe, when a stream closes or takes an origin, when a
window ends or an object closes (05_stripes_and_layouts.md R123 to R138, 10_ledger_and_deadlines.md R250 to R254). -/

namespace Sys2Proof.Machine

/-! ### Stripe jobs as lines arrive -/

/-- The first line a stripe of an origin reads. -/
def Stream.readFirst (x : Stream) (o j : Nat) : Nat :=
  max o (o + j * max 1 (Strm.stripeRows x.cfg) - Strm.haloBefore x.cfg)

/-- Queues the stripe jobs whose read range begins with a line: the deep model's always, the shoal
model's and the candidate's where a part that holds some of the stripe's own lines runs them. -/
def State.startStripes (s : State) (stream k : Nat) : State :=
  match s.stream stream, s.img.running with
  | some x, some i =>
      let o := x.originOf k
      let rows := max 1 (Strm.stripeRows x.cfg)
      let top := (k - o + Strm.haloBefore x.cfg) / rows + 1
      let js := (List.range (top + 1)).filter fun j => x.readFirst o j == k
      js.foldl (fun s j => (List.range x.lanes).foldl (fun s l =>
        let first := (x.ownLines o j).1
        let s := if i.inModel 0 stream && (s.stripeJob stream first l 0 0).isNone then
            s.addStripe stream o j l 0 (x.ovlAt k) else s
        s) s) s
  | _, _ => s

/-- Queues the shoal and candidate stripe jobs that parts already asked for, once one of their own
lines is there. -/
def State.startAsked (s : State) (stream : Nat) : State :=
  (s.liveParts.filter fun p => (p.2.shoalRan && p.2.undecided) || p.2.shadow).foldl (fun s (_, p) =>
    (p.views.filter fun v => v.local' && v.stream == stream && !v.complete).foldl (fun s v =>
      let s := if p.shoalRan && p.undecided then s.ensureStripes p v 1 p.overlayGen else s
      if p.shadow then s.ensureStripes p v 2 p.candBuf else s) s) s

/-- A new line takes the references of every stripe job that reads it, of its shoal hold, and of
the crops that cover it (R138). -/
def State.takeRefs (s : State) (stream k : Nat) : State :=
  let jobs := (s.sched.jobs.filter fun j => j.kind == .stripe && j.stream == stream &&
    j.input.isNone && decide (j.first ≤ k) && decide (k < j.last)).map (·.id)
  let crops := (s.cap.crops.filter fun c => c.stream == stream && s.cropCovers c k).map (·.id)
  let hold : Bool := match s.img.running with
    | some i => (i.model 1).isSome && !s.img.detMode
    | none => false
  s.updStream stream fun x => { x with lines := x.lines.map fun l =>
    if l.index = k then { l with
      jobs := l.jobs ++ jobs.filter fun j => !l.jobs.contains j
      crops := l.crops ++ crops.filter fun c => !l.crops.contains c
      shoalHold := hold } else l }

/-- The scopes of parts take the mode in force when their first stripe job becomes ready (R264,
R311). -/
def State.fixModes (s : State) (stream : Nat) : State :=
  match s.stream stream with
  | none => s
  | some x =>
      let ready := s.sched.jobs.filter fun j => j.kind == .stripe && j.stream == stream &&
        (decide (j.last ≤ x.nextCorr) || j.closedEnd)
      { s with ledg := { s.ledg with parts := s.ledg.parts.map fun (k, p) =>
          if p.det.isNone && ready.any (fun j => j.serves p) then
            (k, { p with det := some s.img.detMode }) else (k, p) } }

/-! ### Parts and lines -/

/-- A position lies in a part-mode view's window. -/
def inWindow (p : Part) (off : Int) (q : Pos) : Bool :=
  reached q (posCounts p.refPos off) && !reached q (posCounts p.windowEnd off)

/-- The offset of a view. -/
def State.viewOffset (s : State) (p : Part) (view : Nat) : Int :=
  (((s.seen p).viewsOf p.stream)[view]?.map fun v => v.2.2).getD 0

/-- A view's first scope line is there: its scope can take its number, and START_POS takes its position in view 0. -/
def State.viewFirst (s : State) (slot view : Nat) (l : CorrLine) : State :=
  let s := s.updView slot view fun v => { v with first := some l.index }
  let s := if view = 0 then s.updPart slot fun p => { p with startPos := l.pos } else s
  let s := ((s.part slot).bind fun p => p.views[view]?).elim s fun v => s.numberScopes v.stream
  s.cropRefs slot

/-- A view's last scope line is known and emitted. -/
def State.viewLast (s : State) (slot view last : Nat) : State :=
  (s.updView slot view fun v => { v with last := some last }).viewComplete slot view

/-- An unusable line in a view's scope damages the view, and the part is decided at once (R262). -/
def State.lineDamage (s : State) (slot view : Nat) (l : CorrLine) : State :=
  if l.cause = 0 then s else (s.damageView slot view l.cause).judge slot

/-- The position up to which a web or object part's own scope is known: its end once view 0 is complete, before that
the last line of view 0 that is there. -/
def State.ownReach (s : State) (p : Part) : Option Pos :=
  match p.views[0]? with
  | none => none
  | some v =>
      if v.complete then some p.endPos else
      match s.stream v.stream, v.first with
      | some x, some _ => (x.lineEver (min (v.last.getD (x.nextCorr - 1)) (x.nextCorr - 1))).map (·.pos)
      | _, _ => none

/-- A line meets a further view of a web or object part: the view's scope is that of view 0, an offset on (R259). A line
beyond what is known of it waits. -/
def State.lineInSecond (s : State) (slot view : Nat) (l : CorrLine) : State :=
  match s.part slot, (s.part slot).bind fun p => p.views[view]? with
  | some p, some v =>
      let off := s.viewOffset p view
      let ended := ((p.views[0]?).map (·.complete)).getD false
      let stop := posCounts p.endPos off
      if v.complete ∨ !reached l.pos (posCounts p.startPos off) then s
      else if ended && reached l.pos stop then
        if l.pos = stop then
          let s := if v.first.isNone then s.viewFirst slot view l else s
          (s.lineDamage slot view l).viewLast slot view l.index
        else if v.first.isNone then s.viewComplete slot view
        else s.viewLast slot view (l.index - 1)
      else if ((s.ownReach p).map fun q => reached (posCounts q off) l.pos).getD false then
        let s := if v.first.isNone then s.viewFirst slot view l else s
        s.lineDamage slot view l
      else s
  | _, _ => s

/-- The known lines of a stream meet a further view, from its first line on. -/
def State.scanSecond (s : State) (slot view : Nat) : State :=
  match (s.part slot).bind fun p => p.views[view]? with
  | none => s
  | some v => match s.stream v.stream with
      | some x => (x.known.filter fun l => (v.first.elim true fun f => decide (f ≤ l.index))).foldl
          (fun s l => s.lineInSecond slot view l) s
      | none => s

/-- The further local views of a web or object part. -/
def State.secondViews (s : State) (slot : Nat) : State :=
  match s.part slot with
  | none => s
  | some p => if p.mode = 0 then s else
      (p.views.zipIdx.filter fun (v, k) => v.local' && k != 0 && !v.complete).foldl (fun s v => s.scanSecond slot v.2) s

/-- A line meets one view of one part. -/
def State.lineInView (s : State) (slot view : Nat) (l : CorrLine) : State :=
  match s.part slot with
  | none => s
  | some p => match p.views[view]? with
      | none => s
      | some v =>
          if v.complete then s else
          let off := s.viewOffset p view
          let sameOrigin : Bool := match v.first, s.stream v.stream with
            | some f, some x => x.originOf f == x.originOf l.index
            | _, _ => true
          if !sameOrigin then (s.viewLast slot view (l.index - 1)).secondViews slot else
          match p.mode with
          | 0 =>
              if inWindow p off l.pos then
                let s := if v.first.isNone then s.viewFirst slot view l else s
                s.lineDamage slot view l
              else if v.first.isSome && reached l.pos (posCounts p.windowEnd off) then
                s.viewLast slot view (l.index - 1)
              else s
          | _ =>
              if view = 0 ∧ p.mode = 2 then s
              else if view = 0 then
                let s := s.lineDamage slot view l
                (match v.last with
                  | some e => if e ≤ l.index then s.viewLast slot 0 e else s
                  | none => s).secondViews slot
              else s.lineInSecond slot view l

/-- A line meets every part that looks at its stream. -/
def State.lineInParts (s : State) (stream : Nat) (l : CorrLine) : State :=
  (s.liveParts.filter fun p => p.2.views.any fun v => v.local' && v.stream == stream && !v.complete).foldl
    (fun s (slot, p) => (p.views.zipIdx.filter fun v => v.1.local' && v.1.stream == stream).foldl
      (fun s v => s.lineInView slot v.2 l) s) s

/-- A web segment opens with its first line (R253). -/
def State.webOpen (s : State) (stream : Nat) (l : CorrLine) : State :=
  match s.partDef stream, s.stream stream with
  | some r, some x =>
      if PD.mode r ≠ 1 then s else
      let n := max 1 (PD.segmentLines r)
      let o := x.originOf l.index
      if (l.index - o) % n ≠ 0 then s else
      let (s, slot) := s.openPart stream l.pos fun p => { p with
        views := listUpd p.views 0 fun v => { v with first := some l.index, last := some (l.index + n - 1) }
        overlayGen := x.ovlAt l.index }
      (match slot with
        | some k => ((s.numberScopes stream).cropRefs k).secondViews k
        | none => s)
  | _, _ => s

/-- A presence edge opens a part of each definition of some streams that names it (R252). Lines of its
window that have been emitted belong to it. -/
def State.openAtEdge (s : State) (input : Nat) (active : Bool) (pos : Pos) (streams : Nat → Bool) : State :=
  match s.img.running with
  | none => s
  | some i =>
      (i.kindOf 9 1).foldl (fun s r =>
        let stream := byteAt r 1
        if PD.mode r ≠ 0 ∨ PD.presenceDi r ≠ input ∨ PD.falling r == active ∨ !streams stream then s else
        let ref := posCounts pos (PD.openOffset r)
        let (s, slot) := s.openPart stream ref fun p => { p with
          windowEnd := posCounts ref (PD.windowCounts r) }
        match slot with
        | none => s
        | some k =>
            (s.viewsOf stream).zipIdx.foldl (fun s (v, n) =>
              match v.2.1 == 0xFF, s.stream v.1 with
              | true, some x => x.known.foldl (fun s l => s.lineInView k n l) s
              | _, _ => s) s) s

/-- A presence edge. Streams past their boundary of an apply take it when the new image runs: their parts
are the new image's (R61, R64). -/
def State.presenceEdge (s : State) (input : Nat) (active : Bool) (pos : Pos) : State :=
  let s := match s.img.apply with
    | none => s
    | some a =>
        let waiting := a.boundaries.map Prod.fst
        if waiting.isEmpty then s else
        { s with img := { s.img with
          apply := some { a with edges := a.edges ++ [(input, active, pos, waiting)] } } }
  s.openAtEdge input active pos fun n => !s.inGap n

/-- The positions of the lines whose triggers were given and that have not arrived (R84). -/
def Stream.awaited (x : Stream) : List Pos :=
  (x.sentTrigs.drop (x.sentTrigs.length - (x.sent - x.paired)) ++ x.trigQueue).map (·.pos)

/-- No line of a stream that lies in a window is still to arrive or on its way through the pipe. -/
def Stream.clearOf (x : Stream) (p : Part) (off : Int) : Bool := !(x.inFlight ++ x.awaited).any (inWindow p off)

/-- A part-mode view whose window has been passed is complete once its last line has left the
pipe, with no line at all where none lies in the window (R252). -/
def State.windowCheck (s : State) (slot view : Nat) : State :=
  match s.part slot with
  | none => s
  | some p => match p.views[view]? with
      | none => s
      | some v => match s.stream v.stream with
          | none => s
          | some x =>
              if v.passed && !v.complete && x.clearOf p (s.viewOffset p view) then
                if v.first.isSome then s.viewLast slot view (x.nextCorr - 1) else s.viewComplete slot view
              else s

/-- Windows that a stream's pipe may have finished. -/
def State.windowsOf (s : State) (stream : Nat) : State :=
  s.liveParts.foldl (fun s (slot, p) => (p.views.zipIdx.filter fun v =>
    v.1.stream == stream && v.1.passed && !v.1.complete).foldl
      (fun s v => s.windowCheck slot v.2) s) s

/-- A view's channel has passed the end of its window (R252). -/
def State.windowEnd (s : State) (slot view : Nat) : State :=
  match s.part slot with
  | none => s
  | some p =>
      if p.mode ≠ 0 ∨ !reached (s.diePos p.encoder) (posCounts p.windowEnd (s.viewOffset p view)) then s
      else (s.updView slot view fun v => { v with passed := true }).windowCheck slot view
        |>.readyCheck.afterDecision

/-! ### Closings and origins (R124) -/

/-- Stripe jobs that reach over the end of the lines before an origin end there. -/
def State.cutJobs (s : State) (stream stop : Nat) : State :=
  { s with sched := { s.sched with jobs := s.sched.jobs.map fun j =>
      if j.kind = .stripe ∧ j.stream = stream ∧ stop < j.last ∧ j.first < stop then
        { j with last := stop, ownLast := min j.ownLast (stop - 1) }
      else j } }

/-- Stripe jobs all of whose own lines lie past the end go. -/
def State.dropEmptyJobs (s : State) (stream stop : Nat) : State :=
  (s.sched.jobs.filter fun j => j.kind == .stripe && j.stream == stream && decide (stop ≤ j.ownFirst)
    && j.input.isNone).foldl (fun s j => s.withdraw j.id) s

/-- Views that a closing completes: web segments are cut short and carry SHORT; a part-mode view
with a line ends at the last one (R252, R253). -/
def State.closeViews (s : State) (stream stop : Nat) : State :=
  s.liveParts.foldl (fun s (slot, p) => (p.views.zipIdx.filter fun v =>
      v.1.local' && v.1.stream == stream && !v.1.complete).foldl (fun s (v, k) =>
    if v.first.isNone then s else
    let s := if p.mode = 1 && k == 0 then s.updPart slot fun p => { p with short := true } else s
    (s.viewLast slot k (stop - 1)).secondViews slot) s) s

/-! ### Objects (R254) -/

/-- Object mode of a stream. -/
def State.objects (s : State) (n : Nat) : ObjState := Tab.getD s.ledg.objects n {}

/-- Changes object mode of a stream. -/
def State.updObjects (s : State) (n : Nat) (f : ObjState → ObjState) : State :=
  { s with ledg := { s.ledg with objects := Tab.updD s.ledg.objects n {} f } }

/-- The columns of an object's members: first and last. -/
def Obj.columns (o : Obj) : Nat × Nat :=
  let c := (o.members.headD ⟨0, 0, 0⟩).col
  o.members.foldl (fun (a, b) m => (min a m.col, max b m.col)) (c, c)

/-- The object position: the exact mean of the member positions, rounded half up to 1/256 count. -/
def Obj.position (o : Obj) : Pos :=
  let p := (o.members.headD ⟨0, 0, 0⟩).pos
  let sum := o.members.foldl (fun t m => t + posSub m.pos p) (0 : Int)
  posAdd p (halfUp ((sum : Rat) / ((max 1 o.members.length : Nat) : Rat)))

/-- LATERAL: the exact mean of the member columns, rounded half up to 1/256. -/
def Obj.lateral (o : Obj) : Word :=
  let sum := o.members.foldl (fun t m => t + m.col) 0
  n32 (halfUp (((256 * sum : Nat) : Rat) / ((max 1 o.members.length : Nat) : Rat))).toNat

/-- The deep results that serve a part's view damage it. -/
def State.resultDamage (s : State) (slot view : Nat) : State :=
  match s.part slot with
  | none => s
  | some p => match p.views[view]? with
      | none => s
      | some v =>
          let c := firstCause (((s.serving p v 0).filterMap (·.result)).map (·.cause))
          if c = 0 then s else s.damageView slot view c

/-- An object closes and opens its part (R254); `next` is the first line whose members have not been
taken. The scope is clipped to the stream: to its columns, and to the run of lines it lies in. -/
def State.closeObject (s : State) (n next : Nat) (o : Obj) : State :=
  match s.partDef n, s.stream n with
  | some r, some x =>
      let (l0, l1) := o.span
      let (c0, c1) := o.columns
      let lo := max (x.originOf l0) (l0 - PD.mergeLines r)
      let hi := min (next - 1) (l1 + PD.mergeLines r)
      let info := (s.objects n).linePos
      let posOf (k : Nat) : Pos := ((info.find? fun l => l.1 == k).map fun l => l.2.1).getD 0
      let unusable := firstCause ((info.filter fun l => decide (lo ≤ l.1) && decide (l.1 ≤ hi)).map
        fun l => l.2.2)
      let (s, slot) := s.openPart n o.position fun p => { p with
        startPos := posOf lo, endPos := posOf hi, colFirst := c0 - PD.mergeCols r
        colLast := min (x.columns - 1) (c1 + PD.mergeCols r), lateral := o.lateral, short := o.short
        overlayGen := x.ovlAt l0
        views := listUpd p.views 0 fun v => { v with first := some lo, last := some hi } }
      match slot with
      | none => s
      | some k =>
          let s := s.cropRefs k
          let s := match s.part k with
            | some p => match (p.views[0]?).bind fun v => (s.serving p v 0).head? with
                | some j => { s with ledg := { s.ledg with
                    parts := Tab.upd s.ledg.parts k fun p => { p with det := some j.det } } }
                | none => s
            | none => s
          let s := s.viewComplete k 0
          let s := s.secondViews k
          let s := if unusable = 0 then s else s.damageView k 0 unusable
          (s.resultDamage k 0).judge k
  | _, _ => s

/-- The objects of a stream that close, in the order in which they opened. -/
def State.closeObjects (s : State) (n next : Nat) (os : List Obj) : State :=
  let s := s.updObjects n fun t => { t with objs := t.objs.filter fun o => !os.any (fun c => c.order == o.order) }
  os.foldl (fun s o => s.closeObject n next o) s

/-- Every member of a run of lines has been taken: no later line can reach its objects, and they close. -/
def State.closeRun (s : State) (n : Nat) : State :=
  match s.stream n with
  | none => s
  | some x =>
      let t := s.objects n
      if t.nextLine = x.originOf t.nextLine then s.closeObjects n t.nextLine t.objs
      else s

/-- A stream ends a run of lines: the next line to arrive has a new origin, and nothing reads
across it. Lines still in the pipe come before it. -/
def State.endRun (s : State) (stream : Nat) : State :=
  match s.stream stream with
  | none => s
  | some x =>
      let stop := x.nextCorr + x.corrInFlight
      if x.origins.contains stop then s else
      let s := s.updStream stream fun x => { x with origins := x.origins ++ [stop] }
      let s := (s.dropEmptyJobs stream stop).cutJobs stream stop
      let s := if stop = x.nextCorr then s.closeViews stream stop else s
      let s := ((s.fixModes stream).closeRun stream).numberScopes stream
      s.readyCheck.queueCrops.afterDecision

/-! ### Lines leaving the pipe -/

/-- What follows when a corrected line is there (R138, R250 to R254). -/
def State.lineArrives (s : State) (stream : Nat) (l : CorrLine) : State :=
  let s := s.updStream stream fun x => { x with
    lines := x.lines ++ [l], nextCorr := l.index + 1, peakHeld := max x.peakHeld (l.index + 1 - x.heldPoint) }
  let s := s.webOpen stream l
  let s := s.lineInParts stream l
  let s := s.startStripes stream l.index
  let s := s.startAsked stream
  let s := s.takeRefs stream l.index
  let s := s.updStream stream Stream.reclaim
  let s := s.windowsOf stream
  let s := if ((s.stream stream).map fun x => x.origins.contains (l.index + 1)).getD false then
      s.closeViews stream (l.index + 1) else s
  let s := (s.fixModes stream).forgetLines stream
  let s := s.readyCheck
  (s.queueCrops).afterDecision

/-- A view's scope extends past the lines its stream has before a boundary: a window that has not
ended, a segment whose last line is not among them, a region that ends beyond them. -/
def State.extendsPast (s : State) (p : Part) (view : Nat) (v : View) (x : Stream) : Bool :=
  let stop := x.nextCorr + x.corrInFlight
  if p.mode = 0 then !v.passed
  else if view = 0 then p.mode == 1 && v.last.elim true (fun e => decide (stop ≤ e))
  else
    let ended := ((p.views[0]?).map (·.complete)).getD false
    match ((x.lines.map (·.pos)) ++ (x.readyLines ++ x.binGroup ++ x.align).map (·.pos) ++
        x.rawLines.map (·.pos)).getLast? with
    | some q => !(ended && reached q (posCounts p.endPos (s.viewOffset p view)))
    | none => true

/-- The parts whose scope a stream boundary cuts: one whose lines extend past it is damaged with
APPLY_CUT (R61, R62). -/
def State.cutParts (s : State) (stream : Nat) : State :=
  match s.stream stream with
  | none => s
  | some x =>
      (s.undecidedParts.foldl (fun s (slot, p) => (p.views.zipIdx.filter fun v =>
          v.1.local' && v.1.stream == stream && !v.1.complete && s.extendsPast p v.2 v.1 x).foldl
        (fun s v => (s.damageView slot v.2 Code.applyCut).judge slot) s) s).afterDecision

end Sys2Proof.Machine
end

