-- ==== Sys2Proof/Machine/Motion.lean ====
section
/-! DEFINITION. The eject list and the near windows, firing, ratio dividers, and what crosses the
barrier (11_encoders_and_eject.md R287 to R301, R571; 19_field_io.md R470 to R475). -/

namespace Sys2Proof.Machine

/-! ### The list (R292, R294) -/

/-- The bytes of a list entry. -/
def Eject.bytes (e : Eject) : Bytes :=
  natLe 8 e.seq ++ natLe 8 e.pos.toNat ++ natLe 8 e.mask.toNat ++ natLe 8 e.failMask.toNat ++
  natLe 8 e.partId.toNat ++ natLe 1 e.encoder ++ natLe 1 e.shape ++ natLe 1 e.failShape ++
  natLe 1 e.st ++ natLe 4 e.lateCounts ++ natLe 8 e.fired.toNat ++ natLe 8 e.seq

/-- Updates a list entry and its copy in DRAM. -/
def State.putEntry (s : State) (slot : Nat) (e : Eject) : State :=
  let e := { e with seq := e.seq + 1 }
  ({ s with motion := { s.motion with list := Tab.put s.motion.list slot e } } : State).store
    (ejectBase + 64 * slot) e.bytes

/-- A new entry takes a slot: the slot's SEQ goes on. -/
def State.placeEntry (s : State) (slot : Nat) (e : Eject) : State :=
  s.putEntry slot { e with seq := ((Tab.get s.motion.list slot).map (·.seq)).getD 0 }

/-- An entry ends in a final STATE, which its part counts (R300). -/
def State.endEntry (s : State) (slot : Nat) (e : Eject) (st : Nat) (time : BitVec 64) : State :=
  let was := b2n (e.st == 5 || e.st == 7)
  let done : Eject := { e with st := st, fired := time }
  (s.putEntry slot done).notePart e.partSlot fun p => if p.id ≠ e.partId then p else { p with
    firedEntries := p.firedEntries + b2n done.didFire
    endedEntries := p.endedEntries + b2n done.didNot - was }

/-- An entry is pending: STATE 1 or 2. -/
def Eject.pending (e : Eject) : Bool := e.st == 1 || e.st == 2

/-- The slots of pending entries, ascending. -/
def State.pendingSlots (s : State) : List Nat :=
  (s.motion.list.filter fun e => e.2.pending).map Prod.fst

/-- Order of entries of one encoder: POSITION, then PART_ID, then entry index (R294). -/
def Eject.before (a b : Eject) : Bool :=
  let d := posSub a.pos b.pos
  if d < 0 then true else if 0 < d then false
  else lexLt [a.partId.toNat, a.index] [b.partId.toNat, b.index]

/-- The pending entries of a channel in order. -/
def State.pendingOf (s : State) (enc : Nat) : List (Nat × Eject) :=
  (s.motion.list.filter fun e => e.2.pending && e.2.encoder == enc).mergeSort
    fun a b => !b.2.before a.2

/-! ### Near windows (R299) -/

/-- The near window of a channel. -/
def State.window (s : State) (enc : Nat) : List WinEntry := Tab.getD s.motion.windows enc []

/-- Puts a window back. -/
def State.setWindow (s : State) (enc : Nat) (w : List WinEntry) : State :=
  { s with motion := { s.motion with windows := Tab.put s.motion.windows enc w } }

/-- The list slots that a channel's window will hold once every transfer is made. -/
def State.plannedWindow (s : State) (enc : Nat) : List Nat :=
  s.motion.transfers.foldl (fun w (ins, ch, slot) =>
    if ch ≠ enc then w else if ins then w ++ [slot] else w.filter (· != slot))
    ((s.window enc).map (·.slot))

/-- An entry read out of the list whose granule is uncorrectable is rebuilt from its part record and recipe;
where the record is unreadable too, it ends in STATE 5 with EJECT_MISSED (17_memory.md R443). -/
def State.readEntry (s : State) (slot : Nat) : State :=
  match s.badIn (ejectBase + 64 * slot) 64, Tab.get s.motion.list slot with
  | some g, some e =>
      let s := s.reportUe g 0x40
      if (s.badIn (ledgerBase + 128 * e.partSlot) 128).isNone then s.putEntry slot e
      else
        let s := s.endEntry slot e 5 0
        (s.flagLog .ejFlags [] 0 { errorRec 13 with status := Code.ejectMissed, arg0 := e.partId }).count
          .ejMissedCnt []
  | some g, none => s.reportUe g 0x40
  | none, _ => s

/-- Queues the transfers that bring the 1,024 pending entries of lowest order into a channel's
window; an entry displaced goes back first. -/
def State.planWindow (s : State) (enc : Nat) : State :=
  let have' := s.plannedWindow enc
  let s := ((((s.pendingOf enc).take 1024).map Prod.fst).filter fun k => !have'.contains k).foldl
    (fun s k => s.readEntry k) s
  let want := ((s.pendingOf enc).take 1024).map Prod.fst
  let out := (have'.filter fun k => !want.contains k && s.pendingSlots.contains k).map
    fun k => (false, enc, k)
  let into := (want.filter fun k => !have'.contains k).map fun k => (true, enc, k)
  { s with motion := { s.motion with transfers := s.motion.transfers ++ out ++ into } }

/-- Plans every channel's window. -/
def State.planWindows (s : State) : State := (List.range 8).foldl (fun s e => s.planWindow e) s

/-! ### Insertion (R294, R295) -/

/-- The first `n` slots without a pending entry. -/
def freeSlots (used : List Nat) : Nat → Nat → List Nat
  | 0, _ => []
  | n + 1, k =>
      let f := lowestFree k used
      f :: freeSlots used n (f + 1)

/-- The list manager reads the ordering structure: what is uncorrectable in it is read from the other copy
and rewritten (R443). -/
def State.readOrder (s : State) : State :=
  (s.mc.bad.filter fun g => decide (orderBase ≤ g) && decide (g < libIndexBase)).foldl
    (fun s g => s.reportUe g 0x40) s

/-- Parts held back by a full queue enter it as far as it has room, and then the deciding block goes on with the
decisions that waited (R294). -/
def State.pumpDecide (s : State) : Nat → State
  | 0 => s
  | fuel + 1 =>
      match s.motion.insertHold, s.motion.decideWait with
      | (slot, es) :: rest, _ =>
          if s.queueRoom es then
            State.pumpDecide { s with motion := { s.motion with
              insertHold := rest, insertQueue := s.motion.insertQueue ++ [(slot, es)] } } fuel
          else s
      | [], d :: rest =>
          (({ s with motion := { s.motion with decideWait := rest } } : State).decidePart d.1 d.2.1 d.2.2.1 d.2.2.2)
            |>.pumpDecide fuel
      | [], [] => s

/-- The list manager takes the entries of the part at the head of the insertion queue. -/
def State.takeInsert (s : State) : State :=
  match s.motion.insertQueue with
  | [] => s
  | (slot, es) :: rest =>
      let s := s.readOrder
      let s := { s with motion := { s.motion with insertQueue := rest } }
      let id : BitVec 64 := match s.part slot with
        | some p => p.id
        | none => 0
      let s := (es.filter fun e => e.mask == 0).foldl (fun s _ =>
        s.flagLog .ejFlags [] 3 { warning 13 with status := Code.ejectNoValve, arg0 := id }) s
      let es := es.filter fun e => e.mask != 0
      let used := s.pendingSlots
      if es.isEmpty then s.settlePart slot
      else if 2097152 < used.length + es.length then
        (s.flagLog .ejFlags [] 2 { errorRec 13 with status := Code.ejectListFull, arg0 := id }).settlePart slot
      else
        let slots := freeSlots used es.length 0
        let s := (slots.zip es).foldl (fun s (k, e) => s.placeEntry k e) s
        let s := { s with motion := { s.motion with inserted := s.motion.inserted + es.length } }
        let s := s.updPart slot fun p => { p with st := .scheduled, entries := es.length }
        s.planWindows.settlePart slot

/-- Waiting parts: those in the hold, and the decisions behind them. -/
def State.waitingParts (s : State) : Nat := s.motion.insertHold.length + s.motion.decideWait.length

/-- The list manager takes one part's entries, and those that waited for room move up. -/
def State.ejectInsert (s : State) : State :=
  if s.waitingParts = 0 then s.takeInsert
  else (s.takeInsert.pumpDecide (2 * s.waitingParts)).afterDecision

/-- Ends entries in STATE 7: every pending one, and every queued one, which is inserted and at once
ended. Both window copies are cleared (R571). -/
def State.discardAll (s : State) : State :=
  let queued := s.motion.insertQueue ++ s.motion.insertHold
  let s := { s with motion := { s.motion with insertQueue := [], insertHold := [], windows := [], transfers := [], applied := [] } }
  let s := (s.motion.list.filter fun e => e.2.pending).foldl
    (fun s (k, e) => s.endEntry k e 7 e.fired) s
  let s := queued.foldl (fun s (slot, es) =>
    let es := es.filter fun e => e.mask != 0
    let slots := freeSlots s.pendingSlots es.length 0
    let s := (slots.zip es).foldl (fun s (k, e) => s.placeEntry k { e with st := 7 }) s
    if es.isEmpty then s else s.updPart slot fun p => { p with
      st := .scheduled, entries := es.length, endedEntries := es.length }) s
  (s.pumpDecide (2 * s.waitingParts)).settleParts

/-- LIST_CTRL.CLEAR by a seat. -/
def State.listClear (s : State) (seat : Nat) : State :=
  (s.discardAll).flagLog .ejFlags [] 7 { warning 13 with initiator := seat }

/-! ### Firing (R296 to R299) -/

/-- The pulse shape of a number; none is an empty record. -/
def State.shape (s : State) (k : Nat) : Bytes := (s.imgRecord 10 3 k).getD []

/-- The condition of R296 for an output at a position. -/
def State.switchNow (s : State) (enc q : Nat) (target : Pos) : Bool :=
  let e := s.enc enc
  let p := e.posAt s.now
  reached p target ||
  (e.st == .run && (match e.periodAt s.now with
    | some per => decide ((posSub target p : Rat) * per / 256 ≤ (s.leadNs q : Rat))
    | none => false))

/-- Queues a firing report for the die. -/
def State.report (s : State) (slot st : Nat) : State :=
  { s with field := { s.field with upQueue := s.field.upQueue ++ [.fired slot st s.tb0.toNat] } }

/-- Switches on some outputs with a shape. -/
def State.switchOutputs (s : State) (outs : List Nat) (shape : Bytes) (enc : Nat) : State :=
  let p := s.encPos enc
  outs.foldl (fun s q => s.pulseOn q shape enc p) s

/-- The state to look up shapes and leads of an entry in: its part's image (R61). -/
def State.entryView (s : State) (e : Eject) : State :=
  match s.part e.partSlot with
  | some p => if p.id = e.partId then s.seen p else s
  | none => s

/-- The outputs of a mask. -/
def maskOutputs (m : BitVec 64) : List Nat := (List.range 64).filter (bit m.toNat)

/-- Evaluates one window entry (R298, R299): the entry as it stays in the window, if it does. -/
def State.evalEntry (s : State) (enc : Nat) (w : WinEntry) : State × Option WinEntry :=
  if w.bad0 && w.bad1 then
    let s := s.flagLog .ejFlags [] 6 { errorRec 13 with arg0 := w.copy0.partId }
    ({ s with motion := { s.motion with transfers := s.motion.transfers ++ [(true, enc, w.slot)] } }, none)
  else
    let s := if w.bad0 || w.bad1 then
        s.flagLog .ejFlags [] 6 { errorRec 13 with arg0 := w.copy0.partId } else s
    let w := if w.bad0 then { w with copy0 := w.copy1, bad0 := false }
      else if w.bad1 then { w with copy1 := w.copy0, bad1 := false } else w
    let clean := w.copy0 == w.copy1
    let target := if posSub w.copy1.pos w.copy0.pos < 0 then w.copy1.pos else w.copy0.pos
    let mask := if clean then w.copy0.mask else w.copy0.failMask ||| w.copy1.failMask
    let t := s.entryView w.copy0
    let shape := t.shape (if clean then w.copy0.shape else w.copy0.failShape)
    let beyond := posSub (s.encPos enc) target
    if clean && !w.evaluated && decide (0 < beyond) then
      if beyond ≤ 256 * (w.copy0.lateCounts : Int) then
        ((s.switchOutputs (maskOutputs mask) shape enc).report w.slot 4, none)
      else (s.report w.slot 5, none)
    else
      let todo := (maskOutputs (mask &&& ~~~w.switched)).filter fun q => t.switchNow enc q target
      let first := w.switched == 0 && !todo.isEmpty
      let s := s.switchOutputs todo shape enc
      let s := if first && !clean then s.flagLog .ejFlags [] 4 { critical 13 with
          status := Code.windowMismatch, arg0 := w.copy0.partId, arg1 := w.copy1.partId } else s
      let s := if first then s.report w.slot (if clean then 3 else 6) else s
      let on := todo.foldl (fun m q => m ||| n64 (2 ^ q)) w.switched
      let empty := mask == 0 && s.switchNow enc 0 target
      let s := if empty && !clean then s.report w.slot 6 else s
      if (mask != 0 && (on &&& mask) == mask) || empty then (s, none)
      else (s, some { w with switched := on, evaluated := true })

/-- Entries of a channel cannot fire: the outputs are held, or the channel is OFF (R285). -/
def State.noFiring (s : State) (enc : Nat) : Bool := s.outputsHeld || (s.enc enc).st == .off

/-- Evaluates a channel's window at a tick. -/
def State.evalWindow (s : State) (enc : Nat) : State :=
  if s.noFiring enc then s else
  let (s, w) := (s.window enc).foldl (fun (s, kept) w =>
    let (s, r) := s.evalEntry enc w
    (s, kept ++ r.toList)) (s, [])
  s.setWindow enc w

/-! ### Reports at the die (R300, R304) -/

/-- A firing report: the entry's STATE and T_FIRED, the counts and flags, and the part. -/
def State.fired (s : State) (slot st time : Nat) : State :=
  match Tab.get s.motion.list slot with
  | none => s
  | some e =>
      if !(e.pending || e.st == 7) then s else
      let s := s.endEntry slot e st (if st = 5 then 0 else n64 time)
      let s := match st with
        | 4 => s.flagLog .ejFlags [] 1 { warning 13 with status := Code.ejectLate, arg0 := e.partId }
        | 5 => (s.flagLog .ejFlags [] 0 { errorRec 13 with status := Code.ejectMissed, arg0 := e.partId })
            |>.count .ejMissedCnt []
        | 6 => s.count .ejMismatchCnt []
        | _ => s
      let s := if st = 5 then s else
        (s.count .ejFiredCnt []).updPart e.partSlot fun p =>
          if p.id = e.partId then { p with tFired := n64 time } else p
      (s.settlePart e.partSlot).planWindow e.encoder

/-! ### Dividers (R287 to R290) -/

/-- A divider. -/
def State.divider (s : State) (d : Nat) : Option Divider := Tab.get s.motion.divs d

/-- Puts a divider back. -/
def State.setDivider (s : State) (d : Nat) (x : Divider) : State :=
  { s with motion := { s.motion with divs := Tab.put s.motion.divs d x } }

namespace Div
def encoder (r : Bytes) : Nat := byteAt r 4
def trigOut (r : Bytes) : Nat := byteAt r 5
def pitch (r : Bytes) : Nat := leAt r 8 4
def minPeriod (r : Bytes) : Nat := leAt r 0xC 4
def pulseNs (r : Bytes) : Nat := leAt r 0x10 4
def streams (r : Bytes) : Nat := leAt r 0x14 8
end Div

/-- Grid point k of a divider. -/
def Divider.grid (x : Divider) (k : Nat) : Pos := posAdd x.origin ((k * Div.pitch x.cfg : Nat) : Int)

/-- A position rounded up to a whole count: the grid origin (R288). -/
def gridOrigin (p : Pos) : Pos := posCounts (BitVec.ofNat 56 (p.toNat / 256 * 256)) (if p.toNat % 256 = 0 then 0 else 1)

/-- A divider starts: a new grid origin and event 0 next. -/
def State.startDivider (s : State) (d : Nat) (cfg : Bytes) (mapLog2 : Nat) : State :=
  s.setDivider d { cfg := cfg, origin := gridOrigin (s.encPos (Div.encoder cfg)), k := 0, lastEvent := none
                   mapLog2 := mapLog2, dieK := 0, stopped := false }

/-- Every divider starts again (R60, R475). -/
def State.restartDividers (s : State) : State :=
  s.motion.divs.foldl (fun s (d, x) => s.startDivider d x.cfg x.mapLog2) s

/-- The address of entry k of a divider's line map ring. -/
def mapAddr (d k log2 : Nat) : Nat := lineMapBase d + k % 2 ^ log2 * 16

/-- Writes line map entry k of a divider. While no image runs the die writes none
(20_reset_clocks_power.md R490). -/
def State.writeMap (s : State) (d : Nat) (x : Divider) (k : Nat) (suppressed : Bool) : State :=
  if s.img.running.isNone then s else
  s.store (mapAddr d k x.mapLog2)
    (natLe 8 ((x.grid k).toNat + b2n suppressed * 2 ^ 56) ++ natLe 8 s.tb0.toNat)

/-- A suppressed event: OVERSPEED and the count. -/
def State.suppressEvent (s : State) (d : Nat) : State :=
  match s.divider d with
  | none => s
  | some x =>
      let s := (s.writeMap d x x.k true).setDivider d { x with k := x.k + 1 }
      let n := Tab.getD s.motion.suppressed d 0 + 1
      { s with motion := { s.motion with suppressed := Tab.put s.motion.suppressed d n } }.setFlag .divErr [d] 0

/-- The further grid points that P has already passed within the tick, each suppressed. -/
def State.suppressPassed (s : State) (d : Nat) : Nat → State
  | 0 => s
  | fuel + 1 =>
      match s.divider d with
      | none => s
      | some x =>
          if reached (s.encPos (Div.encoder x.cfg)) (x.grid x.k) then
            State.suppressPassed (s.suppressEvent d) d fuel
          else s

/-- P reaches the next grid point of a divider in the forward direction; elsewhere nothing happens (R288). -/
def State.dividerEvent (s : State) (d : Nat) : State :=
  match s.divider d with
  | none => s
  | some x =>
      let e := s.enc (Div.encoder x.cfg)
      if x.stopped || s.field.held || e.st == .off || !e.forward || !reached (e.posAt s.now) (x.grid x.k) then s else
      let early : Bool := match x.lastEvent with
        | some t => decide (s.now < t + Div.minPeriod x.cfg)
        | none => false
      let s := if early then s.suppressEvent d else
        let s := s.writeMap d x x.k false
        let s := s.setDivider d { x with k := x.k + 1, lastEvent := some s.now }
        if Div.trigOut x.cfg = 0xFF then s else s.trigPulse (Div.trigOut x.cfg) (Div.pulseNs x.cfg)
      s.suppressPassed d 65536

/-! ### Frames (R471, R473, R474) -/

/-- One near-window transfer reaches the field controller; an inserted entry has its first
evaluation at once (R298). -/
def State.applyTransfer (s : State) : State :=
  match s.motion.transfers with
  | [] => s
  | (ins, enc, slot) :: rest =>
      let s := { s with motion := { s.motion with
        transfers := rest,
        applied := s.motion.applied ++ [(ins, enc, slot)] } }
      if !ins then s.setWindow enc ((s.window enc).filter fun w => w.slot != slot)
      else match Tab.get s.motion.list slot with
        | none => s
        | some e =>
            let w : WinEntry := { slot := slot, copy0 := e, copy1 := e, bad0 := false, bad1 := false
                                  switched := 0, evaluated := false }
            let (s, r) := if s.noFiring enc then (s, some w) else s.evalEntry enc w
            s.setWindow enc (s.window enc ++ r.toList)

/-- A down frame arrives at the field controller. A safe state entered on failed down frames lasts until the die has asked
for it and the link is restored (R474; DEDUCED, notes/assumptions/150.md). -/
def State.downFrame (s : State) (good : Bool) : State :=
  if s.field.held then s
  else if !good then s.downFailed
  else
    let s := { s with field := { s.field with
      downFails := 0, goodDown := s.field.goodDown + 1, ackDown := s.field.downSeq - 1 } }
    if s.wantSafe then
      let t := { s.enterSafe with field := { s.enterSafe.field with fcLost := false } }
      if s.field.dieSafe && !s.field.fcSafe then t.setFlag .fldLinkErr [] 4 else t
    else if s.field.fcLost then s
    else
      let s := { s with field := { s.field with fcSafe := false } }
      s.applyTransfer.applyHost

/-- The die sees FC_RESET (R475). -/
def State.fcResetSeen (s : State) : State :=
  let s := { s with field := { s.field with fcReset := false } }
  let s := s.discardAll
  let s := ((s.undecidedParts).foldl (fun s p => s.decideDefault p.1 5 Code.positionLost) s).afterDecision
  let s := s.restartDividers
  s.flagLog .fldLinkErr [] 5 { critical 15 with status := 0xB3 }

/-- A rotation message: the item of this turn replaces what the die knows of it. -/
def State.rotationMsg (s : State) : State :=
  let r := s.field.rotation
  let s := { s with field := { s.field with rotation := (r + 1) % 33 } }
  if r = 32 then s.setFld .fldSupply [] 0 16 s.field.supplyMv
  else
    let n := r / 4
    let e := s.enc n
    let k := r % 4
    if k = 0 then
      let hi := slice (e.posAt s.now).toNat 23 33
      if slice e.diePos.toNat 23 33 = hi then s
      else (s.setEnc n { e with diePos := BitVec.ofNat 56 (putSlice e.diePos.toNat 23 33 hi) }).log
        { errorRec 13 with arg0 := n64 n }
    else if k = 1 then s.setEnc n { e with dieExactPeriod := e.period16 s.now }
    else
      let lo := if k = 2 then 0 else 24
      let v := putSlice e.dieIndex.toNat lo 24 (slice e.indexCount.toNat lo 24)
      s.setEnc n { e with dieIndex := BitVec.ofNat 48 v }

/-- The message an up frame carries: firing reports before input edges. -/
def State.upMessage (s : State) : State :=
  let isFired : BarMsg → Bool := fun m => match m with
    | .fired .. => true
    | _ => false
  let i := (findIdxOpt isFired s.field.upQueue).getD 0
  match s.field.upQueue[i]? with
  | none => s
  | some m =>
      let s := { s with field := { s.field with upQueue := s.field.upQueue.eraseIdx i } }
      match m with
      | .fired slot st time => s.fired slot st time
      | .edge input active pos => s.presenceEdge input active pos

/-- The transfers made are acknowledged: entries enter or leave STATE 2 (R292). -/
def State.ackTransfers (s : State) : State :=
  let done := s.motion.applied
  let s := { s with motion := { s.motion with applied := [] } }
  done.foldl (fun s (ins, _, slot) => match Tab.get s.motion.list slot with
    | some e =>
        if ins && e.st == 1 then s.putEntry slot { e with st := 2 }
        else if !ins && e.st == 2 then s.putEntry slot { e with st := 1 } else s
    | none => s) s

/-- The encoder samples of an up frame reach the die; a channel that has just become LOST faults
its undecided parts (R285, R271). -/
def State.upSamples (s : State) : State :=
  (List.range 8).foldl (fun s n =>
    match Tab.get s.motion.encs n with
    | none => s
    | some e =>
        let lost := e.dieSt != .lost && e.st == .lost
        let s := s.setEnc n (e.sample s.now s.tb0Ns)
        if lost then s.positionLost n else s) s

/-- Sixteen good frames in both directions bring the link UP again: SAFE is cleared and every
window is sent again (R474). -/
def State.linkCheck (s : State) : State :=
  if s.field.linkState = 0 ∧ 16 ≤ s.field.goodDown ∧ 16 ≤ s.field.goodUp then
    let s := { s with field := { s.field with linkState := 1, dieSafe := false }
                      motion := { s.motion with transfers := [] } }
    s.planWindows
  else s

/-- A good up frame is acknowledged and counted. -/
def State.upAccept (s : State) : State :=
  { s with field := { s.field with
      upFails := 0, goodUp := s.field.goodUp + 1, ackUp := s.field.upSeq - 1,
      upFrames := s.field.upFrames + 1 } }

/-- The die sees in an up header that the field controller has entered its safe state on failed down frames: the link is
lost, and the die asks for the safe state until it is restored (R474; notes/assumptions/150.md). -/
def State.safeSeen (s : State) : State :=
  if s.field.fcLost then { s with field := { s.field with dieSafe := true, linkState := 0 } } else s

/-- What an up frame carries: every fourth a rotation item, the others a message. -/
def State.upItem (s : State) : State :=
  if s.field.upFrames % 4 = 0 then s.rotationMsg else s.upMessage

/-- A good up frame from the present FC_RESET bit on. -/
def State.upGood (s : State) : State := (s.safeSeen.upSamples.ackTransfers).upItem.linkCheck

/-- An up frame arrives at the die. -/
def State.upFrame (s : State) (good : Bool) : State :=
  if !good || s.field.held then s.upFailed
  else if s.field.fcReset then s.upAccept.fcResetSeen.upGood
  else s.upAccept.upGood

/-! ### Lost channels (R271, R285) -/

/-- What a channel's loss means for its undecided parts, after an event at the field controller. -/
def State.afterEnc (s t : State) (n : Nat) : State := if lostNow s t n then t.positionLost n else t

end Sys2Proof.Machine
end

