-- ==== Sys2Proof/Machine/MotionCmds.lean ====
section
/-! DEFINITION. What the commands of the encoders, dividers, eject list, outputs, inputs and the
barrier link do (11_encoders_and_eject.md R278 to R301, R571; 19_field_io.md R470 to R484). -/

namespace Sys2Proof.Machine

/-! ### Eject list -/

/-- EJECT_INSERT (R294). -/
def execEjectInsert (s : State) : Res := .next s.ejectInsert

/-- LIST_CTRL_CLEAR (R571). -/
def execListCtrlClear (seat : Fin 4) (s : State) : Res := .next (s.listClear seat)

/-! ### Encoders -/

/-- ENCODER_EDGE (R280). -/
def execEncoderEdge (enc : Fin 8) (aLeads illegal : Bool) (s : State) : Res :=
  .next (s.afterEnc (s.encEdge enc aLeads illegal) enc)

/-- WIRE_LOSS (R280). -/
def execWireLoss (enc : Fin 8) (s : State) : Res := .next (s.afterEnc (s.encWire enc) enc)

/-- INDEX_PULSE (R281). -/
def execIndexPulse (enc : Fin 8) (s : State) : Res := .next (s.encIndex enc)

/-- An SSI read starts: its first falling clock edge latches the time of the reading. -/
def State.ssiStart (s : State) (n : Nat) : State :=
  let e := s.enc n
  if e.ssi then s.setEnc n { e with ssiReadAt := s.now } else s

/-- SSI_READ (R282). -/
def execSsiRead (enc : Fin 8) (s : State) : Res := .next (s.ssiStart enc)

/-- SSI_WORD (R282). -/
def execSsiWord (enc : Fin 8) (word : Word) (errBit : Bool) (crc : BitVec 16) (s : State) : Res :=
  .next (s.afterEnc (s.ssiWord enc word.toNat errBit crc.toNat) enc)

/-- SSI_TIMEOUT (R282): a bad read. -/
def execSsiTimeout (enc : Fin 8) (s : State) : Res :=
  .next (if (s.enc enc).ssi then s.afterEnc (s.ssiBad enc [5]) enc else s)

/-- The count period passes 100 ms: the channel is STOPPED and its position holds. -/
def State.encStop (s : State) (n : Nat) : State :=
  let e := s.enc n
  let slow : Bool := match e.periodAt s.now with
    | some p => decide (100000000 < p)
    | none => true
  if e.st == .run && slow then s.setEnc n { e with st := .stopped, p := e.posAt s.now } else s

/-- ENCODER_STOPPED (R285). -/
def execEncoderStopped (enc : Fin 8) (s : State) : Res := .next (s.encStop enc)

/-- CLEAR_LOST (R285). A write to a mirrored register while the link is DOWN is discarded (R483);
EJECT's registers are no mirrors. -/
def execClearLost (_seat : Fin 4) (enc : Fin 8) (s : State) : Res := .next (s.clearLost enc)

/-- WIRE_SIGNAL_RETURN (R280): edges count again while the channel stays LOST. -/
def execWireSignalReturn (enc : Fin 8) (s : State) : Res :=
  .next (s.setEnc enc { s.enc enc with wireLost := false })

/-! ### Dividers -/

/-- DIVIDER_EVENT (R288, R289). -/
def execDividerEvent (div : Fin 8) (s : State) : Res := .next (s.dividerEvent div)

/-- A divider's trigger output ends its pulse. -/
def State.trigEnd (s : State) (d : Nat) : State :=
  match s.divider d with
  | none => s
  | some x =>
      let q := Div.trigOut x.cfg
      if q = 0xFF then s else
      let o := s.output q
      if o.on && s.outMode q == 2 && decide (o.endAt ≤ s.now) then s.setOutput q (o.off s.now) else s

/-- TRIG_OUT_PULSE_END (R289). -/
def execTrigOutPulseEnd (div : Fin 8) (s : State) : Res := .next (s.trigEnd div)

/-! ### Outputs -/

/-- OUTPUT_SWITCH_ON (R296 to R299): the near window of a channel is evaluated. -/
def execOutputSwitchOn (enc : Fin 8) (s : State) : Res := .next (s.evalWindow enc)

/-- PEAK_PHASE_END (R297). -/
def execPeakPhaseEnd (output : Fin 64) (s : State) : Res := .next (s.peakEnd output)

/-- PULSE_END (R297). -/
def execPulseEnd (output : Fin 64) (s : State) : Res := .next (s.pulseEnd output)

/-- OUTPUT_OVERCURRENT (R479). -/
def execOutputOvercurrent (output : Fin 64) (cause : TripCause) (s : State) : Res :=
  .next (s.trip output cause)

/-- GROUP_CURRENT_CHECK (R479). -/
def execGroupCurrentCheck (group : Fin 8) (meanMa : Nat) (s : State) : Res :=
  .next (s.groupCheck group meanMa)

/-- OUTPUT_MEASURE (R480). -/
def execOutputMeasure (output : Fin 64) (meanMa pinMv : Nat) (s : State) : Res :=
  .next (s.outMeasure output meanMa pinMv)

/-- OPEN_LOAD_TEST (R480). -/
def execOpenLoadTest (output : Fin 64) (pinMv : Nat) (s : State) : Res :=
  .next (s.openTest output pinMv)

/-! ### Writes that the field controller applies (R477, R479, R478, R483, R484) -/

/-- LINK_STATUS.STATE (R486): frames pass again after a loss while the link is RESTORING. -/
def State.linkCode (s : State) : Nat :=
  if s.field.linkState = 1 then 1
  else if 0 < s.field.goodDown ∧ 0 < s.field.goodUp then 2 else 0

/-- A write to a mirrored FIELD register by a seat: discarded with a notice while the link is DOWN
(R483). -/
def State.fieldWrite (s : State) (seat : Nat) (off : Nat) (f : State → State) : State :=
  if s.linkCode = 0 then s.log { notice 15 with initiator := seat, arg0 := n64 off } else f s

/-- Clears an output's trip (R479). -/
def State.clearTrip (s : State) (q : Nat) : State :=
  s.setOutput q { s.output q with tripped := false }

/-- Clears a group's trip (R479). -/
def State.clearGroup (s : State) (g : Nat) : State :=
  (List.range 8).foldl (fun s k =>
    s.setOutput (8 * g + k) { s.output (8 * g + k) with groupTripped := false }) s

/-- A write of half of FIELD.Q_HOST: levels of outputs whose MODE is not 3 are ignored with a
notice each (R483). -/
def State.writeQHost (s : State) (seat : Nat) (high : Bool) (v : Word) : State :=
  let base := if high then 32 else 0
  let old := slice s.field.qHost.toNat base 32
  let s := (List.range 32).foldl (fun s k =>
    if s.outMode (base + k) != 3 && bit old k != bit v.toNat k then
      s.log { notice 15 with initiator := seat, arg0 := n64 (base + k) } else s) s
  let keep := (List.range 32).foldl (fun a k =>
    a + b2n (s.outMode (base + k) == 3 && bit v.toNat k) * 2 ^ k) 0
  let q : BitVec 64 := BitVec.ofNat 64 (putSlice s.field.qHost.toNat base 32 keep)
  ({ s with field := { s.field with qHost := q } } : State).applyHost

/-- CLEAR_TRIP (R479). -/
def execClearTrip (seat : Fin 4) (output : Fin 64) (s : State) : Res :=
  .next (s.fieldWrite seat (RN.off .qCtrl [output]) fun s => s.clearTrip output)

/-- G_CTRL_CLEAR (R479). -/
def execGCtrlClear (seat : Fin 4) (group : Fin 8) (s : State) : Res :=
  .next (s.fieldWrite seat (RN.off .gCtrl [group]) fun s => s.clearGroup group)

/-- Q_HOST (R478). -/
def execQHost (seat : Fin 4) (high : Bool) (value : Word) (s : State) : Res :=
  .next (s.fieldWrite seat (RN.off (if high then .fldQHostHi else .fldQHostLo) [])
    fun s => s.writeQHost seat high value)

/-- CNT_CTRL_ZERO (R477). -/
def execCntCtrlZero (seat : Fin 4) (counter : Fin 4) (s : State) : Res :=
  .next (s.fieldWrite seat (RN.off .cntCtrl [counter]) fun s => s.counterZero counter)

/-! ### Inputs and counters -/

/-- INPUT_EDGE (R476, R477). -/
def execInputEdge (input : Fin 32) (active : Bool) (s : State) : Res :=
  .next (s.inputEdge input active)

/-- COUNTER_GATE (R477). -/
def execCounterGate (counter : Fin 4) (s : State) : Res := .next (s.counterGate counter)

/-- PPS_IN_EDGE (R481). -/
def execPpsInEdge (rising : Bool) (heldSamples : Nat) (s : State) : Res :=
  .next (s.ppsEdge rising heldSamples)

/-! ### The barrier link (R470 to R475) -/

/-- BARRIER_FRAME_SEND (R470). -/
def execBarrierFrameSend (s : State) : Res := .next s.sendFrames

/-- BARRIER_DOWN_FRAME (R471). -/
def execBarrierDownFrame (good : Bool) (s : State) : Res := .next (s.downFrame good)

/-- FRAME_TIMEOUT (R474): a frame that does not arrive fails at its receiver. -/
def execFrameTimeout (down : Bool) (s : State) : Res :=
  .next (if down then s.downFailed else s.upFailed)

/-- FC_WATCHDOG (R475). -/
def execFcWatchdog (s : State) : Res := .next (if s.field.powered then s.resetFc else s)

/-- FIELD_SUPPLY_ON (R475). -/
def execFieldSupplyOn (mv : Nat) (s : State) : Res := .next (s.supplyOn mv)

/-- FIELD_SUPPLY_LOSS (R475, R564). -/
def execFieldSupplyLoss (mv : Nat) (s : State) : Res := .next (s.supplyLoss mv)

end Sys2Proof.Machine
end

