-- ==== Sys2Proof/Machine/Views.lean ====
section
/-! DEFINITION. What each register shows (R8, R11): a register that shows typed state of the block
is computed from it; every other register shows its stored word. Also the bytes of an event record
(21_faults_and_event_recorder.md R522) and the record a seat's cursor names (R527). -/

namespace Sys2Proof.Machine

/-! ### Event records (R522, R525, R527) -/

/-- The 64 bytes of an event record. -/
def EvRec.bytes (r : EvRec) : Bytes :=
  natLe 8 r.seq ++ natLe 8 r.time.toNat ++ natLe 8 r.tb1.toNat ++ natLe 1 r.severity ++
  natLe 1 r.source ++ natLe 1 r.status ++ natLe 1 r.flags.toNat ++ natLe 1 r.initiator ++
  natLe 1 r.sender ++ natLe 2 (sat r.count 0xFFFF) ++ natLe 4 r.flagReg.toNat ++
  natLe 1 r.flagBit ++ natLe 1 r.cls ++ natLe 2 0 ++ natLe 8 r.arg0.toNat ++
  natLe 8 r.arg1.toNat ++ natLe 8 r.seq

/-- A record and its continuations, each with its SEQ. -/
def EvRec.parts (r : EvRec) : List (Nat × Bytes) :=
  (r.seq, r.bytes) :: (r.conts.zipIdx 1).map fun (b, i) =>
    (r.seq + i, natLe 8 (r.seq + i) ++ (b.drop 8).take 48 ++ natLe 8 (r.seq + i))

/-- The address of a slot of the spill ring (R524). -/
def spillAddr (slot : Nat) : Nat := spillBase + 64 * slot

/-- The records held, as SEQ and bytes, in no order. -/
def State.heldRecs (s : State) : List (Nat × Bytes) :=
  s.rec'.chip.flatMap EvRec.parts ++ s.rec'.ring.map fun (slot, seq, _) => (seq, s.load (spillAddr slot) 64)

/-- The resolved record of a cursor: the one with the smallest SEQ at or above it, or zeros. -/
def State.resolved (s : State) (cursor : Nat) : Bytes :=
  let m := (s.heldRecs.filter fun r => cursor ≤ r.1).foldl (fun m r => match m with
    | none => some r
    | some q => if r.1 < q.1 then some r else some q) none
  (m.map Prod.snd).getD (List.replicate 64 0)

/-- The smallest SEQ held, 0 when the recorder is empty. -/
def State.oldestSeq (s : State) : Nat :=
  let l := s.rec'.chip.map (·.seq) ++ s.rec'.ring.map fun r => r.2.1
  l.foldl (fun m k => if m = 0 then k else min m k) 0

def CtxKind.code : CtxKind → Nat
  | .live => 1
  | .shadow => 2
  | .training => 3
  | .host => 4

def TrainSt.code : TrainSt → Nat
  | .idle => 0
  | .running => 1
  | .paused => 2
  | .checkpointing => 3
  | .done => 4
  | .stopped => 5

/-! ### Registers of several blocks -/

/-- CORE.STATUS (R246). -/
def State.coreStatus (s : State) (n : Nat) : Nat :=
  let c := s.sched.core n
  let code := match c.st with
    | .off => 0
    | .idle => if s.offline n then 8 else 1
    | .dispatched => 2
    | .running => 3
    | .committing => 4
    | .killing => 5
    | .hung => 6
    | .clockFault => 7
  match s.onCore n with
  | some x => code + ctxClass (s.cmdCtx x) * 16 + s.cmdCtx x * 2 ^ 16
  | none => code

/-- CORE.POOL (R248). -/
def State.corePool (s : State) (n : Nat) : Nat :=
  match s.img.running with
  | none => 0
  | some i =>
      let size (l : List Nat) : Nat := l.foldl (fun t k => t + RSet.bytes (i.set k)) 0
      let pinned := size (i.pinnedOn n)
      if (s.sched.core n).st = .off then 0 else
      pinned / 1024 + (pinned + size (s.sched.core n).sets) / 1024 * 2 ^ 16

/-- SCHED.CTX_STATE (R244). -/
def State.ctxState (s : State) (c : Nat) : Nat :=
  match s.ctx c with
  | none => 0
  | some x =>
      let run := s.ctxRunning c
      let st := if run then 2 else if s.runnable c then (if x.slot.isSome then 1 else 3) else 0
      x.kind.code + ctxClass c * 8 + b2n x.pinned * 32 + b2n x.slot.isSome * 64 + st * 128 +
        x.slot.getD 0 * 512 + (if x.kind = .host then x.owner * 2 ^ 16 else 0)

/-- EJECT.ENC_STATUS (R305). -/
def State.encStatus (s : State) (n : Nat) : Nat :=
  let e := s.enc n
  e.dieSt.code + b2n e.dieReverse * 4 + b2n e.indexSeen * 8 + (s.plannedWindow n).length * 2 ^ 16

/-- The streams that pipe `n` serves through memory. -/
def State.memStreams (s : State) (n : Nat) : List (Nat × Stream) :=
  s.cam.streams.filter fun x => Strm.pipe x.2.cfg == n && !Strm.inLine x.2.cfg

/-- The stream in pipe `n`'s in-line slot. -/
def State.inlineStream (s : State) (n : Nat) : Option Nat :=
  (s.cam.streams.find? fun x => Strm.pipe x.2.cfg == n && Strm.inLine x.2.cfg).map Prod.fst

/-- CXP.STREAM_STATUS (R96). -/
def State.streamStatus (s : State) (n : Nat) : Nat :=
  match s.stream n with
  | none => 0
  | some x =>
      let st := match x.block with
        | none => 1
        | some b => if b.dropping then 3 else 2
      st + b2n (s.dividerOf n).isNone * 8

/-- ADAPT.LIB_STATUS (R341). -/
def State.libStatus (s : State) (k : Nat) : Nat :=
  match Tab.get s.cap.libs k with
  | none => 0
  | some l =>
      let host := byteAt l.cfg 4 == 1
      1 + b2n host * 2 + b2n (!host || l.host.isSome) * 4 + byteAt l.cfg 6 * 8

/-- Bytes of a library's data ring. -/
def Library.size (l : Library) : Nat :=
  if byteAt l.cfg 4 = 1 then (l.host.map fun h => h.2.2).getD 0 else leAt l.cfg 8 8

/-- A training job. -/
def State.trainJob (s : State) (j : Nat) : TrainJob := Tab.getD s.train.jobs j {}

/-- The component count and element size of a stream's corrected lines. -/
def stripShape (cfg : Bytes) (lp : Option (Bytes × Bytes)) : Nat × Nat :=
  let dt := Strm.dataType cfg
  let comps := match dt / 16 with
    | 0 => 1
    | 1 | 2 => 3
    | _ => 2
  (comps, match lp with
    | some (_, t) => byteAt t 6 + 1
    | none => if dt % 16 = 1 then 1 else 2)

/-- A module's two strip entries with the shapes of their streams. -/
abbrev Strips := List (Bytes × (Nat × Nat))

/-- The strips of this module. -/
def State.ownStrips (s : State) (g : Bytes) : Strips :=
  [0, 1].map fun k =>
    let e := bytesAt g (0x24 + 8 * k) 8
    (e, ((s.stream (byteAt e 1)).map fun x => stripShape x.cfg x.lp).getD (0, 0))

/-- The strips that a CAPS message tells. -/
def capsStrips (m : CapsMsg) : Strips := [(m.strip0, m.stripShape.getD 0 (0, 0)), (m.strip1, m.stripShape.getD 1 (0, 0))]

/-- Two members' strips between them pass the check of R382: each names the other, with equal COLS,
component counts and element sizes. -/
def stripPasses (e : Bytes × (Nat × Nat)) (me : Nat) (theirs : Strips) : Bool :=
  theirs.any fun f => byteAt f.1 0 == me && leAt f.1 4 2 == leAt e.1 4 2 && f.2 == e.2

/-- The strips of member i, as far as this module knows. -/
def State.memberStrips (s : State) (g : Bytes) (i : Nat) : Strips :=
  if i = Grp.index g then s.ownStrips g
  else ((Tab.get s.net.peers i).map fun p => capsStrips p.caps).getD []

/-- Every used strip entry of every member passes with the member it names. -/
def State.stripsPass (s : State) (g : Bytes) : Bool :=
  (List.range (Grp.size g)).all fun i => (s.memberStrips g i).all fun e =>
    byteAt e.1 0 == 0xFF || stripPasses e i (s.memberStrips g (byteAt e.1 0))

/-- The PTP domain of the running image. -/
def State.ptpDomain (s : State) : Nat := ((s.imgRecord 13 2 0).map fun r => byteAt r 7).getD 0

/-- The leader sees its whole group, in agreement (R375). -/
def State.groupWhole (s : State) (g : Bytes) : Bool :=
  ((List.range (Grp.size g)).filter fun i => i != Grp.index g).all (fun i =>
    s.peerHere i && (match Tab.get s.net.peers i with
      | some p => p.caps.size == Grp.size g && p.caps.domain == s.ptpDomain
      | none => false)) && s.stripsPass g

/-- NET.GROUP_MEMBERS (R396): what the leader sees, or what a member takes from the leader's latest
CAPS (R375). -/
def State.groupMembers (s : State) : Nat :=
  match s.group with
  | none => 0
  | some g =>
      if Grp.index g = 0 then
        ((List.range 24).map fun i => b2n (i == 0 || s.peerHere i) * 2 ^ i).foldl (· + ·) 0
      else match Tab.get s.net.peers 0 with
        | some p => if s.peerHere 0 then p.caps.members.toNat else 2 ^ Grp.index g
        | none => 2 ^ Grp.index g

/-- GROUP_STATUS.STATE (R375): 0 STANDALONE, 1 FORMING, 2 FORMED, 3 DEGRADED. A member whose leader
sees every member takes the group as FORMED. -/
def State.groupState (s : State) : Nat :=
  match s.group with
  | none => 0
  | some g =>
      let formed := if Grp.index g = 0 then s.groupWhole g
        else s.peerHere 0 && popCount s.groupMembers 24 == Grp.size g
      if formed then 2 else if s.net.everFormed then 3 else 1

/-- A time base's W2, W1 or W0 (R401). -/
def TimeBase.word (b : TimeBase) (k : Nat) : Nat :=
  if b.seconds then
    match k with
    | 0 => b.ns / 1000000000 / 2 ^ 32 % 2 ^ 16
    | 1 => b.ns / 1000000000 % 2 ^ 32
    | _ => b.ns % 1000000000
  else
    match k with
    | 0 => 0
    | 1 => b.ns / 2 ^ 32 % 2 ^ 32
    | _ => b.ns % 2 ^ 32

/-- One half of a 64-bit number: index 0 the low word. -/
def halfOf (v i : Nat) : Nat := v / 2 ^ (32 * i)

/-- Bits of outputs that a test accepts, from output `base`. -/
def State.outBits (s : State) (base : Nat) (f : Output → Bool) : Nat :=
  ((List.range 32).map fun k => b2n (f (s.output (base + k))) * 2 ^ k).foldl (· + ·) 0

/-- SEC.SLOT_STATE (R542, R554), from the option record in use. -/
def State.slotState (s : State) : Nat :=
  ((List.range 4).map fun k => byteAt s.boot.option (0x104 + 96 * k) * 4 ^ k).foldl (· + ·) 0 +
    byteAt s.boot.option 0x101 * 256

/-- ADAPT.JOB_STATUS (R366). -/
def State.trainStatus (s : State) (j : Nat) : Nat :=
  let t := s.trainJob j
  t.st.code + b2n t.waiting * 8 + b2n t.det * 16

/-! ### The views -/

/-- A divider as the die knows it: none while no image runs (20_reset_clocks_power.md R490). -/
def State.dieDivider (s : State) (d : Nat) : Option Divider :=
  if s.img.running.isNone then none else s.divider d

/-- The number a register shows that is computed from typed state; none: it shows its stored word. -/
def State.shown (s : State) (r : RN) (ix : List Nat) : Option Nat :=
  let i := ix.headD 0
  let j := (ix.drop 1).headD 0
  let enc := s.enc i
  match r with
  | .glbState => some (s.dev.code + s.img.power.code * 16 + b2n s.img.detMode * 64 +
      b2n s.img.detOverride * 128)
  | .glbFwVersion => some s.boot.fwVersion.toNat
  | .glbSerial => some (halfOf Config.serial.toNat i)
  | .rstCause => some (s.backup.cause + b2n s.backup.warm * 256 + s.backup.rail * 512)
  | .rstResetCount => some s.backup.count.toNat
  | .rstBoot => some (s.backup.attempts + s.fld .rstBoot [] 4 3 * 16)
  | .rstBootStatus => some (putSlice (s.reg .rstBootStatus []) 9 1 (b2n s.backup.rtcValid))
  | .rstRtcLo => some (s.backup.rtcNs / 1000000000)
  | .rstRtcHi => some (s.backup.rtcNs / 1000000000 / 2 ^ 32 % 2 ^ 16)
  | .rstOptWindow => some (leAt s.boot.window (4 * i) 4)
  | .rstThrottle => some (putSlice (s.reg .rstThrottle []) 0 4
      (((List.range 4).map fun n => b2n (s.sched.core n).throttled * 2 ^ n).foldl (· + ·) 0))
  | .secStatus => some (((List.range 4).map fun k => b2n (Tab.get s.sec.keyRam k).isSome * 2 ^ k).foldl
      (· + ·) 0 + b2n s.sec.root.isSome * 16 + b2n s.img.verify.isSome * 32)
  | .secSlotState => some s.slotState
  | .secRootHash => some (leAt Config.rootHash (4 * i) 4)
  | .evrStatus => some ((s.rec'.chip.foldl (fun t r => t + 1 + r.conts.length) 0) +
      b2n s.rec'.spillOk * 2 ^ 14)
  | .evrRingCount => some s.rec'.ring.length
  | .evrSeqNext => some (halfOf s.rec'.seqNext i)
  | .evrSeqOldest => some (halfOf s.oldestSeq i)
  | .evrCritCount => some (s.heldSev.filter (· == 5)).length
  | .evrWindow => some (leAt (s.resolved (s.pair .evrCursorLo .evrCursorHi [i])) (4 * j) 4)
  | .tbStatus => some (putSlice (putSlice (s.reg .tbStatus [i]) 0 3 (s.time.base i).st.code) 5 1
      (b2n (!(s.time.base i).seconds)))
  | .tbW2 => some ((s.time.base i).word 0)
  | .tbW1 => some ((s.time.base i).word 1)
  | .tbW0 => some ((s.time.base i).word 2)
  | .tbIncHi => some (halfOf (s.time.base i).inc 1)
  | .tbIncLo => some (halfOf (s.time.base i).inc 0)
  | .netMacLo => some (halfOf Config.macAddress.toNat 0)
  | .netMacHi => some (halfOf Config.macAddress.toNat 1)
  | .netGroupStatus => some (match s.group with
      | none => 0
      | some g => s.groupState + Grp.index g * 4 + Grp.size g * 128 +
          b2n (s.axisAnchor g).isSome * 4096)
  | .netGroupMembers => some s.groupMembers
  | .netAxisAge => some (match s.net.anchor with
      | none => 0xFFFFFFFF
      | some _ => sat ((s.now - s.net.anchorAt) / 1000) 0xFFFFFFFF)
  | .hostLock => some (match s.img.lock with
      | none => 0xFF
      | some k => k.val)
  | .rstOptCtrl => some (b2n (s.boot.commit.any fun k => k.by'.isNone))
  | .hostPciId => some (Config.pciVendor.toNat + 0x9640 * 2 ^ 16)
  | .intPending => some (s.intPending i)
  | .seatStatus => some (putSlice (s.reg .seatStatus [i]) 1 1 (b2n (decide (2 ≤ i))))
  | .laneStatus => if i < 32 then
      some (putSlice (putSlice (s.reg .laneStatus [i]) 12 4 (s.fld .cxpPortStatus [i] 4 3)) 16 8
        (s.fld .cxpPortCable [i] 16 8))
    else none
  | .cxpStreamStatus => some (s.streamStatus i)
  -- with no line block open STREAM_LB reads 0 (R97; DESIGN CHOICE, notes/assumptions/149.md)
  | .cxpStreamLb => some (((s.stream i).bind fun x => x.block.map fun b => b.number.toNat).getD 0)
  | .cxpStreamTrig => some (((s.stream i).map fun x => x.sent).getD 0)
  | .cxpStreamLines => some (((s.stream i).map fun x => x.nextRaw).getD 0)
  | .linePipeStatus => some ((match s.inlineStream i with
      | some n => n + 64
      | none => 0) + ((s.memStreams i).filter fun x => x.2.lp.isSome).length * 256)
  | .linePipeBacklog => some (((s.memStreams i).filter fun x => x.2.lp.isSome).foldl (fun t x =>
      t + (x.2.rawLines.filter fun l => l.cause == 0).length) 0)
  | .lineLinesOut => some (((s.stream i).map fun x => x.nextCorr).getD 0)
  | .netStripStatus => some (match s.group with
      | none => 0
      | some g =>
          let e := bytesAt g (0x24 + 8 * i) 8
          if byteAt e 0 = 0xFF then 0x3E
          else b2n (if i = 0 then s.net.strip0.active else s.net.strip1.active) + byteAt e 0 % 32 * 2)
  | .lineSpillLines => some (((s.stream i).map fun x => (x.lines.filter fun l => l.spilled).length).getD 0)
  | .schedStatus => some (((List.range 4).map fun n => b2n (s.inService n) * 2 ^ n).foldl (· + ·) 0 +
      b2n s.img.detMode * 16 + s.slotsUsed.length * 256 + s.pinnedCount * 2 ^ 16)
  | .schedTurn => some (s.sched.turn.seat + b2n s.sched.turn.active * 4 + b2n s.sched.turn.extended * 8 +
      (if s.sched.turn.active then (s.sched.turn.nominalEnd - s.now) / 1000 else 0) % 2 ^ 20 * 4096)
  | .schedContexts => some (s.sched.ctxs.length +
      (s.sched.ctxs.filter fun c => c.2.slot.isNone && s.runnable c.1).length * 2 ^ 16)
  | .schedSeatDebt => some (s.fld .schedSeatDebt [i] 0 16 + s.sliceKills i * 2 ^ 16)
  | .schedCtxState => some (s.ctxState (s.reg .schedCtxSel [i]))
  | .schedCtxBlockedUs => some (match s.ctx (s.reg .schedCtxSel [i]) with
      | none => 0
      | some c => match c.blockedSince with
          | none => 0
          | some t => sat ((s.now - t) / 1000) 0xFFFFFFFF)
  | .schedCtxStarve => some (((s.ctx (s.reg .schedCtxSel [i])).map fun c => c.starve).getD 0)
  | .coreStatus => some (s.coreStatus i)
  | .coreClock => some ((s.sched.core i).mhz + b2n (s.sched.core i).throttled * 2048)
  | .corePool => some (s.corePool i)
  | .ledgSeqLo => some (halfOf s.ledg.seqNext 0)
  | .ledgSeqHi => some (halfOf s.ledg.seqNext 1)
  | .ejListCount => some s.pendingSlots.length
  | .encPosLo => some (halfOf enc.diePos.toNat 0)
  | .encPosHi => some (halfOf enc.diePos.toNat 1)
  | .encPeriod => some enc.dieExactPeriod
  | .encStatus => some (s.encStatus i)
  | .encIndexLo => some (halfOf enc.dieIndex.toNat 0)
  | .encIndexHi => some (halfOf enc.dieIndex.toNat 1)
  | .encIndexCnt => some enc.indexPulses.toNat
  | .divStatus => some (match s.dieDivider i with
      | none => 0
      | some d => 1 + Div.encoder d.cfg * 2)
  | .divKLo => some (((s.dieDivider i).map fun d => halfOf d.k 0).getD 0)
  | .divKHi => some (((s.dieDivider i).map fun d => halfOf d.k 1).getD 0)
  | .divSuppressed => some (Tab.getD s.motion.suppressed i 0).toNat
  | .mapCfg => some (((s.dieDivider i).map fun d => d.mapLog2).getD 0)
  | .capStatus => some (s.cap.waiting.length + b2n (!s.cap.waiting.isEmpty) * 512)
  | .libStatus => some (s.libStatus i)
  | .libNextLo => some (((Tab.get s.cap.libs i).map fun l => halfOf l.next 0).getD 0)
  | .libNextHi => some (((Tab.get s.cap.libs i).map fun l => halfOf l.next 1).getD 0)
  | .libOldestLo => some (((Tab.get s.cap.libs i).map fun l => halfOf l.oldest 0).getD 0)
  | .libOldestHi => some (((Tab.get s.cap.libs i).map fun l => halfOf l.oldest 1).getD 0)
  | .libFree => some (((Tab.get s.cap.libs i).map fun l => sat ((l.size - l.used) / 1024) 0xFFFFFFFF).getD 0)
  | .candStatus => some (match s.train.cand.current with
      | none => s.train.cand.gen.toNat * 2 ^ 16
      | some _ => 1 + s.train.cand.job * 2 + s.train.cand.base * 256 + s.train.cand.gen.toNat * 2 ^ 16)
  | .jobStatus => some (s.trainStatus i)
  | .jobEpoch => some (s.trainJob i).epoch
  | .jobStep => some (s.trainJob i).step
  | .jobLoss => some (s.trainJob i).loss.toNat
  | .jobUsed => some (s.trainJob i).used
  | .jobSkipped => some (s.trainJob i).skipped
  | .jobTLo => some (halfOf (s.trainJob i).t 0)
  | .jobTHi => some (halfOf (s.trainJob i).t 1)
  | .fldLinkStatus => some (s.linkCode + b2n s.field.fcSafe * 4)
  | .fldPpsIgnored => some s.field.ppsIgnored.toNat
  | .fldDiLevel => some s.field.inputs.toNat
  | .fldQOnLo => some (s.outBits 0 fun o => o.on)
  | .fldQOnHi => some (s.outBits 32 fun o => o.on)
  | .fldQHostLo => some (halfOf s.field.qHost.toNat 0)
  | .fldQHostHi => some (halfOf s.field.qHost.toNat 1)
  | .qMeas => some (s.fld .qMeas [i] 0 10 + b2n (s.output i).on * 1024 + b2n (s.output i).isTripped * 2048)
  | .cntValue => some (Tab.getD s.field.counters i {}).count.toNat
  | .cntFreq => some (Tab.getD s.field.counters i {}).freq.toNat
  | .cntCtrl => some (b2n (s.fieldRec 4 i).isSome * 2)
  | _ => none

/-- What a register shows. -/
def State.view (s : State) (r : RN) (ix : List Nat) : Word :=
  match s.shown r ix with
  | some v => n32 v
  | none => s.stored r ix

/-- What the four bytes at a control-space offset show; 0 where no block occupies it (R7). -/
def State.viewAt (s : State) (off : Nat) : Word :=
  match regAt off with
  | some (r, ix) => s.view r ix
  | none => 0

end Sys2Proof.Machine
end

