-- ==== Sys2Proof/Machine/Recorder.lean ====
section
/-! DEFINITION. The event recorder (21_faults_and_event_recorder.md R522 to R539): acceptance,
coalescing and floods, the two stores, snapshots, and the export paths. -/

namespace Sys2Proof.Machine

/-! ### The stores (R524) -/

/-- How many records a record takes with its continuations. -/
def EvRec.size (r : EvRec) : Nat := 1 + r.conts.length

/-- The units a record of a severity displaces, oldest first, so that `need` places come free:
units of its own severity or lower, never a critical one. None where they do not suffice. -/
def displaced {α : Type} (sev : Nat) : Nat → List (α × Nat × Nat) → Option (List α)
  | 0, _ => some []
  | _ + 1, [] => none
  | need + 1, (a, size, v) :: r =>
      if v ≤ sev ∧ v ≠ 5 ∧ 0 < size then (displaced sev (need + 1 - size) r).map fun l => a :: l
      else displaced sev (need + 1) r

/-- The number of records on chip. -/
def State.onChip (s : State) : Nat := s.rec'.chip.foldl (fun t r => t + r.size) 0

/-- A slot of the spill ring holds a continuation. -/
def State.isCont (s : State) (slot : Nat) : Bool := bit (byteAt (s.load (spillAddr slot) 64) 0x1B) 4

/-- The units of the spill ring in SEQ order: their slots, sizes and severities. -/
def State.ringUnits (s : State) : List (List Nat × Nat × Nat) :=
  (s.rec'.ring.foldl (fun (u : List (List Nat × Nat × Nat)) (slot, _, sev) =>
    match s.isCont slot, u with
    | true, (slots, n, v) :: r => (slots ++ [slot], n + 1, v) :: r
    | _, u => ([slot], 1, sev) :: u) []).reverse

/-- Removes slots from the spill ring; their bytes are zeroed, so that no reader takes them. -/
def State.dropSlots (s : State) (slots : List Nat) : State :=
  let s := slots.foldl (fun s k => s.store (spillAddr k) (List.replicate 64 0)) s
  { s with rec' := { s.rec' with ring := s.rec'.ring.filter fun r => !slots.contains r.1 } }

/-- The next `n` free slots of the spill ring in circular order. -/
def State.spillSlots (s : State) (n : Nat) : List Nat :=
  let used := s.rec'.ring.map Prod.fst
  let rec go : Nat → Nat → Nat → List Nat
    | 0, _, _ => []
    | _ + 1, 0, _ => []
    | fuel + 1, n + 1, k =>
        if used.contains k then go fuel (n + 1) ((k + 1) % 524288)
        else k :: go fuel n ((k + 1) % 524288)
  go (used.length + n) n s.rec'.ringNext

/-- Moves the oldest record on chip to the spill ring with its continuations (R524). A record that
finds no slot it may take waits. -/
def State.spillMove (s : State) : State :=
  match s.rec'.spillOk, s.rec'.chip with
  | true, r :: rest =>
      let free := 524288 - s.rec'.ring.length
      match displaced r.severity (r.size - free) s.ringUnits with
      | none => s
      | some gone =>
          let s := s.dropSlots gone.flatten
          let slots := s.spillSlots r.size
          let s := (slots.zip r.parts).foldl (fun s (k, p) => s.store (spillAddr k) p.2) s
          { s with rec' := { s.rec' with
              chip := rest
              ring := s.rec'.ring ++ (slots.zip r.parts).map fun (k, p) => (k, p.1, r.severity)
              ringNext := ((slots.getLast?).getD s.rec'.ringNext + 1) % 524288 } }
  | _, _ => s

/-! ### Snapshots (R525) -/

/-- The lowest-numbered enabled class that a record matches. -/
def State.snapClass (s : State) (r : EvRec) : Option Nat :=
  (List.range 4).find? fun k =>
    let f (lo w : Nat) : Nat := s.fld .evrClassMatch [k] lo w
    f 0 1 == 1 && decide (f 1 3 ≤ 5) && decide (f 1 3 ≤ r.severity) &&
    (f 8 8 == 0xFF || f 8 8 == r.source) && (f 16 8 == 0xFF || f 16 8 == r.status)

/-- What a register reads in a snapshot: a mirrored FIELD register as last received. -/
def State.snapReg (s : State) (off : Nat) : Word :=
  if 0xF00000 ≤ off ∧ off < 0x1000000 ∧ 0xF00014 ≤ off then Tab.getD s.field.mirror off 0
  else s.viewAt off

/-- A continuation record. -/
def State.continuation (s : State) (k part : Nat) (r : EvRec) : Bytes :=
  let reg (n : Nat) : Bytes :=
    let a := s.reg .evrClassAddr [k, 8 * part + n]
    natLe 4 (if bit a 31 then (s.snapReg (slice a 2 26 * 4)).toNat else 0)
  natLe 8 0 ++ (List.range 4).flatMap reg ++ natLe 1 r.severity ++ natLe 1 r.source ++
  natLe 1 r.status ++ [0x10] ++ natLe 1 part ++ natLe 3 0 ++
  ((List.range 4).flatMap fun n => reg (4 + n)) ++ natLe 8 0 ++ natLe 8 0

/-- The continuations of a record for a class. -/
def State.continuations (s : State) (k : Nat) (r : EvRec) : List Bytes :=
  let second := (List.range 8).any fun n => bit (s.reg .evrClassAddr [k, 8 + n]) 31
  s.continuation k 0 r :: (if second then [s.continuation k 1 r] else [])

/-! ### Export (R531, R532, R383) -/

/-- A record joins an export path's queue of 256. -/
def ExportPath.put (p : ExportPath) (r : EvRec) : ExportPath × Bool :=
  if p.queue.length < 256 then ({ p with queue := p.queue ++ [r] }, false)
  else
    let drop (q : EvRec) (queue : List EvRec) : ExportPath :=
      { queue := queue, drops := listUpd p.drops q.severity (· + 1), lastDropped := q.seq }
    match findIdxOpt (fun q => q.severity < r.severity) p.queue with
    | some i => (drop (p.queue.getD i r) (p.queue.eraseIdx i ++ [r]), true)
    | none => (drop r p.queue, true)

/-- A stored record goes to the export paths that take it. -/
def State.exportRec (s : State) (r : EvRec) : State :=
  let min' := s.fld .evrSyslogCfg [] 1 3
  let syslogOn := s.fld .evrSyslogCfg [] 0 1 == 1 && s.reg .evrSyslogIp [] != 0 &&
    decide (min' ≤ 5) && decide (min' ≤ r.severity)
  let s := if !syslogOn then s else
    let (p, lost) := s.rec'.syslog.put r
    let s := { s with rec' := { s.rec' with syslog := p } }
    if lost then (s.count .evrExportDropSyslog []).setFlag .evrFlags [] 3 else s
  let fan : Bool := match s.group with
    | some g => decide (Grp.stretch g 0x34 1 ≤ r.severity) && decide (Grp.stretch g 0x34 1 ≤ 5) &&
        !bit r.flags.toNat 3
    | none => false
  if !fan then s else
    let (p, lost) := s.rec'.fanout.put r
    let s := { s with rec' := { s.rec' with fanout := p } }
    if lost then (s.count .evrExportDropFanout []).setFlag .evrFlags [] 3 else s

/-- The summary a path sends first after drops. -/
def State.exportSummary (s : State) (p : ExportPath) : EvRec :=
  { warning 3 with
    time := s.tb0, tb1 := n64 s.now, flags := 0x04
    arg0 := n64 (leNat (p.drops.map fun d => BitVec.ofNat 8 (sat d 0xFF))), arg1 := n64 p.lastDropped }

/-- Hexadecimal digits of a number. -/
def hexDigits (n v : Nat) : String :=
  String.ofList ((List.range n).map fun i => Nat.digitChar (v / 16 ^ (n - 1 - i) % 16))

/-- A number in hexadecimal with 0x. -/
def hex (v : Nat) : String := "0x" ++ String.ofList (Nat.toDigits 16 v)

/-- A decimal number of at least `n` digits. -/
def dec (n v : Nat) : String :=
  let t := Nat.toDigits 10 v
  String.ofList (List.replicate (n - t.length) '0' ++ t)

/-- The date of a day counted from 1 January 1970: year, month, day. -/
def civil (days : Nat) : Nat × Nat × Nat :=
  let z := days + 719468
  let era := z / 146097
  let doe := z % 146097
  let yoe := (doe - doe / 1460 + doe / 36524 - doe / 146096) / 365
  let doy := doe - (365 * yoe + yoe / 4 - yoe / 100)
  let mp := (5 * doy + 2) / 153
  let m := if mp < 10 then mp + 3 else mp - 9
  (yoe + era * 400 + (if m ≤ 2 then 1 else 0), m, doy - (153 * mp + 2) / 5 + 1)

/-- The TIMESTAMP of a message (R531). -/
def State.syslogTime (s : State) : String :=
  let b := s.time.tb2
  if !b.seconds || !b.stepped then "-" else
  let sec := b.ns / 1000000000
  let (y, m, d) := civil (sec / 86400)
  dec 4 y ++ "-" ++ dec 2 m ++ "-" ++ dec 2 d ++ "T" ++ dec 2 (sec / 3600 % 24) ++ ":" ++
  dec 2 (sec / 60 % 60) ++ ":" ++ dec 2 (sec % 60) ++ "." ++ dec 6 (b.ns % 1000000000 / 1000) ++ "Z"

/-- The RFC 5424 message of a record (R531). -/
def State.syslogText (s : State) (r : EvRec) : String :=
  let pri := (16 + s.fld .evrSyslogCfg [] 4 3) * 8 + (7 - r.severity)
  "<" ++ dec 1 pri ++ ">1 " ++ s.syslogTime ++ " il9640-" ++ hexDigits 16 Config.serial.toNat ++
  " iluern - " ++ hexDigits 2 r.status ++ " - " ++
  "seq=" ++ dec 1 r.seq ++ " tb0=" ++ hex r.time.toNat ++ " tb1=" ++ hex r.tb1.toNat ++ " sev=" ++
  dec 1 r.severity ++ " src=" ++ hex r.source ++ " status=" ++ hex r.status ++ " flags=" ++
  hex r.flags.toNat ++ " init=" ++ hex r.initiator ++ " sender=" ++ hex r.sender ++ " count=" ++
  dec 1 r.count ++ " reg=" ++ hex r.flagReg.toNat ++ " bit=" ++ hex r.flagBit ++ " arg0=" ++
  hex r.arg0.toNat ++ " arg1=" ++ hex r.arg1.toNat

/-- Sends what the syslog queue holds, a summary of drops first. -/
def State.drainSyslog (s : State) : State :=
  let p := s.rec'.syslog
  let all := (if p.drops.any (· != 0) then [s.exportSummary p] else []) ++ p.queue
  let s := all.foldl (fun s r => s.emit (.syslog [s.syslogText r])) s
  { s with rec' := { s.rec' with syslog := {} } }

/-- Sends what the fan-out queue holds as EVENT messages (R383). -/
def State.drainFanout (s : State) : State :=
  let p := s.rec'.fanout
  let all := (if p.drops.any (· != 0) then [s.exportSummary p] else []) ++ p.queue
  let s := all.foldl (fun s r => s.groupSend none 0x08 r.bytes) s
  { s with rec' := { s.rec' with fanout := {} } }

/-! ### Acceptance (R522, R524, R525) -/

/-- Accepts a record into the on-chip store: its snapshot, its SEQ, the exports, and INT_STATUS.EVENT
for an error or critical record. None where no slot may be taken. -/
def State.accept (s : State) (r : EvRec) : Option State :=
  let r := match s.snapClass r with
    | some k => { r with cls := k, flags := r.flags ||| 0x20, conts := s.continuations k r }
    | none => r
  let units := s.rec'.chip.map fun q => (q.seq, q.size, q.severity)
  (displaced r.severity (s.onChip + r.size - 8192) units).map fun (gone : List Nat) =>
    let r := { r with seq := s.rec'.seqNext }
    let s := { s with rec' := { s.rec' with
      chip := (s.rec'.chip.filter fun (q : EvRec) => !gone.contains q.seq) ++ [r]
      seqNext := s.rec'.seqNext + r.size } }
    let s := s.exportRec r
    if 4 ≤ r.severity then s.raiseAll 0 else s

/-- Accepts a record, or drops and counts it. -/
def State.acceptOrDrop (s : State) (r : EvRec) : State :=
  match s.accept r with
  | some t => t
  | none => (s.countDrop r.severity).setFlag .evrFlags [] 0

/-! ### Rates and floods (R528, R529) -/

/-- The source key of a record. -/
def EvRec.key (r : EvRec) : SrcKey :=
  if r.flagBit = 0xFF then ⟨r.source, 0xFFFFFFFF, 0xFF, r.status⟩ else ⟨r.source, r.flagReg, r.flagBit, 0⟩

/-- BURST of a severity. -/
def State.burst (s : State) (sev : Nat) : Nat := s.fld .evrRateSev [sev] 16 8

/-- The bucket of a key and severity; one never drawn on is full. -/
def State.bucket (s : State) (k : SrcKey) (sev : Nat) : Bucket :=
  (s.rec'.buckets.find? fun b => b.key == k && b.severity == sev).getD ⟨k, sev, s.burst sev, none⟩

/-- Puts a bucket back. -/
def State.setBucket (s : State) (b : Bucket) : State :=
  let same (c : Bucket) : Bool := c.key == b.key && c.severity == b.severity
  let bs := if s.rec'.buckets.any same then s.rec'.buckets.map (fun c => if same c then b else c)
    else s.rec'.buckets ++ [b]
  { s with rec' := { s.rec' with buckets := bs } }

/-- A record of a key that is in flood counts in it; a coalesced one starts a flood (R529). -/
def State.floodCount (s : State) (r : EvRec) (coalesced : Bool) : State :=
  let k := r.key
  if s.rec'.floods.any (fun f => f.key == k) then
    let one (f : Flood) : Flood :=
      if f.key == k then { f with total := f.total + 1, severity := max f.severity r.severity } else f
    { s with rec' := { s.rec' with floods := s.rec'.floods.map one } }
  else if coalesced then
    ({ s with rec' := { s.rec' with floods := s.rec'.floods ++ [⟨k, s.now, 1, r.severity⟩] } } : State)
      |>.setFlag .evrFlags [] 1
  else s

/-- A record that found no token joins the pending record of its key and severity. -/
def Bucket.coalesce (b : Bucket) (r : EvRec) : Bucket :=
  { b with pending := some (match b.pending with
      | none => { r with flags := r.flags ||| 0x02, count := 1, arg1 := r.time }
      | some p => { p with count := sat (p.count + 1) 0xFFFF, arg1 := r.time }) }

/-- One record reaches the recorder: it takes a token and is accepted, or is coalesced. -/
def State.recordOne (s : State) : State :=
  match s.rec'.queue with
  | [] => s
  | r :: rest =>
      let s := { s with rec' := { s.rec' with queue := rest } }
      let b := s.bucket r.key r.severity
      if 0 < b.tokens then
        ((s.setBucket { b with tokens := b.tokens - 1 }).floodCount r false).acceptOrDrop r
      else (s.setBucket (b.coalesce r)).floodCount r true

/-- A bucket gains a token; a pending record takes it and is accepted. A critical one that finds no
slot stays pending. -/
def State.refill (s : State) (i : Nat) : State :=
  match s.rec'.buckets[i]? with
  | none => s
  | some b =>
      let tokens := min (b.tokens + 1) (s.burst b.severity)
      match b.pending, decide (0 < tokens) with
      | some p, true => match s.accept p with
          | some t => t.setBucket { b with tokens := tokens - 1, pending := none }
          | none =>
              if p.severity = 5 then s.setBucket { b with tokens := tokens }
              else ((s.setBucket { b with tokens := tokens - 1, pending := none }).countDrop
                p.severity).setFlag .evrFlags [] 0
      | _, _ => s.setBucket { b with tokens := tokens }

/-- Every bucket of a key is full and no record of it is pending. -/
def State.keyQuiet (s : State) (k : SrcKey) : Bool :=
  (s.rec'.buckets.filter fun b => b.key == k).all fun b =>
    decide (s.burst b.severity ≤ b.tokens) && b.pending.isNone

/-- A flood ends: its summary is written without a token. -/
def State.floodEnd (s : State) (i : Nat) : State :=
  match s.rec'.floods[i]? with
  | none => s
  | some f =>
      if !s.keyQuiet f.key then s else
      let s := { s with rec' := { s.rec' with floods := s.rec'.floods.eraseIdx i } }
      s.acceptOrDrop { ev f.severity f.key.source with
        time := s.tb0, tb1 := n64 s.now, status := f.key.status, flags := 0x04
        flagReg := f.key.flagReg, flagBit := f.key.flagBit, arg0 := n64 f.total
        arg1 := n64 ((s.now - f.start) / 1000) }

/-! ### Clearing (R534, R521) -/

/-- Removes stored records that a test on the severity accepts. -/
def State.clearRecs (s : State) (f : Nat → Bool) : State :=
  let s := { s with rec' := { s.rec' with chip := s.rec'.chip.filter fun r => !f r.severity } }
  s.dropSlots ((s.rec'.ring.filter fun r => f r.2.2).map Prod.fst)

/-- EVR.CTRL.CLEAR_CRITICAL. -/
def State.clearCritical (s : State) (by' : Nat) : State :=
  (s.clearRecs (· == 5)).log { notice 3 with initiator := by' }

/-- EVR.CTRL.CLEAR_ALL. -/
def State.clearAll (s : State) (by' : Nat) : State :=
  (s.clearRecs fun _ => true).log { notice 3 with initiator := by' }

/-- EVR.CTRL.ZERO_COUNTERS: every companion counter is 0. -/
def State.zeroCounters (s : State) : State :=
  { s with regs := s.regs.filter fun (off, _) => !((regAt off).map fun r => r.1.isCounter).getD false }

/-! ### After a warm reset (R526) -/

/-- The recorder rebuilds its index from the usable slots of the ring and goes on from the highest
SEQ found; its first record says so. -/
def State.rebuildRecorder (s : State) : State :=
  let usable := s.rec'.ring.filter fun (slot, seq, _) =>
    let b := s.load (spillAddr slot) 64
    leAt b 0 8 == seq && leAt b 0x38 8 == seq && seq != 0 && (s.badIn (spillAddr slot) 64).isNone
  let top := usable.foldl (fun m r => max m r.2.1) 0
  let s := { s with rec' := { ring := usable, ringNext := s.rec'.ringNext, seqNext := top + 1
                              spillOk := s.rec'.spillOk } }
  s.log { info 3 with flags := 0x04, arg0 := n64 top, arg1 := n64 usable.length }

/-- Spill slots found uncorrectable lose their records (R443). -/
def State.checkSpill (s : State) : State :=
  (s.rec'.ring.filter fun r => (s.badIn (spillAddr r.1) 64).isSome).foldl (fun s (slot, _, _) =>
    let s := match s.badIn (spillAddr slot) 64 with
      | some g => s.reportUe g 0x40
      | none => s
    s.dropSlots [slot]) s

/-! ### The commands -/

/-- EVENT_RECORD (R522). -/
def execEventRecord (s : State) : Res := .next s.recordOne

/-- SPILL_MOVE (R524). -/
def execSpillMove (s : State) : Res := .next s.checkSpill.spillMove

/-- TOKEN_REFILL (R528). -/
def execTokenRefill (key : Nat) (s : State) : Res := .next (s.refill key)

/-- FLOOD_END (R529). -/
def execFloodEnd (key : Nat) (s : State) : Res := .next (s.floodEnd key)

/-- CLEAR_CRITICAL (R534). -/
def execClearCritical (seat : Fin 4) (s : State) : Res := .next (s.clearCritical seat)

/-- CLEAR_ALL (R534). -/
def execClearAll (seat : Fin 4) (s : State) : Res := .next (s.clearAll seat)

/-- ZERO_COUNTERS (R521). -/
def execZeroCounters (_seat : Fin 4) (s : State) : Res := .next s.zeroCounters

end Sys2Proof.Machine
end

