-- ==== Sys2Proof/Machine/Time.lean ====
section
/-! DEFINITION. The time bases, their servo and PTP (15_line_group_and_time.md R384 to R391, R399
to R401). -/

namespace Sys2Proof.Machine

/-- The code STEP_REFUSED. -/
abbrev Code.stepRefused : Nat := 0x36

/-- Changes a time base. -/
def State.updBase (s : State) (b : Nat) (f : TimeBase → TimeBase) : State :=
  { s with time := s.time.setBase b (f (s.time.base b)) }

/-- The TIME record of a base; none is an empty record. -/
def State.timeRec (s : State) (b : Nat) : Bytes := (s.imgRecord 13 1 b).getD []

/-- The PTP record, if PTP is configured. -/
def State.ptpRec (s : State) : Option Bytes := s.imgRecord 13 2 0

namespace TRec
def seconds (r : Bytes) : Bool := !r.isEmpty && byteAt r 4 == 0
def source (r : Bytes) : Nat := byteAt r 5
def initialStep (r : Bytes) : Bool := byteAt r 6 == 1
def jumpNs (r : Bytes) : Nat := if leAt r 8 4 = 0 then 1000000 else leAt r 8 4
/-- KP and KI: FP32, 0 selecting the default. -/
def gain (r : Bytes) (off : Nat) (default : Rat) : Rat :=
  if leAt r off 4 = 0 then default else (decodeEl 0x14 (leAt r off 4)).rat
def lockNs (r : Bytes) : Nat := if leAt r 0x14 4 = 0 then 250 else leAt r 0x14 4
def ppsDelay (r : Bytes) : Nat := leAt r 0x18 4
end TRec

namespace PtpRec
def role (r : Bytes) : Nat := byteAt r 4
def peer (r : Bytes) : Bool := byteAt r 5 == 1
def domain (r : Bytes) : Nat := byteAt r 7
def logSync (r : Bytes) : Int := sleAt r 8 1
def twoStep (r : Bytes) : Bool := byteAt r 0xE == 1
def ports (r : Bytes) : List Nat := [0, 1].filter (bit (byteAt r 0x14))
end PtpRec

/-! ### The servo (R388, R389) -/

/-- The signed frequency base of a time base, ppb. -/
def State.basePpb (s : State) (b : Nat) : Int := toSigned 32 (s.reg .tbBasePpb [b])

/-- The increment that the frequency base and the servo give: the nominal one scaled, rounded to
the nearest 2^-32 ns. -/
def scaledInc (ppb : Rat) : Nat := (((0x400000000 : Nat) : Rat) * (1 + ppb / 1000000000) + 1 / 2).floor.toNat

/-- A base runs at the increment of its servo unless a seat's increment replaces it; TB1 stays
nominal. -/
def State.setInc (s : State) (b : Nat) : State :=
  if b = 1 ∨ s.fld .tbCtrl [b] 0 1 = 1 then s
  else s.updBase b fun t => { t with inc := scaledInc ((s.basePpb b : Rat) + t.adj) }

/-- Moves a base by a signed number of nanoseconds. -/
def TimeBase.shift (t : TimeBase) (ns : Int) : TimeBase :=
  t.set (((t.value : Int) + ns * 2 ^ 32) % ((t.cycle * 2 ^ 32 : Nat) : Int)).toNat

/-- The sample interval of a base in seconds. -/
def State.sampleInterval (s : State) (b : Nat) : Rat :=
  if b = 0 then match s.ptpRec with
    | some r => pow2 (PtpRec.logSync r)
    | none => 1
  else 1

/-- The state a base takes on an accepted sample with a lock count. -/
def tbNext (st : TbSt) (count : Nat) : TbSt :=
  match st with
  | .locked => .locked
  | _ => if 16 ≤ count then .locked else .uncalibrated

/-- An offset sample of a disciplined base, in ns. -/
def State.servo (s : State) (b : Nat) (o : Int) : State :=
  let r := s.timeRec b
  let t := s.time.base b
  let off : Int := max (-(2 ^ 31)) (min o (2 ^ 31 - 1))
  let s := s.setReg .tbOffset [b] (toUnsigned 32 off)
  let first := TRec.initialStep r && !t.sampled
  let mag := o.natAbs
  if TRec.jumpNs r < mag ∧ !first then
    let s := s.updBase b fun t => { t with st := .refusing, sampled := true, lockCount := 0 }
    s.flagLog .tbStatus [b] 3 { warning 4 with arg0 := BitVec.ofInt 64 o }
  else
    let count := if mag ≤ TRec.lockNs r then t.lockCount + 1 else 0
    if first then
      s.updBase b fun t => { t.shift (-o) with
        sampled := true, stepped := true, lockCount := count, st := tbNext t.st count }
    else if t.st == .locked && decide (900 < mag) then
      s.updBase b fun t => { t with st := .holdover, sampled := true, lockCount := 0 }
    else
      let ts := s.sampleInterval b
      let i := t.integ + TRec.gain r 0x10 (3 / 10) * (o : Rat) / ts
      let a := -(TRec.gain r 0xC (7 / 10) * (o : Rat) / ts + i)
      let a := if a < -500000 then -500000 else if 500000 < a then 500000 else a
      (s.updBase b fun t => { t with
        integ := i, adj := a, sampled := true, lockCount := count, st := tbNext t.st count }).setInc b

/-- A locked base without samples for three intervals keeps its adjustment. -/
def State.holdover (s : State) (b : Nat) : State :=
  s.updBase b fun t => if t.st == .locked then { t with st := .holdover, lockCount := 0 } else t

/-- The offset of a 1PPS edge on TB3 and the sample it gives (R388). -/
def State.ppsSample (s : State) (edgeAgoNs : Nat) : State :=
  if TRec.source (s.timeRec 3) ≠ 1 then s else
  let at' : Int := (s.time.tb3.ns : Int) - edgeAgoNs - TRec.ppsDelay (s.timeRec 3)
  let near := (at' + 500000000) / 1000000000 * 1000000000
  s.servo 3 (at' - near)

/-! ### PTP (R384, R385) -/

/-- The comparison values of a clock in the order of IEEE 1588. -/
def annRank (a : Announce) : List Nat :=
  [a.priority1, a.clockClass, a.accuracy, a.variance, a.priority2, a.identity.toNat, a.stepsRemoved]

/-- The die's own clock as master. Its accuracy and variance are the standard's values for an
unknown clock, its identity the EUI-64 of its MAC address (PRESUMED, notes/assumptions/16.md). -/
def ownClock (r : Bytes) : Announce :=
  let m := Config.macAddress.toNat
  { priority1 := byteAt r 0xB, clockClass := byteAt r 0xD, accuracy := 0xFE, variance := 0xFFFF
    priority2 := byteAt r 0xC, identity := n64 (m / 2 ^ 24 * 2 ^ 40 + 0xFFFE * 2 ^ 24 + m % 2 ^ 24)
    stepsRemoved := 0, domain := PtpRec.domain r }

/-- The die is the PTP master. -/
def State.ptpMaster (s : State) : Bool := s.fld .timePtpStatus [] 0 2 == 2

/-- Shows the role, the master's port and the grandmaster. -/
def State.showMaster (s : State) (role port : Nat) (id : BitVec 64) : State :=
  let s := (s.setFld .timePtpStatus [] 0 2 role).setFld .timePtpStatus [] 2 1 port
  (s.setReg .timeGmId [0] id.toNat).setReg .timeGmId [1] (id.toNat / 2 ^ 32)

/-- The role of a PTP record with no foreign master known: the master under ROLE 2 and 3. -/
def State.ptpStart (s : State) : State :=
  let s := { s with time := { s.time with master := none } }
  match s.ptpRec with
  | none => (s.showMaster 0 0 0).updBase 0 fun t => { t with st := .free }
  | some r =>
      match PtpRec.role r with
      | 0 => (s.showMaster 0 0 0).updBase 0 fun t => { t with st := .free }
      | 1 => (s.showMaster 1 0 0).updBase 0 fun t =>
          { t with st := if TRec.source (s.timeRec 0) = 1 then .listening else .free, lockCount := 0 }
      | _ => (s.showMaster 2 0 (ownClock r).identity).updBase 0 fun t => { t with st := .master }

/-- An Announce message: the best master clock algorithm of the role. -/
def State.announce (s : State) (port : Nat) (a : Announce) : State :=
  match s.ptpRec with
  | none => s
  | some r =>
      let role := PtpRec.role r
      if (role ≠ 1 ∧ role ≠ 3) ∨ a.domain ≠ PtpRec.domain r ∨ !(PtpRec.ports r).contains port then s else
      let better : Bool := match s.time.master with
        | none => true
        | some (p, m) => (p == port && m.identity == a.identity) || lexLt (annRank a) (annRank m)
      if !better then s else
      let own := ownClock r
      if role = 3 ∧ lexLt (annRank own) (annRank a) then s.ptpStart
      else
        let s := { s with time := { s.time with master := some (port, a) } }
        let s := s.showMaster 1 port a.identity
        s.updBase 0 fun t => if t.st == .master then { t with st := .listening, lockCount := 0 } else t

/-- A Sync exchange completes. -/
def State.ptpSample (s : State) (offsetNs : Int) (delay : Word) : State :=
  match s.ptpRec, s.time.master with
  | some _, some _ =>
      let s := s.setStored .timeMeanPathDelay [] delay
      if TRec.source (s.timeRec 0) = 1 then s.servo 0 offsetNs else s
  | _, _ => s

/-- A delay request: it shows the partner's mechanism, and is answered where the mechanism is the
die's own and the die is the one to answer. -/
def State.delayReq (s : State) (port : Nat) (seq : Nat) (peer : Bool) : State :=
  let s := s.setFld .netPortStatus [port] (if peer then 5 else 6) 1 1
  match s.ptpRec with
  | none => s
  | some r =>
      if PtpRec.role r = 0 ∨ !(PtpRec.ports r).contains port then s
      else if PtpRec.peer r ≠ peer then s.setFlag .netPortErr [port] 2
      else if peer ∨ s.ptpMaster then s.emit (.ptp 3 port seq)
      else s

/-- A message interval of PTP expires: 0 Sync (and Follow_Up of a two-step clock), 1 Announce,
2 a delay request. -/
def State.ptpTimer (s : State) (kind : Nat) : State :=
  match s.ptpRec with
  | none => s
  | some r =>
      if PtpRec.role r = 0 then s else
      let due : Bool := if kind = 2 then PtpRec.peer r || !s.ptpMaster else s.ptpMaster
      if !due then s else
      let seq := s.time.ptpSeq
      let s := { s with time := { s.time with ptpSeq := (seq + 1) % 65536 } }
      (PtpRec.ports r).foldl (fun s p =>
        let s := s.emit (.ptp kind p seq)
        if kind = 0 ∧ PtpRec.twoStep r then s.emit (.ptp 4 p seq) else s) s

/-! ### Steps and snapshots (R390, R399) -/

/-- A write of TB_STEP_CTRL: GO applies the step, on TB1 it is refused. -/
def State.stepGo (s : State) (by' b : Nat) (v : Nat) : State :=
  if bit v 0 ∧ b = 1 then
    s.log { notice 4 with status := Code.stepRefused, initiator := by', arg0 := n64 b }
  else
    let s := if b = 1 then s else s.setFld .tbStepCtrl [b] 1 1 (b2n (bit v 1))
    if !bit v 0 then s else
    let raw := s.pair .tbStepLo .tbStepHi [b]
    let t := s.time.base b
    let delta : Int := if bit v 1 then (t.ofStored raw : Int) - t.ns else toSigned 64 raw
    let s := s.updBase b fun t =>
      { (if bit v 1 then t.set (t.ofStored raw * 2 ^ 32) else t.shift delta) with
        integ := 0, lockCount := 0, stepped := true }
    (s.setFlag .tbStatus [b] 4).log
      { notice 4 with initiator := by', arg0 := n64 b, arg1 := BitVec.ofInt 64 delta }

/-- Captures all four bases at one tick. -/
def State.capture (s : State) : State :=
  (List.range 4).foldl (fun s b => (List.range 3).foldl (fun s k =>
    s.setReg .snapW [b, k] ((s.time.base b).word k)) s) s

/-! ### The commands -/

/-- PTP_SYNC (R388). -/
def execPtpSync (offsetNs : Int) (meanPathDelay : Word) (s : State) : Res :=
  .next (s.ptpSample offsetNs meanPathDelay)

/-- PTP_ANNOUNCE (R384). -/
def execPtpAnnounce (port : Fin 2) (a : Announce) (s : State) : Res := .next (s.announce port a)

/-- PTP_DELAY_REQ (R384). -/
def execPtpDelayReq (port : Fin 2) (_identity : BitVec 64) (seq : BitVec 16) (peer : Bool) (s : State) : Res :=
  .next (s.delayReq port seq.toNat peer)

/-- PTP_MESSAGE_TIMER (R385). -/
def execPtpMessageTimer (kind : Fin 3) (s : State) : Res := .next (s.ptpTimer kind)

/-- HOLDOVER (R389). -/
def execHoldover (base : Fin 4) (s : State) : Res := .next (s.holdover base)

/-- TB_STEP_GO (R390). -/
def execTbStepGo (seat : Fin 4) (base : Fin 4) (value : Word) (s : State) : Res :=
  .next (s.stepGo seat base value.toNat)

/-- SNAP_CAPTURE (R399). -/
def execSnapCapture (_seat : Fin 4) (s : State) : Res := .next s.capture

end Sys2Proof.Machine
end

