-- ==== Sys2Proof/Machine/LineData.lean ====
section
/-! DEFINITION. Pixel formats (03_camera_ingest.md R79), where raw and corrected lines lie
(05_stripes_and_layouts.md R132, R134, R136), reading a corrected line's elements, and positions
interpolated between encoder samples (11_encoders_and_eject.md R286). -/

namespace Sys2Proof.Machine

/-! ### Pixel formats (R79) -/

/-- Components of a DATA_TYPE. -/
def dtComps (dt : Nat) : Nat :=
  match dt / 16 with
  | 0 => 1
  | 1 => 3
  | 2 => 3
  | _ => 2

/-- Bits of an element of a DATA_TYPE. -/
def dtBits (dt : Nat) : Nat := 8 + 2 * (dt % 16 - 1)

/-- A camera sends the components of a pixel together. -/
def dtPacked (dt : Nat) : Bool := dt / 16 == 2 || dt / 16 == 4

/-- A DATA_TYPE of the table. -/
def dtKnown (dt : Nat) : Bool :=
  (1 ≤ dt && dt ≤ 5) || (1 ≤ dt % 16 && dt % 16 ≤ 3 && 1 ≤ dt / 16 && dt / 16 ≤ 4)

/-- Bytes of a filed element. -/
def dtBytes (dt : Nat) : Nat := if dtBits dt = 8 then 1 else 2

namespace Strm
def comps (e : Bytes) : Nat := dtComps (dataType e)
end Strm

/-! ### A stream's line geometry -/

/-- The stream passes through its pipe (R102). -/
def passes (cfg : Bytes) (lp : Option (Bytes × Bytes)) : Bool := Strm.inLine cfg || lp.isSome

/-- Bytes of an element of a corrected line (R134). -/
def corrElem (cfg : Bytes) (lp : Option (Bytes × Bytes)) : Nat :=
  match lp with
  | some (_, t) => byteAt t 6 + 1
  | none => dtBytes (Strm.dataType cfg)

/-- Lane split is on. -/
def laneSplit (lp : Option (Bytes × Bytes)) : Bool :=
  match lp with
  | some (e, _) => Lp.function e 6
  | none => false

/-- The binning of an entry. -/
def lpBinning (lp : Option (Bytes × Bytes)) : Nat :=
  match lp with
  | some (e, _) => if Lp.function e 5 then max 1 (Lp.binning e) else 1
  | none => 1

/-- Bytes of one component row of a lane (R134). -/
def laneCompBytes (cfg : Bytes) (lp : Option (Bytes × Bytes)) : Nat :=
  roundUp ((Strm.laneWidth cfg + 2 * Strm.haloCols cfg) * corrElem cfg lp) 64

/-- Bytes of a component of a row of full width. -/
def rowCompBytes (cfg : Bytes) (lp : Option (Bytes × Bytes)) : Nat :=
  roundUp (Strm.width cfg / lpBinning lp * corrElem cfg lp) 64

/-- CORR_LINE_BYTES. -/
def corrLineBytes (cfg : Bytes) (lp : Option (Bytes × Bytes)) : Nat :=
  if laneSplit lp then max 1 (Strm.lanes cfg) * Strm.comps cfg * laneCompBytes cfg lp
  else Strm.comps cfg * rowCompBytes cfg lp

/-- WIDTH x components x element size. -/
def rawLineBytes (cfg : Bytes) : Nat := Strm.width cfg * Strm.comps cfg * dtBytes (Strm.dataType cfg)

/-- The format of the stream input's elements: UINT8 or UINT16. -/
def Stream.elemFmt (x : Stream) : Nat := if corrElem x.cfg x.lp = 1 then 0x04 else 0x06

/-! ### Addresses -/

/-- The base of the line store. -/
abbrev lineStoreBase : Nat := 0x2100000000

/-- The address of a raw line's slot. -/
def Stream.rawAddr (x : Stream) (n : Nat) : Nat :=
  x.layout.base + x.layout.rawOff + n % max 1 (Strm.bufferLines x.cfg) * x.layout.rawLineBytes

/-- The address of a corrected line's slot in the corrected area. -/
def Stream.corrAddr (x : Stream) (k : Nat) : Nat :=
  x.layout.base + x.layout.corrOff + k % max 1 x.layout.corrSlots * x.layout.corrLineBytes

/-- The address of a corrected line's row of the row window. -/
def Stream.winAddr (x : Stream) (k : Nat) : Nat :=
  lineStoreBase + x.layout.winOff + k % max 1 x.layout.winRows * x.layout.corrLineBytes

/-- Where a corrected line lies. -/
def Stream.lineAddr (x : Stream) (l : CorrLine) : Nat :=
  match l.loc with
  | .window => x.winAddr l.index
  | .corrected => x.corrAddr l.index
  | .raw => x.rawAddr l.index

/-- The bytes of a line in memory. -/
def Stream.lineBytes (x : Stream) (l : CorrLine) : Nat :=
  match l.loc with
  | .raw => x.layout.rawLineBytes
  | _ => x.layout.corrLineBytes

/-! ### Elements -/

/-- The elements of a row, little-endian. -/
def packRow (e : Nat) (vs : List Nat) : Bytes := vs.flatMap fun v => natLe e v

/-- A row padded to a size. -/
def padTo (n : Nat) (bs : Bytes) : Bytes := bs ++ List.replicate (n - bs.length) 0

/-- The pieces a corrected line is written in, each with its offset in the line: one row of full
width, or one row for each lane without the halo columns that do not exist (R109, R132). -/
def Stream.linePieces (x : Stream) (comps : List (List Nat)) : List (Nat × Bytes) :=
  let e := corrElem x.cfg x.lp
  if laneSplit x.lp then
    let w := Strm.laneWidth x.cfg
    let h := Strm.haloCols x.cfg
    let size := laneCompBytes x.cfg x.lp
    (List.range x.lanes).flatMap fun l => comps.zipIdx.map fun (row, c) =>
      let c0 := l * w - h
      let skip := h - l * w
      ((l * comps.length + c) * size + skip * e,
        packRow e ((row.drop c0).take (l * w + w + h - c0)))
  else comps.zipIdx.map fun (row, c) => (c * rowCompBytes x.cfg x.lp, packRow e row)

/-- Element (column, component) of a corrected line in memory. A lane reads its own row, halo columns included (R122);
a read for no lane takes each column from the lane it belongs to. -/
def Stream.elemOffset (x : Stream) (loc : LineLoc) (col c : Nat) (lane : Option Nat := none) : Nat :=
  let e := corrElem x.cfg x.lp
  match loc with
  | .raw => (c * Strm.width x.cfg + col) * e
  | _ =>
      if laneSplit x.lp then
        let w := max 1 (Strm.laneWidth x.cfg)
        let l := lane.getD (min (col / w) (x.lanes - 1))
        (l * Strm.comps x.cfg + c) * laneCompBytes x.cfg x.lp + (col + Strm.haloCols x.cfg - l * w) * e
      else c * rowCompBytes x.cfg x.lp + col * e

/-- The pixels of some columns of a corrected line, column by column, each with its components. -/
def State.linePixels (s : State) (x : Stream) (l : CorrLine) (col0 cols : Nat) (lane : Option Nat := none) :
    List (List Nat) :=
  let a := x.lineAddr l
  let e := corrElem x.cfg x.lp
  (List.range cols).map fun i => (List.range (Strm.comps x.cfg)).map fun c =>
    leNat (s.load (a + x.elemOffset l.loc (col0 + i) c lane) e)

/-- A line is read: an uncorrectable granule in it is reported and makes it unusable (R128, R443). -/
def State.touchLine (s : State) (stream k : Nat) : State :=
  match s.stream stream with
  | none => s
  | some x => match x.line k with
      | none => s
      | some l =>
          if l.cause ≠ 0 then s else
          match s.badIn (x.lineAddr l) (x.lineBytes l) with
          | none => s
          | some g =>
              (s.reportUe g 0x40).updStream stream fun x => { x with
                lines := x.lines.map fun m => if m.index = k then { m with cause := Code.memoryUncorrectable } else m }

/-! ### Positions at a time (R286, R84, R376) -/

/-- The position of a channel at a TB0 time, interpolated linearly between the two samples that
bracket it, rounded half up; none where no two do. -/
def Enc.posAtTb0 (e : Enc) (t : Nat) : Option Pos :=
  let pairs := e.samples.zip (e.samples.drop 1)
  match e.samples.find? fun p => p.1 == t with
  | some p => some p.2
  | none => (pairs.find? fun p => decide (p.2.1 < t) && decide (t < p.1.1)).map fun (hi, lo) =>
      posAdd lo.2 (halfUp ((posSub hi.2 lo.2 : Rat) * ((t - lo.1 : Nat) : Rat) / ((hi.1 - lo.1 : Nat) : Rat)))

/-- No sample after a TB0 time has come yet. -/
def Enc.awaits (e : Enc) (t : Nat) : Bool := (e.posAtTb0 t).isNone && e.samples.head?.all fun p => decide (p.1 < t)

/-- The position of a channel at a TB0 time, the newest sample where none brackets it. -/
def State.posAt (s : State) (enc t : Nat) : Pos := ((s.enc enc).posAtTb0 t).getD (s.diePos enc)

/-! ### Boundary strips sent (15_line_group_and_time.md R381) -/

/-- The strip entry k of a GROUP section. -/
def Grp.strip (g : Bytes) (k : Nat) : Bytes := bytesAt g (0x24 + 8 * k) 8

/-- The band of a corrected line, component after component. -/
def State.lineBand (s : State) (x : Stream) (l : CorrLine) (first cols : Nat) : Bytes :=
  let e := corrElem x.cfg x.lp
  (List.range (Strm.comps x.cfg)).flatMap fun c => (List.range cols).flatMap fun i =>
    if l.cause = 0 then s.load (x.lineAddr l + x.elemOffset l.loc (first + i) c) e else natLe e 0

/-- A corrected line of a stream is sent as STRIP messages to the peers of the active strips that
name it. -/
def State.sendStrips (s : State) (n k : Nat) : State :=
  match s.group, (s.stream n).bind fun x => (x.line k).map fun l => (x, l) with
  | some g, some (x, l) => [0, 1].foldl (fun s j =>
      let e := Grp.strip g j
      let active := if j = 0 then s.net.strip0.active else s.net.strip1.active
      if byteAt e 0 = 0xFF ∨ byteAt e 1 ≠ n ∨ !active then s else
      s.groupSend (some (byteAt e 0)) 0x04
        (natLe 8 k ++ natLe 8 ((s.groupCoord g l.pos).getD 0).toNat ++ natLe 8 s.tb0.toNat ++
          natLe 1 (b2n (l.cause ≠ 0)) ++ natLe 7 0 ++ s.lineBand x l (leAt e 2 2) (leAt e 4 2))) s
  | _, _ => s

end Sys2Proof.Machine
end

