-- ==== Sys2Proof/Machine/Pipe.lean ====
section
/-! DEFINITION. The line pipes (04_line_pipes.md R99 to R115): service order, the correction chain,
alignment, binning, statistics, emission, spilling, and the room lines need in their areas
(05_stripes_and_layouts.md R139 to R141). -/

namespace Sys2Proof.Machine

/-! ### Table headers (R110, R111) -/

namespace LpT
def black (t : Bytes) (c : Nat) : Nat := leAt t (2 * c) 2
def out16 (t : Bytes) : Bool := byteAt t 6 == 1
def outShift (t : Bytes) : Nat := byteAt t 7
def spacing (t : Bytes) (c : Nat) : Nat := leAt t (8 + 4 * c) 4
def time (t : Bytes) (c : Nat) : Int := sleAt t (0x14 + 4 * c) 4
def defectMode (t : Bytes) : Nat := byteAt t 0x20
def statsSet (t : Bytes) : Nat := byteAt t 0x21
def profileGroup (t : Bytes) : Nat := byteAt t 0x22
def ringLog2 (t : Bytes) : Nat := byteAt t 0x23
def statsEvery (t : Bytes) : Nat := max 1 (leAt t 0x24 2)
end LpT

/-- The offsets of the flat-field, defect and LUT arrays of a table, and its length (R111). -/
def lpArrays (cfg e : Bytes) : Nat × Nat × Nat × Nat :=
  let comps := Strm.comps cfg
  let ff := if Lp.function e 1 then 4 * Strm.width cfg * comps else 0
  let df := if Lp.function e 2 then 4 * Lp.defectCount e else 0
  let lut := if Lp.function e 4 then 2 * 4097 * comps else 0
  let a := 64
  let b := roundUp (a + ff) 64
  let c := roundUp (b + df) 64
  (a, b, c, roundUp (c + lut) 64)

/-! ### Steps 1 to 4 (R104 to R106) -/

/-- Black level and flat-field of one element: the working value, and whether the flat-field
clamped it at 65,535. -/
def correctEl (cfg e t : Bytes) (c x raw : Nat) : Nat × Bool :=
  let w := if Lp.function e 0 then raw - LpT.black t c else raw
  if Lp.function e 1 then
    let a := (lpArrays cfg e).1 + 4 * (c * Strm.width cfg + x)
    let v : Int := ((w : Int) - sleAt t (a + 2) 2) * (leAt t a 2 : Int)
    let r := (v + 8192) / 16384
    if 65535 < r then (65535, true) else (r.toNat, false)
  else (w, false)

/-- The defect list: column and component mask. -/
def defects (cfg e t : Bytes) : List (Nat × Nat) :=
  if Lp.function e 2 then
    let a := (lpArrays cfg e).2.1
    (List.range (Lp.defectCount e)).map fun i => (leAt t (a + 4 * i) 2, byteAt t (a + 4 * i + 2))
  else []

/-- The replacement of a defective element of a component: none where neither side has a column. -/
def replaceEl (mode width : Nat) (bad : List Nat) (row : List Nat) (x : Nat) : Option Nat :=
  let left := ([1, 2, 3, 4].find? fun d => d ≤ x && !bad.contains (x - d)).map fun d => row.getD (x - d) 0
  let right := ([1, 2, 3, 4].find? fun d => x + d < width && !bad.contains (x + d)).map fun d => row.getD (x + d) 0
  match mode, left, right with
  | 0, some a, some b => some ((a + b + 1) / 2)
  | 2, a, b => b.orElse fun _ => a
  | _, a, b => a.orElse fun _ => b

/-- Replaces the defective elements of a line: the line, and whether one found no replacement. -/
def replaceLine (cfg e t : Bytes) (comps : List (List Nat)) : List (List Nat) × Bool :=
  let ds := defects cfg e t
  let rs := comps.zipIdx.map fun (row, c) =>
    let bad := (ds.filter fun d => bit d.2 c).map Prod.fst
    let rep := bad.map fun x => (x, replaceEl (LpT.defectMode t) (Strm.width cfg) bad row x)
    (rep.foldl (fun r (x, v) => match v with
      | some v => listUpd r x fun _ => v
      | none => r) row, rep.any fun r => r.2.isNone)
  (rs.map Prod.fst, rs.any Prod.snd)

/-- A raw line of components passes steps 1 to 4: the working line, its saturation and drift sums,
and whether a defect stayed. `period` is the measured count period of the stream's encoder in 1/256 ns, as the die has
it (R107, 11_encoders_and_eject.md R286). -/
def enterPipe (x : Stream) (l : RawLine) (comps : List (List Nat)) (period : Nat) :
    WorkLine × Bool :=
  let base : WorkLine :=
    { index := l.index, pos := l.pos, time := l.time, block := l.block, blockTime := l.blockTime
      last := l.last, short := l.short, cause := l.cause, comps := comps, alignFlag := false
      rawSat := [], ffSat := [], drift := [], offs := [], cut := l.cut }
  match x.lp with
  | none => (base, false)
  | some (e, t) =>
      let top := 2 ^ dtBits (Strm.dataType x.cfg) - 1
      let rows := comps.zipIdx.map fun (row, c) =>
        row.zipIdx.map fun (v, i) => correctEl x.cfg e t c i v
      let vals := rows.map fun r => r.map Prod.fst
      let groups := ceilDiv (Strm.width x.cfg) 64
      let (fixed, open') := replaceLine x.cfg e t vals
      let offs := (List.range comps.length).map fun c =>
        if c = 0 then (0 : Rat) else
        (LpT.spacing t c : Rat) +
          (if 0 < period then (LpT.time t c : Rat) * 65536 / (period : Rat) else 0)
      ({ base with
        comps := fixed
        rawSat := comps.map fun row => (row.filter (· == top)).length
        ffSat := rows.map fun r => (r.filter Prod.snd).length
        drift := vals.map fun row => (List.range groups).map fun g =>
          ((row.drop (64 * g)).take 64).foldl (· + ·) 0
        offs := offs }, open')

/-! ### Alignment (R107) -/

/-- A blend of two working values by w8. -/
def blend (w8 a b : Nat) : Nat := (a * (256 - w8) + b * w8 + 128) / 256

/-- How one component of the line at the head of the waiting lines is formed. -/
inductive AlignPick where
  | wait
  | pick (a b : WorkLine) (w8 : Nat) (range stall : Bool)

/-- The lines that align component `c` of a line with those that follow it. `force` completes it with
the latest line that has entered. -/
def alignPick (n : WorkLine) (later : List WorkLine) (limit c : Nat) (force : Bool) : AlignPick :=
  let target : Rat := n.offs.getD c 0
  let near := later.take limit
  match findIdxOpt (fun m : WorkLine => decide (target ≤ (posSub m.pos n.pos : Rat))) near with
  | some i =>
      let m := near.getD i n
      let p := if i = 0 then n else near.getD (i - 1) n
      let gap := posSub m.pos p.pos
      if gap ≤ 0 then .pick m m 256 false true
      else
        let f := (target - (posSub p.pos n.pos : Rat)) / (gap : Rat)
        .pick p m (min 256 ((f * 256 + 1 / 2).floor.toNat)) false false
  | none =>
      if limit ≤ later.length then
        let m := (near.getLast?).getD n
        .pick m m 256 true false
      else if force then
        let m := (later.getLast?).getD n
        .pick m m 256 true false
      else .wait

/-- The head of the waiting lines leaves step 5, if it can: the aligned line, and whether a range or a
stall occurred. -/
def alignHead (x : Stream) (force : Bool) : Option (WorkLine × Bool × Bool) :=
  match x.align, x.lp with
  | [], _ => none
  | n :: _, none => some (n, false, false)
  | n :: later, some (e, _) =>
      if !Lp.function e 3 then some (n, false, false) else
      let picks := (List.range n.comps.length).drop 1 |>.map fun c =>
        (c, alignPick n later (Lp.alignLines e) c force)
      if picks.any fun p => match p.2 with
        | .wait => true
        | _ => false
      then none else
      some (picks.foldl (fun (l, r, st) (c, p) => match p with
        | .wait => (l, r, st)
        | .pick a b w8 range stall =>
            let row := (a.comps.getD c []).zipWith (blend w8) (b.comps.getD c [])
            let cause := if l.cause ≠ 0 then l.cause else if a.cause ≠ 0 then a.cause else b.cause
            ({ l with comps := listUpd l.comps c fun _ => row, cause := cause
                      alignFlag := l.alignFlag || range || stall }, r || range, st || stall))
        (n, false, false))

/-! ### Output conversion, statistics (R105, R112) -/

/-- The output element of a working value. -/
def outEl (cfg e t : Bytes) (c w : Nat) : Nat :=
  let v := if Lp.function e 4 then
      let a := (lpArrays cfg e).2.2.1 + 2 * 4097 * c
      let i := w / 16
      let lo : Int := leAt t (a + 2 * i) 2
      let hi : Int := leAt t (a + 2 * (i + 1)) 2
      (lo + ((hi - lo) * ((w % 16 : Nat) : Int) + 8) / 16).toNat
    else w / 2 ^ LpT.outShift t
  min v (if LpT.out16 t then 65535 else 255)

/-- A line's output elements. -/
def outLine (x : Stream) (l : WorkLine) : WorkLine :=
  match x.lp with
  | none => l
  | some (e, t) => { l with comps := l.comps.zipIdx.map fun (row, c) => row.map (outEl x.cfg e t c) }

/-- Sums of two lists, element by element; a missing one counts 0. -/
def addLists (a b : List Nat) : List Nat :=
  (List.range (max a.length b.length)).map fun i => a.getD i 0 + b.getD i 0

/-- Statistics of a line block begin with its first line. -/
def StatAcc.start (l : WorkLine) : StatAcc :=
  { block := l.block, headerTime := l.blockTime, lines := 0, flags := 0, hist := [], colSum := []
    rawSat := [], ffSat := [], drift := [] }

/-- A line with its output elements counts in its block's statistics. -/
def StatAcc.add (a : StatAcc) (t : Bytes) (l : WorkLine) : StatAcc :=
  let fl : Byte := (if l.cause ≠ 0 then 1 else 0) ||| (if l.short then 2 else 0) |||
    (if l.alignFlag then 4 else 0)
  let a := { a with flags := a.flags ||| fl }
  if l.cause ≠ 0 then a else
  let n := l.comps.length
  let bin (v : Nat) : Nat := if LpT.out16 t then v / 256 else v
  { a with
    lines := a.lines + 1
    hist := (List.range n).map fun c => (l.comps.getD c []).foldl
      (fun h v => Tab.updD h (bin v) 0 (· + 1)) (a.hist.getD c [])
    colSum := (List.range n).map fun c => addLists (a.colSum.getD c []) (l.comps.getD c [])
    rawSat := addLists a.rawSat l.rawSat
    ffSat := addLists a.ffSat l.ffSat
    drift := (List.range n).map fun c => addLists (a.drift.getD c []) (l.drift.getD c []) }

/-- The statistics records of a block: kind, component, payload. -/
def StatAcc.records (a : StatAcc) (x : Stream) (t : Bytes) : List (Nat × Nat × Bytes) :=
  let n := Strm.comps x.cfg
  let set := LpT.statsSet t
  let width := Strm.width x.cfg
  let hist := if bit set 0 then (List.range n).map fun c =>
      (1, c, (List.range 256).flatMap fun b => natLe 4 (Tab.getD (a.hist.getD c []) b 0)) else []
  let g := 2 ^ LpT.profileGroup t
  let prof := if bit set 1 then (List.range n).map fun c =>
      (2, c, (List.range (ceilDiv width g)).flatMap fun k =>
        let cols := ((a.colSum.getD c []).drop (k * g)).take g
        natLe 2 (cols.foldl (· + ·) 0 / max 1 (min g (width - k * g) * a.lines))) else []
  let sat' := if bit set 2 then [(3, 0xFF, (List.range n).flatMap fun c =>
      natLe 4 (a.rawSat.getD c 0) ++ natLe 4 (a.ffSat.getD c 0))] else []
  let drift := if bit set 3 then (List.range n).map fun c =>
      (4, c, (List.range (ceilDiv width 64)).flatMap fun k =>
        let row := a.drift.getD c []
        let whole := row.foldl (· + ·) 0
        let cols := min 64 (width - 64 * k)
        natLe 2 (if whole = 0 then 0x4000
          else sat (row.getD k 0 * width * 0x4000 / (cols * whole)) 0xFFFF)) else []
  hist ++ prof ++ sat' ++ drift

/-- The slot size of a stream's statistics ring (R113), 0 where the entry's statistics function is off or measures
nothing. -/
def statSlot (cfg : Bytes) (lp : Option (Bytes × Bytes)) : Nat :=
  match lp with
  | none => 0
  | some (e, t) =>
      let set := if Lp.function e 7 then LpT.statsSet t else 0
      let sizes := [if bit set 0 then 1024 else 0,
        if bit set 1 then 2 * ceilDiv (Strm.width cfg) (2 ^ LpT.profileGroup t) else 0,
        if bit set 2 then 8 * Strm.comps cfg else 0,
        if bit set 3 then 2 * ceilDiv (Strm.width cfg) 64 else 0]
      if set % 16 = 0 then 0 else roundUp (64 + sizes.foldl max 0 + 8) 64

/-- Writes one statistics record (R113, R114). -/
def State.putStat (s : State) (n : Nat) (a : StatAcc) (r : Nat × Nat × Bytes) : State :=
  match s.stream n with
  | none => s
  | some x => match x.lp with
      | none => s
      | some (_, t) =>
          let slots := 2 ^ LpT.ringLog2 t
          let size := statSlot x.cfg x.lp
          let prod := s.reg .lineStatProd [n]
          let seq := Tab.getD s.cam.statSeq n 0
          let s := if (prod + 1 + 2 ^ 32 - s.reg .lineStatCons [n]) % 2 ^ 32 ≤ slots then s else
            ((s.count .lineStatCons [n]).count .lineStatLost [n]).setFlag .lineStreamFlags [n] 3
          let rec' := natLe 1 r.1 ++ natLe 1 n ++ natLe 1 r.2.1 ++ [a.flags] ++
            natLe 4 r.2.2.length ++ natLe 4 a.block.toNat ++ natLe 4 a.lines ++
            natLe 8 a.headerTime.toNat ++ natLe 8 s.tb0.toNat ++ natLe 8 seq ++
            natLe 4 x.imageGen.toNat ++ natLe 20 0 ++ r.2.2
          let s := s.store (x.layout.base + x.layout.statOff + prod % slots * size)
            (padTo (size - 8) rec' ++ natLe 8 seq)
          ({ s with cam := { s.cam with statSeq := Tab.put s.cam.statSeq n (seq + 1) } } : State).count .lineStatProd [n]

/-- The statistics of the blocks that satisfy a condition are written: their last line has left the pipe. -/
def State.finishStats (s : State) (n : Nat) (done : StatAcc → Bool) : State :=
  match s.stream n with
  | none => s
  | some x => match x.lp with
      | none => s
      | some (_, t) =>
          let s := (x.stats.filter done).foldl (fun s a => (a.records x t).foldl (fun s r => s.putStat n a r) s) s
          s.updStream n fun x => { x with stats := x.stats.filter fun a => !done a }

/-- Every statistic that a stream has begun is written. -/
def State.flushStats (s : State) (n : Nat) : State := s.finishStats n fun _ => true

/-- The statistics of a block, of a line of which this one follows, are whole: the block lies before the line's, or the
line is its last. -/
def StatAcc.doneAt (l : WorkLine) (a : StatAcc) : Bool :=
  (l.block == a.block && l.last) || (l.block != a.block && decide ((l.block - a.block).toNat < 2 ^ 31))

/-- A line joins the statistics of its block, which begin with the first one. -/
def addStat (t : Bytes) (l : WorkLine) : List StatAcc → List StatAcc
  | [] => [(StatAcc.start l).add t l]
  | a :: rest => if a.block = l.block then a.add t l :: rest else a :: addStat t l rest

/-- A line leaving step 6 counts in the statistics of its block. -/
def State.statLine (s : State) (n : Nat) (l : WorkLine) : State :=
  match s.stream n with
  | none => s
  | some x => match x.lp with
      | none => s
      | some (_, t) =>
          if l.block.toNat % LpT.statsEvery t ≠ 0 ∨ statSlot x.cfg x.lp = 0 then s else
          s.updStream n fun x => { x with stats := addStat t l x.stats }

/-! ### Binning (R108) -/

/-- The binned line of a group. -/
def binLines (x : Stream) (g : List WorkLine) : Option WorkLine :=
  match g with
  | [] => none
  | l :: _ =>
      let b := x.binning
      if b = 1 then some l else
      let div := b * g.length
      let cause := g.foldl (fun m l => if m ≠ 0 then m else l.cause) 0
      let row (c : Nat) : List Nat :=
        (List.range x.columns).map fun k =>
          let sum := g.foldl (fun t l => t +
            (((l.comps.getD c []).drop (k * b)).take b).foldl (· + ·) 0) 0
          (sum + div / 2) / div
      some { l with comps := (List.range l.comps.length).map row, cause := cause
                    last := g.any fun l => l.last, alignFlag := g.any fun l => l.alignFlag }

/-- The open group of a stream goes on as a binned line. -/
def State.flushGroup (s : State) (n : Nat) : State :=
  s.updStream n fun x => match binLines x x.binGroup with
    | some l => { x with binGroup := [], readyLines := x.readyLines ++ [l] }
    | none => x

/-- A line leaving step 6 joins its group. -/
def State.groupLine (s : State) (n : Nat) (l : WorkLine) : State :=
  match s.stream n with
  | none => s
  | some x =>
      let other := x.binGroup.any fun m => m.block != l.block
      let s := if other then s.flushGroup n else s
      let s := s.updStream n fun x => { x with binGroup := x.binGroup ++ [l] }
      match s.stream n with
      | some y => if l.last || l.cut || y.binning ≤ y.binGroup.length then s.flushGroup n else s
      | none => s

/-- Lines leave step 5 as far as they can; `force` completes those that wait (R107). -/
def State.drainAlign (s : State) (n : Nat) (force : Bool) : Nat → State
  | 0 => s
  | fuel + 1 =>
      match s.stream n with
      | none => s
      | some x => match alignHead x force with
          | none => s
          | some (l, range, stall) =>
              let l := if force && range then { l with alignFlag := true } else l
              let s := s.updStream n fun x => { x with align := x.align.drop 1 }
              let s := if range then s.setFlag .lineStreamFlags [n] 0 else s
              let s := if stall then s.setFlag .lineStreamFlags [n] 1 else s
              let l := outLine x l
              ((s.statLine n l).groupLine n l).drainAlign n force fuel

/-- The pipe completes the lines that wait for partners (R107). -/
def State.completeAlign (s : State) (n : Nat) : State :=
  match s.stream n with
  | some x => s.drainAlign n true x.align.length
  | none => s

/-- A run of lines ends with those that the pipe has or is still to take: the last of them is marked, or, where all have
entered, those that wait for partners are completed as under the 10 ms rule and an open group goes on (R107, R115). -/
def State.endPipe (s : State) (n : Nat) : State :=
  match s.stream n with
  | none => s
  | some x =>
      match findIdxOpt (fun l : RawLine => !l.gap) x.rawLines.reverse with
      | some i => s.setStream n { x with
          rawLines := listUpd x.rawLines (x.rawLines.length - 1 - i) fun l => { l with cut := true } }
      | none => (s.completeAlign n).flushGroup n

/-! ### Service (R100) -/

/-- The components of a raw line: kept with it, or read from the raw area. -/
def State.rawComps (s : State) (x : Stream) (l : RawLine) : List (List Nat) :=
  let w := Strm.width x.cfg
  let n := Strm.comps x.cfg
  if l.cause ≠ 0 then List.replicate n (List.replicate w 0)
  else if l.pix.isEmpty then
    let e := dtBytes (Strm.dataType x.cfg)
    (List.range n).map fun c => (List.range w).map fun i => leNat (s.load (x.rawAddr l.index + (c * w + i) * e) e)
  else (List.range n).map fun c => (l.pix.drop (c * w)).take w

/-- The pipe takes the first raw line of a stream. -/
def State.serveLine (s : State) (n : Nat) : State :=
  match s.stream n with
  | none => s
  | some x => match x.rawLines with
      | [] => s
      | l :: rest =>
          let bad := if l.cause = 0 ∧ l.pix.isEmpty then s.badIn (x.rawAddr l.index) x.layout.rawLineBytes else none
          let s := match bad with
            | some g => s.reportUe g 0x40
            | none => s
          let l := if bad.isSome then { l with cause := Code.memoryUncorrectable } else l
          let enc := Strm.encoder x.cfg
          let (w, open') := enterPipe x l (s.rawComps x l) (s.enc enc).diePeriod
          let s := s.updStream n fun x => { x with rawLines := rest, align := x.align ++ [w] }
          let s := if open' then s.setFlag .lineStreamFlags [n] 2 else s
          let s := s.drainAlign n false (x.align.length + 1)
          if l.cut then s.completeAlign n else s

/-- The slot that line `k` needs in an area of `slots` lines is free. -/
def Stream.room (x : Stream) (slots k : Nat) : Bool := decide (k < x.heldPoint + slots)

/-- A stream has a raw line that its pipe may take: lines of a new image wait for the end of its load
phase (R63, R115), and a line whose position is not known waits for it. While a finished line of a through-memory
stream finds its slot of the corrected area held, raw lines wait in the raw area, which then overflows (R141). -/
def Stream.hasWork (x : Stream) : Bool := passes x.cfg x.lp &&
  (match x.rawLines with
    | l :: _ => !l.gap && l.bracket.isNone
    | [] => false) &&
  (Strm.inLine x.cfg || x.readyLines.isEmpty || x.room x.layout.corrSlots (x.nextCorr + x.readyLines.length))

/-- One pipe serves one line: the in-line stream first, then round robin. -/
def State.servePipe (s : State) (pipe : Nat) : State :=
  let mine := s.cam.streams.filter fun x => Strm.pipe x.2.cfg == pipe && x.2.hasWork
  match mine.find? fun x => Strm.inLine x.2.cfg with
  | some x => s.serveLine x.1
  | none =>
      let last := Tab.getD s.cam.pipeNext pipe 0
      match (mine.find? fun x => decide (last ≤ x.1)).orElse fun _ => mine.head? with
      | some x => ({ s with cam := { s.cam with
          pipeNext := Tab.put s.cam.pipeNext pipe (x.1 + 1) } } : State).serveLine x.1
      | none => s

/-! ### Room (R139 to R141) -/

/-- The oldest line in the way gives up its shadow or capture references. A shadow job whose command is committing
completes normally and gives back its references itself (09_scheduling.md R218). -/
def State.giveUpOne (s : State) (n slots k : Nat) : Option State :=
  match s.stream n with
  | none => none
  | some x =>
      let lines := x.lines.filter fun l => decide (l.index + slots ≤ k) && l.held
      let shadow := lines.findSome? fun l => l.jobs.find? fun j =>
        ((s.job j).map fun y => y.model == 2).getD false && !(s.jobCmds j).any fun c => c.st == .committing
      match shadow with
      | some j =>
          let slot := ((s.job j).bind fun y => (s.servedBy y).head?).map Prod.fst
          let s := (s.withdraw j).updStream n fun x => { x with shadowDropped := x.shadowDropped + 1 }
          some (match slot with
            | some p => s.cancelShadow p
            | none => s)
      | none => match lines.findSome? fun l => l.crops.head? with
          | some c => some ((s.abandonCrop c).updStream n fun x => { x with
              captureDropped := x.captureDropped + 1 })
          | none => none

/-- Gives up references until the slot is free or none is left to give. -/
def State.makeRoom (s : State) (n slots k : Nat) : Nat → State
  | 0 => s
  | fuel + 1 =>
      match s.stream n with
      | none => s
      | some x =>
          if x.room slots k then s else
          match s.giveUpOne n slots k with
          | some t => t.makeRoom n slots k fuel
          | none => s

/-- Whether line `k` has room in an area once references have been given up. -/
def State.tryRoom (s : State) (n slots k : Nat) : State × Bool :=
  let held := match s.stream n with
    | some x => x.lines.foldl (fun t l => t + l.jobs.length + l.crops.length) 0
    | none => 0
  let s := s.makeRoom n slots k held
  (s, ((s.stream n).map fun x => x.room slots k).getD false)

/-- A cause put on a line that has none. -/
def causeOr (cause c : Nat) : Nat := if cause = 0 then c else cause

/-- The lines of a block that are inside the pipe become unusable, and its statistics are DAMAGED (R113). -/
def Stream.spoil (x : Stream) (block : Word) (c : Nat) : Stream :=
  let raw (l : RawLine) : RawLine := if l.block = block then { l with cause := causeOr l.cause c } else l
  let wrk (l : WorkLine) : WorkLine := if l.block = block then { l with cause := causeOr l.cause c } else l
  { x with
    rawLines := x.rawLines.map raw
    align := x.align.map wrk
    binGroup := x.binGroup.map wrk
    readyLines := x.readyLines.map wrk
    stats := x.stats.map fun a => if a.block = block then { a with flags := a.flags ||| 1 } else a }

/-- The rest of a stream's line block is dropped with STREAM_OVERFLOW (R80, R141): what is still to
arrive of it, if it is still open, and its lines inside the pipe. -/
def State.overflow (s : State) (n : Nat) (block : Word) : State :=
  let drop (b : Block) : Block := if b.number = block then
      { b with dropping := true, cause := Code.streamOverflow, flags := b.flags ||| 2 } else b
  let s := s.updStream n fun x => { x.spoil block Code.streamOverflow with
    overflowing := true, overflowBlocks := x.overflowBlocks + 1, block := x.block.map drop }
  s.setFlag .cxpStreamErr [n] 0

/-! ### Emission (R101, R104) -/

/-- The corrected line that a finished line becomes. -/
def corrOf (l : WorkLine) (k : Nat) (loc : LineLoc) (spilled : Bool) : CorrLine :=
  { index := k, pos := l.pos, time := l.time, block := l.block, cause := l.cause, loc := loc
    spilled := spilled, jobs := [], shoalHold := false, crops := [] }

/-- Writes a corrected line's elements where it lies; an unusable line has none. -/
def State.writeLine (s : State) (x : Stream) (l : CorrLine) (comps : List (List Nat)) : State :=
  if l.cause ≠ 0 then s else
  (x.linePieces comps).foldl (fun s (off, b) => s.store (x.lineAddr l + off) b) s

/-- The first finished line of a stream leaves the pipe. An in-line line that finds the row window
full, or older lines spilled, goes to the stream buffer; one that finds no room there overflows the
stream. A through-memory line waits for room. -/
def State.emitLine (s : State) (n : Nat) : State :=
  match s.stream n with
  | none => s
  | some x => match x.readyLines with
      | [] => s
      | l :: _ =>
          let k := x.nextCorr
          let pop (s : State) : State := s.updStream n fun x => { x with readyLines := x.readyLines.drop 1 }
          let put (s : State) (c : CorrLine) : State :=
            let y := (s.stream n).getD x
            ((((pop s).writeLine y c l.comps).lineArrives n c).sendStrips n k).finishStats n (StatAcc.doneAt l)
          if l.cause ≠ 0 then put s (corrOf l k .corrected false)
          else if Strm.inLine x.cfg then
            let spilling := x.lines.any fun l => l.spilled
            if !spilling && x.room x.layout.winRows k then put s (corrOf l k .window false)
            else
              let (s, free) := s.tryRoom n x.layout.corrSlots k
              if free then (put s (corrOf l k .corrected true)).setFlag .lineStreamFlags [n] 4
              else
                let s := s.overflow n l.block
                put s { corrOf l k .corrected false with cause := Code.streamOverflow }
          else
            let (s, free) := s.tryRoom n x.layout.corrSlots k
            if free then put s (corrOf l k .corrected false) else s

/-- The oldest spilled line re-enters the row window when room frees (R101). -/
def State.reenter (s : State) (n : Nat) : State :=
  match s.stream n with
  | none => s
  | some x => match x.lines.find? fun l => l.spilled with
      | none => s
      | some l =>
          if !x.room x.layout.winRows l.index then s else
          let data := s.load (x.corrAddr l.index) x.layout.corrLineBytes
          let s := s.touchLine n l.index
          let s := s.store (x.winAddr l.index) data
          s.updStream n fun x => { x with lines := x.lines.map fun m =>
            if m.index = l.index then { m with loc := .window, spilled := false } else m }

/-! ### The commands -/

/-- LINE_SERVED (R100). -/
def execLineServed (pipe : Fin 4) (s : State) : Res := .next (s.servePipe pipe)

/-- LINE_EMITTED (R104). -/
def execLineEmitted (stream : Fin 64) (s : State) : Res := .next (s.emitLine stream)

/-- SPILL_REENTRY (R101). -/
def execSpillReentry (stream : Fin 64) (s : State) : Res := .next (s.reenter stream)

/-- ALIGNMENT_TIMEOUT (R107). -/
def execAlignmentTimeout (stream : Fin 64) (s : State) : Res := .next (s.completeAlign stream)

/-- A seat's write of STAT_CONS (R115). -/
def State.writeCons (s : State) (seat n v : Nat) : State :=
  let prod := s.reg .lineStatProd [n]
  let slots := 2 ^ s.fld .lineStatCfg [n] 0 5
  let behind := (prod + 2 ^ 32 - v) % 2 ^ 32
  if 2 ^ 31 ≤ behind then s.setReg .lineStatCons [n] prod
  else if slots < behind then
    s.log { notice 10 with initiator := seat, arg0 := n64 (RN.off .lineStatCons [n]), arg1 := n64 v }
  else
    s.setReg .lineStatCons [n] v

/-- STAT_CONS (R115). -/
def execStatCons (seat : Fin 4) (stream : Fin 64) (value : Word) (s : State) : Res :=
  .next (s.writeCons seat stream value.toNat)

end Sys2Proof.Machine
end

