-- ==== Sys2Proof/Machine/Restore.lean ====
section
/-! DEFINITION. History stores as they are written as a whole (08_history_and_sequence_ops.md R206), and
the restores of a stream that take effect at a stripe origin (12_reproducibility.md R318, R319). -/

namespace Sys2Proof.Machine

/-- Changes the store of a stream. -/
def State.updHist (s : State) (n : Nat) (f : HistStore → HistStore) : State :=
  { s with ledg := { s.ledg with hist := Tab.upd s.ledg.hist n f } }

/-- The first 128 bytes of a store header (R206). -/
def HistStore.header (h : HistStore) : Bytes :=
  natLe 8 h.seq ++ natLe 8 h.nextIndex ++ natLe 8 h.settled ++ natLe 4 h.void ++ natLe 4 h.truncated ++
  natLe 4 h.damaged ++ natLe 4 h.lookups ++ natLe 4 h.emptyLookups ++ natLe 4 h.eccOmitted ++
  natLe 4 h.genEmptied.toNat ++ natLe 68 0 ++ natLe 8 h.seq

/-- Rewrites a store header. -/
def State.putHist (s : State) (n : Nat) : State :=
  let s := s.updHist n fun h => { h with seq := h.seq + 1 }
  match s.histStore n with
  | some h => s.store h.base h.header
  | none => s

/-! ### Restores (R318, R319) -/

namespace Save
def length (r : Bytes) : Nat := leAt r 4 4
def count (r : Bytes) : Nat := leAt r 0x1C 4
def scopeNext (r : Bytes) : Nat := leAt r 0x20 8
/-- The saved directory entry and store header (R205, R206). -/
def dir (r : Bytes) : Bytes := bytesAt r 64 64
def header (r : Bytes) : Bytes := bytesAt r 128 128
/-- Saved entry k. -/
def entry (r : Bytes) (k size : Nat) : Bytes := bytesAt r (256 + k * size) size
end Save

/-- A restore takes effect: the store holds the saved entries, each POSITION moved, and scope numbers go
on from SCOPE_NEXT. -/
def State.restoreNow (s : State) (n : Nat) (r : Bytes) (delta : Pos) (by' : Option CmdRef) : State :=
  match s.histStore n with
  | none =>
      ({ s with ledg := { s.ledg with
          scopeNext := Tab.put s.ledg.scopeNext n (Save.scopeNext r) } } : State).answer by' Code.ok
  | some h =>
      let hd := Save.header r
      let next := leAt hd 8 8
      let first := next - Save.count r
      let s := (List.range (Save.count r)).foldl (fun s k =>
        let e := Save.entry r k h.entryBytes
        let pos := natLe 7 ((BitVec.ofNat 56 (leAt e 0x10 7)) + delta).toNat
        s.store (h.slotAddr (first + k)) (spliceBytes e 0x10 pos)) s
      let s := s.updHist n fun h => { h with
        nextIndex := next, settled := leAt hd 0x10 8, void := leAt hd 0x18 4, truncated := leAt hd 0x1C 4
        damaged := leAt hd 0x20 4, lookups := leAt hd 0x24 4, emptyLookups := leAt hd 0x28 4
        eccOmitted := leAt hd 0x2C 4 }
      let s := { s with ledg := { s.ledg with scopeNext := Tab.put s.ledg.scopeNext n (Save.scopeNext r) } }
      (s.putHist n).answer by' Code.ok

/-- Restores that waited take effect on streams that have reached a stripe origin. -/
def State.settleRestores (s : State) : State :=
  s.cam.streams.foldl (fun s (n, x) =>
    if x.restores.isEmpty || !(x.closed || x.origins.contains (x.nextCorr)) then s else
    let s := s.setStream n { x with restores := [] }
    x.restores.foldl (fun s r => s.restoreNow n r.1 r.2.1 r.2.2) s) s

end Sys2Proof.Machine
end

