-- ==== Sys2Proof/Machine/Camera.lean ====
section
/-! DEFINITION. Filing of camera streams (03_camera_ingest.md R79 to R84): line blocks, packets,
drops, trigger pairing, the stream's boundary of an apply (02_deurzor_image.md R61, R62), stream
buffer headers (05_stripes_and_layouts.md R133, R135), closing (R124), and the tick words that
bring triggers (19_field_io.md R472). -/

namespace Sys2Proof.Machine

namespace Code
abbrev cxpFormatMismatch : Nat := 0x61
abbrev cxpLinkDown : Nat := 0x62
abbrev cxpTimeout : Nat := 0x63
abbrev cxpBusy : Nat := 0x64
abbrev cxpNack : Nat := 0x65
abbrev pocxpBudget : Nat := 0x66
abbrev pocxpFault : Nat := 0x67
end Code

/-! ### Which stream (R78, R79) -/

/-- A port is LINKED (R92). -/
def State.linked (s : State) (p : Nat) : Bool := s.fld .cxpPortStatus [p] 0 4 == 4

/-- The connections of an aggregated stream are in order: the master on the first port, connection
index i on port PORT_FIRST + i. The first port that breaks it, if one does. -/
def State.orderBreak (s : State) (cfg : Bytes) : Option Nat :=
  if Strm.portCount cfg ≤ 1 then none else
  ((List.range (Strm.portCount cfg)).find? fun i =>
    s.fld .cxpPortStatus [Strm.portFirst cfg + i] 8 3 != i ||
    (i == 0 && s.fld .cxpPortStatus [Strm.portFirst cfg] 11 1 == 0)).map (· + Strm.portFirst cfg)

/-- The bound stream of a port and a camera stream ID. -/
def State.streamOf (s : State) (port id : Nat) : Option (Nat × Stream) :=
  s.cam.streams.find? fun x => decide (Strm.portFirst x.2.cfg ≤ port) &&
    decide (port < Strm.portFirst x.2.cfg + Strm.portCount x.2.cfg) && Strm.cxpId x.2.cfg == id

/-- A stream packet of no stream is discarded and counted. -/
def State.unbound (s : State) : State := s.count .cxpUnboundCnt []

/-! ### Descriptors and headers (R81, R133, R135) -/

/-- The descriptor of a line block. -/
def Block.bytes (b : Block) : Bytes :=
  natLe 4 b.number.toNat ++ natLe 4 b.filed ++ natLe 8 b.firstLine ++ natLe 8 b.headerTime.toNat ++
  natLe 2 b.flags.toNat ++ natLe 2 b.sourceTag.toNat ++ natLe 4 0

/-- Writes a block's descriptor into its slot. -/
def State.putDesc (s : State) (n : Nat) (b : Block) : State :=
  match s.stream n with
  | none => s
  | some x => s.store (x.layout.base + 0x1000 + 32 * (b.number.toNat % 1024)) b.bytes

/-- The oldest raw line still held (R138, R139): by the pipe, or, where the stream has none, by whoever holds its lines;
the next one where none is. -/
def Stream.rawHeld (x : Stream) : Nat :=
  let own := if passes x.cfg x.lp then none else (x.lines.find? CorrLine.held).map (·.index)
  (own.orElse fun _ => (x.rawLines.find? fun l => l.cause == 0).map (·.index)).getD x.nextRaw

/-- The header of a stream buffer. -/
def Stream.header (x : Stream) (n seq : Nat) : Bytes :=
  let y := x.layout
  natLe 8 seq ++ natLe 1 n ++ natLe 1 (b2n (Strm.inLine x.cfg)) ++ natLe 1 (Strm.layout x.cfg) ++
  natLe 1 x.binning ++ natLe 4 (Strm.bufferLines x.cfg) ++ natLe 8 y.statOff ++ natLe 8 y.rawOff ++
  natLe 8 y.corrOff ++ natLe 4 y.rawLineBytes ++ natLe 4 y.corrLineBytes ++ natLe 4 y.laneRowBytes ++
  natLe 4 y.winRows ++ natLe 8 x.nextRaw ++ natLe 8 x.nextCorr ++ natLe 8 x.heldPoint ++
  natLe 4 x.descProd ++ natLe 4 x.peakHeld ++ natLe 4 x.overflowBlocks ++ natLe 4 x.shadowDropped ++
  natLe 4 x.captureDropped ++ natLe 4 x.damagedStripes ++ natLe 8 x.rawHeld ++ natLe 8 0 ++ natLe 8 seq

/-- Rewrites the header of a bound stream's buffer. -/
def State.putHeader (s : State) (n : Nat) : State :=
  match s.stream n with
  | none => s
  | some x =>
      let s := s.setStream n { x with hdrSeq := x.hdrSeq + 1 }
      s.store x.layout.base (x.header n (x.hdrSeq + 1))

/-! ### The stream boundary of an apply (R61, R62) -/

/-- The stream has still to reach its boundary of the apply in progress. -/
def State.boundaryOpen (s : State) (n : Nat) : Bool :=
  match s.img.apply with
  | some a => a.phase == .drain && (Tab.get a.boundaries n).isNone && a.left == .running
  | none => false

/-- The STREAMS entry that governs what a stream receives now: past its boundary of an apply the new image's (R61). -/
def State.cfgNow (s : State) (n : Nat) (x : Stream) : Bytes :=
  if s.inGap n then ((s.img.apply.bind fun a => a.newImage.streamEntry n).getD x.cfg) else x.cfg

/-- The stream takes its boundary at a TB0 time: what is in the pipe is completed, scopes that
span the boundary are cut and the run of lines ends. -/
def State.takeBoundary (s : State) (n tb0Ns : Nat) : State :=
  match s.img.apply with
  | none => s
  | some a =>
      let s := { s with img := { s.img with
        apply := some { a with boundaries := Tab.put a.boundaries n tb0Ns } } }
      (((s.endPipe n).cutParts n).endRun n).settleRestores

/-- The tally is zeroed (14_fine_tuning_and_shadow.md R360). -/
def State.clearTally (s : State) : State :=
  let s := { s with train := { s.train with tally := [] } }
  if s.train.tallyBase = 0 then s else s.store s.train.tallyBase (List.replicate 1024 0)

/-- What a promotion does at a stream boundary: the tally is zeroed and the candidate's base is the new
generation (R360, R361). -/
def State.promoted (s : State) (gen : Nat) : State :=
  let s := s.clearTally
  { s with train := { s.train with cand := { s.train.cand with base := gen } } }

/-- The stream reaches its boundary of the overlays that are taking effect, all of them or those whose
launch is at or before a TB0 time: it has a stripe origin there and later lines go by the new
generation (R67, R124). -/
def State.reachOverlays (s : State) (n tb0Ns : Nat) (all : Bool) : State :=
  let due := s.img.overlayRuns.filter fun r => r.left.contains n && (all || decide (r.launch * 1000 ≤ tb0Ns))
  if due.isEmpty then s else
  let gen := (due.map OverlayRun.gen).foldl max 0
  let s := s.endPipe n
  let s := s.updStream n fun x => { x with ovls := x.ovls ++ [(x.nextCorr + x.corrInFlight, gen)] }
  let runs := s.img.overlayRuns.map fun r =>
    if all || r.launch * 1000 ≤ tb0Ns then { r with left := r.left.filter (· != n) } else r
  let s := { s with img := { s.img with overlayRuns := runs } }
  let s := if due.any fun r => r.promoted.isSome then s.promoted gen else s
  (s.endRun n).settleRestores

/-! ### Trigger pairing (R84) -/

/-- The trigger with which the next line of a stream pairs, if it has been sent. -/
def Stream.nextTrig (x : Stream) : Option Trig :=
  if x.paired < x.sent then x.sentTrigs[x.paired + x.sentTrigs.length - x.sent]? else none

/-- The nanoseconds of a stored TB0 time. -/
def State.tb0Of (s : State) (t : BitVec 64) : Nat := s.time.tb0.ofStored t.toNat

/-- Position, TB0 time and cause of the next line of a stream: those of its trigger, or, for a line
that has none, interpolated at the time its first packet was filed (`State.settlePositions` where the sample after that
time is still to come). A triggered stream's line with
no trigger is unusable; so is one whose line map entry is uncorrectable (17_memory.md R443). -/
def State.pairLine (s : State) (n : Nat) (x : Stream) (firstTime : BitVec 64) :
    State × Pos × BitVec 64 × Nat :=
  match s.dividerOf n, x.nextTrig with
  | some _, some t =>
      match s.divider t.div with
      | some d =>
          match s.badIn (mapAddr t.div t.k d.mapLog2) 16 with
          | some g => (s.reportUe g 0x40, t.pos, t.time, Code.memoryUncorrectable)
          | none => (s, t.pos, t.time, 0)
      | none => (s, t.pos, t.time, 0)
  | some _, none => (s, s.posAt (Strm.encoder x.cfg) (s.tb0Of firstTime), firstTime, Code.triggerPairing)
  | none, _ => (s, s.posAt (Strm.encoder x.cfg) (s.tb0Of firstTime), firstTime, 0)

/-- The TB0 time that decides whether a block lies before the boundary. -/
def State.decisiveNs (s : State) (n : Nat) (x : Stream) (firstTime : BitVec 64) : Nat :=
  match s.dividerOf n, x.nextTrig with
  | some _, some t => s.tb0Of t.time
  | _, _ => s.tb0Of firstTime

/-! ### Filing one line (R80, R84, R138 to R141) -/

/-- The TB0 time at which the next line's position is to be interpolated, where the encoder sample after it has not come
(11_encoders_and_eject.md R286). -/
def State.bracketOf (s : State) (n : Nat) (x : Stream) (firstTime : BitVec 64) : Option Nat :=
  let t := s.tb0Of firstTime
  if (s.dividerOf n).isSome && x.nextTrig.isSome || !(s.enc (Strm.encoder x.cfg)).awaits t then none else some t

/-- The elements of a line in planes (R79). -/
def planes (cfg : Bytes) (els : List (BitVec 16)) : List Nat :=
  let v := els.map BitVec.toNat
  let n := Strm.comps cfg
  if dtPacked (Strm.dataType cfg) then
    (List.range n).flatMap fun c => (List.range (Strm.width cfg)).map fun i => v.getD (i * n + c) 0
  else v

/-- The slot that a stream's next line needs is free, once references have been given up. -/
def State.slotFor (s : State) (n : Nat) : State × Bool :=
  match s.stream n with
  | none => (s, false)
  | some x =>
      if s.inGap n then (s, decide (x.rawLines.length < Strm.bufferLines x.cfg))
      else if !passes x.cfg x.lp then s.tryRoom n (Strm.bufferLines x.cfg) (x.nextCorr + x.rawLines.length)
      else if Strm.inLine x.cfg then
        if x.overflowing then s.tryRoom n x.layout.corrSlots (x.nextCorr + x.corrInFlight)
        else (s, true)
      else (s, decide (x.nextRaw < x.rawHeld + Strm.bufferLines x.cfg))

/-- A raw line of a stream without a pipe goes to the stripe jobs (R102). -/
def State.rawArrives (s : State) (n : Nat) (l : RawLine) : State :=
  match s.stream n with
  | none => s
  | some x =>
      (s.lineArrives n { index := x.nextCorr, pos := l.pos, time := l.time, block := l.block
                         cause := l.cause, loc := .raw, spilled := false, jobs := []
                         shoalHold := false, crops := [] }).sendStrips n x.nextCorr

/-- Files a raw line: into the raw area of a through-memory stream, to the pipe of a stream that has
one, to the stripe jobs of one that has none, in order, once its position is known. Lines past the boundary of an apply
wait. -/
def State.fileRaw (s : State) (n : Nat) (l : RawLine) : State :=
  match s.stream n with
  | none => s
  | some x =>
      let s := s.updStream n fun x => { x with nextRaw := x.nextRaw + 1 }
      if l.gap then s.updStream n fun x => { x with rawLines := x.rawLines ++ [l] } else
      let through := !Strm.inLine x.cfg
      let s := if through ∧ l.cause = 0 then
          s.store (x.rawAddr l.index) (packRow (dtBytes (Strm.dataType x.cfg)) l.pix) else s
      if passes x.cfg x.lp then
        s.updStream n fun x => { x with
          rawLines := x.rawLines ++ [if through then { l with pix := [] } else l] }
      else if l.bracket.isSome || !x.rawLines.isEmpty then
        s.updStream n fun x => { x with rawLines := x.rawLines ++ [{ l with pix := [] }] }
      else s.rawArrives n l

/-- A line takes the position interpolated at its time, once a sample after it has come. -/
def RawLine.settle (e : Enc) (l : RawLine) : RawLine :=
  match l.bracket with
  | some t => if e.awaits t then l else { l with pos := (e.posAtTb0 t).getD e.diePos, bracket := none }
  | none => l

/-- Lines of a stream without a pipe whose positions are known go to the stripe jobs. -/
def State.releaseRaw (s : State) (n : Nat) : Nat → State
  | 0 => s
  | fuel + 1 =>
      match s.stream n with
      | none => s
      | some x => match x.rawLines with
          | l :: rest =>
              if l.gap || l.bracket.isSome then s
              else ((s.setStream n { x with rawLines := rest }).rawArrives n l).releaseRaw n fuel
          | [] => s

/-- New encoder samples settle the positions of the lines that waited for them (R84, 11_encoders_and_eject.md R286). -/
def State.settlePositions (s : State) : State :=
  s.cam.streams.foldl (fun s (n, x) =>
    if x.rawLines.all fun l => l.bracket.isNone then s else
    let e := s.enc (Strm.encoder x.cfg)
    let s := s.updStream n fun y => { y with rawLines := y.rawLines.map (RawLine.settle e) }
    if passes x.cfg x.lp then s else s.releaseRaw n x.rawLines.length) s

/-- The next line of the open block is consumed: with its elements, or as dropped or missing with a
cause. It takes its line number and its pairing. -/
def State.consumeLine (s : State) (n : Nat) (firstTime : BitVec 64) (pix : List Nat) (cause : Nat)
    (arrived short : Bool) : State :=
  match s.stream n with
  | none => s
  | some x => match x.block with
      | none => s
      | some b =>
          let (s, pos, time, c) := s.pairLine n x firstTime
          let cause := if cause = 0 then c else cause
          let x' : Stream := { x with
            paired := x.paired + 1
            closed := if arrived then false else x.closed
            lastLine := if arrived then s.now else x.lastLine
            block := some { b with arrived := b.arrived + 1
                                   filed := b.filed + b2n (cause = 0 || cause = Code.triggerPairing) } }
          let s := s.setStream n x'
          s.fileRaw n { index := x.nextRaw, pos := pos, time := time, block := b.number
                        blockTime := b.headerTime, last := b.arrived + 1 == b.declared && b.trusted
                        short := short, cause := cause, gap := s.inGap n, pix := pix, bracket := s.bracketOf n x firstTime }

/-- A line of the block is dropped: counted, and consumed as unusable. -/
def State.dropLine (s : State) (n : Nat) (firstTime : BitVec 64) (arrived short : Bool) : State :=
  let cause := (((s.stream n).bind fun x => x.block).map fun b => b.cause).getD 0
  let cause := if cause = 0 then Code.linesDropped else cause
  (s.consumeLine n firstTime [] cause arrived short).count .cxpStreamDropped [n]

/-- The remainder of the open block is dropped. -/
def State.dropRest (s : State) (n cause : Nat) : State :=
  s.updStream n fun x => { x with block := x.block.map fun b =>
    if b.dropping then b else { b with dropping := true, cause := cause, flags := b.flags ||| 2 } }

/-! ### Ends of blocks (R84) -/

/-- The pairing check fails: the lines of the block are unusable, their parts damaged, and the stream
is paired again. -/
def State.mismatch (s : State) (n : Nat) (x : Stream) (b : Block) : State :=
  let s := s.setStream n { x.spoil b.number Code.triggerPairing with
    paired := x.sent - x.slack
    lines := x.lines.map fun l => if l.block = b.number then { l with cause := causeOr l.cause Code.triggerPairing } else l
    block := some { b with flags := b.flags ||| 8 } }
  let s := s.flagLog .cxpStreamErr [n] 6
    { errorRec 9 with arg0 := n64 x.sent, arg1 := n64 x.paired }
  let mine := x.lines.filter fun l => l.block == b.number
  match mine.head?, mine.getLast? with
  | some lo, some hi =>
      (s.undecidedParts.foldl (fun s (slot, p) => (p.views.zipIdx.filter fun v =>
        v.1.local' && v.1.stream == n && v.1.covers n lo.index hi.index).foldl
          (fun s v => (s.damageView slot v.2 Code.triggerPairing).judge slot) s) s).afterDecision
  | _, _ => s

/-- The open block ends: the pairing check, its descriptor, the stream buffer header. -/
def State.endBlock (s : State) (n : Nat) : State :=
  match s.stream n with
  | none => s
  | some x => match x.block with
      | none => s
      | some b =>
          let whole := b.trusted && b.filed == b.declared
          let b := if whole then { b with flags := b.flags ||| 1 } else b
          let d : Int := (x.sent : Int) - x.paired
          let bad := (s.dividerOf n).isSome && (decide (d < 0) || decide ((x.slack : Int) < d))
          let s := s.setStream n { x with block := some b, partial' := [], window := [], nextTag := none }
          let s := if bad then s.mismatch n ((s.stream n).getD x) b else s
          let fin := (((s.stream n).bind fun x => x.block)).getD b
          let s := s.putDesc n (if b.trusted then fin else { fin with filed := 0 })
          (s.updStream n fun x => { x with block := none }).putHeader n

/-! ### Headers judged (R80, R81) -/

/-- The seat that last wrote to a port's camera is named when a format mismatch or a loss of link
follows (R74). -/
def State.nameWriter (s : State) (p status : Nat) : State :=
  match (Tab.getD s.cam.ports p {}).writer with
  | some w => s.log { notice 9 with status := status, initiator := w, arg0 := n64 p }
  | none => s

/-- The descriptor slot of a block that has just begun belongs to an older block that still has held lines
(05_stripes_and_layouts.md R143). -/
def Stream.descHeld (x : Stream) (block : Word) : Bool :=
  let old : Word := block - 1024
  decide (1024 < x.descProd) &&
  ((x.lines.any fun l => l.block == old && l.held) || x.rawLines.any fun l => l.block == old)

/-- The components of a line as a header's pixel format has them, those of the entry where the format is not one of the
table's. -/
def hdrComps (cfg : Bytes) (format : Nat) : Nat := if dtKnown format then dtComps format else Strm.comps cfg

/-- What a header makes of its block under the STREAMS entry that governs it: more lines than BLOCK_LINES or an all-ones
X size is LENGTH_RANGE, another format or geometry CXP_FORMAT_MISMATCH; a descriptor slot that is still held drops the
block whole (R80, 05_stripes_and_layouts.md R143). -/
def Block.judged (b : Block) (cfg : Bytes) (full : Bool) (h : HdrInfo) : Block :=
  let tooMany := decide (Strm.blockLines cfg < b.declared)
  let tooLong := tooMany || h.xSize == 0xFFFFFFFF
  let bad := h.rect || h.format != Strm.dataType cfg || h.xOff != 0 || h.xSize != Strm.width cfg
  let drop := tooLong || bad || full
  { b with
    flags := b.flags ||| (if drop then 2 else 0), dropping := drop, trusted := !tooMany, held := none
    lineEls := h.xSize * hdrComps cfg h.format
    cause := if full then Code.streamOverflow else if tooLong then Code.lengthRange
             else if bad then Code.cxpFormatMismatch else 0 }

/-- A block's header is judged: what is wrong with it is flagged and its descriptor written. -/
def State.judgeHeader (s : State) (n : Nat) (x : Stream) (b : Block) (h : HdrInfo) : State :=
  let cfg := s.cfgNow n x
  let full := x.descHeld b.number
  let b := b.judged cfg full h
  let s := s.setStream n { x with block := some b, overflowBlocks := x.overflowBlocks + b2n full }
  let s := if Strm.blockLines cfg < b.declared ∨ h.xSize = 0xFFFFFFFF then s.setFlag .cxpStreamErr [n] 1 else s
  let s := if b.cause = Code.cxpFormatMismatch then
      (s.setFlag .cxpStreamErr [n] 3).nameWriter h.port Code.cxpFormatMismatch else s
  let s := if full then s.setFlag .cxpStreamErr [n] 0 else s
  s.putDesc n b

/-- The first line of a block decides on which side of an apply's boundary the block lies. -/
def State.boundaryCheck (s : State) (n : Nat) (firstTime : BitVec 64) : State :=
  match s.stream n with
  | none => s
  | some x =>
      if !((x.block.map fun b => b.arrived == 0).getD false) then s else
      let t := s.decisiveNs n x firstTime
      let s := s.reachOverlays n t false
      match s.img.apply with
      | some a => if s.boundaryOpen n && !a.fieldChange && decide (a.launch * 1000 ≤ t) then s.takeBoundary n t else s
      | none => s

/-- A held header is judged once it is known on which side of the boundary its block lies: with the block's first packet,
or with the end of a block that has none (02_deurzor_image.md R62). -/
def State.decideHeader (s : State) (n : Nat) : State :=
  match (s.stream n).bind fun x => x.block.bind fun b => b.held with
  | none => s
  | some h =>
      let s := s.boundaryCheck n s.tb0
      match s.stream n with
      | some x => match x.block with
          | some b => s.judgeHeader n x b h
          | none => s
      | none => s

/-! ### Ends of blocks that are cut -/

/-- The declared lines of the open block that did not arrive are consumed in order. -/
def State.consumeMissing (s : State) (n : Nat) : Nat → State
  | 0 => s
  | k + 1 => (s.dropLine n s.tb0 false true).consumeMissing n k

/-- The open block is cut: by a new header or a lost link. -/
def State.cutBlock (s : State) (n : Nat) : State :=
  let s := s.decideHeader n
  match s.stream n with
  | none => s
  | some x => match x.block with
      | none => s
      | some b =>
          if !b.trusted then s.endBlock n
          else
            let s := s.setFlag .cxpStreamErr [n] 5
            let s := s.updStream n fun x => { x with block := x.block.map fun b =>
              { b with flags := b.flags ||| 4, cause := if b.cause = 0 then Code.linesDropped else b.cause } }
            (s.consumeMissing n (b.declared - b.arrived)).endBlock n

/-- A block whose declared lines have all been consumed ends. -/
def State.blockDone (s : State) (n : Nat) : State :=
  match (s.stream n).bind fun x => x.block with
  | some b => if b.trusted && decide (b.declared ≤ b.arrived) then s.endBlock n else s
  | none => s

/-! ### Headers (R80, R81) -/

/-- An image header arrives for a stream. While the stream's boundary of an apply is open it is held. -/
def State.header (s : State) (n : Nat) (h : HdrInfo) (lines tag : Nat) : State :=
  let s := s.cutBlock n
  match s.stream n with
  | none => s
  | some x =>
      let cfgReg := s.reg .cxpStreamCfg [n]
      let b : Block :=
        { number := x.blockNext, declared := lines, arrived := 0, filed := 0, firstLine := x.nextRaw
          headerTime := s.tb0, flags := if (s.dividerOf n).isNone then 16 else 0
          sourceTag := BitVec.ofNat 16 tag, dropping := false, trusted := true, cause := 0, held := some h }
      let x : Stream := { x with
        block := some b, blockNext := x.blockNext + 1, descProd := x.descProd + 1, partial' := []
        window := [], nextTag := none, offsetEn := bit cfgReg 0, slack := slice cfgReg 4 4 }
      if s.boundaryOpen n && lines != 0 then s.setStream n x
      else ((s.setStream n x).judgeHeader n x b h).blockDone n

/-! ### Line data (R80) -/

/-- One whole line of the open block has arrived. -/
def State.fileLine (s : State) (n : Nat) (els : List (BitVec 16)) (firstTime : BitVec 64) : State :=
  let s := s.boundaryCheck n firstTime
  match s.stream n with
  | none => s
  | some x => match x.block with
      | none => s
      | some b =>
          let s :=
            if b.dropping then s.dropLine n firstTime true false
            else
              let (s, free) := s.slotFor n
              if free then
                let s := if b.arrived = 0 then s.updStream n fun x => { x with overflowing := false } else s
                if x.overflowing ∧ b.arrived ≠ 0 then (s.overflow n b.number).dropLine n firstTime true false
                else s.consumeLine n firstTime (planes (s.cfgNow n x) els) 0 true false
              else (s.overflow n b.number).dropLine n firstTime true false
          s.blockDone n

/-- The elements of packets fill lines in order, as many as are complete. -/
def State.fillLines (s : State) (n : Nat) : Nat → State
  | 0 => s
  | fuel + 1 =>
      match s.stream n with
      | none => s
      | some x =>
          let size := (x.block.map (·.lineEls)).getD 0
          if size = 0 ∨ x.partial'.length < size then s else
          let s := s.setStream n { x with partial' := x.partial'.drop size }
          let s := s.fileLine n (x.partial'.take size) x.partialTime
          (s.updStream n fun x => { x with partialTime := s.tb0 }).fillLines n fuel

/-- The elements that the open block can still take. -/
def Stream.remaining (x : Stream) : Option Nat :=
  x.block.bind fun b => if b.trusted ∧ b.lineEls ≠ 0 then
    some ((b.declared - b.arrived) * b.lineEls - x.partial'.length) else none

/-- Elements join the line in progress; those beyond a block are not taken. -/
def State.joinEls (s : State) (n : Nat) (els : List (BitVec 16)) : State :=
  let els := match (s.stream n).bind Stream.remaining with
    | some r => els.take r
    | none => els
  let s := s.updStream n fun y => { y with
    partialTime := if y.partial'.isEmpty then s.tb0 else y.partialTime
    partial' := y.partial' ++ els }
  s.fillLines n (els.length + 1)

/-- The packets of the reorder window, which have arrived, join a block whose rest is dropped (R80). -/
def State.spillWindow (s : State) (n : Nat) : State :=
  let late := ((s.stream n).map fun x => x.window).getD []
  let s := s.updStream n fun x => { x with window := [] }
  late.foldl (fun s p => s.joinEls n p.2.1) s

/-- The elements of one packet join the line in progress. With a packet error the remainder of the block is dropped:
the packet's lines and those of the window still consume their numbers. -/
def State.takePacket (s : State) (n : Nat) (els : List (BitVec 16)) (crcOk : Bool) (bytes : Nat) : State :=
  match s.stream n with
  | none => s
  | some x =>
      let beyond := match x.remaining with
        | some r => decide (r < els.length)
        | none => false
      let long := decide (8192 < bytes) || beyond
      if !crcOk then (((s.setFlag .cxpStreamErr [n] 2).dropRest n Code.linesDropped).joinEls n els).spillWindow n
      else if long then (((s.setFlag .cxpStreamErr [n] 1).dropRest n Code.lengthRange).joinEls n els).spillWindow n
      else s.joinEls n els

/-- Packets of the window that are next in order are taken. -/
def State.drainWindow (s : State) (n : Nat) : Nat → State
  | 0 => s
  | fuel + 1 =>
      match s.stream n with
      | none => s
      | some x => match x.nextTag with
          | none => s
          | some t => match x.window.find? fun p => p.1 == t with
              | none => s
              | some (_, els, bytes) =>
                  let s := s.setStream n { x with
                    window := x.window.filter fun p => p.1 != t
                    nextTag := some ((t + 1) % 256) }
                  (s.takePacket n els true bytes).drainWindow n fuel

/-- A stream packet of line data arrives for a stream. -/
def State.lineData (s : State) (n tag : Nat) (crcOk : Bool) (bytes : Nat) (els : List (BitVec 16)) : State :=
  let s := s.decideHeader n
  match s.stream n with
  | none => s
  | some x => match x.block with
      | none => s
      | some b =>
          if !crcOk then s.takePacket n els false bytes
          else if b.dropping then s.takePacket n els true bytes
          else
            let next := (x.nextTag).getD tag
            if tag = next then
              let s := s.setStream n { x with nextTag := some ((tag + 1) % 256) }
              (s.takePacket n els true bytes).drainWindow n 16
            else if x.window.length < 16 then
              s.setStream n { x with window := x.window ++ [(tag, els, bytes)], nextTag := some next }
            else
              (((s.setFlag .cxpStreamErr [n] 4).dropRest n Code.linesDropped).spillWindow n).takePacket n els true bytes

/-! ### Closing (R124) -/

/-- A stream closes: its run of lines ends, and an apply in its drain finds its boundary here. -/
def State.closeStream (s : State) (n : Nat) : State :=
  match s.stream n with
  | none => s
  | some x =>
      if x.closed then s else
      let s := s.setStream n { x with closed := true }
      let s := s.reachOverlays n 0 true
      if s.inGap n then s
      else if s.boundaryOpen n then s.takeBoundary n s.tb0Ns
      else ((s.endPipe n).endRun n).settleRestores

/-! ### Triggers (R82, R83, R472) -/

/-- A divider event reaches the streams the divider names: queued, or recorded as skipped. -/
def State.queueTrig (s : State) (t : Trig) (lost : Bool) : State :=
  match s.divider t.div with
  | none => s
  | some d => (s.cam.streams.filter fun x => bit (Div.streams d.cfg) x.1).foldl (fun s (n, _) =>
      match s.stream n with
      | none => s
      | some x =>
          if lost ∨ 2 ≤ x.trigQueue.length then
            s.flagLog .cxpStreamErr [n] 7 { warning 9 with arg0 := n64 n, arg1 := n64 t.k }
          else s.setStream n { x with trigQueue := x.trigQueue ++ [t] }) s

/-- Event k of a divider as its line map has it, and whether it was suppressed. -/
def State.mapTrig (s : State) (d : Nat) (x : Divider) (k : Nat) : Trig × Bool :=
  let e := s.load (mapAddr d k x.mapLog2) 16
  ({ div := d, k := k, pos := BitVec.ofNat 56 (leAt e 0 7), time := n64 (leAt e 8 8) }, bit (byteAt e 7) 0)

/-- The events between the last one received and event k were lost, but for the suppressed. -/
def State.lostEvents (s : State) (d : Nat) (x : Divider) (k : Nat) : State :=
  (List.range (k - x.dieK)).foldl (fun s i =>
    let (t, gone) := s.mapTrig d x (x.dieK + i)
    if gone then s else s.queueTrig t true) s

/-- One divider's flag in a tick word. -/
def State.tickEvent (s : State) (d low : Nat) : State :=
  match s.divider d with
  | none => s
  | some x =>
      let k := x.dieK + (low + 256 - x.dieK % 256) % 256
      let s := s.lostEvents d x k
      (s.queueTrig (s.mapTrig d x k).1 false).setDivider d { x with dieK := k + 1 }

/-- A tick word arrives. -/
def State.tickWord (s : State) (crcOk : Bool) (flags : List (Nat × Nat)) (pps : Bool) : State :=
  if !crcOk then s.setFlag .fldLinkErr [] 2 else
  let s := flags.foldl (fun s (d, low) => s.tickEvent d low) s
  if pps then s.ppsSample (s.now - s.field.ppsAt) else s

/-- The uplink character period and the time a trigger packet takes, in ns. -/
def uplinkTimes (fast : Bool) : Nat × Nat := if fast then (240, 1680) else (480, 3360)

/-- The time from which the uplink of a master connection carries no trigger packet: those of every stream that has
the connection share it. -/
def State.uplinkFree (s : State) (port : Nat) : Nat :=
  ((s.cam.streams.filter fun x => Strm.portFirst x.2.cfg == port).map fun x => x.2.uplinkFree).foldl max 0

/-- The first queued trigger of a stream starts on its master connection: at the end of an earlier packet, which is a
character boundary, or at the first boundary after its nominal start (R82). Where the boundaries lie is the uplink's, so
the wait for one, less than a character, is a free value. -/
def State.startTrig (s : State) (n : Nat) : State :=
  match s.stream n with
  | none => s
  | some x => match x.trigQueue with
      | [] => s
      | t :: rest =>
          let port := Strm.portFirst x.cfg
          if !s.linked port ∨ (s.orderBreak x.cfg).isSome then s else
          let (character, packet) := uplinkTimes (s.fld .cxpPortStatus [port] 7 1 == 1)
          let nominal := s.tb0Of t.time + 900
          let ready := max nominal s.tb0Ns
          let (wait, s) := if s.uplinkFree port ≤ ready then s.draw character else (s.uplinkFree port - ready, s)
          let start := ready + wait
          let keep := max 16 (x.sent + 1 - x.paired)
          let sent := x.sentTrigs ++ [t]
          let s := s.setStream n { x with
            trigQueue := rest, sent := x.sent + 1
            sentTrigs := sent.drop (sent.length - keep)
            uplinkFree := start + packet }
          s.emit (.triggerPacket n start (if x.offsetEn then start - nominal else 0))

/-! ### The commands -/

/-- IMAGE_HEADER (R80, R81). -/
def execImageHeader (port : Fin 32) (cxpStream : Byte) (rectangular : Bool) (format : BitVec 16)
    (xOffset xSize lines : Word) (sourceTag : BitVec 16) (s : State) : Res :=
  .next (match s.streamOf port cxpStream.toNat with
    | none => s.unbound
    | some (n, x) =>
        if (s.orderBreak x.cfg).isSome then s else
        s.header n ⟨port, rectangular, format.toNat, xOffset.toNat, xSize.toNat⟩ lines.toNat sourceTag.toNat)

/-- A packet of line data arrives on a port. A CRC error is the port's too, whatever the packet belongs to (R95). -/
def State.packet (s : State) (port id tag : Nat) (crcOk : Bool) (bytes : Nat) (els : List (BitVec 16)) : State :=
  let s := if crcOk then s else s.setFlag .cxpPortErr [port] 0
  match s.streamOf port id with
  | none => s.unbound
  | some (n, x) => if (s.orderBreak x.cfg).isSome then s else s.lineData n tag crcOk bytes els

/-- LINE_DATA (R80). -/
def execLineData (port : Fin 32) (cxpStream : Byte) (tag : Byte) (crcOk : Bool) (lengthBytes : Nat)
    (elements : List (BitVec 16)) (s : State) : Res :=
  .next (s.packet port cxpStream.toNat tag.toNat crcOk lengthBytes elements)

/-- EVENT_PACKET (R73): forwarded to the event recorder, not interpreted. -/
def execEventPacket (_port : Fin 32) (code : BitVec 64) (data : BitVec 64) (s : State) : Res :=
  .next (s.log { info 9 with initiator := 0x40, arg0 := code, arg1 := data })

/-- STREAM_CLOSE (R124). -/
def execStreamClose (stream : Fin 64) (s : State) : Res := .next (s.closeStream stream)

/-- TICK_WORD (R472). -/
def execTickWord (crcOk : Bool) (flags : List (Fin 8 × Byte)) (pps : Bool) (_residue : Fin 4) (s : State) : Res :=
  .next (s.tickWord crcOk (flags.map fun f => (f.1.val, f.2.toNat)) pps)

/-- BARRIER_UP_FRAME (19_field_io.md R471): with the encoder samples it brings, lines that waited for them take their
positions (R84). -/
def execBarrierUpFrame (good : Bool) (s : State) : Res := .next (s.upFrame good).settlePositions

/-- TRIGGER_PACKET_START (R82, R84). -/
def execTriggerPacketStart (stream : Fin 64) (s : State) : Res := .next (s.startTrig stream)

/-- STREAM_HEADER_UPDATE (R135). -/
def execStreamHeaderUpdate (stream : Fin 64) (s : State) : Res := .next (s.putHeader stream)

/-- A write of STREAM_CFG. -/
def State.writeStreamCfg (s : State) (n : Nat) (v : Word) : State := s.setStored .cxpStreamCfg [n] (v &&& 0xF1)

/-- STREAM_CFG (R96): it takes effect at the stream's next image header. -/
def execStreamCfg (_seat : Fin 4) (stream : Fin 64) (value : Word) (s : State) : Res :=
  .next (s.writeStreamCfg stream value)

end Sys2Proof.Machine
end

