-- ==== Sys2Proof/Machine/Take.lean ====
section
/-! DEFINITION. Ring commands between a ring and their meanings (16_host_interface.md R405, R411 to
R419): the bytes of a command entry and back, and the taking of a command: its slot, its fence, its
stamp, and the checks every command has. -/

namespace Sys2Proof.Machine

/-! ### Entries (R414, R417, 22_security.md R553) -/

/-- What R414 and R417 say of a command's entry: its opcode, whether it takes a launch count, whether
RECOVERY accepts it (R427), and its PARAMS up to the last byte listed. -/
structure Entry where
  hdr : Hdr
  opcode : Nat
  launch : Bool
  inRecovery : Bool
  params : Bytes

/-- A 64-bit field. -/
abbrev le8 (v : BitVec 64) : Bytes := natLe 8 v.toNat

/-- A byte field. -/
abbrev le1 (v : Byte) : Bytes := natLe 1 v.toNat

/-- The entry of a ring command; none for a command that no ring carries. -/
def entryOf (i : Instr) : Option Entry :=
  match i with
  | .nop h => some ⟨h, 0x0001, false, true, []⟩
  | .imageVerify h length => some ⟨h, 0x0101, false, true, le8 length⟩
  | .imageApply h fieldChange => some ⟨h, 0x0102, true, true, le1 fieldChange⟩
  | .imageApplyCancel h => some ⟨h, 0x0103, false, true, []⟩
  | .imageStore h => some ⟨h, 0x0104, false, true, []⟩
  | .imageLock h => some ⟨h, 0x0105, false, true, []⟩
  | .imageQuery h resultAddr => some ⟨h, 0x0106, false, true, le8 resultAddr⟩
  | .overlayApply h recordAddr => some ⟨h, 0x0107, true, true, le8 recordAddr⟩
  | .overlayRevert h gen => some ⟨h, 0x0108, true, true, le1 gen⟩
  | .powerMode h mode => some ⟨h, 0x0201, true, false, le1 mode⟩
  | .detOverride h mode => some ⟨h, 0x0202, true, false, le1 mode⟩
  | .groupLaunch h itemAddr => some ⟨h, 0x0203, true, false, le8 itemAddr⟩
  | .ctxCreate h pin => some ⟨h, 0x0301, false, false, le1 pin⟩
  | .ctxDestroy h context => some ⟨h, 0x0302, false, false, natLe 2 context.toNat⟩
  | .jobReplay h context model stream lines lineAddr resultAddr resultBytes =>
      some ⟨h, 0x0303, false, false, natLe 2 context.toNat ++ le1 model ++ le1 stream ++
        natLe 4 lines.toNat ++ le8 lineAddr ++ le8 resultAddr ++ natLe 4 resultBytes.toNat⟩
  | .jobCancel h context jobTag =>
      some ⟨h, 0x0304, false, false, natLe 2 context.toNat ++ natLe 2 0 ++ natLe 4 jobTag.toNat⟩
  | .streamPause h stream => some ⟨h, 0x0401, true, false, le1 stream⟩
  | .streamResume h stream => some ⟨h, 0x0402, true, false, le1 stream⟩
  | .streamSave h stream areaAddr areaBytes =>
      some ⟨h, 0x0403, false, false, le1 stream ++ natLe 7 0 ++ le8 areaAddr ++ le8 areaBytes⟩
  | .streamRestore h stream recordAddr posDelta =>
      some ⟨h, 0x0404, true, false, le1 stream ++ natLe 7 0 ++ le8 recordAddr ++ le8 posDelta⟩
  | .cxpControl h port op tagged camAddr length dataAddr =>
      some ⟨h, 0x0501, false, false, le1 port ++ le1 op ++ le1 tagged ++ natLe 1 0 ++
        natLe 4 camAddr.toNat ++ natLe 4 length.toNat ++ natLe 4 0 ++ le8 dataAddr⟩
  | .cxpDescription h port areaAddr areaBytes =>
      some ⟨h, 0x0502, false, false, le1 port ++ natLe 7 0 ++ le8 areaAddr ++ le8 areaBytes⟩
  | .libraryAttach h library hostAddr bytes =>
      some ⟨h, 0x0601, false, false, le1 library ++ natLe 7 0 ++ le8 hostAddr ++ le8 bytes⟩
  | .sampleDecode h library sampleIndex outAddr outBytes =>
      some ⟨h, 0x0602, false, false, le1 library ++ natLe 7 0 ++ le8 sampleIndex ++ le8 outAddr ++
        natLe 4 outBytes.toNat⟩
  | .trainStart h job => some ⟨h, 0x0603, false, false, le1 job⟩
  | .trainPause h job => some ⟨h, 0x0604, false, false, le1 job⟩
  | .trainResume h job => some ⟨h, 0x0605, false, false, le1 job⟩
  | .trainStop h job => some ⟨h, 0x0606, false, false, le1 job⟩
  | .trainCheckpoint h job areaAddr areaBytes =>
      some ⟨h, 0x0607, false, false, le1 job ++ natLe 7 0 ++ le8 areaAddr ++ le8 areaBytes⟩
  | .trainRestore h job recordAddr =>
      some ⟨h, 0x0608, false, false, le1 job ++ natLe 7 0 ++ le8 recordAddr⟩
  | .candidatePublish h job => some ⟨h, 0x0609, false, false, le1 job⟩
  | .candidatePromote h force => some ⟨h, 0x060A, true, false, le1 force⟩
  | .firmwareStore h fileAddr length =>
      some ⟨h, 0x0801, false, true, natLe 8 0 ++ le8 fileAddr ++ le8 length⟩
  | .keyLoad h slot blockAddr =>
      some ⟨h, 0x0701, false, true, le1 slot ++ natLe 7 0 ++ le8 blockAddr⟩
  | .keyEnrol h recordAddr => some ⟨h, 0x0702, false, true, natLe 8 0 ++ le8 recordAddr⟩
  | .certRead h areaAddr areaBytes =>
      some ⟨h, 0x0703, false, true, natLe 8 0 ++ le8 areaAddr ++ le8 areaBytes⟩
  | .attest h nonce resultAddr => some ⟨h, 0x0704, false, true, natLe 32 nonce.toNat ++ le8 resultAddr⟩
  | .opcodeUnknown h opcode => some ⟨h, opcode.toNat, false, true, []⟩
  | _ => none

/-- FLAGS of a header: a header with a reserved bit set is written with FLAGS bit 7. -/
def hdrFlags (h : Hdr) : Nat := b2n h.override + 2 * b2n h.fence + 128 * b2n h.reservedSet

/-- The 64 bytes of an entry. -/
def Entry.bytes (e : Entry) : Bytes :=
  natLe 2 e.opcode ++ natLe 1 (hdrFlags e.hdr) ++ natLe 1 0 ++ natLe 4 e.hdr.tag.toNat ++
  natLe 8 e.hdr.launch.toNat ++ e.params ++ List.replicate (48 - e.params.length) 0

/-- The 64 bytes of a ring command. -/
def encodeEntry (i : Instr) : Option Bytes := (entryOf i).map Entry.bytes

/-- The header of an entry. -/
def entryHdr (seat : Fin 4) (ring : Fin 16) (reserved : Bool) (bs : Bytes) : Hdr :=
  { seat := seat, ring := ring, tag := BitVec.ofNat 32 (leAt bs 4 4), override := bit (byteAt bs 2) 0
    fence := bit (byteAt bs 2) 1, launch := BitVec.ofNat 64 (leAt bs 8 8), reservedSet := reserved }

/-- The command of an entry, by its opcode and the fields of R417. -/
def entryFields (h : Hdr) (bs : Bytes) : Instr :=
  let b (o : Nat) : Byte := BitVec.ofNat 8 (byteAt bs o)
  let w (o : Nat) : Word := BitVec.ofNat 32 (leAt bs o 4)
  let d (o : Nat) : BitVec 64 := BitVec.ofNat 64 (leAt bs o 8)
  let two (o : Nat) : BitVec 16 := BitVec.ofNat 16 (leAt bs o 2)
  match leAt bs 0 2 with
  | 0x0001 => .nop h
  | 0x0101 => .imageVerify h (d 0x10)
  | 0x0102 => .imageApply h (b 0x10)
  | 0x0103 => .imageApplyCancel h
  | 0x0104 => .imageStore h
  | 0x0105 => .imageLock h
  | 0x0106 => .imageQuery h (d 0x10)
  | 0x0107 => .overlayApply h (d 0x10)
  | 0x0108 => .overlayRevert h (b 0x10)
  | 0x0201 => .powerMode h (b 0x10)
  | 0x0202 => .detOverride h (b 0x10)
  | 0x0203 => .groupLaunch h (d 0x10)
  | 0x0301 => .ctxCreate h (b 0x10)
  | 0x0302 => .ctxDestroy h (two 0x10)
  | 0x0303 => .jobReplay h (two 0x10) (b 0x12) (b 0x13) (w 0x14) (d 0x18) (d 0x20) (w 0x28)
  | 0x0304 => .jobCancel h (two 0x10) (w 0x14)
  | 0x0401 => .streamPause h (b 0x10)
  | 0x0402 => .streamResume h (b 0x10)
  | 0x0403 => .streamSave h (b 0x10) (d 0x18) (d 0x20)
  | 0x0404 => .streamRestore h (b 0x10) (d 0x18) (d 0x20)
  | 0x0501 => .cxpControl h (b 0x10) (b 0x11) (b 0x12) (w 0x14) (w 0x18) (d 0x20)
  | 0x0502 => .cxpDescription h (b 0x10) (d 0x18) (d 0x20)
  | 0x0601 => .libraryAttach h (b 0x10) (d 0x18) (d 0x20)
  | 0x0602 => .sampleDecode h (b 0x10) (d 0x18) (d 0x20) (w 0x28)
  | 0x0603 => .trainStart h (b 0x10)
  | 0x0604 => .trainPause h (b 0x10)
  | 0x0605 => .trainResume h (b 0x10)
  | 0x0606 => .trainStop h (b 0x10)
  | 0x0607 => .trainCheckpoint h (b 0x10) (d 0x18) (d 0x20)
  | 0x0608 => .trainRestore h (b 0x10) (d 0x18)
  | 0x0609 => .candidatePublish h (b 0x10)
  | 0x060A => .candidatePromote h (b 0x10)
  | 0x0801 => .firmwareStore h (d 0x18) (d 0x20)
  | 0x0701 => .keyLoad h (b 0x10) (d 0x18)
  | 0x0702 => .keyEnrol h (d 0x18)
  | 0x0703 => .certRead h (d 0x18) (d 0x20)
  | 0x0704 => .attest h (BitVec.ofNat 256 (leAt bs 0x10 32)) (d 0x30)
  | n => .opcodeUnknown h (BitVec.ofNat 16 n)

/-- The command that 64 bytes hold: where writing its fields back does not give the same bytes, some
byte or bit that R414 or R417 does not list is set. -/
def decodeEntry (seat : Fin 4) (ring : Fin 16) (bs : Bytes) : Instr :=
  let i := entryFields (entryHdr seat ring false bs) bs
  if encodeEntry i = some bs then i else entryFields (entryHdr seat ring true bs) bs

/-! ### Taking (R405, R410 to R413) -/

/-- Why the host block does not take a ring's next command now. -/
inductive Hold where
  | off | full | fence
  deriving DecidableEq, Repr

/-- A ring's next command cannot be taken. -/
def State.holdOf (s : State) (seat ring : Nat) (fence : Bool) : Option Hold :=
  if !s.connected seat || !s.ringOn seat ring || (s.ringInHost seat ring && !s.busMaster seat) then some .off
  else if !s.slotFree seat ring then some .full
  else if fence && s.ringOutstanding seat ring != 0 then some .fence
  else none

/-- A command is taken: SQ_HEAD passes its entry, and it is outstanding with its arrival stamp: TB0 itself, without
the firmware's delay of up to 2 microseconds (15_line_group_and_time.md R391; DESIGN CHOICE,
notes/assumptions/169.md). -/
def State.arrive (s : State) (h : Hdr) (opcode : Nat) : State × CmdRef :=
  let ix := [h.seat.val, h.ring.val]
  let c : CmdRef := ⟨h.seat, h.ring, s.conn h.seat, h.tag, opcode, s.tb0, h.fence⟩
  let s := s.setFld .sqHead ix 0 16 ((s.fld .sqHead ix 0 16 + 1) % s.ringSize h.seat h.ring)
  let s := s.count .cmdArrived [h.seat.val]
  ({ s with host := { s.host with outstanding := s.host.outstanding ++ [c] } }, c)

/-- The refusals that every command shares: an opcode not listed, a command that RECOVERY does not
take, and reserved fields (R414, R417, R427). -/
def Entry.refused (e : Entry) (recovery unknown : Bool) : Option Nat :=
  if unknown then some Code.opcodeUnknown
  else if recovery && !e.inRecovery then some Code.recoveryUnavailable
  else if e.hdr.reservedSet || (!e.launch && e.hdr.launch != 0) then some Code.fieldReserved
  else none

/-- The opcode is one that R417 and R553 do not list. -/
def isUnknown (i : Instr) : Bool :=
  match i with
  | .opcodeUnknown _ _ => true
  | _ => false

/-- Runs a command that is taken: it is refused, or its meaning follows. -/
def State.runTaken (s : State) (i : Instr) (e : Entry) (body : CmdRef → State → State) : State :=
  let (s, c) := s.arrive e.hdr e.opcode
  match e.refused (s.dev == .recovery) (isUnknown i) with
  | some code => s.complete c code
  | none => body c s

/-- An entry is put at a ring's tail, where one is free. -/
def State.park (s : State) (seat ring : Nat) (entry : Bytes) : State :=
  let ix := [seat, ring]
  let n := s.ringSize seat ring
  let tail := s.fld .sqTail ix 0 16
  if (tail + 1) % n = s.fld .sqHead ix 0 16 then s else
  let a := s.pair .sqBaseLo .sqBaseHi ix + 64 * tail
  let s := if s.ringInHost seat ring then s.hostStore seat a entry else s.storeFor seat a entry
  s.setFld .sqTail ix 0 16 ((tail + 1) % n)

/-- A seat submits a command to a ring. It is taken at once where the ring's earlier entries have
been and nothing holds it back; otherwise its entry waits in the ring. A command for a disabled ring
is not taken (R416). -/
def State.takeNow (s : State) (i : Instr) (body : CmdRef → State → State) : State :=
  match entryOf i with
  | none => s
  | some e =>
      let ix := [e.hdr.seat.val, e.hdr.ring.val]
      if !s.connected e.hdr.seat || !s.ringOn e.hdr.seat e.hdr.ring then s else
      let waiting := s.fld .sqHead ix 0 16 != s.fld .sqTail ix 0 16
      match waiting, s.holdOf e.hdr.seat e.hdr.ring e.hdr.fence with
      | false, none =>
          let s := s.setFld .sqTail ix 0 16 ((s.fld .sqTail ix 0 16 + 1) % s.ringSize e.hdr.seat e.hdr.ring)
          s.runTaken i e body
      | _, hold =>
          let s := s.park e.hdr.seat e.hdr.ring e.bytes
          if hold = some .full then s.setFlag .ringStatus ix 4 else s

/-! ### Checks that several commands share -/

/-- An address field of a command: bits [63:40] are reserved (R414). -/
def addrReserved (a : BitVec 64) : Bool := decide (2 ^ 40 ≤ a.toNat)

/-- A length field of 64 bits has its all-ones encoding reserved (00_scope.md R12). -/
def allOnes64 (v : BitVec 64) : Bool := v.toNat == 2 ^ 64 - 1

/-- A buffer named by a command lies wholly in DRAM. -/
def bufferIn (a : BitVec 64) (n : Nat) : Bool := inDram a.toNat n

/-- A refusal by the first of several conditions that holds. -/
def firstCode (cs : List (Bool × Nat)) : Option Nat := (cs.find? fun c => c.1).map Prod.snd

/-- A command is refused by the first condition that holds; otherwise it goes on. -/
def State.checked (s : State) (c : CmdRef) (cs : List (Bool × Nat)) (body : State → State) : State :=
  match firstCode cs with
  | some code => s.complete c code
  | none => body s

/-- The launch edge that a LAUNCH field names: all-ones is the first one after arrival (R414). -/
def State.launchOf (s : State) (v : BitVec 64) : Nat :=
  if v.toNat = 2 ^ 64 - 1 then s.launchCounter + 1 else v.toNat

/-- A launch count has passed on arrival (12_reproducibility.md R321). -/
def State.isLate (s : State) (launch : Nat) : Bool := decide (launch ≤ s.launchCounter)

/-- Adds a launch item. -/
def State.addItem (s : State) (launch : Nat) (k : LaunchKind) (by' : Option CmdRef) : State :=
  { s with img := { s.img with
      items := s.img.items ++ [⟨launch, s.img.itemOrder, k, by', by'.any fun c => c.seat == groupSeat⟩]
      itemOrder := s.img.itemOrder + 1 } }

/-! ### NOP and unlisted opcodes -/

/-- NOP (R417). -/
def execNop (h : Hdr) (s : State) : Res :=
  .next (s.takeNow (.nop h) fun c s => s.complete c Code.ok)

/-- OPCODE_UNKNOWN (R417): an unlisted opcode is refused as it is taken. -/
def execOpcodeUnknown (h : Hdr) (opcode : BitVec 16) (s : State) : Res :=
  .next (s.takeNow (.opcodeUnknown h opcode) fun c s => s.complete c Code.opcodeUnknown)

end Sys2Proof.Machine
end

