-- ==== Sys2Proof/Machine/Ports.lean ====
section
/-! DEFINITION. Camera ports (03_camera_ingest.md R74 to R78, R85, R86): power and the budget,
discovery, rates and cables, control transactions and description files. -/

namespace Sys2Proof.Machine

/-! ### Ports -/

/-- A camera port beyond its registers. -/
def State.port (s : State) (p : Nat) : Port := Tab.getD s.cam.ports p {}

/-- Changes a camera port. -/
def State.updPort (s : State) (p : Nat) (f : Port → Port) : State :=
  { s with cam := { s.cam with ports := Tab.updD s.cam.ports p {} f } }

/-- PORT_STATUS.STATE. -/
def State.portState (s : State) (p : Nat) : Nat := s.fld .cxpPortStatus [p] 0 4

/-- A camera event record of a port. -/
def portRec (e : EvRec) (p : Nat) (arg1 : Nat := 0) : EvRec := { e with arg0 := n64 p, arg1 := n64 arg1 }

/-- A port has no link: rate and uplink speed read none (R92). -/
def State.noRate (s : State) (p : Nat) : State :=
  (s.setFld .cxpPortStatus [p] 4 3 0).setFld .cxpPortStatus [p] 7 1 0

/-- The streams one of whose connections is a port. -/
def State.portStreams (s : State) (p : Nat) : List Nat :=
  (s.cam.streams.filter fun x => decide (Strm.portFirst x.2.cfg ≤ p) &&
    decide (p < Strm.portFirst x.2.cfg + Strm.portCount x.2.cfg)).map Prod.fst

/-- The blocks that a port's streams have open are cut: their missing lines are consumed (R80). -/
def State.cutStreams (s : State) (p : Nat) : State := (s.portStreams p).foldl (fun s n => s.cutBlock n) s

/-- The seat that last wrote to a port's camera, as an INITIATOR (R74). -/
def State.writerOf (s : State) (p : Nat) : Nat := ((s.port p).writer).getD 0x40

/-- A link goes: the blocks of the port's streams are cut and discovery waits for the link again. -/
def State.dropLink (s : State) (p : Nat) : State :=
  let s := ((s.cutStreams p).noRate p).updPort p fun x => { x with picked := 0 }
  s.setFld .cxpPortStatus [p] 0 4 (if (s.port p).powered then 2 else 3)

/-- The reservations of the powered ports, in watts (R77, R85). -/
def State.reserved (s : State) : Nat :=
  ((List.range 32).filter fun p => (s.port p).powered).foldl (fun t p => t + s.fld .cxpPortCtrl [p] 4 4) 0

/-- The camera power budget in watts. -/
def State.budget (s : State) : Nat := s.fld .cxpPocxpBudget [] 0 8

/-- Power leaves a port. -/
def State.unpower (s : State) (p st : Nat) : State :=
  let s := (s.cutStreams p).noRate p
  let s := s.setFld .cxpPortCtrl [p] 0 2 0
  let s := s.updPort p fun x => { x with powered := false, lowMs := 0, picked := 0 }
  s.setFld .cxpPortStatus [p] 0 4 st

/-- POWER_EN is set on a port: detection, reservation, 24 V (R77 steps 1 to 3). A port that is already powered stays as it
is: R76 does not say that an apply discovers it again (DESIGN CHOICE, notes/assumptions/138.md). -/
def State.powerUp (s : State) (p : Nat) (loadFound : Bool) : State :=
  if s.dev = .recovery ∨ (s.port p).powered then s else
  let s := s.setFld .cxpPortCtrl [p] 0 1 1
  let s := s.updPort p fun x => { x with unpoweredDiscovery := false, budgetRefused := false }
  if !loadFound then (s.noRate p).setFld .cxpPortStatus [p] 0 4 6
  else if s.budget < s.reserved + s.fld .cxpPortCtrl [p] 4 4 then
    let s := s.setFld .cxpPortCtrl [p] 0 1 0
    let s := s.updPort p fun x => { x with budgetRefused := true }
    ((s.noRate p).setFld .cxpPortStatus [p] 0 4 0).setFlag .cxpPortErr [p] 7
  else
    let s := s.updPort p fun x => { x with powered := true, lowMs := 0 }
    (s.noRate p).setFld .cxpPortStatus [p] 0 4 2

/-- POWER_EN is cleared on a port. -/
def State.powerDown (s : State) (p : Nat) : State :=
  (s.unpower p 0).updPort p fun x => { x with budgetRefused := false }

/-- A trip: power is removed and POWER_EN cleared (R85). -/
def State.tripPort (s : State) (p flag : Nat) : State :=
  if !(s.port p).powered then s else
  (s.unpower p 5).flagLog .cxpPortErr [p] flag (portRec { errorRec 9 with status := Code.pocxpFault } p)

/-- Discovery steps 3 to 8 are repeated; on a port without POWER_EN they run without power (R77). REDISCOVER reads 1
until the port is LINKED again or loses power (00_scope.md R8). On a port in NO_DEVICE with POWER_EN 1, which has no power
for step 3 to apply, nothing happens: the spec does not say what does (DESIGN CHOICE, notes/assumptions/139.md). -/
def State.rediscover (s : State) (p : Nat) : State :=
  if s.dev = .recovery then s else
  let s := if s.fld .cxpPortCtrl [p] 0 1 = 1 then s else
    s.updPort p fun x => { x with unpoweredDiscovery := true, budgetRefused := false }
  if s.fld .cxpPortCtrl [p] 0 1 = 1 ∧ !(s.port p).powered then s else (s.dropLink p).setFld .cxpPortCtrl [p] 1 1 1

/-- A lane is in raw mode, sends a PRBS pattern or loops back: what the port above needs of it stays down
(18_serdes_lanes.md R464; the checker alone leaves the lane as it is: DEDUCED, notes/assumptions/171.md). -/
def State.laneTested (s : State) (n : Nat) : Bool := s.fld .laneCtrl [n] 0 4 != 0

/-- A port waits for its camera's link. -/
def State.awaiting (s : State) (p : Nat) : Bool :=
  !s.laneTested p &&
  s.fld .cxpPortStatus [p] 4 3 == 0 && ((s.port p).powered || (s.port p).unpoweredDiscovery) &&
  (s.portState p == 2 || s.portState p == 3)

/-! ### Rates and cables (R77, R78, R86) -/

/-- The longest cable of a RATE encoding, in metres. -/
def maxLength (rate : Nat) : Nat :=
  match rate with
  | 1 | 2 => 100
  | 3 => 85
  | 4 | 5 => 60
  | 6 => 40
  | 7 => 35
  | _ => 0

/-- The rate that discovery selects for a port. -/
def pickRate (fix rates length : Nat) : Nat :=
  let offered := (List.range 7).filterMap fun k => if bit rates k then some (k + 1) else none
  if fix ≠ 0 then fix
  else match (offered.filter fun r => length ≤ maxLength r).getLast? with
    | some r => r
    | none => offered.headD 0

/-- A port runs at a rate. -/
def State.setRate (s : State) (p rate : Nat) : State :=
  let s := (s.setFld .cxpPortStatus [p] 4 3 rate).setFld .cxpPortStatus [p] 7 1 (b2n (6 ≤ rate))
  s.setFld .cxpPortCable [p] 8 8 (maxLength rate)

/-- The ports of the aggregated stream a port belongs to; the port alone where it belongs to none. -/
def State.groupPorts (s : State) (p : Nat) : List Nat :=
  match s.portStreams p with
  | n :: _ => match s.stream n with
      | some x => (List.range (Strm.portCount x.cfg)).map (· + Strm.portFirst x.cfg)
      | none => [p]
  | [] => [p]

/-- An estimate of a cable: shown, and too long a one reported. -/
def State.cable (s : State) (p eq length : Nat) : State :=
  let s := (s.setFld .cxpPortCable [p] 0 8 (sat length 255)).setFld .cxpPortCable [p] 16 8 eq
  if s.fld .cxpPortCable [p] 8 8 < length then
    s.flagLog .cxpPortErr [p] 4 (portRec (warning 9) p length)
  else s

/-- The code that a camera's connection configuration register takes for a rate, and the register
addresses, as CoaXPress gives them (PRESUMED, notes/assumptions/17.md). -/
def rateCode (rate : Nat) : Nat := 0x20 + 8 * rate
abbrev camConnConfig : Word := 0x4014
abbrev camPacketMax : Word := 0x4010

/-- The lowest rate that step 6 selects on any of a group's ports that have a link (R78). -/
def State.groupRate (s : State) (ports : List Nat) : Nat :=
  let picks := (ports.map fun q => (s.port q).picked).filter (· != 0)
  picks.foldl min (picks.headD 0)

/-- The ports of a group that have a link run at its rate. -/
def State.rateGroup (s : State) (ports : List Nat) : State :=
  (ports.filter fun q => (s.port q).picked != 0).foldl (fun s q => s.setRate q (s.groupRate ports)) s

/-- A camera's link comes up: its bootstrap registers, the cable and the rate (R77 steps 4 to 6). -/
def State.linkUp (s : State) (p rates conns index : Nat) (master : Bool) (eq length : Nat) : State :=
  if !s.awaiting p then s else
  let s := s.setReg .cxpPortCaps [p] (rates % 128 + conns % 16 * 256)
  let s := (s.setFld .cxpPortStatus [p] 8 3 index).setFld .cxpPortStatus [p] 11 1 (b2n master)
  let rate := pickRate (s.fld .cxpPortCtrl [p] 8 3) rates length
  let mine := s.groupPorts p
  let s := s.updPort p fun x => { x with picked := rate }
  let low := s.groupRate mine
  let s := s.rateGroup mine
  let s := s.setFld .cxpPortStatus [p] 0 4 3
  let s := s.cable p eq length
  let s := s.emit (.camControl p true camConnConfig (natBe 4 (mine.length * 65536 + rateCode low)))
  s.emit (.camControl p true camPacketMax (natBe 4 8192))

/-- Where the description file of a port is held in the firmware region (DESIGN CHOICE,
notes/assumptions/18.md). -/
def fileAddr (p : Nat) : Nat := 0x20000000 + p * 0x1000000

/-- The order of an aggregated stream's connections is checked once all of them are LINKED (R78). -/
def State.orderCheck (s : State) (n : Nat) : State :=
  match s.stream n with
  | none => s
  | some x =>
      let all := (List.range (Strm.portCount x.cfg)).all fun i => s.linked (Strm.portFirst x.cfg + i)
      match all, s.orderBreak x.cfg with
      | true, some q => s.setFlag .cxpPortErr [q] 6
      | _, _ => s

/-- A stream is bound to ports some of which are LINKED: they run at their common rate, which the camera is told where
it changes, and their order is checked (R78). -/
def State.bindPorts (s : State) (n : Nat) : State :=
  match s.stream n with
  | none => s
  | some x =>
      let ports := (List.range (Strm.portCount x.cfg)).map (· + Strm.portFirst x.cfg)
      let low := s.groupRate ports
      let t := (s.rateGroup ports).orderCheck n
      if (ports.filter fun q => (s.port q).picked != 0).all fun q => s.fld .cxpPortStatus [q] 4 3 == low then t else
      t.emit (.camControl (Strm.portFirst x.cfg) true camConnConfig (natBe 4 (ports.length * 65536 + rateCode low)))

/-- A description file is retrieved and the port enters LINKED (R77 steps 7 and 8). -/
def State.describe (s : State) (p : Nat) (file : Bytes) : State :=
  if s.portState p ≠ 3 ∨ s.fld .cxpPortStatus [p] 4 3 = 0 then s else
  let fits := decide (file.length ≤ 0x1000000)
  let s := if fits then s.store (fileAddr p) file else s
  let s := s.updPort p fun x => { x with fileBytes := if fits then file.length else 0, lowMs := 0 }
  let s := (s.setFld .cxpPortStatus [p] 12 1 (b2n fits)).setFld .cxpPortStatus [p] 0 4 4
  let s := s.setFld .cxpPortCtrl [p] 1 1 0
  (s.portStreams p).foldl (fun s n => s.orderCheck n) s

/-- A camera's link is lost: its streams' blocks are cut, the loss is reported and discovery begins
again. -/
def State.linkLost (s : State) (p : Nat) (report : Bool) : State :=
  if s.fld .cxpPortStatus [p] 4 3 = 0 then s else
  let s := s.dropLink p
  let e := portRec { warning 9 with initiator := s.writerOf p } p
  if report ∨ ((s.port p).writer).isSome then s.flagLog .cxpPortErr [p] 1 e
  else s.setFlag .cxpPortErr [p] 1

/-! ### Measurements (R85) -/

/-- The 1 ms measurement of a port and of the camera supply. A supply that goes below 20.0 V is warned of once. -/
def State.measurePort (s : State) (p ma dv totalDw supplyMv : Nat) : State :=
  let s := s.setReg .cxpPortPower [p] (sat ma 1023 + sat dv 511 * 65536)
  let s := s.setReg .cxpPocxpTotal [] (sat totalDw 4095 + sat supplyMv 65535 * 65536)
  let before := s.cam.supplyLow
  let s := { s with cam := { s.cam with supplyLow := decide (supplyMv < 20000) } }
  let s := if supplyMv < 20000 ∧ !before then s.log { warning 9 with arg0 := n64 supplyMv } else s
  if !(s.port p).powered then s
  else if 1000 < ma then s.tripPort p 2
  else if s.fld .cxpPortCtrl [p] 4 4 * 10000 < ma * dv then s.tripPort p 3
  else if s.linked p && decide (ma < 5) then
    let ms := (s.port p).lowMs + 1
    let s := s.updPort p fun x => { x with lowMs := ms }
    if 100 ≤ ms then (s.updPort p fun x => { x with lowMs := 0 }).linkLost p true else s
  else s.updPort p fun x => { x with lowMs := 0 }

/-! ### Control transactions (R74) -/

/-- The first of a port's queued transactions goes to the camera, where the port is LINKED; one that
finds it otherwise completes, as does a write whose data cannot be read (17_memory.md R443). -/
def State.startCtrl (s : State) (p : Nat) : Nat → State
  | 0 => s
  | fuel + 1 =>
      match (s.port p).ctrl with
      | [] => s
      | t :: rest =>
          let drop (s : State) : State := s.updPort p fun x => { x with ctrl := rest }
          if !s.linked p then ((drop s).complete t.by' Code.cxpLinkDown).startCtrl p fuel
          else
            match if t.write then s.badIn t.dataAddr t.length else none with
            | some g => (((drop s).reportUe g t.by'.seat).complete t.by' Code.memoryUncorrectable).startCtrl p fuel
            | none =>
                let data := if t.write then s.load t.dataAddr t.length else natLe 4 t.length
                let s := if t.write then s.updPort p fun x => { x with writer := some t.by'.seat } else s
                s.emit (.camControl p t.write t.camAddr data t.tagged)

/-- The transaction in progress ends, and the next begins. -/
def State.endCtrl (s : State) (p : Nat) (f : CtrlCmd → State → State) : State :=
  match (s.port p).ctrl with
  | [] => s
  | t :: rest =>
      let s := s.updPort p fun x => { x with ctrl := rest }
      (f t s).startCtrl p rest.length

/-- A camera answers the transaction in progress. -/
def State.camAnswer (s : State) (p : Nat) (a : CamAnswer) : State :=
  s.endCtrl p fun t s => match a with
    | .error code => s.complete t.by' Code.cxpNack 0 code.toNat
    | .ok data =>
        let s := if t.write then s else s.storeFor t.by'.seat t.dataAddr (bytesAt data 0 t.length)
        s.complete t.by' Code.ok

/-- CXP_CONTROL's checks and its place in the port's queue. -/
def State.ctrlCommand (s : State) (c : CmdRef) (port op tagged : Byte) (camAddr length : Word)
    (dataAddr : BitVec 64) : State :=
  let p := port.toNat
  let n := length.toNat
  s.checked c
    [(decide (1 < op.toNat) || decide (1 < tagged.toNat) || addrReserved dataAddr || n == 0xFFFFFFFF,
        Code.fieldReserved),
     (decide (n < 4) || decide (1024 < n) || n % 4 != 0, Code.lengthRange),
     (decide (32 ≤ p), Code.badIndex),
     (!bufferIn dataAddr n, Code.addressUnmapped),
     ((s.port p).budgetRefused, Code.pocxpBudget),
     (s.portState p == 5, Code.pocxpFault),
     (!s.linked p, Code.cxpLinkDown),
     (decide (17 ≤ (s.port p).ctrl.length), Code.cxpBusy)]
    fun s =>
      let first := (s.port p).ctrl.isEmpty
      let t : CtrlCmd := ⟨c, op == 1, camAddr, n, dataAddr.toNat, tagged == 1⟩
      let s := s.updPort p fun x => { x with ctrl := x.ctrl ++ [t] }
      if first then s.startCtrl p 1 else s

/-! ### The commands -/

/-- POWER_EN (R77). -/
def execPowerEn (_seat : Fin 4) (port : Fin 32) (on loadFound : Bool) (s : State) : Res :=
  .next (if on then s.powerUp port loadFound else s.powerDown port)

/-- REDISCOVER (R77). -/
def execRediscover (_seat : Fin 4) (port : Fin 32) (s : State) : Res := .next (s.rediscover port)

/-- A write of LIMIT (R85, R91). -/
def State.writeLimit (s : State) (seat p watts : Nat) : State :=
  let old := s.fld .cxpPortCtrl [p] 4 4
  if watts = 0 ∨ 13 < watts then
    s.log { notice 9 with initiator := seat, arg0 := n64 (RN.off .cxpPortCtrl [p]), arg1 := n64 watts }
  else if (s.port p).powered ∧ old < watts ∧ s.budget < s.reserved - old + watts then
    s.flagLog .cxpPortErr [p] 7 (portRec { warning 9 with initiator := seat } p watts)
  else s.setFld .cxpPortCtrl [p] 4 4 watts

/-- LIMIT (R85, R91). -/
def execLimit (seat : Fin 4) (port : Fin 32) (watts : BitVec 4) (s : State) : Res :=
  .next (s.writeLimit seat port watts.toNat)

/-- A write of BUDGET_W. -/
def State.writeBudget (s : State) (watts : Nat) : State := s.setFld .cxpPocxpBudget [] 0 8 (min (watts % 256) 240)

/-- BUDGET_W (R85, R88): a write above 240 is taken as 240. -/
def execBudgetW (_seat : Fin 4) (watts : Byte) (s : State) : Res :=
  .next (s.writeBudget watts.toNat)

/-- DISCOVERY_ATTEMPT (R77): a port that still waits for its link starts its link sequence again at
CXP-1, so no rate is selected. -/
def execDiscoveryAttempt (port : Fin 32) (s : State) : Res :=
  .next (if s.awaiting port then s.noRate port else s)

/-- CAMERA_LINK_UP (R77). -/
def execCameraLinkUp (port : Fin 32) (rates connections connIndex : Nat) (master : Bool)
    (eqSetting lengthM : Nat) (s : State) : Res :=
  .next (s.linkUp port rates connections connIndex master eqSetting lengthM)

/-- DESCRIPTION_RETRIEVED (R77). -/
def execDescriptionRetrieved (port : Fin 32) (file : Bytes) (s : State) : Res := .next (s.describe port file)

/-- CABLE_ESTIMATE (R86). -/
def execCableEstimate (port : Fin 32) (eqSetting lengthM : Nat) (s : State) : Res :=
  .next (if s.linked port then s.cable port eqSetting lengthM else s)

/-- POCXP_MEASURE (R85). -/
def execPocxpMeasure (port : Fin 32) (currentMa voltageDv totalDw supplyMv : Nat) (s : State) : Res :=
  .next (s.measurePort port currentMa voltageDv totalDw supplyMv)

/-- POCXP_SHORT (R85). -/
def execPocxpShort (port : Fin 32) (s : State) : Res := .next (s.tripPort port 2)

/-- CXP_CONTROL (R74). -/
def State.runCxpControl (s : State) (c : CmdRef) (port op tagged : Byte) (camAddr length : Word)
    (dataAddr : BitVec 64) : State := s.ctrlCommand c port op tagged camAddr length dataAddr

/-- CXP_CONTROL (R74). -/
def execCxpControl (h : Hdr) (port op tagged : Byte) (camAddr length : Word) (dataAddr : BitVec 64) (s : State) :
    Res :=
  .next (s.takeNow (.cxpControl h port op tagged camAddr length dataAddr) fun c s =>
    s.runCxpControl c port op tagged camAddr length dataAddr)

/-- CXP_DESCRIPTION (R77): copies the held file. -/
def State.runCxpDescription (s : State) (c : CmdRef) (port : Byte) (areaAddr areaBytes : BitVec 64) : State :=
  let p := port.toNat
  let n := (s.port p).fileBytes
  s.checked c
    [(addrReserved areaAddr || allOnes64 areaBytes, Code.fieldReserved),
     (decide (32 ≤ p), Code.badIndex),
     (!bufferIn areaAddr areaBytes.toNat, Code.addressUnmapped),
     (s.fld .cxpPortStatus [p] 12 1 == 0, if s.linked p then Code.badIndex else Code.cxpLinkDown),
     (decide (areaBytes.toNat < n), Code.lengthRange)]
    fun s =>
      match s.badIn (fileAddr p) n with
      | some g =>
          let s := s.reportUe g c.seat
          (s.setFld .cxpPortStatus [p] 12 1 0).complete c Code.memoryUncorrectable
      | none => (s.storeFor c.seat areaAddr.toNat (s.load (fileAddr p) n)).complete c Code.ok n

/-- CXP_DESCRIPTION (R77). -/
def execCxpDescription (h : Hdr) (port : Byte) (areaAddr areaBytes : BitVec 64) (s : State) : Res :=
  .next (s.takeNow (.cxpDescription h port areaAddr areaBytes) fun c s =>
    s.runCxpDescription c port areaAddr areaBytes)

/-- CAMERA_ACKNOWLEDGE (R74). -/
def execCameraAcknowledge (port : Fin 32) (a : CamAnswer) (s : State) : Res := .next (s.camAnswer port a)

/-- CXP_TIMEOUT (R74): 200 ms without an acknowledgement. -/
def execCxpTimeout (port : Fin 32) (s : State) : Res :=
  .next (s.endCtrl port fun t s => (s.setFlag .cxpPortErr [port.val] 5).complete t.by' Code.cxpTimeout)

/-- CAMERA_LINK_LOSS (R80). -/
def execCameraLinkLoss (port : Fin 32) (s : State) : Res := .next (s.linkLost port false)

end Sys2Proof.Machine
end

