-- ==== Sys2Proof/Machine/Group.lean ====
section
/-! DEFINITION. Line group messages received and sent (15_line_group_and_time.md R370 to R383;
10_ledger_and_deadlines.md R269), and the switch, ARP and ICMP echo (R369, R371). -/

namespace Sys2Proof.Machine

namespace Code
abbrev groupNotFormed : Nat := 0x31
abbrev groupMismatch : Nat := 0x32
abbrev timeNotLocked : Nat := 0x34
abbrev axisInvalid : Nat := 0x35
end Code

/-! ### Receiving (R373, R374) -/

/-- A message's header matches this module (R373). A standalone module accepts none (R372). -/
def State.grpMatches (s : State) (h : GrpHdr) : Bool :=
  match s.group with
  | none => false
  | some g => h.version == 1 && h.configId == Grp.configId g && h.length.toNat == h.payloadBytes

/-- Acknowledges a message that asks for it. -/
def State.grpAck (s : State) (h : GrpHdr) : State :=
  if bit h.flags.toNat 0 then s.groupSend (some h.sender.toNat) 0x09 (natLe 4 h.seq.toNat) else s

/-- A SEQ is among the last 256 seen from a sender. -/
def State.grpSeen (s : State) (h : GrpHdr) : Bool := (Tab.getD s.net.seen h.sender.toNat []).contains h.seq

/-- Notes a SEQ as seen. -/
def State.noteSeq (s : State) (h : GrpHdr) : State :=
  { s with net := { s.net with
      seen := Tab.updD s.net.seen h.sender.toNat [] fun l => (h.seq :: l).take 256 } }

/-- A message is received: discarded and counted, discarded as a duplicate, or performed. -/
def State.receive (s : State) (h : GrpHdr) (body : State → State) : State :=
  if !s.grpMatches h then s.count .netGroupRxDrop []
  else if s.grpSeen h then s.grpAck h
  else body ((s.noteSeq h).grpAck h)

/-! ### CAPS (R370, R375, R382) -/

/-- Changes the state of strip k. -/
def State.updStrip (s : State) (k : Nat) (f : StripState → StripState) : State :=
  if k = 0 then { s with net := { s.net with strip0 := f s.net.strip0 } }
  else { s with net := { s.net with strip1 := f s.net.strip1 } }

/-- The state of strip k. -/
def State.strip (s : State) (k : Nat) : StripState := if k = 0 then s.net.strip0 else s.net.strip1

/-- The strips between this module and a peer fail the check of R382: one of the two names the other,
and no equal strip answers it. -/
def State.stripsFail (s : State) (g : Bytes) (peer : Nat) : Bool :=
  let own := s.ownStrips g
  let theirs := s.memberStrips g peer
  own.any (fun e => byteAt e.1 0 == peer && !stripPasses e (Grp.index g) theirs) ||
    theirs.any fun e => byteAt e.1 0 == Grp.index g && !stripPasses e peer own

/-- A peer's CAPS agrees with this module on GROUP_SIZE and on the PTP domain (R375). -/
def State.capsAgree (s : State) (g : Bytes) (peer : Nat) : Bool :=
  match Tab.get s.net.peers peer with
  | some p => p.caps.size == Grp.size g && p.caps.domain == s.ptpDomain
  | none => true

/-- A peer's CAPS decides the strips that name it; a check that fails, of the strips or of the capabilities (R382, R397;
DEDUCED, notes/assumptions/168.md), is reported when what the peer says is new. -/
def State.checkStrips (s : State) (g : Bytes) (peer : Nat) (fresh : Bool) : State :=
  let s := (s.ownStrips g).zipIdx.foldl (fun s (e, k) =>
    if byteAt e.1 0 ≠ peer then s else
    s.updStrip k fun t => { t with active := stripPasses e (Grp.index g) (s.memberStrips g peer) }) s
  if fresh && (s.stripsFail g peer || !s.capsAgree g peer) then
    s.flagLog .netGroupFlags [] 0 { errorRec 5 with status := Code.groupMismatch, arg0 := n64 peer }
  else s

/-- The group has been FORMED once it is. -/
def State.noteFormed (s : State) : State :=
  if s.groupState = 2 then { s with net := { s.net with everFormed := true } } else s

/-- Two modules claim one index. -/
def State.dupIndex (s : State) (i : Nat) : State :=
  s.flagLog .netGroupFlags [] 5 { errorRec 5 with arg0 := n64 i }

/-- A CAPS message. -/
def State.caps (s : State) (h : GrpHdr) (m : CapsMsg) : State :=
  match s.group with
  | none => s
  | some g =>
      if h.mac = Config.macAddress then
        let s := { s with net := { s.net with noForward := true } }
        s.flagLog .netGroupFlags [] 6 (errorRec 5)
      else if m.index = Grp.index g then s.dupIndex m.index
      else
        let old := Tab.get s.net.peers m.index
        let clash := match old with
          | some p => p.present && p.mac != h.mac
          | none => false
        let again := match old with
          | some p => p.excluded
          | none => false
        let put (x : Bool) : State :=
          let p : Peer := { mac := h.mac, ip := h.ip, caps := m, present := true, excluded := x }
          { s with net := { s.net with peers := Tab.put s.net.peers m.index p } }
        if clash || again then
          let s := put true
          if clash && !again then s.dupIndex m.index else s
        else
          let fresh := match old with
            | some p => !p.present || capsStrips p.caps != capsStrips m || p.caps.size != m.size || p.caps.domain != m.domain
            | none => true
          ((put false).checkStrips g m.index fresh).noteFormed

/-- The payload of this module's CAPS (the order of the fields is that of R374's list; their widths
are a DESIGN CHOICE, notes/assumptions/19.md). -/
def State.capsBytes (s : State) (g : Bytes) : Bytes :=
  natLe 1 (Grp.index g) ++ natLe 1 (Grp.size g) ++ natLe 4 s.boot.fwVersion.toNat ++
  ((s.img.running.map Image.imageId).getD (List.replicate 16 0)) ++ natLe 4 s.img.gen.toNat ++
  bytesAt g 0x24 16 ++ natLe 1 (TbSt.code s.time.tb0.st) ++ natLe 1 s.ptpDomain ++
  natLe 3 (((List.range 24).map fun i => b2n (i == Grp.index g || s.peerHere i) * 2 ^ i).foldl (· + ·) 0)

/-- Broadcasts this module's CAPS. -/
def State.sendCaps (s : State) : State :=
  match s.group with
  | none => s
  | some g => s.groupSend none 0x01 (s.capsBytes g)

/-- A peer has been silent for 350 ms. -/
def State.peerAbsent (s : State) (i : Nat) : State :=
  match s.group, Tab.get s.net.peers i with
  | some g, some p =>
      let s := { s with net := { s.net with
        peers := Tab.put s.net.peers i { p with present := false, excluded := false } } }
      (s.ownStrips g).zipIdx.foldl (fun s (e, k) =>
        if byteAt e.1 0 = i then s.updStrip k fun t => { t with active := false, expect := none } else s) s
  | _, _ => s

/-! ### AXIS (R376) -/

/-- A number of nanoseconds in the stored form of TB0. -/
def State.storedTb0 (s : State) (ns : Nat) : BitVec 64 :=
  ({ s.time.tb0 with value := ns * 2 ^ 32 } : TimeBase).stored

/-- An AXIS message refreshes the anchor, where both encoders and TB0 allow it and a sample brackets
its instant. -/
def State.axis (s : State) (tb0 : BitVec 64) (p : Pos) (encState : Nat) : State :=
  match s.group with
  | none => s
  | some g =>
      let e := s.enc (Grp.stretch g 0x18 1)
      let locked := s.time.tb0.st == .locked || s.time.tb0.st == .holdover
      let ours := e.dieSt == .run || e.dieSt == .stopped
      if Grp.index g = 0 ∨ !locked ∨ !ours ∨ encState = 0 ∨ encState = 3 then s else
      match e.posAtTb0 (s.tb0Of tb0) with
      | none => s
      | some a => { s with net := { s.net with anchor := some (a, p), anchorAt := s.now } }

/-- The leader broadcasts the newest sample of its axis encoder. -/
def State.sendAxis (s : State) : State :=
  match s.group with
  | none => s
  | some g =>
      if Grp.index g ≠ 0 then s else
      let e := s.enc (Grp.stretch g 0x18 1)
      let (t, p) := (e.samples.head?).getD (s.tb0Ns, e.diePos)
      s.groupSend none 0x02 (natLe 8 (s.storedTb0 t).toNat ++ natLe 8 p.toNat ++ natLe 1 e.dieSt.code)

/-! ### Handoffs received (R269, R377, R378, R380) -/

/-- A sender's position in local counts. -/
def HandoffMsg.here (m : HandoffMsg) (g : Bytes) (anchor : Pos × Pos) (p : Pos) : Pos :=
  translate m.anchorP m.anchorG m.axisRatio m.axisDistance anchor.1 anchor.2 g p

/-- Refuses or discards a handoff with a code: FLAGS.HANDOFF (R276) and a notice record. -/
def State.handoffRefused (s : State) (h : GrpHdr) (m : HandoffMsg) (code : Nat) : State :=
  (s.setFlag .ledgFlags [] 7).log { notice 12 with status := code, arg0 := m.partId, arg1 := n64 h.sender.toNat }

/-- A cutoff is passed: the channel has reached it and does not stand (R263). -/
def State.cutoffBehind (s : State) (enc : Nat) (cut : Pos) : Bool :=
  !s.dieStopped enc && reached (s.diePos enc) cut

/-- The part a kind 1 handoff names: the nearest whose view HANDOFF_SLOT is remote, within half its length, among
those undecided and those that the cutoff has decided since. -/
def State.handoffPart (s : State) (m : HandoffMsg) (start : Pos) (sender : Nat) : Option (Nat × Part) :=
  let cands := (s.ledg.parts.filter fun p => p.2.undecided || (p.2.source == 3 && !p.2.handedIn)).filterMap fun (slot, p) =>
    match p.views[m.slot]? with
    | some v => if v.local' ∨ (((s.seen p).viewsOf p.stream)[m.slot]?.map fun w => w.2.1) ≠ some sender then none else
        let d : Nat := (posSub p.startPos (posCounts start (-(s.viewOffset p m.slot)))).natAbs
        some (slot, p, d)
    | none => none
  match cands.foldl (fun (b : Option (Nat × Part × Nat)) c => match b with
    | none => some c
    | some x => if c.2.2 < x.2.2 then some c else some x) none with
  | some (slot, p, d) => if 2 * (d : Int) ≤ posSub p.endPos p.startPos then some (slot, p) else none
  | none => none

/-- View scores join as view HANDOFF_SLOT. -/
def State.handoffScores (s : State) (h : GrpHdr) (m : HandoffMsg) (g : Bytes) (anchor : Pos × Pos) : State :=
  match s.handoffPart m (HandoffMsg.here m g anchor m.startPos) h.sender.toNat with
  | none => s.handoffRefused h m Code.handoffMismatch
  | some (slot, p) =>
      if !p.undecided || s.cutoffBehind p.encoder p.cutoff then s.handoffRefused h m Code.handoffLate else
      let n := (((s.seen p).imgRecord 9 2 p.stream).map fun r => byteAt r 6).getD 16
      let sc := m.scores.take n
      let take (v : View) : View :=
        if m.source = 2 then { v with shoal := some sc, arithShoal := v.arithShoal ||| m.arith }
        else { v with deep := some sc, arithDeep := v.arithDeep ||| m.arith }
      let s := s.updPart slot fun p => { p with
        views := listUpd p.views m.slot take
        groupPeer := if p.groupPeer = 0xFF then h.sender.toNat else p.groupPeer }
      let s := if m.damaged then s.damageView slot m.slot Code.remoteDamaged else s
      let s := s.recordJoined slot (if m.source = 2 then 1 else 0)
      (s.judge slot).afterDecision

/-- LATERAL in this module's columns (R377). -/
def HandoffMsg.lateralHere (m : HandoffMsg) (g : Bytes) : Word :=
  if m.lateral = 0xFFFFFFFF then m.lateral
  else n32 (toUnsigned 32 ((m.lateral.toNat : Int) + m.lateralOrigin - sleAt g 0x14 4))

/-- A decided part opens a record already DECIDED, which is scheduled here. -/
def State.handoffDecided (s : State) (h : GrpHdr) (m : HandoffMsg) (g : Bytes) (anchor : Pos × Pos) : State :=
  match s.partDef m.slot, s.stream m.slot with
  | some r, some x =>
      let enc := Strm.encoder x.cfg
      let eject := HandoffMsg.here m g anchor m.ejectPos
      let cut := s.cutoffOf r enc eject
      let late := s.cutoffBehind enc cut
      let wait : Bool := match s.img.apply with
        | some a => a.phase == .fieldWait
        | none => false
      let recipe := PD.recipe r m.verdict
      let source := if late then 3 else m.source
      let (s, slot) := s.openPart m.slot (HandoffMsg.here m g anchor m.startPos) fun p => { p with
        st := .decided, verdict := m.verdict, source := source, cause := if late then Code.handoffLate else 0
        handedIn := true, groupPeer := h.sender.toNat, views := [], arith := m.arith
        endPos := HandoffMsg.here m g anchor m.endPos, ejectPos := eject, cutoff := cut
        lateral := HandoffMsg.lateralHere m g, settled := true, histDone := [], shadow := false
        recipe := if wait then 0xFF else recipe, tDecided := s.tb0, decidedTb1 := s.now
        scoreDeep := if m.source = 2 then p.scoreDeep else m.scores.headD 0x7FC00000
        scoreShoal := if m.source = 2 then m.scores.headD 0x7FC00000 else p.scoreShoal }
      (match slot, slot.bind s.part with
        | some k, some p =>
            let s := s.count .ledgSourceCnt [source - 1]
            let s := if 3 ≤ source ∧ source ≤ 5 then s.setFlag .ledgFlags [] (source + 1) else s
            let s := if late then s.setFlag .ledgFlags [] 7 else s
            let s := if wait ∧ recipe ≠ 0xFF then
                s.log { warning 12 with status := Code.imageFieldChange, arg0 := p.id } else s
            let s := if p.recipe = 0xFF then s else
              s.queueEntries k (s.ejectEntries k p r p.recipe)
            s.settleParts
        | _, _ => s)
  | _, _ => s.handoffRefused h m Code.handoffMismatch

/-- A HANDOFF: refused with AXIS_INVALID, and not acknowledged, where the own axis map has never been
anchored. -/
def State.handoffIn (s : State) (h : GrpHdr) (m : HandoffMsg) : State :=
  if !s.grpMatches h then s.count .netGroupRxDrop [] else
  match s.group with
  | none => s
  | some g => match s.axisAnchor g with
      | none => s.handoffRefused h m Code.axisInvalid
      | some a => s.receive h fun s =>
          if m.kind = 1 then s.handoffScores h m g a
          else if m.kind = 2 then s.handoffDecided h m g a
          else s

/-! ### Strips received (R381, R382) -/

/-- The bytes of a slot of strip k's receive ring. -/
def State.stripSlot (s : State) (g : Bytes) (k : Nat) : Nat :=
  let e := Grp.strip g k
  let shape := ((s.ownStrips g).getD k (e, (0, 0))).2
  roundUp (32 + leAt e 4 2 * shape.1 * shape.2) 64

/-- The bytes of strip k's receive ring. -/
def State.stripRing (s : State) (g : Bytes) (k : Nat) : Nat :=
  let e := Grp.strip g k
  if byteAt e 0 = 0xFF then 0 else 2 ^ byteAt e 6 * s.stripSlot g k

/-- The base of strip k's receive ring: the rings lie at the end of the stream buffer region, in the
stage area (DESIGN CHOICE, notes/assumptions/19.md). -/
def State.stripBase (s : State) (g : Bytes) (k : Nat) : Nat :=
  match s.mc.plan.find? fun r => r.1 == 9 with
  | none => 0
  | some (_, base, size) => base + size - s.stripRing g 1 - (if k = 0 then s.stripRing g 0 else 0)

/-- The own line whose group coordinate is nearest to one. -/
def State.nearestLine (s : State) (g : Bytes) (x : Stream) (p : Pos) : Option CorrLine :=
  (x.lines.foldl (fun (b : Option (CorrLine × Nat)) l =>
    match s.groupCoord g l.pos with
    | none => b
    | some q =>
        let d := (posSub q p).natAbs
        (match b with
          | none => some (l, d)
          | some (m, e) => if d < e then some (l, d) else some (m, e))) none).map Prod.fst

/-- A STRIP message of an active strip: stored, counted, compared. -/
def State.stripLine (s : State) (g : Bytes) (k : Nat) (m : StripMsg) : State :=
  let e := Grp.strip g k
  let n := m.lineIndex.toNat
  let t := s.strip k
  let size := s.stripSlot g k
  let payload := natLe 8 n ++ natLe 8 m.group.toNat ++ natLe 8 m.tb0.toNat ++ natLe 1 (b2n m.damaged) ++
    natLe 7 0 ++ m.band
  let s := s.store (s.stripBase g k + t.slots % 2 ^ byteAt e 6 * size) (padTo size (payload.take size))
  let gap := match t.expect with
    | some x => n - x
    | none => 0
  let s := if gap = 0 then s else (s.count .netStripLost [k] gap).setFlag .netGroupFlags [] 4
  let s := s.count .netStripRx [k]
  let s := s.updStrip k fun t => { t with expect := some (n + 1), slots := t.slots + 1 }
  match s.stream (byteAt e 1) with
  | none => s
  | some x => match s.nearestLine g x m.group with
      | none => s
      | some l =>
          if l.cause ≠ 0 ∨ m.damaged then s else
          let w := corrElem x.cfg x.lp
          let mine := s.lineBand x l (leAt e 2 2) (leAt e 4 2)
          let total := leAt e 4 2 * Strm.comps x.cfg
          let sum := (List.range total).foldl (fun a i =>
            a + ((leAt mine (i * w) w : Int) - leAt m.band (i * w) w).natAbs) 0
          s.updStrip k fun t => { t with sumAbs := t.sumAbs + sum, elements := t.elements + total }

/-- A STRIP message joins the strips that receive from its sender. -/
def State.stripIn (s : State) (sender : Nat) (m : StripMsg) : State :=
  match s.group with
  | none => s
  | some g => [0, 1].foldl (fun s k =>
      if byteAt (Grp.strip g k) 0 = sender ∧ (s.strip k).active then s.stripLine g k m else s) s

/-- The mean absolute difference of the last second is shown and a new second begins. -/
def State.seam (s : State) (k : Nat) : State :=
  let t := s.strip k
  let v := if t.elements = 0 then 0 else sat (t.sumAbs * 256 / t.elements) 0xFFFFFF
  (s.setReg .netStripSeam [k] v).updStrip k fun t => { t with sumAbs := 0, elements := 0 }

/-! ### EVENT, ACK, retransmission (R374, R383) -/

/-- The record in 64 bytes. -/
def recOf (bs : Bytes) : EvRec :=
  { severity := byteAt bs 0x18, source := byteAt bs 0x19, status := byteAt bs 0x1A
    flags := BitVec.ofNat 8 (byteAt bs 0x1B), initiator := byteAt bs 0x1C, sender := byteAt bs 0x1D
    count := leAt bs 0x1E 2, time := n64 (leAt bs 8 8), tb1 := n64 (leAt bs 0x10 8)
    flagReg := n32 (leAt bs 0x20 4), flagBit := byteAt bs 0x24, cls := byteAt bs 0x25
    arg0 := n64 (leAt bs 0x28 8), arg1 := n64 (leAt bs 0x30 8) }

/-- An event record of a peer enters the own recorder, marked with the sender. -/
def State.eventIn (s : State) (sender : Nat) (bs : Bytes) : State :=
  let r := recOf bs
  s.enqueueRec { r with flags := r.flags ||| 8, sender := sender }

/-- A message is acknowledged. -/
def State.ackIn (s : State) (sender : Nat) (seq : Word) : State :=
  { s with net := { s.net with unacked := s.net.unacked.filter fun m => !(m.peer == sender && m.seq == seq) } }

/-- 100 microseconds have passed without an acknowledgement: the message is sent again, or is lost
after four times. A GO is sent until its launch count (R374). -/
def State.regroup (s : State) (peer : Nat) (seq : Word) : State :=
  match s.net.unacked.find? fun m => m.peer == peer && m.seq == seq with
  | none => s
  | some m =>
      if m.type = 0x07 ∧ leAt m.payload 0 8 ≤ s.launchCounter then s.ackIn peer seq
      else if m.tries < 4 then
        let s := s.emit (.group (some peer) m.type seq true m.payload)
        { s with net := { s.net with unacked := s.net.unacked.map fun x =>
            if x.peer == peer && x.seq == seq then { x with tries := x.tries + 1 } else x } }
      else
        let s := s.ackIn peer seq
        let s := s.flagLog .netGroupFlags [] 1
          { errorRec 5 with status := Code.peerLost, arg0 := n64 peer, arg1 := n64 m.type }
        if m.type = 0x03 then s.handoffLost m.partId else s

/-! ### The switch (R369) -/

/-- Broadcast. -/
abbrev macAll : BitVec 48 := 0xFFFFFFFFFFFF

/-- The egress queue of a priority code point. -/
def queueOf (pcp : Option (Fin 8)) : Nat :=
  match pcp with
  | none => 0
  | some p => if p.val = 7 then 3 else if 5 ≤ p.val then 2 else if 2 ≤ p.val then 1 else 0

/-- The priority code point with which the die tags a frame of its own (R369). -/
def Emission.pcp : Emission → Option Nat
  | .ptp _ _ _ => some 7
  | .group _ type _ _ _ => some (if type = 3 then 5 else if type = 4 ∨ type = 8 then 2 else 6)
  | .beyholdo _ _ _ _ => some 0
  | _ => none

/-- The ports a frame leaves by. -/
def State.egress (s : State) (inPort : Nat) (f : Frame) : List Nat :=
  let other := if inPort = 2 then [0, 1] else if s.net.noForward then [] else [1 - inPort]
  let mine := if inPort = 2 then [] else [2]
  if f.dst = macAll then other ++ mine
  else if f.dst = Config.macAddress then mine
  else match s.net.macTable.find? fun e => e.1 == f.dst with
    | some (_, p) => if p = inPort ∨ (p ≠ 2 ∧ inPort ≠ 2 ∧ s.net.noForward) then [] else [p]
    | none => other

/-- The running image makes the switch a transparent clock: TC_ENABLE of its PTP record (R384). -/
def State.transparent (s : State) : Bool := (s.imgRecord 13 2 0).any fun r => byteAt r 0xF == 1

/-- The bound of a frame's residence between P0 and P1, in nanoseconds times 2^16: 1.0 µs for a frame
of up to 1,542 B; none is given for a longer one (R369). -/
def residenceBound (bytes : Nat) : Nat := if bytes ≤ 1542 then 1000 * 2 ^ 16 + 1 else 2 ^ 48

/-- What a transparent clock adds to the correctionField of a Sync for the ingress link's mean path
delay, in peer-to-peer mode: MEAN_PATH_DELAY of the port to the selected master, a free value of the other
port, whose delay the spec shows nowhere (R384; notes/assumptions/153.md). -/
def State.linkDelay (s : State) (inPort : Nat) (sync : Bool) : Nat × State :=
  if !sync || !(s.imgRecord 13 2 0).any fun r => byteAt r 5 == 1 then (0, s)
  else if (s.time.master.map Prod.fst) = some inPort then (s.reg .timeMeanPathDelay [] * 256, s)
  else s.draw (2 ^ 40)

/-- An event message passes the transparent clock between P0 and P1: its residence time, a free value
within the bound, is added to its correctionField, and in peer-to-peer mode the link's delay to a Sync's. -/
def State.throughClock (s : State) (inPort : Nat) (f : Frame) : Frame × State :=
  match f.ptp with
  | none => (f, s)
  | some e =>
      if inPort = 2 || !s.transparent then (f, s) else
      let (residence, s) := s.draw (residenceBound f.bytes)
      let (delay, s) := s.linkDelay inPort e.sync
      ({ f with ptp := some { e with correction := e.correction + n64 (residence + delay) } }, s)

/-- A frame enters the switch: its source is learned while the table of 1,024 has room, and it leaves
by its ports. -/
def State.forward (s : State) (inPort : Nat) (f : Frame) : State :=
  if 9216 < f.bytes then s else
  let rest := s.net.macTable.filter fun e => e.1 != f.src
  let s := if rest.length < 1024 then { s with net := { s.net with macTable := rest ++ [(f.src, inPort)] } } else s
  let ports := s.egress inPort f
  let (through, s) := if ports.any (· < 2) then s.throughClock inPort f else (f, s)
  s.emits (ports.map fun p => .frame p (queueOf f.pcp) (if p = 2 then f else through))

/-- The die's IPv4 address (R371). -/
def State.ownIp (s : State) : Word :=
  if s.reg .netIpAddr [] ≠ 0 then s.stored .netIpAddr []
  else
    let fix (v : Nat) : Nat := if v = 0 ∨ v = 255 then 1 else v
    let n := Config.serial.toNat
    n32 (169 * 2 ^ 24 + 254 * 2 ^ 16 + fix (slice n 8 8) * 256 + fix (slice n 0 8))

/-! ### The commands -/

/-- CAPS (R374, R375). -/
def execCaps (g : GrpHdr) (m : CapsMsg) (s : State) : Res :=
  .next (if g.mac = Config.macAddress && s.grpMatches g then s.caps g m else s.receive g fun s => s.caps g m)

/-- CAPS_TIMER (R374). -/
def execCapsTimer (s : State) : Res := .next s.sendCaps

/-- PEER_ABSENT (R375). -/
def execPeerAbsent (index : Fin 24) (s : State) : Res := .next (s.peerAbsent index)

/-- AXIS (R376). -/
def execAxis (g : GrpHdr) (tb0 : BitVec 64) (p : Pos) (encState : Fin 4) (s : State) : Res :=
  .next (s.receive g fun s => s.axis tb0 p encState)

/-- AXIS_TIMER (R374). -/
def execAxisTimer (s : State) : Res := .next s.sendAxis

/-- The axis map has been anchored and is stale: its anchor is 10 ms old (R376). -/
def State.mapStale (s : State) : Bool :=
  s.group.isSome && s.net.anchor.isSome && decide (s.net.anchorAt + 10000000 ≤ s.now)

/-- AXIS_STALE (R376): the axis map has reached 10 ms of age. -/
def execAxisStale (s : State) : Res := .next (if s.mapStale then s.setFlag .netGroupFlags [] 3 else s)

/-- HANDOFF (R269, R380). -/
def execHandoff (g : GrpHdr) (m : HandoffMsg) (s : State) : Res := .next (s.handoffIn g m)

/-- STRIP (R381). -/
def execStrip (g : GrpHdr) (m : StripMsg) (s : State) : Res :=
  .next (s.receive g fun s => s.stripIn g.sender.toNat m)

/-- STRIP_SEAM_UPDATE (R382). -/
def execStripSeamUpdate (strip : Fin 2) (s : State) : Res := .next (s.seam strip)

/-- EVENT (R383). -/
def execEvent (g : GrpHdr) (record : Bytes) (s : State) : Res :=
  .next (s.receive g fun s => s.eventIn g.sender.toNat record)

/-- GROUP_ACK (R374). -/
def execGroupAck (g : GrpHdr) (ackSeq : Word) (s : State) : Res :=
  .next (s.receive g fun s => s.ackIn g.sender.toNat ackSeq)

/-- GROUP_RETRANSMIT (R374). -/
def execGroupRetransmit (peer : Fin 24) (seq : Word) (s : State) : Res := .next (s.regroup peer seq)

/-- FRAME_FORWARD (R369). -/
def execFrameForward (inPort : Fin 3) (f : Frame) (s : State) : Res := .next (s.forward inPort f)

/-- ADDRESS_AGEING (R369). -/
def execAddressAgeing (mac : BitVec 48) (s : State) : Res :=
  .next { s with net := { s.net with macTable := s.net.macTable.filter fun e => e.1 != mac } }

/-- ARP_REQUEST (R371). -/
def execArpRequest (inPort : Fin 2) (senderMac : BitVec 48) (senderIp targetIp : Word) (s : State) : Res :=
  .next (if targetIp = s.ownIp then s.emit (.arpReply inPort senderMac senderIp) else s)

/-- ICMP_ECHO (R371): a fragmented datagram is discarded. -/
def execIcmpEcho (senderIp targetIp : Word) (fragmented : Bool) (data : Bytes) (s : State) : Res :=
  .next (if targetIp = s.ownIp ∧ !fragmented then s.emit (.echoReply senderIp data) else s)

end Sys2Proof.Machine
end

