-- ==== Sys2Proof/Machine/Regions.lean ====
section
/-! DEFINITION. What an uncorrectable granule of the running image does (17_memory.md R443, 02_deurzor_image.md
R68): the stages that need it cannot run, and their parts receive DEFAULT_FAULT until a seat applies an image
again. The actions of the other regions stand with the commands that read them. -/

namespace Sys2Proof.Machine

/-- The running image and the records of its overlay chain, as ranges of DRAM. -/
def State.imageRanges (s : State) (i : Image) : List (Nat × Nat) :=
  (halfBase s.img.runHalf, i.length) :: s.img.overlays.map fun o => (o.addr, o.record.length)

/-- A granule of the running image or of its overlay chain is bad: critical record. One of the image itself is lost; else
the weights are reloaded from the running half, which is a load on the live path where they are pinned (R234). -/
def State.imageUe (s : State) (pinned : Bool) (g : Nat) : State :=
  match s.img.running with
  | none => s.reportUe g 0x40
  | some i =>
      if !((s.imageRanges i).any fun r => decide (r.1 < g + 64) && decide (g < r.1 + r.2)) then s.reportUe g 0x40
      else
        let s := (s.reportUe g 0x40).log
          { critical 7 with status := Code.memoryUncorrectable, arg0 := n64 g, arg1 := n64 (s.regionOf g) }
        let off := g - halfBase s.img.runHalf
        if halfBase s.img.runHalf ≤ g ∧ off < i.length then
          { s with mc := { s.mc with lost := off :: s.mc.lost } }
        else if pinned then s.setFlag .schedFlags [] 3 else s

/-- A set of weights is read from the running half and from the overlay chain. -/
def State.readSet (s : State) (set : Nat) : State :=
  match s.img.running with
  | none => s
  | some i =>
      let base := halfBase s.img.runHalf
      let mine := s.mc.bad.filter fun g =>
        (decide (base ≤ g) && decide (g < base + i.length) && i.setHolds set (g - base)) ||
        s.img.overlays.any fun o => decide (o.addr < g + 64) && decide (g < o.addr + o.record.length)
      mine.foldl (fun s g => s.imageUe (RSet.pinned (i.set set)) g) s

/-- The weights of commands that are ready and lie in no core's pool are read. -/
def State.readWeights (s : State) : State :=
  match s.img.running with
  | none => s
  | some i =>
      let wanted := (s.sched.cmds.filter fun x => s.mayDispatch x &&
        (List.range 4).all fun n => !s.weightsOn x n).map fun x => Stage.set (i.stage x.stage)
      if s.mc.bad.isEmpty then s else wanted.dedup.foldl (fun s k => s.readSet k) s

/-- The pinned sets of a core are read into its pool again. -/
def State.readPinned (s : State) (n : Nat) : State :=
  match s.img.running with
  | none => s
  | some i => (i.pinnedOn n).foldl (
      fun s k => s.readSet k) s

/-- Undecided parts of an image whose deep model has a stage that cannot run are decided by fault. -/
def State.faultLost (s : State) : State :=
  match s.img.running with
  | none => s
  | some i =>
      if !((List.range i.stageCount).any fun k => Stage.model (i.stage k) == 0 && s.stageLost k) then s else
      ((s.undecidedParts.filter fun p => p.2.imageGen == s.img.gen).foldl
        (fun s p => s.decideDefault p.1 5 Code.memoryUncorrectable) s).afterDecision

end Sys2Proof.Machine
end

