-- ==== Sys2Proof/Machine/SchedCmds.lean ====
section
/-! DEFINITION. Commands of the scheduler and of the deadline monitor (09_scheduling.md;
10_ledger_and_deadlines.md R263 to R265; 21_faults_and_event_recorder.md R517). -/

namespace Sys2Proof.Machine

namespace Code
abbrev sliceExhausted : Nat := 0x70
abbrev contextLimit : Nat := 0x71
abbrev contextState : Nat := 0x72
abbrev cancelled : Nat := 0x73
abbrev cancelTooLate : Nat := 0x74
end Code

/-! ### Contexts of seats (R216, R232) -/

/-- CTX_CREATE: the lowest free host number. -/
def State.runCtxCreate (s : State) (c : CmdRef) (pin : Byte) : State :=
  let free := (List.range 864).find? fun k => (s.ctx (160 + k)).isNone
  s.checked c
    [(decide (1 < pin.toNat), Code.fieldReserved),
     (free.isNone || (pin == 1 && decide (128 ≤ s.pinnedCount)), Code.contextLimit)]
    fun s =>
      let n := 160 + free.getD 0
      (s.defineCtx n .host c.seat (pin == 1)).complete c Code.ok 0 n

/-- A context is a host context that exists. -/
def State.isHostCtx (s : State) (n : Nat) : Bool :=
  match s.ctx n with
  | some x => x.kind == .host
  | none => false

/-- CTX_DESTROY, from any seat. -/
def State.runCtxDestroy (s : State) (c : CmdRef) (context : BitVec 16) : State :=
  s.checked c
    [(decide (1024 ≤ context.toNat), Code.badIndex),
     (!s.isHostCtx context.toNat, Code.contextState)]
    fun s => ((s.destroyCtx context.toNat).turnCheck).complete c Code.ok

/-- JOB_CANCEL: a job all of whose commands are past the point of a kill completes normally, as does
one that is done. -/
def State.runJobCancel (s : State) (c : CmdRef) (context : BitVec 16) (jobTag : Word) : State :=
  let js := s.sched.jobs.filter fun j => j.ctx == context.toNat && (match j.by' with
    | some b => b.tag == jobTag
    | none => false)
  let open' := js.filter fun j => (s.jobCmds j.id).any fun x => x.st != .committing && x.st != .done
  s.checked c
    [(decide (1024 ≤ context.toNat), Code.badIndex),
     (!s.isHostCtx context.toNat, Code.contextState),
     (open'.isEmpty, Code.cancelTooLate)]
    fun s =>
      let asked := open'.filterMap (·.by')
      let s := js.foldl (fun s j => s.withdraw j.id) s
      let s := match asked.head? with
        | some a => s.complete a Code.cancelled
        | none => s
      s.turnCheck.complete c Code.ok

/-! ### Cores lost and regained (R492, R517) -/

/-- A core is reset and held: its command is re-issued, its pool is not trusted (R492). -/
def State.holdCore (s : State) (n : Nat) (st : CoreSt) (source : Nat) : State :=
  let s := s.fence n
  let s := s.updCore n fun c => { c with
    st := st, cmd := none, sets := [], lostSets := [], stalled := 0, reloading := false, mhz := 0
    resetSince := true }
  let s := (s.setFld .rstIslands [] n 1 0).setFld .rstIslands [] (16 + n) 1 0
  let s := s.setFld .rstScopedCount [] 0 16 (s.fld .rstScopedCount [] 0 16 + 1)
  s.log { errorRec (16 + n) with arg0 := n64 n, arg1 := n64 source }

/-- A core is declared hung. -/
def State.coreHung (s : State) (n : Nat) : State :=
  let ctx := ((s.onCore n).map s.cmdCtx).getD 0
  let s := s.flagLog .coreErr [n] 0 { errorRec (16 + n) with arg0 := n64 n, arg1 := n64 ctx }
  s.holdCore n .hung 0

/-- The 4 microsecond check of one core: four checks without progress are 16 microseconds. -/
def State.watchCore (s : State) (n : Nat) (progress : Bool) : State :=
  let c := s.sched.core n
  let busy := c.st == .dispatched || c.st == .running || c.st == .committing || c.st == .killing
  if !busy || progress then s.updCore n fun c => { c with stalled := 0 }
  else if 4 ≤ c.stalled + 1 then s.coreHung n
  else s.updCore n fun c => { c with stalled := c.stalled + 1 }

/-- The clock of a core under the power mode and its throttling (R21, R499), in MHz. -/
def State.modeMhz (s : State) : Nat :=
  match s.img.power with
  | .full => 1100
  | .balanced => 800
  | .sealed => 500

/-- The pinned sets of a core are in its pool again: the core returns to service. -/
def State.reloaded (s : State) (n : Nat) : State :=
  if (s.sched.core n).reloading then
    s.updCore n fun c => { c with st := .idle, reloading := false, mhz := min s.modeMhz c.targetMhz }
  else s

/-- OFFLINE of a core: a live stage, of the deep or the shoal model, left with no core is reported (R236). -/
def State.setOffline (s : State) (seat n : Nat) (on : Bool) : State :=
  let s := s.setFld .coreCtrl [n] 0 1 (b2n on)
  let stuck : Bool := match s.img.running with
    | none => false
    | some i => (List.range i.stageCount).any fun k =>
        Stage.model (i.stage k) < 2 && ((List.range 4).all fun m =>
          !bit (Stage.coreMask (i.stage k)) m || s.offline m)
  if on && stuck then s.log { warning 11 with initiator := seat, arg0 := n64 n } else s

/-- A write of SLICE_US. -/
def State.writeSlice (s : State) (who v : Nat) : State :=
  let v := v % 2 ^ 17
  if v < 100 ∨ 100000 < v then
    s.log { notice 11 with initiator := who, arg0 := n64 (RN.off .schedSlice []), arg1 := n64 v }
  else s.setFld .schedSlice [] 0 17 v

/-! ### The commands -/

/-- CTX_CREATE (R216). -/
def execCtxCreate (h : Hdr) (pin : Byte) (s : State) : Res :=
  .next (s.takeNow (.ctxCreate h pin) fun c s => s.runCtxCreate c pin)

/-- CTX_DESTROY (R216). -/
def execCtxDestroy (h : Hdr) (context : BitVec 16) (s : State) : Res :=
  .next (s.takeNow (.ctxDestroy h context) fun c s => s.runCtxDestroy c context)

/-- JOB_CANCEL (R236). -/
def execJobCancel (h : Hdr) (context : BitVec 16) (jobTag : Word) (s : State) : Res :=
  .next (s.takeNow (.jobCancel h context jobTag) fun c s => s.runJobCancel c context jobTag)

/-- STAGE_SPACE_RESERVED (R142, R215). -/
def execStageSpaceReserved (command : Nat) (s : State) : Res := .next (s.reserveSpace command)

/-- COMMAND_DISPATCH (R222, R229, R230). -/
def execCommandDispatch (s : State) : Res := .next s.readWeights.faultLost.dispatch

/-- KILL_ACK (R221). -/
def execKillAck (core : Fin 4) (s : State) : Res := .next (s.killAck core)

/-- DISPATCH_COMPLETE (R218). -/
def execDispatchComplete (core : Fin 4) (s : State) : Res := .next (s.dispatched core)

/-- CONTEXT_SWAP (R231), with the read of the state of a context that is not resident (R217, R443). -/
def execContextSwap (context : Fin 1024) (s : State) : Res := .next (s.readContext context)

/-- COMMIT_PHASE (R220). -/
def execCommitPhase (core : Fin 4) (long : Bool) (s : State) : Res := .next (s.commitPhase core long)

/-- TURN_END (R226). -/
def execTurnEnd (s : State) : Res := .next s.turnEnd

/-- STARVATION (R231). -/
def execStarvation (s : State) : Res := .next s.starvation

/-- CORE_WATCHDOG (R517). -/
def execCoreWatchdog (progress : List Bool) (s : State) : Res :=
  .next ((List.range 4).foldl (fun s n => s.watchCore n (progress.getD n false)) s)

/-- CORE_SET_RELOADED (R492). -/
def execCoreSetReloaded (core : Fin 4) (s : State) : Res :=
  .next ((s.readPinned core).faultLost.reloaded core)

/-- SLICE_US (R236, R239): outside 100 to 100,000 it is ignored. -/
def execSliceUs (seat : Fin 4) (value : Word) (s : State) : Res := .next (s.writeSlice seat value.toNat)

/-- OFFLINE (R236, R245). -/
def execOffline (seat : Fin 4) (core : Fin 4) (on : Bool) (s : State) : Res := .next (s.setOffline seat core on)

/-- DEADLINE_TEST (R264). -/
def execDeadlineTest (s : State) : Res := .next s.deadlineTick

/-- CUTOFF_PASSED (R265). -/
def execCutoffPassed (slot : Nat) (s : State) : Res := .next (s.cutoffEvent slot)

/-- PART_WINDOW_END (R252). -/
def execPartWindowEnd (slot view : Nat) (s : State) : Res := .next (s.windowEnd slot view)

/-- SHADOW_LIMIT (14_fine_tuning_and_shadow.md R360). -/
def execShadowLimit (slot : Nat) (s : State) : Res := .next (s.shadowLimit slot)

end Sys2Proof.Machine
end

