-- ==== Sys2Proof/Machine/Capture.lean ====
section
/-! DEFINITION. Capture libraries, decode streams and the sample cache
(13_capture_and_decode.md R325 to R345). -/

namespace Sys2Proof.Machine

namespace Code
abbrev decodeUnsupported : Nat := 0x43
abbrev decodeLimit : Nat := 0x44
abbrev captureSize : Nat := 0x45
abbrev libraryFull : Nat := 0x46
abbrev libraryDetached : Nat := 0x47
abbrev sampleGone : Nat := 0x48
end Code

/-! ### Libraries (R325, R326) -/

namespace Lib
def inHost (r : Bytes) : Bool := byteAt r 4 == 1
def slots (r : Bytes) : Nat := 2 ^ byteAt r 6
def quality (r : Bytes) : Nat := byteAt r 7
def maxSample (r : Bytes) : Nat := leAt r 0x10 4
def stopsFull (r : Bytes) : Bool := byteAt r 0x14 == 1
def shift16 (r : Bytes) : Nat := byteAt r 0x15
end Lib

namespace LEntry
def index (e : Bytes) : Nat := leAt e 0 8
def offset (e : Bytes) : Nat := leAt e 0x10 8
def length (e : Bytes) : Nat := leAt e 0x18 4
def stream (e : Bytes) : Nat := byteAt e 0x2A
def verdict (e : Bytes) : Nat := byteAt e 0x2D
def source (e : Bytes) : Nat := byteAt e 0x2E
def label (e : Bytes) : Nat := byteAt e 0x2F
def valid (e : Bytes) : Bool := bit (byteAt e 0x36) 0
def labelled (e : Bytes) : Bool := bit (byteAt e 0x36) 3
end LEntry

/-- A library. -/
def State.lib (s : State) (k : Nat) : Option Library := Tab.get s.cap.libs k

/-- Changes a library. -/
def State.updLib (s : State) (k : Nat) (f : Library → Library) : State :=
  { s with cap := { s.cap with libs := Tab.upd s.cap.libs k f } }

/-- A library's buffer is there. -/
def Library.attached (l : Library) : Bool := !Lib.inHost l.cfg || l.host.isSome

/-- The device may access a library's buffer now: while Bus Master Enable is 0, an access to a host library is answered
as if it were detached (16_host_interface.md R410). -/
def State.libReach (s : State) (l : Library) : Bool := l.attached && (l.host.all fun h => s.busMaster h.1)

/-- The address of the index entry of a sample. -/
def Library.entryAddr (l : Library) (k : Nat) : Nat := l.indexBase + k % Lib.slots l.cfg * 64

/-- The index entry of a sample as it is read: one in an uncorrectable granule loses VALID (R443). -/
def State.libEntry (s : State) (l : Library) (k : Nat) : State × Bytes :=
  let a := l.entryAddr k
  let s := match s.badIn a 64 with
    | some g => (s.reportUe g 0x40).poke (a + 0x36) [0]
    | none => s
  (s, s.load a 64)

/-- Writes bytes into a library's data ring, from an offset on. -/
def State.ringWrite (s : State) (l : Library) (off : Nat) (data : Bytes) : State :=
  let size := max 1 l.size
  let o := off % size
  let head := data.take (size - o)
  let tail := data.drop (size - o)
  match l.host with
  | some (seat, a, _) => (s.hostStore seat (a + o) head).hostStore seat a tail
  | none => (s.store (l.dataBase + o) head).store l.dataBase tail

/-- The bytes of a sample in the ring: they end at an uncorrectable granule (R443). -/
def State.ringRead (s : State) (l : Library) (off n : Nat) : State × Bytes :=
  let size := max 1 l.size
  let o := off % size
  let n1 := min n (size - o)
  match l.host with
  | some (seat, a, _) => (s, s.hostLoad seat (a + o) n1 ++ s.hostLoad seat a (n - n1))
  | none =>
      let one (s : State) (a n : Nat) : State × Bytes × Bool :=
        match s.badIn a n with
        | some g => (s.reportUe g 0x40, s.load a (g - a), true)
        | none => (s, s.load a n, false)
      let (s, d1, cut) := one s (l.dataBase + o) n1
      if cut then (s, d1) else
      let (s, d2, _) := one s l.dataBase (n - n1)
      (s, d1 ++ d2)

/-- The bytes of the ring in use, from the oldest sample's start. -/
def State.libUsed (s : State) (l : Library) : Nat :=
  if l.oldest = l.next then 0 else
  let size := max 1 l.size
  let used := (l.wr + size - LEntry.offset (s.load (l.entryAddr l.oldest) 64) % size) % size
  if used = 0 then size else used

/-- The oldest sample that is still VALID. -/
def State.oldestValid (s : State) (l : Library) : Nat → Nat → Nat
  | 0, k => k
  | n + 1, k =>
      if l.next ≤ k then l.next
      else if LEntry.valid (s.load (l.entryAddr k) 64) then k
      else s.oldestValid l n (k + 1)

/-- Keeps what LIB_OLDEST and LIB_FREE show. -/
def State.libSettle (s : State) (k : Nat) : State :=
  match s.lib k with
  | none => s
  | some l =>
      let l := { l with oldest := s.oldestValid l (l.next - l.oldest) l.oldest }
      s.updLib k fun _ => { l with used := s.libUsed l }

/-- The oldest sample is made invalid. -/
def State.dropOldest (s : State) (k : Nat) : State :=
  match s.lib k with
  | none => s
  | some l =>
      if l.oldest = l.next then s else
      let a := l.entryAddr l.oldest
      let s := s.poke (a + 0x36) [BitVec.ofNat 8 (byteAt (s.load a 64) 0x36 / 2 * 2)]
      (s.updLib k fun l => { l with oldest := l.oldest + 1 }).libSettle k

/-- The next sample of a length fits: the ring has room and its index slot is not VALID. -/
def State.libFits (s : State) (k n : Nat) : Bool :=
  match s.lib k with
  | none => false
  | some l => decide (l.used + n ≤ l.size) && !LEntry.valid (s.load (l.entryAddr l.next) 64)

/-- The oldest samples go until the next one fits. -/
def State.makeFit (s : State) (k n : Nat) : Nat → State
  | 0 => s
  | f + 1 => if s.libFits k n then s else (s.dropOldest k).makeFit k n f

/-! ### Capture (R327 to R329) -/

/-- The pixels of a crop, component planes of lines, and whether a line was unusable. -/
def State.cropPlanes (s : State) (c : Crop) (shift : Nat) : State × List (List (List Nat)) × Bool × Bool :=
  let s := (List.range c.lines).foldl (fun s i => s.touchLine c.stream (c.line0 + i)) s
  match s.stream c.stream with
  | none => (s, [], false, true)
  | some x =>
      let twelve := corrElem x.cfg x.lp == 2
      let n := Strm.comps x.cfg
      let rows := (List.range c.lines).map fun i => match x.line (c.line0 + i) with
        | some l => if l.cause = 0 then some (s.linePixels x l c.col0 c.cols) else none
        | none => none
      let val (v : Nat) : Nat := if twelve then min (v / 2 ^ shift) 4095 else v
      let planes := (List.range n).map fun k => rows.map fun r => match r with
        | some px => px.map fun p => val (p.getD k 0)
        | none => List.replicate c.cols 0
      (s, planes, twelve, rows.any Option.isNone)

/-- The index entry of a new sample (R326). -/
def sampleEntry (c : Crop) (p : Part) (k off len comps : Nat) (twelve damaged : Bool) : Bytes :=
  natLe 8 k ++ natLe 8 p.id.toNat ++ natLe 8 off ++ natLe 4 len ++ natLe 2 c.cols ++ natLe 2 c.lines ++
  natLe 8 c.line0 ++ natLe 2 c.col0 ++ natLe 1 c.stream ++ natLe 1 c.view ++ natLe 1 c.rule ++
  natLe 1 p.verdict ++ natLe 1 p.source ++ natLe 1 0xFF ++ natLe 4 p.imageGen.toNat ++
  natLe 1 p.overlayGen ++ natLe 1 (comps - 1 + 4 * b2n twelve) ++
  natLe 1 (1 + 2 * b2n damaged + 4 * b2n c.edge) ++ natLe 1 p.candClass ++ natLe 8 k

/-- A crop is abandoned with a capture flag. -/
def State.abandonWith (s : State) (id flag : Nat) : State := (s.setFlag .capFlags [] flag).abandonCrop id

/-- A coded crop goes into its library. -/
def State.putSample (s : State) (c : Crop) (p : Part) (k : Nat) (data : Bytes) (comps : Nat)
    (twelve damaged : Bool) : State :=
  match s.lib k with
  | none => s.abandonCrop c.id
  | some l =>
      let s := s.ringWrite l l.wr data
      let s := s.store (l.entryAddr l.next) (sampleEntry c p l.next l.wr data.length comps twelve damaged)
      let s := s.updLib k fun l => { l with next := l.next + 1, wr := (l.wr + data.length) % max 1 l.size }
      let s := (s.libSettle k).count .capCount []
      let s := s.updPart c.slot fun p => { p with captured := true }
      s.dropCrop c.id

/-- The encoder takes the crop at the head of its queue and codes it, or abandons it (R329). -/
def State.encodeCrop (s : State) : State :=
  match s.cap.waiting with
  | [] => s
  | c :: _ =>
      match s.lib c.library, s.part c.slot with
      | some l, some p =>
          if !s.libReach l then s.abandonWith c.id 3 else
          let (s, planes, twelve, damaged) := s.cropPlanes c (Lib.shift16 l.cfg)
          let data := jpegEncode (Lib.quality l.cfg) twelve planes
          if Lib.maxSample l.cfg < data.length ∨ (!Lib.stopsFull l.cfg ∧ l.size < data.length) then
            s.abandonWith c.id 1 else
          let s := s.libSettle c.library
          let s := if Lib.stopsFull l.cfg then s
            else s.makeFit c.library data.length (l.next - l.oldest + 1)
          if s.libFits c.library data.length then
            s.putSample c p c.library data planes.length twelve damaged
          else s.abandonWith c.id 2
      | _, _ => s.abandonCrop c.id

/-! ### Attaching (R326) -/

/-- A library loses its host buffer. -/
def State.detachLib (s : State) (k : Nat) : State := s.updLib k fun l => { l with host := none }

/-- The libraries attached through a seat are detached as its connection is lost. -/
def State.detachSeat (s : State) (seat : Nat) : State :=
  (s.cap.libs.filter fun l => (l.2.host.map fun h => h.1) == some seat).foldl (fun s l =>
    (s.detachLib l.1).log { warning adaptSource with
      status := Code.libraryDetached, initiator := seat, arg0 := n64 l.1 }) s

/-- LIBRARY_ATTACH: a size that is not a multiple of 64 KiB, or below 1 MiB, gives LENGTH_RANGE; an
attach by a seat that is not the library's HOST_SEAT gives BAD_INDEX. -/
def State.runLibraryAttach (s : State) (c : CmdRef) (library : Byte) (hostAddr bytes : BitVec 64) : State :=
  let k := library.toNat
  let host : Bool := match s.lib k with
    | some l => Lib.inHost l.cfg && byteAt l.cfg 5 == c.seat
    | none => false
  let n := bytes.toNat
  s.checked c
    [(allOnes64 bytes, Code.fieldReserved),
     (!host || decide (2 ≤ c.seat), Code.badIndex),
     (n != 0 && (n % 65536 != 0 || decide (n < 1048576)), Code.lengthRange)]
    fun s =>
      if n = 0 then (s.detachLib k).complete c Code.ok
      else
        let s := s.updLib k fun l => { l with host := some (c.seat, hostAddr.toNat, n) }
        ((s.libSettle k).log { info adaptSource with initiator := c.seat, arg0 := n64 k }).complete c Code.ok

/-! ### Decode streams (R330, R334 to R336) -/

/-- The decode limits (R337): MAX_WIDTH, MAX_HEIGHT, BUDGET_FACTOR, BUDGET_FLOOR, INITIAL_MCU_CYCLES. -/
def State.decLimits (s : State) : Nat × Nat × Nat × Nat × Nat :=
  let r := (s.imgRecord 15 2 0).getD []
  let f (v d : Nat) : Nat := if v = 0 then d else v
  (f (leAt r 4 2) 16384, f (leAt r 6 2) 16384, f (byteAt r 8) 16, f (leAt r 0xC 4) 65536, f (leAt r 0x10 4) 256)

/-- A decode stream. -/
def State.decStream (s : State) (n : Nat) : DecStream := Tab.getD s.cap.streams n {}

/-- Puts a decode stream. -/
def State.setDec (s : State) (n : Nat) (d : DecStream) : State :=
  { s with cap := { s.cap with streams := Tab.put s.cap.streams n d } }

/-- Whether a request's sample can be decoded at all: the code it has otherwise, and the entry copied. -/
def State.lookUp (s : State) (library sample : Nat) : State × Option Nat × Bytes :=
  match s.lib library with
  | none => (s, some Code.sampleGone, [])
  | some l =>
      if !s.libReach l then (s, some Code.libraryDetached, []) else
      let (s, e) := s.libEntry l sample
      if LEntry.valid e && LEntry.index e == sample && leAt e 0x38 8 == sample then (s, none, e)
      else (s, some Code.sampleGone, [])

/-- A request joins a decode stream at an index of its order. -/
def State.request (s : State) (n library sample position : Nat) (by' : Option CmdRef)
    (outAddr outBytes : Nat) (det : Bool) : State :=
  let (s, early, e) := s.lookUp library sample
  let r : DecReq :=
    { library := library, sample := sample, by' := by', outAddr := outAddr, outBytes := outBytes
      position := position, engine := 0, start := 0, stop := 0, cycles := 0, mcus := 0, early := early
      outcome := none, lostMcu := 0, lostByte := 0, lostCount := 0, planes := [], bits12 := false
      entry := e, delivered := false, event := 0, det := det, mayCache := true }
  let d := s.decStream n
  s.setDec n { d with reqs := d.reqs ++ [r] }

/-- The engine with the lowest stamp, the lower number winning a tie. -/
def lowestStamp (st : List Nat) : Nat × Nat :=
  st.zipIdx.foldl (fun m (v, i) => if v < m.1 then (v, i) else m) (st.headD 0, 0)

/-- The mean decode cycles per MCU behind a request that starts at a stamp. -/
def DecStream.mean (d : DecStream) (start initial : Nat) : Rat :=
  let done := (d.hist.filter fun h => decide (h.1 < start) && decide (0 < h.2.2)).mergeSort
    fun a b => decide (a.1 ≤ b.1)
  let last := done.drop (done.length - 256)
  if last.isEmpty then (initial : Rat)
  else (last.map fun h => ((h.2.1 : Nat) : Rat) / ((h.2.2 : Nat) : Rat)).foldl (· + ·) 0 / (last.length : Rat)

/-- The budget of a request (R335). -/
def State.budgetOf (s : State) (d : DecStream) (start mcus : Nat) : Nat :=
  let (_, _, factor, floor, initial) := s.decLimits
  max floor ((((factor * mcus : Nat) : Rat) * d.mean start initial).floor.toNat)

/-- The outcome flag of DEC_FLAGS. -/
def decFlag (code : Nat) : Option Nat :=
  match code with
  | 0x40 => some 0
  | 0x41 => some 1
  | 0x42 => some 2
  | 0x44 => some 3
  | 0x43 => some 4
  | 0x48 => some 5
  | _ => none

/-- What a sample's bytes decode to: outcome, lost MCU, byte and count, MCUs, planes, precision. -/
structure Outcome' where
  code : Nat
  lostMcu : Nat := 0
  lostByte : Nat := 0
  lostCount : Nat := 0
  mcus : Nat := 0
  planes : List (List (List Nat)) := []
  bits12 : Bool := false

/-- Decodes the bytes of a sample. -/
def decodeBytes (data : Bytes) (maxW maxH : Nat) : Outcome' :=
  let j := readJpeg data
  match j.refused maxW maxH with
  | some code => { code := code }
  | none =>
      let d := j.decode
      let (mx, my, _, _) := j.mcus
      let twelve := ((j.sof.map fun f => f.1)).getD false
      { code := if d.lost.isEmpty then Code.ok else Code.decodeDamaged
        lostMcu := d.lost.foldl min (d.lost.headD 0), lostByte := d.errAt.getD 0, lostCount := d.lost.length
        mcus := mx * my, planes := j.planes d, bits12 := twelve }

/-- A request takes its engine, its stamps and its outcome. -/
def State.settleReq (s : State) (n : Nat) (r : DecReq) (o : Outcome') (cycles : Nat) : State :=
  let d := s.decStream n
  let (start, e) := lowestStamp d.stamps
  let r := { r with
    engine := e, start := start, stop := start + cycles, cycles := cycles, mcus := o.mcus
    outcome := some o.code, lostMcu := o.lostMcu, lostByte := o.lostByte, lostCount := o.lostCount
    planes := o.planes, bits12 := o.bits12 }
  let counted := o.code == Code.ok || o.code == Code.decodeDamaged
  let s := s.setDec n { d with
    stamps := d.stamps.set e r.stop
    reqs := d.reqs.map fun x => if x.position = r.position then r else x
    hist := if counted then d.hist ++ [(r.stop, r.cycles, r.mcus)] else d.hist }
  match decFlag o.code with
  | some b => s.setFlag .decFlags [] b
  | none => s

/-- The first request of a stream that has no outcome. -/
def DecStream.waiting (d : DecStream) : Option DecReq := d.reqs.find? fun r => r.outcome.isNone

/-- Requests at the head that ended without their engine advancing take their outcomes. -/
def State.settleEarly (s : State) (n : Nat) : Nat → State
  | 0 => s
  | f + 1 => match (s.decStream n).waiting with
      | some r => match r.early with
          | some code => (s.settleReq n r { code := code } 0).settleEarly n f
          | none => s
      | none => s

/-- Settles the early ends of a stream. -/
def State.settleDec (s : State) (n : Nat) : State := s.settleEarly n ((s.decStream n).reqs.length)

/-! ### The sample cache (R338) -/

/-- Bytes of a cached sample. -/
def CacheEntry.bytes (e : CacheEntry) : Nat :=
  (e.planes.foldl (fun t p => t + p.foldl (fun t r => t + r.length) 0) 0) * (if e.bits12 then 2 else 1)

/-- Training state in the sample cache region (R355). -/
def Image.trainBytes (i : Image) : Nat :=
  let ws := (List.range (i.cnt 8)).map i.weight |>.filter Wt.trainable
  let t := sum (ws.map Wt.elements)
  let cand := (i.kindOf 15 4).map fun p => byteAt p 4
  sum ((i.kindOf 15 3).map fun r =>
    t * (if byteAt r 4 = 0 then 12 else 16) + byteAt r 8 * t * 4 +
    (if cand.contains (byteAt r 1) then 2 * sum (ws.map Wt.dataLength) else 0))

/-- What the sample cache has of its region: 8 GiB where the image has a training record, less the training state
(R355, 17_memory.md R441). -/
def State.cacheSize (s : State) : Nat :=
  match s.img.running with
  | none => 0
  | some i => if (i.kindOf 15 3).isEmpty then 0 else 0x200000000 - i.trainBytes

/-- Removes the least recently used samples until the rest fits. -/
def trimCache (size : Nat) : Nat → List CacheEntry → List CacheEntry
  | 0, l => l
  | n + 1, l => if (l.map CacheEntry.bytes).foldl (· + ·) 0 ≤ size then l else trimCache size n (l.drop 1)

/-- Two samples have one key: library, SAMPLE_INDEX and DATA_LENGTH. -/
def CacheEntry.sameKey (a b : CacheEntry) : Bool :=
  a.library == b.library && a.sample == b.sample && a.dataLength == b.dataLength

/-- Puts a sample into the cache, as the one used last. -/
def State.cacheSample (s : State) (e : CacheEntry) : State :=
  if s.cacheSize < e.bytes then s else
  let l := (s.cap.cache.filter fun x => !x.sameKey e) ++ [e]
  { s with cap := { s.cap with cache := trimCache s.cacheSize l.length l } }

/-- The cached copy of a request's sample. -/
def State.cacheHit (s : State) (r : DecReq) : Option CacheEntry :=
  s.cap.cache.find? fun e => e.library == r.library && e.sample == r.sample &&
    e.dataLength == LEntry.length r.entry

/-- The budget test of a request whose sample takes some cycles (R335, R338): a decode that reaches its budget is
abandoned there, and how far it had come is open; else it ends as `f` says. -/
def State.withinBudget (s : State) (n : Nat) (r : DecReq) (mcus cycles : Nat) (f : State → State) : State :=
  let d := s.decStream n
  let budget := s.budgetOf d (lowestStamp d.stamps).1 mcus
  if cycles < budget then f s else
  let (m, s) := s.draw (max 1 mcus)
  let (b, s) := s.draw (max 1 (LEntry.length r.entry))
  s.settleReq n r { code := Code.decodeTimeout, lostMcu := m, lostByte := b, mcus := mcus } budget

/-- The engine has finished a request: from the cache, or decoded; the entry is read again either way (R330, R338). -/
def State.finishReq (s : State) (n : Nat) (r : DecReq) : State :=
  match s.lib r.library with
  | none => s.settleReq n r { code := Code.sampleGone } 0
  | some l =>
      let bytes := LEntry.length r.entry
      let (maxW, maxH, _, _, _) := s.decLimits
      match s.cacheHit r with
      | some e =>
          ((s.cacheSample e).count .cacheHits []).withinBudget n r e.mcus e.cycles fun s =>
            let (s, now) := s.libEntry l r.sample
            if now ≠ r.entry then s.settleReq n r { code := Code.sampleGone } e.cycles else s.settleReq n r
              { code := e.outcome, lostMcu := e.lostMcu, lostByte := e.lostByte, lostCount := e.lostCount
                mcus := e.mcus, planes := e.planes, bits12 := e.bits12 } e.cycles
      | none =>
          if !s.libReach l then
            let (k, s) := s.draw (2 ^ 32)
            s.settleReq n r { code := Code.libraryDetached } k
          else
            let (s, data) := s.ringRead l (LEntry.offset r.entry) bytes
            let cycles := Config.decodeCycles data
            let o := decodeBytes data maxW maxH
            s.withinBudget n r o.mcus cycles fun s =>
            let (s, e) := s.libEntry l r.sample
            if e ≠ r.entry then s.settleReq n r { code := Code.sampleGone } cycles else
            let s := s.settleReq n r o cycles
            if r.mayCache && (o.code == Code.ok || o.code == Code.decodeDamaged) then
              s.cacheSample { library := r.library, sample := r.sample, dataLength := bytes, outcome := o.code
                              lostMcu := o.lostMcu, lostByte := o.lostByte, lostCount := o.lostCount
                              cycles := cycles, mcus := o.mcus, planes := o.planes, bits12 := o.bits12 }
            else s

/-- A decode engine finishes the first unfinished request of a stream. -/
def State.decodeDone (s : State) (n : Nat) : State :=
  let s := s.settleDec n
  match (s.decStream n).waiting with
  | some r => (s.finishReq n r).settleDec n
  | none => s

/-- DECODE_TIMEOUT's decode: the first unfinished request of a stream reaches its budget, if the cycles of its sample do:
they are a function of its bytes alone (R334, R335), so a request that stays below its budget goes on. -/
def State.decodeTimeout (s : State) (n : Nat) : State :=
  let s := s.settleDec n
  match (s.decStream n).waiting with
  | none => s
  | some r =>
      match s.cacheHit r, s.lib r.library with
      | some e, _ => (s.withinBudget n r e.mcus e.cycles id).settleDec n
      | none, none => s
      | none, some l =>
          let (maxW, maxH, _, _, _) := s.decLimits
          let (s, data) := s.ringRead l (LEntry.offset r.entry) (LEntry.length r.entry)
          let j := readJpeg data
          let mcus := if (j.refused maxW maxH).isSome then 0 else j.mcus.1 * j.mcus.2.1
          (s.withinBudget n r mcus (Config.decodeCycles data) id).settleDec n

/-! ### Delivery (R336) -/

/-- Outcomes that are skipped by index. -/
def skipped (code : Nat) : Bool := code != Code.ok && code != Code.decodeDamaged

/-- The request that is delivered next, if it is known: in request order, or in ascending end stamp
within a window of 8 behind the first that waits. -/
def DecStream.next (d : DecStream) : Option DecReq :=
  let open' := d.reqs.filter fun r => !r.delivered
  match open' with
  | [] => none
  | first :: _ =>
      if first.det then (if first.outcome.isSome then some first else none)
      else
        let near := open'.filter fun r => decide (r.position ≤ first.position + 8)
        let best := (near.filter fun r => r.outcome.isSome).foldl (fun m r => match m with
          | none => some r
          | some b => if r.stop < b.stop then some r else some b) none
        match best with
        | none => none
        | some b =>
            if (near.any fun r => r.outcome.isNone) && decide ((lowestStamp d.stamps).1 < b.stop) then none
            else some b

/-- The bytes of a sample's planes. -/
def planeBytes (r : DecReq) : Bytes :=
  r.planes.flatMap fun p => p.flatMap fun row => packRow (if r.bits12 then 2 else 1) row

/-- A request is delivered or skipped: flags and records of R336, and its delivery event. -/
def State.markDelivered (s : State) (n : Nat) (r : DecReq) (event : Nat) : State :=
  let d := s.decStream n
  let first := ((d.reqs.find? fun x => !x.delivered).map fun x => x.position).getD r.position
  let skip := skipped (r.outcome.getD 0)
  let s := s.setDec n { d with reqs := d.reqs.map fun x =>
    if x.position = r.position then { x with delivered := true, event := event, planes := [] } else x }
  let s := if first ≠ r.position && !skip then
      s.flagLog .decFlags [] 6 { info adaptSource with arg0 := n64 r.position, arg1 := n64 first } else s
  if skip then s.flagLog .decFlags [] 7 { info adaptSource with
      status := r.outcome.getD 0, arg0 := n64 r.position, arg1 := n64 r.sample }
  else s.count .decCount []

/-- A seat's sample: its planes are written and its command completes. -/
def State.deliverSeat (s : State) (n : Nat) (r : DecReq) : State :=
  let s := s.markDelivered n r 0
  let d := s.decStream n
  let s := s.setDec n { d with reqs := d.reqs.filter fun x => !x.delivered }
  let code := r.outcome.getD 0
  let data := planeBytes r
  let r0 := r.lostMcu + r.lostByte * 2 ^ 32
  if skipped code then s.answer r.by' code r0 r.lostCount
  else if r.outBytes < data.length then s.answer r.by' Code.lengthRange
  else (s.storeFor (initiatorOf r.by') r.outAddr data).answer r.by' code r0 r.lostCount

/-! ### The commands -/

/-- CROP_ENCODED (R329). -/
def execCropEncoded (s : State) : Res := .next s.encodeCrop.settleParts

/-- LIBRARY_ATTACH (R326). -/
def execLibraryAttach (h : Hdr) (library : Byte) (hostAddr bytes : BitVec 64) (s : State) : Res :=
  .next (s.takeNow (.libraryAttach h library hostAddr bytes) fun c s => s.runLibraryAttach c library hostAddr bytes)

/-- The next index of a seat's decode stream. -/
def DecStream.nextIndex (d : DecStream) : Nat := (d.reqs.map fun r => r.position + 1).foldl max 0

/-- SAMPLE_DECODE: a request on the seat's decode stream (R330). -/
def State.runSampleDecode (s : State) (c : CmdRef) (library : Byte) (sampleIndex outAddr : BitVec 64)
    (outBytes : Word) : State :=
  s.checked c
    [(addrReserved outAddr || outBytes.toNat == 2 ^ 32 - 1, Code.fieldReserved),
     ((s.lib library.toNat).isNone, Code.badIndex),
     (!bufferIn outAddr outBytes.toNat, Code.addressUnmapped)]
    fun s =>
      let n := 32 + c.seat
      (s.request n library.toNat sampleIndex.toNat (s.decStream n).nextIndex (some c) outAddr.toNat
        outBytes.toNat s.img.detMode).settleDec n

/-- SAMPLE_DECODE (R330). -/
def execSampleDecode (h : Hdr) (library : Byte) (sampleIndex outAddr : BitVec 64) (outBytes : Word)
    (s : State) : Res :=
  .next (s.takeNow (.sampleDecode h library sampleIndex outAddr outBytes) fun c s =>
    s.runSampleDecode c library sampleIndex outAddr outBytes)

/-- DECODE_COMPLETE (R334). -/
def execDecodeComplete (stream : Fin 36) (s : State) : Res := .next (s.decodeDone stream)

/-- DECODE_TIMEOUT (R335). -/
def execDecodeTimeout (stream : Fin 36) (s : State) : Res := .next (s.decodeTimeout stream)

/-- The cache is emptied; decodes that run are not cached. -/
def State.flushCache (s : State) : State :=
  let mark (d : DecStream) : DecStream :=
    let run := ((d.reqs.filter fun r => r.outcome.isNone).take 4).map fun r => r.position
    { d with reqs := d.reqs.map fun r => if run.contains r.position then { r with mayCache := false } else r }
  { s with cap := { s.cap with cache := [], streams := s.cap.streams.map fun e => (e.1, mark e.2) } }

/-- FLUSH (R338, R344). -/
def execFlush (_seat : Fin 4) (s : State) : Res := .next s.flushCache

end Sys2Proof.Machine
end

