-- ==== Sys2Proof/Machine/Eval.lean ====
section
/-! DEFINITION. Running operators over whole tensors: tails, and samples that are not cut into stripes
(07_window_operators.md R175, 08_history_and_sequence_ops.md R196, 10_ledger_and_deadlines.md R258). -/

namespace Sys2Proof.Machine

/-- Adds a computed tensor. -/
def Env.put (v : Env) (t : Nat) (x : Fixed) : Env := { v with fixed := Tab.put v.fixed t x }

/-- The positions of a tensor whose extents are known, row by row. -/
def Env.positions (v : Env) (t : Nat) : List (Nat × Nat) :=
  let (h, w, _) := v.dims t
  (List.range (h.getD 0)).flatMap fun y => (List.range w).map fun x => (y, x)

/-- Every position of an operator's output, with the status it sets: an output of size zero sets
ZERO_SIZE (R179). -/
def Env.whole (v : Env) (e : Bytes) : Fixed × Nat :=
  let t := Op.out e
  let (h, w, c) := v.dims t
  let r := (v.positions t).map fun (y, x) => v.pos t y x
  ({ rows := h.getD 0, cols := w, chans := c, data := r.map Prod.fst },
    r.foldl (fun a p => a ||| p.2) (if r.isEmpty then Arith.zeroSize else 0))

/-- Runs operators in ascending index; `special` answers for those whose result depends on more than
the environment. -/
def Env.runOps (v : Env) (special : Env → Bytes → Option (Fixed × Nat)) (ops : List Nat) : Env × Nat :=
  ops.foldl (fun (v, st) k =>
    let e := v.img.op k
    let (x, st') := (special v e).getD (v.whole e)
    (v.put (Op.out e) x, st ||| st')) (v, 0)

/-- A single position of channels. -/
def onePos (codes : List Nat) : Fixed := { rows := 1, cols := 1, chans := codes.length, data := [codes] }

/-- A GLOBAL_POOL over all positions of a tensor that is not cut into stripes. -/
def Env.poolWhole (v : Env) (e : Bytes) : Fixed × Nat :=
  let (p, st) := v.partialOf e (v.positions ((Op.input e 0).getD 0))
  let (c, st') := v.combine e [p]
  (onePos c, st ||| st')

/-- A HIST_ATTEND every selection of which is empty (R209). -/
def Env.attendEmpty (v : Env) (e : Bytes) (h : HistStore) : Fixed × Nat :=
  let t := (Op.input e 0).getD 0
  let (r, w, _) := v.dims t
  let rs := (v.positions t).map fun (y, x) => v.attend e h (v.pos t y x).1 []
  ({ rows := r.getD 0, cols := w, chans := Op.hwValueDim h.record, data := rs.map Prod.fst },
    rs.foldl (fun a p => a ||| p.2) (if rs.isEmpty then Arith.zeroSize else 0))

/-- The FP32 class score of an element of the last operator's OUT (R258). -/
def classScore (d : Desc) (code : Nat) : Word :=
  let v := decodeEl d.out code
  let v := if fmtFloat d.out then v else Val.ofRat (v.rat - d.outZero)
  n32 (roundFloat 0x14 true v).1

/-- The class scores of an environment whose last operator has run. -/
def Env.scores (v : Env) : List Word :=
  match v.ops.getLast? with
  | none => []
  | some k =>
      let e := v.img.op k
      ((Tab.getD v.fixed (Op.out e) ⟨0, 0, 0, []⟩).data.headD []).map (classScore (Op.desc e))

/-- The CRC-64 of a tail tensor (R312). -/
def Env.tailDigest (v : Env) (e : Bytes) : BitVec 64 :=
  n64 (((Tab.getD v.fixed (Op.out e) ⟨0, 0, 0, []⟩).data).foldl (fun c p => crc64 c (posBytes (Op.desc e).out p)) 0)

/-- The store that a HIST_ATTEND reads; one without entries where there is none. -/
def State.storeOf (s : State) (e : Bytes) : HistStore :=
  (s.histStore (Op.haStream e)).getD { record := [], base := 0, entryBytes := 64, keyFormat := 0x13, valueFormat := 0x13 }

/-- What operators give on a tensor that is not cut into stripes: history is neither written nor read
(R316, 14_fine_tuning_and_shadow.md R348). -/
def State.aloneOps (s : State) (v : Env) (e : Bytes) : Option (Fixed × Nat) :=
  match Op.opcode e with
  | 0x0105 => some (v.poolWhole e)
  | 0x0202 =>
      let t := (Op.input e 0).getD 0
      let rows := (v.positions t).map fun (y, x) => (v.pos t y x).1
      some ({ rows := 1, cols := rows.length, chans := Op.hwKeyDim e, data := rows },
        if rows.isEmpty then Arith.zeroSize else 0)
  | 0x0203 => some (v.attendEmpty e (s.storeOf e))
  | _ => none

end Sys2Proof.Machine
end

