-- ==== Sys2Proof/Machine/TrainMath.lean ====
section
/-! DEFINITION. The training computation (14_fine_tuning_and_shadow.md R347 to R353): the training
view forwards and backwards, the loss, augmentation and its draws, and the optimiser. -/

namespace Sys2Proof.Machine

/-! ### Draws (R350, R351) -/

/-- mix64 of R350. -/
def mix64 (x : BitVec 64) : BitVec 64 :=
  let x := x ^^^ (x >>> 30)
  let x := x * 0xBF58476D1CE4E5B9#64
  let x := x ^^^ (x >>> 27)
  let x := x * 0x94D049BB133111EB#64
  x ^^^ (x >>> 31)

/-- The half width of the shuffle of n elements. -/
def shuffleHalf (n : Nat) : Nat := ((List.range 32).map (· + 1)).find? (fun h => decide (n ≤ 2 ^ (2 * h))) |>.getD 32

/-- One pass of the shuffle's four rounds. -/
def shufflePass (h : Nat) (seed e : BitVec 64) (x : Nat) : Nat :=
  let mask := 2 ^ h - 1
  let step (a : Nat × Nat) (r : Nat) : Nat × Nat :=
    let f := (mix64 (seed ^^^ mix64 ((e <<< 8) ||| n64 r) ^^^ n64 a.2)).toNat % (mask + 1)
    (a.2, a.1 ^^^ f)
  let (l, r) := (List.range 4).foldl step (x / 2 ^ h, x % 2 ^ h)
  l * 2 ^ h + r

/-- Cycle walking until the value lies below n. -/
def shuffleWalk (h n : Nat) (seed e : BitVec 64) : Nat → Nat → Nat
  | 0, x => x
  | f + 1, x =>
      let y := shufflePass h seed e x
      if y < n then y else shuffleWalk h n seed e f y

/-- shuffle(p, n, seed, e) of R350. A walk returns below n within the 2^2h values of its cycle. -/
def shuffle (p n : Nat) (seed e : BitVec 64) : Nat :=
  let h := shuffleHalf n
  shuffleWalk h n seed e (2 ^ (2 * h)) p

/-- Draw d of a sample (R351). -/
def trainDraw (seed : BitVec 64) (epoch library sample d : Nat) : BitVec 64 :=
  let key := n64 (library * 2 ^ 56) ||| n64 sample
  mix64 (seed ^^^ mix64 (n64 (epoch * 2 ^ 32) ^^^ mix64 (key ^^^ mix64 (n64 d))))

/-! ### FP32 helpers -/

/-- An FP32 word as a value. -/
def fp (w : Word) : Val := decodeEl 0x14 w.toNat

/-- A value as an FP32 word; beyond the range it is an infinity. -/
def fpWord (v : Val) : Word := n32 (roundFloat 0x14 true v).1

/-- A fused multiply-add, rounded once (R160). -/
def fma (a b c : Val) : Val := op32 ((a.mul b).add c)

/-- A value rounded to BF16; beyond the range it is an infinity (DEDUCED, notes/assumptions/41.md). -/
def bf16 (v : Val) : Val := decodeEl 0x13 (roundFloat 0x13 true v).1

/-! ### Augmentation (R348, R351) -/

namespace Trn
def optimiser (r : Bytes) : Nat := byteAt r 4
def labelSource (r : Bytes) : Nat := byteAt r 5
def autoStart (r : Bytes) : Bool := bit (byteAt r 6) 0
def useDamaged (r : Bytes) : Bool := bit (byteAt r 6) 1
def flipX (r : Bytes) : Bool := bit (byteAt r 6) 2
def flipY (r : Bytes) : Bool := bit (byteAt r 6) 3
def libraryMask (r : Bytes) : Nat := byteAt r 7
def unitsInFlight (r : Bytes) : Nat := byteAt r 8
def stageFirst (r : Bytes) : Nat := leAt r 0xA 2
def batch (r : Bytes) : Nat := max 1 (leAt r 0xE 2)
def epochs (r : Bytes) : Nat := leAt r 0x10 4
def lr (r : Bytes) : Val := decodeEl 0x14 (leAt r 0x14 4)
def beta1 (r : Bytes) : Val := decodeEl 0x14 (leAt r 0x18 4)
def beta2 (r : Bytes) : Val := decodeEl 0x14 (leAt r 0x1C 4)
def epsilon (r : Bytes) : Val := decodeEl 0x14 (leAt r 0x20 4)
def decay (r : Bytes) : Val := decodeEl 0x14 (leAt r 0x24 4)
def warmup (r : Bytes) : Nat := leAt r 0x28 4
def width (r : Bytes) : Nat := leAt r 0x2C 2
def height (r : Bytes) : Nat := leAt r 0x2E 2
def gain (r : Bytes) : Val := decodeEl 0x14 (leAt r 0x30 4)
def offset (r : Bytes) : Val := decodeEl 0x14 (leAt r 0x34 4)
def seed (r : Bytes) : BitVec 64 := n64 (leAt r 0x38 8)
end Trn

/-- A draw as a number in [-1, 1): 2u - 1 with u of 24 bits. -/
def signedDraw (d : BitVec 64) : Rat := 2 * (((d.toNat / 2 ^ 40 : Nat) : Rat) / 16777216) - 1

/-- The planes of a sample after SHIFT16 and augmentation. -/
def augment (r : Bytes) (epoch library sample shift : Nat) (wide : Bool) (planes : List (List (List Nat))) :
    List (List (List Nat)) :=
  let draw := trainDraw (Trn.seed r) epoch library sample
  let h := (planes.headD []).length
  let w := ((planes.headD []).headD []).length
  let cut (want have' d : Nat) : Nat × Nat :=
    if 0 < want ∧ want < have' then ((draw d).toNat % (have' - want + 1), want) else (0, have')
  let (x0, nw) := cut (Trn.width r) w 2
  let (y0, nh) := cut (Trn.height r) h 3
  let g := round32 (Val.ofRat (1 + (Trn.gain r).rat * signedDraw (draw 4)))
  let o := round32 (Val.ofRat ((Trn.offset r).rat * signedDraw (draw 5)))
  let top : Int := if wide then 65535 else 255
  let el (v : Nat) : Nat :=
    let v := if wide then v * 2 ^ shift else v
    (max 0 (min top (rneInt ((v : Rat) * g.rat + o.rat)))).toNat
  planes.map fun p =>
    let rows := ((p.drop y0).take nh).map fun row =>
      let row := ((row.drop x0).take nw).map el
      if Trn.flipX r && (draw 0).toNat % 2 == 1 then row.reverse else row
    if Trn.flipY r && (draw 1).toNat % 2 == 1 then rows.reverse else rows

/-! ### The training view (R348) -/

/-- What the view runs on: the environment with every tensor computed so far, the tensors that belong
to the view (their codes are BF16), and the master of a trainable weight's element. -/
structure TView where
  env : Env
  view : List Nat
  master : Nat → Nat → Option Val

/-- One term of an output element: the input element it reads (none: a constant), its value, the
factor it enters with, and the weight element that factor is. -/
structure Term where
  src : Option (Nat × Nat × Nat × Nat)
  a : Val
  w : Val
  wi : Option Nat

/-- An output element before it is scaled and rounded: its accumulator, the factor that follows, and
the terms its gradient goes back to. -/
structure ViewEl where
  acc : Val
  factor : Val
  terms : List Term

/-- The real value of an input element, rounded to BF16. -/
def TView.input (t : TView) (fmt : Nat) (zero : Int) (id y x c : Nat) : Val :=
  let code := (t.env.elem id y x c).1
  if t.view.contains id then decodeEl 0x13 code else bf16 (activation fmt zero code)

/-- A weight element of the view: the master, or the weight's value, rounded to BF16. -/
def TView.weight (t : TView) (e : Bytes) (k : Nat) : Val :=
  match Op.weight e with
  | none => .fin false 0
  | some id => bf16 ((t.master id k).getD (t.env.weightOf e k))

/-- The terms of a window's output element in reduction order (R177, R181). -/
def TView.windowTerms (t : TView) (e : Bytes) (y x c : Nat) : List Term :=
  let d := Op.desc e
  let src := (Op.input e 0).getD 0
  let (eh, ew, _) := t.env.dims src
  let conv := Op.opcode e ≤ 0x0102
  let gin := Op.inChannels e / Op.groups e
  let gout := max 1 (Op.outChannels e / Op.groups e)
  let first := if conv then c / gout * gin else c
  let many := if conv then gin else 1
  let n := Op.kh e * Op.kw e * gin
  let pad : Val := bf16 (if fmtInt d.in0 then Val.ofInt (toSigned 16 (Op.padValue e) - d.inZero)
    else decodeEl 0x13 (Op.padValue e))
  ((List.range (Op.kh e)).flatMap fun u => (List.range (Op.kw e)).flatMap fun w =>
    let (by', _) := border (Op.padMode e) eh (Op.padTop e) (Op.padBottom e)
      ((y * Op.strideH e + Op.dilH e * u : Nat) - (Op.padTop e : Int))
    let (bx, _) := border (Op.padMode e) (some ew) (Op.padLeft e) (Op.padRight e)
      ((x * Op.strideW e + Op.dilW e * w : Nat) - (Op.padLeft e : Int))
    (List.range many).filterMap fun i =>
      let wi := t.env.weightIndex e c n ((u * Op.kw e + w) * gin + i)
      let f : Val := if conv then t.weight e wi else .fin false 1
      let wi := if conv then some wi else none
      match by', bx with
      | .omit, _ => none
      | _, .omit => none
      | .at' p, .at' q => some ⟨some (src, p, q, first + i), t.input d.in0 d.inZero src p q (first + i), f, wi⟩
      | _, _ => some ⟨none, pad, f, wi⟩)

/-- The first maximal term. -/
def firstMax (ts : List Term) : Option Term :=
  ts.foldl (fun m t => if t.a.isNan then m else match m with
    | none => some t
    | some b => if b.a.less t.a then some t else some b) none

/-- One element of a view operator's output. -/
def TView.element (t : TView) (e : Bytes) (y x c : Nat) : ViewEl :=
  let d := Op.desc e
  let q := t.env.qtab d
  let bias := qtabBias q (fmtInt d.in0) c
  let scale := qtabScale q c
  let src := (Op.input e 0).getD 0
  let sum (b : Val) (ts : List Term) : Val := accumulate false (round32 b) (ts.map fun z => (z.a, z.w))
  let a := t.input d.in0 d.inZero src y x c
  let at0 : Option (Nat × Nat × Nat × Nat) := some (src, y, x, c)
  match Op.opcode e with
  | 0x0101 | 0x0102 =>
      let ts := t.windowTerms e y x c
      ⟨sum bias ts, scale, ts⟩
  | 0x0103 =>
      let ts := (firstMax (t.windowTerms e y x c)).toList
      ⟨sum bias ts, scale, ts⟩
  | 0x0104 =>
      let ts := t.windowTerms e y x c
      let n := if Op.countPad e then Op.kh e * Op.kw e else max 1 ts.length
      ⟨sum (.fin false 0) ts, scale.mul (.fin false (1 / (n : Rat))), ts⟩
  | 0x0105 =>
      let ps := t.env.positions src
      let ts : List Term := ps.map fun (py, px) =>
        ⟨some (src, py, px, c), t.input d.in0 d.inZero src py px c, .fin false 1, none⟩
      let ts := if Op.poolMode e = 2 then (firstMax ts).toList else ts
      let f := if Op.poolMode e = 1 then scale.mul (.fin false (1 / ((max 1 ps.length : Nat) : Rat))) else scale
      ⟨sum (.fin false 0) ts, f, ts⟩
  | 0x0106 =>
      let (eh, ew, _) := t.env.dims src
      let cells : List (Nat × Nat × Rat) :=
        if Op.resizeMode e = 0 then
          [(if 1 < Op.downH e then y * Op.downH e else y / Op.upH e,
            if 1 < Op.downW e then x * Op.downW e else x / Op.upW e, 1)]
        else (resizeTerms (Op.upH e) eh y).flatMap fun (p, u) =>
          (resizeTerms (Op.upW e) (some ew) x).map fun (r, v) =>
            (p, r, u * v)
      let ts : List Term := cells.map fun (p, r, w) =>
        ⟨some (src, p, r, c), t.input d.in0 d.inZero src p r c, Val.ofRat w, none⟩
      ⟨(ts.map fun z => z.a.mul z.w).foldl Val.add (.fin false 0), .fin false 1, ts⟩
  | 0x0107 =>
      let f := Op.func e
      let isInt := fmtInt d.in0
      let s0 : Val := if isInt then Op.scale0 e else .fin false 1
      let s1 : Val := if isInt then Op.scale1 e else .fin false 1
      if f ≤ 0x05 then
        let src1 := (Op.input e 1).getD 0
        let at1 : Option (Nat × Nat × Nat × Nat) := if Op.broadcast e then none else some (src1, y, x, c)
        let b : Val :=
          if Op.broadcast e then
            let h := match Op.weight e with
              | some w => Wt.format (t.env.img.weight w)
              | none => 0x14
            let w := t.env.weightOf e c
            bf16 (if fmtFloat h then w else Val.ofRat (w.rat - Op.in1Zero e))
          else t.input d.in1 (Op.in1Zero e) src1 y x c
        let p := s0.mul a
        let r := s1.mul b
        match f with
        | 0x01 => ⟨p.add r, .fin false 1, [⟨at0, a, s0, none⟩, ⟨at1, b, s1, none⟩]⟩
        | 0x02 => ⟨p.add r.neg, .fin false 1, [⟨at0, a, s0, none⟩, ⟨at1, b, s1.neg, none⟩]⟩
        | 0x03 => ⟨p.mul b, .fin false 1, [⟨at0, a, s0.mul b, none⟩, ⟨at1, b, p, none⟩]⟩
        | 0x04 => if p.lt r then ⟨p.max r, .fin false 1, [⟨at1, b, s1, none⟩]⟩
            else ⟨p.max r, .fin false 1, [⟨at0, a, s0, none⟩]⟩
        | _ => if r.lt p then ⟨p.min r, .fin false 1, [⟨at1, b, s1, none⟩]⟩
            else ⟨p.min r, .fin false 1, [⟨at0, a, s0, none⟩]⟩
      else if f = 0x10 then ⟨a, Op.scale0 e, [⟨at0, a, .fin false 1, none⟩]⟩
      else
        let slope := fp (Config.vectorFn (0x100 + f) (fpWord a))
        let v : Val := if f = 0x1D then fp (Config.vectorFn f (fpWord a)) else (vectorFn f a).1
        ⟨v, .fin false 1, [⟨at0, a, slope, none⟩]⟩
  | 0x0201 =>
      let n := Op.mmK e
      let src1 := (Op.input e 1).getD 0
      let (_, w1, _) := t.env.dims src1
      let py := c / max 1 w1
      let px := c % max 1 w1
      let ts : List Term := (List.range n).map fun k =>
        let a := t.input d.in0 d.inZero src y x k
        if Op.mmFromIn1 e then ⟨some (src, y, x, k), a, t.input d.in1 0 src1 py px k, none⟩
        else
          let wi := t.env.weightIndex e c n k
          ⟨some (src, y, x, k), a, t.weight e wi, some wi⟩
      let back : List Term := if Op.mmFromIn1 e then (List.range n).map fun k =>
          ⟨some (src1, py, px, k), t.input d.in1 0 src1 py px k, t.input d.in0 d.inZero src y x k, none⟩
        else []
      ⟨sum bias ts, scale, ts ++ back⟩
  | 0x0203 => ⟨bias, scale, []⟩
  | _ => ⟨a, .fin false 1, [⟨at0, a, .fin false 1, none⟩]⟩

/-- The view's result of an element, and whether its clamp acted (R348). -/
def TView.result (e : Bytes) (v : ViewEl) : Nat × Bool :=
  let d := Op.desc e
  let r := decodeEl 0x13 (roundFloat 0x13 d.infOut (v.acc.mul v.factor)).1
  if d.clampEn && !r.isNan then
    let bound (c : Nat) : Val := if fmtFloat d.out then d.bound c else Val.ofInt (toSigned 16 c - d.outZero)
    let y := r.clamp (bound d.clampMin) (bound d.clampMax)
    ((roundFloat 0x13 true y).1, decide (y ≠ r))
  else ((roundFloat 0x13 true r).1, false)

/-- The channels of a view operator's output. -/
def TView.channels (t : TView) (e : Bytes) : Nat := (t.env.dims (Op.out e)).2.2

/-- Runs one operator of the model: in the view, or exactly as in inference. -/
def TView.run (s : State) (t : TView) (e : Bytes) : TView :=
  let w := match Op.weight e with
    | some id => Wt.trainable (t.env.img.weight id)
    | none => false
  let reached := w || ((Op.input e 0).map t.view.contains).getD false || ((Op.input e 1).map t.view.contains).getD false
  if !reached || Op.opcode e == 0x0202 then
    let (x, _) := (s.aloneOps t.env e).getD (t.env.whole e)
    { t with env := t.env.put (Op.out e) x, view := if reached then Op.out e :: t.view else t.view }
  else
    let ps := t.env.positions (Op.out e)
    let (h, n, _) := t.env.dims (Op.out e)
    let data := ps.map fun (y, x) => (List.range (t.channels e)).map fun c => (TView.result e (t.element e y x c)).1
    { t with env := t.env.put (Op.out e) { rows := h.getD 0, cols := n, chans := t.channels e, data := data }, view := Op.out e :: t.view }

/-! ### Loss (R349) -/

/-- The loss of class scores against a label, and the gradients of the scores. -/
def lossOf (scores : List Val) (label : Nat) : Val × List Val :=
  let m := (treeReduce maxSt (.inf true, 0) (scores.map fun v => (v, 0))).1
  let xs := scores.map fun v => vectorFn 0x11 (op32 (v.add m.neg))
  let z := (treeReduce (addSt false) (.fin false 0, 0) xs).1
  let loss := op32 ((vectorFn 0x12 z).1.add (op32 ((scores.getD label .nan).add m.neg)).neg)
  let r := (vectorFn 0x13 z).1
  (loss, xs.zipIdx.map fun (x, k) =>
    op32 ((op32 (x.1.mul r)).add (if k = label then .fin true 1 else .fin false 0)))

/-! ### Backwards (R349) -/

/-- What goes back: for each element of a tensor the pairs of its reduction sequence, and for each
element of a trainable weight its pairs. -/
structure Back where
  acts : List ((Nat × Nat × Nat × Nat) × (Val × Val)) := []
  weights : List ((Nat × Nat) × (Val × Val)) := []

/-- The gradient that a reduction sequence gives. -/
def gradOf (ps : List (Val × Val)) : Val := accumulate false (.fin false 0) ps

/-- Goes back through one operator; contributions of earlier operators come first. -/
def TView.back (t : TView) (seed : Option (List Val)) (b : Back) (e : Bytes) : Back :=
  if !t.view.contains (Op.out e) || Op.opcode e == 0x0202 then b else
  let outs := (t.env.positions (Op.out e)).flatMap fun (y, x) => (List.range (t.channels e)).map fun c => (y, x, c)
  let trains := match Op.weight e with
    | some id => if (t.master id 0).isSome then some id else none
    | none => none
  let parts := outs.map fun (y, x, c) =>
    let el := t.element e y x c
    let g : Val := match seed with
      | some ds => bf16 (ds.getD c (.fin false 0))
      | none => bf16 (gradOf ((b.acts.filter fun p => p.1 == (Op.out e, y, x, c)).map Prod.snd))
    let g : Val := if (TView.result e el).2 then .fin false 0 else bf16 (g.mul el.factor)
    (el.terms.filterMap fun z => z.src.map fun p => (p, (g, bf16 z.w)),
      el.terms.filterMap fun z => match trains, z.wi with
        | some id, some k => some ((id, k), (g, z.a))
        | _, _ => none)
  { acts := (parts.flatMap Prod.fst).filter (fun p => t.view.contains p.1.1) ++ b.acts
    weights := parts.flatMap Prod.snd ++ b.weights }

/-- The weight gradients of a sample and its loss: for each trainable weight in ascending identifier
the FP32 gradient of each element. -/
def TView.gradients (t : TView) (ids : List (Nat × Nat)) (label : Nat) : List (List Word) × Word :=
  let ops := t.env.ops.map t.env.img.op
  match ops.getLast? with
  | none => (ids.map fun i => List.replicate i.2 0, 0x7FC00000)
  | some last =>
      let codes := (Tab.getD t.env.fixed (Op.out last) ⟨0, 0, 0, []⟩).data.headD []
      let scores := codes.map fun c =>
        if t.view.contains (Op.out last) then decodeEl 0x13 c else fp (classScore (Op.desc last) c)
      let (loss, ds) := lossOf scores label
      let b := t.back (some ds) {} last
      let b := (ops.dropLast.reverse).foldl (fun b e => t.back none b e) b
      (ids.map fun (id, n) => (List.range n).map fun k =>
        fpWord (gradOf ((b.weights.filter fun p => p.1 == (id, k)).map Prod.snd)), fpWord loss)

/-! ### The optimiser (R352) -/

/-- One element's step: master, first and second moment. -/
def stepElement (r : Bytes) (lr c1 c2 : Val) (g w m v : Val) : Val × Val × Val :=
  let one : Val := .fin false 1
  if Trn.optimiser r = 0 then
    let m := fma (Trn.beta1 r) m g
    let d := fma (Trn.decay r) w m
    (fma lr.neg d w, m, v)
  else
    let m := fma (Trn.beta1 r) m (op32 ((op32 (one.add (Trn.beta1 r).neg)).mul g))
    let v := fma (Trn.beta2 r) v (op32 ((op32 (one.add (Trn.beta2 r).neg)).mul (op32 (g.mul g))))
    let mh := op32 (m.div (op32 (one.add c1.neg)))
    let vh := op32 (v.div (op32 (one.add c2.neg)))
    let root := op32 ((vectorFn 0x14 vh).1.add (Trn.epsilon r))
    let d := fma (Trn.decay r) w (op32 (mh.div root))
    (fma lr.neg d w, m, v)

/-- A value is finite. -/
def Val.finite (v : Val) : Bool :=
  match v with
  | .fin _ _ => true
  | _ => false

/-- The step of a job whose accumulators hold the sum over u samples: the new job, or none where a
new value is not finite (R353). -/
def TrainJob.optimise (j : TrainJob) (r : Bytes) (u : Nat) : Option TrainJob :=
  let t := j.t + 1
  let ratio : Rat := if Trn.warmup r = 0 then 1 else min 1 ((t : Rat) / (Trn.warmup r : Rat))
  let lr := op32 ((Trn.lr r).mul (Val.ofRat ratio))
  let c1 := if Trn.optimiser r = 1 then op32 ((fp j.c1).mul (Trn.beta1 r)) else fp j.c1
  let c2 := if Trn.optimiser r = 1 then op32 ((fp j.c2).mul (Trn.beta2 r)) else fp j.c2
  let div : Val := Val.ofRat (u : Rat)
  let ws := j.weights.map fun (id, w, m, v, a) =>
    (id, (w.zip (m.zip (v.zip a))).map fun (w, m, v, a) =>
      stepElement r lr c1 c2 (op32 ((fp a).div div)) (fp w) (fp m) (fp v))
  if ws.all fun x => x.2.all fun y => y.1.finite && y.2.1.finite && y.2.2.finite then
    some { j with
      t := t, c1 := fpWord c1, c2 := fpWord c2
      loss := fpWord (op32 ((fp j.lossSum).div div))
      weights := ws.map fun (id, ys) =>
        (id, ys.map (fun y => fpWord y.1), ys.map (fun y => fpWord y.2.1), ys.map (fun y => fpWord y.2.2),
          ys.map fun _ => 0) }
  else none

/-- Adds one sample's gradients and loss to the accumulators. -/
def TrainJob.addGrad (j : TrainJob) (gs : List (List Word)) (loss : Word) : TrainJob :=
  { j with
    weights := (j.weights.zip gs).map fun ((id, w, m, v, a), g) =>
      (id, w, m, v, (a.zip g).map fun (a, g) => fpWord (round32 ((fp a).add (fp g))))
    lossSum := fpWord (round32 ((fp j.lossSum).add (fp loss))) }

end Sys2Proof.Machine
end

