-- ==== Sys2Proof/Machine/Train.lean ====
section
/-! DEFINITION. Training jobs: their commands, epochs, units, checkpoints and candidates
(14_fine_tuning_and_shadow.md R346 to R367). -/

namespace Sys2Proof.Machine

namespace Code
abbrev trainState : Nat := 0xA0
abbrev checkpointMismatch : Nat := 0xA1
abbrev noCandidate : Nat := 0xA2
abbrev candidateStale : Nat := 0xA3
abbrev trainDiverged : Nat := 0xA4
end Code

/-! ### Jobs -/

/-- The record of a training job. -/
def State.trainRec (s : State) (j : Nat) : Option Bytes := s.imgRecord 15 3 j

/-- Changes a training job. -/
def State.updTrain (s : State) (j : Nat) (f : TrainJob → TrainJob) : State :=
  { s with train := { s.train with jobs := Tab.updD s.train.jobs j {} f } }

/-- The context of a training job (R216). -/
def trainCtx (j : Nat) : Nat := 128 + j

/-- The trainable weights of an image: identifiers with their element counts, ascending. -/
def Image.trainables (i : Image) : List (Nat × Nat) :=
  (List.range (i.cnt 8)).filterMap fun k =>
    let e := i.weight k
    if Wt.trainable e then some (k, Wt.elements e) else none

/-- The bytes of a weight as it runs now. -/
def State.weightNow (s : State) (i : Image) (k : Nat) : Bytes := weightIn i s.img.overlays s.overlayGen k

/-- The masters of a job that starts: the exact values of the running weights (R347, R356). -/
def State.freshWeights (s : State) (i : Image) : List (Nat × List Word × List Word × List Word × List Word) :=
  i.trainables.map fun (k, n) =>
    let b := s.weightNow i k
    let f := Wt.format (i.weight k)
    let zeros := List.replicate n (0 : Word)
    (k, (List.range n).map (fun e => fpWord (weightEl f n b e)), zeros, zeros, zeros)

/-- TRAIN_START's effect on a job; publishes that were asked for and are still due go on. -/
def State.startTrain (s : State) (j : Nat) : State :=
  match s.img.running with
  | none => s
  | some i =>
      let s := s.setDec j {}
      s.updTrain j fun t => { ({} : TrainJob) with
        st := .running, baseGen := s.overlayGen, weights := s.freshWeights i
        publish := t.publish, publishDue := t.publishDue }

/-! ### Scheduling units (R354) -/

/-- The units of a kind that a job has in the scheduler. -/
def State.units (s : State) (j : Nat) (k : JobKind) : List Job :=
  s.sched.jobs.filter fun x => x.ctx == trainCtx j && x.kind == k

/-- Adds a training unit, ready at once: its space is the work space of R355. -/
def State.addUnit (s : State) (j : Nat) (k : JobKind) (stage aux : Nat) : State :=
  let id := s.sched.nextJob
  let cmd := s.sched.nextCmd
  let job : Job :=
    { id := id, kind := k, ctx := trainCtx j, model := 2, stream := 0, stripe := 0, lane := 0
      gen := s.img.gen, first := 0, last := 0, ownFirst := 0, ownLast := 0, slot := 0, view := 0
      input := none, result := none, accepted := 0, closedEnd := false, det := false, by' := none, aux := aux }
  let s := ((s.addJob job).addCmd id stage).updCmd cmd fun c => { c with spaceReserved := true }
  s.makeReady cmd

/-- The samples of an epoch's set. -/
def TrainJob.setSize (t : TrainJob) : Nat := (t.ranges.map fun r => r.2 - r.1).foldl (· + ·) 0

/-- One past the last delivery event of the present step. -/
def TrainJob.stepEnd (t : TrainJob) (batch : Nat) : Nat := min ((t.step + 1) * batch) t.setSize

/-- A job stands at a step boundary: no gradient is partly accumulated. -/
def TrainJob.atBoundary (t : TrainJob) (batch : Nat) : Bool :=
  !t.epochOn || t.nextAdd == min (t.step * batch) t.setSize

/-- A requested checkpoint takes effect at the first step boundary, the end of the last epoch among them. -/
def State.checkBoundary (s : State) (j batch : Nat) : State :=
  let t := s.trainJob j
  if t.checkpoint.isSome && t.atBoundary batch && (t.st == .running || t.st == .paused || t.st == .done) then
    s.updTrain j fun t => { t with st := .checkpointing, resumeTo := t.st }
  else s

/-- Requested publishes become a unit at a step boundary. -/
def State.publishBoundary (s : State) (j : Nat) (r : Bytes) : State :=
  let t := s.trainJob j
  if (t.publishDue || !t.publish.isEmpty) && t.atBoundary (Trn.batch r) && (s.units j .trainPublish).isEmpty then
    s.addUnit j .trainPublish (Trn.stageFirst r) 0
  else s

/-- Sample units are made for the samples of the present step, at most UNITS_IN_FLIGHT at a time. -/
def State.feedUnits (s : State) (j : Nat) : Nat → State
  | 0 => s
  | n + 1 => match s.trainRec j with
      | none => s
      | some r =>
          let t := s.trainJob j
          let live := s.units j .trainSample
          if Trn.unitsInFlight r ≤ live.length then s else
          match t.queue.find? fun q => decide (q.event < t.stepEnd (Trn.batch r)) &&
              !live.any (fun u => u.aux == q.event) && !t.grads.any (fun g => g.1 == q.event) with
          | some q => (s.addUnit j .trainSample (Trn.stageFirst r) q.event).feedUnits j n
          | none => s

/-- Adds the gradients that are due, in ascending batch position. -/
def TrainJob.addDue (stop : Nat) : Nat → TrainJob → TrainJob
  | 0, t => t
  | n + 1, t =>
      if stop ≤ t.nextAdd then t else
      match t.grads.find? fun g => g.1 == t.nextAdd with
      | none => t
      | some (e, gs, loss) =>
          let u := if gs.isEmpty then t else
            { t.addGrad gs loss with contributing := t.contributing + 1, used := (t.used + 1) % 2 ^ 32 }
          TrainJob.addDue stop n { u with nextAdd := e + 1, grads := u.grads.filter fun g => g.1 != e }

/-- What a job may go on with after a delivery, a commit or a resume. -/
def State.pumpTrain (s : State) (j : Nat) : State :=
  match s.trainRec j with
  | none => s
  | some r =>
      let t := s.trainJob j
      let stop := t.stepEnd (Trn.batch r)
      let s := s.updTrain j fun t => if t.epochOn then TrainJob.addDue stop (stop - t.nextAdd) t else t
      let t := s.trainJob j
      let full := t.epochOn && t.nextAdd == stop && decide (t.step * Trn.batch r < stop)
      let s := if full && (s.units j .trainStep).isEmpty && (s.units j .trainPublish).isEmpty then
          s.addUnit j .trainStep (Trn.stageFirst r) 0 else s
      s.feedUnits j (Trn.unitsInFlight r)

/-- A job stops: its units are cancelled, its requests end, and what was asked of it is cancelled. -/
def State.stopTrain (s : State) (j : Nat) (status : Nat) : State :=
  let us := (s.sched.jobs.filter fun x => x.ctx == trainCtx j).map (·.id)
  let s := us.foldl (fun s u => s.withdraw u) s
  let t := s.trainJob j
  let s := s.setDec j {}
  let s := s.updTrain j fun t => { t with
    st := .stopped, waiting := false, epochOn := false, queue := [], grads := [], checkpoint := none
    publish := [], publishDue := false }
  let asked := (t.checkpoint.map fun c => c.1).toList ++ t.publish
  asked.foldl (fun s c => s.complete c status) s

/-- Uncorrectable granules of the sample cache region, met by a unit of a job: whether one holds the job's
training state or a decoded sample is a free value, as the spec does not place them. The job stops; the
sample is dropped (17_memory.md R443). -/
def State.cacheUe (s : State) (j : Nat) : State :=
  (s.mc.bad.filter fun g => s.regionOf g == 12).foldl (fun s g =>
    let (d, s) := s.draw (s.cap.cache.length + 1)
    let s := s.reportUe g 0x40
    if d = 0 then s.stopTrain j Code.memoryUncorrectable
    else { s with cap := { s.cap with cache := s.cap.cache.eraseIdx (d - 1) } }) s

/-! ### Epochs (R350) -/

/-- The sample set of now: OLDEST and NEXT of libraries 0 to 7, zero where a library gives none. -/
def State.sampleRanges (s : State) (mask : Nat) : List (Nat × Nat) :=
  (List.range 8).map fun l => match s.lib l with
    | some x => if bit mask l then (x.oldest, x.next) else (0, 0)
    | none => (0, 0)

/-- Element k of a sample set: library and SAMPLE_INDEX. -/
def setElement : List (Nat × Nat) → Nat → Nat → Option (Nat × Nat)
  | [], _, _ => none
  | (a, b) :: r, l, k => if k < b - a then some (l, a + k) else setElement r (l + 1) (k - (b - a))

/-- The request at position p of an epoch joins the job's decode stream. -/
def State.requestAt (s : State) (j : Nat) (r : Bytes) (p : Nat) : State :=
  let t := s.trainJob j
  match setElement t.ranges 0 (shuffle p t.setSize (Trn.seed r) (n64 t.epoch)) with
  | some (l, k) => s.request j l k p none 0 0 t.det
  | none => s

/-- An epoch starts if its set has BATCH samples; otherwise the job waits. -/
def State.epochStart (s : State) (j : Nat) : State :=
  match s.trainRec j with
  | none => s
  | some r =>
      let t := s.trainJob j
      if t.st != .running || t.epochOn then s else
      let ranges := s.sampleRanges (Trn.libraryMask r)
      let n := ({ t with ranges := ranges } : TrainJob).setSize
      if n < Trn.batch r then s.updTrain j fun t => { t with waiting := true }
      else
        let det := s.img.detMode
        let s := s.updTrain j fun t => { t with
          waiting := false, epochOn := true, det := det, ranges := ranges, step := 0, events := 0
          nextAdd := 0, contributing := 0, queue := [], grads := [] }
        let d := s.decStream j
        let s := s.setDec j { d with reqs := [] }
        ((List.range n).foldl (fun s p => s.requestAt j r p) s).settleDec j

/-! ### Deliveries (R350) -/

/-- The label of a sample under LABEL_SOURCE. -/
def sampleLabel (r e : Bytes) : Option Nat :=
  if LEntry.labelled e then some (LEntry.label e)
  else if Trn.labelSource r = 1 ∧ LEntry.source e = 1 then some (LEntry.verdict e) else none

/-- The class scores of the deep model have a label's class. -/
def State.labelFits (s : State) (l : Nat) : Bool :=
  match s.img.running with
  | none => false
  | some i => match (i.ops 0).getLast? with
      | some k =>
          let e := i.op k
          let n := match Op.opcode e with
            | 0x0201 => Op.mmN e
            | 0x0101 | 0x0102 | 0x0103 | 0x0104 => Op.outChannels e
            | _ => 16
          decide (l < n)
      | none => false

/-- A delivery event that contributes nothing. -/
def TrainJob.passOver (t : TrainJob) (event : Nat) : TrainJob :=
  { t with skipped := (t.skipped + 1) % 2 ^ 32, grads := t.grads ++ [(event, [], 0)] }

/-- A delivery event of a job: a skip, a sample that does not contribute, or one that does. -/
def State.deliverTrain (s : State) (j : Nat) (q : DecReq) : State :=
  match s.trainRec j with
  | none => s
  | some r =>
      let event := (s.trainJob j).events
      let code := q.outcome.getD 0
      let s := (s.markDelivered j q event).updTrain j fun t => { t with events := event + 1 }
      let s :=
        if skipped code then s.updTrain j fun t => t.passOver event
        else
          let unused := code == Code.decodeDamaged && !Trn.useDamaged r
          let s := if unused then s.setFlag .trainFlags [] 2 else s
          match (sampleLabel r q.entry).filter s.labelFits with
          | none => (s.setFlag .trainFlags [] 1).updTrain j fun t => t.passOver event
          | some label =>
              if unused then s.updTrain j fun t => t.passOver event
              else
                let shift := match s.lib q.library with
                  | some l => Lib.shift16 l.cfg
                  | none => 0
                let planes := augment r (s.trainJob j).epoch q.library q.sample shift q.bits12 q.planes
                s.updTrain j fun t => { t with queue := t.queue ++
                  [{ event := event, stream := LEntry.stream q.entry, label := label, wide := q.bits12, planes := planes }] }
      s.pumpTrain j

/-- SAMPLE_DELIVERY: the next delivery of a stream, if it is known. -/
def State.deliver (s : State) (n : Nat) : State :=
  match (s.decStream n).next with
  | none => s
  | some r => if n < 32 then s.deliverTrain n r else s.deliverSeat n r

/-! ### What units give at their commit (R349, R352, R357) -/

/-- The view of a sample after the forward pass. -/
def State.trainView (s : State) (i : Image) (t : TrainJob) (q : TrainSample) : TView :=
  let h := (q.planes.headD []).length
  let w := ((q.planes.headD []).headD []).length
  let rows := (List.range h).map fun y => (List.range w).map fun x =>
    q.planes.map fun p => (p.getD y []).getD x 0
  let env : Env :=
    { img := i, ops := i.ops 0, weight := s.weightNow i, fmt := if q.wide then 0x06 else 0x04, row0 := 0
      col0 := 0, rows := rows, extH := some h, extW := w, channels := q.planes.length, fixed := [] }
  let master (id k : Nat) : Option Val := (t.weights.find? fun x => x.1 == id).map fun x => fp (x.2.1.getD k 0)
  env.ops.foldl (fun v k => TView.run s v (i.op k)) { env := env, view := [], master := master }

/-- A sample unit commits: its gradient waits until every earlier one has been added. -/
def State.commitSample (s : State) (j event : Nat) : State :=
  let s := s.cacheUe j
  match s.img.running, (s.trainJob j).queue.find? fun q => q.event == event with
  | some i, some q =>
      let t := s.trainJob j
      let (gs, loss) := (s.trainView i t q).gradients i.trainables q.label
      let s := s.updTrain j fun t => { t with
        queue := t.queue.filter fun x => x.event != event, grads := t.grads ++ [(event, gs, loss)] }
      s.pumpTrain j
  | _, _ => s

/-- The requests whose events a step has consumed are forgotten. -/
def State.consumeReqs (s : State) (j stop : Nat) : State :=
  let d := s.decStream j
  s.setDec j { d with reqs := d.reqs.filter fun r => !(r.delivered && decide (r.event < stop)) }

/-- A step is over: the next one, or the end of the epoch with its publish (R356). -/
def State.stepOver (s : State) (j : Nat) (r : Bytes) : State :=
  let t := s.trainJob j
  let stop := t.stepEnd (Trn.batch r)
  let s := s.consumeReqs j stop
  let s := if stop < t.setSize then s.updTrain j fun t => { t with step := t.step + 1 }
    else s.updTrain j fun t => { t with
      epochOn := false, step := 0, epoch := t.epoch + 1, publishDue := true
      st := if Trn.epochs r ≤ t.epoch + 1 then .done else t.st }
  ((s.checkBoundary j (Trn.batch r)).publishBoundary j r).pumpTrain j

/-- A step unit commits (R352, R353). -/
def State.commitStep (s : State) (j : Nat) : State :=
  let s := s.cacheUe j
  match if (s.trainJob j).st = .stopped then none else s.trainRec j with
  | none => s
  | some r =>
      let t := s.trainJob j
      if t.contributing = 0 then s.stepOver j r else
      match t.optimise r t.contributing with
      | some u => (s.updTrain j fun _ => { u with contributing := 0, lossSum := 0 }).stepOver j r
      | none =>
          let s := s.stopTrain j 0x73
          s.flagLog .trainFlags [] 0 { errorRec adaptSource with status := Code.trainDiverged, arg0 := n64 j }

/-- A master in its weight's FORMAT, and whether it saturated (R357). -/
def toWeight (f : Nat) (w : Word) : Nat × Bool :=
  let v := fp w
  if fmtFloat f then
    let (c, st) := roundFloat f false v
    (c, st &&& Arith.floatSat != 0)
  else
    let (y, st) := roundInt f 0 v
    let (c, st') := satInt f y
    (c, (st ||| st') &&& Arith.intSat != 0)

/-- The bytes of a candidate weight. -/
def weightBytes (f : Nat) (ws : List Word) : Bytes :=
  ws.flatMap fun w => natLe (max 1 (fmtBits f / 8)) (toWeight f w).1

/-- A publish unit commits: the masters become the candidate (R357). -/
def State.commitPublish (s : State) (j : Nat) : State :=
  match s.img.running with
  | none => s
  | some i =>
      let t := s.trainJob j
      let buf := match s.train.cand.current with
        | some 0 => 1
        | _ => 0
      let s := (s.ledg.parts.filter fun p => p.2.shadow && p.2.candBuf == buf).foldl
        (fun s p => s.cancelShadow p.1) s
      let fmt (id : Nat) : Nat := Wt.format (i.weight id)
      let data := t.weights.map fun w => (w.1, weightBytes (fmt w.1) w.2.1)
      let sat' := t.weights.any fun w => w.2.1.any fun x => (toWeight (fmt w.1) x).2
      let s := if sat' then s.setFlag .trainFlags [] 4 else s
      let c := s.train.cand
      let c := { c with
        current := some buf, buf0 := if buf = 0 then data else c.buf0, buf1 := if buf = 1 then data else c.buf1
        job := j, base := t.baseGen, gen := c.gen + 1 }
      let s := ({ s with train := { s.train with cand := c } } : State).clearTally
      let asked := (s.trainJob j).publish
      let s := s.updTrain j fun t => { t with publish := [], publishDue := false }
      let s := asked.foldl (fun s q => s.complete q Code.ok 0 c.gen.toNat) s
      s.pumpTrain j

/-! ### Commands (R356) -/

/-- A command on a job: the job must be defined and in a state that takes it. -/
def State.onJob (s : State) (c : CmdRef) (job : Byte) (ok : List TrainSt) (more : List (Bool × Nat))
    (body : State → State) : State :=
  let j := job.toNat
  s.checked c ([((s.trainRec j).isNone || decide (32 ≤ j), Code.badIndex)] ++ more ++
    [(!ok.contains (s.trainJob j).st, Code.trainState)]) body

/-- TRAIN_START. -/
def State.runTrainStart (s : State) (c : CmdRef) (job : Byte) : State :=
  s.onJob c job [.idle, .done, .stopped] [] fun s => (s.startTrain job.toNat).complete c Code.ok

/-- TRAIN_PAUSE. -/
def State.runTrainPause (s : State) (c : CmdRef) (job : Byte) : State :=
  s.onJob c job [.running] [] fun s =>
    (s.updTrain job.toNat fun t => { t with st := .paused }).complete c Code.ok

/-- TRAIN_RESUME. -/
def State.runTrainResume (s : State) (c : CmdRef) (job : Byte) : State :=
  s.onJob c job [.paused] [] fun s =>
    ((s.updTrain job.toNat fun t => { t with st := .running }).pumpTrain job.toNat).complete c Code.ok

/-- TRAIN_STOP. -/
def State.runTrainStop (s : State) (c : CmdRef) (job : Byte) : State :=
  s.onJob c job [.running, .paused, .checkpointing, .done, .stopped] [] fun s =>
    (s.stopTrain job.toNat 0x73).complete c Code.ok

/-- TRAIN_CHECKPOINT: it takes effect at the next step boundary; one at a time. -/
def State.runTrainCheckpoint (s : State) (c : CmdRef) (job : Byte) (areaAddr areaBytes : BitVec 64) : State :=
  let j := job.toNat
  s.onJob c job [.running, .paused]
    [(addrReserved areaAddr || allOnes64 areaBytes, Code.fieldReserved),
     (!bufferIn areaAddr areaBytes.toNat, Code.addressUnmapped),
     ((s.trainJob j).checkpoint.isSome, Code.trainState)]
    fun s =>
      let s := s.updTrain j fun t => { t with checkpoint := some (c, areaAddr.toNat, areaBytes.toNat) }
      match s.trainRec j with
      | some r => s.checkBoundary j (Trn.batch r)
      | none => s

/-- CANDIDATE_PUBLISH: a publish unit at the next step boundary. -/
def State.runCandidatePublish (s : State) (c : CmdRef) (job : Byte) : State :=
  let j := job.toNat
  s.onJob c job [.running, .paused, .done] [] fun s =>
    let s := s.updTrain j fun t => { t with publish := t.publish ++ [c] }
    match s.trainRec j with
    | some r => s.publishBoundary j r
    | none => s

/-! ### Checkpoints (R358) -/

/-- The stamps before the pending requests took their engines. -/
def stampsBefore (d : DecStream) (pending : List DecReq) : List Nat :=
  (pending.reverse.filter fun r => r.outcome.isSome).foldl (fun st r => st.set r.engine r.start) d.stamps

/-- The record with its CRC. -/
def withCrc (r : Bytes) : Bytes := spliceBytes r 0xEC (natLe 4 (crc32 (spliceBytes r 0xEC (natLe 4 0))))

/-- The checkpoint record of a job at a step boundary. -/
def State.checkpointRecord (s : State) (j : Nat) (r : Bytes) (i : Image) : Bytes :=
  let t := s.trainJob j
  let d := s.decStream j
  let stop := min (t.step * Trn.batch r) t.setSize
  let pending := if t.epochOn then d.reqs.filter fun q => !q.delivered || decide (stop ≤ q.event) else []
  let st := stampsBefore d pending
  let low := st.foldl min (st.headD 0)
  let mine := pending.filterMap fun q => if q.outcome.isSome then some (q.stop, q.cycles, q.mcus) else none
  let hist := (mine.foldl (fun h q => h.erase q) d.hist).mergeSort fun a b => decide (a.1 ≤ b.1)
  let hist := hist.drop (hist.length - 256)
  let state := (t.weights.flatMap fun w => w.2.1) ++ (t.weights.flatMap fun w => w.2.2.1) ++
    (if Trn.optimiser r = 1 then t.weights.flatMap fun w => w.2.2.2.1 else [])
  let lists := (hist.flatMap fun h => natLe 4 h.2.1 ++ natLe 4 h.2.2) ++
    (pending.flatMap fun q => natLe 8 q.position)
  let lists := padTo (roundUp lists.length 64) lists
  let arrays := state.flatMap fun w => natLe 4 w.toNat
  let length := 256 + lists.length + arrays.length
  let head := [0x44, 0x5A, 0x54, 0x01] ++ natLe 8 length ++ natLe 1 j ++ natLe 1 (Trn.optimiser r) ++
    natLe 1 t.baseGen ++ natLe 1 (b2n t.det) ++ i.imageId ++ natLe 4 t.epoch ++ natLe 4 t.step ++ natLe 8 t.t ++
    natLe 4 t.c1.toNat ++ natLe 4 t.c2.toNat ++ natLe 8 0 ++
    ((List.range 8).flatMap fun l => natLe 8 (t.ranges.getD l (0, 0)).1 ++ natLe 8 (t.ranges.getD l (0, 0)).2) ++
    ((List.range 4).flatMap fun e => natLe 8 (st.getD e 0 - low)) ++
    natLe 4 pending.length ++ natLe 4 hist.length ++ natLe 4 (crc32 r) ++ natLe 4 0 ++ natLe 16 0
  withCrc (head ++ lists ++ arrays)

/-- CHECKPOINT_WRITE: the record is written, or refused where the area is too small; the job goes on. -/
def State.writeCheckpoint (s : State) (j : Nat) : State :=
  let t := s.trainJob j
  match t.checkpoint, s.trainRec j, s.img.running with
  | some (c, a, n), some r, some i =>
      if t.st != .checkpointing then s else
      let rec' := s.checkpointRecord j r i
      let s := s.updTrain j fun t => { t with st := t.resumeTo, checkpoint := none }
      let s := if n < rec'.length then s.complete c Code.lengthRange
        else (s.storeFor c.seat a rec').complete c Code.ok rec'.length
      s.pumpTrain j
  | _, _, _ => s

/-- Bytes of DRAM that a command reads: none where a granule is uncorrectable (R443). -/
def State.readBuf (s : State) (a n : Nat) (seat : Nat) : State × Option Bytes :=
  match s.badIn a n with
  | some g => (s.reportUe g seat, none)
  | none => (s, some (s.load a n))

/-- A restored job: its state, its stamps and history, and its pending requests issued again. JOB_USED, JOB_SKIPPED and
JOB_LOSS, which R367 says are restored and the record does not hold, are free values (notes/assumptions/152.md). -/
def State.restoreTrain (s : State) (j : Nat) (r b : Bytes) (i : Image) : State :=
  let np := leAt b 0xE0 4
  let nh := leAt b 0xE4 4
  let base := 256 + roundUp (8 * nh + 8 * np) 64
  let total := (i.trainables.map Prod.snd).foldl (· + ·) 0
  let word (k n : Nat) : Word := n32 (leAt b (base + 4 * (k * total + n)) 4)
  let weights := (i.trainables.foldl (fun (a : Nat × List (Nat × List Word × List Word × List Word × List Word)) w =>
    let arr (k : Nat) : List Word := (List.range w.2).map fun e => word k (a.1 + e)
    let zeros := List.replicate w.2 (0 : Word)
    (a.1 + w.2, a.2 ++ [(w.1, arr 0, arr 1, if Trn.optimiser r = 1 then arr 2 else zeros, zeros)])) (0, [])).2
  let ranges := (List.range 8).map fun l => (leAt b (0x40 + 16 * l) 8, leAt b (0x48 + 16 * l) 8)
  let step := leAt b 0x24 4
  let stamps := (List.range 4).map fun e => leAt b (0xC0 + 8 * e) 8 + 1
  let hist := (List.range nh).map fun k => (0, leAt b (0x100 + 8 * k) 4, leAt b (0x104 + 8 * k) 4)
  let on := decide (0 < np) || decide (0 < step)
  let (used, s) := s.draw (2 ^ 32)
  let (skipped, s) := s.draw (2 ^ 32)
  let (loss, s) := s.draw (2 ^ 32)
  let s := s.setDec j { stamps := stamps, reqs := [], hist := hist }
  let s := s.updTrain j fun t => { ({} : TrainJob) with
    publish := t.publish, publishDue := t.publishDue, st := .paused, used := used, skipped := skipped, loss := n32 loss, det := byteAt b 0xF == 1, epoch := leAt b 0x20 4, step := step, t := leAt b 0x28 8
    c1 := n32 (leAt b 0x30 4), c2 := n32 (leAt b 0x34 4), baseGen := byteAt b 0xE, ranges := ranges
    events := step * Trn.batch r, nextAdd := step * Trn.batch r, epochOn := on, weights := weights }
  ((List.range np).foldl (fun s k => s.requestAt j r (leAt b (0x100 + 8 * nh + 8 * k) 8)) s).settleDec j

/-- TRAIN_RESTORE: the record must fit the image, the job and itself. -/
def State.runTrainRestore (s : State) (c : CmdRef) (job : Byte) (recordAddr : BitVec 64) : State :=
  let j := job.toNat
  s.onJob c job [.idle, .done, .stopped]
    [(addrReserved recordAddr, Code.fieldReserved), (!bufferIn recordAddr 256, Code.addressUnmapped)]
    fun s =>
      let a := recordAddr.toNat
      match s.trainRec j, s.img.running, s.readBuf a 256 c.seat with
      | some r, some i, (s, some h) =>
          let n := leAt h 4 8
          if n = 2 ^ 64 - 1 ∨ !allZero (bytesAt h 0x38 8) ∨ !allZero (bytesAt h 0xF0 16) ∨
              leAt h 0xE0 4 = 2 ^ 32 - 1 ∨ leAt h 0xE4 4 = 2 ^ 32 - 1 then s.complete c Code.fieldReserved else
          if !inDram a n then s.complete c Code.addressUnmapped else
          (match s.readBuf a n c.seat with
            | (s, none) => s.complete c Code.memoryUncorrectable
            | (s, some b) =>
                let total := (i.trainables.map Prod.snd).foldl (· + ·) 0
                let arrays := (if Trn.optimiser r = 1 then 3 else 2) * 4 * total
                let want := 256 + roundUp (8 * leAt b 0xE4 4 + 8 * leAt b 0xE0 4) 64 + arrays
                let fits := bytesAt b 0 4 == [0x44, 0x5A, 0x54, 0x01] && n == want && b.length == n &&
                  withCrc b == b && bytesAt b 0x10 16 == i.imageId && leAt b 0xE8 4 == crc32 r &&
                  byteAt b 0xD == Trn.optimiser r && decide (leAt b 0xE4 4 ≤ 256)
                if fits then (s.restoreTrain j r b i).complete c Code.ok
                else s.complete c Code.checkpointMismatch)
      | _, _, (s, _) => s.complete c Code.memoryUncorrectable

/-! ### The commands -/

/-- TRAIN_START (R356). -/
def execTrainStart (h : Hdr) (job : Byte) (s : State) : Res :=
  .next (s.takeNow (.trainStart h job) fun c s => s.runTrainStart c job)

/-- TRAIN_PAUSE (R356). -/
def execTrainPause (h : Hdr) (job : Byte) (s : State) : Res :=
  .next (s.takeNow (.trainPause h job) fun c s => s.runTrainPause c job)

/-- TRAIN_RESUME (R356). -/
def execTrainResume (h : Hdr) (job : Byte) (s : State) : Res :=
  .next (s.takeNow (.trainResume h job) fun c s => s.runTrainResume c job)

/-- TRAIN_STOP (R356). -/
def execTrainStop (h : Hdr) (job : Byte) (s : State) : Res :=
  .next (s.takeNow (.trainStop h job) fun c s => s.runTrainStop c job)

/-- TRAIN_CHECKPOINT (R358). -/
def execTrainCheckpoint (h : Hdr) (job : Byte) (areaAddr areaBytes : BitVec 64) (s : State) : Res :=
  .next (s.takeNow (.trainCheckpoint h job areaAddr areaBytes) fun c s =>
    s.runTrainCheckpoint c job areaAddr areaBytes)

/-- TRAIN_RESTORE (R358). -/
def execTrainRestore (h : Hdr) (job : Byte) (recordAddr : BitVec 64) (s : State) : Res :=
  .next (s.takeNow (.trainRestore h job recordAddr) fun c s => s.runTrainRestore c job recordAddr)

/-- CANDIDATE_PUBLISH (R357). -/
def execCandidatePublish (h : Hdr) (job : Byte) (s : State) : Res :=
  .next (s.takeNow (.candidatePublish h job) fun c s => s.runCandidatePublish c job)

/-- EPOCH_START (R350). -/
def execEpochStart (job : Fin 32) (s : State) : Res := .next (s.epochStart job)

/-- SAMPLE_SET_RETAKE (R350): a waiting job takes its set again. -/
def execSampleSetRetake (job : Fin 32) (s : State) : Res :=
  .next (if (s.trainJob job).waiting then s.epochStart job else s)

/-- SAMPLE_DELIVERY (R336). -/
def execSampleDelivery (stream : Fin 36) (s : State) : Res := .next (s.deliver stream)

/-- CHECKPOINT_WRITE (R358). -/
def execCheckpointWrite (job : Fin 32) (s : State) : Res := .next (s.writeCheckpoint job)

end Sys2Proof.Machine
end

