-- ==== Sys2Proof/Machine/Stripe.lean ====
section
/-! DEFINITION. What a stripe job takes in and what it gives (05_stripes_and_layouts.md R123, R128,
07_window_operators.md R173, R180, R184, 08_history_and_sequence_ops.md R201, 10_ledger_and_deadlines.md
R254, 12_reproducibility.md R312). -/

namespace Sys2Proof.Machine

/-! ### The input -/

/-- A stage reads the stream input. -/
def Image.readsInput (i : Image) (stage : Nat) : Bool :=
  let e := i.stage stage
  (List.range (Stage.lastOp e + 1 - Stage.firstOp e)).any fun k =>
    let o := i.op (Stage.firstOp e + k)
    Op.input o 0 == some 0 || Op.input o 1 == some 0

/-- The last stripe stage of a model that reads the stream input. -/
def Image.lastReader (i : Image) (model : Nat) : Option Nat :=
  ((i.stagesOf model false).reverse).find? i.readsInput

/-- The format, the component count and the zeros that stand for a line that cannot be used (R128). -/
def Stream.zeroRow (x : Stream) (cols : Nat) : List (List Nat) :=
  List.replicate cols (List.replicate (Strm.comps x.cfg) 0)

/-- The tensor a stripe job takes in: the lines of its read range and its lane's columns with their halo. -/
def State.jobInput (s : State) (j : Job) : Option InTensor :=
  (s.stream j.stream).map fun x =>
    let seg := x.originOf j.ownFirst
    let (a, b) := x.laneCols j.lane
    let lo := a - Strm.haloCols x.cfg
    let hi := min x.columns (b + Strm.haloCols x.cfg)
    let ls := (List.range (min j.last x.nextCorr - j.first)).filterMap fun k => x.line (j.first + k)
    { fmt := x.elemFmt, row0 := j.first - seg, col0 := lo
      rows := ls.map fun l => if l.cause = 0 then s.linePixels x l lo (hi - lo) (some j.lane) else x.zeroRow (hi - lo)
      lines := ls.map fun l => (l.index, l.pos, l.cause)
      segStart := seg, segEnd := x.nextOrigin seg, width := x.columns }

/-! ### The environment -/

/-- The bytes of a weight for a job: the candidate buffer's for the candidate, else the overlay chain's
at the job's generation. -/
def State.jobWeight (s : State) (i : Image) (model aux k : Nat) : Bytes :=
  if model = 2 then
    let b := if aux = 0 then s.train.cand.buf0 else s.train.cand.buf1
    match Tab.get b k with
    | some d => d
    | none => weightIn i s.img.overlays s.overlayGen k
  else weightIn i s.img.overlays aux k

/-- What the operators of a stripe job are evaluated on. -/
def State.jobEnv (s : State) (i : Image) (model aux : Nat) (t : InTensor) : Env :=
  { img := i, ops := i.ops model, weight := s.jobWeight i model aux, fmt := t.fmt
    row0 := (t.row0 : Int), col0 := (t.col0 : Int), rows := t.rows
    extH := t.segEnd.map fun e => e - t.segStart, extW := t.width
    channels := ((t.rows.headD []).headD []).length, fixed := [] }

/-- What a stripe job owns of its segment. -/
def ownOf (x : Stream) (j : Job) (t : InTensor) : Own :=
  { row0 := j.ownFirst - t.segStart, row1 := j.ownLast + 1 - t.segStart
    lastRow := t.segEnd == some (j.ownLast + 1)
    col0 := (x.laneCols j.lane).1, col1 := (x.laneCols j.lane).2
    lastCol := j.lane + 1 == x.lanes }

/-! ### Rows read (R180) -/

/-- The rows of IN0 that some output rows of an operator read. -/
def Env.rowsOf (v : Env) (e : Bytes) (ys : List Nat) : List Nat :=
  let (h, _, _) := v.dims ((Op.input e 0).getD 0)
  match Op.opcode e with
  | 0x0101 | 0x0102 | 0x0103 | 0x0104 =>
      ys.flatMap fun y => (List.range (Op.kh e)).filterMap fun u =>
        match (border (Op.padMode e) h (Op.padTop e) (Op.padBottom e)
            ((y * Op.strideH e + Op.dilH e * u : Nat) - (Op.padTop e : Int))).1 with
        | .at' p => some p
        | _ => none
  | 0x0106 =>
      if Op.resizeMode e = 0 then
        ys.map fun y => if 1 < Op.downH e then y * Op.downH e else y / Op.upH e
      else ys.flatMap fun y => (resizeTerms (Op.upH e) h y).map Prod.fst
  | _ => ys

/-- The rows of the stream input that some rows of a tensor read. -/
def Env.rowsRead (v : Env) : Nat → Nat → List Nat → List Nat
  | 0, _, _ => []
  | fuel + 1, t, ys =>
      if t = 0 then ys else
      match v.producer t with
      | none => []
      | some e =>
          let rs := ((v.rowsOf e ys).dedup)
          let here := Env.rowsRead v fuel ((Op.input e 0).getD 0) rs
          match Op.input e 1 with
          | none => here
          | some t1 =>
              let ys1 := if Op.opcode e = 0x0201 then
                  let (_, w, _) := v.dims t1
                  ((List.range (Op.mmN e)).map fun c => c / max 1 w).dedup
                else ys
              (here ++ Env.rowsRead v fuel t1 ys1).dedup

/-- The rows of the stream input that a job's owned outputs of an operator read. -/
def Env.rowsFor (v : Env) (o : Own) (t : Nat) : List Nat :=
  v.rowsRead (v.ops.length + 1) t (((v.owned o t).map Prod.fst).dedup)

/-! ### The result -/

/-- The operators of a model that run in stripe jobs, and those that do not. -/
def Image.stripeOps (i : Image) (model : Nat) : List Nat := (i.ops model).filter (· < i.firstReducing model)
def Image.tailOps (i : Image) (model : Nat) : List Nat := (i.ops model).filter (i.firstReducing model ≤ ·)

/-- A tensor of a model is cut into stripes. -/
def Image.stripeTensor (i : Image) (model t : Nat) : Bool :=
  t == 0 || (i.stripeOps model).any fun k => Op.out (i.op k) == t

/-- The cross-stripe reductions of a model over stripe tensors, of one opcode. -/
def Image.reductions (i : Image) (model opcode : Nat) : List Nat :=
  (i.tailOps model).filter fun k =>
    Op.opcode (i.op k) == opcode && i.stripeTensor model ((Op.input (i.op k) 0).getD 0)

/-- The rows of the stream input that what a job gives reads (R180), from the start of its segment. -/
def Env.readRows (v : Env) (i : Image) (model : Nat) (o : Own) : List Nat :=
  ((i.stripeOps model).flatMap (fun k => v.rowsFor o (Op.out (i.op k))) ++
    (i.reductions model 0x0105 ++ i.reductions model 0x0202).flatMap fun k =>
      v.rowsFor o ((Op.input (i.op k) 0).getD 0)).dedup

/-- Fetches a stripe job's input (R127): an uncorrectable granule of a line that some output reads is reported (R180),
and the references are given back. -/
def State.takeInput (s : State) (i : Image) (j : Job) : State :=
  match s.stream j.stream, s.jobInput j with
  | some x, some t =>
      let read := (s.jobEnv i j.model j.aux t).readRows i j.model (ownOf x j t)
      let s := (t.lines.filter fun l => read.contains (l.1 - t.segStart)).foldl (fun s l => s.touchLine j.stream l.1) s
      (s.updJob j.id fun y => { y with input := s.jobInput j }).releaseJob j.id
  | _, _ => s.releaseJob j.id

/-- The position of a line that a job read. -/
def InTensor.posOf (t : InTensor) (line : Nat) : Pos :=
  ((t.lines.find? fun l => l.1 == line).map fun l => l.2.1).getD 0

/-- The anchor line, the anchor column and the position of an output (R201). -/
def Env.anchored (v : Env) (t : InTensor) (out y x : Nat) : Anchor :=
  let n := v.ops.length + 1
  let line := t.segStart + v.anchor true n out y
  { line := line, col := v.anchor false n out x, pos := t.posOf line }

/-- The members of a job (R254): owned positions of DETECT_OP's OUT whose objectness reaches THRESHOLD. -/
def Env.members (v : Env) (t : InTensor) (o : Own) (r : Bytes) : List Anchor :=
  let e := v.img.op (PD.detectOp r)
  let out := Op.out e
  let limit := decodeEl 0x14 (PD.threshold r)
  ((v.owned o out).filter fun (y, x) =>
    let sc := decodeEl 0x14 (classScore (Op.desc e) (v.elem out y x 0).1).toNat
    !sc.isNan && !sc.less limit).map fun (y, x) => v.anchored t out y x

/-- The history rows of a job (R201). -/
def Env.histRows (v : Env) (t : InTensor) (o : Own) (k : Nat) : List HistRow :=
  let e := v.img.op k
  let a := (Op.input e 0).getD 0
  let b := (Op.input e 1).getD 0
  (v.owned o a).map fun (y, x) =>
    { op := k, anchor := v.anchored t a y x, key := (v.pos a y x).1, value := (v.pos b y x).1 }

/-- The status of a job: every output it owns, with what they are computed from; an operator with no
output rows in a segment sets ZERO_SIZE (R159, R179). -/
def Env.stripeStatus (v : Env) (o : Own) (ops : List Nat) : Nat :=
  ops.foldl (fun a k =>
    let t := Op.out (v.img.op k)
    let (h, w, _) := v.dims t
    let a := if h = some 0 ∨ w = 0 then a ||| Arith.zeroSize else a
    (v.owned o t).foldl (fun a p => a ||| (v.pos t p.1 p.2).2) a) 0

/-- Everything a stripe job gives once its last stage commits. -/
def State.stripeResult (s : State) (i : Image) (x : Stream) (j : Job) (t : InTensor) : JobResult :=
  let v := s.jobEnv i j.model j.aux t
  let o := ownOf x j t
  let ops := i.stripeOps j.model
  let pools := (i.reductions j.model 0x0105).map fun k =>
    let e := i.op k
    let (p, st) := v.partialOf e (v.owned o ((Op.input e 0).getD 0))
    (k, p, st)
  let hists := i.reductions j.model 0x0202
  let read := v.readRows i j.model o
  let bad := (t.lines.filter fun l => read.contains (l.1 - t.segStart)).map fun l => l.2.2
  let def' := (i.kindOf 9 1).find? fun r => byteAt r 1 == j.stream && PD.mode r == 2
  { partials := pools.map fun p => (p.1, p.2.1.1, p.2.1.2.1, p.2.1.2.2)
    hist := hists.flatMap fun k => v.histRows t o k
    members := match def' with
      | some r => if j.model = 0 then v.members t o r else []
      | none => []
    digests := ((i.taps j.model).filter fun k => ops.contains k).map fun k =>
      (k, (v.digest (i.op k) (v.owned o (Op.out (i.op k)))).1)
    arith := BitVec.ofNat 16 (pools.foldl (fun a p => a ||| p.2.2) (v.stripeStatus o ops))
    cause := firstCause bad }

end Sys2Proof.Machine
end

