-- ==== Sys2Proof/Machine/VerifyOwn.lean ====
section
/-! DEFINITION. Step 8 of verification, first pass (02_deurzor_image.md R58, R570): the content of
each section on its own, in ascending TYPE. A check is a pair: the condition under which it fails
and the code it then gives; checks are listed in the order R570 takes them. -/

namespace Sys2Proof.Machine

namespace Code
abbrev imageTarget : Nat := 0x23
abbrev imageResource : Nat := 0x24
abbrev imageKey : Nat := 0x25
abbrev imageNotStaged : Nat := 0x26
abbrev imageApplyPending : Nat := 0x28
abbrev imageState : Nat := 0x2A
abbrev overlayMismatch : Nat := 0x2B
abbrev overlaySequence : Nat := 0x2C
end Code

/-- Checks in order: what fails, and the code that gives. -/
abbrev Checks := List (Bool × Nat)

/-- The first check that fails (R570). -/
def Checks.fail (cs : Checks) : Option Nat := (cs.find? fun c => c.1).map Prod.snd

/-- Reserved bytes (R10). -/
def resv (e : Bytes) (l : List (Nat × Nat)) : Checks :=
  l.map fun x => (!allZero (bytesAt e x.1 x.2), Code.fieldReserved)

/-- All-ones encodings that R12 reserves. -/
def ones (e : Bytes) (l : List (Nat × Nat)) : Checks :=
  l.map fun x => (leAt e x.1 x.2 == 2 ^ (8 * x.2) - 1, Code.fieldReserved)

/-- Reserved bits of a field: everything from bit `lo` upwards (R10). -/
def resvBits (v lo : Nat) : Bool × Nat := (2 ^ lo ≤ v, Code.fieldReserved)

/-- What must hold, or the image is refused with IMAGE_FORMAT. -/
def need (b : Bool) : Bool × Nat := (!b, Code.imageFormat)

/-- What must lie within its container (R12). -/
def fits (b : Bool) : Bool × Nat := (!b, Code.lengthRange)

/-- What must exist. -/
def names (b : Bool) : Bool × Nat := (!b, Code.badIndex)

/-- An unsigned field's range (R43). -/
def rng (e : Bytes) (off n lo hi : Nat) : Bool × Nat :=
  need (lo ≤ leAt e off n && leAt e off n ≤ hi)

/-- A signed field's range. -/
def srng (e : Bytes) (off n : Nat) (lo hi : Int) : Bool × Nat :=
  need (lo ≤ sleAt e off n && sleAt e off n ≤ hi)

/-- A field's range, with one further value. -/
def rngOr (e : Bytes) (off n lo hi other : Nat) : Bool × Nat :=
  need (leAt e off n == other || (lo ≤ leAt e off n && leAt e off n ≤ hi))

/-- A field that its record does not use. -/
def unused (e : Bytes) (off n v : Nat) : Bool × Nat := need (leAt e off n == v)

/-- Whether an FP32 field is finite and within bounds (none: unbounded). -/
def fp32In (e : Bytes) (off : Nat) (lo hi : Option Rat) (openLo openHi : Bool) : Bool :=
  match decodeEl 0x14 (leAt e off 4) with
  | .fin s m =>
      let v : Rat := if s then -m else m
      (match lo with
        | some l => if openLo then l < v else l ≤ v
        | none => true) &&
      (match hi with
        | some h => if openHi then v < h else v ≤ h
        | none => true)
  | _ => false

/-! ### IDENT to STREAMS (R42 to R45) -/

def ownModes (b : Bytes) : Checks :=
  resv b [(2, 2), (8, 8)] ++ [rng b 0 1 0 2, rng b 1 1 0 1, rngOr b 4 4 100 100000 0]

/-- A stage's own fields (R44). FIRST_OP above LAST_OP is refused with IMAGE_FORMAT (DESIGN CHOICE,
notes/assumptions/146.md). -/
def ownStage (i : Nat) (e : Bytes) : Checks :=
  resvBits (byteAt e 3) 4 :: resv e [(0xD, 3)] ++
  [unused e 0 2 i, rng e 2 1 0 2, rng e 3 1 1 15, need (Stage.firstOp e ≤ Stage.lastOp e)]

/-- A resident set's own fields (R44). WEIGHT_FIRST above WEIGHT_LAST is refused with IMAGE_FORMAT (DESIGN CHOICE,
notes/assumptions/146.md). -/
def ownSet (i : Nat) (e : Bytes) : Checks :=
  resv e [(3, 1)] ++ ones e [(0xC, 4)] ++
  [unused e 0 1 i, rng e 1 1 0 3, rng e 2 1 0 1, need (RSet.weightFirst e ≤ RSet.weightLast e)]

/-- A section whose LENGTH its own counts imply: shorter is a count beyond its container (R12), longer
is refused with IMAGE_FORMAT (DESIGN CHOICE, notes/assumptions/146.md). -/
def exact (b : Bytes) (n : Nat) : Checks := [fits (n ≤ b.length), need (b.length == n)]

def ownFabric (b : Bytes) (count : Nat) : Checks :=
  let stages := leAt b 0 2
  let sets := leAt b 2 2
  resv b [(4, 12)] ++ ones b [(0, 2), (2, 2)] ++
  [rng b 0 2 1 4096, rng b 2 2 0 64, need (count == stages + sets)] ++
  exact b (16 + 16 * (stages + sets)) ++
  ((chunks 16 stages (b.drop 16)).zipIdx.flatMap fun x => ownStage x.2 x.1) ++
  ((chunks 16 sets (b.drop (16 + 16 * stages))).zipIdx.flatMap fun x => ownSet x.2 x.1)

/-- The DATA_TYPE codes of R79. -/
def dataTypeLegal (t : Nat) : Bool :=
  (1 ≤ t && t ≤ 5) || (t / 16 ∈ [1, 2, 3, 4] && 1 ≤ t % 16 && t % 16 ≤ 3 && t < 0x50)

def ownStream (e : Bytes) : Checks :=
  resv e [(0x27, 25)] ++ ones e [(2, 1), (8, 4), (0xC, 4), (0x10, 4), (0x18, 2), (0x1A, 2), (0x1C, 2), (0x1E, 2),
    (0x20, 2), (0x22, 2)] ++
  [rng e 0 1 0 63, rng e 1 1 0 31, rng e 2 1 1 8, need (dataTypeLegal (Strm.dataType e)),
   rng e 6 1 0 3, rng e 7 1 0 1, rng e 8 4 1 0xFFFFFFFE, rng e 0x18 2 1 64, rng e 0x1A 2 16 65534, rng e 0x1C 2 0 65534,
   rng e 0x1E 2 1 4096, rng e 0x20 2 0 1024, rng e 0x22 2 0 1024, rng e 0x24 1 0 2,
   rng e 0x25 1 0 7, rng e 0x26 1 0 2,
   need (Strm.portFirst e + Strm.portCount e ≤ 32),
   need (!(Strm.inLine e) || Strm.layout e == 0),
   need (Strm.haloCols e ≤ Strm.laneWidth e)]

def ownStreams (b : Bytes) (count : Nat) : Checks :=
  need (1 ≤ count && count ≤ 64) :: exact b (64 * count) ++
  (chunks 64 count b).flatMap ownStream

/-! ### LINEPIPE (R47, R110) -/

def ownPipeEntry (len : Nat) (e : Bytes) : Checks :=
  resv e [(6, 2), (0x10, 16)] ++ ones e [(3, 1), (4, 2), (8, 4), (0xC, 4)] ++
  [rng e 2 1 1 4, rng e 3 1 0 64, rng e 4 2 0 1024,
   need (Lp.tableOffset e % 64 == 0),
   need (Lp.function e 5 || Lp.binning e == 1),
   need (Lp.function e 3 || Lp.alignLines e == 0),
   need (Lp.function e 2 || Lp.defectCount e == 0),
   need (!(Lp.function e 3) || Lp.alignLines e != 0),
   fits (Lp.tableOffset e + Lp.tableLength e ≤ len)]

def ownPipeTable (t : Bytes) : Checks :=
  resvBits (byteAt t 0x21) 4 :: resv t [(0x26, 26)] ++
  [rng t 6 1 0 1, rng t 7 1 0 8, unused t 8 4 0, unused t 0x14 4 0, rng t 0x20 1 0 2,
   rng t 0x22 1 0 6, rng t 0x23 1 6 16, rng t 0x24 2 1 65535]

/-- The reserved bits and bytes of a stream's defect entries (R111). -/
def ownDefects (cfg e t : Bytes) : Checks :=
  let a := (lpArrays cfg e).2.1
  (List.range (if Lp.function e 2 then Lp.defectCount e else 0)).flatMap fun k =>
    resvBits (byteAt t (a + 4 * k + 2)) 3 :: resv t [(a + 4 * k + 3, 1)]

/-- The section on its own: the entries, then the tables in payload order. A table too short for its header is
left to the check of its length (R103). -/
def ownLinePipe (i : Image) (b : Bytes) (count : Nat) : Checks :=
  let es := chunks 32 count b
  fits (32 * count ≤ b.length) :: (es.flatMap (ownPipeEntry b.length)) ++
  ((es.mergeSort fun x y => Lp.tableOffset x ≤ Lp.tableOffset y).flatMap fun e =>
    if Lp.tableLength e < 64 then [] else
    let t := bytesAt b (Lp.tableOffset e) (Lp.tableLength e)
    ownPipeTable (t.take 64) ++ ((i.streamEntry (Lp.stream e)).map fun cfg => ownDefects cfg e t).getD [])

/-! ### GRAPH: one operator on its own (R48, R151, R170, R184, R185, R187, R197, R202, R207) -/

/-- A zero point in its format's range, or 0 for a floating-point format (R151). -/
def zeroIn (f : Nat) (z : Int) : Bool :=
  if fmtFloat f then z == 0 else (fmtRange f).1 ≤ z && z ≤ (fmtRange f).2

def actFormat (f : Nat) : Bool := fmtKnown f && f != 0x20

/-- The clamp bounds of R151, whether CLAMP_EN is set or not. -/
def clampOk (e : Bytes) : Bool :=
  let f := Op.par e 2 1
  if fmtFloat f then
    let lo := decodeEl 0x13 (Op.par e 0xC 2)
    let hi := decodeEl 0x13 (Op.par e 0xE 2)
    !lo.isNan && !hi.isNan && !(hi.less lo)
  else sleAt e (0x18 + 0xC) 2 ≤ sleAt e (0x18 + 0xE) 2

/-- The (activation, weight) pairs of R152. -/
def pairOk (a w : Nat) : Bool :=
  (a == 1 && (w == 1 || w == 2)) || ((a == 3 || a == 4) && (w == 3 || w == 1 || w == 2)) ||
  ((a == 0x10 || a == 0x11) && (w == 0x10 || w == 0x11)) || (a == 0x13 && w == 0x13) ||
  (a == 0x12 && w == 0x12)

/-- An activation format of R152. -/
def macAct (a : Nat) : Bool := [1, 3, 4, 0x10, 0x11, 0x12, 0x13].contains a

def opKnown (o : Nat) : Bool := (0x0101 ≤ o && o ≤ 0x0107) || (0x0201 ≤ o && o ≤ 0x0203)

/-- The reserved fields of an operator (R10, R12). -/
def opReserved (e : Bytes) : Checks :=
  let p (off n : Nat) := (0x18 + off, n)
  resvBits (leAt e 2 2) 3 :: resvBits (Op.par e 3 1) 2 ::
  (match Op.opcode e with
   | 0x0101 | 0x0102 | 0x0103 | 0x0104 => resvBits (Op.par e 0x17 1) 1 :: resv e [p 0x24 4] ++
       ones e [p 0x10 1, p 0x11 1, p 0x18 1, p 0x19 1, p 0x1A 1, p 0x1B 1, p 0x1E 2, p 0x20 2, p 0x22 2]
   | 0x0105 => resv e [p 0x11 23]
   | 0x0106 => resv e [p 0x11 1, p 0x16 18] ++ ones e [p 0x12 1, p 0x13 1, p 0x14 1, p 0x15 1]
   | 0x0107 => resv e [p 0x1C 12]
   | 0x0201 => resv e [p 0x17 17] ++ ones e [p 0x10 4, p 0x14 2]
   | 0x0202 => resv e [p 0x16 2, p 0x24 4] ++ ones e [p 0x11 1, p 0x12 2, p 0x14 2]
   | 0x0203 => resvBits (Op.par e 0x13 1) 2 :: resv e [p 0x22 2] ++ ones e [p 0x14 4]
   | _ => [])

/-- PAD_VALUE in IN0's range (R170, R176); an infinity is in the range of a format that has one
(notes/assumptions/133.md). -/
def padValueOk (e : Bytes) : Bool :=
  let f := Op.par e 0 1
  if Op.padMode e = 1 then
    if fmtFloat f then
      match decodeEl 0x13 (Op.padValue e) with
      | .nan => false
      | .inf _ => f != 0x10
      | .fin _ m => !(roundMag f m).2
    else
      let z := sleAt e (0x18 + 0x1C) 2
      (fmtRange f).1 ≤ z && z ≤ (fmtRange f).2
  else Op.padValue e == 0

/-- The PARAMS of an operator, opcode by opcode: ranges in ascending offset, then relations. -/
def opParams (e : Bytes) : Checks :=
  let p (off n lo hi : Nat) := rng e (0x18 + off) n lo hi
  let f0 := Op.par e 0 1
  let f1 := Op.par e 1 1
  let fo := Op.par e 2 1
  match Op.opcode e with
  | 0x0101 | 0x0102 | 0x0103 | 0x0104 =>
      let o := Op.opcode e
      [p 0x10 1 1 64, p 0x11 1 1 64, p 0x12 1 1 64, p 0x13 1 1 64, p 0x14 1 1 16, p 0x15 1 1 16,
       p 0x16 1 0 4, need (o == 0x0104 || !Op.countPad e), p 0x18 1 0 127, p 0x19 1 0 127,
       p 0x1A 1 0 127, p 0x1B 1 0 127, need (padValueOk e),
       (if o = 0x0102 then p 0x1E 2 2 65534 else p 0x1E 2 1 1), p 0x20 2 1 65534, p 0x22 2 1 65534,
       need (Op.padMode e != 4 ||
         (Op.padTop e + Op.padBottom e + Op.padLeft e + Op.padRight e == 0)),
       need (Op.inChannels e % Op.groups e == 0 && Op.outChannels e % Op.groups e == 0),
       need (o ≤ 0x0102 || Op.inChannels e == Op.outChannels e),
       need (o ≤ 0x0102 || (Op.weight e).isNone), need (!(o ≤ 0x0102) || (Op.weight e).isSome),
       need (o ≤ 0x0102 || macAct f0),
       need (0x0102 < o || Op.kh e * Op.kw e * (Op.inChannels e / Op.groups e) ≤ 16777216)]
  | 0x0105 => [p 0x10 1 0 2, need (Op.weight e).isNone]
  | 0x0106 =>
      [p 0x10 1 0 1, p 0x12 1 1 16, p 0x13 1 1 16, p 0x14 1 1 16, p 0x15 1 1 16,
       need (fo == f0), need (sleAt e 0x1C 2 == sleAt e 0x1E 2), unused e 0x20 4 0xFFFFFFFF,
       need (!bit (Op.par e 3 1) 0),
       need (Op.upH e == 1 || Op.downH e == 1), need (Op.upW e == 1 || Op.downW e == 1),
       need ((Op.downH e == 1 && Op.downW e == 1) || Op.resizeMode e == 0),
       need (Op.weight e).isNone]
  | 0x0107 =>
      let fn := Op.func e
      let binary : Bool := 1 ≤ fn && fn ≤ 5
      let vec : Bool := 0x11 ≤ fn && fn ≤ 0x1C
      [need (binary || (0x10 ≤ fn && fn ≤ 0x1D)), (if binary then p 0x11 1 0 1 else p 0x11 1 0 0),
       need (!binary || zeroIn (if Op.broadcast e then 7 else f1) (Op.in1Zero e) || fmtFloat f1),
       need (fp32In e (0x18 + 0x14) none none false false),
       need (fp32In e (0x18 + 0x18) none none false false),
       unused e 0x20 4 0xFFFFFFFF,
       need (!binary || Op.broadcast e || fmtFloat f0 == fmtFloat f1),
       need (!(binary && fmtFloat f0) ||
         (Op.par e 0x14 4 == 0x3F800000 && Op.par e 0x18 4 == 0x3F800000)),
       need (!vec || ((f0 == 0x14 || f0 == 0x13) && fo == f0)),
       need (fn != 0x1D || f0 == 3 || f0 == 4),
       need ((Op.weight e).isSome == (fn == 0x1D || (binary && Op.broadcast e)))]
  | 0x0201 =>
      [p 0x10 4 1 16777216, p 0x14 2 1 65534, p 0x16 1 0 1,
       need ((Op.weight e).isSome == !(Op.mmFromIn1 e)), need (!(Op.mmFromIn1 e) || pairOk f0 f1)]
  | 0x0202 =>
      [need ([3, 0x10, 0x11, 0x13].contains f0), need ([0x10, 0x11, 0x13].contains f1),
       need (fo == f0), need (sleAt e 0x1C 2 == 0), unused e 0x20 4 0xFFFFFFFF,
       need (!bit (Op.par e 3 1) 0), p 0x10 1 0 63, p 0x11 1 6 18, p 0x12 2 1 1024, p 0x14 2 1 1024,
       need (Op.weight e).isNone]
  | 0x0203 =>
      [p 0x10 1 0 63, p 0x11 1 0 1, need ([0x10, 0x11, 0x13].contains (Op.haPFormat e)),
       p 0x14 4 1 0xFFFFFFFE,
       need (Op.haWindow e == 1 || (Op.haLagMin e == 0 && Op.haLagMax e == 0)),
       need (fp32In e (0x18 + 0x24) (some 0) none true false),
       need (Op.haLagMin e ≤ Op.haLagMax e), need (Op.weight e).isNone]
  | _ => []

/-- The inputs an operator has (R169, R196). -/
def opInputs (e : Bytes) : Nat :=
  match Op.opcode e with
  | 0x0107 => if 1 ≤ Op.func e && Op.func e ≤ 5 && !Op.broadcast e then 2 else 1
  | 0x0201 => if Op.mmFromIn1 e then 2 else 1
  | 0x0202 => 2
  | _ => 1

def ownOp (e : Bytes) : Checks :=
  let f0 := Op.par e 0 1
  let f1 := Op.par e 1 1
  let fo := Op.par e 2 1
  let o := Op.opcode e
  opReserved e ++
  [need (opKnown o), need (Op.reduces e == (o == 0x0105 || o == 0x0202)),
   need ((Op.input e 0).isSome), need ((Op.input e 1).isSome == decide (2 ≤ opInputs e)),
   need (Op.input e 2).isNone, need (Op.out e != 0),
   need (actFormat f0), need (f1 == 0xFF || actFormat f1),
   need ((f1 == 0xFF) == decide (opInputs e < 2)), need (actFormat fo && fo != 2),
   need (!bit (Op.par e 3 1) 1 || (fmtFloat fo && fo != 0x10)),
   need (zeroIn f0 (sleAt e 0x1C 2)), need (zeroIn fo (sleAt e 0x1E 2)), need (clampOk e)] ++
  opParams e

def ownModel (e : Bytes) : Checks :=
  resv e [(2, 2), (0x18, 8)] ++ ones e [(1, 1), (8, 4), (0x14, 4)] ++
  [rng e 0 1 0 2, rng e 1 1 0 16, need (Mdl.kind e != 2 || Mdl.opCount e == 0)]

def ownGraph (b : Bytes) (count : Nat) : Checks :=
  let n := byteAt b 0
  resv b [(1, 15)] ++ ones b [(0, 1)] ++ rng b 0 1 1 3 :: exact b (16 + 32 * n + 64 * count) ++
  ((chunks 32 n (b.drop 16)).flatMap ownModel) ++
  ((chunks 64 count (b.drop (16 + 32 * n))).flatMap ownOp)

/-! ### SCHEDULE and WEIGHTS (R50, R51, R149) -/

def ownProgram (b e : Bytes) : Checks :=
  resv e [(0x18, 8)] ++ ones e [(4, 4), (8, 4), (0xC, 4)] ++
  [rng e 0 1 0 3, rng e 1 1 0 2, need (leAt e 4 4 % 64 == 0),
   fits (leAt e 4 4 + leAt e 8 4 ≤ b.length),
   need (Config.opcodesDefined (byteAt e 0) (bytesAt b (leAt e 4 4) (leAt e 8 4)))]

def ownSchedule (b : Bytes) (count : Nat) : Checks :=
  resv b [(8, 8)] ++ ones b [(4, 4)] ++
  [(leAt b 0 4 != 0x96400A00, Code.imageTarget), need (leAt b 4 4 == count),
   fits (16 + 32 * count ≤ b.length)] ++
  (chunks 32 count (b.drop 16)).flatMap (ownProgram b)

/-- DATA_LENGTH that FORMAT and ELEMENTS imply (R149). -/
def weightSize (f n : Nat) : Nat :=
  match f with
  | 1 => (n + 1) / 2
  | 2 => n / 2 + n / 32
  | 0x20 => 16 * n
  | _ => n * fmtBits f / 8

/-- What a QTAB entry may hold on its own (R150, R168). -/
def qtabEntry (e : Bytes) : Checks :=
  resv e [(8, 4), (0xC, 4)] ++ [need (fp32In e 4 none none false false)]

def ownWeight (b e : Bytes) : Checks :=
  let data := bytesAt b (Wt.dataOffset e) (Wt.dataLength e)
  resvBits (byteAt e 1) 1 :: resv e [(2, 2), (0x1C, 4)] ++
  ones e [(4, 4), (8, 8), (0x10, 8)] ++
  [need (fmtKnown (Wt.format e)), need (Wt.dataOffset e % 64 == 0),
   need (Wt.format e != 2 || Wt.elements e % 32 == 0),
   need (Wt.dataLength e == weightSize (Wt.format e) (Wt.elements e)),
   fits (Wt.dataOffset e + Wt.dataLength e ≤ b.length),
   need (!Wt.trainable e || [3, 0x10, 0x11, 0x12, 0x13].contains (Wt.format e))] ++
  (if Wt.format e = 0x20 then (chunks 16 (Wt.elements e) data).flatMap qtabEntry else []) ++
  [need (crc32 data == leAt e 0x18 4)]

def ownWeights (b : Bytes) (count : Nat) : Checks :=
  fits (32 * count ≤ b.length) :: (chunks 32 count b).flatMap (ownWeight b)

/-! ### VERDICT (R251, R259, R262, R266) -/

def ownPartDef (r : Bytes) : Checks :=
  let m := byteAt r 4
  resv r [(7, 1), (0x3B, 5)] ++
  ones r [(0xC, 4), (0x10, 4), (0x1C, 2), (0x1E, 2), (0x20, 4), (0x24, 4)] ++
  [rng r 1 1 0 63, rng r 4 1 0 2,
   (if m = 0 then rng r 5 1 0 31 else unused r 5 1 0xFF),
   (if m = 0 then rng r 6 1 0 1 else unused r 6 1 0),
   need (m == 0 || leAt r 8 4 == 0),
   (if m = 0 then rng r 0xC 4 1 (2 ^ 31 - 1) else unused r 0xC 4 0),
   (if m = 1 then rng r 0x10 4 1 (2 ^ 24) else unused r 0x10 4 0),
   need ((m == 2) == (leAt r 0x14 4 != 0xFFFFFFFF)),
   (if m = 2 then need (fp32In r 0x18 none none false false) else unused r 0x18 4 0),
   (if m = 2 then rng r 0x1C 2 0 4096 else unused r 0x1C 2 0),
   (if m = 2 then rng r 0x1E 2 0 4096 else unused r 0x1E 2 0),
   rng r 0x20 4 0 (2 ^ 31 - 1), rng r 0x24 4 0 (2 ^ 24)] ++
  ((List.range 16).map fun v => rngOr r (0x28 + v) 1 0 63 0xFF) ++
  [rng r 0x38 1 0 2, (if byteAt r 0x38 = 0 then unused r 0x39 1 0xFF else rng r 0x39 1 0 23),
   need (byteAt r 0x38 != 1 || byteAt r 0x3A ≤ 7), need (byteAt r 0x38 != 2 || byteAt r 0x3A ≤ 63)]

def ownJoin (r : Bytes) : Checks :=
  let n := byteAt r 5
  resv r [(7, 1)] ++ ones r [(5, 1), (6, 1)] ++
  ((List.range 8).flatMap fun v =>
    resv r [if v < n then (0x0E + 7 * v, 1) else (0x08 + 7 * v, 7)]) ++
  [rng r 1 1 0 63, rng r 4 1 0 2, rng r 5 1 1 8, rng r 6 1 2 16] ++
  ((List.range (min n 8)).flatMap fun v =>
    [rng r (0x08 + 7 * v) 1 0 63, rngOr r (0x09 + 7 * v) 1 0 23 0xFF]) ++
  [need (byteAt r 8 == byteAt r 1)]

def ownDefaults (r : Bytes) : Checks :=
  resv r [(7, 57)] ++ [rng r 1 1 0 63, rng r 4 1 0 15, rng r 5 1 0 15, rng r 6 1 0 15]

def ownCaptureRule (r : Bytes) : Checks :=
  resvBits (byteAt r 5) 5 :: resv r [(0x1C, 36)] ++ ones r [(0xC, 4), (0x18, 2), (0x1A, 2)] ++
  [rng r 1 1 0 15, rng r 4 1 0 63, rng r 5 1 1 31, rng r 6 1 1 255, rng r 7 1 0 7,
   need (fp32In r 8 (some 0) none false false), rng r 0xC 4 1 (2 ^ 24), rng r 0x18 2 0 1024,
   rng r 0x1A 2 0 4096]

/-! ### EJECT (R293, R295, R297, R296) -/

def ownRecipe (r : Bytes) : Checks :=
  let src := byteAt r 4
  let n := byteAt r 6
  resv r ([(7, 1)] ++ ((List.range 4).map fun i => (0x19 + 8 * i, 3)) ++ [(0x34, 12)]) ++
  ones r [(6, 1), (0x10, 4)] ++
  [rng r 1 1 0 63, rng r 4 1 0 1, (if src = 1 then rng r 5 1 0 15 else unused r 5 1 0xFF),
   rng r 6 1 1 4, need ((src == 0) == (leAt r 8 8 != 0)), rng r 0x10 4 0 (2 ^ 24)] ++
  ((List.range 4).flatMap fun i =>
    if i < n then [rng r (0x18 + 8 * i) 1 0 15] else [unused r (0x14 + 8 * i) 5 0])

def ownValveMap (r : Bytes) : Checks :=
  resv r [(0x15, 43)] ++ ones r [(5, 1), (6, 1)] ++
  [rng r 1 1 0 15, rng r 4 1 0 63, rng r 5 1 1 64, rng r 6 1 0 7, rng r 7 1 0 1,
   rng r 0xC 4 0x100 0xFFFFFFFF, rng r 0x14 1 0 1, need (byteAt r 4 + byteAt r 5 ≤ 64),
   need (2 * leAt r 0x10 4 < leAt r 0xC 4)]

def ownShape (r : Bytes) : Checks :=
  let timed := byteAt r 4 == 0
  let peak := leAt r 8 4
  resv r [(6, 2), (0x1C, 36)] ++
  [rng r 1 1 0 15, rng r 4 1 0 1, rng r 8 4 0 2000000,
   need (!timed || (peak ≤ leAt r 0xC 4 && leAt r 0xC 4 ≤ 100000000)),
   need (timed || 0x100 ≤ leAt r 0x10 4),
   need (timed || (peak ≤ leAt r 0x14 4 && leAt r 0x14 4 ≤ 100000000)), rng r 0x18 4 0 1000000]

def ownLead (r : Bytes) : Checks :=
  resv r [(8, 56)] ++ ones r [(4, 4)] ++ [rng r 1 1 0 63, rng r 4 4 0 100000000]

/-! ### MOTION (R279, R287, R290) -/

def ownEncoder (r : Bytes) : Checks :=
  let t := byteAt r 4
  let incr : Bool := t == 1 || t == 2
  let bits := byteAt r 9 + b2n (byteAt r 0xB != 0) + byteAt r 0xE + 1
  let khz := leAt r 0xC 2
  resv r [(0x1D, 3), (0x24, 28)] ++ ones r [(7, 1), (9, 1), (0xE, 1), (0x1C, 1), (0x20, 4)] ++
  [rng r 1 1 0 7, rng r 4 1 0 3] ++
  (if incr then
    [rng r 5 1 0 1, need ([1, 2, 4].contains (byteAt r 6)), rng r 7 1 0 63, rng r 8 1 0 8,
     need (allZero (bytesAt r 9 20))]
  else if t = 3 then
    [rng r 5 1 0 1, unused r 6 1 0, unused r 7 1 0, rng r 8 1 0 8, rng r 9 1 8 32, rng r 0xA 1 0 1,
     rng r 0xB 1 0 2, rng r 0xC 2 100 4000, rngOr r 0xE 1 3 16 0, rng r 0xF 1 0 1,
     rng r 0x14 2 5 1000, rng r 0x16 1 1 100, rng r 0x17 1 1 100, rng r 0x18 4 1 (2 ^ 24),
     rng r 0x1C 1 1 16, unused r 0x20 4 0,
     need (bits * 1000 + byteAt r 0x16 * khz ≤ leAt r 0x14 2 * khz)]
  else [need (allZero (bytesAt r 5 24)), unused r 0x20 4 0])

def ownDivider (r : Bytes) : Checks :=
  resv r [(6, 2), (0x1C, 36)] ++ ones r [(8, 4), (0xC, 4)] ++
  [rng r 1 1 0 7, rng r 4 1 0 7, rngOr r 5 1 0 63 0xFF, rng r 8 4 0x100 0xFFFFFFFE,
   rng r 0xC 4 0 1000000000,
   (if byteAt r 5 = 0xFF then unused r 0x10 4 0 else rng r 0x10 4 100 1000000)]

def ownLineMap (r : Bytes) : Checks :=
  resv r [(5, 59)] ++ [rng r 1 1 0 7, rng r 4 1 12 24]

/-! ### FIELD (R482) and TIME (R387, R385) -/

def ownInput (r : Bytes) : Checks :=
  resv r [(9, 55)] ++ ones r [(6, 2)] ++
  [rng r 1 1 0 31, need (byteAt r 4 == 1 || byteAt r 4 == 3), rng r 5 1 0 1, rngOr r 8 1 0 7 0xFF]

def ownOutput (r : Bytes) : Checks :=
  resv r [(7, 1), (0xA, 54)] ++
  [rng r 1 1 0 63, rng r 4 1 0 3, rng r 5 1 0 1, rng r 6 1 0 1, rng r 8 2 50 600]

def ownOutGroup (r : Bytes) : Checks :=
  resv r [(6, 58)] ++ [rng r 1 1 0 7, rng r 4 2 100 4000]

def ownCounter (r : Bytes) : Checks :=
  resv r [(8, 56)] ++ [rng r 1 1 0 3, rng r 4 1 0 31, rng r 5 1 0 2, rng r 6 2 1 1000]

def ownTimeBase (r : Bytes) : Checks :=
  let b := byteAt r 1
  let pps : Bool := b == 3 && byteAt r 5 == 1
  resv r [(0x1C, 36)] ++
  [rng r 1 1 0 3, rng r 4 1 0 1, rng r 5 1 0 (if b = 0 || b = 3 then 1 else 0), rng r 6 1 0 1,
   (if pps then rng r 7 1 0 1 else unused r 7 1 0), rngOr r 8 4 1000 1000000000 0,
   need (fp32In r 0xC (some 0) (some 4) false false),
   need (fp32In r 0x10 (some 0) (some 4) false false), rngOr r 0x14 4 10 900 0,
   (if pps then rng r 0x18 4 0 1000000 else unused r 0x18 4 0),
   need (b != 1 || (byteAt r 4 == 1 && allZero (bytesAt r 5 23)))]

def ownPtp (r : Bytes) : Checks :=
  resvBits (byteAt r 0x14) 2 :: resv r [(0x15, 43)] ++
  [unused r 1 1 0, rng r 4 1 0 3, rng r 5 1 0 1, rng r 6 1 0 1, rng r 7 1 0 127, srng r 8 1 (-7) 1,
   srng r 9 1 (-3) 4, srng r 0xA 1 (-7) 5, rng r 0xD 1 6 255, rng r 0xE 1 0 1, rng r 0xF 1 0 1,
   rng r 0x14 1 1 3]

/-! ### ADAPT (R325, R337, R346, R359) -/

def ownLibrary (r : Bytes) : Checks :=
  let host := byteAt r 4 == 1
  let data := leAt r 8 8
  resv r [(0x16, 2), (0x20, 32)] ++ ones r [(8, 8), (0x10, 4)] ++
  [rng r 1 1 0 7, rng r 4 1 0 1, rng r 5 1 0 (b2n host), rng r 6 1 10 20, rng r 7 1 1 100,
   need (if host then data == 0 else data % 65536 == 0 && 2 ^ 20 ≤ data),
   rng r 0x10 4 4096 (2 ^ 28), rng r 0x14 1 0 1, rng r 0x15 1 0 4]

def ownDecodeLimits (r : Bytes) : Checks :=
  resv r [(9, 3), (0x14, 44)] ++ ones r [(4, 2), (6, 2), (0xC, 4), (0x10, 4)] ++
  [unused r 1 1 0, rngOr r 4 2 8 16384 0, rngOr r 6 2 8 16384 0, rngOr r 8 1 2 64 0,
   rngOr r 0xC 4 1024 (2 ^ 31) 0, rngOr r 0x10 4 16 65535 0]

def ownJob (r : Bytes) : Checks :=
  let adam := byteAt r 4 == 1
  resvBits (byteAt r 6) 4 :: resv r [(9, 1)] ++ ones r [(8, 1), (0xE, 2), (0x10, 4), (0x28, 4), (0x2C, 2), (0x2E, 2)] ++
  [rng r 1 1 0 31, rng r 4 1 0 1, rng r 5 1 0 1, rng r 7 1 1 255, rng r 8 1 1 4, rng r 0xE 2 1 4096,
   rng r 0x10 4 1 (2 ^ 32 - 2), need (fp32In r 0x14 (some 0) none true false),
   need (fp32In r 0x18 (some 0) (some 1) false true),
   (if adam then need (fp32In r 0x1C (some 0) (some 1) false true) else unused r 0x1C 4 0),
   (if adam then need (fp32In r 0x20 (some 0) none true false) else unused r 0x20 4 0),
   need (fp32In r 0x24 (some 0) none false false), rng r 0x28 4 0 (2 ^ 24), rng r 0x2C 2 0 16384,
   rng r 0x2E 2 0 16384, need (fp32In r 0x30 (some 0) (some 1) false true),
   need (fp32In r 0x34 (some 0) none false false), need (leAt r 0xA 2 ≤ leAt r 0xC 2)]

def ownShadow (r : Bytes) : Checks :=
  resv r [(6, 2), (0x14, 44)] ++ ones r [(8, 4)] ++
  [rng r 1 1 0 63, rng r 4 1 0 31, rng r 5 1 0 1, rng r 8 4 1 (2 ^ 24), rng r 0x10 4 1 60000]

/-! ### Record sections and GROUP -/

/-- One record of a section by its KIND (R52). -/
def ownRecord (t : Nat) (r : Bytes) : Checks :=
  resv r [(2, 2)] ++
  (match t, byteAt r 0 with
   | 9, 1 => ownPartDef r
   | 9, 2 => ownJoin r
   | 9, 3 => ownDefaults r
   | 9, 4 => ownCaptureRule r
   | 10, 1 => ownRecipe r
   | 10, 2 => ownValveMap r
   | 10, 3 => ownShape r
   | 10, 4 => ownLead r
   | 11, 1 => ownEncoder r
   | 11, 2 => ownDivider r
   | 11, 3 => ownLineMap r
   | 12, 1 => ownInput r
   | 12, 2 => ownOutput r
   | 12, 3 => ownOutGroup r
   | 12, 4 => ownCounter r
   | 13, 1 => ownTimeBase r
   | 13, 2 => ownPtp r
   | 15, 1 => ownLibrary r
   | 15, 2 => ownDecodeLimits r
   | 15, 3 => ownJob r
   | 15, 4 => ownShadow r
   | _, _ => [need false])

def ownRecords (t : Nat) (b : Bytes) (count : Nat) : Checks :=
  exact b (64 * count) ++ (chunks 64 count b).flatMap (ownRecord t)

/-- A strip entry (R381). -/
def ownStrip (g e : Bytes) : Checks :=
  if byteAt e 0 = 0xFF then [need (allZero (bytesAt e 1 7))] else
  resv e [(7, 1)] ++ ones e [(4, 2)] ++
  [need (byteAt e 0 < byteAt g 1 && byteAt e 0 != byteAt g 0), rng e 1 1 0 63, rng e 4 2 1 4096,
   rng e 6 1 8 16]

/-- GROUP (R53, R372). -/
def ownGroup (b : Bytes) (count : Nat) : Checks :=
  if b.isEmpty then [need (count == 0)] else
  exact b 64 ++ need (count == 1) :: resv b [(0x19, 3), (0x35, 11)] ++ ones b [(1, 1)] ++
  [rng b 0 1 0 23, rng b 1 1 1 24, rng b 0x18 1 0 7, rng b 0x1C 4 1 0xFFFFFFFF] ++
  ownStrip b (bytesAt b 0x24 8) ++ ownStrip b (bytesAt b 0x2C 8) ++
  [rng b 0x34 1 0 6, need (byteAt b 0 < byteAt b 1),
   need (byteAt b 0 != 0 || (leAt b 0x1C 4 == 0x01000000 && leAt b 0x20 4 == 0))]

/-- Every section on its own, in ascending TYPE (R570). -/
def ownChecks (i : Image) : Checks :=
  ownModes (i.sec 2) ++ ownFabric (i.sec 3) (i.cnt 3) ++ ownStreams (i.sec 4) (i.cnt 4) ++
  ownLinePipe i (i.sec 5) (i.cnt 5) ++ ownGraph (i.sec 6) (i.cnt 6) ++
  ownSchedule (i.sec 7) (i.cnt 7) ++ ownWeights (i.sec 8) (i.cnt 8) ++
  ([9, 10, 11, 12, 13].flatMap fun t => ownRecords t (i.sec t) (i.cnt t)) ++
  ownGroup (i.sec 14) (i.cnt 14) ++ ownRecords 15 (i.sec 15) (i.cnt 15)

end Sys2Proof.Machine
end

