-- ==== Sys2Proof/Machine/VerifyRefs.lean ====
section
/-! DEFINITION. Step 8 of verification, second pass (02_deurzor_image.md R570): references and
conditions that involve more than one entry, record, operator or section, in ascending TYPE of the
section that holds the referring field and in payload order within it. -/

namespace Sys2Proof.Machine

/-! ### What an image holds -/

def Image.hasStream (i : Image) (n : Nat) : Bool := (i.streamEntry n).isSome
def Image.hasRecord (i : Image) (t kind index : Nat) : Bool := (i.record t kind index).isSome
def Image.encoderOf (i : Image) (n : Nat) : Nat := ((i.streamEntry n).map Strm.encoder).getD 0

/-- The streams whose tensors a model serves: the views of its STREAM_MASK. -/
def Mdl.views (m : Bytes) : List Nat := (List.range 64).filter (bit (Mdl.streamMask m))

/-- An operator with its weights, as R347 and R171 look at them. -/
def Image.wt (i : Image) (o : Bytes) : Bytes := i.weight ((Op.weight o).getD 0)

/-! ### FABRIC (R44, R234) -/

def refStage (i : Image) (e : Bytes) : Checks :=
  let m := Stage.model e
  let ops := i.ops m
  let first := Stage.firstOp e
  let last := Stage.lastOp e
  [need ((i.model m).isSome), names (first < i.cnt 6), names (last < i.cnt 6),
   need (ops.contains first && ops.contains last),
   need (last < i.firstReducing m || i.firstReducing m ≤ first),
   names (Stage.set e == 0xFF || Stage.set e < i.setCount),
   need (2 ≤ m || (i.stageWeights e).isEmpty ||
     (RSet.pinned (i.set (Stage.set e)) && Stage.set e != 0xFF && i.covers (i.set (Stage.set e)) e))]

def refSet (i : Image) (e : Bytes) : Checks :=
  [names (RSet.weightFirst e < i.cnt 8), names (RSet.weightLast e < i.cnt 8)]

/-! ### STREAMS: paths from the stream input (R126, R174) -/

/-- A path from the stream input to a tensor: the scale of R174 in both directions, the products of
the strides, and the summed margins before, after, left and right. -/
structure Path where
  v : Rat := 1
  h : Rat := 1
  strideV : Nat := 1
  strideH : Nat := 1
  before : Nat := 0
  after : Nat := 0
  left : Nat := 0
  right : Nat := 0
  deriving DecidableEq, Repr

/-- The reach of an operator (R174): before, after, left, right. -/
def opReach (e : Bytes) : Nat × Nat × Nat × Nat :=
  if Op.windowed e then
    (Op.padTop e, Op.dilH e * (Op.kh e - 1) - Op.padTop e,
     Op.padLeft e, Op.dilW e * (Op.kw e - 1) - Op.padLeft e)
  else if Op.opcode e = 0x0106 && Op.resizeMode e == 1 then (1, 1, 1, 1) else (0, 0, 0, 0)

/-- A margin in stream lines or columns, rounded up. -/
def marginOf (r : Nat) (scale : Rat) : Nat := ((r : Rat) * scale).ceil.toNat

/-- A path extended by an operator. -/
def Path.through (p : Path) (e : Bytes) : Path :=
  let (b, a, l, r) := opReach e
  let (sv, sh) := if Op.windowed e then (Op.strideH e, Op.strideW e) else (1, 1)
  let (dv, dh, uv, uh) := if Op.opcode e = 0x0106 then (Op.downH e, Op.downW e, Op.upH e, Op.upW e)
    else (1, 1, 1, 1)
  { v := p.v * sv * dv / uv, h := p.h * sh * dh / uh,
    strideV := p.strideV * sv, strideH := p.strideH * sh,
    before := p.before + marginOf b p.v, after := p.after + marginOf a p.v,
    left := p.left + marginOf l p.h, right := p.right + marginOf r p.h }

/-- The paths to every tensor that stripe jobs compute, operators in ascending index. -/
def Image.paths (i : Image) (model : Nat) : List (Nat × Path) :=
  (i.stripeOps model).foldl (init := [(0, {})]) fun (acc : List (Nat × Path)) k =>
    let e := i.op k
    let ins := (Op.input e 0).toList ++ (Op.input e 1).toList
    let new : List (Nat × Path) := (acc.filter fun x => ins.contains x.1).map fun x =>
      (Op.out e, x.2.through e)
    acc ++ new.dedup

/-- The lane and stripe fields of a stream against its models (R126). -/
def refStream (i : Image) (e : Bytes) : Checks :=
  let n := Strm.stream e
  let ps := (i.models.filter fun m => bit (Mdl.streamMask m) n).flatMap fun m =>
    (i.paths (Mdl.kind m)).map Prod.snd
  [need (Strm.lanes e * Strm.laneWidth e * lpBinning (i.linePipe n) == Strm.width e),
   need (ps.all fun p => Strm.stripeRows e % max 1 p.strideV == 0 &&
     Strm.laneWidth e % max 1 p.strideH == 0),
   need (ps.all fun p => p.before ≤ Strm.haloBefore e && p.after ≤ Strm.haloAfter e &&
     p.left ≤ Strm.haloCols e && p.right ≤ Strm.haloCols e)]

/-! ### LINEPIPE (R103, R110, R111) -/

/-- Defect entries strictly ascending by column and component: an entry of a column that an earlier one names
names components above that one's (R103). -/
def ascending : List (Nat × Nat) → Bool
  | a :: b :: rest =>
      (a.1 < b.1 || a.1 == b.1 && (List.range 8).all fun c => !bit b.2 c || a.2 < 2 ^ c) && ascending (b :: rest)
  | _ => true

def refPipe (i : Image) (earlier : List Bytes) (e : Bytes) : Checks :=
  let t := bytesAt (i.sec 5) (Lp.tableOffset e) (Lp.tableLength e)
  match i.streamEntry (Lp.stream e) with
  | none => [names false]
  | some cfg =>
      let comps := Strm.comps cfg
      let ds := defects cfg e t
      [need (!(earlier.any fun x => Lp.stream x == Lp.stream e)),
       need (Strm.width cfg % max 1 (Lp.binning e) == 0),
       need (!(Lp.function e 3 && comps == 1)),
       need (ascending ds && ds.all fun d => d.1 < Strm.width cfg),
       need (Lp.tableLength e == (lpArrays cfg e).2.2.2),
       need ((List.range 3).all fun c => c < comps || LpT.black t c == 0)]

/-! ### GRAPH (R48, R569, R49, R152, R168, R171, R178, R179, R183, R196 to R213, R258, R347) -/

/-- The evaluation environment of a view, as far as shapes need it. -/
def Image.shapeEnv (i : Image) (model stream : Nat) : Env :=
  let cfg := (i.streamEntry stream).getD []
  { img := i, ops := i.ops model, weight := fun _ => [],
    fmt := if corrElem cfg (i.linePipe stream) = 1 then 4 else 6, row0 := 0, col0 := 0, rows := [],
    extH := none, extW := Strm.width cfg / lpBinning (i.linePipe stream),
    channels := Strm.comps cfg, fixed := [] }

/-- The HIST_WRITE of a stream. -/
def Image.histOp (i : Image) (stream : Nat) : Option Bytes :=
  ((i.ops 0).map i.op).find? fun e => Op.opcode e == 0x0202 && Op.hwStream e == stream

/-- The output channels of an operator, which its QTAB gives one entry each (R150). -/
def Image.outChans (i : Image) (v : Env) (e : Bytes) : Nat :=
  match Op.opcode e with
  | 0x0203 => ((i.histOp (Op.haStream e)).map Op.hwValueDim).getD 0
  | _ => (v.dims (Op.out e)).2.2

/-- The BIAS of an operator is an integer: its accumulator is one (R152); that of HIST_ATTEND is FP32 (R209). -/
def intAcc (e : Bytes) : Bool := fmtInt (Op.par e 0 1) && Op.opcode e != 0x0203

/-- The QTAB of an operator (R150, R168, R183). -/
def refQtab (i : Image) (vs : List Env) (e : Bytes) : Checks :=
  let q := Op.par e 8 4
  if q = 0xFFFFFFFF then [] else
  let w := i.weight q
  let data := i.weightData q
  [names (q < i.cnt 8), need (Wt.format w == 0x20),
   need (vs.all fun v => Wt.elements w == i.outChans v e),
   need (intAcc e || (List.range (Wt.elements w)).all fun c =>
     fp32In data (16 * c) none none false false),
   need (Op.opcode e != 0x0104 || (List.range (Wt.elements w)).all fun c =>
     allZero (bytesAt data (16 * c) 4) || (!intAcc e && leAt data (16 * c) 4 == 0x80000000))]

/-- Reflect padding and output size where the extent is known (R178, R179). -/
def extentOk (e : Bytes) (ext : Option Nat) (k s d pb pa : Nat) : Bool :=
  match ext with
  | none => true
  | some n => (Op.padMode e != 3 || (pb < n && pa < n)) && windowSize n k s d pb pa != 0

/-- The window checks of one view: sizes across the width, and along the web in the tail. -/
def windowOk (v : Env) (e : Bytes) : Bool :=
  let src := (Op.input e 0).getD 0
  let (h, w, _) := v.dims src
  extentOk e (if v.openWidth src then none else some w) (Op.kw e) (Op.strideW e) (Op.dilW e) (Op.padLeft e) (Op.padRight e) &&
  extentOk e h (Op.kh e) (Op.strideH e) (Op.dilH e) (Op.padTop e) (Op.padBottom e)

/-- Reflect or replicate padding along the web stays inside the stripe's read range (R178). -/
def webPadOk (i : Image) (model : Nat) (streams : List Nat) (e : Bytes) : Bool :=
  if Op.windowed e && (Op.padMode e == 2 || Op.padMode e == 3) then
    let (b, a, _, _) := opReach e
    let src := (Op.input e 0).getD 0
    ((i.paths model).filter fun p => p.1 == src).all fun p => streams.all fun n =>
      let rows := ((i.streamEntry n).map Strm.stripeRows).getD 0
      (Op.padTop e == 0 || marginOf b p.2.v < rows) && (Op.padBottom e == 0 || marginOf a p.2.v < rows)
  else true

/-- Filter elements (R171, R149) and formats (R152). -/
def refWeight (i : Image) (e : Bytes) : Checks :=
  match Op.weight e with
  | none => [need (!(Op.trainable e))]
  | some k =>
      let w := i.weight k
      let n := Wt.elements w
      let per := match Op.opcode e with
        | 0x0201 => Op.mmK e
        | _ => Op.kh e * Op.kw e * (Op.inChannels e / Op.groups e)
      let outs := if Op.opcode e = 0x0201 then Op.mmN e else Op.outChannels e
      let per' := if Wt.format w = 2 then roundUp per 32 else per
      [names (k < i.cnt 8), need (Op.trainable e == Wt.trainable w)] ++
      (match Op.opcode e with
       | 0x0101 | 0x0102 | 0x0201 =>
           [need (n == outs * per'), need (pairOk (Op.par e 0 1) (Wt.format w))]
       | 0x0107 =>
           if Op.func e = 0x1D then
             [need (n == 256 && Wt.format w == Op.par e 2 1), need (!(Wt.trainable w))]
           else [need (fmtFloat (Op.par e 0 1) == fmtFloat (Wt.format w)), need (!(Wt.trainable w))]
       | _ => [])

/-- Two stripe tensors have the same rows whatever the segment's length: as far as twice STRIPE_ROWS beyond the halos, from
where the rows of both grow alike (R213, R126). -/
def Env.sameRows (v : Env) (i : Image) (stream a b : Nat) : Bool :=
  let cfg := (i.streamEntry stream).getD []
  (List.range (2 * Strm.stripeRows cfg + Strm.haloBefore cfg + Strm.haloAfter cfg + 1)).all fun n =>
    let v := { v with extH := some n }
    (v.dims a).1 == (v.dims b).1

/-- The history operators (R196, R202, R207, R213). -/
def refHist (i : Image) (model : Nat) (m : Bytes) (k : Nat) (vs : List Env) (e : Bytes) : Checks :=
  let in0 := (Op.input e 0).getD 0
  let in1 := (Op.input e 1).getD 0
  match Op.opcode e with
  | 0x0202 =>
      let others := (i.ops 0).filter fun j => j < k && Op.opcode (i.op j) == 0x0202 &&
        Op.hwStream (i.op j) == Op.hwStream e
      let here := vs.filter fun v => v.ops == i.ops model
      [names (i.hasStream (Op.hwStream e)), need (model == 0),
       need (bit (Mdl.streamMask m) (Op.hwStream e)), need others.isEmpty,
       need (i.stripeTensor model in0 && i.stripeTensor model in1),
       need (here.all fun v => v.sameRows i (Op.hwStream e) in0 in1),
       need (here.all fun v => (v.dims in0).2.2 == Op.hwKeyDim e && (v.dims in1).2.2 == Op.hwValueDim e &&
         (v.dims in0).2.1 == (v.dims in1).2.1)]
  | 0x0203 =>
      match i.histOp (Op.haStream e) with
      | none => [names (i.hasStream (Op.haStream e)), need false]
      | some hw =>
          [need (!(i.stripeTensor model in0)), need (Op.haMax e ≤ 2 ^ Op.hwCapLog2 hw),
           need (vs.all fun v => (v.dims in0).2.2 == Op.hwKeyDim hw),
           need (pairOk (Op.par e 0 1) (Op.par hw 0 1)), need (pairOk (Op.haPFormat e) (Op.par hw 1 1))]
  | 0x0201 =>
      [need (vs.all fun v => (v.dims in0).2.2 == Op.mmK e)] ++
      (if Op.mmFromIn1 e then
        [need (!(i.stripeTensor model in1)),
         need (vs.all fun v =>
           let (h, w, c) := v.dims in1
           c == Op.mmK e && (v.openWidth in1 || h == none || h == some (Op.mmN e / max 1 w)  && w * (Op.mmN e / max 1 w) == Op.mmN e))] else [])
  | _ => []

/-- One operator of a model. -/
def refOp (i : Image) (m : Bytes) (k : Nat) : Checks :=
  let e := i.op k
  let model := Mdl.kind m
  let tensors := Mdl.tensorCount m
  let vs := (Mdl.views m).map (i.shapeEnv model)
  [names (((Op.input e 0).toList ++ (Op.input e 1).toList ++ (Op.input e 2).toList).all (· < tensors)),
   names (Op.out e < tensors)] ++
  refWeight i e ++ refQtab i vs e ++
  [need (!(Op.windowed e) || vs.all fun v => windowOk v e),
   need (webPadOk i model (Mdl.views m) e)] ++
  refHist i model m k vs e

/-- The last operator of a model writes the class scores (R258). -/
def refScores (i : Image) (m : Bytes) : Checks :=
  let model := Mdl.kind m
  match (i.ops model).getLast? with
  | none => [need false]
  | some k =>
      let out := Op.out (i.op k)
      [need (!(i.stripeTensor model out)),
       need ((Mdl.views m).all fun n =>
         let (h, w, c) := (i.shapeEnv model n).dims out
         h == some 1 && w == 1 && 2 ≤ c && c ≤ 16 &&
         (i.kindOf 9 2).all fun r =>
           !((List.range (byteAt r 5)).any fun v => (viewOf r v).1 == n && (viewOf r v).2.1 == 0xFF) ||
           byteAt r 6 == c)]

def refModel (i : Image) (earlier : List Bytes) (m : Bytes) : Checks :=
  [need (!(earlier.any fun x => Mdl.kind x == Mdl.kind m)),
   need ((i.taps (Mdl.kind m)).length == Mdl.tapCount m),
   names (Mdl.opFirst m + Mdl.opCount m ≤ i.cnt 6),
   names ((Mdl.views m).all i.hasStream)]

def refGraph (i : Image) : Checks :=
  (i.models.zipIdx.flatMap fun x => refModel i (i.models.take x.2) x.1) ++
  [need (i.model 0).isSome] ++
  (i.models.flatMap fun m => if Mdl.kind m = 2 then [] else (Mdl.ops m).flatMap (refOp i m)) ++
  (i.models.flatMap (refScores i))

/-! ### SCHEDULE (R50) and WEIGHTS (R347) -/

/-- The data of a program (R50). -/
def Image.programData (i : Image) (e : Bytes) : Bytes := bytesAt (i.sec 7) (leAt e 4 4) (leAt e 8 4)

/-- A mapping of a program is one that its operator may use (R189); a MATMUL maps dense (R198). -/
def Image.mappingOk (i : Image) (op mapping columns : Nat) : Bool :=
  let e := i.op op
  let gin := Op.inChannels e / Op.groups e
  let gout := Op.outChannels e / Op.groups e
  match Op.opcode e, mapping with
  | 0x0101, 0 | 0x0201, 0 | 0x0203, 0 => true
  | 0x0102, 0 => 32 ≤ gin && columns < gout
  | 0x0102, 1 => 32 ≤ gin
  | 0x0101, 2 | 0x0102, 2 => gin < 32
  | 0x0103, 2 | 0x0104, 2 => true
  | _, _ => false

def refProgram (i : Image) (earlier : List Bytes) (e : Bytes) : Checks :=
  let stage := leAt e 2 2
  [names (stage < i.stageCount),
   need (!(earlier.any fun x => byteAt x 0 == byteAt e 0 && leAt x 2 2 == stage)),
   need (bit (Stage.coreMask (i.stage stage)) (byteAt e 0)),
   need (byteAt e 1 == Stage.model (i.stage stage)),
   need ((Config.programMappings (i.programData e)).all fun m => i.mappingOk m.1 m.2.1 m.2.2)]

def Image.programs (i : Image) : List Bytes := chunks 32 (i.cnt 7) ((i.sec 7).drop 16)

def refSchedule (i : Image) : Checks :=
  let ps := i.programs
  (ps.zipIdx.flatMap fun x => refProgram i (ps.take x.2) x.1) ++
  [need ((List.range i.stageCount).all fun k => (List.range 4).all fun c =>
    !(bit (Stage.coreMask (i.stage k)) c) || ps.any fun e => byteAt e 0 == c && leAt e 2 2 == k)]

def refTrainable (i : Image) : Checks :=
  (List.range (i.cnt 8)).map fun k => need (!(Wt.trainable (i.weight k)) ||
    ((List.range (i.cnt 6)).map i.op).any fun e => Op.weight e == some k &&
      (Op.opcode e == 0x0101 || Op.opcode e == 0x0102 || Op.opcode e == 0x0201))

/-! ### VERDICT (R251, R252, R259, R262, R266) -/

/-- The binned columns of a stream. -/
def Image.columns (i : Image) (n : Nat) : Nat :=
  ((i.streamEntry n).map fun e => Strm.width e / lpBinning (i.linePipe n)).getD 0

/-- A record's KIND and INDEX repeat an earlier one's (R52). -/
def repeats (earlier : List Bytes) (r : Bytes) : Bool × Nat :=
  need (!(earlier.any fun x => byteAt x 0 == byteAt r 0 && byteAt x 1 == byteAt r 1))

/-- The classes of a primary stream. -/
def Image.nclass (i : Image) (stream : Nat) : Nat := ((i.record 9 2 stream).map fun r => byteAt r 6).getD 16

def refVerdict (i : Image) (r : Bytes) : Checks :=
  let ix := byteAt r 1
  match byteAt r 0 with
  | 1 =>
      let op := PD.detectOp r
      [names (i.hasStream ix)] ++
      (if PD.mode r = 0 then
        [need ((i.record 12 1 (PD.presenceDi r)).elim false fun f => byteAt f 8 == i.encoderOf ix)] else []) ++
      (if PD.mode r = 2 then
        [names (op < i.cnt 6), need ((i.stripeOps 0).contains op)] else []) ++
      ((List.range 16).flatMap fun v =>
        let k := PD.recipe r v
        if k = 0xFF then [] else
        match i.record 10 1 k with
        | none => [names false]
        | some c => [need (byteAt c 4 == 0 || PD.mode r == 2)])
  | 2 =>
      names (i.hasRecord 9 1 ix) ::
      ((List.range (byteAt r 5)).flatMap fun v =>
        let (n, grp, _) := viewOf r v
        if grp = 0xFF then
          [names (i.hasStream n), need (i.inModel 0 n), need ((i.model 1).isNone || i.inModel 1 n),
           need (((i.record 9 1 ix).map PD.mode) != some 2 || i.columns ix ≤ i.columns n)]
        else [])
  | 3 =>
      [names (i.hasRecord 9 1 ix), need (byteAt r 4 < i.nclass ix), need (byteAt r 5 < i.nclass ix),
       need (byteAt r 6 < i.nclass ix)]
  | _ => [names (i.hasRecord 9 1 (byteAt r 4)), names (i.hasRecord 15 1 (byteAt r 7))]

/-! ### EJECT, MOTION, FIELD (R293, R287, R480) -/

/-- The MODE of an output (R482). -/
def Image.outMode (i : Image) (q : Nat) : Nat := ((i.record 12 2 q).map fun r => byteAt r 4).getD 0

/-- The outputs that recipes and valve maps name. -/
def Image.ejectOutputs (i : Image) : List Nat :=
  (i.kindOf 10 1).flatMap (fun r => maskOutputs (leAt r 8 8)) ++
  (i.kindOf 10 2).flatMap (fun r => (List.range (byteAt r 5)).map (· + byteAt r 4))

def refEject (i : Image) (r : Bytes) : Checks :=
  match byteAt r 0 with
  | 1 =>
      [names (byteAt r 4 == 0 || i.hasRecord 10 2 (byteAt r 5)),
       need ((maskOutputs (leAt r 8 8)).all fun q => i.outMode q == 1)] ++
      ((List.range (byteAt r 6)).map fun k => names (i.hasRecord 10 3 (byteAt r (0x18 + 8 * k))))
  | 2 => [need ((List.range (byteAt r 5)).all fun k => i.outMode (byteAt r 4 + k) == 1)]
  | _ => []

def refMotion (i : Image) (r : Bytes) : Checks :=
  match byteAt r 0 with
  | 2 =>
      let others := (i.kindOf 11 2).filter fun x => byteAt x 1 != byteAt r 1
      let streams := (List.range 64).filter (bit (Div.streams r))
      let q := Div.trigOut r
      [need ((i.record 11 1 (Div.encoder r)).elim false fun e => byteAt e 4 != 0),
       names (streams.all i.hasStream),
       need (streams.all fun n => !(others.any fun x => bit (Div.streams x) n)),
       need (streams.all fun n => i.encoderOf n == Div.encoder r),
       need (q == 0xFF || !(i.ejectOutputs.contains q || others.any fun x => Div.trigOut x == q)),
       need (q == 0xFF || i.outMode q == 2)]
  | _ => []

/-! ### GROUP and ADAPT (R372, R381, R346, R359) -/

def refStrip (i : Image) (e : Bytes) : Checks :=
  if byteAt e 0 = 0xFF then [] else
  match i.streamEntry (byteAt e 1) with
  | none => [names false]
  | some cfg =>
      let lp := i.linePipe (byteAt e 1)
      [need (leAt e 2 2 + leAt e 4 2 ≤ Strm.width cfg / lpBinning lp),
       need (leAt e 4 2 * Strm.comps cfg * corrElem cfg lp ≤ 8192)]

def refGroup (i : Image) : Checks :=
  let g := i.sec 14
  if g.isEmpty then [] else
  names (i.hasRecord 11 1 (byteAt g 0x18)) :: refStrip i (bytesAt g 0x24 8) ++ refStrip i (bytesAt g 0x2C 8)

def refAdapt (i : Image) (r : Bytes) : Checks :=
  match byteAt r 0 with
  | 3 =>
      let first := leAt r 0xA 2
      let last := leAt r 0xC 2
      [names ((List.range 8).all fun l => !(bit (byteAt r 7) l) || i.hasRecord 15 1 l),
       names (first < i.stageCount), names (last < i.stageCount),
       need ((List.range (last + 1 - first)).all fun k => Stage.model (i.stage (first + k)) == 2)]
  | 4 =>
      [names (i.hasRecord 15 3 (byteAt r 4)),
       need ((i.kindOf 15 4).all fun x => byteAt x 4 == byteAt r 4)]
  | _ => []

/-- A record section: repeats first (R52), then what its KIND refers to. -/
def refRecords (i : Image) (t : Nat) (f : Bytes → Checks) : Checks :=
  (i.records t).zipIdx.flatMap fun x => repeats ((i.records t).take x.2) x.1 :: f x.1

/-- The second pass (R570). -/
def refChecks (i : Image) : Checks :=
  ((List.range i.stageCount).flatMap fun k => refStage i (i.stage k)) ++
  ((List.range i.setCount).flatMap fun k => refSet i (i.set k)) ++
  (i.streams.flatMap (refStream i)) ++
  (i.linePipes.zipIdx.flatMap fun x => refPipe i (i.linePipes.take x.2) x.1) ++
  refGraph i ++ refSchedule i ++ refTrainable i ++
  refRecords i 9 (refVerdict i) ++ refRecords i 10 (refEject i) ++ refRecords i 11 (refMotion i) ++
  refRecords i 12 (fun _ => []) ++ refRecords i 13 (fun _ => []) ++ refGroup i ++
  refRecords i 15 (refAdapt i)

end Sys2Proof.Machine
end

