-- ==== Sys2Proof/Machine/VerifyRes.lean ====
section
/-! DEFINITION. Step 9 of verification: resources (02_deurzor_image.md R44, R46, R58), and the
placing of the flexible regions (17_memory.md R441, R442; 05_stripes_and_layouts.md R133 to R137). -/

namespace Sys2Proof.Machine

def top (l : List Nat) : Nat := l.foldl max 0

/-! ### The buffer of one stream (R134, R136) -/

/-- Bytes of the statistics ring. -/
def statRingBytes (cfg : Bytes) (lp : Option (Bytes × Bytes)) : Nat :=
  match lp with
  | some (e, t) => if Lp.function e 7 then 2 ^ LpT.ringLog2 t * statSlot cfg lp else 0
  | none => 0

/-- Rows of an in-line stream's window. -/
def windowRows (cfg : Bytes) : Nat :=
  if Strm.inLine cfg then 4 * Strm.stripeRows cfg + Strm.haloBefore cfg + Strm.haloAfter cfg else 0

/-- The layout of a stream's buffer at a base, with its window at an offset in the line store. -/
def layoutOf (cfg : Bytes) (lp : Option (Bytes × Bytes)) (base winOff : Nat) : StreamLayout :=
  let stat := roundUp (statRingBytes cfg lp) 4096
  let raw := if Strm.inLine cfg then 0 else roundUp (Strm.bufferLines cfg * rawLineBytes cfg) 4096
  let slots := if passes cfg lp then ceilDiv (Strm.bufferLines cfg) (lpBinning lp) else 0
  let corr := roundUp (slots * corrLineBytes cfg lp) 4096
  { base := base, size := 0x9000 + stat + raw + corr, statOff := if stat = 0 then 0 else 0x9000,
    rawOff := if raw = 0 then 0 else 0x9000 + stat, corrOff := if corr = 0 then 0 else 0x9000 + stat + raw,
    rawLineBytes := rawLineBytes cfg, corrLineBytes := corrLineBytes cfg lp,
    laneRowBytes := if laneSplit lp then Strm.comps cfg * laneCompBytes cfg lp else 0, corrSlots := slots,
    winOff := winOff, winRows := windowRows cfg }

/-- Bytes of the row window. -/
def windowBytes (cfg : Bytes) (lp : Option (Bytes × Bytes)) : Nat := windowRows cfg * corrLineBytes cfg lp

/-- The alignment history of an in-line stream in the line store (R107). -/
def alignBytes (cfg : Bytes) (lp : Option (Bytes × Bytes)) : Nat :=
  match lp with
  | some (e, _) =>
      if Strm.inLine cfg && Lp.function e 3 then
        (Lp.alignLines e + 1) * Strm.width cfg * Strm.comps cfg * 2
      else 0
  | none => 0

/-- The strip entries of a GROUP section that name a stream. -/
def Image.stripsOf (i : Image) (n : Nat) : List Bytes :=
  [bytesAt (i.sec 14) 0x24 8, bytesAt (i.sec 14) 0x2C 8].filter fun e =>
    !(i.sec 14).isEmpty && byteAt e 0 != 0xFF && byteAt e 1 == n

/-- A running stream's buffer keeps its address under a new image (R442). -/
def Image.keepsBuffer (new : Image) (x : Stream) (n : Nat) (old : Image) : Bool :=
  match new.streamEntry n with
  | none => false
  | some cfg =>
      cfg == x.cfg && ((new.linePipe n).map fun p => p.2.take 64) == (x.lp.map fun p => p.2.take 64) &&
      new.stripsOf n == old.stripsOf n &&
      layoutOf cfg (new.linePipe n) x.layout.base x.layout.winOff ==
        x.layout

/-! ### Stage outputs and strip rings (R137, R381) -/

/-- The largest stage output of one stripe job of a stream: the tensors of a stage that a later stage reads, over
the job's whole read range, channel-blocked (R131, R137). -/
def Image.stageBytes (i : Image) (n : Nat) : Nat :=
  match i.streamEntry n with
  | none => 0
  | some cfg =>
      top (i.models.flatMap fun m =>
        if bit (Mdl.streamMask m) n then
          let k := Mdl.kind m
          let v : Env := { i.shapeEnv k n with
            extH := some (Strm.stripeRows cfg + Strm.haloBefore cfg + Strm.haloAfter cfg),
            extW := Strm.laneWidth cfg + 2 * Strm.haloCols cfg }
          (i.stagesOf k false).map fun st =>
            let e := i.stage st
            sum ((i.stripeOps k).map fun o =>
              let out := Op.out (i.op o)
              let later := (i.ops k).any fun j => Stage.lastOp e < j &&
                ((Op.input (i.op j) 0) == some out || (Op.input (i.op j) 1) == some out)
              if Stage.firstOp e ≤ o && o ≤ Stage.lastOp e && later then
                let (h, w, c) := v.dims out
                h.getD 0 * blockedRowBytes (Op.par (i.op o) 2 1) w c
              else 0)
        else [])

/-- The stage area's minimum (R137). -/
def Image.stageMin (i : Image) : Nat := sum (i.streams.map fun e => 4 * i.stageBytes (Strm.stream e))

/-- The bytes of a receive ring (R381). -/
def Image.stripRing (i : Image) (e : Bytes) : Nat :=
  if byteAt e 0 = 0xFF then 0 else
  match i.streamEntry (byteAt e 1) with
  | none => 0
  | some cfg => 2 ^ byteAt e 6 *
      roundUp (32 + leAt e 4 2 * Strm.comps cfg * corrElem cfg (i.linePipe (byteAt e 1))) 64

def Image.stripRings (i : Image) : Nat :=
  if (i.sec 14).isEmpty then 0 else
  i.stripRing (bytesAt (i.sec 14) 0x24 8) + i.stripRing (bytesAt (i.sec 14) 0x2C 8)

/-! ### Placing (R442) -/

/-- Where an image's contents lie: the regions (code, base, size), the main extent of each code
first, then the extents of what is kept outside it; the stream buffers, the history stores, and for
each library its index and its data ring. -/
structure Plan where
  regions : List (Nat × Nat × Nat) := []
  streams : Tab StreamLayout := []
  stores : Tab Nat := []
  libs : Tab (Nat × Nat) := []
  deriving DecidableEq, Repr

abbrev unit2M : Nat := 0x200000
abbrev flexBase : Nat := 0x3C0000000
abbrev flexEnd : Nat := 0xE00000000

/-- The lowest place for some bytes between two bounds that overlaps nothing occupied; places and
occupied extents are in units of `u`. -/
def firstFit (u lo hi : Nat) (occ : List (Nat × Nat)) (size : Nat) : Option Nat :=
  let ends := (occ.map fun o => roundUp (o.1 + o.2) u).mergeSort
  (lo :: ends).find? fun b => lo ≤ b && b + size ≤ hi &&
    occ.all fun o => b + size ≤ o.1 / u * u || roundUp (o.1 + o.2) u ≤ b

/-- What the running image occupies in the flexible area. -/
def State.occupied (s : State) : List (Nat × Nat) :=
  s.mc.plan.map fun r => (r.2.1, r.2.2)

/-- The size of a history store (R205). -/
def histBytes (e : Bytes) : Nat :=
  let entry := 64 + roundUp (Op.hwKeyDim e * fmtBits (Op.par e 0 1) / 8) 64 +
    roundUp (Op.hwValueDim e * fmtBits (Op.par e 1 1) / 8) 64
  roundUp (4096 + 2 ^ Op.hwCapLog2 e * entry) 4096

/-- The HIST_WRITE operators of an image by stream. -/
def Image.histOps (i : Image) : Tab Bytes :=
  (List.range 64).filterMap fun n => (i.histOp n).map fun e => (n, e)

/-- A history store is kept across an apply (R212). -/
def histKept (old new : Bytes) : Bool :=
  Op.hwKey old == Op.hwKey new && Op.hwCapLog2 old == Op.hwCapLog2 new &&
  Op.hwKeyDim old == Op.hwKeyDim new && Op.hwValueDim old == Op.hwValueDim new &&
  Op.par old 0 1 == Op.par new 0 1 && Op.par old 1 1 == Op.par new 1 1

/-- Places things one after another from a base. -/
def inRow (base : Nat) : List (Nat × Nat) → Tab Nat
  | [] => []
  | (k, size) :: rest => Tab.put (inRow (base + size) rest) k base

/-- The window offsets of the in-line streams, in ascending stream. -/
def Image.windows (i : Image) : Tab Nat :=
  inRow 0 ((List.range 64).filterMap fun n => (i.streamEntry n).bind fun cfg =>
    if Strm.inLine cfg then some (n, windowBytes cfg (i.linePipe n)) else none)

/-- Places the index slots of the libraries in the library index region: kept ones stay. -/
def placeIndices (kept : List (Nat × Nat × Nat)) : List (Nat × Nat) → Option (Tab Nat)
  | [] => some (kept.foldl (init := []) fun (t : Tab Nat) k => Tab.put t k.1 k.2.1)
  | (l, size) :: rest =>
      match firstFit 64 0x60000000 0x64000000 (kept.map Prod.snd) size with
      | none => none
      | some b => placeIndices (kept ++ [(l, b, size)]) rest

/-- The plan of an image against the running layout. -/
def State.planFor (s : State) (i : Image) : Option Plan :=
  let old := s.img.running
  let keptS := s.cam.streams.filter fun x =>
    match old with
    | some o => i.keepsBuffer x.2 x.1 o
    | none => false
  let keptH := s.ledg.hist.filter fun h => ((i.histOp h.1).elim false fun e => histKept h.2.record e)
  let keptL := s.cap.libs.filter fun l => i.record 15 1 l.1 == some l.2.cfg
  let keptExt : List (Nat × Nat × Nat) :=
    (keptS.map fun x => (9, x.2.layout.base, x.2.layout.size)) ++
    (keptH.map fun h => (10, h.2.base, histBytes h.2.record)) ++
    (keptL.filterMap fun l => if Lib.inHost l.2.cfg then none else some (11, l.2.dataBase, leAt l.2.cfg 8 8))
  let wins := i.windows
  let lay (n base : Nat) : StreamLayout :=
    layoutOf ((i.streamEntry n).getD []) (i.linePipe n) base (Tab.getD wins n 0)
  let newS := ((i.streams.map Strm.stream).mergeSort).filter fun n => !(Tab.get keptS n).isSome
  let newH := i.histOps.filter fun h => !(Tab.get keptH h.1).isSome
  let libs := (List.range 8).filterMap fun l => (i.record 15 1 l).map fun r => (l, r)
  let newL := libs.filter fun l => !(Tab.get keptL l.1).isSome
  let stage := roundUp (4 * i.stageMin) unit2M
  let sizeS := 4096 + sum (newS.map fun n => (lay n 0).size)
  let size9 := roundUp sizeS unit2M + stage
  let size10 := 4096 + sum (newH.map fun h => histBytes h.2)
  let size11 := sum (newL.map fun l => leAt l.2 8 8)
  let size12 := if (i.kindOf 15 3).isEmpty then 0 else 0x200000000
  if stage < i.stageMin + i.stripRings || 0x400000000 < 4096 + sum (i.histOps.map fun h => histBytes h.2) then none else
  let place (occ : List (Nat × Nat)) (size : Nat) : Option Nat :=
    if size = 0 then some flexBase else firstFit unit2M flexBase flexEnd occ size
  let occ0 := s.occupied ++ keptExt.map Prod.snd
  match place occ0 size9 with
  | none => none
  | some b9 =>
  let occ1 := occ0 ++ [(b9, size9)]
  match place occ1 size10 with
  | none => none
  | some b10 =>
  let occ2 := occ1 ++ [(b10, size10)]
  match place occ2 size11 with
  | none => none
  | some b11 =>
  let occ3 := occ2 ++ (if size11 = 0 then [] else [(b11, size11)])
  match place occ3 size12 with
  | none => none
  | some b12 =>
  match placeIndices (keptL.map fun l => (l.1, l.2.indexBase, 64 * Lib.slots l.2.cfg))
      (newL.map fun l => (l.1, 64 * Lib.slots l.2)) with
  | none => none
  | some idx =>
  let bS := inRow (b9 + 4096) (newS.map fun n => (n, (lay n 0).size))
  let bH := inRow (b10 + 4096) (newH.map fun h => (h.1, histBytes h.2))
  let bL := inRow b11 (newL.map fun l => (l.1, leAt l.2 8 8))
  let keptLay (n : Nat) : Option StreamLayout := (Tab.get keptS n).map fun x => lay n x.layout.base
  let main := [(9, b9, size9), (10, b10, size10), (11, b11, size11), (12, b12, size12)]
  some
    { regions := (main.filter fun r => r.2.2 != 0) ++ keptExt,
      streams := (i.streams.map Strm.stream).foldl (init := []) fun (t : Tab StreamLayout) n =>
        Tab.put t n ((keptLay n).getD (lay n (Tab.getD bS n 0))),
      stores := i.histOps.foldl (init := []) fun (t : Tab Nat) h =>
        Tab.put t h.1 (((Tab.get keptH h.1).map (·.base)).getD (Tab.getD bH h.1 0)),
      libs := libs.foldl (init := []) fun (t : Tab (Nat × Nat)) l =>
        Tab.put t l.1 (Tab.getD idx l.1 0,
          ((Tab.get keptL l.1).map (·.dataBase)).getD (Tab.getD bL l.1 0)) }

/-! ### Step 9 -/

/-- Core pools (R44) and resident sets (R234). -/
def Image.poolsFit (i : Image) : Bool :=
  let sets := (List.range i.setCount).map i.set
  (List.range 4).all fun c =>
    let pinned := sum ((sets.filter fun e => RSet.core e == c && RSet.pinned e).map RSet.bytes)
    let work := i.workBytes c
    pinned + work ≤ 41943040 &&
    (sets.filter fun e => RSet.core e == c && !RSet.pinned e).all fun e =>
      pinned + work + RSet.bytes e ≤ 41943040

/-- Every core of a live stage's mask holds a pinned set that covers it (R234). -/
def Image.setsCover (i : Image) : Bool :=
  (List.range i.stageCount).all fun k =>
    let e := i.stage k
    2 ≤ Stage.model e || (i.stageWeights e).isEmpty ||
    (List.range 4).all fun c => !(bit (Stage.coreMask e) c) ||
      (List.range i.setCount).any fun j =>
        RSet.core (i.set j) == c && RSet.pinned (i.set j) && i.covers (i.set j) e

/-- The stream bindings of R46. -/
def bindingsOk : List Bytes → Bool
  | [] => true
  | e :: rest =>
      (rest.all fun x =>
        let same : Bool := Strm.portFirst x == Strm.portFirst e && Strm.portCount x == Strm.portCount e
        let apart : Bool := Strm.portFirst x + Strm.portCount x ≤ Strm.portFirst e ||
          Strm.portFirst e + Strm.portCount e ≤ Strm.portFirst x
        Strm.stream x != Strm.stream e && (same || apart) &&
        !(same && Strm.cxpId x == Strm.cxpId e) &&
        !(Strm.inLine x && Strm.inLine e && Strm.pipe x == Strm.pipe e)) &&
      Strm.rateMax e ≤ 4 * Strm.bufferLines e && bindingsOk rest

/-- Line pipe capacity and line store (R103, R136). -/
def Image.pipesFit (i : Image) : Bool :=
  let through := i.streams.filter fun e => passes e (i.linePipe (Strm.stream e))
  ((List.range 4).all fun p => sum ((through.filter fun e => Strm.pipe e == p).map fun e =>
    Strm.width e * Strm.comps e * Strm.rateMax e) ≤ 10000000000) &&
  (i.streams.all fun e => (i.linePipe (Strm.stream e)).isNone || Strm.width e ≤ 32768) &&
  sum (i.streams.map fun e => windowBytes e (i.linePipe (Strm.stream e)) +
    alignBytes e (i.linePipe (Strm.stream e))) ≤ 0x2000000

/-- MAP_LOG2 of a divider (R290): its record's, or the smallest that R291 allows. -/
def Image.mapLog2 (i : Image) (d : Bytes) : Option Nat :=
  let need := 2 * top (((List.range 64).filter (bit (Div.streams d))).map fun n =>
    ((i.streamEntry n).map Strm.bufferLines).getD 0)
  match i.record 11 3 (byteAt d 1) with
  | some r => if need ≤ 2 ^ byteAt r 4 then some (byteAt r 4) else none
  | none => ((List.range 13).map (· + 12)).find? fun k => need ≤ 2 ^ k

/-- The libraries' limits (R325). -/
def Image.librariesFit (i : Image) : Bool :=
  sum ((i.kindOf 15 1).map Lib.slots) ≤ 1048576 && sum ((i.kindOf 15 1).map fun r => leAt r 8 8) ≤ 0x600000000

/-- The local streams of the parts of a primary stream (R259). -/
def Image.viewStreams (i : Image) (n : Nat) : List Nat :=
  match i.record 9 2 n with
  | some r => (((List.range (byteAt r 5)).map (viewOf r)).filter fun v => v.2.1 == 0xFF).map Prod.fst
  | none => [n]

/-- The streams that shadow policies cover, each with whether its context is pinned (R216): those that the parts of a
policy's stream look at. -/
def Image.shadowStreams (i : Image) : List (Nat × Bool) :=
  let all := (i.kindOf 15 4).flatMap fun r => (i.viewStreams (byteAt r 1)).map fun n => (n, byteAt r 5 == 1)
  (all.map Prod.fst).dedup.map fun n => (n, all.any fun p => p.1 == n && p.2)

/-- Contexts that an image pins (R216, R232): one for each bound stream, and pinned shadow ones. -/
def Image.pins (i : Image) : Nat :=
  i.streams.length + (i.shadowStreams.filter Prod.snd).length

def State.hostPins (s : State) : Nat :=
  (s.sched.ctxs.filter fun c => 160 ≤ c.1 && c.2.pinned).length

/-- Step 9 (R58). -/
def State.resourcesOk (s : State) (i : Image) : Bool :=
  i.poolsFit && i.setsCover && bindingsOk i.streams && i.pipesFit &&
  ((i.kindOf 11 2).all fun d => (i.mapLog2 d).isSome) && i.librariesFit &&
  i.trainBytes ≤ 0x200000000 && i.pins + s.hostPins ≤ 128 && (s.planFor i).isSome

end Sys2Proof.Machine
end

