-- ==== Sys2Proof/Machine/Verify.lean ====
section
/-! DEFINITION. Image verification, steps 1 to 9 in order (02_deurzor_image.md R36 to R40, R58,
R570), and the keys it verifies under (22_security.md R540 to R543). -/

namespace Sys2Proof.Machine

/-! ### The KEYS area of the option record in use (R542) -/

namespace Keys
def state (o : Bytes) (k : Nat) : Nat := byteAt o (0x104 + 96 * k)
def epoch (o : Bytes) (k : Nat) : Nat := leAt o (0x108 + 96 * k) 4
def hash (o : Bytes) (k : Nat) : Bytes := bytesAt o (0x10C + 96 * k) 64
def firstCustomer (o : Bytes) : Bool := byteAt o 0x101 == 1
def enrolled (o : Bytes) (k : Nat) : Bool := k ≤ 3 && state o k == 1
end Keys

/-- The key block of an image key slot that is enrolled and filled in key RAM (R543). -/
def State.imageKey (s : State) (slot : Nat) : Option Bytes :=
  if Keys.enrolled s.boot.option slot then Tab.get s.sec.keyRam slot else none

/-! ### Steps 1 to 6 -/

/-- Steps 1 to 3 over the 128-byte header. -/
def headerChecks (s : State) (h : Bytes) (written : Nat) : Checks :=
  let len := leAt h 8 8
  [need (h.take 3 == [0x44, 0x5A, 0x49]), need (byteAt h 3 == 2), need (leAt h 4 4 == 0x80),
   need (allZero (bytesAt h 0x12 2)), need (allZero (bytesAt h 0x15 3)), need (byteAt h 0x28 == 0),
   need (allZero (bytesAt h 0x40 64)),
   need (len % 64 == 0 && 0x680 ≤ len && len != 2 ^ 64 - 1),
   fits (len ≤ written && len ≤ 0x100000000),
   (leAt h 0x2A 2 != 0x9640 || 0x0A < byteAt h 0x29, Code.imageTarget),
   (s.boot.fwVersion.toNat / 65536 < leAt h 0x2C 4 / 65536, Code.imageTarget)]

/-- A DIGEST and SIGNATURE trailer over a message, under a key block (R39). -/
def trailerOk (key : Bytes) (message trailer : Bytes) : Bool :=
  sha512 message == trailer.take 64 && keyVerify key message (bytesAt trailer 64 512)

/-! ### Step 7: the section walk -/

/-- Sections as found: header and payload, in payload order. -/
structure Found where
  header : Bytes
  payload : Bytes
  deriving DecidableEq, Repr

/-- Types that may have LENGTH 0 (R40). -/
def mayBeEmpty (t : Nat) : Bool := [5, 8, 10, 12, 13, 14, 15].contains t

/-- The bytes an entry of a type takes at least; 0 for IDENT and MODES, which have none. -/
def entrySize (t : Nat) : Nat :=
  match t with
  | 1 | 2 => 0
  | 3 => 16
  | 5 | 7 | 8 => 32
  | _ => 64

/-- LENGTH and ENTRY_COUNT within their section (R12, R38, R40, R42, R43). -/
def sizeChecks (t len count room : Nat) : Checks :=
  [(len == 2 ^ 32 - 1 || count == 2 ^ 32 - 1, Code.fieldReserved), fits (len ≤ room),
   fits (entrySize t * count ≤ len), need (len != 0 || mayBeEmpty t),
   need (len != 0 || count == 0), need (t != 1 || (len == 128 && count == 0)),
   need (t != 2 || (len == 16 && count == 0))]

/-- Walks the sections from a type on: the code of the first failure, or what was found and the
bytes that remain before the trailer. -/
def walk : Nat → Nat → Bytes → Except Nat (List Found × Bytes)
  | 0, _, rest => .ok ([], rest)
  | fuel + 1, t, rest =>
      let h := rest.take 64
      let len := leAt h 4 4
      let body := rest.drop 64
      let cs : Checks :=
        [need (64 ≤ rest.length && leAt h 0 2 == t), need (byteAt h 2 == 1)] ++
        resv h [(3, 1), (0x10, 48)] ++ sizeChecks t len (leAt h 0xC 4) body.length ++
        [need (allZero (bytesAt body len (roundUp len 64 - len)))]
      match Checks.fail cs with
      | some c => .error c
      | none =>
          match walk fuel (t + 1) (body.drop (roundUp len 64)) with
          | .error c => .error c
          | .ok (fs, r) => .ok (⟨h, body.take len⟩ :: fs, r)

/-- A section's CRC (R38). -/
def crcOk (f : Found) : Bool := crc32 f.payload == leAt f.header 8 4

/-! ### The whole -/

/-- Runs the checks of R58 over the first `written` bytes of an image half: the image, or the code
of the first check that fails. -/
def State.verifyImage (s : State) (half written : Nat) : Except Nat Image :=
  let base := halfBase half
  let h := s.load base 128
  match Checks.fail (headerChecks s h written) with
  | some c => .error c
  | none =>
  match s.imageKey (byteAt h 0x14) with
  | none => .error Code.imageKey
  | some key =>
      let all := s.load base (leAt h 8 8)
      let signed := all.take (all.length - 0x240)
      let trailer := all.drop (all.length - 0x240)
      if !trailerOk key signed trailer then .error Code.imageSignature
      else if leAt h 0x10 2 ≠ 15 then .error Code.imageFormat
      else
        match walk 15 1 (signed.drop 128) with
        | .error c => .error c
        | .ok (fs, rest) =>
            if !rest.isEmpty || !fs.all crcOk then .error Code.imageFormat
            else
              let i : Image :=
                { half := half, header := h, secs := fs.map (·.payload),
                  counts := fs.map (fun f => leAt f.header 0xC 4), digest := trailer.take 64 }
              match Checks.fail (ownChecks i ++ refChecks i) with
              | some c => .error c
              | none => if s.resourcesOk i then .ok i else .error Code.imageResource

end Sys2Proof.Machine
end

