-- ==== Sys2Proof/Machine/ImageCmds.lean ====
section
/-! DEFINITION. Image and overlay commands up to their launch (02_deurzor_image.md R54 to R60, R65 to
R71; 14_fine_tuning_and_shadow.md R361; 16_host_interface.md R418). -/

namespace Sys2Proof.Machine

/-! ### The image lock (R69) -/

/-- A seat number as a seat. -/
def seatOf (n : Nat) : Fin 4 := ⟨n % 4, Nat.mod_lt n (by decide)⟩

/-- The holder as RESULT1 and the LOCK register give it. -/
def State.holder (s : State) : Nat :=
  match s.img.lock with
  | some x => x
  | none => 0xFF

/-- The lock changes hands: INT_STATUS.LOCK is set on every seat where the holder changed. -/
def State.setLock (s : State) (o : Option (Fin 4)) : State :=
  if s.img.lock = o then s else ({ s with img := { s.img with lock := o } } : State).raiseAll 2

/-- Another seat holds the lock. -/
def State.lockedOut (s : State) (seat : Fin 4) : Bool :=
  match s.img.lock with
  | some x => x != seat
  | none => false

/-- An override: a warning record naming both seats. -/
def State.noteOverride (s : State) (seat : Fin 4) : State :=
  s.log { warning 6 with initiator := seat.val, arg0 := n64 seat.val, arg1 := n64 s.holder }

/-- Image and overlay commands are refused in RECOVERY (R71) and, without OVERRIDE, while another seat
holds the lock. -/
def State.imageGate (s : State) (c : CmdRef) (h : Hdr) (body : State → State) : State :=
  if s.dev = .recovery then s.complete c Code.imageState
  else if !s.lockedOut h.seat then body s
  else if h.override then body (s.noteOverride h.seat)
  else s.complete c Code.imageLocked

/-- IMAGE_LOCK: acquires, releases, or with OVERRIDE takes the lock over. RESULT1 gives the holder in every case. From
the holder itself it releases also with OVERRIDE 1: R69 gives both sentences and no order between them (DESIGN CHOICE,
notes/assumptions/140.md). -/
def State.runImageLock (s : State) (c : CmdRef) (h : Hdr) : State :=
  if s.dev = .recovery then s.complete c Code.imageState 0 s.holder
  else if s.img.lock = some h.seat then (s.setLock none).complete c Code.ok 0 0xFF
  else if !s.lockedOut h.seat then (s.setLock (some h.seat)).complete c Code.ok 0 h.seat
  else if h.override then ((s.noteOverride h.seat).setLock (some h.seat)).complete c Code.ok 0 h.seat
  else s.complete c Code.imageLocked 0 s.holder

/-- IMAGE_LOCK (R69). -/
def execImageLock (h : Hdr) (s : State) : Res :=
  .next (s.takeNow (.imageLock h) fun c s => s.runImageLock c h)

/-! ### Verification (R55, R58) -/

/-- IMAGE_VERIFY: the staging region is VERIFYING. In VERIFIED it verifies again: R55 names WRITTEN only, and R71 refuses
only VERIFYING and PENDING (DESIGN CHOICE, notes/assumptions/141.md). -/
def State.runImageVerify (s : State) (c : CmdRef) (h : Hdr) (length : BitVec 64) : State :=
  if allOnes64 length then s.complete c Code.fieldReserved else
  s.imageGate c h fun s =>
    if s.img.apply.isSome || !(s.img.staging == .written || s.img.staging == .verified) then
      s.complete c Code.imageState
    else { s with img := { s.img with
      staging := .verifying, staged := none, verify := some ⟨some c, length.toNat⟩ } }

/-- IMAGE_VERIFY (R58). -/
def execImageVerify (h : Hdr) (length : BitVec 64) (s : State) : Res :=
  .next (s.takeNow (.imageVerify h length) fun c s => s.runImageVerify c h length)

/-- A signature is checked: counted, and flagged where it fails (22_security.md R554). -/
def State.noteSig (s : State) (ok : Bool) : State :=
  let s := s.count .secVerifyCount []
  if ok then s else s.setFlag .secFlags [] 0

/-- What the checks of R58 answer for the staging region, with the first granule they cannot read. -/
def State.checkStaging (s : State) (written : Nat) : Except Nat Image × Option Nat :=
  let base := halfBase s.stagingHalf
  match s.badIn base 128 with
  | some g => (.error Code.memoryUncorrectable, some g)
  | none =>
      let h := s.load base 128
      let whole := if (Checks.fail (headerChecks s h written)).isNone && (s.imageKey (byteAt h 0x14)).isSome then
          s.badIn base (leAt h 8 8) else none
      match whole with
      | some g => (.error Code.memoryUncorrectable, some g)
      | none => (s.verifyImage s.stagingHalf written, none)

/-- Steps 5 and 6 of R58 are reached: a signature is checked. -/
def State.sigReached (s : State) (written : Nat) : Bool :=
  let h := s.load (halfBase s.stagingHalf) 128
  (Checks.fail (headerChecks s h written)).isNone && (s.imageKey (byteAt h 0x14)).isSome

/-- The checks end: VERIFIED or WRITTEN. In an automatic load the apply follows, with launch count 0. -/
def State.verified (s : State) : State :=
  match s.img.verify with
  | none => s
  | some v =>
      let (res, bad) := s.checkStaging v.length
      let s := if bad.isNone && s.sigReached v.length then
          s.noteSig (match res with
            | .error e => e != Code.imageSignature
            | .ok _ => true)
        else s
      let s := match bad with
        | some g => s.reportUe g (initiatorOf v.by')
        | none => s
      let s := { s with img := { s.img with verify := none } }
      match res with
      | .error e =>
          let s := { s with img := { s.img with staging := .written, staged := none } }
          if v.by'.isSome then s.answer v.by' e else s.autoFail e
      | .ok i =>
          let s := { s with img := { s.img with staging := .verified, staged := some i } }
          if v.by'.isSome then s.answer v.by' Code.ok
          else if s.dev ≠ .idle then s.autoFail Code.imageState
          else
            let s := { s with img := { s.img with staging := .pending, autoLoad := 3 } }
            s.addItem 0 (.imageApply false) none

/-- VERIFICATION_COMPLETE (R58). -/
def execVerificationComplete (s : State) : Res := .next s.verified

/-! ### IMAGE_APPLY and IMAGE_APPLY_CANCEL (R59, R60, R71) -/

/-- The MOTION and FIELD sections of an image are those of the running one (R60). -/
def Image.sameField (a b : Image) : Bool := a.sec 11 == b.sec 11 && a.sec 12 == b.sec 12

/-- The staged image has another MOTION or FIELD section than the running one. -/
def State.fieldDiffers (s : State) (i : Image) : Bool :=
  match s.img.running with
  | some r => !i.sameField r
  | none => false

/-- IMAGE_APPLY. -/
def State.runImageApply (s : State) (c : CmdRef) (h : Hdr) (fieldChange : Byte) : State :=
  if 1 < fieldChange.toNat then s.complete c Code.fieldReserved else
  s.imageGate c h fun s =>
    let l := s.launchOf h.launch
    s.checked c
      [(s.dev != .idle && s.dev != .running, Code.imageState),
       (s.img.staging == .pending, Code.imageApplyPending),
       (s.img.staging != .verified || s.img.staged.isNone, Code.imageNotStaged),
       (s.isLate l, Code.launchLate),
       (fieldChange == 0 && ((s.img.staged.map s.fieldDiffers).getD false), Code.imageFieldChange)]
      fun s =>
        let s := { s with img := { s.img with staging := .pending } }
        s.addItem l (.imageApply (fieldChange == 1)) (some c)

/-- IMAGE_APPLY (R59). -/
def execImageApply (h : Hdr) (fieldChange : Byte) (s : State) : Res :=
  .next (s.takeNow (.imageApply h fieldChange) fun c s => s.runImageApply c h fieldChange)

/-- IMAGE_APPLY_CANCEL: the pending apply completes with CANCELLED. -/
def State.runApplyCancel (s : State) (c : CmdRef) (h : Hdr) : State :=
  s.imageGate c h fun s =>
    match s.pendingApply with
    | some it =>
        if s.isLate it.launch then s.complete c Code.launchLate else
        let s := { s with img := { s.img with staging := .verified, autoLoad := 0 } }
        ((s.dropItem it).answer it.by' Code.cancelled).complete c Code.ok
    | none => s.complete c (if s.img.apply.isSome then Code.launchLate else Code.imageState)

/-- IMAGE_APPLY_CANCEL (R55, R71). -/
def execImageApplyCancel (h : Hdr) (s : State) : Res :=
  .next (s.takeNow (.imageApplyCancel h) fun c s => s.runApplyCancel c h)

/-! ### IMAGE_STORE and IMAGE_QUERY (R65, R70) -/

/-- IMAGE_STORE: the image and the key block of its slot go to the image slot. -/
def State.runImageStore (s : State) (c : CmdRef) (h : Hdr) : State :=
  s.imageGate c h fun s =>
    match s.img.staging, s.img.staged with
    | .verified, some i =>
        s.checked c
          [(50331648 < i.length + 1024, Code.lengthRange), (s.img.store.isSome, Code.imageState)]
          fun s =>
            let data := s.load (halfBase s.stagingHalf) i.length ++
              ((Tab.get s.sec.keyRam i.keySlot).getD (List.replicate 1024 0))
            { s with img := { s.img with store := some (c, data) } }
    | _, _ => s.complete c Code.imageNotStaged

/-- IMAGE_STORE (R65). -/
def execImageStore (h : Hdr) (s : State) : Res :=
  .next (s.takeNow (.imageStore h) fun c s => s.runImageStore c h)

/-- IMAGE_STORE_DONE (R65). -/
def execImageStoreDone (s : State) : Res :=
  match s.img.store with
  | none => .next s
  | some (c, data) =>
      let s := { s with img := { s.img with store := none }, flash := { s.flash with slot := data } }
      .next (s.complete c Code.ok)

/-- STAGING_STATE (R418). -/
def Staging.code : Staging → Nat
  | .empty => 0
  | .written => 1
  | .verifying => 2
  | .verified => 3
  | .pending => 4

/-- The IMAGE_ID of a half, zeros where it holds nothing. -/
def State.halfId (s : State) (k : Nat) : Bytes :=
  if k = s.img.runHalf then (s.img.running.map Image.imageId).getD (List.replicate 16 0)
  else if s.img.staging = .empty then List.replicate 16 0
  else s.load (halfBase k + 0x18) 16

/-- The answer to IMAGE_QUERY. -/
def State.queryBytes (s : State) : Bytes :=
  natLe 1 s.img.staging.code ++ natLe 1 s.holder ++ natLe 1 s.overlayGen ++ natLe 1 s.img.runHalf ++
  natLe 4 s.img.gen.toNat ++ natLe 8 ((s.pendingApply.map (·.launch)).getD (2 ^ 64 - 1)) ++
  s.halfId 0 ++ s.halfId 1 ++ List.replicate 16 0

/-- IMAGE_QUERY. -/
def State.runImageQuery (s : State) (c : CmdRef) (addr : BitVec 64) : State :=
  s.checked c [(addrReserved addr, Code.fieldReserved), (!bufferIn addr 64, Code.addressUnmapped)]
    fun s => (s.storeFor c.seat addr.toNat s.queryBytes).complete c Code.ok

/-- IMAGE_QUERY (R70, R418). -/
def execImageQuery (h : Hdr) (resultAddr : BitVec 64) (s : State) : Res :=
  .next (s.takeNow (.imageQuery h resultAddr) fun c s => s.runImageQuery c resultAddr)

/-! ### Overlay records (R66, R67) -/

namespace Ovl
def length (r : Bytes) : Nat := leAt r 4 4
def imageId (r : Bytes) : Bytes := bytesAt r 8 16
def base (r : Bytes) : Nat := leAt r 0x18 4
def gen (r : Bytes) : Nat := leAt r 0x1C 4
def count (r : Bytes) : Nat := leAt r 0x20 4
def signer (r : Bytes) : Nat := byteAt r 0x24
def entry (r : Bytes) (k : Nat) : Bytes := bytesAt r (64 + 16 * k) 16
def entries (r : Bytes) : List Bytes := (List.range (count r)).map (entry r)
/-- The DIGEST of its trailer (R39). -/
def digest (r : Bytes) : Bytes := bytesAt r (length r - 576) 64
end Ovl

/-- The header of an overlay record: its form, reserved bytes and encodings first (00_scope.md R10, R12), then its
lengths. -/
def overlayHeader (r : Bytes) : Checks :=
  [need (r.take 3 == [0x44, 0x5A, 0x4F]), need (byteAt r 3 == 1),
   (!allZero (bytesAt r 0x25 27) || Ovl.length r == 2 ^ 32 - 1 || Ovl.count r == 2 ^ 32 - 1, Code.fieldReserved),
   need (Ovl.length r % 64 == 0), need (1 ≤ Ovl.count r && Ovl.count r ≤ 65536),
   fits (64 + 16 * Ovl.count r + 576 ≤ Ovl.length r), fits (Ovl.length r ≤ 536870912)]

/-- The content of an overlay record against the image that runs: the image it names, then its entries, then its place in
the chain. The order of these checks among themselves is the model's (DESIGN CHOICE, notes/assumptions/142.md). -/
def Image.overlayChecks (i : Image) (current : Nat) (r : Bytes) : Checks :=
  let body := Ovl.length r - 576
  [(Ovl.imageId r != i.imageId, Code.overlayMismatch)] ++
  (Ovl.entries r).flatMap (fun e =>
    [(leAt e 4 4 != 0 || leAt e 8 4 == 2 ^ 32 - 1 || leAt e 0xC 4 == 2 ^ 32 - 1, Code.fieldReserved),
     need (leAt e 8 4 % 64 == 0),
     names (leAt e 0 4 < i.cnt 8), fits (leAt e 8 4 + leAt e 0xC 4 ≤ body),
     (!Wt.trainable (i.weight (leAt e 0 4)), Code.overlayMismatch),
     need (leAt e 0xC 4 == Wt.dataLength (i.weight (leAt e 0 4)))]) ++
  [(Ovl.base r != current, Code.overlaySequence),
   (255 < Ovl.gen r || Ovl.gen r != Ovl.base r + 1, Code.overlaySequence)]

/-- Where the next record of the overlay store goes: after the chain and what is pending. -/
def State.overlayNext (s : State) : Nat :=
  let base := overlayBase s.img.runHalf
  let ends := (s.img.overlays.map fun o => o.addr + o.record.length) ++
    s.img.items.filterMap fun it => match it.kind with
      | .overlayApply a r => some (a + r.length)
      | .promote a r _ => some (a + r.length)
      | _ => none
  ends.foldl max base

/-- Room for a record in the overlay store. -/
def State.overlayRoom (s : State) (n : Nat) : Bool :=
  s.overlayNext + n ≤ overlayBase s.img.runHalf + 536870912

/-- The signature of an overlay record, under the key its SIGNER names (R66, R549): a code where no key
is there or the signature fails. -/
def State.overlaySig (s : State) (r : Bytes) : Option Nat :=
  let n := Ovl.length r - 576
  let message := r.take n
  let trailer := r.drop n
  if Ovl.signer r = 0x10 then
    if sha512 message == trailer.take 64 && identityVerify message (bytesAt trailer 64 512) then none
    else some Code.imageSignature
  else match s.imageKey (Ovl.signer r) with
    | none => some Code.imageKey
    | some key => if trailerOk key message trailer then none else some Code.imageSignature

/-- OVERLAY_APPLY: the record is read, checked, copied into the overlay store and scheduled. A launch count that has passed
is answered before the record is read: the rules give LAUNCH_LATE no place among R67's checks (DESIGN CHOICE,
notes/assumptions/143.md). -/
def State.runOverlayApply (s : State) (c : CmdRef) (h : Hdr) (addr : BitVec 64) : State :=
  if addrReserved addr then s.complete c Code.fieldReserved else
  s.imageGate c h fun s =>
    let l := s.launchOf h.launch
    if s.isLate l then s.complete c Code.launchLate
    else if !bufferIn addr 64 then s.complete c Code.addressUnmapped
    else
      match s.readBuf addr.toNat 64 c.seat with
      | (s, none) => s.complete c Code.memoryUncorrectable
      | (s, some hd) =>
          match Checks.fail (overlayHeader hd) with
          | some e => s.complete c e
          | none =>
              if !bufferIn addr (Ovl.length hd) then s.complete c Code.addressUnmapped else
              match s.readBuf addr.toNat (Ovl.length hd) c.seat with
              | (s, none) => s.complete c Code.memoryUncorrectable
              | (s, some r) =>
                  let sig := s.overlaySig r
                  let s := if sig = some Code.imageKey then s else s.noteSig sig.isNone
                  match sig, s.img.running with
                  | some e, _ => s.complete c e
                  | none, none => s.complete c Code.overlayMismatch
                  | none, some i =>
                      match Checks.fail (i.overlayChecks s.overlayGen r) with
                      | some e => s.complete c e
                      | none =>
                          if !s.overlayRoom r.length then s.complete c Code.lengthRange else
                          let a := s.overlayNext
                          (s.store a r).addItem l (.overlayApply a r) (some c)

/-- OVERLAY_APPLY (R67). -/
def execOverlayApply (h : Hdr) (recordAddr : BitVec 64) (s : State) : Res :=
  .next (s.takeNow (.overlayApply h recordAddr) fun c s => s.runOverlayApply c h recordAddr)

/-- OVERLAY_REVERT. A launch count that has passed is answered before the generation is looked at, as in
`State.runOverlayApply` (DESIGN CHOICE, notes/assumptions/143.md). -/
def State.runOverlayRevert (s : State) (c : CmdRef) (h : Hdr) (gen : Byte) : State :=
  s.imageGate c h fun s =>
    let l := s.launchOf h.launch
    s.checked c
      [(s.isLate l, Code.launchLate), (s.overlayGen < gen.toNat, Code.overlaySequence)]
      fun s => s.addItem l (.overlayRevert gen.toNat) (some c)

/-- OVERLAY_REVERT (R68). -/
def execOverlayRevert (h : Hdr) (gen : Byte) (s : State) : Res :=
  .next (s.takeNow (.overlayRevert h gen) fun c s => s.runOverlayRevert c h gen)

/-! ### Promotion (14_fine_tuning_and_shadow.md R361) -/

/-- The bytes of a promotion's record before its trailer: one entry for each trainable weight, each
weight's data at the next multiple of 64. -/
def promotionBody (imageId : Bytes) (base : Nat) (ws : List (Nat × Bytes)) : Bytes :=
  let first := roundUp (64 + 16 * ws.length) 64
  let (entries, data) := ws.foldl (fun (st : Bytes × Bytes) w =>
    (st.1 ++ natLe 4 w.1 ++ natLe 4 0 ++ natLe 4 (first + st.2.length) ++ natLe 4 w.2.length,
      padTo (roundUp (st.2.length + w.2.length) 64) (st.2 ++ w.2))) ([], [])
  [0x44, 0x5A, 0x4F, 0x01] ++ natLe 4 (first + data.length + 576) ++ imageId ++ natLe 4 base ++
    natLe 4 (base + 1) ++ natLe 4 ws.length ++ [0x10] ++ List.replicate 27 0 ++
    padTo (first - 64) entries ++ data

/-- A record with the trailer the identity key makes (22_security.md R540). -/
def State.signed (s : State) (body : Bytes) : State × Bytes :=
  let digest := sha512 body
  ({ s with free := s.free + 1 }, body ++ digest ++ padTo 512 ((Config.identitySign s.free digest).take 512))

/-- CANDIDATE_PROMOTE: the current buffer is copied and a record is made of it. -/
def State.runPromote (s : State) (c : CmdRef) (h : Hdr) (force : Byte) : State :=
  let l := s.launchOf h.launch
  let k := s.train.cand
  s.checked c
    [(1 < force.toNat, Code.fieldReserved), (k.current.isNone, Code.noCandidate),
     (force == 0 && k.base != s.overlayGen, Code.candidateStale), (s.isLate l, Code.launchLate),
     (255 ≤ s.overlayGen, Code.overlaySequence)]
    fun s =>
      let ws := if k.current = some 0 then k.buf0 else k.buf1
      let (s, r) := s.signed (promotionBody ((s.img.running.map Image.imageId).getD []) s.overlayGen ws)
      if !s.overlayRoom r.length then s.complete c Code.lengthRange
      else s.addItem l (.promote s.overlayNext r false) (some c)

/-- CANDIDATE_PROMOTE (R361). -/
def execCandidatePromote (h : Hdr) (force : Byte) (s : State) : Res :=
  .next (s.takeNow (.candidatePromote h force) fun c s => s.runPromote c h force)

/-- The first promotion record not yet stored goes into the overlay store. -/
def State.storePromotion (s : State) : State :=
  let open' := s.img.items.findSome? fun it => match it.kind with
    | .promote a r false => some (it.order, a, r)
    | _ => none
  match open' with
  | none => s
  | some (n, a, r) =>
      let items := s.img.items.map fun it =>
        if it.order = n then { it with kind := .promote a r true } else it
      ({ s with img := { s.img with items := items } } : State).store a r

/-- CANDIDATE_RECORD_STORED (R361). -/
def execCandidateRecordStored (s : State) : Res := .next s.storePromotion

end Sys2Proof.Machine
end

