-- ==== Sys2Proof/Machine/Objects.lean ====
section
/-! DEFINITION. Object mode (10_ledger_and_deadlines.md R254, R270): the members of stripe jobs merge
into objects; those that no later line can reach close. -/

namespace Sys2Proof.Machine

/-- A member lies within reach of an object. -/
def Obj.reaches (o : Obj) (r : Bytes) (m : Anchor) : Bool :=
  o.members.any fun a =>
    decide (((a.line : Int) - m.line).natAbs ≤ PD.mergeLines r) &&
    decide (((a.col : Int) - m.col).natAbs ≤ PD.mergeCols r)

/-- One member joins the objects it reaches, merged into the one opened first, or opens an object; at
4,096 open objects the oldest closes early. -/
def State.takeMember (s : State) (n next : Nat) (r : Bytes) (m : Anchor) : State :=
  let t := s.objects n
  let hit := t.objs.filter fun o => o.reaches r m
  match hit.head? with
  | some h =>
      let joined : Obj := { h with members := hit.flatMap (·.members) ++ [m] }
      s.updObjects n fun t => { t with
        objs := t.objs.filterMap fun o =>
          if o.order = h.order then some joined
          else if hit.any fun c => c.order == o.order then none else some o }
  | none =>
      let s := if 4096 ≤ t.objs.length then
          match t.objs.head? with
          | some o => (s.setFlag .ledgFlags [] 2).closeObjects n next [{ o with short := true }]
          | none => s
        else s
      s.updObjects n fun t => { t with
        objs := t.objs ++ [{ order := t.nextOrder, members := [m], short := false }]
        nextOrder := t.nextOrder + 1 }

/-- The stripes of a stream whose lanes have all published are taken in order; the objects that no
later line can reach close, as do all of them at the end of a run of lines. -/
def State.takeStripes (s : State) (n : Nat) : Nat → State
  | 0 => s
  | fuel + 1 =>
      match s.partDef n, s.stream n with
      | some r, some x =>
          let t := s.objects n
          let here := t.published.filter fun e => e.1 == t.nextLine
          if here.length < x.lanes then s else
          let next := (here.map fun e => e.2.1 + 1).foldl max (t.nextLine + 1)
          let ms := (List.range x.lanes).flatMap fun l =>
            ((here.find? fun e => e.2.2.1 == l).map fun e => e.2.2.2).getD []
          let s := s.updObjects n fun t => { t with
            published := t.published.filter fun e => e.1 != t.nextLine, nextLine := next }
          let s := ms.foldl (fun s m => s.takeMember n next r m) s
          let os := (s.objects n).objs.filter fun o => decide (o.span.2 + PD.mergeLines r < next)
          let s := ((s.closeObjects n next os).closeRun n).numberScopes n
          let low := s.objectLow n - PD.mergeLines r
          let s := s.updObjects n fun t => { t with linePos := t.linePos.filter fun l => decide (low ≤ l.1) }
          State.takeStripes s n fuel
      | _, _ => s

/-- A deep stripe job of a stream in object mode publishes its members: at most 1,024 (R270). -/
def State.publishMembers (s : State) (j : Job) (r : JobResult) (t : InTensor) : State :=
  match s.partDef j.stream with
  | none => s
  | some d =>
      if PD.mode d ≠ 2 ∨ j.model ≠ 0 then s else
      let s := if 1024 < r.members.length then s.setFlag .ledgFlags [] 2 else s
      let own := if j.lane = 0 then
          t.lines.filter fun l => decide (j.ownFirst ≤ l.1) && decide (l.1 ≤ j.ownLast) else []
      let s := s.updObjects j.stream fun o => { o with
        published := o.published ++ [(j.ownFirst, j.ownLast, j.lane, r.members.take 1024)]
        linePos := o.linePos ++ own }
      s.takeStripes j.stream ((s.objects j.stream).published.length + 1)

end Sys2Proof.Machine
end

