-- ==== Sys2Proof/Machine/Tail.lean ====
section
/-! DEFINITION. Tails, the history store and the digests of a part (08_history_and_sequence_ops.md R200
to R209, 10_ledger_and_deadlines.md R258 to R260, R269, 12_reproducibility.md R311 to R315,
14_fine_tuning_and_shadow.md R360). -/

namespace Sys2Proof.Machine

/-! ### A tail's operators -/

/-- What a tail takes: the committed stripe jobs of its scope, in stripe order, with their results, and
in the order in which cross-stripe results combine (R311); the scope's lines; its number, the numbers by which it looks
into the stores of other streams, first position and generations; whether its lookups select nothing (R316), and the
NEXT_INDEX of the stores when they started (R214). -/
structure TailInput where
  jobs : List JobResult
  order : List JobResult
  lo : Nat
  hi : Nat
  scope : Nat
  pos : Pos
  gen : Word
  ovl : Nat
  alone : Bool
  scopes : Tab Nat := []
  looks : Tab Nat := []

/-- The environment of a tail: no stream input. -/
def tailEnv (i : Image) (x : Stream) (model : Nat) (weight : Nat → Bytes) : Env :=
  { img := i, ops := i.ops model, weight := weight, fmt := x.elemFmt, row0 := 0, col0 := 0, rows := []
    extH := none, extW := x.columns, channels := Strm.comps x.cfg, fixed := [] }

/-- The history rows of a HIST_WRITE whose anchor lines lie in the scope, in stripe, lane, row and column
order, each with whether its job was damaged (R201, R203). -/
def TailInput.rows (t : TailInput) (k : Nat) : List (HistRow × Bool) :=
  t.jobs.flatMap fun j => (j.hist.filter fun r =>
    r.op == k && decide (t.lo ≤ r.anchor.line) && decide (r.anchor.line ≤ t.hi)).map fun r => (r, j.cause != 0)

/-- The row of a HIST_WRITE from which a position of a tail tensor comes: the operator and its index. -/
def Env.source (v : Env) : Nat → Nat → Nat → Option (Nat × Nat)
  | 0, _, _ => none
  | fuel + 1, t, x =>
      match v.ops.find? fun k => Op.out (v.img.op k) == t with
      | none => none
      | some k =>
          let e := v.img.op k
          let src := (Op.input e 0).getD 0
          match Op.opcode e with
          | 0x0202 => some (k, x)
          | 0x0101 | 0x0102 | 0x0103 | 0x0104 => Env.source v fuel src (x * Op.strideW e)
          | 0x0106 => Env.source v fuel src (if 1 < Op.downW e then x * Op.downW e else x / Op.upW e)
          | 0x0105 => none
          | _ => Env.source v fuel src x

/-- The query of a position of HIST_ATTEND's IN0 (R208): the anchor of the HIST_WRITE row it comes from;
else the scope's first line and column 0. -/
def Env.query (v : Env) (t : TailInput) (scope src x : Nat) : Query :=
  match v.source (v.ops.length + 1) src x with
  | some (k, r) => match (t.rows k)[r]? with
      | some (h, _) => { scope := scope, pos := h.anchor.pos, col := h.anchor.col }
      | none => { scope := scope, pos := t.pos, col := 0 }
  | none => { scope := scope, pos := t.pos, col := 0 }

/-- The entries of a store that a tail's lookups see: those that were there when they started (R214). -/
def State.entriesFor (s : State) (t : TailInput) (n : Nat) (h : HistStore) : List (Nat × Bytes × Bool) :=
  if t.alone then [] else (s.histEntries h).filter fun x => (Tab.get t.looks n).elim true fun b => decide (x.1 < b)

/-- The selections of a HIST_ATTEND, query by query, with the uncorrectable entries left out. -/
def State.selections (s : State) (v : Env) (t : TailInput) (e : Bytes) : List (List (Nat × Bytes) × Nat) :=
  let h := s.storeOf e
  let n := Op.haStream e
  let es := s.entriesFor t n h
  let src := (Op.input e 0).getD 0
  (v.positions src).map fun (_, x) => selection e h es t.gen t.ovl (v.query t (Tab.getD t.scopes n t.scope) src x)

/-- What a tail's operators give where the stream input alone does not say. -/
def State.tailOps (s : State) (t : TailInput) (model : Nat) (v : Env) (e : Bytes) : Option (Fixed × Nat) :=
  let src := (Op.input e 0).getD 0
  match Op.opcode e with
  | 0x0105 =>
      if v.img.stripeTensor model src then
        let k := (v.ops.find? fun k => Op.out (v.img.op k) == Op.out e).getD 0
        let parts := t.order.filterMap fun j => (j.partials.find? fun p => p.1 == k).map fun p => p.2
        let (c, st) := v.combine e parts
        some (onePos c, st)
      else some (v.poolWhole e)
  | 0x0202 =>
      let k := (v.ops.find? fun k => Op.out (v.img.op k) == Op.out e).getD 0
      let rows := (t.rows k).map Prod.fst
      let nan (f : Nat) (codes : List Nat) : Bool := codes.any fun c => (decodeEl f c).isNan
      let st := if rows.any fun r => nan (Op.par e 0 1) r.key || nan (Op.par e 1 1) r.value then Arith.nanIn else 0
      some ({ rows := 1, cols := rows.length, chans := Op.hwKeyDim e, data := rows.map (·.key) },
        st ||| if rows.isEmpty then Arith.zeroSize else 0)
  | 0x0203 =>
      let h := s.storeOf e
      let (n, w, _) := v.dims src
      let rs := ((v.positions src).zip (s.selections v t e)).map fun ((y, x), sel) =>
        v.attend e h (v.pos src y x).1 sel.1
      some ({ rows := n.getD 0, cols := w, chans := Op.hwValueDim h.record, data := rs.map Prod.fst },
        rs.foldl (fun a p => a ||| p.2) (if rs.isEmpty then Arith.zeroSize else 0))
  | _ => none

/-- What one HIST_ATTEND looked up: its stream, its queries, those with an empty selection, the entries left out, and
the indices of the entries selected. -/
structure Lookup where
  stream : Nat
  queries : Nat
  empty : Nat
  omitted : Nat
  held : List Nat

/-- What a tail gives: class scores, the digests of its tail taps, ARITH_STATUS, and what each HIST_ATTEND
looked up. -/
structure TailOut where
  scores : List Word
  digests : List (Nat × BitVec 64)
  arith : Nat
  lookups : List Lookup

/-- Runs a tail. -/
def State.runTail (s : State) (i : Image) (x : Stream) (model : Nat) (weight : Nat → Bytes) (t : TailInput) :
    TailOut :=
  let v0 := { tailEnv i x model weight with ops := i.ops model }
  let ops := i.tailOps model
  let (v, st) := v0.runOps (s.tailOps t model) ops
  { scores := v.scores
    digests := ((i.taps model).filter fun k => ops.contains k).map fun k => (k, v.tailDigest (i.op k))
    arith := st
    lookups := (ops.filter fun k => Op.opcode (i.op k) == 0x0203).map fun k =>
      let sel := s.selections v t (i.op k)
      { stream := Op.haStream (i.op k), queries := sel.length, empty := (sel.filter fun q => q.1.isEmpty).length
        omitted := sel.foldl (fun n q => n + q.2) 0, held := (sel.flatMap fun q => q.1.map Prod.fst).dedup } }

/-! ### The history store (R203 to R206) -/

/-- A part's local views whose stream has a store: view and stream. -/
def State.storeViews (s : State) (p : Part) : List (Nat × Nat) :=
  (p.views.zipIdx.filter fun (v, _) => v.local' && (s.histStore v.stream).isSome).map fun (v, k) => (k, v.stream)

/-- The scopes of a part whose store does not count them as settled yet. -/
def State.unsettledViews (s : State) (p : Part) : List (Nat × Nat) :=
  (s.storeViews p).filter fun v => !p.histDone.contains v.1

/-- A part's void scopes are counted once each, in the stores they did not write. -/
def State.countVoid (s : State) (slot : Nat) : State :=
  match s.part slot with
  | none => s
  | some p =>
      if !p.void then s else
      let vs := s.unsettledViews p
      let s := vs.foldl (fun s v => s.updHist v.2 fun h => { h with
        settled := h.settled + 1, void := (h.void + 1) % 2 ^ 32 }) s
      s.notePart slot fun p => { p with histDone := p.histDone ++ vs.map Prod.fst }

/-- Counts every void scope that has not been counted. -/
def State.countVoids (s : State) : State :=
  (s.ledg.parts.filter fun p => p.2.void && !(s.unsettledViews p.2).isEmpty).foldl (fun s p => s.countVoid p.1) s

/-- A part's scope is settled once every store of its views has its entries (R200). -/
def State.settleScope (s : State) (slot : Nat) : State :=
  match s.part slot with
  | none => s
  | some p =>
      if !p.settled && p.deepDone && (s.unsettledViews p).isEmpty then s.notePart slot fun p => { p with settled := true }
      else s

/-- The bytes of an entry (R204). -/
def histEntry (h : HistStore) (k scope : Nat) (p : Part) (r : HistRow) (lane : Nat) (damaged arith : Bool)
    (time : BitVec 64) : Bytes :=
  natLe 8 k ++ natLe 8 r.anchor.line ++ natLe 8 r.anchor.pos.toNat ++ natLe 4 r.anchor.col ++
  natLe 4 scope ++ natLe 4 p.imageGen.toNat ++ natLe 1 p.overlayGen ++
  natLe 1 (b2n damaged + 2 * b2n arith) ++ natLe 2 lane ++ natLe 8 time.toNat ++ natLe 8 0 ++ natLe 8 k ++
  padTo (roundUp (fmtBytes h.keyFormat r.key.length) 64) (posBytes h.keyFormat r.key) ++
  padTo (roundUp (fmtBytes h.valueFormat r.value.length) 64) (posBytes h.valueFormat r.value)

/-- The scope of a stream whose history write is due: the lowest one that has not been written and whose
deep tail has committed. -/
def State.histDue (s : State) (n : Nat) : Option (Nat × Nat × Part × Nat × View) :=
  let due := s.ledg.parts.flatMap fun (slot, p) =>
    if p.handedIn || p.void || p.settled then [] else
    p.views.zipIdx.filterMap fun (v, k) =>
      if v.local' && v.stream == n && v.deep.isSome && !p.histDone.contains k then
        v.scope.map fun q => (q, slot, p, k, v)
      else none
  due.foldl (fun m d => match m with
    | none => some d
    | some c => if d.1 < c.1 then some d else some c) none

/-- The rows of a scope for a stream's store, each with its lane and whether its job was damaged. -/
def State.scopeRows (s : State) (p : Part) (v : View) (h : HistStore) : List (HistRow × Nat × Bool) :=
  (s.serving p v 0).flatMap fun j => match j.result with
    | none => []
    | some r => (r.hist.filter fun q =>
        (match s.img.running with
          | some i => i.op q.op == h.record
          | none => false) &&
        decide (v.first.getD 0 ≤ q.anchor.line) && decide (q.anchor.line ≤ v.last.getD 0)).map
          fun q => (q, j.lane, r.cause != 0)

/-- What a tail takes from a part and one of its views. -/
def State.tailInput (s : State) (p : Part) (view : Nat) (v : View) (j : Job) (det : Bool) : TailInput :=
  let js := s.serving p v j.model
  let byAccept := js.mergeSort fun a b => decide (a.accepted ≤ b.accepted)
  { jobs := js.filterMap (·.result), order := ((if det then js else byAccept).filterMap (·.result))
    lo := v.first.getD 0, hi := v.last.getD 0, scope := v.scope.getD p.scopeSeq, pos := p.startPos, gen := p.imageGen
    ovl := p.overlayGen, alone := false, looks := j.looks
    scopes := s.ledg.hist.filterMap fun (n, _) => (p.scopeOn view n).map fun q => (n, q) }

/-- A tail job with what it takes and what it gives as things stand. -/
def State.tailGives (s : State) (i : Image) (j : Job) : Option (TailInput × TailOut) :=
  match s.part j.slot, s.stream j.stream with
  | some p, some x => (p.views[j.view]?).map fun v =>
      let t := s.tailInput p j.view v j (s.partDet p)
      (t, s.runTail i x j.model (s.jobWeight i j.model j.aux) t)
  | _, _ => none

/-- Lookups that have started and not ended hold one of the entries that a write of `n` entries takes the slots of
(R214). They end with their tail (notes/assumptions/136.md). -/
def State.slotsHeld (s : State) (stream : Nat) (h : HistStore) (n : Nat) : Bool :=
  match s.img.running with
  | none => false
  | some i => (s.sched.jobs.filter fun j => j.kind == .tail && !j.looks.isEmpty).any fun j =>
      match s.tailGives i j with
      | none => false
      | some (_, out) => out.lookups.any fun l => l.stream == stream &&
          l.held.any fun k => decide (k + h.slots < h.nextIndex + n)

/-- HIST_WRITE of a stream's next scope (R200 to R204): at most half the ring, the rest counted. It waits for the
scopes before it and for lookups that still read the slots it needs (R214). -/
def State.histWrite (s : State) (n : Nat) : State :=
  let s := s.countVoids
  match s.histDue n, s.histStore n with
  | some (q, slot, p, view, v), some h =>
      let rows := s.scopeRows p v h
      let most := h.slots / 2
      let kept := rows.take most
      if !s.settledBefore n q || s.slotsHeld n h kept.length then s else
      let arith := v.arithDeep != 0
      let s := kept.zipIdx.foldl (fun s ((r, lane, bad), i) =>
        s.store (h.slotAddr (h.nextIndex + i)) (histEntry h (h.nextIndex + i) q p r lane bad arith s.tb0)) s
      let s := s.updHist n fun h => { h with
        nextIndex := h.nextIndex + kept.length, settled := h.settled + 1
        truncated := (h.truncated + (rows.length - kept.length)) % 2 ^ 32
        damaged := (h.damaged + (kept.filter fun r => r.2.2).length) % 2 ^ 32 }
      let s := s.notePart slot fun p => { p with histDone := p.histDone ++ [view] }
      (((s.putHist n).settleScope slot).readyCheck).afterDecision
  | _, _ => s

/-- The rewrite of a store header at least every 1 ms. -/
def State.histHeader (s : State) (n : Nat) : State := s.countVoids.putHist n

/-- What a tail's lookups count, and the uncorrectable entries they met (R208, R443). -/
def State.noteLookups (s : State) (out : TailOut) : State :=
  out.lookups.foldl (fun s l =>
    let s := s.updHist l.stream fun h => { h with
      lookups := (h.lookups + l.queries) % 2 ^ 32, emptyLookups := (h.emptyLookups + l.empty) % 2 ^ 32
      eccOmitted := (h.eccOmitted + l.omitted) % 2 ^ 32 }
    if l.omitted = 0 then s else
    match s.histStore l.stream with
    | some h => ((s.histEntries h).filter fun x => x.2.2).foldl (fun s x =>
        match s.badIn (h.slotAddr x.1) h.entryBytes with
        | some g => s.reportUe g 0x40
        | none => s) s
    | none => s) s

/-! ### Digests of a part (R314, R315) -/

/-- The combined digest of tap k over some views, each with its jobs' digests in order and its tail's. -/
def combineDigest (stripe : Bool) (k : Nat) (views : List (List JobResult × List (Nat × BitVec 64))) :
    BitVec 64 :=
  let of (l : List (Nat × BitVec 64)) : Nat := (((l.find? fun d => d.1 == k).map Prod.snd).getD 0).toNat
  n64 (views.foldl (fun d (js, tail) =>
    if stripe then js.foldl (fun d j => crc64 d (natLe 8 (of j.digests))) d
    else crc64 d (natLe 8 (of tail))) 0)

/-- The digest block of a model over some views: one number for each of its taps. -/
def digestBlock (i : Image) (model : Nat) (views : List (List JobResult × List (Nat × BitVec 64))) :
    List (BitVec 64) :=
  (i.taps model).map fun k => combineDigest ((i.stripeOps model).contains k) k views

/-- Fills in a part's digest block once every local view's deep tail has committed. -/
def State.fillDigests (s : State) (slot : Nat) : State :=
  match s.part slot, s.img.running with
  | some p, some i =>
      if !p.deepDone || p.digestValid || p.views.all (fun v => !v.local') then s else
      let locals := p.views.filter fun v => v.local'
      let whole := locals.all fun v => s.scopeCommitted p v 0
      if !whole then s else
      let views := locals.map fun v => ((s.serving p v 0).filterMap (·.result), v.tailDigests)
      s.updPart slot fun p => { p with digestValid := true, digests := digestBlock i 0 views }
  | _, _ => s

/-! ### The end of a tail -/

/-- The status of the stripe jobs that serve a view. -/
def servingArith (js : List JobResult) : BitVec 16 := js.foldl (fun a r => a ||| r.arith) 0

/-- A handoff of view scores (R269). -/
def State.handScores (s : State) (slot model : Nat) (vs : List View) : State :=
  match s.part slot with
  | none => s
  | some p => vs.foldl (fun s v =>
      let scores := if model = 1 then v.shoal else v.deep
      let arith := if model = 1 then v.arithShoal else v.arithDeep
      match scores with
      | some sc => s.handoff { p with source := if model = 1 then 2 else 1, arith := arith } 1 (v.cause != 0) sc
      | none => s) s

/-- The last stage of a view's tail commits: its scores join, and the part is judged. -/
def State.commitTail (s : State) (i : Image) (j : Job) : State :=
  match s.part j.slot, s.tailGives i j with
  | some p, some (t, out) =>
      let s := s.noteLookups out
      let arith := servingArith t.jobs ||| BitVec.ofNat 16 out.arith
      let take (v : View) : View := match j.model with
        | 0 => { v with deep := some out.scores, arithDeep := arith, tailDigests := out.digests }
        | 1 => { v with shoal := some out.scores, arithShoal := arith }
        | _ => { v with cand := some out.scores }
      let hid := out.lookups.any fun l => l.omitted != 0
      let s := s.updPart j.slot fun p => { p with
        views := listUpd p.views j.view take, concealed := p.concealed || hid }
      let s := s.recordJoined j.slot j.model
      let s := if j.model = 0 then
          let s := s.fillDigests j.slot
          let s := if ((s.part j.slot).map fun p => p.deepDone && p.deepPending).getD false then
              s.updPart j.slot fun p => { p with deepPending := false }
            else s
          let s := s.settleScope j.slot
          match (s.part j.slot).bind fun p => p.views[j.view]? with
          | some w => s.handScores j.slot 0 [w]
          | none => s
        else s
      let s := if j.model = 2 then s else s.judge j.slot
      let byShoal : Bool := match s.part j.slot with
        | some q => j.model == 1 && p.undecided && q.source == 2
        | none => false
      (match byShoal, s.part j.slot with
        | true, some q => s.handScores j.slot 1 (q.views.filter fun v => v.local')
        | _, _ => s)
  | _, _ => s

/-- HIST_WRITE (R200 to R206). -/
def execHistWrite (stream : Fin 64) (s : State) : Res := .next (s.histWrite stream)

/-- HISTORY_HEADER_UPDATE (R206). -/
def execHistoryHeaderUpdate (stream : Fin 64) (s : State) : Res := .next (s.histHeader stream)

end Sys2Proof.Machine
end

