-- ==== Sys2Proof/Machine/Publish.lean ====
section
/-! DEFINITION. The commit point (09_scheduling.md R218 to R220): what a publish makes visible, for each
kind of command, and replay jobs (12_reproducibility.md R316). -/

namespace Sys2Proof.Machine

/-! ### Stripe jobs -/

/-- The views of parts that a stripe job serves: slot and view. -/
def State.servedViews (s : State) (j : Job) : List (Nat × Nat) :=
  (s.servedBy j).flatMap fun (slot, p) => (p.views.zipIdx.filter fun (v, _) =>
    v.covers j.stream j.ownFirst j.ownLast && (match s.stream j.stream with
      | some x => p.inLane x j.lane
      | none => false)).map fun (_, k) => (slot, k)

/-- The slots of the parts that a job serves. -/
def State.servedSlots (s : State) (j : Job) : List Nat :=
  match j.kind with
  | .stripe => ((s.servedViews j).map Prod.fst).dedup
  | .tail => [j.slot]
  | _ => []

/-- A granule lies in the stage area: what follows the stream buffers in their region (R133). -/
def State.inStageArea (s : State) (g : Nat) : Bool :=
  match s.mc.plan.find? fun r => r.1 == 9 with
  | some (_, base, size) => decide (base + 4096 ≤ g) && decide (g < base + size) &&
      s.cam.streams.all fun x => decide (g < x.2.layout.base) || decide (x.2.layout.base + x.2.layout.size ≤ g)
  | none => false

/-- A stripe job of several stages reads the outputs of its earlier ones: an uncorrectable granule of the stage
area is one of those or it is not, as a free draw says (R443; notes/assumptions/126.md). -/
def State.readStages (s : State) : State × Bool :=
  (s.mc.bad.filter fun g => s.inStageArea g).foldl (fun (s, hit) g =>
    let (d, s) := s.draw 2
    if d = 0 then (s, hit) else (s.reportUe g 0x40, true)) (s, false)

/-- The last stage of a stripe job commits: its result is published, damage reaches the parts it serves,
and its members are taken (R128, R254, R262, R443). -/
def State.commitStripe (s : State) (i : Image) (j : Job) : State :=
  match s.stream j.stream, j.input with
  | some x, some t =>
      let r := s.stripeResult i x j t
      let (s, hit) := if 2 ≤ (i.stagesOf j.model false).length then s.readStages else (s, false)
      let r := if hit ∧ r.cause = 0 then { r with cause := Code.memoryUncorrectable } else r
      let k := s.sched.acceptOrder
      let s := s.updJob j.id fun y => { y with result := some r, accepted := k, input := none }
      let s := if r.cause = 0 then s else
        s.updStream j.stream fun x => { x with damagedStripes := x.damagedStripes + 1 }
      let vs := s.servedViews j
      let s := if r.cause = 0 ∨ j.model = 2 then s else
        vs.foldl (fun s v => (s.damageView v.1 v.2 r.cause).judge v.1) s
      s.publishMembers j r t
  | _, _ => s

/-! ### Replay jobs (R316) -/

/-- The stream as a replay sees it: N lines from an origin to the closing. -/
def Stream.replayed (x : Stream) (n : Nat) : Stream := { x with origins := [0, n], nextCorr := n, lines := [] }

/-- Where a corrected line of a stream lies in its own format. -/
def Stream.corrLoc (x : Stream) : LineLoc := if passes x.cfg x.lp then .corrected else .raw

/-- Bytes of a corrected line of a stream in its own format. -/
def Stream.corrBytes (x : Stream) : Nat :=
  if passes x.cfg x.lp then x.layout.corrLineBytes else x.layout.rawLineBytes

/-- The pixels of some columns of a line of a replay buffer, as a lane reads them. -/
def State.bufferPixels (s : State) (x : Stream) (a col0 cols lane : Nat) : List (List Nat) :=
  let e := corrElem x.cfg x.lp
  (List.range cols).map fun i => (List.range (Strm.comps x.cfg)).map fun c =>
    leNat (s.load (a + x.elemOffset x.corrLoc (col0 + i) c (some lane)) e)

/-- One stripe job of a replay with its input. -/
def State.replayStripe (s : State) (x : Stream) (job : Job) (addr j lane : Nat) : Job × InTensor :=
  let (a, b) := x.ownLines 0 j
  let (lo, hi) := x.readLines 0 j
  let (c0, c1) := x.laneCols lane
  let cl := c0 - Strm.haloCols x.cfg
  let ch := min x.columns (c1 + Strm.haloCols x.cfg)
  let size := x.corrBytes
  let ls := (List.range (hi - lo)).map fun k =>
    let p := addr + (lo + k) * size
    (lo + k, p, if (s.badIn p size).isSome then Code.memoryUncorrectable else 0)
  ({ job with stripe := j, lane := lane, first := lo, last := hi, ownFirst := a, ownLast := b },
    { fmt := x.elemFmt, row0 := lo, col0 := cl
      rows := ls.map fun (_, p, cause) =>
        if cause = 0 then s.bufferPixels x p cl (ch - cl) lane else x.zeroRow (ch - cl)
      lines := ls.map fun (k, _, cause) => (k, 0, cause)
      segStart := 0, segEnd := some x.nextCorr, width := x.columns })

/-- The stripes of a replay. -/
def Stream.replayStripes (x : Stream) (n : Nat) : Nat := ceilDiv n (max 1 (Strm.stripeRows x.cfg))

/-- The classes of a model: the channels of its last operator's OUT (R258). -/
def Image.classes (i : Image) (x : Stream) (model : Nat) : Nat :=
  match (i.ops model).getLast? with
  | some k => ((tailEnv i x model fun _ => []).dims (Op.out (i.op k))).2.2
  | none => 0

/-- The bytes a replay of N lines writes. -/
def Image.replayBytes (i : Image) (x : Stream) (model n : Nat) : Nat :=
  4 * i.classes x model + 128 + 144 * (x.replayStripes n * x.lanes)

/-- The record of one stripe job of a replay. -/
def replayRecord (i : Image) (j : Job) (r : JobResult) : Bytes :=
  natLe 4 j.stripe ++ natLe 2 j.lane ++ natLe 2 (b2n (r.cause != 0)) ++ natLe 2 r.arith.toNat ++ natLe 6 0 ++
  (List.range 16).flatMap fun t => natLe 8 (match (i.taps j.model)[t]? with
    | some k => (((r.digests.find? fun d => d.1 == k).map Prod.snd).getD 0).toNat
    | none => 0)

/-- The last unit of a replay commits: the whole range is one scope, combined in Reproducible order. Where a line of
its buffer cannot be read, the stripes that read it are damaged and the command completes with
MEMORY_UNCORRECTABLE (17_memory.md R443; DEDUCED, notes/assumptions/170.md). -/
def State.commitReplay (s : State) (i : Image) (job : Job) : State :=
  match Tab.get s.sched.replays job.id, s.stream job.stream with
  | some (addr, n, result, _), some y =>
      let x := y.replayed n
      let bad := ((List.range n).filterMap fun k => s.badIn (addr + k * x.corrBytes) x.corrBytes).dedup
      let js := (List.range (x.replayStripes n)).flatMap fun j => (List.range x.lanes).map fun l =>
        s.replayStripe x job addr j l
      let rs := js.map fun (j, t) => (j, s.stripeResult i x j t)
      let results := rs.map Prod.snd
      let t : TailInput :=
        { jobs := results, order := results, lo := 0, hi := n - 1, scope := 0, pos := 0, gen := job.gen
          ovl := 0, alone := true }
      let out := s.runTail i x job.model (s.jobWeight i job.model job.aux) t
      let block := digestBlock i job.model [(results, out.digests)]
      let bytes := (out.scores.flatMap fun w => natLe 4 w.toNat) ++
        ((List.range 16).flatMap fun t => natLe 8 (block.getD t 0).toNat) ++
        rs.flatMap fun (j, r) => replayRecord i j r
      let s := bad.foldl (fun s g => s.reportUe g 0x40) s
      let s := s.storeFor (initiatorOf job.by') result bytes
      let s := { s with sched := { s.sched with
        jobs := s.sched.jobs.filter fun z => z.id != job.id, replays := Tab.del s.sched.replays job.id } }
      s.answer job.by' (if bad.isEmpty then Code.ok else Code.memoryUncorrectable) 0 bytes.length
  | _, _ => s

/-- JOB_REPLAY. -/
def State.runJobReplay (s : State) (c : CmdRef) (context : BitVec 16) (model stream : Byte) (lines : Word)
    (lineAddr resultAddr : BitVec 64) (resultBytes : Word) : State :=
  let m := model.toNat
  let n := stream.toNat
  let x := s.stream n
  let known : Bool := match s.img.running with
    | some i => decide (m ≤ 2) && i.inModel m n && x.isSome
    | none => false
  let need := match s.img.running, x with
    | some i, some x => i.replayBytes x m lines.toNat
    | _, _ => 0
  let size := (x.map fun x => x.corrBytes * lines.toNat).getD 0
  s.checked c
    [(addrReserved lineAddr || addrReserved resultAddr || lines.toNat == 2 ^ 32 - 1 ||
        resultBytes.toNat == 2 ^ 32 - 1, Code.fieldReserved),
     (decide (1024 ≤ context.toNat) || !known, Code.badIndex),
     (!s.isHostCtx context.toNat, Code.contextState),
     (lines == 0 || decide (resultBytes.toNat < need), Code.lengthRange),
     (!bufferIn lineAddr size || !bufferIn resultAddr resultBytes.toNat, Code.addressUnmapped),
     (m == 2 && s.train.cand.current.isNone, Code.noCandidate)]
    fun s =>
      let id := s.sched.nextJob
      let job : Job :=
        { id := id, kind := .replay, ctx := context.toNat, model := m, stream := n, stripe := 0, lane := 0
          gen := s.img.gen, first := 0, last := lines.toNat, ownFirst := 0, ownLast := lines.toNat - 1
          slot := 0, view := 0, input := none, result := none, accepted := 0, closedEnd := true, det := true
          by' := some c, aux := if m = 2 then s.train.cand.current.getD 0 else s.overlayGen }
      let s := s.addJob job
      let s := { s with sched := { s.sched with
        replays := Tab.put s.sched.replays id
          (lineAddr.toNat, lines.toNat, resultAddr.toNat, resultBytes.toNat) } }
      let stages := match s.img.running, x with
        | some i, some x =>
            (List.range (x.replayStripes lines.toNat * x.lanes)).flatMap (fun _ => i.stagesOf m false) ++
              i.stagesOf m true
        | _, _ => []
      let s := stages.foldl (fun s k => s.addCmd id k) s
      ({ s with sched := { s.sched with cmds := s.sched.cmds.map fun d =>
          if d.job = id then { d with spaceReserved := true } else d } } : State).readyCheck.turnCheck

/-! ### The publish -/

/-- A command commits: what its kind publishes, the last command of a job in full (R219, R220). -/
def State.commitCmd (s : State) (x : Cmd) (j : Job) (last : Bool) : State :=
  match s.img.running with
  | none => s
  | some i =>
      match j.kind with
      | .stripe =>
          let s := if i.lastReader j.model = some x.stage then s.takeInput i j else s
          if last then
            let s := match s.job j.id with
              | some y => if y.input.isNone then s.takeInput i y else s
              | none => s
            (match s.job j.id with
              | some y => s.commitStripe i y
              | none => s)
          else s
      | .tail =>
          if last then
            let s := s.commitTail i j
            { s with sched := { s.sched with jobs := s.sched.jobs.filter fun y => y.id != j.id } }
          else s
      | .replay => if last && !x.doomed then s.commitReplay i j else s
      | .trainSample | .trainStep | .trainPublish =>
          let s := { s with sched := { s.sched with jobs := s.sched.jobs.filter fun y => y.id != j.id } }
          if x.doomed then s else
          (match j.kind with
            | .trainSample => s.commitSample (j.ctx - 128) j.aux
            | .trainStep => s.commitStep (j.ctx - 128)
            | _ => s.commitPublish (j.ctx - 128))

/-- A command is the last of its job: its model's last stage of the kind, or the last one left. -/
def State.lastCmd (s : State) (x : Cmd) (j : Job) : Bool :=
  match j.kind, s.img.running with
  | .stripe, some i => (i.stagesOf j.model false).getLast? == some x.stage
  | .tail, some i => (i.stagesOf j.model true).getLast? == some x.stage
  | _, _ => (s.jobCmds j.id).length == 1

/-- A job that was withdrawn while its command was committing goes with the commit. -/
def State.dropDoomed (s : State) (x : Cmd) : State :=
  if !x.doomed then s else
  (({ s with sched := { s.sched with
      cmds := s.sched.cmds.filter fun c => c.job != x.job
      jobs := s.sched.jobs.filter fun y => y.id != x.job
      replays := Tab.del s.sched.replays x.job } } : State).releaseJob x.job)

/-- The verdict block accepts the publish of a core's committing command; the deadline test runs for every part it
serves (R219, R264). -/
def State.publish (s : State) (n : Nat) : State :=
  match s.onCore n with
  | none => s
  | some x =>
      if x.st ≠ .committing then s else
      match s.job x.job with
      | none => s.updCore n fun c => { c with st := .idle, cmd := none, stalled := 0 }
      | some j =>
          let last := s.lastCmd x j
          let s := s.updCore n fun c => { c with st := .idle, cmd := none, stalled := 0 }
          let s := s.count .coreDone [n]
          let s := { s with sched := { s.sched with
            cmds := s.sched.cmds.filter fun c => c.id != x.id, acceptOrder := s.sched.acceptOrder + 1 } }
          let served := s.servedSlots j
          let s := (s.commitCmd x j last).dropDoomed x
          let s := served.foldl (fun s k => s.deadlineOf k) s
          let s := s.readyCheck.ctxCheck j.ctx
          let s := if ctxClass j.ctx = 2 then s.turnCommit true else s.turnCheck
          s.afterDecision

/-- PUBLISH (R218 to R220). -/
def execPublish (core : Fin 4) (s : State) : Res := .next (s.publish core)

/-- JOB_REPLAY (R316). -/
def execJobReplay (h : Hdr) (context : BitVec 16) (model stream : Byte) (lines : Word)
    (lineAddr resultAddr : BitVec 64) (resultBytes : Word) (s : State) : Res :=
  .next (s.takeNow (.jobReplay h context model stream lines lineAddr resultAddr resultBytes)
    fun c s => s.runJobReplay c context model stream lines lineAddr resultAddr resultBytes)

end Sys2Proof.Machine
end

