-- ==== Sys2Proof/Machine/ImageLoad.lean ====
section
/-! DEFINITION. The load phase of an apply (02_deurzor_image.md R63, with what the chapters say an apply
does to their own state): regions, streams, stores, libraries, contexts, training, field, time and
group. -/

namespace Sys2Proof.Machine

/-! ### Regions (17_memory.md R442, R453) -/

/-- The registers of a region. -/
def State.showRegion (s : State) (n base size : Nat) : State :=
  (s.setPair .memRegBaseLo .memRegBaseHi [n] base).setReg .memRegSize [n] (size / 1048576)

/-- The fixed regions (R441). -/
def fixedRegions : List (Nat × Nat × Nat) :=
  [(0, 0, 0x40000000), (1, 0x40000000, 0x10000000), (2, 0x50000000, 0x10000000),
   (3, 0x60000000, 0x4000000), (4, 0x64000000, 0x2000000), (5, 0x66000000, 0x9A000000),
   (6, 0x100000000, 0x80000000), (7, 0x180000000, 0x120000000), (8, 0x2A0000000, 0x120000000)]

/-- The running plan and the registers of the flexible regions. -/
def State.loadPlan (s : State) (p : Plan) : State :=
  let s := { s with mc := { s.mc with plan := p.regions } }
  [9, 10, 11, 12].foldl (fun s n => match p.regions.find? fun r => r.1 == n with
    | some r => s.showRegion n r.2.1 r.2.2
    | none => s.showRegion n 0 0) s

/-- A range of DRAM is zeroed. -/
def State.zero (s : State) (a n : Nat) : State :=
  { s with mem := s.mem.filter fun c => decide (c.1 < a) || decide (a + n ≤ c.1) }

/-! ### Old parts (R61, R63) -/

/-- What is left of a view of an old part: its lines are gone where its stream's buffer is not kept. -/
def View.detach (v : View) (kept : Bool) : View :=
  if kept then { v with complete := true, passed := true }
  else { v with first := none, last := none, complete := true, passed := true }

/-- Scopes of old parts whose history rows are there are written; the rest settle void. Shadow work ends. -/
def State.closeOldParts (s : State) (kept : Nat → Bool) : State :=
  let s := (List.range 64).foldl (fun s n => s.numberScopes n) s
  let s := (List.range 64).foldl (fun s n =>
    (List.range (s.ledg.parts.length)).foldl (fun s _ => s.histWrite n) s) s
  let settle (p : Part) : Part :=
    { p with void := p.void || !p.settled, settled := true, deepPending := false, shadow := false }
  let detach (p : Part) : Part := { p with views := p.views.map fun v => v.detach (kept v.stream) }
  let all (f : Part → Part) (s : State) : State :=
    { s with ledg := { s.ledg with parts := s.ledg.parts.map fun x => (x.1, f x.2) } }
  all detach (all settle s).countVoids

/-! ### Scheduler (09_scheduling.md R216, R233, R236) -/

/-- Commands that are committing complete normally, since they are never killed (R218). -/
def State.finishCommits (s : State) : State := (List.range 4).foldl (fun s n => s.publish n) s

/-- Host and training work is killed and completes with CANCELLED; stripe jobs and tails go, with the references they
hold. -/
def State.clearWork (s : State) : State :=
  let s := s.sched.jobs.foldl (fun s j => match j.kind with
    | .replay => s.cancelJob j.id Code.cancelled
    | _ => s.withdraw j.id) s
  let s := { s with sched := { s.sched with jobs := [], cmds := s.sched.cmds.filter fun c => c.doomed } }
  (List.range 4).foldl (fun s n => s.updCore n fun c => { c with sets := [], lostSets := [] }) s

/-- The contexts of an image: live and pinned for each bound stream, shadow where a policy covers the
stream, training for each record. Host contexts stay. -/
def State.loadContexts (s : State) (i : Image) : State :=
  let s := { s with sched := { s.sched with ctxs := s.sched.ctxs.filter fun c => decide (160 ≤ c.1) } }
  let s := (i.streams.map Strm.stream).foldl (fun s n => s.defineCtx n .live 0xFF true) s
  let s := i.shadowStreams.foldl (fun s p => s.defineCtx (64 + p.1) .shadow 0xFF p.2) s
  let s := (i.kindOf 15 3).foldl (fun s r => s.defineCtx (128 + byteAt r 1) .training 0xFF false) s
  (List.range 160).foldl (fun s c => if (s.ctx c).any Ctx.pinned then s.swapIn c else s) s

/-! ### Streams (03_camera_ingest.md R81, 05_stripes_and_layouts.md R133 to R136) -/

/-- The number of the first line block and the first raw line that belong to the new binding. -/
def Stream.newBase (x : Stream) : Word × Nat :=
  match x.rawLines.find? fun l => l.gap with
  | some l => (l.block, l.index)
  | none => ((x.block.map (·.number)).getD x.blockNext, x.nextRaw)

/-- A stream under a new binding: numbers start at 0, what the camera side has under way goes on. -/
def Stream.rebind (x : Stream) (cfg : Bytes) (lp : Option (Bytes × Bytes)) (y : StreamLayout) (gen : Word)
    (restart : Bool) : Stream :=
  let (b, n) := x.newBase
  { cfg := cfg, lp := lp, layout := y, imageGen := gen, layGen := gen, offsetEn := x.offsetEn, slack := x.slack
    blockNext := x.blockNext - b
    block := x.block.map fun k => { k with number := k.number - b, firstLine := k.firstLine - n }
    window := x.window, nextTag := x.nextTag, partial' := x.partial', partialTime := x.partialTime
    nextRaw := 0, sent := x.sent, paired := x.paired
    trigQueue := if restart then [] else x.trigQueue
    sentTrigs := x.sentTrigs
    uplinkFree := x.uplinkFree
    rawLines := (x.rawLines.filter (·.gap)).map fun l =>
      { l with index := l.index - n, block := l.block - b }
    origins := [0], closed := x.closed, lastLine := x.lastLine, hdrSeq := x.hdrSeq
    descProd := (x.blockNext - b).toNat - b2n x.block.isSome }

/-- A stream that keeps its buffer keeps its numbers. What is left in the pipe of the old image's lines, which its last
stripe origin counts, takes its numbers with it; the row window lies where the new plan has it. -/
def Stream.keep (x : Stream) (cfg : Bytes) (lp : Option (Bytes × Bytes)) (winOff : Nat) (gen : Word) (restart : Bool) :
    Stream :=
  let next := x.nextCorr + x.corrInFlight
  { x with
    cfg := cfg, lp := lp, layout := { x.layout with winOff := winOff }, imageGen := gen, ovls := [], paused := false
    restores := [], rawLines := x.rawLines.filter (·.gap), nextRaw := x.newBase.2
    trigQueue := if restart then [] else x.trigQueue
    align := [], binGroup := [], readyLines := [], stats := [], nextCorr := next, past := [], base := next }

/-- Copies the descriptors of the line blocks that ended in the gap into the new ring, numbered anew. -/
def State.moveDescs (s : State) (old : StreamLayout) (b : Word) (line n : Nat) (y : StreamLayout) : State :=
  (List.range (min n 1024)).foldl (fun s k =>
    let d := s.load (old.base + 0x1000 + 32 * ((b.toNat + k) % 1024)) 32
    s.store (y.base + 0x1000 + 32 * (k % 1024))
      (natLe 4 k ++ bytesAt d 4 4 ++ natLe 8 (leAt d 8 8 - line) ++ bytesAt d 0x10 16)) s

/-- The statistics ring of a stream under a new image (04_line_pipes.md R115, R118). -/
def State.loadStatRing (s : State) (n : Nat) (old : Option Stream) (x : Stream) : State :=
  let geo (x : Stream) : Nat × Nat := match x.lp with
    | some (_, t) => if statRingBytes x.cfg x.lp = 0 then (0, 0) else (LpT.ringLog2 t, statSlot x.cfg x.lp)
    | none => (0, 0)
  let new := geo x
  let was := ((old.map geo).getD (0, 0))
  let s := match old with
    | some o =>
        if new = was then
          if o.layout.base = x.layout.base ∨ new.1 = 0 then s else
          s.store (x.layout.base + x.layout.statOff)
            (s.load (o.layout.base + o.layout.statOff) (2 ^ new.1 * new.2))
        else
          let p := s.reg .lineStatProd [n]
          (s.count .lineStatLost [n] ((p + 2 ^ 32 - s.reg .lineStatCons [n]) % 2 ^ 32)).setReg .lineStatCons [n] p
    | none => s
  let s := s.setPair .lineStatBaseLo .lineStatBaseHi [n]
    (if x.layout.statOff = 0 then 0 else x.layout.base + x.layout.statOff)
  (s.setFld .lineStatCfg [n] 0 5 new.1).setFld .lineStatCfg [n] 16 16 (new.2 / 64)

/-- The statistics ring of a stream that the new image does not bind: what was not read is lost (R115). -/
def State.dropStatRing (s : State) (n : Nat) : State :=
  let p := s.reg .lineStatProd [n]
  let s := (s.count .lineStatLost [n] ((p + 2 ^ 32 - s.reg .lineStatCons [n]) % 2 ^ 32)).setReg .lineStatCons [n] p
  (s.setPair .lineStatBaseLo .lineStatBaseHi [n] 0).setReg .lineStatCfg [n] 0

/-- The lines in the row window of a stream, with their bytes. -/
def State.windowLines (s : State) (x : Stream) : List (Nat × Bytes) :=
  (x.lines.filter fun l => l.loc == .window && l.cause == 0).map fun l =>
    (l.index, s.load (x.winAddr l.index) x.layout.corrLineBytes)

/-- The directory entry of a stream (R133). -/
def streamDir (n : Nat) (x : Option Stream) : Bytes :=
  match x with
  | none => List.replicate 64 0
  | some x =>
      let y := x.layout
      let win := y.winRows != 0
      natLe 1 n ++ [1, 0, 0] ++ natLe 4 x.layGen.toNat ++ natLe 8 y.base ++ natLe 8 y.size ++
      natLe 4 (if win then y.winOff else 0xFFFFFFFF) ++ natLe 4 (y.winRows * (if win then y.corrLineBytes else 0)) ++
      List.replicate 32 0

/-- Binds the streams of an image. `restart`: the dividers start anew. -/
def State.loadStreams (s : State) (i : Image) (p : Plan) (restart : Bool) : State :=
  let s := s.cam.streams.foldl (fun s x => s.flushStats x.1) s
  let old := s.cam.streams
  let windows := old.map fun x => (x.1, s.windowLines x.2)
  let running := s.img.running
  let bind (s : State) (e : Bytes) : State :=
    let n := Strm.stream e
    let y := (Tab.get p.streams n).getD (layoutOf e (i.linePipe n) 0 0)
    match Tab.get old n with
    | none =>
        let x : Stream :=
          { cfg := e, lp := i.linePipe n, layout := y, imageGen := s.img.gen, layGen := s.img.gen
            offsetEn := s.fld .cxpStreamCfg [n] 0 1 == 1, slack := s.fld .cxpStreamCfg [n] 4 4 }
        ((s.zero y.base 4096).setStream n x).loadStatRing n none x
    | some x =>
        let kept : Bool := match running with
          | some o => i.keepsBuffer x n o
          | none => false
        if kept then
          let z := x.keep e (i.linePipe n) y.winOff s.img.gen restart
          let s := (s.setStream n z).loadStatRing n (some x) z
          if z.layout.winOff = x.layout.winOff then s else
          (Tab.getD windows n []).foldl (fun s l => s.store (z.winAddr l.1) l.2) s
        else
          let z := x.rebind e (i.linePipe n) y s.img.gen restart
          let s := (s.setStream n z).loadStatRing n (some x) z
          (s.moveDescs x.layout x.newBase.1 x.newBase.2 z.descProd y).zero y.base 4096
  let s := { s with cam := { s.cam with streams := old.filter fun x => (i.streamEntry x.1).isSome } }
  let s := (old.filter fun x => (i.streamEntry x.1).isNone).foldl (fun s (n, _) => s.dropStatRing n) s
  let s := i.streams.foldl bind s
  let dir := (s.mc.plan.find? fun r => r.1 == 9).map fun r => r.2.1
  let s := match dir with
    | some b => s.store b ((List.range 64).flatMap fun n => streamDir n (s.stream n))
    | none => s
  (i.streams.map Strm.stream).foldl (fun s n => s.putHeader n) s

/-- The lines of the gap are filed again, under the image that runs now (R63). -/
def State.fileGap (s : State) (n : Nat) : State :=
  match s.stream n with
  | none => s
  | some x =>
      let gap := x.rawLines.filter (·.gap)
      let s := s.setStream n { x with rawLines := x.rawLines.filter fun l => !l.gap }
      gap.foldl (fun s l => s.fileRaw n { l with gap := false }) s

/-! ### History stores and objects (08_history_and_sequence_ops.md R205, R212) -/

/-- A fresh store. -/
def freshStore (e : Bytes) (base : Nat) (gen : Word) : HistStore :=
  let kf := Op.par e 0 1
  let vf := Op.par e 1 1
  { record := e, base := base, keyFormat := kf, valueFormat := vf, genEmptied := gen
    entryBytes := 64 + roundUp (Op.hwKeyDim e * fmtBits kf / 8) 64 + roundUp (Op.hwValueDim e * fmtBits vf / 8) 64 }

/-- The directory entry of a store. -/
def histDir (n : Nat) (h : Option HistStore) : Bytes :=
  match h with
  | none => natLe 1 n ++ List.replicate 63 0
  | some h =>
      let e := h.record
      natLe 1 n ++ [1] ++ natLe 1 (Op.hwCapLog2 e) ++ [0] ++ natLe 4 h.entryBytes ++ natLe 8 h.base ++
      natLe 2 (Op.hwKeyDim e) ++ natLe 2 (Op.hwValueDim e) ++ natLe 1 h.keyFormat ++ natLe 1 h.valueFormat ++
      [0, 0] ++ natLe 8 (Op.hwKey e) ++ List.replicate 32 0

/-- The stores of an image. Scope numbering goes on with a kept store and otherwise starts at 0. -/
def State.loadStores (s : State) (i : Image) (p : Plan) : State :=
  let old := s.ledg.hist
  let stores := i.histOps.foldl (init := ([] : Tab HistStore)) fun t (n, e) =>
    let base := Tab.getD p.stores n 0
    Tab.put t n (match Tab.get old n with
      | some h => if histKept h.record e then { h with record := e } else freshStore e base s.img.gen
      | none => freshStore e base s.img.gen)
  let keeps (n : Nat) : Bool := match Tab.get old n, Tab.get i.histOps n with
    | some h, some e => histKept h.record e
    | _, _ => false
  let s := { s with ledg := { s.ledg with
    hist := stores, scopeNext := s.ledg.scopeNext.filter (fun x => keeps x.1), lastCutoff := []
    objects := (i.kindOf 9 1).foldl (init := ([] : Tab ObjState)) fun t r =>
      if PD.mode r = 2 then
        let n := byteAt r 1
        Tab.put t n { nextLine := ((s.stream n).map Stream.nextCorr).getD 0 }
      else t } }
  let s := match s.mc.plan.find? fun r => r.1 == 10 with
    | some r => s.store r.2.1 ((List.range 64).flatMap fun n => histDir n (Tab.get stores n))
    | none => s
  stores.foldl (fun s x => s.putHist x.1) s

/-! ### Libraries, cache, training (13_capture_and_decode.md R339, 14_fine_tuning_and_shadow.md R355, R362) -/

/-- The libraries of an image, and the cache emptied. -/
def State.loadLibraries (s : State) (i : Image) (p : Plan) : State :=
  let old := s.cap.libs
  let libs := (i.kindOf 15 1).foldl (init := ([] : Tab Library)) fun t r =>
    let k := byteAt r 1
    let (ib, db) := Tab.getD p.libs k (0, 0)
    Tab.put t k (match Tab.get old k with
      | some l => if (l.cfg == r) then l else { cfg := r, indexBase := ib, dataBase := db }
      | none => { cfg := r, indexBase := ib, dataBase := db })
  let fresh := libs.filter fun l => ((Tab.get old l.1).map fun o => o.cfg != l.2.cfg).getD true
  let gone (k : Nat) : Bool := ((Tab.get old k).map fun o => (Tab.get libs k).map (·.cfg) != some o.cfg).getD true
  let s := fresh.foldl (fun s l => s.zero l.2.indexBase (64 * Lib.slots l.2.cfg)) s
  let lose (q : DecReq) : DecReq :=
    if gone q.library && q.outcome.isNone then { q with early := some Code.sampleGone } else q
  let streams := s.cap.streams.map fun x => (x.1, { x.2 with reqs := x.2.reqs.map lose })
  let s := { s with cap := { s.cap with libs := libs, cache := [], streams := streams } }
  let s := s.setReg .cacheUsed [] 0
  (List.range 8).foldl (fun s k =>
    s.setPair .libIndexLo .libIndexHi [k] (((Tab.get libs k).map (·.indexBase)).getD 0)) s

/-- Crops of streams whose lines are gone are abandoned. -/
def State.dropCrops (s : State) (kept : Nat → Bool) : State :=
  let gone := ((s.cap.crops ++ s.cap.waiting).filter fun c => !kept c.stream).map (·.id)
  gone.foldl (fun s c => s.abandonCrop c) s

/-- Every job enters STOPPED, those of the old image that were never started among them; training state is released, no
candidate remains, the shadow counts are zeroed. -/
def State.clearTraining (s : State) : State :=
  let own := ((s.img.running.map fun i => i.kindOf 15 3).getD []).map fun r => byteAt r 1
  let s := (s.train.jobs.map Prod.fst ++ own).dedup.foldl (fun s j =>
    (s.stopTrain j Code.cancelled).updTrain j fun t => { t with weights := [] }) s
  let s := { s with train := { s.train with cand := {}, tally := [] } }
  ((s.setReg .shadowRun [] 0).setReg .shadowDisagree [] 0).setReg .shadowCancelled [] 0

/-- Where the tally lies: a fixed place of the firmware region (DESIGN CHOICE, notes/assumptions/42.md). -/
abbrev tallyAt : Nat := 0x1FF00000

/-- The training jobs of an image: those with AUTO_START start. -/
def State.loadTraining (s : State) (i : Image) : State :=
  let s := { s with train := { s.train with tallyBase := tallyAt } }
  let s := (s.setPair .tallyBaseLo .tallyBaseHi [] tallyAt).clearTally
  (i.kindOf 15 3).foldl (fun s r =>
    if Trn.autoStart r then (s.startTrain (byteAt r 1)).pumpTrain (byteAt r 1) else s) s

/-! ### Field, time, group -/

/-- A channel takes its MOTION record; the counter and its run of edges go on, and an SSI channel's next good read is
its first (11_encoders_and_eject.md R281 to R285). -/
def State.loadEnc (s : State) (n : Nat) (r : Bytes) : State :=
  let e := s.enc n
  let off := r.isEmpty || EncCfg.type r == 0
  let e := if e.cfg = r then e else { e with cfg := r, ssiValue := none, ssiBad := 0 }
  let st := if off then .off else if e.st = .off then .stopped else e.st
  s.setEnc n { e with st := st }

/-- The MOTION and FIELD sections take effect: channels, dividers with new grid origins, line map
registers and the field records (R60, R287 to R290). -/
def State.loadField (s : State) (i : Image) : State :=
  let s := (List.range 8).foldl (fun s n => s.loadEnc n ((i.record 11 1 n).getD [])) s
  let s := { s with motion := { s.motion with divs := [], records := i.records 11 }
                    field := { s.field with cfg := i.records 12 } }
  (i.kindOf 11 2).foldl (fun s r =>
    let d := byteAt r 1
    (s.startDivider d r ((i.mapLog2 r).getD 0)).setPair .mapBaseLo .mapBaseHi [d] (lineMapBase d)) s

/-- The TIME section takes effect where it differs from what ran (15_line_group_and_time.md R387, R389). -/
def State.loadTime (s : State) (same : Bool) : State :=
  if same then s else
  let s := (List.range 4).foldl (fun s b =>
    let r := s.timeRec b
    let s := s.updBase b fun t => { t with seconds := b != 1 && TRec.seconds r }
    if b = 2 ∨ b = 3 then s.updBase b fun t => { t with
        st := if TRec.source r = 0 then .free else .listening, lockCount := 0 }
    else s) s
  s.ptpStart

/-- The group is dropped; a group launch that was going on completes with GROUP_NOT_FORMED (DEDUCED,
notes/assumptions/168.md). -/
def State.dropGroup (s : State) : State :=
  let asked := s.net.launches
  let s : State := { s with net := { s.net with
    peers := [], everFormed := false, unacked := [], anchor := none, anchorAt := 0, strip0 := {}
    strip1 := {}, seen := [], launches := [], member := [], answers := [] } }
  asked.foldl (fun s r => s.answer r.by' Code.groupNotFormed 0 0xFF) s

/-- The GROUP section takes effect: a different one drops the group. CAPS is sent at every apply. -/
def State.loadGroup (s : State) (same : Bool) : State := (if same then s else s.dropGroup).sendCaps

/-- Camera ports that STREAMS names get POWER_EN and are discovered (R76); those that are LINKED are bound as they are
(R78). Whether a load is found is outside: a free value. -/
def State.powerPorts (s : State) (i : Image) : State :=
  let s := (i.streams.map Strm.stream).foldl (fun s n => s.bindPorts n) s
  (i.streams.flatMap fun e => (List.range (Strm.portCount e)).map (· + Strm.portFirst e)).foldl
    (fun s p =>
      let (v, s) := s.draw 2
      s.powerUp p (v == 1)) s

end Sys2Proof.Machine
end

