-- ==== Sys2Proof/Machine/ImageApply.lean ====
section
/-! DEFINITION. Launch edges and what takes effect at them (12_reproducibility.md R321, R322;
01_device_overview.md R22), and the phases of an apply (02_deurzor_image.md R59 to R64). -/

namespace Sys2Proof.Machine

/-! ### Power modes (20_reset_clocks_power.md R497, R509) -/

/-- The clock of a power mode in MHz (R21). -/
def PowerMode.mhz : PowerMode → Nat
  | .full => 1100
  | .balanced => 800
  | .sealed => 500

/-- The power mode of the encoding of R22. -/
def PowerMode.ofCode : Nat → PowerMode
  | 0 => .full
  | 1 => .balanced
  | _ => .sealed

/-- A core is on its way to a clock: it runs at the lower of the two. -/
def Core.retune (c : Core) (mhz : Nat) : Core :=
  { c with targetMhz := mhz, mhz := min c.mhz mhz }

/-- INT_STATUS.STATE is set on every seat where GLB.STATE no longer reads as it did (R434). -/
def State.stateChanged (s : State) (old : Word) : State :=
  if s.view .glbState [] = old then s else s.raiseAll 1

/-- A power mode takes effect on all four cores; a throttled core goes on from its throttled clock. -/
def State.setPower (s : State) (m : PowerMode) : State :=
  let old := s.view .glbState []
  let s := { s with img := { s.img with power := m } }
  let s := (List.range 4).foldl (fun s n => s.updCore n fun c =>
    c.retune (if c.throttled then min c.targetMhz m.mhz else m.mhz)) s
  s.stateChanged old

/-! ### Stream boundaries of overlays (R67) -/

/-- An overlay joins the chain. Streams that are closed are at their boundary at once. -/
def State.overlayStarts (s : State) (launch addr : Nat) (record : Bytes) (by' : Option CmdRef)
    (promoted : Option Nat) : State :=
  let gen := Ovl.gen record
  let run : OverlayRun := ⟨launch, gen, by', promoted, s.cam.streams.map Prod.fst⟩
  let o : Overlay := ⟨gen, addr, record⟩
  let s := { s with img := { s.img with
    overlays := s.img.overlays ++ [o], overlayRuns := s.img.overlayRuns ++ [run] } }
  (s.cam.streams.filter fun x => x.2.closed).foldl (fun s x => s.reachOverlays x.1 0 true) s

/-- An overlay or promotion item at its launch edge: what changed since it was accepted may refuse it
(R71, 14_fine_tuning_and_shadow.md R362). -/
def State.overlayEdge (s : State) (it : LaunchItem) (addr : Nat) (record : Bytes) (promoted : Option Nat) : State :=
  let same : Bool := match s.img.running with
    | some i => s.img.apply.isNone && Ovl.imageId record == i.imageId
    | none => false
  if !same then s.answer it.by' Code.overlayMismatch
  else if Ovl.base record ≠ s.overlayGen then s.answer it.by' Code.overlaySequence
  else s.overlayStarts it.launch addr record it.by' promoted

/-- A revert at its launch edge. One that falls into an apply answers OVERLAY_MISMATCH: the chain goes with the old image,
and R71 gives that row for OVERLAY_APPLY only (DESIGN CHOICE, notes/assumptions/144.md). -/
def State.revertEdge (s : State) (it : LaunchItem) (gen : Nat) : State :=
  if s.img.apply.isSome then s.answer it.by' Code.overlayMismatch
  else if s.overlayGen < gen then s.answer it.by' Code.overlaySequence
  else
    let low (x : Stream) : Stream := { x with ovls := x.ovls.map fun e => (e.1, min e.2 gen) }
    let runs := s.img.overlayRuns.map fun (r : OverlayRun) => { r with gen := min r.gen gen }
    let s := { s with img := { s.img with
      overlays := s.img.overlays.filter (fun o => o.gen ≤ gen), overlayRuns := runs } }
    (s.mapStreams low).answer it.by' Code.ok

/-- OVERLAY_APPLY_GAP_END: the pools hold the chain again once every stream has reached its boundary. -/
def State.overlayGapEnd (s : State) : State :=
  match s.img.overlayRuns.find? fun r => r.left.isEmpty with
  | none => s
  | some r =>
      let s := { s with img := { s.img with overlayRuns := s.img.overlayRuns.erase r } }
      match r.promoted with
      | some a => s.answer r.by' Code.ok a
      | none => s.answer r.by' Code.ok 0 r.gen

/-- OVERLAY_APPLY_GAP_END (R67, R416). -/
def execOverlayApplyGapEnd (s : State) : Res := .next s.overlayGapEnd

/-! ### Apply: from the launch edge to the drain (R60 to R63) -/

/-- Every bound stream that is closed takes its boundary at a TB0 time. -/
def State.closedBoundaries (s : State) (t : Nat) : State :=
  (s.cam.streams.filter fun x => x.2.closed && s.boundaryOpen x.1).foldl (fun s x => s.takeBoundary x.1 t) s

/-- An image apply at its launch edge. -/
def State.applyEdge (s : State) (it : LaunchItem) (fieldChange : Bool) : State :=
  match s.img.staged with
  | none => s.answer it.by' Code.imageNotStaged
  | some i =>
      let s := { s with img := { s.img with staging := .verified } }
      if (s.planFor i).isNone then
        (if it.by'.isSome then s.answer it.by' Code.imageResource else s.autoFail Code.imageResource)
      else
        let change := fieldChange && s.fieldDiffers i
        let a : ApplyRun :=
          { phase := if change then .fieldWait else .drain, launch := it.launch, fieldChange := change
            left := s.dev, by' := it.by', newImage := i, drainStart := s.now, boundaries := []
            detItem := false, powerItem := none, edges := [] }
        let s := { s with img := { s.img with apply := some a } }
        (s.setDev .applying).closedBoundaries (it.launch * 1000)

/-- The list is empty and nothing waits to enter it (R62). -/
def State.listEmpty (s : State) : Bool :=
  s.pendingSlots.isEmpty && s.motion.insertQueue.isEmpty && s.motion.insertHold.isEmpty

/-- The field wait ends: line triggers stop and the drain starts. -/
def State.fieldWaitEnd (s : State) : State :=
  match s.img.apply with
  | none => s
  | some a =>
      if a.phase ≠ .fieldWait ∨ !s.listEmpty then s else
      let divs := s.motion.divs.map fun x => (x.1, { x.2 with stopped := true })
      let s := { s with
        motion := { s.motion with divs := divs }
        img := { s.img with apply := some { a with phase := .drain, drainStart := s.now } } }
      s.closedBoundaries s.tb0Ns

/-- FIELD_WAIT_END (R62). -/
def execFieldWaitEnd (s : State) : Res := .next s.fieldWaitEnd

/-- Old-image stripe jobs and tails that have not committed. A tail counts with its stripes: a part
whose tail is uncommitted at the end of a drain is late (10_ledger_and_deadlines.md R262). -/
def State.oldWork (s : State) : List Job :=
  s.sched.jobs.filter fun j => (j.kind == .stripe || j.kind == .tail) && j.result.isNone

/-- The load phase starts. -/
def State.startLoad (s : State) : State :=
  match s.img.apply with
  | none => s
  | some a => { s with img := { s.img with apply := some { a with phase := .load } } }

/-- The drain ends: every stream has reached its boundary, and old work has committed. -/
def State.drainEnd (s : State) : State :=
  match s.img.apply with
  | none => s
  | some a =>
      let waits := a.left == .running && s.cam.streams.any fun x => (Tab.get a.boundaries x.1).isNone
      if a.phase ≠ .drain ∨ waits ∨ !s.oldWork.isEmpty then s else s.startLoad

/-- DRAIN_END (R63). -/
def execDrainEnd (s : State) : Res := .next s.drainEnd

/-- The 150 ms of the drain are over: boundaries not reached are taken now, uncommitted work is killed,
and its parts are late. -/
def State.drainTimeout (s : State) : State :=
  match s.img.apply with
  | none => s
  | some a =>
      if a.phase ≠ .drain then s else
      let s := s.cam.streams.foldl (fun s x =>
        if s.boundaryOpen x.1 then s.takeBoundary x.1 s.tb0Ns else s) s
      let work := s.oldWork
      let late := ((work.filter fun j => j.model != 2).flatMap fun j => (s.servedBy j).map Prod.fst).dedup
      let s := late.foldl (fun s k => s.decideDefault k 3 Code.applyDrain) s
      let s := work.foldl (fun s j => s.withdraw j.id) s
      s.afterDecision.startLoad

/-- DRAIN_TIMEOUT (R63). -/
def execDrainTimeout (s : State) : Res := .next s.drainTimeout

/-! ### Apply: the load phase (R63, R64) -/

/-- The modes of a new image (R22): an override or a power mode that named the apply's launch count, or
came after it, stands. The host time slice is the image's (R43, 09_scheduling.md R225). -/
def State.loadModes (s : State) (a : ApplyRun) : State :=
  let i := a.newImage
  let keep := a.detItem && s.img.detOverride
  let s := s.setFld .schedSlice [] 0 17 i.sliceUs
  let s := { s with img := { s.img with
    detOverride := keep, detMode := if keep then s.img.detMode else i.detMode } }
  s.setPower (a.powerItem.getD i.powerMode)

/-- An item that brings an overlay. -/
def LaunchKind.bringsOverlay : LaunchKind → Bool
  | .overlayApply _ _ | .promote _ _ _ => true
  | _ => false

/-- Overlays that were taking effect or pending on the old image go with its chain (R71). -/
def State.dropOverlays (s : State) : State :=
  let runs := s.img.overlayRuns
  let gone := s.img.items.filter fun it => it.kind.bringsOverlay
  let s := { s with img := { s.img with
    overlays := [], overlayRuns := [], items := s.img.items.filter fun it => !it.kind.bringsOverlay } }
  let s := runs.foldl (fun s r => s.answer r.by' Code.overlayMismatch) s
  gone.foldl (fun s it => s.answer it.by' Code.overlayMismatch) s

/-- Presence edges that waited open their parts under the image that runs now. -/
def State.replayEdges (s : State) (a : ApplyRun) : State :=
  a.edges.foldl (fun s e => s.openAtEdge e.1 e.2.1 e.2.2.1 fun n => e.2.2.2.contains n) s

/-- The restores that waited for an origin and did not meet one under their image. -/
def State.dropRestores (s : State) : State :=
  let waiting := s.cam.streams.flatMap fun x => x.2.restores
  let s := s.mapStreams fun x => { x with restores := [] }
  waiting.foldl (fun s r => s.answer r.2.2 Code.overlayMismatch) s

/-- The load phase succeeds. -/
def State.loadDone (s : State) (a : ApplyRun) (p : Plan) : State :=
  let i := a.newImage
  let old := s.img.running
  let fieldSame : Bool := (old.map fun o => o.sameField i).getD false
  let secSame (t : Nat) : Bool := match old with
    | some o => o.sec t == i.sec t
    | none => false
  let kept (n : Nat) : Bool := match old, s.stream n with
    | some o, some x => i.keepsBuffer x n o
    | _, _ => false
  let s := ((s.finishCommits.closeOldParts kept).clearTraining.clearWork.dropCrops kept).dropOverlays.dropRestores
  let s := { s with mc := { s.mc with lost := [] } }
  let s := { s with img := { s.img with gen := s.img.gen + 1, old := old } }
  let s := (((s.loadPlan p).loadStreams i p (!fieldSame)).loadStores i p).loadLibraries i p
  let staged := old.map fun o => { o with half := s.img.runHalf }
  let s := { s with img := { s.img with
    running := some i, runHalf := i.half, apply := none, staged := staged, autoLoad := 0
    staging := if staged.isSome then .verified else .empty } }
  let s := s.loadModes a
  let s := if fieldSame then s else s.loadField i
  let s := (s.loadTime (secSame 13)).loadGroup (secSame 14)
  let s := (s.loadContexts i).loadTraining i
  let s := s.setDev .running
  let s := (i.streams.map Strm.stream).foldl (fun s n => s.fileGap n) s
  let s := (s.replayEdges a).powerPorts i
  s.answer a.by' Code.ok 0 s.img.gen.toNat

/-- Lines that a stream filed past its boundary go to the image that goes on: those that the new image's entry made of
another size than its own are unusable, and the rest of such a block is dropped. -/
def Stream.regain (x : Stream) : Stream :=
  let els := Strm.width x.cfg * Strm.comps x.cfg
  { x with
    nextRaw := x.newBase.2
    rawLines := x.rawLines.map fun l =>
      if l.gap ∧ l.cause = 0 ∧ l.pix.length ≠ els then { l with cause := Code.cxpFormatMismatch } else l
    block := x.block.map fun b => if b.held.isSome || b.dropping || b.lineEls == els then b else
      { b with dropping := true, cause := Code.cxpFormatMismatch, flags := b.flags ||| 2 } }

/-- The load phase fails: the old image goes on, and parts that opened for the new one are decided by
fault (R64). -/
def State.loadFailed (s : State) (a : ApplyRun) (code : Nat) : State :=
  let streams := s.cam.streams.map Prod.fst
  let s := { s with img := { s.img with apply := none, autoLoad := 0 } }
  let divs := s.motion.divs.map fun x => (x.1, { x.2 with stopped := false })
  let s := { s with motion := { s.motion with divs := divs } }
  let s := (s.setDev a.left).log { errorRec 0 with status := code, initiator := initiatorOf a.by' }
  let old := s.ledg.parts.map Prod.fst
  let s := streams.foldl (fun s n => s.updStream n Stream.regain) s
  let s := s.replayEdges a
  let new := (s.ledg.parts.map Prod.fst).filter fun k => !old.contains k
  let s := new.foldl (fun s k => s.decideDefault k 5 code) s
  let s := (streams.foldl (fun s n => s.fileGap n) s).afterDecision
  s.answer a.by' code

/-- The load phase ends. -/
def State.loadEnd (s : State) (failed : Option Nat) : State :=
  match s.img.apply with
  | none => s
  | some a =>
      if a.phase ≠ .load then s else
      match failed, s.planFor a.newImage with
      | some code, _ => s.loadFailed a code
      | none, none => s.loadFailed a Code.imageResource
      | none, some p => s.loadDone a p


/-! ### Modes and streams at their launch edge (R22, R317, R319) -/

/-- A determinism override, or its end. One that falls between the launch of an apply and the end of its load is in force
on the old image in the drain, and stands where the load fails: R22 says only that it applies to the new image (DESIGN
CHOICE, notes/assumptions/131.md). -/
def State.detEdge (s : State) (it : LaunchItem) (mode : Nat) : State :=
  let old := s.view .glbState []
  let apply := s.img.apply.map fun (a : ApplyRun) => { a with detItem := mode != 0xFF }
  let s := { s with img := { s.img with
    apply := apply, detOverride := mode != 0xFF
    detMode := if mode = 0xFF then (s.img.running.map Image.detMode).getD false else mode == 1 } }
  (s.stateChanged old).answer it.by' Code.ok

/-- A power-mode change. What one does before the end of a load is as in `State.detEdge` (notes/assumptions/131.md). -/
def State.powerEdge (s : State) (it : LaunchItem) (m : PowerMode) : State :=
  let apply := s.img.apply.map fun (a : ApplyRun) => { a with powerItem := some m }
  let s := { s with img := { s.img with apply := apply } }
  (s.setPower m).answer it.by' Code.ok

/-- A pause or a resume: an info record names the seat. -/
def State.pauseEdge (s : State) (it : LaunchItem) (n : Nat) (pause : Bool) : State :=
  match s.stream n with
  | none => s.answer it.by' Code.badIndex
  | some _ =>
      let s := s.updStream n fun x => { x with paused := pause }
      let s := s.log { info 11 with initiator := initiatorOf it.by', arg0 := n64 n, arg1 := n64 (b2n pause) }
      s.answer it.by' Code.ok

/-- A restore at its launch edge: at once where the stream stands at an origin, else at its next one. -/
def State.restoreEdge (s : State) (it : LaunchItem) (n : Nat) (r : Bytes) (delta : Pos) : State :=
  match s.stream n with
  | none => s.answer it.by' Code.badIndex
  | some x =>
      if x.closed || x.nextCorr = 0 then s.restoreNow n r delta it.by'
      else s.setStream n { x with restores := x.restores ++ [(r, delta, it.by')] }

/-! ### Launch edges (R321 to R324) -/

/-- What an item does at its edge. -/
def State.fireItem (s : State) (it : LaunchItem) : State :=
  match it.kind with
  | .imageApply f => s.applyEdge it f
  | .overlayApply a r => s.overlayEdge it a r none
  | .overlayRevert g => s.revertEdge it g
  | .det m => s.detEdge it m
  | .power m => s.powerEdge it m
  | .pause n => s.pauseEdge it n true
  | .resume n => s.pauseEdge it n false
  | .restore n r d => s.restoreEdge it n r d
  | .promote a r stored => if stored then s.overlayEdge it a r (some a) else s.answer it.by' Code.launchLate

/-- The place of a kind in the order of R322. -/
def LaunchKind.rank : LaunchKind → Nat
  | .imageApply _ => 1
  | .overlayApply _ _ | .overlayRevert _ => 2
  | .det _ => 3
  | .power _ => 4
  | .pause _ | .resume _ | .restore _ _ _ => 5
  | .promote _ _ _ => 6

/-- Items in the order in which they take effect. -/
def itemBefore (a b : LaunchItem) : Bool :=
  lexLt [a.launch, a.kind.rank, a.order] [b.launch, b.kind.rank, b.order]

/-- A group item whose GO has not come is discarded: an error record names the leader and the count. -/
def State.discardItem (s : State) (it : LaunchItem) : State :=
  let s := match it.kind with
    | .imageApply _ => { s with img := { s.img with staging := .verified } }
    | _ => s
  s.log { errorRec 5 with arg0 := 0, arg1 := n64 it.launch }

/-- Two seats ask for different power modes at one launch count: a notice record for each. -/
def State.noteRivals (s : State) (due : List LaunchItem) : State :=
  due.foldl (fun s it => match it.kind with
    | .power m =>
        let rival := due.any fun o => o.launch == it.launch && (match o.kind with
          | .power k => k != m && initiatorOf o.by' != initiatorOf it.by'
          | _ => false)
        if rival then s.log { notice 0 with initiator := initiatorOf it.by', arg0 := n64 it.launch } else s
    | _ => s) s

/-- One item acts, or is discarded; a member in holdover writes a warning record with its offset. -/
def State.edgeItem (s : State) (it : LaunchItem) : State :=
  if !it.fromGroup then s.fireItem it
  else if s.net.member.any fun m => m.launch == it.launch && m.go then
    let s := if s.time.tb0.st = .holdover then
        s.log { warning 5 with arg0 := n64 (s.reg .tbOffset [0]), arg1 := n64 it.launch } else s
    s.fireItem it
  else s.discardItem it

/-- Every item whose launch count the counter has reached takes effect. -/
def State.fireDue (s : State) : State :=
  let due := (s.img.items.filter fun it => decide (it.launch ≤ s.launchCounter)).mergeSort
    fun a b => itemBefore a b || a.order == b.order
  if due.isEmpty then s else
  let s := { s with img := { s.img with
    items := s.img.items.filter fun it => decide (s.launchCounter < it.launch) } }
  let s := due.foldl (fun s it => s.edgeItem it) (s.noteRivals due)
  { s with net := { s.net with member := s.net.member.filter fun m => decide (s.launchCounter < m.launch) } }

end Sys2Proof.Machine
end

