-- ==== Sys2Proof/Machine/Launch.lean ====
section
/-! DEFINITION. Commands that take a launch count, saving and restoring a stream, group launches, and
LAUNCH_EDGE (12_reproducibility.md R317 to R324; 01_device_overview.md R22; 16_host_interface.md R417,
R419). -/

namespace Sys2Proof.Machine

/-! ### Modes (01_device_overview.md R22) -/

/-- POWER_MODE: a mode change is scheduled. -/
def State.runPowerMode (s : State) (c : CmdRef) (h : Hdr) (mode : Byte) : State :=
  let l := s.launchOf h.launch
  s.checked c [(2 < mode.toNat, Code.fieldReserved), (s.isLate l, Code.launchLate)]
    fun s => s.addItem l (.power (PowerMode.ofCode mode.toNat)) (some c)

/-- POWER_MODE (R22). -/
def execPowerMode (h : Hdr) (mode : Byte) (s : State) : Res :=
  .next (s.takeNow (.powerMode h mode) fun c s => s.runPowerMode c h mode)

/-- DET_OVERRIDE: an override, or its end, is scheduled. -/
def State.runDetOverride (s : State) (c : CmdRef) (h : Hdr) (mode : Byte) : State :=
  let l := s.launchOf h.launch
  s.checked c
    [(1 < mode.toNat && mode.toNat != 0xFF, Code.fieldReserved), (s.isLate l, Code.launchLate)]
    fun s => s.addItem l (.det mode.toNat) (some c)

/-- DET_OVERRIDE (R22). -/
def execDetOverride (h : Hdr) (mode : Byte) (s : State) : Res :=
  .next (s.takeNow (.detOverride h mode) fun c s => s.runDetOverride c h mode)

/-! ### Pause and resume (R317) -/

/-- STREAM_PAUSE and STREAM_RESUME: the item is scheduled. -/
def State.runPause (s : State) (c : CmdRef) (h : Hdr) (stream : Byte) (pause : Bool) : State :=
  let l := s.launchOf h.launch
  s.checked c [((s.stream stream.toNat).isNone, Code.badIndex), (s.isLate l, Code.launchLate)]
    fun s => s.addItem l (if pause then .pause stream.toNat else .resume stream.toNat) (some c)

/-- STREAM_PAUSE (R317). -/
def execStreamPause (h : Hdr) (stream : Byte) (s : State) : Res :=
  .next (s.takeNow (.streamPause h stream) fun c s => s.runPause c h stream true)

/-- STREAM_RESUME (R317). -/
def execStreamResume (h : Hdr) (stream : Byte) (s : State) : Res :=
  .next (s.takeNow (.streamResume h stream) fun c s => s.runPause c h stream false)

/-! ### Saving (R318) -/

/-- A command of the stream's live or shadow context is DISPATCHED, RUNNING or COMMITTING. -/
def State.streamBusy (s : State) (n : Nat) : Bool :=
  s.sched.cmds.any fun k =>
    (k.st == .dispatched || k.st == .running || k.st == .committing) &&
    s.sched.jobs.any fun j => j.id == k.job && (j.ctx == n || j.ctx == 64 + n)

/-- The first unsettled scope of a stream: its number and its first corrected line. -/
def State.firstUnsettled (s : State) (n : Nat) : Nat × Nat :=
  let own := (s.ledg.parts.filter fun p => !p.2.settled && !p.2.void).flatMap fun p =>
    p.2.views.filter fun v => v.local' && v.stream == n
  let next := (Tab.getD s.ledg.scopeNext n 0, ((s.stream n).map Stream.nextCorr).getD 0)
  own.foldl (fun (b : Nat × Nat) v => match v.scope with
    | some q => if q < b.1 then (q, v.first.getD next.2) else b
    | none => b) next

/-- The entries in the ring of a store. -/
def HistStore.present (h : HistStore) : Nat := min h.nextIndex (2 ^ Op.hwCapLog2 h.record)

/-- The save record of a stream. -/
def State.saveRecord (s : State) (n : Nat) : Bytes :=
  let h := s.histStore n
  let count := (h.map HistStore.present).getD 0
  let size := (h.map HistStore.entryBytes).getD 0
  let (scope, line) := s.firstUnsettled n
  let entries : Bytes := match h with
    | some h => (List.range count).flatMap fun k => s.load (h.slotAddr (h.nextIndex - count + k)) size
    | none => []
  [0x44, 0x5A, 0x53, 0x01] ++ natLe 4 (256 + count * size) ++
    bytesAt ((s.img.running.map Image.imageId).getD []) 0 16 ++
    natLe 1 s.overlayGen ++ natLe 1 n ++ natLe 1 (b2n s.img.detMode) ++ [0] ++ natLe 4 count ++
    natLe 8 scope ++ natLe 8 line ++ List.replicate 16 0 ++ histDir n h ++
    bytesAt ((h.map HistStore.header).getD []) 0 128 ++ entries

/-- STREAM_SAVE: the record is written. -/
def State.runStreamSave (s : State) (c : CmdRef) (stream : Byte) (areaAddr areaBytes : BitVec 64) : State :=
  let n := stream.toNat
  let r := s.saveRecord n
  s.checked c
    [(addrReserved areaAddr || allOnes64 areaBytes, Code.fieldReserved),
     ((s.stream n).isNone, Code.badIndex),
     (!((s.stream n).map Stream.paused).getD false || s.streamBusy n, Code.contextState),
     (areaBytes.toNat < r.length, Code.lengthRange),
     (!bufferIn areaAddr r.length, Code.addressUnmapped)]
    fun s => (s.storeFor c.seat areaAddr.toNat r).complete c Code.ok r.length

/-- STREAM_SAVE (R318). -/
def execStreamSave (h : Hdr) (stream : Byte) (areaAddr areaBytes : BitVec 64) (s : State) : Res :=
  .next (s.takeNow (.streamSave h stream areaAddr areaBytes) fun c s =>
    s.runStreamSave c stream areaAddr areaBytes)

/-! ### Restoring (R319) -/

namespace Save
def imageId (r : Bytes) : Bytes := bytesAt r 8 16
def overlayGen (r : Bytes) : Nat := byteAt r 0x18

/-- It is a save record of the version there is. -/
def known (r : Bytes) : Bool := bytesAt r 0 4 == [0x44, 0x5A, 0x53, 0x01]

/-- A reserved byte of the first 256 is not 0, or a reserved encoding stands in them (00_scope.md R10, R12). -/
def reserved (r : Bytes) : Bool :=
  length r == 0xFFFFFFFF || count r == 0xFFFFFFFF || byteAt r 0x1B != 0 || !allZero (bytesAt r 0x30 16) ||
  byteAt (dir r) 3 != 0 || !allZero (bytesAt (dir r) 0x16 2) || !allZero (bytesAt (dir r) 0x20 32) ||
  !allZero (bytesAt (header r) 0x34 68)

/-- The first 256 bytes are well formed: counts and the saved header. -/
def wellFormed (r : Bytes) : Bool :=
  let size := leAt (dir r) 4 4
  length r == 256 + count r * size && byteAt r 0x19 ≤ 63 && byteAt r 0x1A ≤ 1 &&
  count r ≤ leAt (header r) 8 8 && count r ≤ 2 ^ byteAt (dir r) 2 &&
  leAt (header r) 0 8 == leAt (header r) 0x78 8

/-- The saved directory entry has the HIST_WRITE parameters of another one. -/
def sameStore (r d : Bytes) : Bool :=
  byteAt (dir r) 1 == byteAt d 1 && byteAt (dir r) 2 == byteAt d 2 &&
  bytesAt (dir r) 4 4 == bytesAt d 4 4 && bytesAt (dir r) 0x10 16 == bytesAt d 0x10 16
end Save

/-- The checks of a restore in the order of R319, and then its launch count. Reserved bytes and encodings are looked at
once the record is known for one (DESIGN CHOICE, notes/assumptions/142.md). -/
def State.restoreFail (s : State) (n : Nat) (r : Bytes) (launch : Nat) : Option Nat :=
  let bound := (s.stream n).isSome
  firstCode
    [(!Save.known r, Code.imageFormat), (Save.reserved r, Code.fieldReserved),
     (!Save.wellFormed r || (bound && !Save.sameStore r (histDir n (s.histStore n))), Code.imageFormat),
     (s.img.running.map Image.imageId ≠ some (Save.imageId r) || Save.overlayGen r != s.overlayGen,
      Code.overlayMismatch),
     (!bound, Code.badIndex), (s.isLate launch, Code.launchLate)]

/-- STREAM_RESTORE: the record is checked on arrival and the restore scheduled. -/
def State.runStreamRestore (s : State) (c : CmdRef) (h : Hdr) (stream : Byte) (addr delta : BitVec 64) : State :=
  let d : Pos := BitVec.ofNat 56 delta.toNat
  if addrReserved addr || delta != d.signExtend 64 then s.complete c Code.fieldReserved
  else if !bufferIn addr 256 then s.complete c Code.addressUnmapped
  else
    match s.readBuf addr.toNat 256 c.seat with
    | (s, none) => s.complete c Code.memoryUncorrectable
    | (s, some hd) =>
        let l := s.launchOf h.launch
        match s.restoreFail stream.toNat hd l with
        | some e => s.complete c e
        | none =>
            if !bufferIn addr (Save.length hd) then s.complete c Code.addressUnmapped else
            match s.readBuf addr.toNat (Save.length hd) c.seat with
            | (s, none) => s.complete c Code.memoryUncorrectable
            | (s, some r) => s.addItem l (.restore stream.toNat r d) (some c)

/-- STREAM_RESTORE (R319). -/
def execStreamRestore (h : Hdr) (stream : Byte) (recordAddr posDelta : BitVec 64) (s : State) : Res :=
  .next (s.takeNow (.streamRestore h stream recordAddr posDelta) fun c s =>
    s.runStreamRestore c h stream recordAddr posDelta)

/-! ### Group launches (R323, R324, R419) -/

/-- Runs a command that takes a launch count, other than GROUP_LAUNCH: `none` for any other command. -/
def State.runLaunched (s : State) (c : CmdRef) (i : Instr) : Option State :=
  match i with
  | .imageApply h f => some (s.runImageApply c h f)
  | .overlayApply h a => some (s.runOverlayApply c h a)
  | .overlayRevert h g => some (s.runOverlayRevert c h g)
  | .powerMode h m => some (s.runPowerMode c h m)
  | .detOverride h m => some (s.runDetOverride c h m)
  | .streamPause h n => some (s.runPause c h n true)
  | .streamResume h n => some (s.runPause c h n false)
  | .streamRestore h n a d => some (s.runStreamRestore c h n a d)
  | .candidatePromote h f => some (s.runPromote c h f)
  | _ => none

/-- An entry is an item that a group launch may carry (R419). -/
def groupItem (e : Bytes) : Bool :=
  [0x0102, 0x0107, 0x0108, 0x0201, 0x0202, 0x0401, 0x0402, 0x0404, 0x060A].contains (leAt e 0 2) &&
  leAt e 8 8 == 0

/-- TB0 is fit for a group launch (15_line_group_and_time.md R389). -/
def State.timeFit (s : State) : Bool :=
  !(s.time.tb0.st == .listening || s.time.tb0.st == .uncalibrated || s.time.tb0.st == .refusing)

/-- This module, as a member, checks an item as for a local command, and holds it if it accepts: the
status it answers. No seat of this module holds the image lock for it. -/
def State.checkItem (s : State) (e : Bytes) (launch : Nat) : State × Nat :=
  if !s.timeFit then (s, Code.timeNotLocked)
  else
    let seat : Fin 4 := match s.img.lock with
      | some x => x + 1
      | none => 0
    let i := decodeEntry seat 0 (spliceBytes e 8 (natLe 8 launch))
    match entryOf i with
    | none => (s, Code.fieldReserved)
    | some x =>
        if x.hdr.reservedSet then (s, Code.fieldReserved)
        else if s.dev = .recovery then (s, Code.recoveryUnavailable) else
        let c : CmdRef := ⟨groupSeat, 0, 0, 0, x.opcode, s.tb0, false⟩
        let s := { s with host := { s.host with groupAnswer := none } }
        match s.runLaunched c i with
        | none => (s, Code.fieldReserved)
        | some s =>
            match s.host.groupAnswer with
            | some code => (s, code)
            | none =>
                ({ s with net := { s.net with member := s.net.member ++ [⟨launch, e, false⟩] } }, Code.ok)

/-- GO has arrived for a launch count. -/
def State.goNow (s : State) (launch : Nat) : State :=
  { s with net := { s.net with member := s.net.member.map fun m =>
      if m.launch = launch then { m with go := true } else m } }

/-- The group launch at a launch count ends with a completion. -/
def State.endGroup (s : State) (launch status refusing : Nat) : State :=
  match s.net.launches.find? fun r => r.launch == launch with
  | none => s
  | some r => ({ s with net := { s.net with launches := s.net.launches.erase r } } : State).answer r.by' status 0 refusing

/-- Every member has accepted and the counter is below L − 1,000: the leader sends GO. -/
def State.groupReady (s : State) (launch : Nat) : State :=
  match s.group, s.net.launches.find? fun r => r.launch == launch with
  | some g, some r =>
      let all := (List.range (Grp.size g)).all fun m => r.accepted.contains m
      if !all || launch ≤ s.launchCounter + 1000 then s else
      let s := ((List.range (Grp.size g)).drop 1).foldl (fun s m => s.groupSend (some m) 0x07 (natLe 8 launch) true) s
      (s.goNow launch).endGroup launch Code.ok 0xFF
  | _, _ => s

/-- A member, the leader among them, has answered. -/
def State.groupAnswered (s : State) (launch sender status : Nat) : State :=
  if status ≠ Code.ok then s.endGroup launch status sender else
  let launches := s.net.launches.map fun (r : GroupLaunch) =>
    if r.launch = launch then { r with accepted := (sender :: r.accepted).dedup } else r
  ({ s with net := { s.net with launches := launches } } : State).groupReady launch

/-- GROUP_LAUNCH at the leader: the item is read once and sent to every member; the leader checks it as
a member does. -/
def State.runGroupLaunch (s : State) (c : CmdRef) (h : Hdr) (addr : BitVec 64) : State :=
  let l := s.launchOf h.launch
  let lead : Bool := match s.group with
    | some g => Grp.index g == 0
    | none => false
  if addrReserved addr then s.complete c Code.fieldReserved
  else if !lead || s.groupState ≠ 2 then s.complete c Code.groupNotFormed 0 0xFF
  else if !bufferIn addr 64 then s.complete c Code.addressUnmapped 0 0xFF
  else
    match s.readBuf addr.toNat 64 c.seat with
    | (s, none) => s.complete c Code.memoryUncorrectable 0 0xFF
    | (s, some e) =>
        if !groupItem e then s.complete c Code.fieldReserved 0 0xFF
        else if l < s.launchCounter + 5000 then s.complete c Code.launchLate 0 0xFF else
        let n := (s.group.map Grp.size).getD 0
        let s := ((List.range n).drop 1).foldl (fun s m => s.groupSend (some m) 0x05 (e ++ natLe 8 l) true) s
        let run : GroupLaunch := ⟨l, e, some c, []⟩
        let s := { s with net := { s.net with launches := s.net.launches ++ [run] } }
        let (s, code) := s.checkItem e l
        s.groupAnswered l 0 code

/-- GROUP_LAUNCH (R323, R419). -/
def execGroupLaunch (h : Hdr) (itemAddr : BitVec 64) (s : State) : Res :=
  .next (s.takeNow (.groupLaunch h itemAddr) fun c s => s.runGroupLaunch c h itemAddr)

/-- Sends a LAUNCH_ANSWER and keeps it for a duplicate of its item, of the last 256 as R374 keeps SEQs. -/
def State.sendAnswer (s : State) (sender : Nat) (seq : Word) (payload : Bytes) : State :=
  ({ s with net := { s.net with answers := ((sender, seq, payload) :: s.net.answers).take 256 } } : State).groupSend
    (some sender) 0x06 payload

/-- LAUNCH_ITEM at a member: it is checked and answered. -/
def State.launchItem (s : State) (sender : Nat) (seq : Word) (e : Bytes) (launch : Nat) : State :=
  let (s, code) := if groupItem e then s.checkItem e launch else (s, Code.fieldReserved)
  s.sendAnswer sender seq (natLe 8 launch ++ natLe 1 code ++ natLe 1 s.time.tb0.st.code)

/-- A duplicate of an item is discarded, and acknowledged again by the answer that it had. -/
def State.answerAgain (s : State) (g : GrpHdr) : State :=
  match s.net.answers.find? fun a => a.1 == g.sender.toNat && a.2.1 == g.seq with
  | some a => s.groupSend (some g.sender.toNat) 0x06 a.2.2
  | none => s

/-- LAUNCH_ITEM (R323, R374): it is acknowledged by its answer. -/
def execLaunchItem (g : GrpHdr) (item : Bytes) (launch : BitVec 64) (s : State) : Res :=
  .next (
    if !s.grpMatches g then s.count .netGroupRxDrop []
    else if s.grpSeen g then s.answerAgain g
    else (s.noteSeq g).launchItem g.sender.toNat g.seq item launch.toNat)

/-- LAUNCH_ANSWER at the leader: it acknowledges the item. -/
def State.launchAnswer (s : State) (sender launch status : Nat) : State :=
  let s := { s with net := { s.net with unacked := s.net.unacked.filter fun m =>
    !(m.peer == sender && m.type == 0x05 && leAt m.payload 64 8 == launch) } }
  s.groupAnswered launch sender status

/-- LAUNCH_ANSWER (R323). -/
def execLaunchAnswer (g : GrpHdr) (launch : BitVec 64) (status : Byte) (_ptpState : Byte) (s : State) : Res :=
  .next (s.receive g fun s => s.launchAnswer g.sender.toNat launch.toNat status.toNat)

/-- GO (R323): a GO that reaches the host block before the launch edge lets the item act. -/
def execGo (g : GrpHdr) (launch : BitVec 64) (s : State) : Res :=
  .next (s.receive g fun s => s.goNow launch.toNat)

/-- GROUP_LAUNCH_DEADLINE: an answer is missing when the counter reaches L − 1,000. -/
def State.groupDeadline (s : State) : State :=
  match s.net.launches.map GroupLaunch.launch |>.min? with
  | some l => s.endGroup l Code.launchLate 0xFF
  | none => s

/-- GROUP_LAUNCH_DEADLINE (R323). -/
def execGroupLaunchDeadline (s : State) : Res := .next s.groupDeadline

/-! ### Time passing (R321) -/

/-- A time base some ticks later. -/
def TimeBase.after (b : TimeBase) (ticks : Nat) : TimeBase := b.set (b.value + b.inc * ticks)

/-- Ticks of 4 ns pass: the four bases and the RTC advance. -/
def State.advance (s : State) (ticks : Nat) : State :=
  let t := s.time
  { s with
    time := { t with
      tb0 := t.tb0.after ticks, tb1 := t.tb1.after ticks, tb2 := t.tb2.after ticks, tb3 := t.tb3.after ticks }
    backup := { s.backup with rtcNs := s.backup.rtcNs + 4 * ticks } }

/-- LAUNCH_EDGE: TB0 reaches the earliest launch count that is pending. -/
def State.launchEdge (s : State) : State :=
  match (s.img.items.map LaunchItem.launch).min? with
  | none => s
  | some l =>
      let b := s.time.tb0
      if l * 1000 ≤ s.tb0Ns then s.fireDue
      else if b.inc = 0 then s
      else (s.advance (ceilDiv (l * 1000 * 2 ^ 32 - b.value) b.inc)).fireDue

/-- LAUNCH_EDGE (R321, R322). -/
def execLaunchEdge (s : State) : Res := .next s.launchEdge

end Sys2Proof.Machine
end

