-- ==== Sys2Proof/Machine/Reset.lean ====
section
/-! DEFINITION. Resets and what each clears (20_reset_clocks_power.md R490 to R494, R509), and the reset
of a core and of the stream subsystem. -/

namespace Sys2Proof.Machine

/-! ### What a die reset keeps (R491) -/

/-- DRAM after a reset: a warm one keeps the recorder spill and the host region, the rest is not trusted;
after a cold one nothing is (17_memory.md R439). On-die memory is cleared. -/
def State.keptMem (s : State) (warm : Bool) : List (Nat × Byte) :=
  if warm then s.mem.filter fun c => decide (0x64000000 ≤ c.1) && decide (c.1 < 0x100000000) else []

/-- The option copies after a reset that meets a commit: how many copies were written, and whether one
is torn, is open (R507, R509). -/
def State.tornOptions (s : State) : State :=
  match s.boot.commit with
  | none => s
  | some k =>
      let (v, s) := s.draw 7
      let options := s.flash.options.zipIdx.map fun (o, i) =>
        if i < v / 2 then k.record else if i = v / 2 && v % 2 == 1 then [] else o
      { s with flash := { s.flash with options := options } }

/-- The flash after a reset: a firmware write in progress leaves firmware that does not verify (R508). -/
def State.tornFirmware (s : State) : State :=
  if s.boot.fwStore.isEmpty then s else { s with flash := { s.flash with firmware := [] } }

/-- An encoder channel whose die side has been reset: the field controller's side goes on. -/
def Enc.dieCleared (e : Enc) : Enc :=
  { e with diePos := 0, diePeriod := 0xFFFFFFFF0, dieExactPeriod := 0xFFFFFFFF, dieSt := .off
           dieReverse := false, dieIndex := 0, samples := [] }

/-- The barrier side: the link breaks, the outputs take their safe states, and the field controller's
counters and dividers go on (R490, 19_field_io.md R474). -/
def State.breakBarrier (s : State) : State :=
  let s := s.enterSafe
  { s with
    motion := { s.motion with
      encs := s.motion.encs.map fun e => (e.1, e.2.dieCleared)
      list := [], insertQueue := [], insertHold := [], decideWait := [], windows := [], transfers := [], applied := []
      inserted := 0, suppressed := [], records := [] }
    field := { s.field with
      dieSafe := true, linkState := 0, upFails := 0, goodDown := 0, goodUp := 0, downSeq := 0, ackUp := 0
      mirror := [] } }

/-- What is left after a die reset, before step 1 of bring-up. -/
def State.cleared (s : State) (warm : Bool) : State :=
  let s := ((s.tornOptions).tornFirmware).breakBarrier
  { mem := s.keptMem warm, flash := s.flash, motion := s.motion, field := s.field, backup := s.backup
    host := { conns := s.host.conns, mem0 := s.host.mem0, mem1 := s.host.mem1, nextSession := s.host.nextSession }
    rec' := if warm then { ring := s.rec'.ring, ringNext := s.rec'.ringNext } else {}
    mc := if warm then { bad := s.mc.bad.filter fun g => decide (0x64000000 ≤ g) && decide (g < 0x100000000) }
      else {}
    free := s.free, out := s.out, pending := s.pending }

/-! ### Step 1 of bring-up (R501) -/

/-- The backup domain takes the reset's cause; both counters increment. -/
def Backup.step1 (b : Backup) (cause : Nat) (warm : Bool) (rail : Option Nat) : Backup :=
  { b with
    valid := true, cause := cause, warm := warm, rail := rail.getD 0
    count := b.count + 1, attempts := min 15 (b.attempts + 1) }

/-- A die reset, and bring-up's first step: the backup domain is read and RECOVERY_N sampled. -/
def State.dieReset (s : State) (cause : Nat) (warm : Bool) (rail : Option Nat) (fieldReset recoveryN : Bool) :
    State :=
  let s := s.cleared warm
  let valid := s.backup.valid
  let s := { s with
    backup := s.backup.step1 cause warm rail
    boot := { step := 2, warm := warm, sendFieldReset := fieldReset } }
  let s := s.setReg .rstBootStatus []
    (b2n valid * 256 + b2n (!recoveryN) * 2048 + b2n warm * 4096)
  let s := if warm then s.rebuildRecorder else s
  if rail.isSome then s.setFlag .rstPwrErr [] 4 else s

/-- POWER_ON: counters start at 0 where the backup domain has been lost (R509). -/
def State.powerOn (s : State) (recoveryN backupValid : Bool) : State :=
  let b := s.backup
  let backup : Backup := if backupValid then { b with valid := true } else {}
  ({ s with backup := backup } : State).dieReset 1 false none true recoveryN

/-! ### Core resets (R492) -/

/-- A core is reset: held until its PLL reports lock plus 64 cycles. -/
def State.coreReset (s : State) (n : Nat) (source : Nat) : State :=
  if s.dev = .recovery then s else s.holdCore n .off source

/-- The junction temperature a core last had (R513). -/
def State.junction (s : State) (n : Nat) : Int := toSigned 8 (s.fld .rstTempCore [] (8 * n) 8)

/-- A core switched off above 115 °C stays off: it has not been reset since, or its junction is not yet below
95 °C (R500). -/
def State.staysHot (s : State) (n : Nat) : Bool :=
  (s.sched.core n).hotOff && (!(s.sched.core n).resetSince || decide (95 ≤ s.junction n))

/-- A core's island is released: its pinned sets are reloaded, or it is back at once where it has none. A core
switched off above 115 °C may stay off, and then waits for another reset. -/
def State.coreRelease (s : State) (n : Nat) : State :=
  if s.staysHot n then s.updCore n fun c => { c with resetSince := false } else
  let pinned : Bool := match s.img.running with
    | none => false
    | some i => (List.range i.setCount).any fun k => RSet.pinned (i.set k) && RSet.core (i.set k) == n
  s.updCore n fun c =>
    if pinned then { c with st := .off, hotOff := false, reloading := true }
    else { c with st := .idle, hotOff := false, reloading := false, mhz := c.targetMhz }

/-! ### The stream subsystem reset (R493) -/

/-- The CXP and LINE register blocks take their reset values. -/
def State.clearCxpLine (s : State) : State :=
  { s with regs := s.regs.filter fun r => decide (r.1 < 0x900000) || decide (0xB00000 ≤ r.1) }

/-- Every port loses its power, and its control transactions end. -/
def State.dropPorts (s : State) : State :=
  (List.range 32).foldl (fun s p =>
    let s := (s.port p).ctrl.foldl (fun s t => s.complete t.by' Code.cxpLinkDown) s
    { s with cam := { s.cam with ports := Tab.del s.cam.ports p } }) s

/-- A stream bound again: it keeps its buffer, its image generation and the overlays in force. -/
def Stream.fresh (x : Stream) : Stream :=
  { cfg := x.cfg, lp := x.lp, layout := x.layout, imageGen := x.imageGen
    ovls := if x.ovls.isEmpty then [] else [(0, x.ovlNow)], hdrSeq := x.hdrSeq, paused := x.paused }

/-- Parts lose the lines they were formed from; scopes not written settle void. -/
def State.detachParts (s : State) : State :=
  let one (p : Part) : Part := { p with
    void := p.void || !p.settled, settled := true, deepPending := false, shadow := false
    views := p.views.map fun v => v.detach false }
  ({ s with ledg := { s.ledg with parts := s.ledg.parts.map fun x => (x.1, one x.2) } } : State).countVoids

/-- Stripe jobs, with the tails that wait on them, are killed; undecided parts are damaged. -/
def State.killStripes (s : State) : State :=
  let s := (s.sched.jobs.filter fun j => j.kind == .stripe || j.kind == .tail).foldl
    (fun s j => s.withdraw j.id) s
  let open' := (s.ledg.parts.filter fun x => x.2.undecided).map Prod.fst
  (open'.foldl (fun s k => s.decideDefault k 4 Code.streamReset) s).afterDecision

/-- The ingest block, the line pipes and the line store are cleared and the running image's streams bound
again. -/
def State.rebindStreams (s : State) : State :=
  let names := s.cam.streams.map Prod.fst
  let s := s.dropCrops fun _ => false
  let s := s.detachParts
  let s := s.clearCxpLine
  let lineStore : Nat × Byte → Bool := fun c => decide (c.1 < 0x2100000000) || decide (0x2102000000 ≤ c.1)
  let s := { s with
    mem := s.mem.filter lineStore
    cam := { s.cam with streams := s.cam.streams.map fun x => (x.1, x.2.fresh), pipeNext := [] }
    ledg := { s.ledg with objects := s.ledg.objects.map fun x => (x.1, { nextLine := 0 }) } }
  names.foldl (fun s n => match s.stream n with
    | some x => (s.loadStatRing n none x).putHeader n
    | none => s) s

/-- A stream subsystem reset. -/
def State.streamReset (s : State) : State :=
  let s := s.setFld .rstScopedCount [] 16 16 (s.fld .rstScopedCount [] 16 16 + 1)
  let s := ((s.killStripes).dropPorts).rebindStreams
  match s.img.running with
  | some i => s.powerPorts i
  | none => s

/-- During the drain or the load of an apply a stream subsystem reset waits for the apply (R509). -/
def State.askStreamReset (s : State) : State :=
  let waits : Bool := match s.img.apply with
    | some a => a.phase == .drain || a.phase == .load
    | none => false
  if waits then { s with boot := { s.boot with pendingStreams := true } } else s.streamReset

/-- A stream subsystem reset that waited for an apply is performed once the apply is over. -/
def State.afterApply (s : State) : State :=
  if s.boot.pendingStreams && s.img.apply.isNone then
    ({ s with boot := { s.boot with pendingStreams := false } } : State).streamReset
  else s

/-- LOAD_PHASE_END (R63, R64; R509): the code is the cause of a failure. -/
def execLoadPhaseEnd (failed : Option Byte) (s : State) : Res :=
  .next (s.loadEnd (failed.map (·.toNat))).afterApply

/-! ### SW_RESET (R494) -/

/-- The recorder takes every record that waits, and moves it to the spill ring. -/
def State.flushRecorder (s : State) : State :=
  let s := (List.range s.rec'.queue.length).foldl (fun s _ => s.recordOne) s
  (List.range s.rec'.chip.length).foldl (fun s _ => s.spillMove) s

/-- A write of SW_RESET: the key, then the requests; a die request prevails. -/
def State.swReset (s : State) (seat : Nat) (v : Nat) (recoveryN : Bool) : State :=
  if slice v 24 8 ≠ 0xA5 then s.log { notice 1 with initiator := seat, arg0 := n64 (RN.off .rstSwReset []) }
  else if slice v 0 6 = 0 then s
  else
    let s := s.log { warning 1 with initiator := seat, arg0 := n64 (slice v 0 6) }
    if bit v 0 then s.flushRecorder.dieReset 5 true none false recoveryN
    else
      let s := ((List.range 4).filter fun n => bit v (1 + n)).foldl (fun s n => s.coreReset n 5) s
      if bit v 5 && s.dev != .recovery then s.askStreamReset else s

/-! ### The commands -/

/-- POWER_ON (R490). -/
def execPowerOn (recoveryN backupValid : Bool) (s : State) : Res := .next (s.powerOn recoveryN backupValid)

/-- BROWN_OUT (R490, R503). -/
def execBrownOut (rail : Option (Fin 8)) (recoveryN : Bool) (s : State) : Res :=
  .next (s.dieReset 2 false (rail.map (·.val)) true recoveryN)

/-- RESET_N (R490). -/
def execResetN (recoveryN : Bool) (s : State) : Res := .next (s.dieReset 3 true none true recoveryN)

/-- CONTROL_WATCHDOG (R490). -/
def execControlWatchdog (recoveryN : Bool) (s : State) : Res := .next (s.dieReset 4 true none false recoveryN)

/-- SW_RESET_DIE (R494). -/
def execSwResetDie (seat : Fin 4) (value : Word) (recoveryN : Bool) (s : State) : Res :=
  .next (s.swReset seat value.toNat recoveryN)

/-- SW_RESET_CORE (R492, R494). -/
def execSwResetCore (seat : Fin 4) (value : Word) (s : State) : Res :=
  .next (s.swReset seat value.toNat true)

/-- SW_RESET_STREAMS (R493, R494). -/
def execSwResetStreams (seat : Fin 4) (value : Word) (s : State) : Res :=
  .next (s.swReset seat value.toNat true)

/-- DEBUG_RESET (R490). -/
def execDebugReset (u : Sys2Proof.Scope) (recoveryN : Bool) (s : State) : Res :=
  .next (match u with
    | .die => s.dieReset 6 true none false recoveryN
    | .core n => s.coreReset n 6)

/-- The code CLOCK_FAULT (R510). -/
abbrev Code.clockFault : Nat := 0xD6

/-- A core island's PLL loses lock: the core is reset (R490, R509, R516). -/
def State.coreClockLost (s : State) (n : Nat) : State :=
  if s.dev = .recovery then s else
  (s.flagLog .coreErr [n] 3 { errorRec (16 + n) with status := Code.clockFault, arg0 := n64 n }).coreReset n 7

/-- CLOCK_FAILURE (R490, R496). -/
def execClockFailure (u : Sys2Proof.Scope) (recoveryN : Bool) (s : State) : Res :=
  .next (match u with
    | .die => s.dieReset 7 true none false recoveryN
    | .core n => s.coreClockLost n)

/-- LOCK_UP (R490). -/
def execLockUp (u : Sys2Proof.Scope) (recoveryN : Bool) (s : State) : Res :=
  .next (match u with
    | .die => s.dieReset 8 true none false recoveryN
    | .core n => s.coreReset n 8)

/-- Islands that are unpowered: cores and line pipes in recovery mode (R502). -/
def State.islandOff (s : State) (i : Nat) : Bool := s.dev == .recovery && (i ≤ 3 || (5 ≤ i && i ≤ 8))

/-- An island is forced out of reset before it is clock-good: it enters clock fault (R496). -/
def State.forceRelease (s : State) (i : Nat) : State :=
  if s.islandOff i || s.fld .rstIslands [] i 1 == 1 then s else
  let s := s.setFld .rstIslands [] (16 + i) 1 1
  let s := s.flagLog .rstPwrErr [] 5 { errorRec 1 with status := Code.clockFault, arg0 := n64 i }
  if i < 4 then (s.setFlag .coreErr [i] 3).updCore i fun c => { c with st := .clockFault, reloading := false }
  else s

/-- DEBUG_FORCE_RELEASE (R496). -/
def execDebugForceRelease (island : Fin 15) (s : State) : Res := .next (s.forceRelease island)

/-- PIPE_HANG (21_faults_and_event_recorder.md R518): an error record names the pipe, 0xFF for the
ingest block. -/
def execPipeHang (pipe : Option (Fin 4)) (s : State) : Res :=
  .next ((s.log { errorRec 10 with arg0 := n64 ((pipe.map fun (p : Fin 4) => p.val).getD 0xFF) }).askStreamReset)

end Sys2Proof.Machine
end

