-- ==== Sys2Proof/Machine/Boot.lean ====
section
/-! DEFINITION. Bring-up, option records, clocks, throttling and supplies (20_reset_clocks_power.md R495
to R514; 22_security.md R542, R544). -/

namespace Sys2Proof.Machine

namespace Code
abbrev firmwareInvalid : Nat := 0xD0
abbrev optionDivergence : Nat := 0xD1
abbrev optionNone : Nat := 0xD2
abbrev trimFailure : Nat := 0xD3
abbrev bootLimit : Nat := 0xD4
abbrev recoveryStrap : Nat := 0xD5
abbrev optionFormat : Nat := 0xD8
abbrev optionBusy : Nat := 0xD9
abbrev memoryTraining : Nat := 0x51
end Code

/-! ### Option records (R505, R542) -/

namespace Opt
def seq (o : Bytes) : Nat := leAt o 4 4
def autoLoad (o : Bytes) : Bool := byteAt o 9 == 1
def bootLimit (o : Bytes) : Nat := byteAt o 0xA
def prefixLen (o : Bytes) : Nat := byteAt o 0xB
def ipAddr (o : Bytes) : Nat := leAt o 0xC 4

/-- The reserved bytes of a slot of the KEYS area, and of the rest of the record, are 0. -/
def reservedOk (o : Bytes) : Bool :=
  allZero (bytesAt o 0x10 240) && allZero (bytesAt o 0x102 2) && allZero (bytesAt o 0x284 376) &&
  (List.range 4).all fun k =>
    allZero (bytesAt o (0x105 + 96 * k) 3) && allZero (bytesAt o (0x15C + 96 * k) 8)

/-- MAGIC, FORMAT and every field in range. -/
def fieldsOk (o : Bytes) : Bool :=
  bytesAt o 0 4 == [0x49, 0x4F, 0x50, 0x54] && byteAt o 8 == 1 && byteAt o 9 ≤ 1 &&
  2 ≤ bootLimit o && bootLimit o ≤ 7 && prefixLen o ≤ 32 && byteAt o 0x100 == 1 && byteAt o 0x101 ≤ 1 &&
  (List.range 4).all fun k =>
    Keys.state o k ≤ 2 && Keys.epoch o k != 0xFFFFFFFF && (Keys.state o k != 0 || allZero (Keys.hash o k))

/-- The CRC of a record. -/
def crc (o : Bytes) : Nat := crc32 (o.take 0x3FC)

/-- A valid copy. -/
def valid (o : Bytes) : Bool :=
  o.length == 1024 && leAt o 0x3FC 4 == crc o && fieldsOk o && reservedOk o

/-- A record with its CRC computed anew. -/
def sealRec (o : Bytes) : Bytes := spliceBytes o 0x3FC (natLe 4 (crc o))

/-- A record with the next SEQ and its CRC. -/
def next (o : Bytes) (seq : Nat) : Bytes := sealRec (spliceBytes o 4 (natLe 4 (seq + 1)))
end Opt

/-- What the pass over the three copies decides (R505): the record to use with the copies that supplied it,
or the recovery cause. -/
def chooseOption (copies : List Bytes) : Except Nat (Bytes × List Nat) :=
  let good := copies.zipIdx.filter fun c => Opt.valid c.1
  let supplied (r : Bytes) : List Nat := (good.filter fun c => c.1 == r).map Prod.snd
  match good with
  | [] => .error Code.optionNone
  | [(r, i)] => .ok (r, [i])
  | _ =>
      match good.find? fun c => 2 ≤ (supplied c.1).length with
      | some (r, _) => .ok (r, supplied r)
      | none => .error Code.optionDivergence

/-- A list of bit numbers as a number. -/
def bitSum (l : List Nat) : Nat := l.foldl (fun t i => t + 2 ^ i) 0

/-- The options are loaded: the record in use, the odd copies rewritten, the status shown. -/
def State.loadOptions (s : State) : State × Option Nat :=
  let copies := s.flash.options
  let valid := bitSum ((copies.zipIdx.filter fun c => Opt.valid c.1).map Prod.snd)
  let take (s : State) (r : Bytes) : State := { s with boot := { s.boot with option := r, window := r } }
  let s := s.setFld .rstOptStatus [] 0 3 valid
  match chooseOption copies with
  | .ok (r, used) =>
      let s := (take s r).setFld .rstOptStatus [] 3 3 (bitSum used)
      let s := if used.length = 3 then s else { s with flash := { s.flash with options := [r, r, r] } }
      let s :=
        if used.length = 1 then (s.setFld .rstOptStatus [] 6 1 1).log { warning 1 with initiator := 0x30 }
        else if used.length = 2 then s.log { notice 1 with initiator := 0x30 } else s
      (s, none)
  | .error e => ((take s defaultOption).log { critical 1 with status := e, initiator := 0x30 }, some e)

/-- Firmware, or the recovery monitor, rewrites the address registers from the options
(15_line_group_and_time.md R395). -/
def State.loadAddress (s : State) : State :=
  (s.setReg .netIpAddr [] (Opt.ipAddr s.boot.option)).setFld .netIpCfg [] 0 6 (Opt.prefixLen s.boot.option)

/-! ### Firmware (R544) -/

namespace Fw
def length (f : Bytes) : Nat := leAt f 4 4
def version (f : Bytes) : Nat := leAt f 8 4
def keyBlock (f : Bytes) : Bytes := bytesAt f 64 1024

/-- The header of a firmware file is well formed and its key block has the root hash: its signature is checked. -/
def formOk (f : Bytes) : Bool :=
  f.take 3 == [0x44, 0x5A, 0x46] && byteAt f 3 == 1 && length f == f.length && f.length % 64 == 0 &&
  1664 ≤ f.length && f.length ≤ 16777216 && allZero (bytesAt f 0xC 52) && keyBlockOk (keyBlock f) &&
  keyHash (keyBlock f) == bytesAt Config.rootHash 0 64

/-- A firmware file verifies under the root key. -/
def valid (f : Bytes) : Bool :=
  formOk f && trailerOk (keyBlock f) (f.take (f.length - 576)) (f.drop (f.length - 576))
end Fw

/-! ### Steps 2 to 5 (R501 to R506) -/

/-- The device enters recovery mode: the recovery monitor runs (R502). -/
def State.enterRecovery (s : State) (cause : Nat) : State :=
  let s := s.setFld .rstBootStatus [] 0 8 cause
  let s := (s.setFld .rstBootStatus [] 10 1 1).loadAddress
  s.setDev .recovery

/-- The fuse trims: read twice, up to four attempts (R504). True where one attempt agrees. -/
def State.loadTrims (s : State) (equal : List Bool) : State × Bool :=
  let tries := equal.take 4
  let n := (tries.findIdx? id).map (· + 1)
  let s := s.setFld .rstTrimStatus [] 0 3 (n.getD 4)
  (s.setFld .rstTrimStatus [] 3 1 (b2n (n != some 1)), n.isSome)

/-- SUPPLY_GOOD: trims and options are loaded, and a recovery cause is met. -/
def State.supplyGood (s : State) (equal : List Bool) : State :=
  if s.boot.step ≠ 2 then s else
  let (s, trims) := s.loadTrims equal
  let (s, options) := s.loadOptions
  let s := s.setFld .rstBoot [] 4 3 (Opt.bootLimit s.boot.option)
  let s := { s with boot := { s.boot with step := 5 } }
  let cause : Option Nat :=
    if s.fld .rstBootStatus [] 11 1 = 1 then some Code.recoveryStrap
    else if Opt.bootLimit s.boot.option < s.backup.attempts then some Code.bootLimit
    else if !trims then some Code.trimFailure
    else options
  match cause with
  | some c => s.enterRecovery c
  | none => s

/-- SUPPLY_GOOD (R501). -/
def execSupplyGood (trimEqual : List Bool) (s : State) : Res := .next (s.supplyGood trimEqual)

/-- The flash firmware's version and hash as far as it verifies, in recovery mode (R502). -/
def State.showFirmware (s : State) : State :=
  if !Fw.valid s.flash.firmware then s else
  { s with boot := { s.boot with
    fwVersion := n32 (Fw.version s.flash.firmware), fwHash := sha512 s.flash.firmware } }

/-- Every powered island is clock-good: step 5 is done. -/
def State.clocksDone (s : State) : State :=
  let all := (List.range 15).all fun i => s.islandOff i || s.fld .rstIslands [] i 1 == 1
  if s.boot.step ≠ 5 ∨ !all then s
  else if s.dev = .recovery then { s.showFirmware with boot := { s.showFirmware.boot with step := 7 } }
  else { s with boot := { s.boot with step := 6 } }

/-- An island is clock-good and released; a core returns to service. -/
def State.clockGood (s : State) (i : Nat) : State :=
  let early := s.boot.step != 0 && s.boot.step < 5
  if early || s.islandOff i || s.fld .rstIslands [] i 1 == 1 || s.fld .rstIslands [] (16 + i) 1 == 1 then s else
  let s := s.setFld .rstIslands [] i 1 1
  (if i < 4 then s.coreRelease i else s).clocksDone

/-- ISLAND_CLOCK_GOOD (R496). -/
def execIslandClockGood (island : Fin 15) (s : State) : Res := .next (s.clockGood island)

/-! ### Steps 6 to 10 (R501, R65) -/

/-- A step of bring-up fails: an error record with its cause, and a die reset after 100 ms. -/
def State.bootFails (s : State) (cause : Nat) : State :=
  ({ s with boot := { s.boot with failed := true } } : State).log
    { errorRec 1 with status := cause, initiator := 0x30 }

/-- The boot ROM has verified the firmware in flash. -/
def State.firmwareVerified (s : State) : State :=
  if s.boot.step ≠ 6 ∨ s.boot.failed then s else
  let f := s.flash.firmware
  if !Fw.valid f then s.bootFails Code.firmwareInvalid else
  let s := { s with
    boot := { s.boot with step := 7, fwVersion := n32 (Fw.version f), fwHash := sha512 f }
    sec := { s.sec with root := some (Fw.keyBlock f) } }
  s.loadAddress

/-- FIRMWARE_VERIFIED (R544). -/
def execFirmwareVerified (s : State) : Res := .next s.firmwareVerified

/-- DRAM is there: the registers of the fixed regions and the fixed bases show, and the recorder spills. -/
def State.memoryUp (s : State) : State :=
  let s := (s.setFld .memStatus [] 0 1 1).setFld .memStatus [] 1 6 32
  let s := (List.range 32).foldl (fun s c => s.setFld .memChStatus [c] 0 1 1) s
  let s := fixedRegions.foldl (fun s r => s.showRegion r.1 r.2.1 r.2.2) s
  let s := (s.setPair .ledgBaseLo .ledgBaseHi [] ledgerBase).setPair .ejListBaseLo .ejListBaseHi [] ejectBase
  { s with backup := { s.backup with trained := true }, rec' := { s.rec' with spillOk := true } }

/-- Step 8: FIELD_RESET goes to the field controller where the reset calls for it (R490). -/
def State.sendFieldReset (s : State) : State :=
  if !s.boot.sendFieldReset then s else
  let s := { s with
    boot := { s.boot with sendFieldReset := false }
    motion := { s.motion with divs := [] } }
  if s.field.powered then s.resetFc else s

/-- Memory is trained, or its training values are restored after a warm reset (17_memory.md R446). In
recovery a failure leaves DRAM unmapped (R502). -/
def State.memoryTrained (s : State) (channels : Nat) : State :=
  if s.boot.step ≠ 7 ∨ s.boot.failed then s else
  let ok := decide (32 ≤ channels) || (s.boot.warm && s.backup.trained)
  if s.dev = .recovery then
    let s := (if ok then s.memoryUp else s).sendFieldReset
    { s with boot := { s.boot with step := 0 } }
  else if !ok then
    (s.setFld .memStatus [] 1 6 channels).bootFails Code.memoryTraining
  else { s.memoryUp.sendFieldReset with boot := { s.memoryUp.sendFieldReset.boot with step := 9 } }

/-- MEMORY_TRAINED (R446, R501). -/
def execMemoryTrained (channels : Nat) (s : State) : Res := .next (s.memoryTrained channels)

/-- Boot-complete: the device is IDLE, and the automatic image load starts if it is enabled. -/
def State.bootComplete (s : State) (linksUp : Bool) : State :=
  if s.boot.step ≠ 9 ∨ s.boot.failed ∨ s.dev ≠ .boot then s
  else if !linksUp then s.bootFails Code.internal
  else
    let s := { s with
      boot := { s.boot with step := 0 }
      backup := { s.backup with attempts := 0 }
      img := { s.img with autoLoad := if Opt.autoLoad s.boot.option then 1 else 0 } }
    (s.setFld .rstBootStatus [] 13 1 1).setDev .idle

/-- BOOT_COMPLETE (R501). -/
def execBootComplete (linksUp : Bool) (s : State) : Res := .next (s.bootComplete linksUp)

/-- BOOT_FAILURE_RESET (R501): a software die reset, counted as a further attempt. -/
def execBootFailureReset (recoveryN : Bool) (s : State) : Res :=
  .next (if s.boot.failed then s.dieReset 5 true none false recoveryN else s)

/-- The slot's image is in the staging region, its key block in key RAM where an enrolled slot has that
hash (22_security.md R543, R548), and its verification runs. An empty slot gives IMAGE_FORMAT. -/
def State.slotCopied (s : State) : State :=
  if s.img.autoLoad ≠ 1 ∨ s.dev ≠ .idle then s else
  let slot := s.flash.slot
  if slot.isEmpty then s.autoFail Code.imageFormat else
  let n := leAt slot 8 8
  let k := byteAt slot 0x14
  let key := bytesAt slot n 1024
  let held := Keys.enrolled s.boot.option k && n + 1024 ≤ slot.length && keyBlockOk key &&
    keyHash key == Keys.hash s.boot.option k
  let s := if held then { s with sec := { s.sec with keyRam := Tab.put s.sec.keyRam k key } } else s
  let s := s.store (halfBase s.stagingHalf) slot
  let run : VerifyRun := ⟨none, slot.length⟩
  { s with img := { s.img with staging := .verifying, staged := none, verify := some run, autoLoad := 2 } }

/-- SLOT_COPY_COMPLETE (R65). -/
def execSlotCopyComplete (s : State) : Res := .next s.slotCopied

/-! ### Options changed by a seat (R506, R507) -/

/-- The result of a commit. -/
def State.optResult (s : State) (code : Nat) : State := s.setFld .rstOptStatus [] 8 8 code

/-- The three copies are to be written with a record. -/
def State.startCommit (s : State) (r : Bytes) (by' : Option CmdRef) : State :=
  let k : OptCommit := ⟨r, by', none⟩
  ({ s with boot := { s.boot with commit := some k } } : State).setFld .rstOptStatus [] 7 1 1

/-- OPT_CTRL.COMMIT: the window, with the KEYS area of the record in use. -/
def State.commitOptions (s : State) : State :=
  if s.boot.commit.isSome then s.optResult Code.optionBusy else
  let o := s.boot.option
  let r := Opt.next (spliceBytes (bytesAt s.boot.window 0 1024) 0x100 (bytesAt o 0x100 764)) (Opt.seq o)
  if !Opt.reservedOk r then s.optResult Code.fieldReserved
  else if !Opt.fieldsOk r then s.optResult Code.optionFormat
  else s.startCommit r none

/-- COMMIT (R507). -/
def execCommit (_seat : Fin 4) (s : State) : Res := .next s.commitOptions

/-- The copies are written: the record is the one in use, and the window holds it. -/
def State.copiesWritten (s : State) : State :=
  match s.boot.commit with
  | none => s
  | some k =>
      let r := k.record
      let s := { s with
        boot := { s.boot with option := r, window := r, commit := none }
        flash := { s.flash with options := [r, r, r] } }
      let s := (s.setFld .rstOptStatus [] 7 1 0).optResult Code.ok
      s.answer k.by' Code.ok 0 ((k.slot.map fun n => Keys.epoch r n).getD 0)

/-- OPTION_COPIES_WRITTEN (R507). -/
def execOptionCopiesWritten (s : State) : Res := .next s.copiesWritten

/-- OPT_CTRL.REVERT: the window holds the record in use again. -/
def State.revertOptions (s : State) : State :=
  if s.boot.commit.isSome then s.optResult Code.optionBusy
  else { s with boot := { s.boot with window := s.boot.option } }

/-- REVERT (R512). -/
def execRevert (_seat : Fin 4) (s : State) : Res := .next s.revertOptions

/-- BOOT.CLEAR zeroes the boot attempt counter. -/
def State.bootClear (s : State) : State := { s with backup := { s.backup with attempts := 0 } }

/-- BOOT_CLEAR (R506). -/
def execBootClear (_seat : Fin 4) (s : State) : Res := .next s.bootClear

/-- A write of RTC_HI sets the RTC, with the RTC_LO held. -/
def State.setRtc (s : State) (hi : Nat) : State :=
  let seconds := hi % 65536 * 2 ^ 32 + s.boot.rtcLo.toNat
  { s with backup := { s.backup with rtcNs := seconds * 1000000000, rtcValid := true } }

/-- RTC_HI (R512). -/
def execRtcHi (_seat : Fin 4) (value : Word) (s : State) : Res := .next (s.setRtc value.toNat)

/-! ### Throttling (R499, R500) -/

/-- The power limit of a mode in 0.1 W and its cold plate threshold in 0.1 °C. -/
def PowerMode.limits : PowerMode → Nat × Int
  | .full => (2800, 500)
  | .balanced => (1900, 580)
  | .sealed => (1300, 650)

/-- The 1 ms step of a core's clock: `holds` a condition holds, `clear` all are clear with their margin. -/
def Core.throttleStep (c : Core) (mode : Nat) (holds clear : Bool) : Core :=
  if holds then
    let c := c.retune (max 300 (c.targetMhz - 50))
    { c with throttled := true, clearMs := 0 }
  else if !c.throttled then c
  else if !clear then { c with clearMs := 0 }
  else if c.clearMs < 100 then { c with clearMs := c.clearMs + 1 }
  else
    let c := c.retune (min mode (c.targetMhz + 50))
    { c with throttled := decide (c.targetMhz < mode) }

/-- A junction above 115 °C switches the core off: its command is re-issued. -/
def State.overtemp (s : State) (n : Nat) (t : Int) : State :=
  if (s.sched.core n).hotOff then s else
  let s := (s.fence n).updCore n fun c => { c with
    st := .off, cmd := none, sets := [], lostSets := [], stalled := 0, reloading := false, hotOff := true, resetSince := false
    mhz := 0 }
  let s := s.setFld .rstIslands [] n 1 0
  s.flagLog .rstPwrErr [] 3 { critical 1 with arg0 := n64 n, arg1 := n64 (toUnsigned 64 t) }

/-- The 1 ms check of every core against power, cold plate and junction. -/
def State.throttleCheck (s : State) (junction : List Int) (plate : Int) (power : Nat) : State :=
  let s := s.setFld .rstTempPlate [] 0 16 (toUnsigned 16 plate)
  let tj (n : Nat) : Int := junction.getD n 0
  let s := (List.range 4).foldl (fun s n => s.setFld .rstTempCore [] (8 * n) 8 (toUnsigned 8 (tj n))) s
  if s.dev = .recovery then s else
  let (limit, threshold) := s.img.power.limits
  let hot (n : Nat) : Bool := decide (105 < tj n)
  let overP := decide (limit < power)
  let overT := decide (threshold < plate)
  let s := (s.setFld .rstThrottle [] 4 1 (b2n overP)).setFld .rstThrottle [] 5 1 (b2n overT)
  let s := s.setFld .rstThrottle [] 6 1 (b2n ((List.range 4).any hot))
  let cool (n : Nat) : Bool :=
    decide (power * 100 ≤ limit * 95) && decide (plate ≤ threshold - 30) && decide (tj n ≤ 102)
  let old := s
  let s := (List.range 4).foldl (fun s n =>
    s.updCore n fun c => c.throttleStep s.img.power.mhz (overP || overT || hot n) (cool n)) s
  let starts := (List.range 4).any fun n => (s.sched.core n).throttled && !(old.sched.core n).throttled
  let s := if starts then s.flagLog .rstPwrErr [] 0 { warning 1 with arg0 := n64 (s.reg .rstThrottle []) }
    else s
  (List.range 4).foldl (fun s n => if 115 < tj n then s.overtemp n (tj n) else s) s

/-- THROTTLE_CHECK (R500). -/
def execThrottleCheck (junction : List Int) (plateDeci : Int) (powerDw : Nat) (s : State) : Res :=
  .next (s.throttleCheck junction plateDeci powerDw)

/-- OPERATING_POINT_DONE (R497): the core runs at its new clock. -/
def execOperatingPointDone (core : Fin 4) (s : State) : Res :=
  .next (s.updCore core fun c => if c.mhz = 0 then c else { c with mhz := c.targetMhz })

/-! ### Supplies (R498, R503) -/

/-- Three times the nominal voltage in mV of a core clock: the points of R497, and between them in
proportion. -/
def coreNominal3 (mhz : Nat) : Nat := 1950 + (mhz - 500)

/-- A rail is within 5 % of its nominal voltage, or, of a core in transition, of both. -/
def State.railOk (s : State) (n mv : Nat) : Bool :=
  let c := s.sched.core n
  let (lo, hi) : Nat × Nat :=
    if n < 4 then
      let a := coreNominal3 (if c.mhz = 0 then c.targetMhz else c.mhz)
      let b := coreNominal3 c.targetMhz
      (min a b, max a b)
    else
      let v := 3 * ([800, 1100, 600, 1800].getD (n - 4) 0)
      (v, v)
  decide (lo * 95 ≤ 300 * mv) && decide (300 * mv ≤ hi * 105)

/-- The 1 ms supply measurement; a warning where J1 passes a limit. -/
def State.supplyMeasure (s : State) (mv dw : Nat) (rails : List Nat) : State :=
  let before := s.fld .rstJ1 [] 0 16
  let s := s.setReg .rstJ1 [] (sat mv 65535 + sat dw 65535 * 65536)
  let s := (List.range 8).foldl (fun s n =>
    let v := rails.getD n 0
    s.setReg .rstRail [n] (sat v 65535 + b2n (s.railOk n v) * 65536)) s
  let s := if mv < 17000 ∧ (17000 ≤ before ∨ before = 0) then
      s.flagLog .rstPwrErr [] 1 { warning 1 with arg0 := n64 mv } else s
  if 33000 < mv ∧ before ≤ 33000 then s.flagLog .rstPwrErr [] 2 { warning 1 with arg0 := n64 mv } else s

/-- SUPPLY_MEASURE (R498). -/
def execSupplyMeasure (j1Mv j1Dw : Nat) (railMv : List Nat) (s : State) : Res :=
  .next (s.supplyMeasure j1Mv j1Dw railMv)

end Sys2Proof.Machine
end

