-- ==== Sys2Proof/Machine/Security.lean ====
section
/-! DEFINITION. Security commands and the storing of firmware (22_security.md R540 to R554;
20_reset_clocks_power.md R508). -/

namespace Sys2Proof.Machine

namespace Code
abbrev keySequence : Nat := 0xC0
abbrev keyAuthority : Nat := 0xC1
abbrev keyFormat : Nat := 0xC2
abbrev keyMissing : Nat := 0xC3
end Code

/-- Reads a buffer that a command names and goes on with its bytes: outside DRAM and an uncorrectable
granule refuse it. -/
def State.withBuf (s : State) (c : CmdRef) (a : BitVec 64) (n : Nat) (body : Bytes → State → State) : State :=
  if !bufferIn a n then s.complete c Code.addressUnmapped else
  match s.readBuf a.toNat n c.seat with
  | (s, none) => s.complete c Code.memoryUncorrectable
  | (s, some b) => body b s

/-! ### KEY_LOAD (R543) -/

/-- KEY_LOAD: a key block whose hash an enrolled slot has. -/
def State.runKeyLoad (s : State) (c : CmdRef) (slot : Byte) (addr : BitVec 64) : State :=
  let k := slot.toNat
  s.checked c [(addrReserved addr, Code.fieldReserved), (4 ≤ k, Code.badIndex)] fun s =>
    s.withBuf c addr 1024 fun b s =>
      s.checked c
        [(!keyBlockOk b, Code.keyFormat),
         (!Keys.enrolled s.boot.option k || keyHash b != Keys.hash s.boot.option k, Code.imageKey)]
        fun s => ({ s with sec := { s.sec with keyRam := Tab.put s.sec.keyRam k b } } : State).complete c Code.ok

/-- KEY_LOAD (R543). -/
def execKeyLoad (h : Hdr) (slot : Byte) (blockAddr : BitVec 64) (s : State) : Res :=
  .next (s.takeNow (.keyLoad h slot blockAddr) fun c s => s.runKeyLoad c slot blockAddr)

/-! ### KEY_ENROL (R545 to R547, R551) -/

namespace Enrol
def op (r : Bytes) : Nat := byteAt r 4
def target (r : Bytes) : Nat := byteAt r 5
def signer (r : Bytes) : Nat := byteAt r 6
def serial (r : Bytes) : Nat := leAt r 8 8
def epoch (r : Bytes) : Nat := leAt r 0x10 4
def name (r : Bytes) : Bytes := bytesAt r 0x14 16
def block (r : Bytes) : Bytes := bytesAt r 0x40 1024
def message (r : Bytes) : Bytes := r.take 1088
def trailer (r : Bytes) : Bytes := bytesAt r 1088 576

/-- Step 1: header and key block well formed, SERIAL 0 or this device's. -/
def wellFormed (r : Bytes) : Bool :=
  r.take 3 == [0x44, 0x5A, 0x45] && byteAt r 3 == 1 && (op r == 1 || op r == 2) && target r ≤ 3 &&
  (signer r ≤ 3 || signer r == 0x20) && byteAt r 7 == 0 && allZero (bytesAt r 0x24 28) &&
  (serial r == 0 || serial r == Config.serial.toNat) &&
  (if op r = 1 then keyBlockOk (block r) else allZero (block r))

/-- The first enrolment of a customer key, signed with the key that the record carries (R547). -/
def first (o r : Bytes) : Bool :=
  op r == 1 && 1 ≤ target r && signer r == target r && !Keys.firstCustomer o

/-- Step 3: the signers R547 permits. -/
def permitted (o r : Bytes) : Bool :=
  if signer r = 0x20 then true
  else if target r = 0 then false
  else if op r = 1 then Keys.enrolled o (signer r) || first o r
  else Keys.enrolled o (signer r) && signer r != target r

/-- The KEYS area with the record applied. -/
def apply (o r : Bytes) : Bytes :=
  let at' := 0x104 + 96 * target r
  let o := spliceBytes o at' [BitVec.ofNat 8 (op r)]
  let o := spliceBytes o (at' + 4) (natLe 4 (Keys.epoch o (target r) + 1))
  if op r = 1 then
    let o := spliceBytes o (at' + 8) (keyHash (block r) ++ name r)
    if 1 ≤ target r then spliceBytes o 0x101 [1] else o
  else o
end Enrol

/-- Step 4: the key block a record is verified under. -/
def State.enrolKey (s : State) (r : Bytes) : Option Bytes :=
  if Enrol.signer r = 0x20 then s.sec.root
  else if Enrol.first s.boot.option r && !Keys.enrolled s.boot.option (Enrol.signer r) then some (Enrol.block r)
  else s.imageKey (Enrol.signer r)

/-- Staging whose KEY_SLOT is revoked or replaced returns to WRITTEN; what waits on it completes with
IMAGE_KEY (R551). -/
def State.dropStagedKey (s : State) (k : Nat) : State :=
  if byteAt (s.load (halfBase s.stagingHalf) 128) 0x14 ≠ k then s else
  let back (s : State) : State := { s with img := { s.img with staging := .written, staged := none, verify := none } }
  match s.img.staging with
  | .verifying =>
      let by' := s.img.verify.bind fun v => v.by'
      if s.img.autoLoad ≠ 0 then (back s).autoFail Code.imageKey else (back s).answer by' Code.imageKey
  | .verified => if s.img.apply.isSome then s else back s
  | .pending =>
      match s.pendingApply with
      | some it =>
          let s := (back s).dropItem it
          if it.by'.isSome then s.answer it.by' Code.imageKey else s.autoFail Code.imageKey
      | none => back s
  | _ => s

/-- An enrolment record that passed every check takes effect, and its copies are written. -/
def State.enrolNow (s : State) (c : CmdRef) (r : Bytes) : State :=
  let k := Enrol.target r
  let o := s.boot.option
  let rec' := Opt.next (Enrol.apply o r) (Opt.seq o)
  let ram := if Enrol.op r = 1 then Tab.put s.sec.keyRam k (Enrol.block r) else Tab.del s.sec.keyRam k
  let s := { s with boot := { s.boot with option := rec' }, sec := { s.sec with keyRam := ram } }
  let s := s.flagLog .secFlags [] 2
    { warning 2 with initiator := c.seat, arg0 := n64 k, arg1 := n64 (Enrol.op r) }
  let s := if Keys.enrolled o k then s.dropStagedKey k else s
  let commit : OptCommit := ⟨rec', some c, some k⟩
  ({ s with boot := { s.boot with commit := some commit } } : State).setFld .rstOptStatus [] 7 1 1

/-- A refused enrolment record. -/
def State.enrolRefused (s : State) (c : CmdRef) (code : Nat) : State :=
  (s.setFlag .secFlags [] 1).complete c code

/-- KEY_ENROL: the checks of R546 in order. -/
def State.enrol (s : State) (c : CmdRef) (r : Bytes) : State :=
  let o := s.boot.option
  if !Enrol.wellFormed r then s.enrolRefused c Code.keyFormat
  else if Enrol.epoch r ≠ Keys.epoch o (Enrol.target r) + 1 ∨ Enrol.epoch r = 0xFFFFFFFF then
    s.enrolRefused c Code.keySequence
  else if !Enrol.permitted o r then s.enrolRefused c Code.keyAuthority
  else match s.enrolKey r with
    | none => s.enrolRefused c Code.keyMissing
    | some key =>
        let ok := trailerOk key (Enrol.message r) (Enrol.trailer r)
        let s := s.noteSig ok
        if !ok then s.enrolRefused c Code.imageSignature
        else if s.boot.commit.isSome then s.enrolRefused c Code.optionBusy
        else s.enrolNow c r

/-- KEY_ENROL. -/
def State.runKeyEnrol (s : State) (c : CmdRef) (addr : BitVec 64) : State :=
  s.checked c [(addrReserved addr, Code.fieldReserved)] fun s =>
    s.withBuf c addr 1664 fun r s => s.enrol c r

/-- KEY_ENROL (R546). -/
def execKeyEnrol (h : Hdr) (recordAddr : BitVec 64) (s : State) : Res :=
  .next (s.takeNow (.keyEnrol h recordAddr) fun c s => s.runKeyEnrol c recordAddr)

/-! ### CERT_READ and ATTEST (R548, R550) -/

/-- CERT_READ: the certificate is written. -/
def State.runCertRead (s : State) (c : CmdRef) (areaAddr areaBytes : BitVec 64) : State :=
  let cert := Config.certificate
  s.checked c
    [(addrReserved areaAddr || allOnes64 areaBytes, Code.fieldReserved),
     (areaBytes.toNat < cert.length, Code.lengthRange),
     (!bufferIn areaAddr cert.length, Code.addressUnmapped)]
    fun s => (s.storeFor c.seat areaAddr.toNat cert).complete c Code.ok cert.length

/-- CERT_READ (R548). -/
def execCertRead (h : Hdr) (areaAddr areaBytes : BitVec 64) (s : State) : Res :=
  .next (s.takeNow (.certRead h areaAddr areaBytes) fun c s => s.runCertRead c areaAddr areaBytes)

/-- OVERLAY_CHAIN: h(0) is zeros, h(g) hashes h(g − 1) with the DIGEST of record g. -/
def State.overlayChain (s : State) : Bytes :=
  s.img.overlays.foldl (fun h o => sha512 (h ++ Ovl.digest o.record)) (List.replicate 64 0)

/-- The report without its signature. -/
def State.report848 (s : State) (nonce : BitVec 256) : Bytes :=
  [0x44, 0x5A, 0x41, 0x01] ++ natLe 4 0x350 ++ natLe 32 nonce.toNat ++ natLe 8 Config.serial.toNat ++
  natLe 4 s.backup.count.toNat ++ natLe 4 s.img.gen.toNat ++ natLe 4 s.boot.fwVersion.toNat ++
  natLe 1 s.dev.code ++ natLe 1 s.overlayGen ++
  natLe 1 (s.fld .rstBootStatus [] 10 1 + 2 * s.fld .rstOptStatus [] 6 1) ++ [0] ++ natLe 8 s.now ++
  natLe 8 0 ++ bytesAt s.boot.fwHash 0 64 ++
  bytesAt (if s.dev = .idle ∨ s.dev = .recovery then [] else (s.img.running.map Image.digest).getD []) 0 64 ++
  s.overlayChain ++ sha512 s.boot.option

/-- ATTEST: the report, signed by the identity key. -/
def State.runAttest (s : State) (c : CmdRef) (nonce : BitVec 256) (addr : BitVec 64) : State :=
  s.checked c [(addrReserved addr, Code.fieldReserved), (!bufferIn addr 848, Code.addressUnmapped)] fun s =>
    let body := s.report848 nonce
    let sig := bytesAt (Config.identitySign s.free (sha512 body)) 0 512
    let s := ({ s with free := s.free + 1 } : State).count .secAttestCount []
    (s.storeFor c.seat addr.toNat (body ++ sig)).complete c Code.ok

/-- ATTEST (R550). -/
def execAttest (h : Hdr) (nonce : BitVec 256) (resultAddr : BitVec 64) (s : State) : Res :=
  .next (s.takeNow (.attest h nonce resultAddr) fun c s => s.runAttest c nonce resultAddr)

/-! ### Firmware stored (20_reset_clocks_power.md R508) -/

/-- The outcome of storing a file goes to who asked: a seat's command completes, the console is told the
file's CRC-32 or the code (16_host_interface.md R428). -/
def State.storedReply (s : State) (by' : Option CmdRef) (f : Bytes) (code : Nat) : State :=
  match by' with
  | some c => s.complete c code
  | none => s.emit (.console (if code = Code.ok then [hexDigits 8 (crc32 f), "OK"]
      else ["ERR " ++ hexDigits 2 code]))

/-- The signature of a firmware file whose header and key block pass is checked, and noted (R554). -/
def State.noteFw (s : State) (f : Bytes) : State :=
  if Fw.formOk f then s.noteSig (Fw.valid f) else s

/-- A firmware file is checked and, if it passes, waits to be written to flash. -/
def State.storeFirmware (s : State) (by' : Option CmdRef) (f : Bytes) : State :=
  let s := s.noteFw f
  if Fw.valid f then { s with boot := { s.boot with fwStore := s.boot.fwStore ++ [(by', f)] } }
  else s.storedReply by' f Code.firmwareInvalid

/-- FIRMWARE_STORE: the file is FILE_LENGTH bytes of the buffer. -/
def State.runFirmwareStore (s : State) (c : CmdRef) (addr length : BitVec 64) : State :=
  s.checked c
    [(addrReserved addr || allOnes64 length, Code.fieldReserved), (16777216 < length.toNat, Code.lengthRange)]
    fun s => s.withBuf c addr length.toNat fun b s => s.storeFirmware (some c) (b.take (Fw.length b))

/-- FIRMWARE_STORE (R508). -/
def execFirmwareStore (h : Hdr) (fileAddr length : BitVec 64) (s : State) : Res :=
  .next (s.takeNow (.firmwareStore h fileAddr length) fun c s => s.runFirmwareStore c fileAddr length)

/-- The write and its read-back end. A file that does not read back leaves firmware that fails. -/
def State.firmwareStored (s : State) (ok : Bool) : State :=
  match s.boot.fwStore with
  | [] => s
  | (by', f) :: rest =>
      let s := { s with boot := { s.boot with fwStore := rest }
                        flash := { s.flash with firmware := if ok then f else [] } }
      s.storedReply by' f (if ok then Code.ok else Code.firmwareInvalid)

/-- FIRMWARE_STORE_DONE (R508). -/
def execFirmwareStoreDone (readBackOk : Bool) (s : State) : Res := .next (s.firmwareStored readBackOk)

end Sys2Proof.Machine
end

