-- ==== Sys2Proof/Machine/Connect.lean ====
section
/-! DEFINITION. A seat's connection: how it comes and what its loss does
(16_host_interface.md R403, R406, R410, R425, R426). -/

namespace Sys2Proof.Machine

/-- Why a connection is lost, as ARG0 of its record gives it (DESIGN CHOICE,
notes/assumptions/43.md: the spec gives no numbers). -/
inductive LossCause where
  | link | hotReset | flr | bye | retransmission | silence | replaced | address
  deriving DecidableEq, Repr

def LossCause.code : LossCause → Nat
  | .link => 0
  | .hotReset => 1
  | .flr => 2
  | .bye => 3
  | .retransmission => 4
  | .silence => 5
  | .replaced => 6
  | .address => 7

/-- A ring is disabled: it drains while commands of it are outstanding (R429). -/
def State.ringStop (s : State) (seat ring : Nat) : State :=
  if !s.ringOn seat ring then s else
  let s := s.setFld .ringCfg [seat, ring] 0 1 0
  s.setFld .ringStatus [seat, ring] 0 2 (if s.ringOutstanding seat ring = 0 then 0 else 2)

/-- The host contexts of a seat are destroyed and their commands cancelled (R216). -/
def State.dropSeatCtxs (s : State) (seat : Nat) : State :=
  let mine := s.sched.ctxs.filter fun c => c.2.kind == .host && c.2.owner == seat
  (mine.foldl (fun s c => s.destroyCtx c.1) s).turnCheck

/-- The completions of a seat that waited for Bus Master Enable are discarded and counted. -/
def State.loseHeld (s : State) (seat : Nat) : State :=
  let lost := s.host.heldDone.filter fun x => x.1.seat == seat
  let s := { s with host := { s.host with
    heldDone := s.host.heldDone.filter fun x => x.1.seat != seat } }
  let s := s.count .hostLostCompletions [] lost.length
  lost.foldl (fun s x => s.ringSettle seat x.1.ring) s

/-- What the interrupts and latches of a seat remember, forgotten. -/
def State.dropSignals (s : State) (seat : Nat) : State :=
  { s with host := { s.host with
    sentCauses := Tab.del s.host.sentCauses seat
    timeUp := s.host.timeUp.filter fun x => x.1 != seat
    spacing := s.host.spacing.filter (· != seat)
    intHeld := s.host.intHeld.filter (· != seat)
    latches := s.host.latches.filter fun x => x.1 != seat
    sessions := Tab.del s.host.sessions seat } }

/-- A seat's connection is lost (R426). -/
def State.disconnect (s : State) (seat : Nat) (cause : LossCause) : State :=
  if !s.connected seat then s else
  let s := (List.range 16).foldl (fun s r => s.ringStop seat r) s
  let s := ((s.setFld .seatStatus [seat] 0 1 0).setFld .seatStatus [seat] 2 2 0).setFld .seatStatus [seat] 4 1 0
  let s := (s.loseHeld seat).dropSignals seat
  let s := s.dropSeatCtxs seat
  let s := if s.img.lock.any fun k => k.val == seat then s.setLock none else s
  let s := s.detachSeat seat
  let s := s.log { warning 6 with initiator := seat, arg0 := n64 cause.code }
  s.raisePeers seat 3

/-- A seat becomes connected: its aperture bases leave what the last connection wrote (R426). -/
def State.connect (s : State) (seat : Nat) : State :=
  let s := { s with host := { s.host with conns := Tab.put s.host.conns seat (s.conn seat + 1) } }
  let s := s.setFld .seatStatus [seat] 0 1 1
  let s := (List.range 4).foldl (fun s n => (s.setReg .apBaseLo [seat, n] 0).setReg .apBaseHi [seat, n] 0) s
  s.raisePeers seat 3

/-- Seats can be connected: the host block runs, and in RECOVERY seat 1 is absent (R403, R501). -/
def State.seatsUp (s : State) (seat : Nat) : Bool :=
  if s.dev = .recovery then seat != 1 && s.boot.step == 0 else s.dev != .boot

/-- The lanes of a USB4 port show their rate (18_serdes_lanes.md R466). -/
def State.usb4Lanes (s : State) (seat rate : Nat) : State :=
  [40 + 2 * seat, 41 + 2 * seat].foldl (fun s n => s.setFld .laneStatus [n] 12 4 rate) s

/-- SEAT_CONNECT (R406): the host enumerates the endpoint; Bus Master Enable comes later (R410). -/
def execSeatConnect (seat : Fin 2) (gen3 : Bool) (s : State) : Res :=
  .next (if s.connected seat || !s.seatsUp seat then s else
    let s := s.setFld .seatStatus [seat] 2 2 (if gen3 then 3 else 2)
    (s.usb4Lanes seat (if gen3 then 10 else 9)).connect seat)

/-- USB4_LINK_LOSS (R426). -/
def execUsb4LinkLoss (seat : Fin 2) (s : State) : Res :=
  .next ((if s.connected seat then s.usb4Lanes seat 0 else s).disconnect seat .link)

/-- HOT_RESET (R426). -/
def execHotReset (seat : Fin 2) (s : State) : Res := .next (s.disconnect seat .hotReset)

/-- FUNCTION_LEVEL_RESET (R407): ends the connection and resets nothing else. -/
def execFunctionLevelReset (seat : Fin 2) (s : State) : Res := .next (s.disconnect seat .flr)

end Sys2Proof.Machine
end

