-- ==== Sys2Proof/Machine/Lanes.lean ====
section
/-! DEFINITION. High-speed lanes (18_serdes_lanes.md R455 to R469): alignment and its loss,
transmitter training, raw mode, the PRBS generator and checker, and loopbacks. -/

namespace Sys2Proof.Machine

/-! ### Kinds of lanes (R455) -/

/-- A CoaXPress lane. -/
def laneCxp (n : Nat) : Bool := decide (n < 32)
/-- An Ethernet lane. -/
def laneEth (n : Nat) : Bool := decide (32 ≤ n ∧ n < 40)
/-- A USB4 lane. -/
def laneUsb4 (n : Nat) : Bool := decide (40 ≤ n)

/-- The raw word W of a lane. -/
def laneW (n : Nat) : Nat := if laneCxp n then 10 else 66

/-- The network port of an Ethernet lane: 0 J50, 1 J51. -/
def ethPort (n : Nat) : Nat := if n < 36 then 0 else 1

/-- The lanes of a network port. -/
def portLanes (p : Nat) : List Nat := [32 + 4 * p, 33 + 4 * p, 34 + 4 * p, 35 + 4 * p]

/-- A lane is in raw mode. -/
def State.laneRaw (s : State) (n : Nat) : Bool := s.fld .laneCtrl [n] 0 1 == 1

/-- A lane is aligned. -/
def State.laneUp (s : State) (n : Nat) : Bool := s.fld .laneStatus [n] 2 1 == 1

/-- A lane's PRBS checker is locked. -/
def State.prbsLocked (s : State) (n : Nat) : Bool := s.fld .laneStatus [n] 3 1 == 1

/-- A notice about a lane, naming the seat. -/
def State.laneNotice (s : State) (who n : Nat) : State :=
  s.log { notice 8 with initiator := who, arg0 := n64 n }

/-! ### Ethernet ports (R368, R394, R458) -/

/-- A network port comes up once its four lanes are aligned and none is in a test function (R464). Lanes that were training are DONE, and the
medium is copper; otherwise which medium is in the cage is a free value (R368). SR4 and LR4 lanes use the
initialize values. -/
def State.ethUp (s : State) (p : Nat) : State :=
  let ls := portLanes p
  if !(ls.all fun n => s.laneUp n && !s.laneTested n) ∨ s.fld .netPortStatus [p] 0 1 = 1 then s else
  let trained := ls.any fun n => s.fld .laneTrain [n] 0 2 == 1
  let (d, s) := s.draw 3
  let medium := if trained then 1 else 1 + d
  let s := ls.foldl (fun s n =>
    if medium = 1 then s.setFld .laneTrain [n] 0 2 2
    else (s.setFld .laneTrain [n] 0 2 0).setReg .laneTxCoef [n] (3 + 52 * 16 + 8 * 1024)) s
  let s := s.setReg .netPortStatus [p]
    (1 + medium * 2 + b2n (medium == 1) * 8 + b2n (decide (medium < 3)) * 16)
  { s with net := { s.net with noForward := false } }

/-- A network port loses its link. -/
def State.ethDown (s : State) (p : Nat) : State :=
  if s.fld .netPortStatus [p] 0 1 = 0 then s else
  let s := (s.setReg .netPortStatus [p] 0).setFlag .netPortErr [p] 0
  let s := (portLanes p).foldl (fun s n =>
    ({ s with lanes := Tab.del s.lanes n } : State).setFld .laneTrain [n] 0 2 0) s
  { s with net := { s.net with noForward := false } }

/-! ### Alignment (R456) -/

/-- A searching lane finds its boundary. -/
def State.laneAlign (s : State) (n position : Nat) : State :=
  if s.laneRaw n ∨ s.laneUp n then s else
  let s := ((s.setFld .laneStatus [n] 0 1 1).setFld .laneStatus [n] 1 1 1).setFld .laneStatus [n] 2 1 1
  if laneUsb4 n then s else
  let s := s.setFld .laneStatus [n] 4 7 (position % laneW n)
  if laneEth n then (s.setFld .laneStatus [n] 12 4 8).ethUp (ethPort n) else s

/-- The protocol above a lane loses its link. -/
def State.laneLink (s : State) (n : Nat) : State :=
  if laneCxp n then s.linkLost n true
  else if laneEth n then s.ethDown (ethPort n)
  else (s.usb4Lanes (n / 2 % 2) 0).disconnect (n / 2 % 2) .link

/-- A lane loses alignment, where it had it, and its link. -/
def State.loseAlign (s : State) (n : Nat) : State :=
  let s := if s.laneUp n then (s.setFld .laneStatus [n] 2 1 0).setFlag .laneErr [n] 1 else s
  s.laneLink n

/-- ALIGNMENT_LOSS: 16 violations, or the loss of signal. How many errors CODE_ERR had counted besides is
a free value. -/
def State.alignLoss (s : State) (n : Nat) (los : Bool) : State :=
  if s.laneRaw n then s else
  let (d, s) := s.draw (2 ^ 32)
  let s := if los then
      ((s.setFlag .laneErr [n] 0).setFld .laneStatus [n] 0 1 0).setFld .laneStatus [n] 1 1 0
    else s.count .laneCodeErr [n] 16
  (s.count .laneCodeErr [n] d).loseAlign n

/-- LANE_ALIGNED (R456). -/
def execLaneAligned (lane : Fin 44) (position : Nat) (s : State) : Res :=
  .next (s.laneAlign lane position)

/-- ALIGNMENT_LOSS (R456). -/
def execAlignmentLoss (lane : Fin 44) (lossOfSignal : Bool) (s : State) : Res :=
  .next (s.alignLoss lane lossOfSignal)

/-! ### Transmitter training (R458) -/

/-- A coefficient's place in TX_COEF and its largest step. -/
def coefField (k : Nat) : Nat × Nat × Nat :=
  match k with
  | 0 => (0, 4, 15)
  | 1 => (4, 6, 63)
  | _ => (10, 5, 31)

/-- Clause 92's coefficient status: 0 not updated, 1 updated, 2 minimum, 3 maximum. -/
def State.coefAnswer (s : State) (n k code : Nat) : State := s.emit (.coefStatus n k code)

/-- One coefficient moves by a step, within its limits and where TX_FIXED lets it. -/
def State.coefStep (s : State) (n k : Nat) (up : Bool) : State :=
  let (lo, w, top) := coefField k
  let v := s.fld .laneTxCoef [n] lo w
  let limit := if up then v == top else v == 0
  if s.fld .laneTrain [n] 2 1 = 1 ∨ limit then s.coefAnswer n k (if up then 3 else 2)
  else (s.setFld .laneTxCoef [n] lo w (if up then v + 1 else v - 1)).coefAnswer n k 1

/-- Preset and initialize put all three coefficients; the Clause 92 status of each answer is a free value
among updated, minimum and maximum. -/
def State.coefAll (s : State) (n : Nat) (v : Nat) : State :=
  let s := if s.fld .laneTrain [n] 2 1 = 1 then s else s.setReg .laneTxCoef [n] v
  [0, 1, 2].foldl (fun s k =>
    let (d, s) := s.draw 3
    s.coefAnswer n k (1 + d)) s

/-- A partner's request. One that comes before the last has returned to hold is ignored (R464). -/
def State.coefRequest (s : State) (n : Nat) (r : CoefReq) : State :=
  if !laneEth n ∨ s.laneRaw n ∨ s.fld .netPortStatus [ethPort n] 0 1 = 1 then s else
  let s := (s.setFld .laneTrain [n] 0 2 1).setFld .laneTrain [n] 16 16
    (sat (s.fld .laneTrain [n] 16 16 + 1) 0xFFFF)
  let busy := (Tab.getD s.lanes n {}).pendingReq
  let hold (b : Bool) (s : State) : State :=
    { s with lanes := if b then Tab.put s.lanes n ⟨true⟩ else Tab.del s.lanes n }
  match r with
  | .hold => (hold false s).coefAnswer n 0 0 |>.coefAnswer n 1 0 |>.coefAnswer n 2 0
  | .change k up => if busy then s else (hold true s).coefStep n k up
  | .preset => if busy then s else (hold true s).coefAll n (63 * 16)
  | .initial => if busy then s else (hold true s).coefAll n (3 + 52 * 16 + 8 * 1024)

/-- COEFFICIENT_REQUEST (R458). -/
def execCoefficientRequest (lane : Fin 44) (r : CoefReq) (s : State) : Res :=
  .next (s.coefRequest lane r)

/-- Training has not completed in 500 ms: it fails, and auto-negotiation starts again. -/
def State.trainFail (s : State) (n : Nat) : State :=
  if s.fld .laneTrain [n] 0 2 ≠ 1 then s else
  let s := (s.setFld .laneTrain [n] 0 2 3).setFlag .laneErr [n] 3
  { s with lanes := Tab.del s.lanes n }

/-- TRAINING_TIMEOUT (R458). -/
def execTrainingTimeout (lane : Fin 44) (s : State) : Res := .next (s.trainFail lane)

/-! ### Test functions (R459 to R464) -/

/-- LANE registers of a USB4 lane are not written (R463). -/
def State.laneWrite (s : State) (who n : Nat) (f : State → State) : State :=
  if laneUsb4 n then s.laneNotice who n else f s

/-- MODE: a lane that enters raw mode leaves its protocol, and the recorder names the seat. -/
def State.laneMode (s : State) (who n : Nat) (raw : Bool) : State :=
  if s.laneRaw n = raw then s else
  if raw then ((s.loseAlign n).setFld .laneCtrl [n] 0 1 1).laneNotice who n
  else (s.setFld .laneCtrl [n] 0 1 0).laneNotice who n

/-- LANE_CTRL_MODE (R459). -/
def execLaneCtrlMode (seat : Fin 4) (lane : Fin 44) (mode : Bool) (s : State) : Res :=
  .next (s.laneWrite seat lane fun s => s.laneMode seat lane mode)

/-- SLIP moves the raw boundary by one bit and clears MATCH_CNT; in normal mode it is ignored. -/
def State.laneSlip (s : State) (who n : Nat) : State :=
  if !s.laneRaw n then s.laneNotice who n
  else (s.setFld .laneStatus [n] 4 7 ((s.fld .laneStatus [n] 4 7 + 1) % laneW n)).setReg .laneMatchCnt [n] 0

/-- SLIP (R459). -/
def execSlip (seat : Fin 4) (lane : Fin 44) (s : State) : Res :=
  .next (s.laneWrite seat lane fun s => s.laneSlip seat lane)

/-- INJECT inverts a bit of the generator's next word: a locked checker that the lane feeds by a near-end
loopback counts it. -/
def State.laneInject (s : State) (n : Nat) : State :=
  if s.fld .laneCtrl [n] 3 1 = 1 ∧ s.fld .laneCtrl [n] 1 2 = 1 ∧ s.prbsLocked n then s.countSat .lanePrbsErr [n]
  else s

/-- INJECT (R461). -/
def execInject (seat : Fin 4) (lane : Fin 44) (s : State) : Res :=
  .next (s.laneWrite seat lane fun s => s.laneInject lane)

/-- A network port whose lane may have left its last test function comes up again. -/
def State.laneBack (s : State) (n : Nat) : State := if laneEth n then s.ethUp (ethPort n) else s

/-- LOOPBACK: 3, and far-end on a CoaXPress lane, are ignored (R462, R465). A lane that begins to loop back carries its
protocol no more, and the link is lost (DEDUCED, notes/assumptions/171.md). -/
def State.laneLoop (s : State) (who n mode : Nat) : State :=
  if mode = 3 ∨ (mode = 2 ∧ laneCxp n) then s.laneNotice who n
  else
    let t := if mode = 0 ∨ s.fld .laneCtrl [n] 1 2 = mode then s else s.laneLink n
    (t.setFld .laneCtrl [n] 1 2 mode).laneBack n

/-- LOOPBACK (R462). -/
def execLoopback (seat : Fin 4) (lane : Fin 44) (mode : BitVec 2) (s : State) : Res :=
  .next (s.laneWrite seat lane fun s => s.laneLoop seat lane mode.toNat)

/-- PRBS_CHK: enabling clears both counts and seeds the checker. -/
def State.laneChk (s : State) (n : Nat) (on : Bool) : State :=
  if (s.fld .laneCtrl [n] 4 1 == 1) = on then s else
  let s := (s.setFld .laneCtrl [n] 4 1 (b2n on)).setFld .laneStatus [n] 3 1 0
  if on then ((s.setReg .lanePrbsBitsLo [n] 0).setReg .lanePrbsBitsHi [n] 0).setReg .lanePrbsErr [n] 0 else s

/-- PRBS_CHK (R460). -/
def execPrbsChk (seat : Fin 4) (lane : Fin 44) (on : Bool) (s : State) : Res :=
  .next (s.laneWrite seat lane fun s => s.laneChk lane on)

/-- PRBS_LOCK: 64 bits without error after seeding. -/
def execPrbsLock (lane : Fin 44) (s : State) : Res :=
  .next (if s.fld .laneCtrl [lane.val] 4 1 = 1 then s.setFld .laneStatus [lane.val] 3 1 1 else s)

/-- The bits that a locked checker has counted grow. -/
def State.prbsCount (s : State) (n bits errors : Nat) : State :=
  (s.setPair .lanePrbsBitsLo .lanePrbsBitsHi [n] (s.pair .lanePrbsBitsLo .lanePrbsBitsHi [n] + bits)).countSat
    .lanePrbsErr [n] errors

/-- The checker loses lock at 32 errors within 1,024 bits; within how many bits they fell is a free
value. -/
def State.prbsLoss (s : State) (n : Nat) : State :=
  if !s.prbsLocked n then s else
  let (d, s) := s.draw 993
  ((s.prbsCount n (32 + d) 32).setFld .laneStatus [n] 3 1 0).setFlag .laneErr [n] 2

/-- PRBS_LOCK_LOSS (R460). -/
def execPrbsLockLoss (lane : Fin 44) (s : State) : Res := .next (s.prbsLoss lane)

/-- A write of LANE_CTRL, field by field. -/
def State.writeLaneCtrl (s : State) (who n v : Nat) : State :=
  s.laneWrite who n fun s =>
    let sel := slice v 5 3
    let k := slice v 8 5
    let s := if 5 ≤ sel then s.laneNotice who n else s.setFld .laneCtrl [n] 5 3 sel
    let s := if k = 0 ∨ 10 ≤ k then s.setFld .laneCtrl [n] 8 5 k else s.laneNotice who n
    let s := s.laneLoop who n (slice v 1 2)
    let s := s.laneMode who n (bit v 0)
    let s := s.laneChk n (bit v 4)
    let s := s.setFld .laneCtrl [n] 3 1 (b2n (bit v 3))
    (if bit v 3 && !s.laneRaw n then s.loseAlign n else s).laneBack n

/-- A read of a count that runs by itself: how far it has run is a free value. -/
def State.laneGrow (s : State) (n : Nat) : State :=
  let s := if s.prbsLocked n then
      let (b, s) := s.draw (2 ^ 48)
      let (e, s) := s.draw (2 ^ 32)
      s.prbsCount n b e
    else s
  if s.laneRaw n then
    let (m, s) := s.draw (2 ^ 32)
    s.countSat .laneMatchCnt [n] m
  else s

end Sys2Proof.Machine
end

