-- ==== Sys2Proof/Machine/Rings.lean ====
section
/-! DEFINITION. The rings at work (16_host_interface.md R404, R405, R410 to R413, R420, R429): enabling,
doorbells, the total order in which the host block takes entries, and interrupt moderation. -/

namespace Sys2Proof.Machine

/-! ### What a command taken from a ring does -/

/-- The meaning of a ring command once it is taken. -/
def State.runRing (c : CmdRef) (i : Instr) (s : State) : State :=
  match i with
  | .nop _ => s.complete c Code.ok
  | .imageVerify h length => s.runImageVerify c h length
  | .imageApply h fieldChange => s.runImageApply c h fieldChange
  | .imageApplyCancel h => s.runApplyCancel c h
  | .imageStore h => s.runImageStore c h
  | .imageLock h => s.runImageLock c h
  | .imageQuery _ addr => s.runImageQuery c addr
  | .overlayApply h addr => s.runOverlayApply c h addr
  | .overlayRevert h gen => s.runOverlayRevert c h gen
  | .powerMode h mode => s.runPowerMode c h mode
  | .detOverride h mode => s.runDetOverride c h mode
  | .groupLaunch h addr => s.runGroupLaunch c h addr
  | .ctxCreate _ pin => s.runCtxCreate c pin
  | .ctxDestroy _ context => s.runCtxDestroy c context
  | .jobReplay _ context model stream lines lineAddr resultAddr resultBytes =>
      s.runJobReplay c context model stream lines lineAddr resultAddr resultBytes
  | .jobCancel _ context jobTag => s.runJobCancel c context jobTag
  | .streamPause h stream => s.runPause c h stream true
  | .streamResume h stream => s.runPause c h stream false
  | .streamSave _ stream areaAddr areaBytes => s.runStreamSave c stream areaAddr areaBytes
  | .streamRestore h stream recordAddr posDelta => s.runStreamRestore c h stream recordAddr posDelta
  | .cxpControl _ port op tagged camAddr length dataAddr =>
      s.runCxpControl c port op tagged camAddr length dataAddr
  | .cxpDescription _ port areaAddr areaBytes => s.runCxpDescription c port areaAddr areaBytes
  | .libraryAttach _ library hostAddr bytes => s.runLibraryAttach c library hostAddr bytes
  | .sampleDecode _ library sampleIndex outAddr outBytes =>
      s.runSampleDecode c library sampleIndex outAddr outBytes
  | .trainStart _ job => s.runTrainStart c job
  | .trainPause _ job => s.runTrainPause c job
  | .trainResume _ job => s.runTrainResume c job
  | .trainStop _ job => s.runTrainStop c job
  | .trainCheckpoint _ job areaAddr areaBytes => s.runTrainCheckpoint c job areaAddr areaBytes
  | .trainRestore _ job recordAddr => s.runTrainRestore c job recordAddr
  | .candidatePublish _ job => s.runCandidatePublish c job
  | .candidatePromote h force => s.runPromote c h force
  | .firmwareStore _ fileAddr length => s.runFirmwareStore c fileAddr length
  | .keyLoad _ slot blockAddr => s.runKeyLoad c slot blockAddr
  | .keyEnrol _ recordAddr => s.runKeyEnrol c recordAddr
  | .certRead _ areaAddr areaBytes => s.runCertRead c areaAddr areaBytes
  | .attest _ nonce resultAddr => s.runAttest c nonce resultAddr
  | _ => s.complete c Code.opcodeUnknown

/-! ### Taking, in one total order (R405) -/

/-- Where the entry at a ring's head lies. -/
def State.headAddr (s : State) (seat ring : Nat) : Nat :=
  s.pair .sqBaseLo .sqBaseHi [seat, ring] + 64 * s.fld .sqHead [seat, ring] 0 16

/-- The entry at a ring's head. -/
def State.headEntry (s : State) (seat ring : Nat) : Bytes :=
  if s.ringInHost seat ring then s.hostLoad seat (s.headAddr seat ring) 64
  else s.load (s.headAddr seat ring) 64

/-- A ring holds entries that are not taken. -/
def State.ringWaits (s : State) (seat ring : Nat) : Bool :=
  s.fld .sqHead [seat, ring] 0 16 != s.fld .sqTail [seat, ring] 0 16

/-- Why a ring's next entry is not taken now. -/
def State.headHold (s : State) (seat ring : Nat) : Option Hold :=
  s.holdOf seat ring (bit (byteAt (s.headEntry seat ring) 2) 1)

/-- Takes the entry at a ring's head. An uncorrectable entry completes with MEMORY_UNCORRECTABLE
(17_memory.md R443). -/
def State.takeHead (s : State) (seat : Fin 4) (ring : Fin 16) : State :=
  let i := decodeEntry seat ring (s.headEntry seat ring)
  match entryOf i with
  | none => s
  | some e =>
      match if s.ringInHost seat ring then none else s.badIn (s.headAddr seat ring) 64 with
      | some g => (s.reportUe g seat).runTaken i e fun c s => s.complete c Code.memoryUncorrectable
      | none => s.runTaken i e fun c s => s.runRing c i

/-- The (seat, ring) pair of a turn number. -/
def turnSeat (k : Nat) : Fin 4 := ⟨k / 16 % 4, Nat.mod_lt _ (by decide)⟩
def turnRing (k : Nat) : Fin 16 := ⟨k % 16, Nat.mod_lt _ (by decide)⟩

/-- The pair whose turn is next: round robin from where the last turn ended. -/
def State.nextTurn (s : State) : Option Nat :=
  ((List.range 64).map fun k => (s.host.turnPos + k) % 64).find? fun k =>
    s.ringWaits (turnSeat k) (turnRing k) && (s.headHold (turnSeat k) (turnRing k)).isNone

/-- Takes entries, one a turn. -/
def State.takeTurns (s : State) : Nat → State
  | 0 => s
  | fuel + 1 =>
      match s.nextTurn with
      | none => s
      | some k =>
          let s := { s with host := { s.host with turnPos := (k + 1) % 64 } }
          (s.takeHead (turnSeat k) (turnRing k)).takeTurns fuel

/-- The entries that wait in every ring. -/
def State.entriesWaiting (s : State) : Nat :=
  ((List.range 64).map fun k =>
    let seat := (turnSeat k).val
    let ring := (turnRing k).val
    let n := s.ringSize seat ring
    (s.fld .sqTail [seat, ring] 0 16 + n - s.fld .sqHead [seat, ring] 0 16) % n).foldl (· + ·) 0

/-- Rings whose taking has stopped for want of a completion slot show CQ_FULL. -/
def State.showFull (s : State) : State :=
  ((List.range 64).filter fun k =>
    s.ringWaits (turnSeat k) (turnRing k) && s.headHold (turnSeat k) (turnRing k) == some .full &&
    !s.flag .ringStatus [(turnSeat k).val, (turnRing k).val] 4).foldl (fun s k =>
      s.setFlag .ringStatus [(turnSeat k).val, (turnRing k).val] 4) s

/-- Takes whatever can be taken. -/
def State.takeAll (s : State) : State :=
  if s.entriesWaiting = 0 then s else (s.takeTurns s.entriesWaiting).showFull

/-! ### Doorbells and heads (R411 to R413, R429) -/

/-- A write into another seat's registers is recorded, naming both seats (R404). -/
def State.crossNote (s : State) (who seat : Nat) : State :=
  if who < 4 ∧ who ≠ seat then s.log { notice 6 with initiator := who, arg0 := n64 seat } else s

/-- A write of SQ_TAIL. -/
def State.doorbell (s : State) (who seat ring v : Nat) : State :=
  let s := s.crossNote who seat
  if !s.ringOn seat ring ∨ s.ringSize seat ring ≤ v % 65536 then s.setFlag .ringStatus [seat, ring] 3
  else (s.setFld .sqTail [seat, ring] 0 16 v).takeAll

/-- A write of CQ_HEAD. -/
def State.moveCqHead (s : State) (who seat ring v : Nat) : State :=
  let s := s.crossNote who seat
  if s.ringSize seat ring ≤ v % 65536 then s else
  let s := s.setFld .cqHead [seat, ring] 0 16 v
  let s := { s with host := { s.host with timeUp := s.host.timeUp.filter (· != (seat, ring)) } }
  (s.resignal seat ring).takeAll

/-- A ring pair's bases and size pass the check of R411. -/
def State.ringOk (s : State) (seat ring : Nat) : Bool :=
  let ix := [seat, ring]
  let n := s.ringSize seat ring
  let k := s.fld .ringCfg ix 2 5
  let sq := s.pair .sqBaseLo .sqBaseHi ix
  let cq := s.pair .cqBaseLo .cqBaseHi ix
  let host := s.ringInHost seat ring
  decide (6 ≤ k ∧ k ≤ 16) && sq % 4096 == 0 && cq % 4096 == 0 &&
  (if host then decide (seat < 2)
   else inDram sq (64 * n) && inDram cq (32 * n) && s.fld .memStatus [] 0 1 == 1)

/-- A write of RING_CFG. -/
def State.writeRingCfg (s : State) (who seat ring v : Nat) : State :=
  let ix := [seat, ring]
  let s := s.crossNote who seat
  if s.ringOn seat ring then
    let s := if slice v 1 6 ≠ s.fld .ringCfg ix 1 6 then
        s.log { notice 6 with initiator := who, arg0 := n64 (RN.off .ringCfg ix) } else s
    if bit v 0 then s else s.ringStop seat ring
  else
    let s := s.setFld .ringCfg ix 1 6 (slice v 1 6)
    if !bit v 0 ∨ s.fld .ringStatus ix 0 2 = 2 then s
    else if !s.ringOk seat ring then s.setFlag .ringStatus ix 2
    else
      let s := (s.setFld .ringCfg ix 0 1 1).setFld .ringStatus ix 0 2 1
      let s := ((s.setReg .sqHead ix 0).setReg .sqTail ix 0).setReg .cqHead ix 0
      let s := s.setReg .cqTail ix 65536
      let s := { s with host := { s.host with timeUp := s.host.timeUp.filter (· != (seat, ring)) } }
      s.resignal seat ring

/-- A write of a ring base: ignored with a notice while ENABLE is 1. -/
def State.writeBase (s : State) (who : Nat) (r : RN) (seat ring v : Nat) : State :=
  let s := s.crossNote who seat
  if s.ringOn seat ring then s.log { notice 6 with initiator := who, arg0 := n64 (RN.off r [seat, ring]) }
  else s.setReg r [seat, ring] v

/-- SQ_TAIL (R412): the host's own writes into its memory come before its doorbell (R409). -/
def execSqTail (writer seat : Fin 4) (ring : Fin 16) (value : Word) (hostWrites : List (Nat × Byte))
    (s : State) : Res :=
  .next (
    let s := if writer.val < 2 then hostWrites.foldl (fun s w => s.hostStore writer w.1 [w.2]) s else s
    s.doorbell writer seat ring value.toNat)

/-- CQ_HEAD (R413). -/
def execCqHead (writer seat : Fin 4) (ring : Fin 16) (value : Word) (s : State) : Res :=
  .next (s.moveCqHead writer seat ring value.toNat)

/-- ENABLE (R411, R429): a write of RING_CFG. -/
def execEnable (writer seat : Fin 4) (ring : Fin 16) (value : Word) (s : State) : Res :=
  .next (s.writeRingCfg writer seat ring value.toNat)

/-! ### Bus Master Enable (R410) -/

/-- The completions that waited are written, and taking goes on. -/
def State.busMasterOn (s : State) (seat : Nat) : State :=
  let held := s.host.heldDone.filter fun x => x.1.seat == seat
  let s := { s with host := { s.host with heldDone := s.host.heldDone.filter fun x => x.1.seat != seat } }
  let s := held.foldl (fun s x => (s.writeCqe x.1 x.2.1 x.2.2.1 x.2.2.2).ringSettle seat x.1.ring) s
  (s.signalSeat seat).takeAll

/-- BUS_MASTER_ENABLE (R410). -/
def execBusMasterEnable (seat : Fin 2) (on : Bool) (s : State) : Res :=
  .next (if !s.connected seat then s else
    let s := s.setFld .seatStatus [seat.val] 4 1 (b2n on)
    if on then s.busMasterOn seat else s)

/-! ### Moderation (R420) -/

/-- The oldest unread completion of a ring has waited TIME_US. -/
def State.modTimeUp (s : State) (seat ring : Nat) : State :=
  if s.fld .cqMod [seat, ring] 8 16 = 0 ∨ s.unread seat ring = 0 then s else
  ({ s with host := { s.host with
    timeUp := (seat, ring) :: s.host.timeUp.filter (· != (seat, ring)) } } : State).signalSeat seat

/-- CQ_MOD_TIMER (R420). -/
def execCqModTimer (seat : Fin 4) (ring : Fin 16) (s : State) : Res := .next (s.modTimeUp seat ring)

/-- INTERRUPT_DATAGRAM_INTERVAL (R420): a held datagram goes out. -/
def execInterruptDatagramInterval (seat : Fin 4) (s : State) : Res :=
  .next (
    let s := { s with host := { s.host with spacing := s.host.spacing.filter (· != seat.val) } }
    if s.host.intHeld.contains seat.val then s.sendInterrupt seat else s)

end Sys2Proof.Machine
end

