-- ==== Sys2Proof/Machine/Access.lean ====
section
/-! DEFINITION. Accesses to the device address space and to control space by a seat, a network session or
the console (00_scope.md R6 to R10; 01_device_overview.md R27 to R29; 16_host_interface.md R404, R408, R409;
17_memory.md R443, R448). -/

namespace Sys2Proof.Machine

/-! ### Control space: reading (R6, R7, R484) -/

/-- The control-space address of an offset. -/
def ctlAddr (off : Nat) : Nat := 0x3000000000 + off

/-- A notice of the host block that names the initiator and a control-space address (R6, R7). -/
def State.ctlNotice (s : State) (who off : Nat) : State :=
  s.log { notice (if who = 0x30 then 0x20 else 6) with initiator := who, arg0 := n64 (ctlAddr off) }

/-- A mirrored FIELD register: every one but LINK_STATUS, LINK_ERR, its counters and RETRANSMIT (R484). -/
def mirrored (off : Nat) : Bool := decide (0xF00014 ≤ off ∧ off < 0x1000000)

/-- The registers that a read of a register latches for the reading seat (the chapters' register blocks). -/
def latchPartners (r : RN) (ix : List Nat) : List (RN × List Nat) :=
  match r, ix with
  | .sqBaseLo, _ => [(.sqBaseHi, ix)]
  | .cqBaseLo, _ => [(.cqBaseHi, ix)]
  | .apBaseLo, _ => [(.apBaseHi, ix)]
  | .memUeAddrLo, _ => [(.memUeAddrHi, ix)]
  | .memRegBaseLo, _ => [(.memRegBaseHi, ix)]
  | .lanePrbsBitsLo, _ => [(.lanePrbsBitsHi, ix)]
  | .ejListBaseLo, _ => [(.ejListBaseHi, ix)]
  | .encPosLo, _ => [(.encPosHi, ix)]
  | .encIndexLo, _ => [(.encIndexHi, ix)]
  | .divKLo, _ => [(.divKHi, ix)]
  | .mapBaseLo, _ => [(.mapBaseHi, ix)]
  | .libIndexLo, _ => [(.libIndexHi, ix)]
  | .libNextLo, _ => [(.libNextHi, ix)]
  | .libOldestLo, _ => [(.libOldestHi, ix)]
  | .tallyBaseLo, _ => [(.tallyBaseHi, ix)]
  | .jobTLo, _ => [(.jobTHi, ix)]
  | .evrCursorLo, _ => [(.evrCursorHi, ix)]
  | .evrSeqNext, [0] => [(.evrSeqNext, [1])]
  | .evrSeqOldest, [0] => [(.evrSeqOldest, [1])]
  | .tbW0, _ => [(.tbW1, ix), (.tbW2, ix)]
  | .snapW, [b, 2] => [(.snapW, [b, 1]), (.snapW, [b, 0])]
  | _, _ => []

/-- What a seat's read latched of a register, if it has not been read since. -/
def State.latchOf (s : State) (who off : Nat) : Option Word :=
  (s.host.latches.find? fun l => l.1 == who && l.2.1 == off).map fun l => l.2.2

/-- A latched value is forgotten. -/
def State.unlatch (s : State) (who off : Nat) : State :=
  { s with host := { s.host with latches := s.host.latches.filter fun l => !(l.1 == who && l.2.1 == off) } }

/-- A read latches the partners of its register. -/
def State.latch (s : State) (who : Nat) (r : RN) (ix : List Nat) : State :=
  (latchPartners r ix).foldl (fun s p =>
    let off := p.1.off p.2
    let s := s.unlatch who off
    { s with host := { s.host with latches := (who, off, s.view p.1 p.2) :: s.host.latches } }) s

/-- A mirrored register's value as it comes up from the field controller; while the link is DOWN nothing comes,
and what the read returns is a free value. -/
def State.readMirror (s : State) (r : RN) (ix : List Nat) : State × Word :=
  if s.linkCode = 0 then
    let (d, s) := s.draw (2 ^ 32)
    (s, n32 d)
  else
    let v := s.view r ix
    ({ s with field := { s.field with mirror := Tab.put s.field.mirror (r.off ix) v } }, v)

/-- An aligned 32-bit read of control space. The _HI partner of a _LO register reads as latched, once
(DEDUCED, notes/assumptions/44.md). -/
def State.ctlRead (s : State) (who off : Nat) : State × Word :=
  match regAt off with
  | none => (s.ctlNotice who off, 0)
  | some (r, ix) =>
      let s := match r with
        | .laneMatchCnt | .lanePrbsBitsLo | .lanePrbsErr => s.laneGrow (ix.headD 0)
        | _ => s
      if mirrored off then s.readMirror r ix else
      match s.latchOf who off with
      | some v => (s.unlatch who off, v)
      | none => (if who < 4 then s.latch who r ix else s, s.view r ix)

/-- A read of control space of another width or alignment returns zero (R6). -/
def State.ctlOdd (s : State) (who off : Nat) : State := s.ctlNotice who off

/-! ### Control space: writing (R8, R10) -/

/-- The fields of a register take what their access allows: RW fields the value written, W1C flags a clear
where it has a 1. -/
def State.writeFields (s : State) (r : RN) (ix : List Nat) (v : Nat) : State :=
  s.setReg r ix (r.row.fields.foldl (fun w f => match f.acc with
    | .rw => putSlice w f.lo f.w (slice v f.lo f.w)
    | .w1c => if bit v f.lo then putSlice w f.lo f.w 0 else w
    | _ => w) (s.reg r ix))

/-- A notice of a register's block that names the writer, the register and the value refused. -/
def State.refuseWrite (s : State) (who : Nat) (r : RN) (ix : List Nat) (v : Nat) : State :=
  let off := r.off ix
  s.log { notice (sourceOf off) with initiator := who, arg0 := n64 off, arg1 := n64 v }

/-- A change of the die's address loses the sessions to the old one (R392). -/
def State.writeIp (s : State) (v : Nat) : State :=
  if s.reg .netIpAddr [] = v then s else
  ((s.setReg .netIpAddr [] v).disconnect 2 .address).disconnect 3 .address

/-- A write of a time base's increment: only in the software increment mode (R401). -/
def State.writeInc (s : State) (who : Nat) (r : RN) (b v : Nat) : State :=
  if b = 1 ∨ s.fld .tbCtrl [b] 0 1 = 0 then s.refuseWrite who r [b] v
  else s.updBase b fun t => { t with inc :=
    if r = .tbIncHi then v % 2 ^ 32 * 2 ^ 32 + t.inc % 2 ^ 32 else t.inc / 2 ^ 32 % 2 ^ 32 * 2 ^ 32 + v % 2 ^ 32 }

/-- A write of a frequency base. Outside the range of R401 the value it takes is a free value within it. -/
def State.writePpb (s : State) (b v : Nat) : State :=
  if b = 1 then s else
  let p := toSigned 32 v
  let (v, s) : Nat × State :=
    if -500000 ≤ p ∧ p ≤ 500000 then (v, s)
    else
      let (d, s) := s.draw 1000001
      (toUnsigned 32 ((d : Int) - 500000), s)
  (s.setReg .tbBasePpb [b] v).setInc b

/-- A write of PORT_CTRL: whether a load is found on a port that is switched on is a free value here. -/
def State.writePort (s : State) (who p v : Nat) : State :=
  let s := s.setFld .cxpPortCtrl [p] 8 3 (slice v 8 3)
  let s := s.writeLimit who p (slice v 4 4)
  let on := s.fld .cxpPortCtrl [p] 0 1 == 1
  let s :=
    if bit v 0 && !on then
      let (d, s) := s.draw 2
      s.powerUp p (d == 1)
    else if !bit v 0 && on then s.powerDown p
    else s
  if bit v 1 then s.rediscover p else s

/-- A write of RST.SW_RESET: the level of RECOVERY_N at a die reset is a free value here. -/
def State.writeReset (s : State) (who v : Nat) : State :=
  let (d, s) := s.draw 2
  s.swReset who v (d == 1)

/-- A write of EVR.CTRL. -/
def State.writeEvrCtrl (s : State) (who v : Nat) : State :=
  let s := s.setFld .evrCtrl [] 3 1 (slice v 3 1)
  let s := if bit v 0 then s.clearCritical who else s
  let s := if bit v 1 then s.clearAll who else s
  if bit v 2 then s.zeroCounters else s

/-- A write of the option window: its four bytes. -/
def State.writeWindow (s : State) (k v : Nat) : State :=
  { s with boot := { s.boot with window := spliceBytes (bytesAt s.boot.window 0 1024) (4 * k) (natLe 4 v) } }

/-- A write of TRAIN: on a lane that is not an Ethernet lane the register reads 0. -/
def State.writeTrain (s : State) (n v : Nat) : State :=
  if laneEth n then s.setFld .laneTrain [n] 2 1 (slice v 2 1) else s

/-- What a write does to a register: the effect its rule gives, or what its fields take. -/
def State.writeReg (s : State) (who : Nat) (r : RN) (ix : List Nat) (v : Nat) : State :=
  let i := ix.headD 0
  let j := (ix.drop 1).headD 0
  match r with
  | .rstBoot => if bit v 8 then s.bootClear else s
  | .rstSwReset => s.writeReset who v
  | .rstOptCtrl =>
      let s := if bit v 0 then s.commitOptions else s
      if bit v 1 then s.revertOptions else s
  | .rstRtcLo => { s with boot := { s.boot with rtcLo := n32 v } }
  | .rstRtcHi => s.setRtc v
  | .rstOptWindow => s.writeWindow i v
  | .evrCtrl => s.writeEvrCtrl who v
  | .evrRateSev =>
      if slice v 0 16 = 0 ∨ slice v 16 8 = 0 then s.refuseWrite who r ix v else s.writeFields r ix v
  | .timeSnap => if bit v 0 then s.capture else s
  | .tbCtrl => if i = 1 then s else (s.writeFields r ix v).setInc i
  | .tbIncHi | .tbIncLo => s.writeInc who r i v
  | .tbBasePpb => s.writePpb i v
  | .tbStepCtrl => s.stepGo who i v
  | .netIpAddr => s.writeIp v
  | .netIpCfg => if 32 < slice v 0 6 then s.refuseWrite who r ix v else s.writeFields r ix v
  | .sqBaseLo | .sqBaseHi | .cqBaseLo | .cqBaseHi => s.writeBase who r i j v
  | .ringCfg => s.writeRingCfg who i j v
  | .sqTail => s.doorbell who i j v
  | .cqHead => s.moveCqHead who i j v
  | .cqMod => ((s.crossNote who i).writeFields r ix v).signalSeat i
  | .ringStatus => (s.crossNote who i).writeFields r ix v
  | .intStatus => ((s.crossNote who i).writeFields r ix v).resignal i 16
  | .intMask => ((s.crossNote who i).writeFields r ix v).signalSeat i
  | .apBaseLo | .apBaseHi | .sqHead | .cqTail | .ringStatusCnt | .seatStatus | .intPending | .intStatusCnt
  | .peerIp | .peerPort | .session | .cmdArrived => (s.crossNote who i).writeFields r ix v
  | .memScrubCfg =>
      let h := slice v 0 8
      if h = 0 ∨ 168 < h then (s.setFld r ix 8 1 (slice v 8 1)).refuseWrite who r ix v
      else s.writeFields r ix v
  | .laneCtrl => s.writeLaneCtrl who i v
  | .laneCmd => s.laneWrite who i fun s =>
      let s := if bit v 0 then s.laneSlip who i else s
      if bit v 1 then s.laneInject i else s
  | .lanePattern | .laneMatchCfg => s.laneWrite who i fun s => s.writeFields r ix v
  | .laneTrain => s.laneWrite who i fun s => s.writeTrain i v
  | .cxpPocxpBudget => s.writeBudget v
  | .cxpPortCtrl => s.writePort who i v
  | .cxpStreamCfg => s.writeStreamCfg i (n32 v)
  | .lineStatCons => s.writeCons who i v
  | .schedSlice => s.writeSlice who v
  | .ejListCtrl => if bit v 0 then s.listClear who else s
  | .encCtrl => if bit v 0 then s.clearLost i else s
  | .cacheCtrl => if bit v 0 then s.flushCache else s
  | .fldQHostLo => s.writeQHost who false (n32 v)
  | .fldQHostHi => s.writeQHost who true (n32 v)
  | .qCtrl => if bit v 0 then s.clearTrip i else s
  | .gCtrl => if bit v 0 then s.clearGroup i else s
  | .cntCtrl => if bit v 0 then s.counterZero i else s
  | .coreCtrl => if (s.fld r ix 0 1 == 1) = bit v 0 then s else s.setOffline who i (bit v 0)
  | _ => s.writeFields r ix v

/-- An aligned 32-bit write of control space. A _HI register that is written reads as written. -/
def State.ctlWrite (s : State) (who off v : Nat) : State :=
  match regAt off with
  | none => s.ctlNotice who off
  | some (r, ix) =>
      let s := s.unlatch who off
      if mirrored off then s.fieldWrite who off fun s => s.writeReg who r ix v
      else s.writeReg who r ix v

/-! ### The device address space (R27, R28) -/

/-- What lies at an address now: DRAM that is not trained, and the pool of a core that is powered off, behave as
unmapped (20_reset_clocks_power.md R502, R28). -/
def State.placeNow (s : State) (a : Nat) : Place :=
  match place a with
  | .dram => if s.fld .memStatus [] 0 1 = 1 then .dram else .unmapped
  | .pool n => if s.coreOff n then .unmapped else .pool n
  | p => p

/-- An access cut at 4 KiB boundaries, where every range of R27 begins and ends. -/
def accessParts (a : Nat) : Nat → Nat → List (Nat × Nat)
  | 0, _ => []
  | fuel + 1, n =>
      if n = 0 then [] else
      let k := min n (4096 - a % 4096)
      (a, k) :: accessParts (a + k) fuel (n - k)

/-- An access touches control space. -/
def touchesControl (a n : Nat) : Bool :=
  decide (a < 0x3010000000 ∧ 0x3000000000 < a + n)

/-- An access to nothing: a warning names the initiator and the address. -/
def State.unmappedNote (s : State) (who a : Nat) : State :=
  s.log { warning (if who < 4 ∨ who = 0x20 then 6 else 7) with
    status := Code.addressUnmapped, initiator := who, arg0 := n64 a }

/-- Free bytes. -/
def State.drawBytes (s : State) (n : Nat) : State × Bytes :=
  ({ s with free := s.free + n }, (List.range n).map fun i => BitVec.ofNat 8 (Config.freeNat (s.free + i)))

/-- Bytes whose content the spec leaves to the device: a pool or the line store while an image runs, the
firmware region but for the page of the tally, whose place TALLY_BASE tells (14_fine_tuning_and_shadow.md R365), the
ordering structure of the eject list and the sample cache region. What a seat reads there is a free value. -/
def State.opaqueAt (s : State) (a : Nat) : Bool :=
  match s.placeNow a with
  | .pool _ | .lineStore => s.img.running.isSome
  | .dram =>
      let k := s.regionOf a
      let t := s.train.tallyBase
      (k == 0 && (t == 0 || decide (a / 4096 ≠ t / 4096))) || (k == 2 && decide (0x58000000 ≤ a)) || k == 12
  | _ => false

/-- A seat reads granules of DRAM that are uncorrectable: an error record names the seat. In a region that the
device uses, the region's action stands until the device uses the granule; elsewhere it is rewritten. -/
def State.seatUe (s : State) (who a n : Nat) : State :=
  (s.mc.bad.filter fun g => decide (g < a + n) && decide (a < g + 64)).foldl (fun s g =>
    if s.regionOf g = 5 ∨ s.regionOf g = 13 then s.reportUe g who else s.noteUe g false who) s

/-- Reads one part of an access, of which a part that nothing holds reads 0; what is read of an uncorrectable granule is a free value. -/
def State.readPart (s : State) (who a n : Nat) : State × Bytes :=
  match s.placeNow a with
  | .unmapped => (s, List.replicate n 0)
  | .control off => (s.ctlOdd who off, List.replicate n 0)
  | p =>
      let bad := p == .dram && (s.badIn a n).isSome
      let (s, bs) := if s.opaqueAt a ∨ bad then s.drawBytes n else (s, s.load a n)
      (if bad then s.seatUe who a n else s, bs)

/-- An access of which some part touches nothing writes one warning, naming the first address of that part (R28). -/
def State.unmappedParts (s : State) (who : Nat) (parts : List (Nat × Nat)) : State :=
  match parts.find? fun p => s.placeNow p.1 == .unmapped with
  | some p => s.unmappedNote who p.1
  | none => s

/-- Reads the device address space. An access that touches control space at all is one access to control space: an
access that begins below it and runs into it is an access of another width or alignment, recorded under the first
address of control space and under no unmapped address (DESIGN CHOICE, notes/assumptions/129.md). -/
def State.devRead (s : State) (who a n : Nat) : State × Bytes :=
  if touchesControl a n then
    if n = 4 ∧ a % 4 = 0 then
      let (s, v) := s.ctlRead who (a - 0x3000000000)
      (s, natLe 4 v.toNat)
    else (s.ctlOdd who (a - 0x3000000000), List.replicate n 0)
  else
    let parts := accessParts a (n / 4096 + 2) n
    parts.foldl (fun (x : State × Bytes) p =>
      let (s, bs) := x.1.readPart who p.1 p.2
      (s, x.2 ++ bs)) (s.unmappedParts who parts, [])

/-- A write into a region or a memory that the device uses takes effect as written, and is recorded (R28,
R448): which seat made it and where. Its severity is the model's (notes/assumptions/45.md). -/
def State.usedNote (s : State) (who a : Nat) : State :=
  let k := s.regionOf a
  let running := if s.img.runHalf = 0 then 7 else 8
  let used := match s.placeNow a with
    | .dram => k != 5 && k != 13 && (k != 7 && k != 8 || (k == running && s.img.running.isSome))
    | _ => s.img.running.isSome
  if used then s.log { notice 6 with initiator := who, arg0 := n64 a, arg1 := n64 k } else s

/-- Writes one part of an access. -/
def State.writePart (s : State) (who a : Nat) (data : Bytes) : State :=
  match s.placeNow a with
  | .unmapped => s
  | .control off => s.ctlOdd who off
  | .dram => (s.usedNote who a).storeFor who a data
  | _ => (s.usedNote who a).poke a data

/-- Writes the device address space. -/
def State.devWrite (s : State) (who a : Nat) (data : Bytes) : State :=
  if touchesControl a data.length then
    if data.length = 4 ∧ a % 4 = 0 then s.ctlWrite who (a - 0x3000000000) (leAt data 0 4)
    else s.ctlOdd who (a - 0x3000000000)
  else
    let parts := accessParts a (data.length / 4096 + 2) data.length
    parts.foldl (fun s p => s.writePart who p.1 ((data.drop (p.1 - a)).take p.2)) (s.unmappedParts who parts)

/-! ### The commands -/

/-- What a seat reads goes back to it. -/
def State.returned (r : State × Bytes) (who : Nat) : State := r.1.emit (.readData who r.2)

/-- An access of a seat to a device address. -/
def State.devAccess (s : State) (who a : Nat) (x : Access) : State :=
  match x with
  | .read n => State.returned (s.devRead who a n) who
  | .write data => s.devWrite who a data

/-- BAR2_ACCESS (R408): bits [19:0] of the base are ignored. -/
def execBar2Access (seat : Fin 2) (aperture : Fin 4) (offset : BitVec 30) (a : Access) (s : State) : Res :=
  let base := s.pair .apBaseLo .apBaseHi [seat.val, aperture.val] / 2 ^ 20 * 2 ^ 20
  .next (if s.connected seat then s.devAccess seat (base + offset.toNat) a else s)

/-- STAGING_WRITE (R56). -/
def execStagingWrite (seat : Fin 4) (offset : BitVec 33) (data : Bytes) (s : State) : Res :=
  .next (s.devWrite seat (halfBase s.stagingHalf + offset.toNat) data)

/-- UNMAPPED_ACCESS (R28). -/
def execUnmappedAccess (initiator : Byte) (addr : BitVec 64) (a : Access) (s : State) : Res :=
  let un := s.placeNow addr.toNat == .unmapped
  .next (if !un then s else
    let s := s.unmappedNote initiator.toNat addr.toNat
    match a with
    | .read n => s.emit (.readData initiator.toNat (List.replicate n 0))
    | .write _ => s)

/-- A hardware set that meets a clear prevails: the flag reads 1 and its counter counts (R520). -/
def State.clearFlags (s : State) (who off v sets : Nat) : State :=
  match regAt off with
  | none => s.ctlNotice who off
  | some (r, ix) =>
      let flags := r.row.fields.filter fun f => f.acc == .w1c
      let mask := flags.foldl (fun m f => m + f.mask) 0
      if flags.isEmpty then s else
      let s := if mirrored off then s.fieldWrite who off fun s => s.writeReg who r ix (v &&& mask)
        else s.writeReg who r ix (v &&& mask)
      let s := (flags.filter fun f => bit sets f.lo).foldl (fun s f => s.setFlag r ix f.lo) s
      if r = .intStatus then s.signalSeat (ix.headD 0) else s

/-- W1C_CLEAR (R8, R520). -/
def execW1cClear (seat : Fin 4) (offset : BitVec 28) (value : Word) (hardwareSets : Word) (s : State) : Res :=
  .next (if offset.toNat % 4 ≠ 0 then s.ctlOdd seat offset.toNat
    else s.clearFlags seat offset.toNat value.toNat hardwareSets.toNat)

/-- REGISTER_WRITE (R8). -/
def execRegisterWrite (seat : Fin 4) (offset : BitVec 28) (value : Word) (s : State) : Res :=
  .next (if offset.toNat % 4 ≠ 0 then s.ctlOdd seat offset.toNat
    else s.ctlWrite seat offset.toNat value.toNat)

/-- UNALIGNED_ACCESS (R6). -/
def execUnalignedAccess (initiator : Byte) (offset : BitVec 28) (bytes : Nat) (write : Bool) (s : State) : Res :=
  .next (if bytes = 4 ∧ offset.toNat % 4 = 0 then s else
    let s := s.ctlOdd initiator.toNat offset.toNat
    if write then s else s.emit (.readData initiator.toNat (List.replicate bytes 0)))

/-- UNOCCUPIED_ACCESS (R7). -/
def execUnoccupiedAccess (initiator : Byte) (offset : BitVec 28) (write : Bool) (s : State) : Res :=
  .next (if (regAt offset.toNat).isSome ∨ offset.toNat % 4 ≠ 0 then s else
    let s := s.ctlNotice initiator.toNat offset.toNat
    if write then s else s.emit (.readData initiator.toNat (List.replicate 4 0)))

/-- A seat's aligned read. -/
def State.seatRead (s : State) (who off : Nat) : State :=
  if off % 4 ≠ 0 then (s.ctlOdd who off).emit (.readData who (List.replicate 4 0))
  else
    let (s, v) := s.ctlRead who off
    s.emit (.readData who (natLe 4 v.toNat))

/-- LO_READ_LATCH (R303 and the other register blocks). -/
def execLoReadLatch (seat : Fin 4) (offset : BitVec 28) (s : State) : Res := .next (s.seatRead seat offset.toNat)

/-- FIELD_MIRROR_READ (R484). -/
def execFieldMirrorRead (seat : Fin 4) (offset : BitVec 20) (s : State) : Res :=
  .next (s.seatRead seat (0xF00000 + offset.toNat))

/-- FIELD_MIRROR_WRITE (R483, R484). -/
def execFieldMirrorWrite (seat : Fin 4) (offset : BitVec 20) (value : Word) (s : State) : Res :=
  .next (if offset.toNat % 4 ≠ 0 then s.ctlOdd seat (0xF00000 + offset.toNat)
    else s.ctlWrite seat (0xF00000 + offset.toNat) value.toNat)

/-- IP_ADDR (R371, R392). -/
def execIpAddr (_seat : Fin 4) (value : Word) (s : State) : Res := .next (s.writeIp value.toNat)

end Sys2Proof.Machine
end

