-- ==== Sys2Proof/Machine/Meters.lean ====
section
/-! DEFINITION. The memory controller's own work and the meters (17_memory.md R439, R440, R449 to R454;
04_line_pipes.md R117; 09_scheduling.md R247; 10_ledger_and_deadlines.md R274, R277; 11_encoders_and_eject.md
R303). -/

namespace Sys2Proof.Machine

/-! ### Scrub and refresh -/

/-- The scrub has read a granule: SCRUB_POS, in units of 0.01 % of the usable capacity. -/
def State.scrubPos (s : State) (g : Nat) : State :=
  let p := (g + 64) * 10000 / dramEnd
  if g + 64 = dramEnd then
    (s.setFld .memScrubPos [] 0 16 0).setFld .memScrubPos [] 16 16 (s.fld .memScrubPos [] 16 16 + 1)
  else s.setFld .memScrubPos [] 0 16 p

/-- The scrub reads a granule: a corrected error is counted, an uncorrectable one reported and left for the
region's action at its next use (R438, R440). -/
def State.scrub (s : State) (a : Nat) (ue ce : Bool) : State :=
  let g := granule a
  if s.fld .memScrubCfg [] 8 1 = 0 ∨ s.fld .memStatus [] 0 1 = 0 ∨ dramEnd ≤ a then s else
  let s := if ce then
      ((s.setFlag .memErr [] 0).count .memCeCount []).count .memChCe [channelOf g] else s
  let s := if ue then
      ({ s with mc := { s.mc with bad := g :: s.mc.bad.filter (· != g) } } : State).noteUe g true 0x40
    else s
  s.scrubPos g

/-- PATROL_SCRUB (R440). -/
def execPatrolScrub (addr : BitVec 40) (uncorrectable corrected : Bool) (s : State) : Res :=
  .next (s.scrub addr.toNat uncorrectable corrected)

/-- The refresh requirement of a channel as mode register 4 gives it: above 3, the base rate of LPDDR4X, some
channel is HOT (PRESUMED, notes/assumptions/46.md). -/
def State.refreshRead (s : State) (c : Nat) (rate : Nat) : State :=
  if s.fld .memChStatus [c] 0 1 = 0 then s else
  let s := s.setFld .memChStatus [c] 1 3 rate
  s.setFld .memStatus [] 7 1 (b2n ((List.range 32).any fun k => decide (3 < s.fld .memChStatus [k] 1 3)))

/-- REFRESH_RATE_READ (R439). -/
def execRefreshRateRead (channel : Fin 32) (rate : BitVec 3) (s : State) : Res :=
  .next (s.refreshRead channel rate.toNat)

/-! ### Meters -/

/-- A utilisation in units of 0.01 %, at most 10,000. -/
def load16 (v lo : Nat) : Nat := min (slice v lo 16) 10000

/-- The meter of a unit: pipes 0 to 3, cores 4 to 7, decode engines 8 (and with it the whole MiB of the sample cache in
use, R344), memory reads 9 and writes 10. -/
def State.meter (s : State) (u v : Nat) : State :=
  if u < 4 then s.setReg .linePipeLoad [u] (load16 v 0)
  else if u < 8 then s.setReg .coreLoad [u - 4] (load16 v 0 + load16 v 16 * 65536)
  else if u = 8 then
    let used := (s.cap.cache.map CacheEntry.bytes).foldl (· + ·) 0
    (s.setReg .decLoad [] (load16 v 0)).setReg .cacheUsed [] (used / 2 ^ 20)
  else if u = 9 then s.setReg .memBwRead [] v
  else if u = 10 then s.setReg .memBwWrite [] v
  else s

/-- LOAD_METER_REFRESH (R117, R247, R344, R452). -/
def execLoadMeterRefresh (unit : Nat) (value : Word) (s : State) : Res := .next (s.meter unit value.toNat)

/-- A second of TB1 is over: the counts of it show, and begin again. -/
def State.rates (s : State) : State :=
  let s := s.setFld .ledgInFlight [] 0 21 s.liveParts.length
  let s := s.setFld .ledgOpenRate [] 0 18 (sat s.ledg.opened (2 ^ 18 - 1))
  let low : Int := -(2 ^ 31)
  let s := s.setReg .ledgSlack [] (toUnsigned 32 (max low (min s.ledg.slack 0x7FFFFFFF)))
  let s := s.setReg .ejInsertRate [] (sat s.motion.inserted 0xFFFFFFFF)
  { s with ledg := { s.ledg with opened := 0, slack := 0x7FFFFFFF }
           motion := { s.motion with inserted := 0 } }

/-- RATE_COUNT_REFRESH (R274, R277, R303). -/
def execRateCountRefresh (s : State) : Res := .next s.rates

end Sys2Proof.Machine
end

