-- ==== Sys2Proof/Machine/Beyholdo.lean ====
section
/-! DEFINITION. Beyholdo, the protocol of the network seats (16_host_interface.md R421 to R425). -/

namespace Sys2Proof.Machine

/-! ### The header (R421) -/

/-- The payload bytes of a datagram; none for a command that is no datagram. -/
def bhPayload (i : Instr) : Option Nat :=
  match i with
  | .hello _ _ _ => some 4
  | .submit _ _ es => if (es.all fun e => e.length == 64) && decide (es.length < 256) then some (4 + 64 * es.length)
      else none
  | .regRead _ _ _ => some 6
  | .regWrite _ _ vs => some (6 + 4 * vs.length)
  | .memRead _ _ _ => some 12
  | .memWrite _ _ data => some (12 + data.length)
  | .keepalive _ | .ack _ | .bye _ => some 0
  | _ => none

/-- The header's fields match: MAGIC, VERSION and LENGTH, and the session's own SESSION and payload limit. -/
def bhMatches (d : BhHdr) (i : Instr) (x : Session) : Bool :=
  d.magic == 0x4842 && d.version == 1 && d.session == x.id && bhPayload i == some d.length.toNat &&
  decide (d.length.toNat ≤ x.maxPayload)

/-- A datagram is discarded and counted. -/
def State.bhDrop (s : State) : State := s.count .hostBhDrop []

/-- The session of a seat changed. -/
def State.updSession (s : State) (seat : Nat) (f : Session → Session) : State :=
  { s with host := { s.host with sessions := Tab.upd s.host.sessions seat f } }

/-! ### Acknowledgement of what the device has sent (R423, R424) -/

/-- How far a sequence number lies ahead of another, as a signed difference modulo 2^32. -/
def seqAhead (a b : Nat) : Int := toSigned 32 ((a % 2 ^ 32 + 2 ^ 32 - b % 2 ^ 32) % 2 ^ 32)

/-- A COMPLETE datagram is acknowledged: the device advances CQ_HEAD past its completions. -/
def State.bhAdvance (s : State) (seat : Nat) (d : SentDgram) : State :=
  if d.completions = 0 ∨ !s.ringOn seat d.ring ∨ s.unread seat d.ring < d.completions then s else
  s.moveCqHead seat seat d.ring ((s.fld .cqHead [seat, d.ring] 0 16 + d.completions) % s.ringSize seat d.ring)

/-- Datagrams kept back are sent while fewer than 64 are unacknowledged. -/
def State.bhFlush (s : State) (seat : Nat) : Nat → State
  | 0 => s
  | fuel + 1 =>
      match Tab.get s.host.sessions seat with
      | none => s
      | some x =>
          match x.waiting with
          | [] => s
          | w :: rest =>
              if 64 ≤ x.unacked.length then s else
              let s := s.updSession seat fun x => { x with waiting := rest }
              (s.bhSend seat w.type w.payload w.ring w.completions).bhFlush seat fuel

/-- The cumulative ACK of a datagram. -/
def State.bhAcked (s : State) (seat ack : Nat) : State :=
  match Tab.get s.host.sessions seat with
  | none => s
  | some x =>
      let got := x.unacked.filter fun u => decide (0 ≤ seqAhead ack u.seq)
      let s := s.updSession seat fun x => { x with
        unacked := x.unacked.filter fun u => decide (seqAhead ack u.seq < 0) }
      let s := got.foldl (fun s u => s.bhAdvance seat u) s
      s.bhFlush seat x.waiting.length

/-! ### What a datagram does (R423) -/

/-- A refused datagram. -/
def State.bhError (s : State) (seat seq status : Nat) : State :=
  s.bhSend seat 0x0C (natLe 4 seq ++ natLe 1 status)

/-- SUBMIT: the entries go into the ring at SQ_TAIL, all at once. -/
def State.bhSubmit (s : State) (seat seq ring : Nat) (es : List Bytes) : State :=
  if 16 ≤ ring then s.bhError seat seq Code.badIndex else
  let ix := [seat, ring]
  if !s.ringOn seat ring then s.setFlag .ringStatus ix 3 else
  let n := s.ringSize seat ring
  let tail := s.fld .sqTail ix 0 16
  let room := (s.fld .sqHead ix 0 16 + n - tail - 1) % n
  if room < es.length then s.bhError seat seq Code.ringFull else
  let base := s.pair .sqBaseLo .sqBaseHi ix
  let s := (es.zipIdx).foldl (fun s e => s.storeFor seat (base + 64 * ((tail + e.2) % n)) e.1) s
  s.doorbell seat seat ring ((tail + es.length) % n)

/-- Registers read one after another. -/
def State.readWords (s : State) (who off : Nat) : Nat → State × Bytes
  | 0 => (s, [])
  | n + 1 =>
      let (s, v) := if off % 4 = 0 then s.ctlRead who off else (s.ctlOdd who off, 0)
      let (s, bs) := State.readWords s who (off + 4) n
      (s, natLe 4 v.toNat ++ bs)

/-- Registers written one after another, in ascending address. -/
def State.writeWords (s : State) (who off : Nat) : List Nat → State
  | [] => s
  | v :: vs =>
      let s := if off % 4 = 0 then s.ctlWrite who off v else s.ctlOdd who off
      State.writeWords s who (off + 4) vs

/-- REG_READ. An all-ones COUNT is reserved (00_scope.md R12). -/
def State.bhRegRead (s : State) (seat seq off count : Nat) : State :=
  if count = 0xFFFF then s.bhError seat seq Code.fieldReserved else
  if count = 0 ∨ 64 < count then s.bhError seat seq Code.lengthRange else
  let (s, bs) := s.readWords seat off count
  s.bhSend seat 0x06 (natLe 4 off ++ natLe 2 count ++ bs)

/-- REG_WRITE. -/
def State.bhRegWrite (s : State) (seat seq off : Nat) (vs : List Word) : State :=
  if vs.isEmpty ∨ 64 < vs.length then s.bhError seat seq Code.lengthRange
  else s.writeWords seat off (vs.map BitVec.toNat)

/-- Some granule of DRAM in a range is uncorrectable (17_memory.md R443). -/
def State.badDram (s : State) (a n : Nat) : Bool :=
  s.placeNow a == .dram && (s.badIn a n).isSome

/-- Memory that touches control space, read as aligned 32-bit accesses. -/
def State.memWords (s : State) (who a : Nat) : Nat → State × Bytes
  | 0 => (s, [])
  | n + 1 =>
      let (s, b) := s.devRead who a 4
      let (s, bs) := State.memWords s who (a + 4) n
      (s, b ++ bs)

/-- MEM_READ. An all-ones LENGTH is reserved (R12). -/
def State.bhMemRead (s : State) (seat seq a n limit : Nat) : State :=
  if n = 0xFFFFFFFF then s.bhError seat seq Code.fieldReserved else
  if limit < n + 16 then s.bhError seat seq Code.lengthRange
  else if touchesControl a n then
    if a % 4 ≠ 0 ∨ n % 4 ≠ 0 then s.bhError seat seq Code.alignment else
    let (s, bs) := s.memWords seat a (n / 4)
    s.bhSend seat 0x09 (natLe 8 a ++ natLe 4 n ++ bs)
  else if s.badDram a n then (s.seatUe seat a n).bhError seat seq Code.memoryUncorrectable
  else
    let (s, bs) := s.devRead seat a n
    s.bhSend seat 0x09 (natLe 8 a ++ natLe 4 n ++ bs)

/-- MEM_WRITE. -/
def State.bhMemWrite (s : State) (seat seq a : Nat) (data : Bytes) : State :=
  if touchesControl a data.length then
    if a % 4 ≠ 0 ∨ data.length % 4 ≠ 0 then s.bhError seat seq Code.alignment else
    (List.range (data.length / 4)).foldl (fun s k =>
      s.devWrite seat (a + 4 * k) ((data.drop (4 * k)).take 4)) s
  else s.devWrite seat a data

/-- Performs a sequenced datagram of a session. -/
def State.bhPerform (s : State) (seat limit : Nat) (i : Instr) : State :=
  match i with
  | .submit d ring es => s.bhSubmit seat d.seq.toNat ring.toNat es
  | .regRead d off count => s.bhRegRead seat d.seq.toNat off.toNat count.toNat
  | .regWrite d off vs => s.bhRegWrite seat d.seq.toNat off.toNat vs
  | .memRead d a n => s.bhMemRead seat d.seq.toNat a.toNat n.toNat limit
  | .memWrite d a data => s.bhMemWrite seat d.seq.toNat a.toNat data
  | _ => s

/-! ### Order and loss (R424) -/

/-- The next datagram in order, if it is held. -/
def Session.nextHeld (x : Session) : Option Instr :=
  (x.held.find? fun h => seqAhead h.1 x.rxSeq == 1).map Prod.snd

/-- A datagram in order is performed, and so are the held ones that follow it. -/
def State.bhDeliver (s : State) (seat : Nat) (i : Instr) : Nat → State
  | 0 => s
  | fuel + 1 =>
      match Tab.get s.host.sessions seat with
      | none => s
      | some x =>
          let s := s.updSession seat fun x => { x with
            rxSeq := x.rxSeq + 1, ackOwed := true, held := x.held.filter fun h => seqAhead h.1 x.rxSeq != 1 }
          let s := s.bhPerform seat x.maxPayload i
          match (Tab.get s.host.sessions seat).bind Session.nextHeld with
          | some j => s.bhDeliver seat j fuel
          | none => s

/-- A sequenced datagram: a duplicate is acknowledged again, one up to 64 ahead is held, one beyond is
discarded. -/
def State.bhSequenced (s : State) (seat seq : Nat) (i : Instr) : State :=
  match Tab.get s.host.sessions seat with
  | none => s
  | some x =>
      let k := seqAhead seq x.rxSeq
      if k ≤ 0 then s.bhPut seat 0x0E 0 false []
      else if 64 < k then s
      else if k = 1 then s.bhDeliver seat i (x.held.length + 1)
      else if x.held.any fun h => h.1 == seq then s.bhPut seat 0x0E 0 false []
      else s.updSession seat fun x => { x with held := x.held ++ [(seq, i)], ackOwed := true }

/-- A datagram of a session arrives: it is checked, its ACK is taken, and it is handled by its kind. -/
def State.bhReceive (s : State) (d : BhHdr) (i : Instr) (f : Nat → State → State) : State :=
  if !s.seatsUp 2 then s else
  let seat := d.seat.toNat
  match Tab.get s.host.sessions seat with
  | none => s.bhDrop
  | some x => if bhMatches d i x then f seat (s.bhAcked seat d.ack.toNat) else s.bhDrop

/-! ### Sessions (R425) -/

/-- The device's own limit of a payload (R422). -/
abbrev bhMaxPayload : Nat := 8960

/-- HELLO_ACK. -/
def State.helloAck (s : State) (d : BhHdr) (status seat limit session : Nat) : State :=
  s.emit (.beyholdo seat d.ip d.port (bhBytes seat 0x02 session 0 0 false
    (natLe 1 status ++ natLe 1 seat ++ natLe 2 limit ++ natLe 4 session ++ natLe 8 Config.serial.toNat)))

/-- A seat's session belongs to a peer. -/
def State.peerOf (s : State) (seat : Nat) (d : BhHdr) : Bool :=
  match Tab.get s.host.sessions seat with
  | some x => x.ip == d.ip && x.port == d.port
  | none => false

/-- A seat has no session. -/
def State.seatFree (s : State) (seat : Nat) : Bool := (Tab.get s.host.sessions seat).isNone

/-- The seat a HELLO takes: the one requested, or the lower free one; one that the same peer holds is taken
again. -/
def State.helloSeat (s : State) (d : BhHdr) (req : Nat) : Option Nat :=
  if req = 0xFF then ([2, 3].find? s.seatFree).or ([2, 3].find? fun k => s.peerOf k d)
  else if s.seatFree req ∨ s.peerOf req d then some req
  else none

/-- A session forms on a seat; causes that are pending already are signalled on it. -/
def State.openSession (s : State) (d : BhHdr) (seat limit : Nat) : State :=
  let s := s.disconnect seat .replaced
  let id := s.host.nextSession
  let x : Session := { ip := d.ip, port := d.port, id := id, maxPayload := limit, txSeq := 0, rxSeq := 0
                       unacked := [], waiting := [], held := [], ackOwed := false }
  let s := { s with host := { s.host with
    sessions := Tab.put s.host.sessions seat x
    nextSession := if id = 0xFFFFFFFF then 1 else id + 1 } }
  let s := ((s.setReg .peerIp [seat] d.ip.toNat).setReg .peerPort [seat] d.port.toNat).setReg .session [seat] id.toNat
  ((s.connect seat).helloAck d Code.ok seat limit id.toNat).signalSeat seat

/-- HELLO. A header that does not match, a REQ_SEAT that names no seat and a MAX_PAYLOAD below the range or all-ones
are discarded (DESIGN CHOICE, notes/assumptions/47.md). -/
def State.hello (s : State) (d : BhHdr) (i : Instr) (req maxPayload : Nat) : State :=
  if !s.seatsUp 2 then s else
  if !(d.magic == 0x4842 && d.version == 1 && d.session == 0 && bhPayload i == some d.length.toNat) ∨
      !([2, 3, 0xFF].contains req) ∨
      maxPayload < 1440 ∨ maxPayload = 0xFFFF then s.bhDrop
  else
    let limit := min maxPayload bhMaxPayload
    match s.helloSeat d req with
    | none => s.helloAck d Code.seatBusy req limit 0
    | some seat => s.openSession d seat limit

/-! ### The datagrams -/

/-- HELLO (R425). -/
def execHello (d : BhHdr) (reqSeat : Byte) (maxPayload : BitVec 16) (s : State) : Res :=
  .next (s.hello d (.hello d reqSeat maxPayload) reqSeat.toNat maxPayload.toNat)

/-- SUBMIT (R423). -/
def execSubmit (d : BhHdr) (ring : Byte) (entries : List Bytes) (s : State) : Res :=
  .next (s.bhReceive d (.submit d ring entries) fun seat s => s.bhSequenced seat d.seq.toNat (.submit d ring entries))

/-- REG_READ (R423). -/
def execRegRead (d : BhHdr) (offset : Word) (count : BitVec 16) (s : State) : Res :=
  .next (s.bhReceive d (.regRead d offset count) fun seat s =>
    s.bhSequenced seat d.seq.toNat (.regRead d offset count))

/-- REG_WRITE (R423). -/
def execRegWrite (d : BhHdr) (offset : Word) (values : List Word) (s : State) : Res :=
  .next (s.bhReceive d (.regWrite d offset values) fun seat s =>
    s.bhSequenced seat d.seq.toNat (.regWrite d offset values))

/-- MEM_READ (R423). -/
def execMemRead (d : BhHdr) (addr : BitVec 64) (length : Word) (s : State) : Res :=
  .next (s.bhReceive d (.memRead d addr length) fun seat s =>
    s.bhSequenced seat d.seq.toNat (.memRead d addr length))

/-- MEM_WRITE (R423). -/
def execMemWrite (d : BhHdr) (addr : BitVec 64) (data : Bytes) (s : State) : Res :=
  .next (s.bhReceive d (.memWrite d addr data) fun seat s =>
    s.bhSequenced seat d.seq.toNat (.memWrite d addr data))

/-- KEEPALIVE (R424): its ACK is all it brings. -/
def execKeepalive (d : BhHdr) (s : State) : Res := .next (s.bhReceive d (.keepalive d) fun _ s => s)

/-- ACK (R424). -/
def execAck (d : BhHdr) (s : State) : Res := .next (s.bhReceive d (.ack d) fun _ s => s)

/-- BYE (R425): ends the session at once. -/
def execBye (d : BhHdr) (s : State) : Res := .next (s.bhReceive d (.bye d) fun seat s => s.disconnect seat .bye)

/-! ### The timers (R424) -/

/-- BH_ACK_TIMER: a separate ACK, where one is still owed. -/
def execBhAckTimer (seat : Fin 4) (s : State) : Res :=
  .next (match Tab.get s.host.sessions seat with
    | some x => if x.ackOwed then s.bhPut seat 0x0E 0 false [] else s
    | none => s)

/-- The oldest unacknowledged datagram is sent again, or after five times the session is lost. -/
def State.bhAgain (s : State) (seat : Nat) : State :=
  match Tab.get s.host.sessions seat with
  | none => s
  | some x =>
      match x.unacked with
      | [] => s
      | u :: rest =>
          if 5 ≤ u.tries then s.disconnect seat .retransmission else
          let s := s.updSession seat fun x => { x with unacked := { u with tries := u.tries + 1 } :: rest }
          s.bhPut seat u.type u.seq true u.payload

/-- BH_RETRANSMIT (R424). -/
def execBhRetransmit (seat : Fin 4) (s : State) : Res := .next (s.bhAgain seat)

/-- BH_SILENCE (R424). -/
def execBhSilence (seat : Fin 4) (s : State) : Res :=
  .next (if s.seatFree seat then s else s.disconnect seat .silence)

/-- BH_KEEPALIVE_TIMER (R424). -/
def execBhKeepaliveTimer (seat : Fin 4) (s : State) : Res := .next (s.bhPut seat 0x0D 0 false [])

end Sys2Proof.Machine
end

