-- ==== Sys2Proof/Machine/Console.lean ====
section
/-! DEFINITION. The recovery console (16_host_interface.md R428). What its replies say beyond the ending
is laid out by the model (DESIGN CHOICE, notes/assumptions/48.md). -/

namespace Sys2Proof.Machine

/-- The console as an INITIATOR (R522). -/
abbrev consoleInit : Nat := 0x20

/-- A reply that ends in OK. -/
def State.say (s : State) (lines : List String) : State := s.emit (.console (lines ++ ["OK"]))

/-- A reply that ends in ERR and a status code. -/
def State.sayErr (s : State) (code : Nat) : State := s.emit (.console ["ERR " ++ hexDigits 2 code])

/-- STATUS (R428). -/
def execStatus (s : State) : Res :=
  .next (s.say
    ["STATE " ++ hexDigits 8 (s.view .glbState []).toNat, "CAUSE " ++ dec 1 s.backup.cause,
     "BOOTS " ++ dec 1 s.backup.attempts, "FIRMWARE " ++ hexDigits 8 (s.view .glbFwVersion []).toNat])

/-- The records held in descending SEQ. -/
def State.newestRecs (s : State) : List (Nat × Bytes) := s.heldRecs.mergeSort fun a b => decide (b.1 ≤ a.1)

/-- Bytes in hexadecimal. -/
def hexBytes (bs : Bytes) : String := String.join (bs.map fun b => hexDigits 2 b.toNat)

/-- EVENTS n: the newest n records, the oldest of them first. -/
def execEvents (n : Nat) (s : State) : Res :=
  .next (if n = 0 ∨ 1024 < n then s.sayErr Code.lengthRange
    else s.say ((s.newestRecs.take n).reverse.map fun r => hexBytes r.2))

/-- A console access to control space: elsewhere it is refused, and unaligned it is refused by R6 as well. -/
def State.consoleAt (s : State) (a : Nat) (f : Nat → State → State) : State :=
  if !touchesControl a 4 then s.sayErr Code.addressUnmapped
  else if a % 4 ≠ 0 then (s.ctlOdd consoleInit (a - 0x3000000000)).sayErr Code.alignment
  else f (a - 0x3000000000) s

/-- PEEK (R428). -/
def execPeek (addr : BitVec 40) (s : State) : Res :=
  .next (s.consoleAt addr.toNat fun off s =>
    let (s, v) := s.ctlRead consoleInit off
    s.say [hexDigits 8 v.toNat])

/-- POKE (R428): the write is recorded with the console as the initiator. -/
def execPoke (addr : BitVec 40) (v : Word) (s : State) : Res :=
  .next (s.consoleAt addr.toNat fun off s =>
    let s := s.log { info 0x21 with initiator := consoleInit, arg0 := n64 addr.toNat, arg1 := n64 v.toNat }
    (s.ctlWrite consoleInit off v.toNat).say [])

/-- OPTIONS (R428): the copies of the option record. -/
def execOptions (s : State) : Res := .next (s.say (s.flash.options.map hexBytes))

/-- FWLOAD (R428): proceeds as FIRMWARE_STORE; the reply comes with its outcome. -/
def execFwload (file : Bytes) (s : State) : Res :=
  .next (if 16777216 < file.length then s.sayErr Code.lengthRange else s.storeFirmware none (file.take (Fw.length file)))

/-- RESET (R428): a software die reset; the level of RECOVERY_N is a free value here. -/
def execReset (s : State) : Res :=
  let s := s.say []
  let (d, s) := s.draw 2
  .next (s.swReset consoleInit 0xA5000001 (d == 1))

end Sys2Proof.Machine
end

