-- ==== Sys2Proof/Machine/Dispatch.lean ====
section
/-! DEFINITION. The meaning of each command: one arm for each constructor of Instr. -/

namespace Sys2Proof.Machine

def exec (i : Instr) (s : State) : Host.Outcome State Fault Refusal :=
  match i with
  | .nop h => Sys2Proof.Machine.execNop h s
  | .imageVerify h length => Sys2Proof.Machine.execImageVerify h length s
  | .verificationComplete => Sys2Proof.Machine.execVerificationComplete s
  | .imageApply h fieldChange => Sys2Proof.Machine.execImageApply h fieldChange s
  | .imageApplyCancel h => Sys2Proof.Machine.execImageApplyCancel h s
  | .imageStore h => Sys2Proof.Machine.execImageStore h s
  | .imageLock h => Sys2Proof.Machine.execImageLock h s
  | .imageQuery h resultAddr => Sys2Proof.Machine.execImageQuery h resultAddr s
  | .overlayApply h recordAddr => Sys2Proof.Machine.execOverlayApply h recordAddr s
  | .overlayRevert h gen => Sys2Proof.Machine.execOverlayRevert h gen s
  | .powerMode h mode => Sys2Proof.Machine.execPowerMode h mode s
  | .detOverride h mode => Sys2Proof.Machine.execDetOverride h mode s
  | .groupLaunch h itemAddr => Sys2Proof.Machine.execGroupLaunch h itemAddr s
  | .ctxCreate h pin => Sys2Proof.Machine.execCtxCreate h pin s
  | .ctxDestroy h context => Sys2Proof.Machine.execCtxDestroy h context s
  | .jobReplay h context model stream lines lineAddr resultAddr resultBytes => Sys2Proof.Machine.execJobReplay h context model stream lines lineAddr resultAddr resultBytes s
  | .jobCancel h context jobTag => Sys2Proof.Machine.execJobCancel h context jobTag s
  | .streamPause h stream => Sys2Proof.Machine.execStreamPause h stream s
  | .streamResume h stream => Sys2Proof.Machine.execStreamResume h stream s
  | .streamSave h stream areaAddr areaBytes => Sys2Proof.Machine.execStreamSave h stream areaAddr areaBytes s
  | .streamRestore h stream recordAddr posDelta => Sys2Proof.Machine.execStreamRestore h stream recordAddr posDelta s
  | .cxpControl h port op tagged camAddr length dataAddr => Sys2Proof.Machine.execCxpControl h port op tagged camAddr length dataAddr s
  | .cxpDescription h port areaAddr areaBytes => Sys2Proof.Machine.execCxpDescription h port areaAddr areaBytes s
  | .libraryAttach h library hostAddr bytes => Sys2Proof.Machine.execLibraryAttach h library hostAddr bytes s
  | .sampleDecode h library sampleIndex outAddr outBytes => Sys2Proof.Machine.execSampleDecode h library sampleIndex outAddr outBytes s
  | .trainStart h job => Sys2Proof.Machine.execTrainStart h job s
  | .trainPause h job => Sys2Proof.Machine.execTrainPause h job s
  | .trainResume h job => Sys2Proof.Machine.execTrainResume h job s
  | .trainStop h job => Sys2Proof.Machine.execTrainStop h job s
  | .trainCheckpoint h job areaAddr areaBytes => Sys2Proof.Machine.execTrainCheckpoint h job areaAddr areaBytes s
  | .trainRestore h job recordAddr => Sys2Proof.Machine.execTrainRestore h job recordAddr s
  | .candidatePublish h job => Sys2Proof.Machine.execCandidatePublish h job s
  | .candidatePromote h force => Sys2Proof.Machine.execCandidatePromote h force s
  | .firmwareStore h fileAddr length => Sys2Proof.Machine.execFirmwareStore h fileAddr length s
  | .keyLoad h slot blockAddr => Sys2Proof.Machine.execKeyLoad h slot blockAddr s
  | .keyEnrol h recordAddr => Sys2Proof.Machine.execKeyEnrol h recordAddr s
  | .certRead h areaAddr areaBytes => Sys2Proof.Machine.execCertRead h areaAddr areaBytes s
  | .attest h nonce resultAddr => Sys2Proof.Machine.execAttest h nonce resultAddr s
  | .opcodeUnknown h opcode => Sys2Proof.Machine.execOpcodeUnknown h opcode s
  | .status => Sys2Proof.Machine.execStatus s
  | .events n => Sys2Proof.Machine.execEvents n s
  | .peek addr => Sys2Proof.Machine.execPeek addr s
  | .poke addr v => Sys2Proof.Machine.execPoke addr v s
  | .options => Sys2Proof.Machine.execOptions s
  | .fwload file => Sys2Proof.Machine.execFwload file s
  | .reset => Sys2Proof.Machine.execReset s
  | .hello d reqSeat maxPayload => Sys2Proof.Machine.execHello d reqSeat maxPayload s
  | .submit d ring entries => Sys2Proof.Machine.execSubmit d ring entries s
  | .regRead d offset count => Sys2Proof.Machine.execRegRead d offset count s
  | .regWrite d offset values => Sys2Proof.Machine.execRegWrite d offset values s
  | .memRead d addr length => Sys2Proof.Machine.execMemRead d addr length s
  | .memWrite d addr data => Sys2Proof.Machine.execMemWrite d addr data s
  | .keepalive d => Sys2Proof.Machine.execKeepalive d s
  | .ack d => Sys2Proof.Machine.execAck d s
  | .bye d => Sys2Proof.Machine.execBye d s
  | .bhAckTimer seat => Sys2Proof.Machine.execBhAckTimer seat s
  | .bhRetransmit seat => Sys2Proof.Machine.execBhRetransmit seat s
  | .bhSilence seat => Sys2Proof.Machine.execBhSilence seat s
  | .bhKeepaliveTimer seat => Sys2Proof.Machine.execBhKeepaliveTimer seat s
  | .usb4LinkLoss seat => Sys2Proof.Machine.execUsb4LinkLoss seat s
  | .hotReset seat => Sys2Proof.Machine.execHotReset seat s
  | .functionLevelReset seat => Sys2Proof.Machine.execFunctionLevelReset seat s
  | .seatConnect seat gen3 => Sys2Proof.Machine.execSeatConnect seat gen3 s
  | .busMasterEnable seat on => Sys2Proof.Machine.execBusMasterEnable seat on s
  | .bar2Access seat aperture offset a => Sys2Proof.Machine.execBar2Access seat aperture offset a s
  | .sqTail writer seat ring value hostWrites => Sys2Proof.Machine.execSqTail writer seat ring value hostWrites s
  | .cqHead writer seat ring value => Sys2Proof.Machine.execCqHead writer seat ring value s
  | .enable writer seat ring value => Sys2Proof.Machine.execEnable writer seat ring value s
  | .cqModTimer seat ring => Sys2Proof.Machine.execCqModTimer seat ring s
  | .caps g m => Sys2Proof.Machine.execCaps g m s
  | .capsTimer => Sys2Proof.Machine.execCapsTimer s
  | .peerAbsent index => Sys2Proof.Machine.execPeerAbsent index s
  | .axis g tb0 p encState => Sys2Proof.Machine.execAxis g tb0 p encState s
  | .axisTimer => Sys2Proof.Machine.execAxisTimer s
  | .axisStale => Sys2Proof.Machine.execAxisStale s
  | .handoff g m => Sys2Proof.Machine.execHandoff g m s
  | .strip g m => Sys2Proof.Machine.execStrip g m s
  | .stripSeamUpdate strip => Sys2Proof.Machine.execStripSeamUpdate strip s
  | .launchItem g item launch => Sys2Proof.Machine.execLaunchItem g item launch s
  | .launchAnswer g launch status ptpState => Sys2Proof.Machine.execLaunchAnswer g launch status ptpState s
  | .go g launch => Sys2Proof.Machine.execGo g launch s
  | .groupLaunchDeadline => Sys2Proof.Machine.execGroupLaunchDeadline s
  | .event g record => Sys2Proof.Machine.execEvent g record s
  | .groupAck g ackSeq => Sys2Proof.Machine.execGroupAck g ackSeq s
  | .groupRetransmit peer seq => Sys2Proof.Machine.execGroupRetransmit peer seq s
  | .frameForward inPort f => Sys2Proof.Machine.execFrameForward inPort f s
  | .addressAgeing mac => Sys2Proof.Machine.execAddressAgeing mac s
  | .arpRequest inPort senderMac senderIp targetIp => Sys2Proof.Machine.execArpRequest inPort senderMac senderIp targetIp s
  | .icmpEcho senderIp targetIp fragmented data => Sys2Proof.Machine.execIcmpEcho senderIp targetIp fragmented data s
  | .coefficientRequest lane r => Sys2Proof.Machine.execCoefficientRequest lane r s
  | .trainingTimeout lane => Sys2Proof.Machine.execTrainingTimeout lane s
  | .ptpSync offsetNs meanPathDelay => Sys2Proof.Machine.execPtpSync offsetNs meanPathDelay s
  | .ptpAnnounce port a => Sys2Proof.Machine.execPtpAnnounce port a s
  | .ptpDelayReq port identity seq peer => Sys2Proof.Machine.execPtpDelayReq port identity seq peer s
  | .ptpMessageTimer kind => Sys2Proof.Machine.execPtpMessageTimer kind s
  | .holdover base => Sys2Proof.Machine.execHoldover base s
  | .launchEdge => Sys2Proof.Machine.execLaunchEdge s
  | .tbStepGo seat base value => Sys2Proof.Machine.execTbStepGo seat base value s
  | .snapCapture seat => Sys2Proof.Machine.execSnapCapture seat s
  | .ipAddr seat value => Sys2Proof.Machine.execIpAddr seat value s
  | .powerEn seat port on loadFound => Sys2Proof.Machine.execPowerEn seat port on loadFound s
  | .rediscover seat port => Sys2Proof.Machine.execRediscover seat port s
  | .limit seat port watts => Sys2Proof.Machine.execLimit seat port watts s
  | .budgetW seat watts => Sys2Proof.Machine.execBudgetW seat watts s
  | .streamCfg seat stream value => Sys2Proof.Machine.execStreamCfg seat stream value s
  | .discoveryAttempt port => Sys2Proof.Machine.execDiscoveryAttempt port s
  | .cameraLinkUp port rates connections connIndex master eqSetting lengthM => Sys2Proof.Machine.execCameraLinkUp port rates connections connIndex master eqSetting lengthM s
  | .descriptionRetrieved port file => Sys2Proof.Machine.execDescriptionRetrieved port file s
  | .cableEstimate port eqSetting lengthM => Sys2Proof.Machine.execCableEstimate port eqSetting lengthM s
  | .pocxpMeasure port currentMa voltageDv totalDw supplyMv => Sys2Proof.Machine.execPocxpMeasure port currentMa voltageDv totalDw supplyMv s
  | .pocxpShort port => Sys2Proof.Machine.execPocxpShort port s
  | .cameraAcknowledge port a => Sys2Proof.Machine.execCameraAcknowledge port a s
  | .cxpTimeout port => Sys2Proof.Machine.execCxpTimeout port s
  | .imageHeader port cxpStream rectangular format xOffset xSize lines sourceTag => Sys2Proof.Machine.execImageHeader port cxpStream rectangular format xOffset xSize lines sourceTag s
  | .lineData port cxpStream tag crcOk lengthBytes elements => Sys2Proof.Machine.execLineData port cxpStream tag crcOk lengthBytes elements s
  | .eventPacket port code data => Sys2Proof.Machine.execEventPacket port code data s
  | .cameraLinkLoss port => Sys2Proof.Machine.execCameraLinkLoss port s
  | .streamClose stream => Sys2Proof.Machine.execStreamClose stream s
  | .tickWord crcOk flags pps residue => Sys2Proof.Machine.execTickWord crcOk flags pps residue s
  | .triggerPacketStart stream => Sys2Proof.Machine.execTriggerPacketStart stream s
  | .lineServed pipe => Sys2Proof.Machine.execLineServed pipe s
  | .lineEmitted stream => Sys2Proof.Machine.execLineEmitted stream s
  | .spillReentry stream => Sys2Proof.Machine.execSpillReentry stream s
  | .alignmentTimeout stream => Sys2Proof.Machine.execAlignmentTimeout stream s
  | .pipeHang pipe => Sys2Proof.Machine.execPipeHang pipe s
  | .statCons seat stream value => Sys2Proof.Machine.execStatCons seat stream value s
  | .streamHeaderUpdate stream => Sys2Proof.Machine.execStreamHeaderUpdate stream s
  | .stageSpaceReserved command => Sys2Proof.Machine.execStageSpaceReserved command s
  | .commandDispatch => Sys2Proof.Machine.execCommandDispatch s
  | .killAck core => Sys2Proof.Machine.execKillAck core s
  | .dispatchComplete core => Sys2Proof.Machine.execDispatchComplete core s
  | .contextSwap context => Sys2Proof.Machine.execContextSwap context s
  | .commitPhase core long => Sys2Proof.Machine.execCommitPhase core long s
  | .publish core => Sys2Proof.Machine.execPublish core s
  | .histWrite stream => Sys2Proof.Machine.execHistWrite stream s
  | .turnEnd => Sys2Proof.Machine.execTurnEnd s
  | .starvation => Sys2Proof.Machine.execStarvation s
  | .coreWatchdog progress => Sys2Proof.Machine.execCoreWatchdog progress s
  | .coreSetReloaded core => Sys2Proof.Machine.execCoreSetReloaded core s
  | .sliceUs seat value => Sys2Proof.Machine.execSliceUs seat value s
  | .offline seat core on => Sys2Proof.Machine.execOffline seat core on s
  | .deadlineTest => Sys2Proof.Machine.execDeadlineTest s
  | .cutoffPassed slot => Sys2Proof.Machine.execCutoffPassed slot s
  | .partWindowEnd slot view => Sys2Proof.Machine.execPartWindowEnd slot view s
  | .shadowLimit slot => Sys2Proof.Machine.execShadowLimit slot s
  | .ejectInsert => Sys2Proof.Machine.execEjectInsert s
  | .listCtrlClear seat => Sys2Proof.Machine.execListCtrlClear seat s
  | .cropEncoded => Sys2Proof.Machine.execCropEncoded s
  | .encoderEdge enc aLeads illegal => Sys2Proof.Machine.execEncoderEdge enc aLeads illegal s
  | .wireLoss enc => Sys2Proof.Machine.execWireLoss enc s
  | .indexPulse enc => Sys2Proof.Machine.execIndexPulse enc s
  | .ssiRead enc => Sys2Proof.Machine.execSsiRead enc s
  | .ssiWord enc word errBit crc => Sys2Proof.Machine.execSsiWord enc word errBit crc s
  | .ssiTimeout enc => Sys2Proof.Machine.execSsiTimeout enc s
  | .encoderStopped enc => Sys2Proof.Machine.execEncoderStopped enc s
  | .clearLost seat enc => Sys2Proof.Machine.execClearLost seat enc s
  | .dividerEvent div => Sys2Proof.Machine.execDividerEvent div s
  | .trigOutPulseEnd div => Sys2Proof.Machine.execTrigOutPulseEnd div s
  | .outputSwitchOn enc => Sys2Proof.Machine.execOutputSwitchOn enc s
  | .peakPhaseEnd output => Sys2Proof.Machine.execPeakPhaseEnd output s
  | .pulseEnd output => Sys2Proof.Machine.execPulseEnd output s
  | .inputEdge input active => Sys2Proof.Machine.execInputEdge input active s
  | .counterGate counter => Sys2Proof.Machine.execCounterGate counter s
  | .cntCtrlZero seat counter => Sys2Proof.Machine.execCntCtrlZero seat counter s
  | .outputOvercurrent output cause => Sys2Proof.Machine.execOutputOvercurrent output cause s
  | .groupCurrentCheck group meanMa => Sys2Proof.Machine.execGroupCurrentCheck group meanMa s
  | .outputMeasure output meanMa pinMv => Sys2Proof.Machine.execOutputMeasure output meanMa pinMv s
  | .openLoadTest output pinMv => Sys2Proof.Machine.execOpenLoadTest output pinMv s
  | .clearTrip seat output => Sys2Proof.Machine.execClearTrip seat output s
  | .gCtrlClear seat group => Sys2Proof.Machine.execGCtrlClear seat group s
  | .qHost seat high value => Sys2Proof.Machine.execQHost seat high value s
  | .fieldMirrorRead seat offset => Sys2Proof.Machine.execFieldMirrorRead seat offset s
  | .fieldMirrorWrite seat offset value => Sys2Proof.Machine.execFieldMirrorWrite seat offset value s
  | .barrierFrameSend => Sys2Proof.Machine.execBarrierFrameSend s
  | .barrierDownFrame good => Sys2Proof.Machine.execBarrierDownFrame good s
  | .barrierUpFrame good => Sys2Proof.Machine.execBarrierUpFrame good s
  | .frameTimeout down => Sys2Proof.Machine.execFrameTimeout down s
  | .fcWatchdog => Sys2Proof.Machine.execFcWatchdog s
  | .fieldSupplyOn mv => Sys2Proof.Machine.execFieldSupplyOn mv s
  | .powerOn recoveryN backupValid => Sys2Proof.Machine.execPowerOn recoveryN backupValid s
  | .brownOut rail recoveryN => Sys2Proof.Machine.execBrownOut rail recoveryN s
  | .resetN recoveryN => Sys2Proof.Machine.execResetN recoveryN s
  | .controlWatchdog recoveryN => Sys2Proof.Machine.execControlWatchdog recoveryN s
  | .swResetDie seat value recoveryN => Sys2Proof.Machine.execSwResetDie seat value recoveryN s
  | .swResetCore seat value => Sys2Proof.Machine.execSwResetCore seat value s
  | .swResetStreams seat value => Sys2Proof.Machine.execSwResetStreams seat value s
  | .debugReset u recoveryN => Sys2Proof.Machine.execDebugReset u recoveryN s
  | .debugForceRelease island => Sys2Proof.Machine.execDebugForceRelease island s
  | .clockFailure u recoveryN => Sys2Proof.Machine.execClockFailure u recoveryN s
  | .lockUp u recoveryN => Sys2Proof.Machine.execLockUp u recoveryN s
  | .islandClockGood island => Sys2Proof.Machine.execIslandClockGood island s
  | .supplyGood trimEqual => Sys2Proof.Machine.execSupplyGood trimEqual s
  | .firmwareVerified => Sys2Proof.Machine.execFirmwareVerified s
  | .memoryTrained channels => Sys2Proof.Machine.execMemoryTrained channels s
  | .bootComplete linksUp => Sys2Proof.Machine.execBootComplete linksUp s
  | .bootFailureReset recoveryN => Sys2Proof.Machine.execBootFailureReset recoveryN s
  | .slotCopyComplete => Sys2Proof.Machine.execSlotCopyComplete s
  | .throttleCheck junction plateDeci powerDw => Sys2Proof.Machine.execThrottleCheck junction plateDeci powerDw s
  | .operatingPointDone core => Sys2Proof.Machine.execOperatingPointDone core s
  | .supplyMeasure j1Mv j1Dw railMv => Sys2Proof.Machine.execSupplyMeasure j1Mv j1Dw railMv s
  | .bootClear seat => Sys2Proof.Machine.execBootClear seat s
  | .commit seat => Sys2Proof.Machine.execCommit seat s
  | .optionCopiesWritten => Sys2Proof.Machine.execOptionCopiesWritten s
  | .revert seat => Sys2Proof.Machine.execRevert seat s
  | .rtcHi seat value => Sys2Proof.Machine.execRtcHi seat value s
  | .patrolScrub addr uncorrectable corrected => Sys2Proof.Machine.execPatrolScrub addr uncorrectable corrected s
  | .refreshRateRead channel rate => Sys2Proof.Machine.execRefreshRateRead channel rate s
  | .stagingWrite seat offset data => Sys2Proof.Machine.execStagingWrite seat offset data s
  | .unmappedAccess initiator addr a => Sys2Proof.Machine.execUnmappedAccess initiator addr a s
  | .drainEnd => Sys2Proof.Machine.execDrainEnd s
  | .drainTimeout => Sys2Proof.Machine.execDrainTimeout s
  | .loadPhaseEnd failed => Sys2Proof.Machine.execLoadPhaseEnd failed s
  | .fieldWaitEnd => Sys2Proof.Machine.execFieldWaitEnd s
  | .decodeComplete stream => Sys2Proof.Machine.execDecodeComplete stream s
  | .decodeTimeout stream => Sys2Proof.Machine.execDecodeTimeout stream s
  | .sampleDelivery stream => Sys2Proof.Machine.execSampleDelivery stream s
  | .epochStart job => Sys2Proof.Machine.execEpochStart job s
  | .sampleSetRetake job => Sys2Proof.Machine.execSampleSetRetake job s
  | .checkpointWrite job => Sys2Proof.Machine.execCheckpointWrite job s
  | .candidateRecordStored => Sys2Proof.Machine.execCandidateRecordStored s
  | .flush seat => Sys2Proof.Machine.execFlush seat s
  | .eventRecord => Sys2Proof.Machine.execEventRecord s
  | .spillMove => Sys2Proof.Machine.execSpillMove s
  | .tokenRefill key => Sys2Proof.Machine.execTokenRefill key s
  | .floodEnd key => Sys2Proof.Machine.execFloodEnd key s
  | .clearCritical seat => Sys2Proof.Machine.execClearCritical seat s
  | .clearAll seat => Sys2Proof.Machine.execClearAll seat s
  | .zeroCounters seat => Sys2Proof.Machine.execZeroCounters seat s
  | .w1cClear seat offset value hardwareSets => Sys2Proof.Machine.execW1cClear seat offset value hardwareSets s
  | .registerWrite seat offset value => Sys2Proof.Machine.execRegisterWrite seat offset value s
  | .unalignedAccess initiator offset bytes write => Sys2Proof.Machine.execUnalignedAccess initiator offset bytes write s
  | .unoccupiedAccess initiator offset write => Sys2Proof.Machine.execUnoccupiedAccess initiator offset write s
  | .loReadLatch seat offset => Sys2Proof.Machine.execLoReadLatch seat offset s
  | .laneAligned lane position => Sys2Proof.Machine.execLaneAligned lane position s
  | .alignmentLoss lane lossOfSignal => Sys2Proof.Machine.execAlignmentLoss lane lossOfSignal s
  | .laneCtrlMode seat lane mode => Sys2Proof.Machine.execLaneCtrlMode seat lane mode s
  | .slip seat lane => Sys2Proof.Machine.execSlip seat lane s
  | .inject seat lane => Sys2Proof.Machine.execInject seat lane s
  | .loopback seat lane mode => Sys2Proof.Machine.execLoopback seat lane mode s
  | .prbsChk seat lane on => Sys2Proof.Machine.execPrbsChk seat lane on s
  | .fieldSupplyLoss mv => Sys2Proof.Machine.execFieldSupplyLoss mv s
  | .wireSignalReturn enc => Sys2Proof.Machine.execWireSignalReturn enc s
  | .ppsInEdge rising heldSamples => Sys2Proof.Machine.execPpsInEdge rising heldSamples s
  | .imageStoreDone => Sys2Proof.Machine.execImageStoreDone s
  | .firmwareStoreDone readBackOk => Sys2Proof.Machine.execFirmwareStoreDone readBackOk s
  | .overlayApplyGapEnd => Sys2Proof.Machine.execOverlayApplyGapEnd s
  | .prbsLock lane => Sys2Proof.Machine.execPrbsLock lane s
  | .prbsLockLoss lane => Sys2Proof.Machine.execPrbsLockLoss lane s
  | .historyHeaderUpdate stream => Sys2Proof.Machine.execHistoryHeaderUpdate stream s
  | .interruptDatagramInterval seat => Sys2Proof.Machine.execInterruptDatagramInterval seat s
  | .loadMeterRefresh unit value => Sys2Proof.Machine.execLoadMeterRefresh unit value s
  | .rateCountRefresh => Sys2Proof.Machine.execRateCountRefresh s

end Sys2Proof.Machine
end

