-- ==== Sys2Proof/Machine/Tick.lean ====
section
/-! DEFINITION. What the block does by itself at a tick of its 250 MHz clock, while no command waits
(15_line_group_and_time.md R388; 12_reproducibility.md R321; 16_host_interface.md R405; 21_faults_and_event_recorder.md
R532). Everything else that time brings is a command of its own (DESIGN CHOICE, notes/assumptions/12.md). -/

namespace Sys2Proof.Machine

/-- One tick: the time bases advance, launch items that are due act, export queues drain, and the host block takes
what can be taken. -/
def State.idleTick (s : State) : State :=
  (((s.advance 1).fireDue).drainSyslog.drainFanout).takeAll

end Sys2Proof.Machine
end

