-- ==== Sys2Proof/Safety.lean ====
section
/-! DEFINITION. What counts as a safe state and a safe step of the block, and the vocabulary of the statements:
when a ring takes a command, what taking it does, and what a command leaves alone. -/

namespace Sys2Proof.Machine

/-- Every memory of the state is in canonical form. -/
def State.memWf (s : State) : Bool := Mem.wf s.mem && Mem.wf s.host.mem0 && Mem.wf s.host.mem1

/-- A step answers a next state. -/
def State.runs (s : State) : Prop := ∃ t, step s = Host.Outcome.next t

/-! ### Ring commands (16_host_interface.md R411 to R416) -/

/-- The ring of a header takes a command at once: its entries have all been taken, and nothing holds it back. -/
def State.ringReady (s : State) (h : Hdr) : Prop :=
  s.fld .sqHead [h.seat.val, h.ring.val] 0 16 = s.fld .sqTail [h.seat.val, h.ring.val] 0 16 ∧
  s.holdOf h.seat h.ring h.fence = none

/-- A command with this header meets none of the refusals that every command shares, whether or not its LAUNCH
field is used, and whether or not RECOVERY accepts it. -/
def State.accepts (s : State) (h : Hdr) (launch : Bool) (inRecovery : Bool := false) : Prop :=
  s.ringReady h ∧ (inRecovery = false → s.dev ≠ .recovery) ∧ h.reservedSet = false ∧ (launch = false → h.launch = 0)

/-- The state and the reference of a command that its ring has just taken: SQ_TAIL and then SQ_HEAD pass the
entry, and the command is outstanding. -/
def State.takes (s : State) (h : Hdr) (opcode : Nat) : State × CmdRef :=
  let ix := [h.seat.val, h.ring.val]
  (s.setFld .sqTail ix 0 16 ((s.fld .sqTail ix 0 16 + 1) % s.ringSize h.seat h.ring)).arrive h opcode

/-- The state that a command's own effect leaves once its ring has taken it. -/
def State.ran (s : State) (h : Hdr) (opcode : Nat) (effect : CmdRef → State → State) : State :=
  effect (s.takes h opcode).2 (s.takes h opcode).1

/-- The image gate is open for a command: no other seat holds the lock, or it overrides (02_deurzor_image.md R69). -/
def State.gateOpen (s : State) (h : Hdr) : Prop := s.lockedOut h.seat = false ∨ h.override = true

/-- A state with the record of an override, where the lock is another seat's. -/
def State.gated (s : State) (h : Hdr) : State := if s.lockedOut h.seat then s.noteOverride h.seat else s

end Sys2Proof.Machine
end

