-- ==== Sys2Proof/WellFormed.lean ====
section
/-! DEFINITION. Which terms of Instr are commands: the sizes that the rule of a command gives its operands. A command
outside them is not one the block can meet; exec answers on it all the same. -/

namespace Sys2Proof

/-- A group message names a 16-byte GROUP_CONFIG_ID and a member index (15_line_group_and_time.md R373). -/
def grpOk (g : GrpHdr) : Bool := g.configId.length == 16

/-- The operands of a command have the sizes that its rule gives them. -/
def Instr.wellFormed (i : Instr) : Bool :=
  match i with
  | .submit _ _ entries => (entries.all fun e => e.length == 64) && decide (entries.length < 256)
  | .memWrite _ _ data => decide (data.length < 65536)
  | .caps g m => grpOk g && m.imageId.length == 16 && m.strip0.length == 8 && m.strip1.length == 8
  | .axis g _ _ _ => grpOk g
  | .handoff g _ => grpOk g
  | .strip g _ => grpOk g
  | .launchItem g item _ => grpOk g && item.length == 64
  | .launchAnswer g _ _ _ => grpOk g
  | .go g _ => grpOk g
  | .event g record => grpOk g && record.length == 64
  | .groupAck g _ => grpOk g
  | .tickWord _ flags _ _ => decide (flags.map Prod.fst).Nodup
  | .coreWatchdog progress => progress.length == 4
  | .fieldMirrorRead _ offset => offset.toNat % 4 == 0
  | .fieldMirrorWrite _ offset _ => offset.toNat % 4 == 0
  | .memoryTrained channels => decide (channels ≤ 32)
  | .throttleCheck junction _ _ => junction.length == 4
  | .supplyMeasure _ _ railMv => railMv.length == 8
  | .w1cClear _ offset _ _ => offset.toNat % 4 == 0
  | .registerWrite _ offset _ => offset.toNat % 4 == 0
  | .unalignedAccess _ offset bytes _ => decide (bytes ≠ 4 ∨ offset.toNat % 4 ≠ 0)
  | .unoccupiedAccess _ offset _ => offset.toNat % 4 == 0
  | .loReadLatch _ offset => offset.toNat % 4 == 0
  | .laneAligned lane position => decide (40 ≤ lane.val ∨ position < if lane.val < 32 then 10 else 66)
  | .loadMeterRefresh unit _ => decide (unit < 11)
  | .nop .. | .imageVerify .. | .verificationComplete .. | .imageApply .. | .imageApplyCancel ..
  | .imageStore .. | .imageLock .. | .imageQuery .. | .overlayApply .. | .overlayRevert ..
  | .powerMode .. | .detOverride .. | .groupLaunch .. | .ctxCreate .. | .ctxDestroy .. | .jobReplay ..
  | .jobCancel .. | .streamPause .. | .streamResume .. | .streamSave .. | .streamRestore ..
  | .cxpControl .. | .cxpDescription .. | .libraryAttach .. | .sampleDecode .. | .trainStart ..
  | .trainPause .. | .trainResume .. | .trainStop .. | .trainCheckpoint .. | .trainRestore ..
  | .candidatePublish .. | .candidatePromote .. | .firmwareStore .. | .keyLoad .. | .keyEnrol ..
  | .certRead .. | .attest .. | .opcodeUnknown .. | .status .. | .events .. | .peek .. | .poke ..
  | .options .. | .fwload .. | .reset .. | .hello .. | .regRead .. | .regWrite .. | .memRead ..
  | .keepalive .. | .ack .. | .bye .. | .bhAckTimer .. | .bhRetransmit .. | .bhSilence ..
  | .bhKeepaliveTimer .. | .usb4LinkLoss .. | .hotReset .. | .functionLevelReset .. | .seatConnect ..
  | .busMasterEnable .. | .bar2Access .. | .sqTail .. | .cqHead .. | .enable .. | .cqModTimer ..
  | .capsTimer .. | .peerAbsent .. | .axisTimer .. | .axisStale .. | .stripSeamUpdate ..
  | .groupLaunchDeadline .. | .groupRetransmit .. | .frameForward .. | .addressAgeing ..
  | .arpRequest .. | .icmpEcho .. | .coefficientRequest .. | .trainingTimeout .. | .ptpSync ..
  | .ptpAnnounce .. | .ptpDelayReq .. | .ptpMessageTimer .. | .holdover .. | .launchEdge ..
  | .tbStepGo .. | .snapCapture .. | .ipAddr .. | .powerEn .. | .rediscover .. | .limit ..
  | .budgetW .. | .streamCfg .. | .discoveryAttempt .. | .cameraLinkUp .. | .descriptionRetrieved ..
  | .cableEstimate .. | .pocxpMeasure .. | .pocxpShort .. | .cameraAcknowledge .. | .cxpTimeout ..
  | .imageHeader .. | .lineData .. | .eventPacket .. | .cameraLinkLoss .. | .streamClose ..
  | .triggerPacketStart .. | .lineServed .. | .lineEmitted .. | .spillReentry .. | .alignmentTimeout ..
  | .pipeHang .. | .statCons .. | .streamHeaderUpdate .. | .stageSpaceReserved .. | .commandDispatch ..
  | .killAck .. | .dispatchComplete .. | .contextSwap .. | .commitPhase .. | .publish ..
  | .histWrite .. | .turnEnd .. | .starvation .. | .coreSetReloaded .. | .sliceUs .. | .offline ..
  | .deadlineTest .. | .cutoffPassed .. | .partWindowEnd .. | .shadowLimit .. | .ejectInsert ..
  | .listCtrlClear .. | .cropEncoded .. | .encoderEdge .. | .wireLoss .. | .indexPulse .. | .ssiRead ..
  | .ssiWord .. | .ssiTimeout .. | .encoderStopped .. | .clearLost .. | .dividerEvent ..
  | .trigOutPulseEnd .. | .outputSwitchOn .. | .peakPhaseEnd .. | .pulseEnd .. | .inputEdge ..
  | .counterGate .. | .cntCtrlZero .. | .outputOvercurrent .. | .groupCurrentCheck ..
  | .outputMeasure .. | .openLoadTest .. | .clearTrip .. | .gCtrlClear .. | .qHost ..
  | .barrierFrameSend .. | .barrierDownFrame .. | .barrierUpFrame .. | .frameTimeout ..
  | .fcWatchdog .. | .fieldSupplyOn .. | .powerOn .. | .brownOut .. | .resetN .. | .controlWatchdog ..
  | .swResetDie .. | .swResetCore .. | .swResetStreams .. | .debugReset .. | .debugForceRelease ..
  | .clockFailure .. | .lockUp .. | .islandClockGood .. | .supplyGood .. | .firmwareVerified ..
  | .bootComplete .. | .bootFailureReset .. | .slotCopyComplete .. | .operatingPointDone ..
  | .bootClear .. | .commit .. | .optionCopiesWritten .. | .revert .. | .rtcHi .. | .patrolScrub ..
  | .refreshRateRead .. | .stagingWrite .. | .unmappedAccess .. | .drainEnd .. | .drainTimeout ..
  | .loadPhaseEnd .. | .fieldWaitEnd .. | .decodeComplete .. | .decodeTimeout .. | .sampleDelivery ..
  | .epochStart .. | .sampleSetRetake .. | .checkpointWrite .. | .candidateRecordStored .. | .flush ..
  | .eventRecord .. | .spillMove .. | .tokenRefill .. | .floodEnd .. | .clearCritical .. | .clearAll ..
  | .zeroCounters .. | .alignmentLoss .. | .laneCtrlMode .. | .slip .. | .inject .. | .loopback ..
  | .prbsChk .. | .fieldSupplyLoss .. | .wireSignalReturn .. | .ppsInEdge .. | .imageStoreDone ..
  | .firmwareStoreDone .. | .overlayApplyGapEnd .. | .prbsLock .. | .prbsLockLoss ..
  | .historyHeaderUpdate .. | .interruptDatagramInterval .. | .rateCountRefresh .. => true

end Sys2Proof
end

