-- ==== Sys2Proof/Certificates/Slice0/Obligations.lean ====
section
/-! DEFINITION. The statements for the provers, taken from the numbered rules of spec/: what each command does where it
completes, what it leaves alone, and what holds of every step. -/

set_option linter.unusedVariables false

open Sys2Proof Sys2Proof.Machine

/-! ### The queue, and what all ring commands share -/

/-- A step runs the command at the front of the queue. For every command c and state s, step on s with c put at
the front of its queue is exec of c on s with the queue's rest. The queue itself is the model's own field. -/
def Obligations.StepRunsFrontCommand : Prop :=
  ∀ (c : Instr) (s : State), step { s with pending := c :: s.pending } = exec c s

/-- No step stops, and every command completes. In every state, whatever stands in the queue, step answers a next
state: the block reports its faults in its own state and never stops. Every command, each constructor of Instr
with every operand, completes in every state: exec answers a next state for it. What that state is the
statements below say, command by command. -/
def Obligations.EveryStepRuns : Prop :=
  (∀ s : State, s.runs) ∧ (∀ (i : Instr) (s : State), ∃ t : State, exec i s = .next t)

/-- A ring entry decodes to the command it was written from. For every ring command, of each of the 38 listed
opcodes with every operand at every value, and for every entry whose opcode is not listed, decoding the 64
bytes of its entry for its own seat and ring gives the command back. The bytes are 64 long. -/
def Obligations.EntryDecodesToItsCommand : Prop :=
  ∀ (i : Instr) (e : Entry), entryOf i = some e →
    (∀ h op, i = .opcodeUnknown h op → op.toNat ∉ [0x0001, 0x0101, 0x0102, 0x0103, 0x0104, 0x0105, 0x0106, 0x0107,
      0x0108, 0x0201, 0x0202, 0x0203, 0x0301, 0x0302, 0x0303, 0x0304, 0x0401, 0x0402, 0x0403, 0x0404, 0x0501, 0x0502,
      0x0601, 0x0602, 0x0603, 0x0604, 0x0605, 0x0606, 0x0607, 0x0608, 0x0609, 0x060A, 0x0701, 0x0702, 0x0703, 0x0704,
      0x0801]) →
    e.bytes.length = 64 ∧ decodeEntry e.hdr.seat e.hdr.ring e.bytes = i

/-- What taking a command does. A command taken from a ring advances that ring's SQ_TAIL and SQ_HEAD by one entry,
modulo the ring's size, counts one command arrived for its seat, and is outstanding from then on with its tag,
opcode and TB0 arrival stamp; that the stamp is TB0 itself, without the firmware's delay, is the model's
choice (notes/assumptions/169.md). No other register changes, and outside the registers and the host block
nothing does. -/
def Obligations.CommandIsTaken : Prop :=
  ∀ (s : State) (h : Hdr) (opcode : Nat),
    let t := (s.takes h opcode).1
    let ix := [h.seat.val, h.ring.val]
    t.fld .sqTail ix 0 16 = (s.fld .sqTail ix 0 16 + 1) % s.ringSize h.seat h.ring % 2 ^ 16 ∧
    t.fld .sqHead ix 0 16 = (s.fld .sqHead ix 0 16 + 1) % s.ringSize h.seat h.ring % 2 ^ 16 ∧
    t.reg .cmdArrived [h.seat.val] = (s.reg .cmdArrived [h.seat.val] + 1) % 2 ^ 32 ∧
    (s.takes h opcode).2 = ⟨h.seat, h.ring, s.conn h.seat, h.tag, opcode, s.tb0, h.fence⟩ ∧
    t.host = { s.host with outstanding := s.host.outstanding ++ [(s.takes h opcode).2] } ∧
    (∀ (q : RN) (jx : List Nat), q.off jx ≠ RN.sqTail.off ix → q.off jx ≠ RN.sqHead.off ix →
      q.off jx ≠ RN.cmdArrived.off [h.seat.val] → t.stored q jx = s.stored q jx) ∧
    { t with regs := s.regs, host := s.host } = s

/-- What every ring command shares, and NOP. A ring command taken from a ready ring that meets one of the refusals
below completes with its code and has no other effect. An opcode that is not listed gives OPCODE_UNKNOWN.
Otherwise, in RECOVERY, a command that RECOVERY does not accept gives RECOVERY_UNAVAILABLE. Otherwise a
reserved bit, or a LAUNCH field in a command that takes none, gives FIELD_RESERVED. Any other runs what its
opcode names on the state that its taking leaves. That RECOVERY comes before FIELD_RESERVED is the model's
order (notes/assumptions/52.md). NOP of a ready ring, accepted, completes with OK and does nothing else. A
command with an opcode that is not listed completes with OPCODE_UNKNOWN and does nothing else. -/
def Obligations.SharedRefusals : Prop :=
  (∀ (i : Instr) (e : Entry) (s : State), entryOf i = some e → s.ringReady e.hdr →
    let u := (s.takes e.hdr e.opcode).1
    let c := (s.takes e.hdr e.opcode).2
    let closed := s.dev = .recovery ∧ e.inRecovery = false
    (∀ h op, i = .opcodeUnknown h op → exec i s = .next (u.complete c 0x13)) ∧
    (isUnknown i = false → closed → exec i s = .next (u.complete c 0x14)) ∧
    (isUnknown i = false → ¬closed → (e.hdr.reservedSet = true ∨ (e.launch = false ∧ e.hdr.launch ≠ 0)) →
      exec i s = .next (u.complete c 0x11)) ∧
    (isUnknown i = false → s.accepts e.hdr e.launch e.inRecovery → exec i s = .next (u.runRing c i))) ∧
  (∀ (s : State) (h : Hdr) (op : BitVec 16),
    (s.accepts h false true → exec (.nop h) s = .next (s.ran h 0x0001 fun c u => u.complete c 0x00)) ∧
    (s.ringReady h → exec (.opcodeUnknown h op) s = .next (s.ran h op.toNat fun c u => u.complete c 0x13)))

/-- A ring command that is not taken at once. A ring command for a ring that is disabled, or of a seat that is not
connected, changes nothing. Where earlier entries still wait, or Bus Master Enable, a full completion ring or
a fence holds the ring back, its 64 bytes go to the ring's tail, unless the ring is full, and a full
completion ring also sets the ring's CQ_FULL flag. -/
def Obligations.RingHoldsBack : Prop :=
  ∀ (i : Instr) (e : Entry) (s : State), entryOf i = some e →
    let h := e.hdr
    let ix := [h.seat.val, h.ring.val]
    let held := s.holdOf h.seat h.ring h.fence
    (s.connected h.seat = false ∨ s.ringOn h.seat h.ring = false → exec i s = .next s) ∧
    (s.connected h.seat = true → s.ringOn h.seat h.ring = true →
      (s.fld .sqHead ix 0 16 ≠ s.fld .sqTail ix 0 16 ∨ held ≠ none) →
      exec i s = .next (if held = some .full then (s.park h.seat h.ring e.bytes).setFlag .ringStatus ix 4
        else s.park h.seat h.ring e.bytes))

/-- A completion writes one entry, once, or is lost. A command of a connected seat that is outstanding completes
by one 32-byte entry at its ring's CQ_TAIL, in device memory or in the seat's host memory as RING_CFG says,
with the phase bit and SQ_HEAD of that moment. CQ_TAIL advances by one, and at the end of the ring it returns
to 0 and the phase bit is inverted. The command is no longer outstanding. No other byte of memory changes, and
outside memory, registers, the host block and what is sent nothing does. An entry in device memory is then a
write there, which the staging region is told of (R56). The granules of the entry are good, and memory is in
canonical form. An outstanding command whose seat has another connection by now, or none, writes no
completion: one lost completion is counted, memory and what is sent stay as they are, and the command is no
longer outstanding. A reference that is not outstanding completes nothing: no command completes twice. -/
def Obligations.CompletionIsWritten : Prop :=
  (∀ (s : State) (c : CmdRef) (code r0 r1 : Nat),
    let ix := [c.seat, c.ring]
    let tail := s.fld .cqTail ix 0 16
    let phase := s.fld .cqTail ix 16 1
    let a := s.pair .cqBaseLo .cqBaseHi ix + 32 * tail
    let entry := cqeBytes c code r0 r1 phase (s.fld .sqHead ix 0 16)
    let last := tail + 1 = s.ringSize c.seat c.ring
    let t := s.finish c code r0 r1
    s.memWf = true → c.seat < 4 → c.ring < 16 → s.host.outstanding.contains c = true → s.conn c.seat = c.conn →
    s.connected c.seat = true → s.busMaster c.seat = true ∨ s.ringInHost c.seat c.ring = false →
    s.badIn a 32 = none →
    (s.ringInHost c.seat c.ring = false → t.load a 32 = entry ∧
      ∀ b, b < a ∨ a + 32 ≤ b → Mem.read t.mem b = Mem.read s.mem b) ∧
    (s.ringInHost c.seat c.ring = true → t.mem = s.mem ∧ t.hostLoad c.seat a 32 = entry) ∧
    (last → t.fld .cqTail ix 0 16 = 0 ∧ t.fld .cqTail ix 16 1 = (1 - phase) % 2) ∧
    (¬last → t.fld .cqTail ix 0 16 = (tail + 1) % 2 ^ 16 ∧ t.fld .cqTail ix 16 1 = phase) ∧
    t.host.outstanding = s.host.outstanding.erase c ∧
    { t with regs := s.regs, mem := s.mem, host := s.host, out := s.out } = s ∧
    s.complete c code r0 r1 = if s.ringInHost c.seat c.ring = true then t else t.watchStaging c.seat a 32) ∧
  (∀ (s : State) (c : CmdRef) (code r0 r1 : Nat), c.seat < 4 → c.ring < 16 →
    let t := s.complete c code r0 r1
    (s.host.outstanding.contains c = true → s.conn c.seat ≠ c.conn ∨ s.connected c.seat = false →
      t.reg .hostLostCompletions [] = (s.reg .hostLostCompletions [] + 1) % 2 ^ 32 ∧
      t.host = { s.host with outstanding := s.host.outstanding.erase c } ∧ t.mem = s.mem ∧ t.out = s.out) ∧
    (s.host.outstanding.contains c = false → t = s))

/-! ### Image and overlay commands (02_deurzor_image.md) -/

/-- IMAGE_LOCK acquires, releases and takes over. IMAGE_LOCK of the holder releases the lock. With no holder it
acquires the lock. With another holder and OVERRIDE it takes the lock over and writes the record of the
override; without OVERRIDE it completes with IMAGE_LOCKED, naming the holder, and the lock stays. RESULT1 is
the holder afterwards, 0xFF for none. A change of holder sets INT_STATUS.LOCK of every seat, and outside the
registers, the host block and what is sent it changes only the holder. In RECOVERY the image and overlay
commands whose operands are not reserved complete with IMAGE_STATE, IMAGE_LOCK naming the holder as ever. -/
def Obligations.ImageLock : Prop :=
  (∀ (s : State) (h : Hdr), s.accepts h false →
    (s.img.lock = some h.seat → exec (.imageLock h) s =
      .next (s.ran h 0x0105 fun c u => (u.setLock none).complete c Code.ok 0 0xFF)) ∧
    (s.img.lock = none → exec (.imageLock h) s =
      .next (s.ran h 0x0105 fun c u => (u.setLock (some h.seat)).complete c Code.ok 0 h.seat)) ∧
    (∀ k, s.img.lock = some k → k ≠ h.seat → h.override = true → exec (.imageLock h) s =
      .next (s.ran h 0x0105 fun c u =>
        ((u.noteOverride h.seat).setLock (some h.seat)).complete c Code.ok 0 h.seat)) ∧
    (∀ k, s.img.lock = some k → k ≠ h.seat → h.override = false → exec (.imageLock h) s =
      .next (s.ran h 0x0105 fun c u => u.complete c Code.imageLocked 0 k))) ∧
  (∀ (s : State) (o : Option (Fin 4)), s.img.lock ≠ o →
    let t := s.setLock o
    t.img = { s.img with lock := o } ∧ (∀ k, k < 4 → t.flag .intStatus [k] 2 = true) ∧
    { t with img := s.img, regs := s.regs, host := s.host, out := s.out } = s) ∧
  (∀ (s : State) (h : Hdr) (b : Byte) (x : BitVec 64), s.dev = .recovery → allOnes64 x = false →
    addrReserved x = false → b.toNat ≤ 1 →
    let refused (op : Nat) : Res := .next (s.ran h op fun c u => u.complete c Code.imageState)
    (s.accepts h false true → exec (.imageVerify h x) s = refused 0x0101 ∧
      exec (.imageApplyCancel h) s = refused 0x0103 ∧ exec (.imageStore h) s = refused 0x0104 ∧
      exec (.imageLock h) s = .next (s.ran h 0x0105 fun c u => u.complete c Code.imageState 0 u.holder)) ∧
    (s.accepts h true true → exec (.imageApply h b) s = refused 0x0102 ∧
      exec (.overlayApply h x) s = refused 0x0107 ∧ exec (.overlayRevert h b) s = refused 0x0108))

/-- IMAGE_VERIFY and the end of its checks. IMAGE_VERIFY of a staging region that is WRITTEN or VERIFIED, with no
apply in progress and the image gate open, makes it VERIFYING with the length given. When the checks of R58
end with an image, the region is VERIFIED with that image and the command completes with OK. When they end
with a code, the region is WRITTEN and the command completes with that code. Where the checks reach the
signature it is counted, and a wrong signature also sets SEC.FLAGS bit 0. -/
def Obligations.ImageVerify : Prop :=
  (∀ (s : State) (h : Hdr) (length : BitVec 64), s.accepts h false → s.gateOpen h → allOnes64 length = false →
    s.img.apply = none → s.img.staging = .written ∨ s.img.staging = .verified →
    exec (.imageVerify h length) s = .next (s.ran h 0x0101 fun c u =>
      let v := u.gated h
      { v with img := { v.img with
        staging := .verifying, staged := none, verify := some ⟨some c, length.toNat⟩ } })) ∧
  (∀ (s : State) (c : CmdRef) (n : Nat) (i : Image), s.img.verify = some ⟨some c, n⟩ →
    s.checkStaging n = (.ok i, none) → exec .verificationComplete s = .next (
      let w := if s.sigReached n then s.count .secVerifyCount [] else s
      ({ w with img := { w.img with verify := none, staging := .verified, staged := some i } } : State).complete c
        Code.ok)) ∧
  (∀ (s : State) (c : CmdRef) (n code : Nat), s.img.verify = some ⟨some c, n⟩ →
    s.checkStaging n = (.error code, none) → exec .verificationComplete s = .next (
      let w := if s.sigReached n then s.count .secVerifyCount [] else s
      let w := if s.sigReached n ∧ code = Code.imageSignature then w.setFlag .secFlags [] 0 else w
      ({ w with img := { w.img with verify := none, staging := .written, staged := none } } : State).complete c
        code))

/-- IMAGE_APPLY is accepted, and can be cancelled. IMAGE_APPLY of a VERIFIED image in IDLE or RUNNING, whose
launch count has not passed, with FIELD_CHANGE 1 or MOTION and FIELD sections as those of the running image,
makes the staging region PENDING and schedules the apply at its launch count. IMAGE_APPLY_CANCEL before that
count removes it: the region is VERIFIED, the apply completes with CANCELLED and the cancel with OK. -/
def Obligations.ImageApply : Prop :=
  (∀ (s : State) (h : Hdr) (fieldChange : Byte) (i : Image), s.accepts h true → s.gateOpen h →
    fieldChange.toNat ≤ 1 → s.dev = .idle ∨ s.dev = .running → s.img.staging = .verified →
    s.img.staged = some i → s.isLate (s.launchOf h.launch) = false →
    fieldChange = 1 ∨ s.fieldDiffers i = false →
    exec (.imageApply h fieldChange) s = .next (s.ran h 0x0102 fun c u =>
      let v := u.gated h
      ({ v with img := { v.img with staging := .pending } } : State).addItem (s.launchOf h.launch)
        (.imageApply (fieldChange == 1)) (some c))) ∧
  (∀ (s : State) (h : Hdr) (it : LaunchItem), s.accepts h false → s.gateOpen h → s.pendingApply = some it →
    s.isLate it.launch = false →
    exec (.imageApplyCancel h) s = .next (s.ran h 0x0103 fun c u =>
      let v := u.gated h
      ((({ v with img := { v.img with staging := .verified, autoLoad := 0 } } : State).dropItem it).answer it.by'
        Code.cancelled).complete c Code.ok)) ∧
  (∀ (s : State) (launch : Nat) (k : LaunchKind) (c : CmdRef), c.seat < 4 →
    s.addItem launch k (some c) = { s with img := { s.img with
      items := s.img.items ++ [⟨launch, s.img.itemOrder, k, some c, false⟩]
      itemOrder := s.img.itemOrder + 1 } })

/-- IMAGE_STORE, its end, and IMAGE_QUERY. IMAGE_STORE of a VERIFIED image that fits the slot takes a copy of the
staged image and of the key block of its KEY_SLOT; when the flash write ends the image slot holds that copy
and the command completes with OK. IMAGE_QUERY writes the 64-byte answer at the address it names and completes
with OK. -/
def Obligations.ImageStoreAndQuery : Prop :=
  (∀ (s : State) (h : Hdr) (i : Image), s.accepts h false → s.gateOpen h → s.img.staging = .verified →
    s.img.staged = some i → i.length + 1024 ≤ 50331648 → s.img.store = none →
    exec (.imageStore h) s = .next (s.ran h 0x0104 fun c u =>
      let v := u.gated h
      { v with img := { v.img with store := some (c, s.load (halfBase s.stagingHalf) i.length ++
        (Tab.get s.sec.keyRam i.keySlot).getD (List.replicate 1024 0)) } })) ∧
  (∀ (s : State) (c : CmdRef) (data : Bytes), s.img.store = some (c, data) →
    exec .imageStoreDone s = .next (({ s with
      img := { s.img with store := none }, flash := { s.flash with slot := data } } : State).complete c Code.ok)) ∧
  (∀ (s : State) (h : Hdr) (a : BitVec 64), s.accepts h false true → addrReserved a = false →
    bufferIn a 64 = true →
    exec (.imageQuery h a) s = .next (s.ran h 0x0106 fun c u =>
      (u.storeFor c.seat a.toNat u.queryBytes).complete c Code.ok)) ∧
  (∀ s : State, s.queryBytes.length = 64)

/-- Overlays and promotions are scheduled and end. OVERLAY_APPLY of a record that lies in good memory and passes
every check is copied behind the overlay store's chain and scheduled at its launch count. OVERLAY_REVERT to a
generation not above the current one is scheduled at its launch count. When every stream has passed its
boundary the overlay that took effect completes with OK and its generation. CANDIDATE_PROMOTE with a current
candidate buffer, trained on the current overlay generation or with FORCE 1, before its launch count and with
room for its record, schedules the promotion of a record made of the current buffer and signed by the identity
key. CANDIDATE_RECORD_STORED writes the record of the first promotion that is not stored yet into the overlay
store and marks it stored. The signature is a free value. -/
def Obligations.OverlayCommands : Prop :=
  (∀ (s : State) (h : Hdr) (a : BitVec 64) (i : Image), s.accepts h true → s.gateOpen h → addrReserved a = false →
    s.isLate (s.launchOf h.launch) = false → bufferIn a 64 = true → s.badIn a.toNat 64 = none →
    Checks.fail (overlayHeader (s.load a.toNat 64)) = none →
    let n := Ovl.length (s.load a.toNat 64)
    let r := s.load a.toNat n
    bufferIn a n = true → s.badIn a.toNat n = none → s.overlaySig r = none → s.img.running = some i →
    Checks.fail (i.overlayChecks s.overlayGen r) = none → s.overlayRoom r.length = true →
    exec (.overlayApply h a) s = .next (s.ran h 0x0107 fun c u =>
      let v := (u.gated h).count .secVerifyCount []
      (v.store v.overlayNext r).addItem (s.launchOf h.launch) (.overlayApply v.overlayNext r) (some c))) ∧
  (∀ (s : State) (h : Hdr) (gen : Byte), s.accepts h true → s.gateOpen h →
    s.isLate (s.launchOf h.launch) = false → gen.toNat ≤ s.overlayGen →
    exec (.overlayRevert h gen) s = .next (s.ran h 0x0108 fun c u =>
      (u.gated h).addItem (s.launchOf h.launch) (.overlayRevert gen.toNat) (some c))) ∧
  (∀ (s : State) (r : OverlayRun), s.img.overlayRuns.find? (fun r => r.left.isEmpty) = some r →
    r.promoted = none →
    exec .overlayApplyGapEnd s = .next (({ s with img := { s.img with
      overlayRuns := s.img.overlayRuns.erase r } } : State).answer r.by' Code.ok 0 r.gen)) ∧
  (∀ (s : State) (h : Hdr) (force : Byte) (k : Nat), s.accepts h true → force.toNat ≤ 1 →
    s.train.cand.current = some k → force = 1 ∨ s.train.cand.base = s.overlayGen →
    s.isLate (s.launchOf h.launch) = false → s.overlayGen < 255 →
    let ws := if k = 0 then s.train.cand.buf0 else s.train.cand.buf1
    let body := promotionBody ((s.img.running.map Image.imageId).getD []) s.overlayGen ws
    s.overlayRoom (s.signed body).2.length = true →
    exec (.candidatePromote h force) s = .next (s.ran h 0x060A fun c u =>
      (u.signed body).1.addItem (s.launchOf h.launch) (.promote s.overlayNext (s.signed body).2 false)
        (some c))) ∧
  (∀ (s : State) (it : LaunchItem) (a : Nat) (r : Bytes) (rest : List LaunchItem),
    s.img.items = it :: rest → it.kind = .promote a r false → (∀ x ∈ rest, x.order ≠ it.order) →
    exec .candidateRecordStored s = .next (({ s with img := { s.img with
      items := { it with kind := .promote a r true } :: rest } } : State).store a r))

/-! ### Launch counts, modes and streams (12_reproducibility.md, 01_device_overview.md) -/

/-- Commands that are scheduled at a launch count. POWER_MODE with a mode of 0 to 2, DET_OVERRIDE with 0, 1 or
0xFF, and STREAM_PAUSE and STREAM_RESUME of a bound stream, accepted before their launch count has passed,
each add one launch item and change nothing else. A LAUNCH field of all ones names the next launch edge after
arrival. POWER_MODE, DET_OVERRIDE, STREAM_PAUSE and STREAM_RESUME whose launch count is not after the launch
counter complete with LAUNCH_LATE and schedule nothing. -/
def Obligations.LaunchedModes : Prop :=
  (∀ (s : State) (h : Hdr), s.accepts h true → s.isLate (s.launchOf h.launch) = false →
    (∀ mode : Byte, mode.toNat ≤ 2 → exec (.powerMode h mode) s = .next (s.ran h 0x0201 fun c u =>
      u.addItem (s.launchOf h.launch) (.power (PowerMode.ofCode mode.toNat)) (some c))) ∧
    (∀ mode : Byte, mode.toNat ≤ 1 ∨ mode.toNat = 0xFF → exec (.detOverride h mode) s =
      .next (s.ran h 0x0202 fun c u => u.addItem (s.launchOf h.launch) (.det mode.toNat) (some c))) ∧
    (∀ n : Byte, (s.stream n.toNat).isSome = true → exec (.streamPause h n) s =
      .next (s.ran h 0x0401 fun c u => u.addItem (s.launchOf h.launch) (.pause n.toNat) (some c))) ∧
    (∀ n : Byte, (s.stream n.toNat).isSome = true → exec (.streamResume h n) s =
      .next (s.ran h 0x0402 fun c u => u.addItem (s.launchOf h.launch) (.resume n.toNat) (some c))) ∧
    (h.launch.toNat = 2 ^ 64 - 1 → s.launchOf h.launch = s.tb0Ns / 1000 + 1) ∧
    (h.launch.toNat ≠ 2 ^ 64 - 1 → s.launchOf h.launch = h.launch.toNat)) ∧
  (∀ (s : State) (h : Hdr), s.accepts h true → s.isLate (s.launchOf h.launch) = true →
    (∀ mode : Byte, mode.toNat ≤ 2 → exec (.powerMode h mode) s =
      .next (s.ran h 0x0201 fun c u => u.complete c Code.launchLate)) ∧
    (∀ mode : Byte, mode.toNat ≤ 1 ∨ mode.toNat = 0xFF → exec (.detOverride h mode) s =
      .next (s.ran h 0x0202 fun c u => u.complete c Code.launchLate)) ∧
    (∀ n : Byte, (s.stream n.toNat).isSome = true → exec (.streamPause h n) s =
      .next (s.ran h 0x0401 fun c u => u.complete c Code.launchLate)) ∧
    (∀ n : Byte, (s.stream n.toNat).isSome = true → exec (.streamResume h n) s =
      .next (s.ran h 0x0402 fun c u => u.complete c Code.launchLate)))

/-- The launch edge. LAUNCH_EDGE brings TB0 forward by the least number of 4 ns ticks after which it has reached
the earliest pending launch count. There the items due act. An only item of this module's own that is due
leaves the list and takes its effect: a power mode is in effect on the cores, a determinism mode is in force,
a stream is paused or resumes, and the command completes with OK. Bringing time forward in one step is the
model's choice (notes/assumptions/13.md). -/
def Obligations.LaunchEdge : Prop :=
  (∀ (s : State) (l : Nat), (s.img.items.map LaunchItem.launch).min? = some l → s.tb0Ns < l * 1000 →
    s.time.tb0.inc ≠ 0 →
    let k := ceilDiv (l * 1000 * 2 ^ 32 - s.time.tb0.value) s.time.tb0.inc
    exec .launchEdge s = .next (s.advance k).fireDue ∧
    (s.time.tb0.value + s.time.tb0.inc * k < s.time.tb0.cycle * 2 ^ 32 → l * 1000 ≤ (s.advance k).tb0Ns ∧
      ∀ j, j < k → (s.advance j).tb0Ns < l * 1000)) ∧
  (∀ (s : State) (it : LaunchItem), s.img.items = [it] → it.fromGroup = false → it.launch * 1000 ≤ s.tb0Ns →
    s.net.member = [] → s.img.apply = none →
    let u : State := { s with img := { s.img with items := [] } }
    (∀ m, it.kind = .power m → exec .launchEdge s = .next ((u.setPower m).answer it.by' Code.ok)) ∧
    (∀ m, it.kind = .det m → exec .launchEdge s = .next ((({ u with img := { u.img with
        detOverride := m != 0xFF
        detMode := if m = 0xFF then (u.img.running.map Image.detMode).getD false else m == 1 } } :
        State).stateChanged (u.view .glbState [])).answer it.by' Code.ok)) ∧
    (∀ n x, it.kind = .pause n → s.stream n = some x → exec .launchEdge s = .next
      (((u.updStream n fun x => { x with paused := true }).log
        { info 11 with initiator := initiatorOf it.by', arg0 := n64 n, arg1 := 1#64 }).answer it.by' Code.ok)) ∧
    (∀ n x, it.kind = .resume n → s.stream n = some x → exec .launchEdge s = .next
      (((u.updStream n fun x => { x with paused := false }).log
        { info 11 with initiator := initiatorOf it.by', arg0 := n64 n, arg1 := 0#64 }).answer it.by' Code.ok)))

/-- A stream is saved, and a restore is scheduled. STREAM_SAVE of a paused stream with no command on a core writes
the stream's save record to the area named, which is in DRAM and long enough, and completes with OK and the
record's length. STREAM_RESTORE of a record in good memory that passes the checks of R319 before its launch
count schedules the restore with its position offset. -/
def Obligations.StreamSaveRestore : Prop :=
  (∀ (s : State) (h : Hdr) (n : Byte) (a bytes : BitVec 64) (x : Stream), s.accepts h false →
    addrReserved a = false → allOnes64 bytes = false →
    let u := (s.takes h 0x0403).1
    let r := u.saveRecord n.toNat
    u.stream n.toNat = some x → x.paused = true → u.streamBusy n.toNat = false → r.length ≤ bytes.toNat →
    bufferIn a r.length = true →
    exec (.streamSave h n a bytes) s = .next (s.ran h 0x0403 fun c u =>
      (u.storeFor c.seat a.toNat r).complete c Code.ok r.length)) ∧
  (∀ (s : State) (h : Hdr) (n : Byte) (a delta : BitVec 64) (d : Pos), s.accepts h true →
    addrReserved a = false → delta = d.signExtend 64 → bufferIn a 256 = true →
    let u := (s.takes h 0x0404).1
    let head := u.load a.toNat 256
    u.badIn a.toNat 256 = none → u.restoreFail n.toNat head (s.launchOf h.launch) = none →
    bufferIn a (Save.length head) = true → u.badIn a.toNat (Save.length head) = none →
    exec (.streamRestore h n a delta) s = .next (s.ran h 0x0404 fun c u =>
      u.addItem (s.launchOf h.launch) (.restore n.toNat (u.load a.toNat (Save.length head)) d) (some c)))

/-! ### The scheduler (09_scheduling.md) -/

/-- Host contexts are made, destroyed, and their jobs cancelled. CTX_CREATE with a free host number, PIN 0 or 1
and, pinned, fewer than 128 pinned contexts defines the lowest free host context for its seat and completes
with OK and the context's number. CTX_DESTROY of a host context cancels its jobs, removes it and completes
with OK. JOB_CANCEL of a tag with a command that is not yet committing withdraws the tag's jobs in the
context, completes the job's command with CANCELLED and itself with OK. -/
def Obligations.HostContexts : Prop :=
  (∀ (s : State) (h : Hdr) (pin : Byte) (k : Nat), s.accepts h false → pin.toNat ≤ 1 →
    (List.range 864).find? (fun k => (s.ctx (160 + k)).isNone) = some k → pin = 0 ∨ s.pinnedCount < 128 →
    exec (.ctxCreate h pin) s = .next (s.ran h 0x0301 fun c u =>
      (u.defineCtx (160 + k) .host h.seat (pin == 1)).complete c Code.ok 0 (160 + k))) ∧
  (∀ (s : State) (n owner : Nat) (pinned : Bool),
    (s.defineCtx n .host owner pinned).ctx n = some {
      kind := .host, owner := owner, pinned := pinned, slot := none, blockedSince := some s.now, starve := 0, waiting := false, evicting := false } ∧
    ∀ m, m ≠ n → (s.defineCtx n .host owner pinned).ctx m = s.ctx m) ∧
  (∀ (s : State) (h : Hdr) (n : BitVec 16), s.accepts h false → n.toNat < 1024 → s.isHostCtx n.toNat = true →
    exec (.ctxDestroy h n) s = .next (s.ran h 0x0302 fun c u =>
      ((u.destroyCtx n.toNat).turnCheck).complete c Code.ok)) ∧
  (∀ (s : State) (n : Nat), (s.destroyCtx n).ctx n = none) ∧
  (∀ (s : State) (h : Hdr) (n : BitVec 16) (tag : Word) (j : Job) (a : CmdRef) (rest : List Job),
    s.accepts h false → n.toNat < 1024 → s.isHostCtx n.toNat = true →
    let js := s.sched.jobs.filter fun j => j.ctx == n.toNat && j.by'.any fun b => b.tag == tag
    js.filter (fun j => (s.jobCmds j.id).any fun x => x.st != .committing && x.st != .done) = j :: rest →
    j.by' = some a →
    exec (.jobCancel h n tag) s = .next (s.ran h 0x0304 fun c u =>
      ((js.foldl (fun v j => v.withdraw j.id) u).complete a Code.cancelled).turnCheck.complete c Code.ok))

/-- JOB_REPLAY makes a replay job. JOB_REPLAY in a host context, of a model and a bound stream of the running
image, with buffers in DRAM that are long enough, makes one replay job in that context with one command for
each stage of each of its stripe jobs and of its tail; the job knows its buffers and the command that it
completes. Outside the scheduler, the registers and the host block nothing changes. -/
def Obligations.JobReplay : Prop :=
  ∀ (s : State) (h : Hdr) (n : BitVec 16) (model stream : Byte) (lines : Word) (la ra : BitVec 64) (bytes : Word)
    (i : Image) (x : Stream), s.accepts h false → addrReserved la = false → addrReserved ra = false →
    0 < lines.toNat → lines.toNat < 2 ^ 32 - 1 → bytes.toNat < 2 ^ 32 - 1 → n.toNat < 1024 →
    s.img.running = some i → model.toNat ≤ 2 → i.inModel model.toNat stream.toNat = true →
    s.stream stream.toNat = some x → s.isHostCtx n.toNat = true →
    i.replayBytes x model.toNat lines.toNat ≤ bytes.toNat → bufferIn la (x.corrBytes * lines.toNat) = true →
    bufferIn ra bytes.toNat = true → (model.toNat = 2 → s.train.cand.current ≠ none) →
    ∃ t : State, exec (.jobReplay h n model stream lines la ra bytes) s = .next t ∧
      (∃ j ∈ t.sched.jobs, j.id = s.sched.nextJob ∧ j.kind = .replay ∧ j.ctx = n.toNat ∧
        j.model = model.toNat ∧ j.stream = stream.toNat ∧ j.last = lines.toNat ∧
        j.by' = some (s.takes h 0x0303).2) ∧
      t.sched.nextJob = s.sched.nextJob + 1 ∧
      Tab.get t.sched.replays s.sched.nextJob = some (la.toNat, lines.toNat, ra.toNat, bytes.toNat) ∧
      t.sched.cmds.length = s.sched.cmds.length +
        x.replayStripes lines.toNat * x.lanes * (i.stagesOf model.toNat false).length +
        (i.stagesOf model.toNat true).length ∧
      { t with sched := s.sched, regs := s.regs, host := s.host } = s

/-- A command is dispatched, runs, commits and publishes. DISPATCH_COMPLETE takes the dispatched command of a
core, and the core, to RUNNING; where it runs lookups their selections are fixed then (R214). COMMIT_PHASE
takes a running one to COMMITTING, and a phase of more than 20 microseconds sets CORE.ERR bit 1. KILL_ACK
frees a core in KILLING. STAGE_SPACE_RESERVED reserves the output space of a queued command, and what is ready
then becomes READY. Each changes nothing else. With no weight granule lost and a turn that need not pass,
COMMAND_DISPATCH of an only command that may be dispatched, whose core is free, puts it on that core: the
command and the core are DISPATCHED, the core holds the command, and the dispatch order goes up by one. With a
victim in place of a free core the victim is killed, and its core is the command's from then on. With nothing
that may be dispatched nothing happens. PUBLISH of a core whose command is committing frees the core and
counts one command done, and the command leaves the scheduler; then what its job publishes takes effect, the
command's job goes where it was withdrawn, the deadline test runs for the parts it serves, what became ready
is READY, the turn is judged again, and decided parts settle. A core without a committing command publishes
nothing. -/
def Obligations.CommandsOnCores : Prop :=
  (∀ (s : State) (n : Fin 4) (x : Cmd), s.onCore n = some x → x.st = .dispatched →
    exec (.dispatchComplete n) s = .next (((s.fixLooks x).updCmd x.id fun c => { c with st := .running }).updCore n
      fun c => { c with st := .running, loading := false })) ∧
  (∀ (s : State) (n : Fin 4) (x : Cmd), s.onCore n = some x → x.st = .running →
    let u := (s.updCmd x.id fun c => { c with st := .committing }).updCore n fun c => { c with st := .committing }
    exec (.commitPhase n false) s = .next u ∧
    exec (.commitPhase n true) s = .next (u.setFlag .coreErr [n.val] 1)) ∧
  (∀ (s : State) (n : Fin 4), (s.sched.core n).st = .killing →
    exec (.killAck n) s = .next { s with
      sched := s.sched.setCore n { s.sched.core n with st := .idle, cmd := none, claim := none } }) ∧
  (∀ (s : State) (k : Nat) (x : Cmd), s.cmd k = some x → x.st = .queued →
    exec (.stageSpaceReserved k) s = .next (s.updCmd k fun x => { x with spaceReserved := true }).readyCheck) ∧
  (∀ (s : State) (x : Cmd) (n : Nat), s.readWeights.faultLost = s → s.turnCheck = s →
    s.sched.cmds.filter s.mayDispatch = [x] → s.chooseCore x = some n →
    exec .commandDispatch s = .next (s.dispatchTo x n)) ∧
  (∀ (s : State) (x : Cmd) (n : Nat), n < 4 → (s.dispatchTo x n).sched.core n = { (s.loadSet x n).sched.core n with
      st := .dispatched, cmd := some x.id, stalled := 0, loading := !s.weightsOn x n, claim := none } ∧
    (s.dispatchTo x n).sched.order = (s.loadSet x n).sched.order + 1) ∧
  (∀ (s : State) (x : Cmd) (v : Nat), s.readWeights.faultLost = s → s.turnCheck = s →
    s.sched.cmds.filter s.mayDispatch = [x] → s.chooseCore x = none → s.victim x = some v →
    exec .commandDispatch s = .next (match (s.cmd v).bind (·.core) with
      | some n => (s.kill v true).updCore n fun c => { c with claim := some x.id }
      | none => s.kill v true)) ∧
  (∀ s : State, s.readWeights.faultLost = s → s.turnCheck = s → s.sched.cmds.filter s.mayDispatch = [] →
    exec .commandDispatch s = .next s) ∧
  (∀ (s : State) (n : Fin 4) (x : Cmd) (j : Job), s.onCore n = some x → x.st = .committing →
    s.job x.job = some j →
    let u := (s.updCore n fun c => { c with st := .idle, cmd := none, stalled := 0 }).count .coreDone [n.val]
    let u : State := { u with sched := { u.sched with
      cmds := u.sched.cmds.filter fun c => c.id != x.id, acceptOrder := u.sched.acceptOrder + 1 } }
    let v := (u.servedSlots j).foldl (fun v k => v.deadlineOf k) ((u.commitCmd x j (s.lastCmd x j)).dropDoomed x)
    let v := v.readyCheck.ctxCheck j.ctx
    exec (.publish n) s = .next (if ctxClass j.ctx = 2 then v.turnCommit true else v.turnCheck).afterDecision) ∧
  (∀ (s : State) (n : Fin 4), (∀ x, s.onCore n = some x → x.st ≠ .committing) → exec (.publish n) s = .next s)

/-- Contexts get resident slots, and host turns end. CONTEXT_SWAP of a defined, runnable context without a slot,
whose state in memory reads correctly, gives it the lowest free slot of the 128. A host context whose state
has an uncorrectable granule is destroyed and the granule reported and rewritten (where the state lies is the
model's choice, log 125). With none free it takes that of the unpinned context that neither runs nor could and
has been blocked longest, and SCHED.FLAGS bit 1 is set. STARVATION, with 128 resident contexts that are all
pinned, counts each context that waits and writes a record for it, and otherwise changes nothing. TURN_END of
an active turn with no command of the seat on a core or committing passes the turn, with no kill and no debt,
and ends the row of turn-end kills of each of the seat's commands. One command on a core is killed, and its
kill counted, or it is cancelled with SLICE_EXHAUSTED at the eighth in a row. With one of the seat's commands
committing and none dispatched or running, the turn is extended, stays the seat's, and SCHED.FLAGS bit 4 is
set. A turn that passes begins for the next seat in order that has a runnable host context; where there is
none, no turn is active. -/
def Obligations.ContextsAndTurns : Prop :=
  (∀ (s : State) (c : Fin 1024) (x : Ctx) (k : Nat), s.ctx c = some x → x.slot = none → s.runnable c = true →
    s.freeSlot = some k → s.badIn (contextAddr c) 256 = none →
    exec (.contextSwap c) s = .next (s.updCtx c fun x => { x with slot := some k, waiting := false })) ∧
  (∀ (s : State) (c : Fin 1024) (x : Ctx) (v : Nat × Ctx), s.ctx c = some x → x.slot = none →
    s.runnable c = true → s.freeSlot = none → s.badIn (contextAddr c) 256 = none →
    s.sched.ctxs.filter (fun y => y.2.slot.isSome && !y.2.pinned && !s.runnable y.1 && !s.ctxRunning y.1) = [v] →
    exec (.contextSwap c) s = .next (((s.updCtx v.1 fun y => { y with slot := none }).updCtx c fun x =>
      { x with slot := v.2.slot, waiting := false }).setFlag .schedFlags [] 1)) ∧
  (∀ (s : State) (c : Fin 1024) (x : Ctx) (g : Nat), s.ctx c = some x → x.slot = none → s.runnable c = true →
    s.mc.bad = [g] → contextAddr c ≤ g → g < contextAddr c + 256 → x.kind = .host →
    exec (.contextSwap c) s = .next ((s.reportUe g 0x40).destroyCtx c).turnCheck) ∧
  (∀ (s : State) (w : Nat × Ctx), (s.sched.ctxs.filter fun c => c.2.slot.isSome).length = 128 →
    (∀ c ∈ s.sched.ctxs, c.2.slot.isSome = true → c.2.pinned = true) →
    s.sched.ctxs.filter (fun c => c.2.waiting && s.runnable c.1) = [w] →
    exec .starvation s = .next ((s.updCtx w.1 fun x => { x with starve := x.starve + 1 }).flagLog .schedFlags [] 0
      { warning 11 with arg0 := n64 w.1 })) ∧
  (∀ s : State, (s.sched.ctxs.filter fun c => c.2.slot.isSome).length ≠ 128 → exec .starvation s = .next s) ∧
  (∀ s : State, s.sched.turn.active = true →
    (∀ c ∈ s.sched.cmds, (s.hostCtxs s.sched.turn.seat).contains (s.cmdCtx c) = true →
      c.st = .queued ∨ c.st = .ready ∨ c.st = .done) →
    exec .turnEnd s = .next (s.endRows []).passTurn) ∧
  (∀ (s : State) (x : Cmd), s.sched.turn.active = true →
    s.sched.cmds.filter (fun c => (s.hostCtxs s.sched.turn.seat).contains (s.cmdCtx c) &&
      (c.st == .dispatched || c.st == .running)) = [x] →
    (∀ c ∈ s.sched.cmds, (s.hostCtxs s.sched.turn.seat).contains (s.cmdCtx c) = true → c.st ≠ .committing) →
    let u := ((s.endRows [x]).kill x.id false).updCmd x.id fun c => { c with turnKills := c.turnKills + 1 }
    (x.turnKills < 7 → exec .turnEnd s = .next u.passTurn) ∧
    (7 ≤ x.turnKills → exec .turnEnd s = .next ((u.cancelJob x.job 0x70).setFlag .schedFlags [] 2).passTurn)) ∧
  (∀ s : State, s.sched.turn.active = true →
    (∀ c ∈ s.sched.cmds, (s.hostCtxs s.sched.turn.seat).contains (s.cmdCtx c) = true →
      c.st ≠ .dispatched ∧ c.st ≠ .running) →
    (∃ c ∈ s.sched.cmds, (s.hostCtxs s.sched.turn.seat).contains (s.cmdCtx c) = true ∧ c.st = .committing) →
    exec .turnEnd s = .next (({ s.endRows [] with sched := { (s.endRows []).sched with
        turn := { s.sched.turn with extended := true } } } : State).setFlag .schedFlags [] 4)) ∧
  (∀ s : State, s.nextSeat s.sched.turn.seat = none → s.passTurn = { s with sched := { s.sched with
    turn := { s.sched.turn with active := false, extended := false } } }) ∧
  (∀ (s : State) (n : Nat), s.nextSeat s.sched.turn.seat = some n → s.passTurn = s.beginTurn n)

/-- Cores in and out of service. CORE_WATCHDOG counts the checks of a busy core without progress and begins anew
with progress; the fourth in a row declares the core hung. CORE_SET_RELOADED returns a core whose pinned sets
are whole to service at the lower of its own clock and the power mode's. A write of OFFLINE sets
CORE.CTRL.OFFLINE. A write of SLICE_US of 100 to 100,000 is stored, and any other value is ignored with a
notice. -/
def Obligations.CoreService : Prop :=
  (∀ (s : State) (n : Nat), n < 4 →
    let c := s.sched.core n
    let busy := c.st = .dispatched ∨ c.st = .running ∨ c.st = .committing ∨ c.st = .killing
    (¬busy → s.watchCore n false = s.updCore n fun c => { c with stalled := 0 }) ∧
    (s.watchCore n true = s.updCore n fun c => { c with stalled := 0 }) ∧
    (busy → c.stalled < 3 → s.watchCore n false = s.updCore n fun c => { c with stalled := c.stalled + 1 }) ∧
    (busy → 3 ≤ c.stalled → s.watchCore n false = s.coreHung n)) ∧
  (∀ (s : State) (p0 p1 p2 p3 : Bool), exec (.coreWatchdog [p0, p1, p2, p3]) s =
    .next ((((s.watchCore 0 p0).watchCore 1 p1).watchCore 2 p2).watchCore 3 p3)) ∧
  (∀ (s : State) (n : Fin 4), (s.readPinned n).faultLost = s → (s.sched.core n).reloading = true →
    exec (.coreSetReloaded n) s = .next { s with
      sched := s.sched.setCore n { s.sched.core n with
        st := .idle, reloading := false, mhz := min s.modeMhz (s.sched.core n).targetMhz } }) ∧
  (∀ (s : State) (seat n : Fin 4) (on : Bool), on = false ∨ s.img.running = none →
    exec (.offline seat n on) s = .next (s.setFld .coreCtrl [n.val] 0 1 (b2n on))) ∧
  (∀ (s : State) (seat : Fin 4) (v : Word),
    let w := v.toNat % 2 ^ 17
    (100 ≤ w → w ≤ 100000 → exec (.sliceUs seat v) s = .next (s.setFld .schedSlice [] 0 17 w)) ∧
    (w < 100 ∨ 100000 < w → exec (.sliceUs seat v) s = .next (s.log { notice 11 with
      initiator := seat, arg0 := n64 (RN.off .schedSlice []), arg1 := n64 w })))

/-! ### Camera ports (03_camera_ingest.md) -/

/-- A camera port is powered, measured, trimmed and discovered. POWER_EN set on an unpowered port that has a load
and a LIMIT within the budget powers it: POWER_EN reads 1, the port is powered, shows no rate and stands in
discovery. Beyond the budget POWER_EN reads 0 again, PORT_ERR bit 7 is set and the refusal is remembered.
POWER_EN cleared takes power away. REDISCOVER of a powered port drops its link and reads 1 from then on. LIMIT
of 1 to 13 watts on an unpowered port is stored, and 0 or more than 13 is ignored with a notice.
DISCOVERY_ATTEMPT on a waiting port selects no rate. POCXP_MEASURE shows the port's current and voltage and
the total power and supply voltage. On a powered port within its LIMIT, with at least 5 mA and a supply of at
least 20 V, nothing else happens but that the low-current time begins anew. Above its LIMIT, above 1,000 mA,
and at POCXP_SHORT, power is removed, POWER_EN is cleared, the port shows a power fault, and PORT_ERR bit 3,
or bit 2 for the current and the short, is set with an error record. -/
def Obligations.PortPower : Prop :=
  (∀ (s : State) (seat : Fin 4) (p : Fin 32), s.dev ≠ .recovery → (s.port p).powered = false →
    let u := (s.setFld .cxpPortCtrl [p.val] 0 1 1).updPort p fun x =>
      { x with unpoweredDiscovery := false, budgetRefused := false }
    (s.reserved + s.fld .cxpPortCtrl [p.val] 4 4 ≤ s.budget → exec (.powerEn seat p true true) s =
      .next (((u.updPort p fun x => { x with powered := true, lowMs := 0 }).noRate p).setFld
        .cxpPortStatus [p.val] 0 4 2)) ∧
    (s.budget < s.reserved + s.fld .cxpPortCtrl [p.val] 4 4 → exec (.powerEn seat p true true) s =
      .next (((((u.setFld .cxpPortCtrl [p.val] 0 1 0).updPort p fun x => { x with budgetRefused := true }).noRate
        p).setFld .cxpPortStatus [p.val] 0 4 0).setFlag .cxpPortErr [p.val] 7)) ∧
    exec (.powerEn seat p true false) s = .next ((u.noRate p).setFld .cxpPortStatus [p.val] 0 4 6)) ∧
  (∀ (s : State) (seat : Fin 4) (p : Fin 32) (x : Bool), s.portStreams p = [] →
    exec (.powerEn seat p false x) s = .next (((((s.noRate p).setFld .cxpPortCtrl [p.val] 0 2 0).updPort p
      fun x => { x with powered := false, lowMs := 0, picked := 0 }).setFld .cxpPortStatus [p.val] 0 4 0).updPort p
        fun x => { x with budgetRefused := false })) ∧
  (∀ (s : State) (seat : Fin 4) (p : Fin 32), s.dev ≠ .recovery → s.fld .cxpPortCtrl [p.val] 0 1 = 1 →
    (s.port p).powered = true → s.portStreams p = [] →
    exec (.rediscover seat p) s = .next ((((s.noRate p).updPort p fun x => { x with picked := 0 }).setFld
      .cxpPortStatus [p.val] 0 4 2).setFld .cxpPortCtrl [p.val] 1 1 1)) ∧
  (∀ (s : State) (seat : Fin 4) (p : Fin 32) (w : BitVec 4), (s.port p).powered = false →
    (1 ≤ w.toNat → w.toNat ≤ 13 →
      exec (.limit seat p w) s = .next (s.setFld .cxpPortCtrl [p.val] 4 4 w.toNat)) ∧
    (w.toNat = 0 ∨ 13 < w.toNat → exec (.limit seat p w) s = .next (s.log { notice 9 with
      initiator := seat, arg0 := n64 (RN.off .cxpPortCtrl [p.val]), arg1 := n64 w.toNat }))) ∧
  (∀ (s : State) (p : Fin 32), s.awaiting p = true → exec (.discoveryAttempt p) s = .next (s.noRate p)) ∧
  (∀ (s : State) (p : Fin 32) (ma dv total mv : Nat), (s.port p).powered = true → 20000 ≤ mv → 5 ≤ ma →
    let u := (s.setReg .cxpPortPower [p.val] (sat ma 1023 + sat dv 511 * 65536)).setReg .cxpPocxpTotal []
      (sat total 4095 + sat mv 65535 * 65536)
    let u : State := { u with cam := { u.cam with supplyLow := false } }
    (1000 < ma → exec (.pocxpMeasure p ma dv total mv) s = .next ((u.unpower p 5).flagLog .cxpPortErr [p.val] 2
      (portRec { errorRec 9 with status := Code.pocxpFault } p))) ∧
    (ma ≤ 1000 → ma * dv ≤ s.fld .cxpPortCtrl [p.val] 4 4 * 10000 → exec (.pocxpMeasure p ma dv total mv) s =
      .next (u.updPort p fun x => { x with lowMs := 0 })) ∧
    (ma ≤ 1000 → s.fld .cxpPortCtrl [p.val] 4 4 * 10000 < ma * dv → exec (.pocxpMeasure p ma dv total mv) s =
      .next ((u.unpower p 5).flagLog .cxpPortErr [p.val] 3
        (portRec { errorRec 9 with status := Code.pocxpFault } p)))) ∧
  (∀ (s : State) (p : Fin 32), (s.port p).powered = true → exec (.pocxpShort p) s =
    .next ((s.unpower p 5).flagLog .cxpPortErr [p.val] 2
      (portRec { errorRec 9 with status := Code.pocxpFault } p))) ∧
  (∀ (s : State) (p st : Nat), s.portStreams p = [] → s.unpower p st = ((((s.noRate p).setFld .cxpPortCtrl [p] 0 2
    0).updPort p fun x => { x with powered := false, lowMs := 0, picked := 0 }).setFld .cxpPortStatus [p] 0 4 st))

/-- The camera power budget. CXP.POCXP_BUDGET holds the camera power budget in watts in bits [7:0], 0xF0 at reset,
and a write above 240 is taken as 240; bits [31:8] read 0. Nothing else changes. -/
def Obligations.CameraBudget : Prop :=
  State.reset.reg .cxpPocxpBudget [] = 0xF0 ∧ RN.off .cxpPocxpBudget [] = 0x900000 ∧
  (∀ (s : State) (seat : Fin 4) (watts : Byte), ∃ t : State, exec (.budgetW seat watts) s = .next t ∧
    t.fld .cxpPocxpBudget [] 0 8 = min watts.toNat 240 ∧
    (s.fld .cxpPocxpBudget [] 8 24 = 0 → t.reg .cxpPocxpBudget [] = min watts.toNat 240) ∧
    t.fld .cxpPocxpBudget [] 8 24 = s.fld .cxpPocxpBudget [] 8 24 ∧
    (∀ (q : RN) (jx : List Nat), q.off jx ≠ RN.off .cxpPocxpBudget [] → t.stored q jx = s.stored q jx) ∧
    { t with regs := s.regs } = s)

/-- A camera's link comes up, is described, measured and lost. For a port that belongs to no bound stream:
CAMERA_LINK_UP on a waiting port shows the camera's rates and connections, selects the fixed rate or the
highest offered rate that the cable carries, enters RATE_SET and writes the camera's two connection registers.
DESCRIPTION_RETRIEVED holds the file of at most 16 MiB and enters LINKED, and REDISCOVER reads 0 again.
CABLE_ESTIMATE on a LINKED port shows the estimate and reports a cable longer than its rate allows.
CAMERA_LINK_LOSS drops the link and sets PORT_ERR bit 1, with a warning record where a seat has written to the
camera. The addresses of the file and of the camera's registers are the model's (notes/assumptions/17.md,
notes/assumptions/18.md). -/
def Obligations.CameraLink : Prop :=
  (∀ (s : State) (p : Fin 32) (rates conns index : Nat) (master : Bool) (eq len : Nat), s.awaiting p = true →
    s.portStreams p = [] →
    let rate := pickRate (s.fld .cxpPortCtrl [p.val] 8 3) rates len
    exec (.cameraLinkUp p rates conns index master eq len) s = .next (
      let u := s.setReg .cxpPortCaps [p.val] (rates % 128 + conns % 16 * 256)
      let u := (u.setFld .cxpPortStatus [p.val] 8 3 index).setFld .cxpPortStatus [p.val] 11 1 (b2n master)
      let u := u.updPort p fun x => { x with picked := rate }
      let u := if rate = 0 then u else u.setRate p rate
      let u := (u.setFld .cxpPortStatus [p.val] 0 4 3).cable p eq len
      (u.emit (.camControl p true camConnConfig (natBe 4 (65536 + rateCode rate)))).emit
        (.camControl p true camPacketMax (natBe 4 8192)))) ∧
  (∀ (fix rates len : Nat), (fix ≠ 0 → pickRate fix rates len = fix) ∧
    (fix = 0 → ∀ k, k < 7 → bit rates k = true → len ≤ maxLength (k + 1) →
      (∀ j, k < j → j < 7 → bit rates j = true → maxLength (j + 1) < len) → pickRate fix rates len = k + 1)) ∧
  (∀ (s : State) (p : Fin 32) (file : Bytes), s.portState p = 3 → s.fld .cxpPortStatus [p.val] 4 3 ≠ 0 →
    file.length ≤ 0x1000000 → s.portStreams p = [] →
    exec (.descriptionRetrieved p file) s = .next ((((s.store (fileAddr p) file).updPort p fun x =>
      { x with fileBytes := file.length, lowMs := 0 }).setFld .cxpPortStatus [p.val] 12 1 1).setFld
        .cxpPortStatus [p.val] 0 4 4 |>.setFld .cxpPortCtrl [p.val] 1 1 0)) ∧
  (∀ (s : State) (p : Fin 32) (eq len : Nat), s.linked p = true →
    let u := (s.setFld .cxpPortCable [p.val] 0 8 (sat len 255)).setFld .cxpPortCable [p.val] 16 8 eq
    (len ≤ s.fld .cxpPortCable [p.val] 8 8 → exec (.cableEstimate p eq len) s = .next u) ∧
    (s.fld .cxpPortCable [p.val] 8 8 < len → exec (.cableEstimate p eq len) s =
      .next (u.flagLog .cxpPortErr [p.val] 4 (portRec (warning 9) p len)))) ∧
  (∀ (s : State) (p : Fin 32), s.fld .cxpPortStatus [p.val] 4 3 ≠ 0 → s.portStreams p = [] →
    let u := ((s.noRate p).updPort p fun x => { x with picked := 0 }).setFld .cxpPortStatus [p.val] 0 4
      (if (s.port p).powered then 2 else 3)
    ((s.port p).writer = none → exec (.cameraLinkLoss p) s = .next (u.setFlag .cxpPortErr [p.val] 1)) ∧
    (∀ w, (s.port p).writer = some w → exec (.cameraLinkLoss p) s = .next (u.flagLog .cxpPortErr [p.val] 1
      (portRec { warning 9 with initiator := w } p))))

/-- Control transactions with a camera. CXP_CONTROL on a LINKED port with nothing queued, with 4 to 1,024 bytes in
fours in DRAM, sends the transaction to the camera, tagged as it says: a write with its data, a read with its
length. With transactions queued it waits behind them. CAMERA_ACKNOWLEDGE ends the only transaction: a read's
data go to its buffer, and it completes with OK; the camera's error completes it with CXP_NACK and the
camera's code. CXP_TIMEOUT ends it with CXP_TIMEOUT and PORT_ERR bit 5. CXP_DESCRIPTION copies the description
file that the port holds. -/
def Obligations.CameraControl : Prop :=
  (∀ (s : State) (h : Hdr) (p op tagged : Byte) (a len : Word) (d : BitVec 64), s.accepts h false →
    op.toNat ≤ 1 → tagged.toNat ≤ 1 → addrReserved d = false → 4 ≤ len.toNat → len.toNat ≤ 1024 →
    len.toNat % 4 = 0 → p.toNat < 32 → bufferIn d len.toNat = true → (s.port p.toNat).budgetRefused = false →
    s.linked p.toNat = true →
    (∀ first rest, (s.port p.toNat).ctrl = first :: rest → rest.length < 16 →
      exec (.cxpControl h p op tagged a len d) s = .next (s.ran h 0x0501 fun c u => u.updPort p.toNat fun x =>
        { x with ctrl := x.ctrl ++ [⟨c, op == 1, a, len.toNat, d.toNat, tagged == 1⟩] })) ∧
    ((s.port p.toNat).ctrl = [] → op = 0 →
      exec (.cxpControl h p op tagged a len d) s = .next (s.ran h 0x0501 fun c u => (u.updPort p.toNat fun x =>
        { x with ctrl := x.ctrl ++ [⟨c, false, a, len.toNat, d.toNat, tagged == 1⟩] }).emit
          (.camControl p.toNat false a (natLe 4 len.toNat) (tagged == 1)))) ∧
    ((s.port p.toNat).ctrl = [] → op = 1 → s.badIn d.toNat len.toNat = none →
      exec (.cxpControl h p op tagged a len d) s = .next (s.ran h 0x0501 fun c u => ((u.updPort p.toNat fun x =>
        { x with ctrl := x.ctrl ++ [⟨c, true, a, len.toNat, d.toNat, tagged == 1⟩] }).updPort p.toNat fun x =>
          { x with writer := some h.seat.val }).emit
          (.camControl p.toNat true a (s.load d.toNat len.toNat) (tagged == 1))))) ∧
  (∀ (s : State) (p : Fin 32) (t : CtrlCmd), (s.port p).ctrl = [t] →
    let u := s.updPort p fun x => { x with ctrl := [] }
    (∀ data, t.write = false → exec (.cameraAcknowledge p (.ok data)) s =
      .next ((u.storeFor t.by'.seat t.dataAddr (bytesAt data 0 t.length)).complete t.by' Code.ok)) ∧
    (∀ data, t.write = true → exec (.cameraAcknowledge p (.ok data)) s = .next (u.complete t.by' Code.ok)) ∧
    (∀ code : Word, exec (.cameraAcknowledge p (.error code)) s =
      .next (u.complete t.by' Code.cxpNack 0 code.toNat)) ∧
    exec (.cxpTimeout p) s = .next ((u.setFlag .cxpPortErr [p.val] 5).complete t.by' Code.cxpTimeout)) ∧
  (∀ (s : State) (h : Hdr) (p : Byte) (a bytes : BitVec 64), s.accepts h false → addrReserved a = false →
    allOnes64 bytes = false → p.toNat < 32 → bufferIn a bytes.toNat = true →
    s.fld .cxpPortStatus [p.toNat] 12 1 = 1 → (s.port p.toNat).fileBytes ≤ bytes.toNat →
    s.badIn (fileAddr p.toNat) (s.port p.toNat).fileBytes = none →
    exec (.cxpDescription h p a bytes) s = .next (s.ran h 0x0502 fun c u =>
      (u.storeFor c.seat a.toNat (s.load (fileAddr p.toNat) (s.port p.toNat).fileBytes)).complete c Code.ok
        (s.port p.toNat).fileBytes))

/-! ### Streams and line pipes (03_camera_ingest.md, 04_line_pipes.md) -/

/-- Headers, packets and events of a camera. A packet of no bound stream is discarded and counted in
CXP.UNBOUND_CNT, and one with a CRC error sets PORT_ERR bit 0 all the same. IMAGE_HEADER of the bound format
on a stream with no block open and no boundary to decide opens a block of the declared lines with the next
block number and writes its descriptor. LINE_DATA that is next in order and does not complete a line joins the
line in progress, and the tag that is next goes on by one, modulo 256. EVENT_PACKET writes an info record with
the event's code and data. On a free-running in-line stream outside an apply, consuming a line of the open
block with its elements gives the line the stream's next line number, counts it as arrived and filed in its
block, and opens the stream. The line waits for the pipe with its elements and the position at its time, which
is settled later where the encoder sample after that time has still to come. -/
def Obligations.LineBlocks : Prop :=
  (∀ (s : State) (p : Fin 32) (id tag : Byte) (rect ok : Bool) (f t : BitVec 16) (xo xs ls : Word) (bytes : Nat)
    (els : List (BitVec 16)), s.streamOf p id.toNat = none →
    exec (.imageHeader p id rect f xo xs ls t) s = .next (s.count .cxpUnboundCnt []) ∧
    exec (.lineData p id tag ok bytes els) s =
      .next ((if ok then s else s.setFlag .cxpPortErr [p.val] 0).count .cxpUnboundCnt [])) ∧
  (∀ (s : State) (p : Fin 32) (id : Byte) (f t : BitVec 16) (xs ls : Word) (n : Nat) (x : Stream),
    s.streamOf p id.toNat = some (n, x) → s.orderBreak x.cfg = none → s.stream n = some x → x.block = none →
    s.boundaryOpen n = false →
    let cfg := s.cfgNow n x
    f.toNat = Strm.dataType cfg → xs.toNat = Strm.width cfg → xs.toNat ≠ 2 ^ 32 - 1 → 0 < ls.toNat →
    ls.toNat ≤ Strm.blockLines cfg → ({ x with descProd := x.descProd + 1 } : Stream).descHeld x.blockNext = false →
    let b : Block :=
      { number := x.blockNext, declared := ls.toNat, arrived := 0, filed := 0, firstLine := x.nextRaw
        headerTime := s.tb0, flags := if (s.dividerOf n).isNone then 16 else 0, sourceTag := t
        dropping := false, trusted := true, cause := 0
        lineEls := Strm.width cfg * Strm.comps cfg }
    exec (.imageHeader p id false f 0 xs ls t) s = .next ((s.setStream n { x with
      block := some b, blockNext := x.blockNext + 1, descProd := x.descProd + 1, partial' := [], window := []
      nextTag := none, offsetEn := bit (s.reg .cxpStreamCfg [n]) 0
      slack := slice (s.reg .cxpStreamCfg [n]) 4 4 }).putDesc n b)) ∧
  (∀ (s : State) (p : Fin 32) (id tag : Byte) (bytes : Nat) (els : List (BitVec 16)) (n : Nat) (x : Stream)
    (b : Block), s.streamOf p id.toNat = some (n, x) → s.orderBreak x.cfg = none → s.stream n = some x →
    x.block = some b → b.held = none → b.dropping = false → x.nextTag.getD tag.toNat = tag.toNat → x.window = [] →
    bytes ≤ 8192 → b.lineEls = 0 ∨ x.partial'.length + els.length < b.lineEls →
    (∀ r, x.remaining = some r → els.length ≤ r) →
    ∃ t : State, exec (.lineData p id tag true bytes els) s = .next t ∧
      t.stream n = some { x with
        nextTag := some ((tag.toNat + 1) % 256), partial' := x.partial' ++ els
        partialTime := if x.partial'.isEmpty then s.tb0 else x.partialTime } ∧
      (∀ m, m ≠ n → t.stream m = s.stream m) ∧ { t with cam := s.cam } = s) ∧
  (∀ (s : State) (p : Fin 32) (code data : BitVec 64), exec (.eventPacket p code data) s =
    .next (s.log { info 9 with initiator := 0x40, arg0 := code, arg1 := data })) ∧
  (∀ (s : State) (n : Nat) (x : Stream) (b : Block) (time : BitVec 64) (pix : List Nat) (short : Bool),
    s.stream n = some x → x.block = some b → s.dividerOf n = none → s.img.apply = none →
    passes x.cfg x.lp = true → Strm.inLine x.cfg = true →
    ∃ t y, s.consumeLine n time pix 0 true short = t ∧ t.stream n = some y ∧ y.nextRaw = x.nextRaw + 1 ∧
      y.block = some { b with arrived := b.arrived + 1, filed := b.filed + 1 } ∧ y.closed = false ∧
      y.lastLine = s.now ∧ (∃ l : RawLine, y.rawLines = x.rawLines ++ [l] ∧ l.index = x.nextRaw ∧ l.pix = pix ∧
        l.cause = 0 ∧ l.block = b.number ∧ l.time = time ∧ l.pos = s.posAt (Strm.encoder x.cfg) (s.tb0Of time) ∧
        l.bracket = s.bracketOf n x time) ∧
      { t with cam := s.cam } = s)

/-- A stream closes, is triggered, and shows its header. STREAM_CLOSE of an open stream outside an apply closes
it: what the pipe has of it is completed, its run of lines ends, and a restore that waits takes effect.
TICK_WORD with a divider's next event queues that event on each stream the divider names, while fewer than two
wait, and the divider's event count goes on; a word with a wrong CRC sets FIELD.LINK_ERR bit 2 and nothing
else. TRIGGER_PACKET_START sends the first queued trigger of a stream whose master connection is LINKED, after
an earlier packet of the connection, or at a character boundary less than one character after its nominal
start. STREAM_HEADER_UPDATE writes the stream buffer's header with the next sequence number. A write of
STREAM_CFG stores its writable bits. -/
def Obligations.StreamsCloseAndTrigger : Prop :=
  (∀ (s : State) (n : Fin 64) (x : Stream), s.stream n = some x → x.closed = false → s.img.apply = none →
    s.img.overlayRuns = [] →
    exec (.streamClose n) s = .next ((((s.setStream n { x with closed := true }).endPipe n).endRun
      n).settleRestores)) ∧
  (∀ (s : State) (flags : List (Fin 8 × Byte)) (pps : Bool) (r : Fin 4),
    exec (.tickWord false flags pps r) s = .next (s.setFlag .fldLinkErr [] 2)) ∧
  (∀ (s : State) (d : Fin 8) (low : Byte) (x : Divider) (r : Fin 4), s.divider d = some x →
    x.dieK % 256 = low.toNat →
    exec (.tickWord true [(d, low)] false r) s = .next ((s.queueTrig (s.mapTrig d x x.dieK).1 false).setDivider d
      { x with dieK := x.dieK + 1 })) ∧
  (∀ (s : State) (t : Trig) (d : Divider) (n : Nat) (x : Stream), s.divider t.div = some d →
    s.cam.streams.filter (fun y => bit (Div.streams d.cfg) y.1) = [(n, x)] → s.stream n = some x →
    x.trigQueue.length < 2 →
    s.queueTrig t false = s.setStream n { x with trigQueue := x.trigQueue ++ [t] }) ∧
  (∀ (s : State) (n : Fin 64) (x : Stream) (t : Trig) (rest : List Trig), s.stream n = some x →
    x.trigQueue = t :: rest → s.linked (Strm.portFirst x.cfg) = true → s.orderBreak x.cfg = none →
    let nominal := s.tb0Of t.time + 900
    let ready := max nominal s.tb0Ns
    let free := s.uplinkFree (Strm.portFirst x.cfg)
    let fast := s.fld .cxpPortStatus [Strm.portFirst x.cfg] 7 1 == 1
    let sent := x.sentTrigs ++ [t]
    let sends (u : State) (start : Nat) : Res := .next ((u.setStream n { x with
      trigQueue := rest, sent := x.sent + 1
      sentTrigs := sent.drop (sent.length - max 16 (x.sent + 1 - x.paired))
      uplinkFree := start + if fast then 1680 else 3360 }).emit
        (.triggerPacket n start (if x.offsetEn then start - nominal else 0)))
    (ready < free → exec (.triggerPacketStart n) s = sends s free) ∧
    (free ≤ ready → ∃ wait, wait < (if fast then 240 else 480) ∧
      exec (.triggerPacketStart n) s = sends { s with free := s.free + 1 } (ready + wait))) ∧
  (∀ (s : State) (n : Fin 64) (x : Stream), s.stream n = some x →
    exec (.streamHeaderUpdate n) s = .next ((s.setStream n { x with hdrSeq := x.hdrSeq + 1 }).store x.layout.base
      (x.header n (x.hdrSeq + 1)))) ∧
  (∀ (s : State) (seat : Fin 4) (n : Fin 64) (v : Word),
    exec (.streamCfg seat n v) s = .next (s.setStored .cxpStreamCfg [n.val] (v &&& 0xF1)))

/-- The line pipes serve, align, emit and measure lines. LINE_SERVED takes the first raw line of the pipe's in-
line stream, or else of the stream whose turn it is in round robin, through the correction chain into the
lines that align; the last line before a stripe origin completes the alignment. ALIGNMENT_TIMEOUT completes
the only line that waits with the latest line that has entered, flags it where that is out of range, and
passes it on through output conversion, statistics and binning. PIPE_HANG writes an error record that names
the pipe, 0xFF for the ingest block, and asks for a stream subsystem reset, which waits for the drain or load
of an apply. LINE_EMITTED of a through-memory stream whose corrected area has room takes the first finished
line as the stream's next corrected line, writes its elements where it lies, and gives it to stripes, strips
and parts; statistics that it ends are written. A line that is unusable writes no element. SPILL_REENTRY with
room in the row window copies the oldest spilled line into the window and its place is there. A write of
STAT_CONS within the ring, counted back from the producer modulo 2^32, is stored. One ahead of the producer is
taken as the producer. One further behind than the ring has slots is ignored with a notice. -/
def Obligations.LinePipe : Prop :=
  (∀ (s : State) (p : Fin 4) (n : Nat) (x : Stream),
    s.cam.streams.filter (fun x => Strm.pipe x.2.cfg == p.val && x.2.hasWork) = [(n, x)] →
    (Strm.inLine x.cfg = true → exec (.lineServed p) s = .next (s.serveLine n)) ∧
    (Strm.inLine x.cfg = false → exec (.lineServed p) s = .next (({ s with
      cam := { s.cam with pipeNext := Tab.put s.cam.pipeNext p (n + 1) } } : State).serveLine n))) ∧
  (∀ (s : State) (n : Nat) (x : Stream) (l : RawLine) (rest : List RawLine) (w : WorkLine), s.stream n = some x →
    x.rawLines = l :: rest → l.pix ≠ [] →
    enterPipe x l (s.rawComps x l) (s.enc (Strm.encoder x.cfg)).diePeriod = (w, false) →
    let u := (s.updStream n fun x => { x with rawLines := rest, align := x.align ++ [w] }).drainAlign n false
      (x.align.length + 1)
    s.serveLine n = if l.cut then u.completeAlign n else u) ∧
  (∀ (s : State) (n : Fin 64) (x : Stream) (w l : WorkLine) (range : Bool), s.stream n = some x → x.align = [w] →
    alignHead x true = some (l, range, false) →
    let u := s.updStream n fun x => { x with align := [] }
    let u := if range then u.setFlag .lineStreamFlags [n.val] 0 else u
    let l' := outLine x (if range then { l with alignFlag := true } else l)
    exec (.alignmentTimeout n) s = .next ((u.statLine n l').groupLine n l')) ∧
  (∀ (s : State) (p : Option (Fin 4)),
    let u := s.log { errorRec 10 with arg0 := n64 ((p.map fun p => p.val).getD 0xFF) }
    exec (.pipeHang p) s = .next u.askStreamReset ∧
    (∀ a, s.img.apply = some a → a.phase = .drain ∨ a.phase = .load →
      exec (.pipeHang p) s = .next { u with boot := { u.boot with pendingStreams := true } })) ∧
  (∀ (s : State) (n : Fin 64) (x : Stream) (l : WorkLine) (rest : List WorkLine), s.stream n = some x →
    x.readyLines = l :: rest → Strm.inLine x.cfg = false ∨ l.cause ≠ 0 →
    x.room x.layout.corrSlots x.nextCorr = true →
    let c := corrOf l x.nextCorr .corrected false
    exec (.lineEmitted n) s = .next (((((s.updStream n fun x => { x with
      readyLines := x.readyLines.drop 1 }).writeLine x c l.comps).lineArrives n c).sendStrips n
        x.nextCorr).finishStats n (StatAcc.doneAt l))) ∧
  (∀ (s : State) (x : Stream) (c : CorrLine) (comps : List (List Nat)),
    c.cause ≠ 0 → s.writeLine x c comps = s) ∧
  (∀ (s : State) (n : Fin 64) (x : Stream) (l : CorrLine), s.stream n = some x →
    x.lines.find? (fun l => l.spilled) = some l → x.room x.layout.winRows l.index = true →
    s.touchLine n l.index = s →
    exec (.spillReentry n) s = .next ((s.store (x.winAddr l.index) (s.load (x.corrAddr l.index)
      x.layout.corrLineBytes)).updStream n fun x => { x with
        lines := x.lines.map fun m => if m.index = l.index then { m with loc := .window, spilled := false } else m })) ∧
  (∀ (s : State) (seat : Fin 4) (n : Fin 64) (v : Word),
    let prod := s.reg .lineStatProd [n.val]
    let behind := (prod + 2 ^ 32 - v.toNat) % 2 ^ 32
    let slots := 2 ^ s.fld .lineStatCfg [n.val] 0 5
    (2 ^ 31 ≤ behind → exec (.statCons seat n v) s = .next (s.setReg .lineStatCons [n.val] prod)) ∧
    (behind < 2 ^ 31 → slots < behind → exec (.statCons seat n v) s = .next (s.log { notice 10 with
      initiator := seat, arg0 := n64 (RN.off .lineStatCons [n.val]), arg1 := n64 v.toNat })) ∧
    (behind < 2 ^ 31 → behind ≤ slots → exec (.statCons seat n v) s =
      .next (s.setReg .lineStatCons [n.val] v.toNat)))

/-! ### Time bases and PTP (15_line_group_and_time.md) -/

/-- What an offset sample does to a time base. PTP_SYNC under a known master, with TB0 disciplined by PTP, shows
the path delay and the offset. The first sample under INITIAL_STEP steps the base by the offset. A later one
beyond the jump limit is refused: the base shows REFUSING, TB_STATUS bit 3 is set and a warning names the
offset. A locked base further than 900 ns away goes into holdover. Otherwise the sample moves the integrator
and the adjustment of the servo, limited to 500 ppm. With no master nothing happens. HOLDOVER puts a locked
base into holdover and changes nothing else. That the servo computes exactly is the model's choice
(notes/assumptions/49.md). -/
def Obligations.ServoSample : Prop :=
  (∀ (s : State) (o : Int) (delay : Word) (r : Bytes) (m : Nat × Announce), s.ptpRec = some r →
    s.time.master = some m → TRec.source (s.timeRec 0) = 1 →
    let rec0 := s.timeRec 0
    let t := s.time.base 0
    let u := (s.setStored .timeMeanPathDelay [] delay).setReg .tbOffset [0]
      (toUnsigned 32 (max (-(2 ^ 31)) (min o (2 ^ 31 - 1))))
    let first := TRec.initialStep rec0 = true ∧ t.sampled = false
    let n := if o.natAbs ≤ TRec.lockNs rec0 then t.lockCount + 1 else 0
    let i := t.integ + TRec.gain rec0 0x10 (3 / 10) * (o : Rat) / s.sampleInterval 0
    let a := -(TRec.gain rec0 0xC (7 / 10) * (o : Rat) / s.sampleInterval 0 + i)
    (¬first → TRec.jumpNs rec0 < o.natAbs → exec (.ptpSync o delay) s =
      .next ((u.updBase 0 fun t => { t with st := .refusing, sampled := true, lockCount := 0 }).flagLog .tbStatus [0] 3
        { warning 4 with arg0 := BitVec.ofInt 64 o })) ∧
    (first → exec (.ptpSync o delay) s = .next (u.updBase 0 fun t => { t.shift (-o) with
      sampled := true, stepped := true, lockCount := n, st := tbNext t.st n })) ∧
    (¬first → o.natAbs ≤ TRec.jumpNs rec0 → t.st = .locked → 900 < o.natAbs → exec (.ptpSync o delay) s =
      .next (u.updBase 0 fun t => { t with st := .holdover, sampled := true, lockCount := 0 })) ∧
    (¬first → o.natAbs ≤ TRec.jumpNs rec0 → (t.st ≠ .locked ∨ o.natAbs ≤ 900) → exec (.ptpSync o delay) s =
      .next ((u.updBase 0 fun t => { t with
        integ := i,
        adj := (if a < -500000 then -500000 else if 500000 < a then 500000 else a),
        sampled := true, lockCount := n, st := tbNext t.st n }).setInc 0))) ∧
  (∀ (s : State) (o : Int) (delay : Word), s.time.master = none → exec (.ptpSync o delay) s = .next s) ∧
  (∀ (s : State) (b : Fin 4),
    ((s.time.base b).st = .locked → exec (.holdover b) s = .next { s with
      time := s.time.setBase b { s.time.base b with st := .holdover, lockCount := 0 } }) ∧
    ((s.time.base b).st ≠ .locked → exec (.holdover b) s = .next s))

/-- PTP messages, steps and snapshots. PTP_ANNOUNCE of the record's domain on a PTP port, with no foreign master
known yet, under ROLE 1, makes its sender the master: TIME.PTP_STATUS and GM_ID show it, and a base that was
master listens. A record that plays no slave ignores it. PTP_DELAY_REQ of the die's own mechanism is answered
on its port; another mechanism sets PORT_ERR bit 2 of the port. Each PTP_MESSAGE_TIMER of a master, and that
of a delay request of a slave or of peer delay, sends its message on every PTP port, with a Follow_Up after
each Sync of a two-step clock, under one sequence number that then advances. PPS_IN_EDGE of the edge that the
record names, after a level held for 10 samples, is latched 100 ns back; within half a second of the last one
it is counted as ignored. TB_STEP_GO with GO set steps TB0, TB2 or TB3 by TB_STEP, or to it where ABS is set;
the servo's integrator and lock count begin anew, TB_STATUS bit 4 is set and a notice names the seat, the base
and the step. On TB1 it is refused with a notice. Without GO only ABS is stored. SNAP_CAPTURE puts the three
words of all four bases of one moment into the snapshot registers and changes nothing else. -/
def Obligations.PtpAndSteps : Prop :=
  (∀ (s : State) (port : Fin 2) (a : Announce) (r : Bytes), s.ptpRec = some r →
    (PtpRec.role r = 1 → a.domain = PtpRec.domain r → port.val ∈ PtpRec.ports r → s.time.master = none →
      exec (.ptpAnnounce port a) s = .next ((({ s with time := { s.time with master := some (port.val, a) } } :
        State).showMaster 1 port a.identity).updBase 0 fun t =>
          if t.st = .master then { t with st := .listening, lockCount := 0 } else t)) ∧
    ((PtpRec.role r ≠ 1 ∧ PtpRec.role r ≠ 3) ∨ a.domain ≠ PtpRec.domain r ∨ port.val ∉ PtpRec.ports r →
      exec (.ptpAnnounce port a) s = .next s)) ∧
  (∀ (s : State) (port : Fin 2) (id : BitVec 64) (seq : BitVec 16) (peer : Bool) (r : Bytes),
    s.ptpRec = some r → PtpRec.role r ≠ 0 → port.val ∈ PtpRec.ports r →
    let u := s.setFld .netPortStatus [port.val] (if peer then 5 else 6) 1 1
    (PtpRec.peer r = peer → (peer = true ∨ s.ptpMaster = true) → exec (.ptpDelayReq port id seq peer) s =
      .next (u.emit (.ptp 3 port seq.toNat))) ∧
    (PtpRec.peer r ≠ peer → exec (.ptpDelayReq port id seq peer) s =
      .next (u.setFlag .netPortErr [port.val] 2))) ∧
  (∀ (s : State) (kind : Fin 3) (r : Bytes), s.ptpRec = some r → PtpRec.role r ≠ 0 →
    let q := s.time.ptpSeq
    let u : State := { s with time := { s.time with ptpSeq := (q + 1) % 65536 } }
    ((if kind = 2 then PtpRec.peer r = true ∨ s.ptpMaster = false else s.ptpMaster = true) →
      exec (.ptpMessageTimer kind) s = .next { u with
      out := s.out ++ (PtpRec.ports r).flatMap fun p =>
        .ptp kind p q :: (if kind = 0 ∧ PtpRec.twoStep r = true then [.ptp 4 p q] else []) }) ∧
    (kind ≠ 2 → s.ptpMaster = false → exec (.ptpMessageTimer kind) s = .next s) ∧
    (kind = 2 → PtpRec.peer r = false → s.ptpMaster = true → exec (.ptpMessageTimer kind) s = .next s)) ∧
  (∀ (s : State) (rising : Bool) (held : Nat), s.field.held = false → rising ≠ s.ppsFalling → 10 ≤ held →
    ((∀ l, s.field.ppsLast = some l → l + 500000000 ≤ s.now) → exec (.ppsInEdge rising held) s =
      .next { s with field := { s.field with ppsLast := some s.now, ppsPending := true, ppsAt := s.now - 100 } }) ∧
    (∀ l, s.field.ppsLast = some l → s.now < l + 500000000 → exec (.ppsInEdge rising held) s =
      .next { s with field := { s.field with ppsIgnored := s.field.ppsIgnored + 1 } })) ∧
  (∀ (s : State) (seat : Fin 4) (v : Word),
    exec (.tbStepGo seat 1 v) s = .next (if bit v.toNat 0 then s.log { notice 4 with
      status := Code.stepRefused, initiator := seat, arg0 := n64 1 } else s)) ∧
  (∀ (s : State) (seat b : Fin 4) (v : Word), b ≠ 1 →
    let u := s.setFld .tbStepCtrl [b.val] 1 1 (b2n (bit v.toNat 1))
    let raw := s.pair .tbStepLo .tbStepHi [b.val]
    let t := s.time.base b
    (bit v.toNat 0 = false → exec (.tbStepGo seat b v) s = .next u) ∧
    (bit v.toNat 0 = true → bit v.toNat 1 = false → exec (.tbStepGo seat b v) s =
      .next (((u.updBase b fun t => { t.shift (toSigned 64 raw) with
        integ := 0, lockCount := 0, stepped := true }).setFlag .tbStatus [b.val] 4).log { notice 4 with
          initiator := seat, arg0 := n64 b.val, arg1 := BitVec.ofInt 64 (toSigned 64 raw) })) ∧
    (bit v.toNat 0 = true → bit v.toNat 1 = true → exec (.tbStepGo seat b v) s =
      .next (((u.updBase b fun t => { t.set (t.ofStored raw * 2 ^ 32) with
        integ := 0, lockCount := 0, stepped := true }).setFlag .tbStatus [b.val] 4).log { notice 4 with
          initiator := seat, arg0 := n64 b.val
          arg1 := BitVec.ofInt 64 ((t.ofStored raw : Int) - t.ns) }))) ∧
  (∀ (s : State) (seat : Fin 4), ∃ t : State, exec (.snapCapture seat) s = .next t ∧
    (∀ b k : Nat, b < 4 → k < 3 → t.reg .snapW [b, k] = (s.time.base b).word k % 2 ^ 32) ∧
    (∀ (q : RN) (jx : List Nat), (∀ b k : Nat, b < 4 → k < 3 → q.off jx ≠ RN.snapW.off [b, k]) →
      t.stored q jx = s.stored q jx) ∧
    { t with regs := s.regs } = s)

/-! ### The line group and the network (15_line_group_and_time.md) -/

/-- Group messages are checked, acknowledged, performed once and sent again. A message whose header does not match
this module is discarded and counted, whatever its type. A message seen before is acknowledged again and not
performed. A new one is noted and acknowledged where it asks for it, and then performed: EVENT enters its
record into the own recorder marked with the sender, ACK ends the message it names, GO lets the launch item
act, AXIS refreshes the anchor where both encoders and TB0 allow it. GROUP_RETRANSMIT sends an unacknowledged
message again, up to four times, and then loses it with GROUP_FLAGS bit 1 and PEER_LOST. -/
def Obligations.GroupMessages : Prop :=
  (∀ (s : State) (g : GrpHdr), s.grpMatches g = false →
    let r : Res := .next (s.count .netGroupRxDrop [])
    (∀ m, exec (.caps g m) s = r) ∧ (∀ t p e, exec (.axis g t p e) s = r) ∧ (∀ m, exec (.handoff g m) s = r) ∧
    (∀ m, exec (.strip g m) s = r) ∧ (∀ i l, exec (.launchItem g i l) s = r) ∧
    (∀ l st p, exec (.launchAnswer g l st p) s = r) ∧ (∀ l, exec (.go g l) s = r) ∧
    (∀ b, exec (.event g b) s = r) ∧ (∀ q, exec (.groupAck g q) s = r)) ∧
  (∀ (s : State) (g : GrpHdr), s.grpMatches g = true → s.grpSeen g = true →
    let r : Res := .next (s.grpAck g)
    (∀ m, g.mac ≠ Config.macAddress → exec (.caps g m) s = r) ∧ (∀ t p e, exec (.axis g t p e) s = r) ∧
    (∀ m, exec (.strip g m) s = r) ∧ (∀ i l, exec (.launchItem g i l) s = .next (s.answerAgain g)) ∧
    (∀ l st p, exec (.launchAnswer g l st p) s = r) ∧ (∀ l, exec (.go g l) s = r) ∧
    (∀ b, exec (.event g b) s = r) ∧ (∀ q, exec (.groupAck g q) s = r)) ∧
  (∀ (s : State) (g : GrpHdr), s.grpMatches g = true → s.grpSeen g = false →
    let u := (s.noteSeq g).grpAck g
    (∀ b, exec (.event g b) s = .next (u.enqueueRec { recOf b with
      flags := (recOf b).flags ||| 8, sender := g.sender.toNat })) ∧
    (∀ q, exec (.groupAck g q) s = .next { u with net := { u.net with
      unacked := u.net.unacked.filter fun m => !(m.peer == g.sender.toNat && m.seq == q) } }) ∧
    (∀ l, exec (.go g l) s = .next { u with net := { u.net with member := u.net.member.map fun m =>
      if m.launch = l.toNat then { m with go := true } else m } }) ∧
    (∀ (t : BitVec 64) (p : Pos) (e : Fin 4) (grp : Bytes), s.group = some grp →
      let x := s.enc (Grp.stretch grp 0x18 1)
      let fit := Grp.index grp ≠ 0 ∧ (s.time.tb0.st = .locked ∨ s.time.tb0.st = .holdover) ∧
        (x.dieSt = .run ∨ x.dieSt = .stopped) ∧ e ≠ 0 ∧ e ≠ 3
      (∀ a, fit → x.posAtTb0 (s.tb0Of t) = some a → exec (.axis g t p e) s =
        .next { u with net := { u.net with anchor := some (a, p), anchorAt := s.now } }) ∧
      (¬fit ∨ x.posAtTb0 (s.tb0Of t) = none → exec (.axis g t p e) s = .next u))) ∧
  (∀ (s : State) (peer : Fin 24) (seq : Word) (m : GroupMsg),
    s.net.unacked.find? (fun m => m.peer == peer.val && m.seq == seq) = some m → m.type ≠ 0x07 →
    (m.tries < 4 → exec (.groupRetransmit peer seq) s = .next { s with
      out := s.out ++ [.group (some peer.val) m.type seq true m.payload]
      net := { s.net with unacked := s.net.unacked.map fun x =>
        if x.peer == peer.val && x.seq == seq then { x with tries := x.tries + 1 } else x } }) ∧
    (4 ≤ m.tries → m.type ≠ 0x03 → exec (.groupRetransmit peer seq) s = .next (({ s with net := { s.net with
      unacked := s.net.unacked.filter fun m => !(m.peer == peer.val && m.seq == seq) } } : State).flagLog
        .netGroupFlags [] 1 { errorRec 5 with
          status := Code.peerLost, arg0 := n64 peer.val, arg1 := n64 m.type })))

/-- Modules find each other, and exchange axis, strips and handoffs. CAPS of a new peer enters it into the peers,
decides the strips that name it and notes a FORMED group; the module's own CAPS coming back sets GROUP_FLAGS
bit 6 and stops forwarding, and another module's claim of its index sets bit 5. PEER_ABSENT makes the peer
absent and its strips inactive. CAPS_TIMER broadcasts this module's CAPS, AXIS_TIMER the leader's axis sample,
and AXIS_STALE sets bit 3. A STRIP of an active strip goes into its ring. STRIP_SEAM_UPDATE shows the mean
difference of the last second and begins a new one. The layout of CAPS and the place of the strip rings are
the model's (notes/assumptions/19.md). A HANDOFF on a module whose axis map was never anchored is refused with
AXIS_INVALID, and not acknowledged. View scores that name no part here are discarded with HANDOFF_MISMATCH,
and those of a part decided by its cutoff or past it with HANDOFF_LATE. Each refusal sets LEDG.FLAGS bit 7.
Otherwise they join as the view, are recorded for replay, and the part is judged anew. A decided part whose
definition is here opens its record, and one whose definition is not is refused with HANDOFF_MISMATCH. That a
notice carries each refusal is the model's (notes/assumptions/50.md). -/
def Obligations.GroupMembership : Prop :=
  (∀ (s : State) (h : GrpHdr) (m : CapsMsg) (g : Bytes), s.group = some g → s.grpMatches h = true →
    let u := (s.noteSeq h).grpAck h
    (h.mac = Config.macAddress → exec (.caps h m) s = .next (({ s with net := { s.net with noForward := true } } :
      State).flagLog .netGroupFlags [] 6 (errorRec 5))) ∧
    (h.mac ≠ Config.macAddress → s.grpSeen h = false → m.index = Grp.index g → exec (.caps h m) s =
      .next (u.flagLog .netGroupFlags [] 5 { errorRec 5 with arg0 := n64 m.index })) ∧
    (h.mac ≠ Config.macAddress → s.grpSeen h = false → m.index ≠ Grp.index g →
      Tab.get s.net.peers m.index = none → exec (.caps h m) s = .next ((({ u with net := { u.net with
        peers := Tab.put u.net.peers m.index { mac := h.mac, ip := h.ip, caps := m, present := true
                                               excluded := false } } } : State).checkStrips g m.index
          true).noteFormed))) ∧
  (∀ (s : State) (i : Fin 24) (g : Bytes) (p : Peer), s.group = some g → Tab.get s.net.peers i.val = some p →
    (∀ x ∈ s.ownStrips g, byteAt x.1 0 ≠ i.val) → exec (.peerAbsent i) s = .next { s with net := { s.net with
      peers := Tab.put s.net.peers i.val { p with present := false, excluded := false } } }) ∧
  (∀ (s : State) (g : Bytes), s.group = some g →
    exec .capsTimer s = .next { s with
      out := s.out ++ [.group none 0x01 s.net.txSeq false (s.capsBytes g)]
      net := { s.net with txSeq := s.net.txSeq + 1 } } ∧
    (∀ t p rest, Grp.index g = 0 → (s.enc (Grp.stretch g 0x18 1)).samples = (t, p) :: rest →
      exec .axisTimer s = .next { s with
        out := s.out ++ [.group none 0x02 s.net.txSeq false (natLe 8 (s.storedTb0 t).toNat ++ natLe 8 p.toNat ++
          natLe 1 (s.enc (Grp.stretch g 0x18 1)).dieSt.code)]
        net := { s.net with txSeq := s.net.txSeq + 1 } }) ∧
    (Grp.index g ≠ 0 → exec .axisTimer s = .next s) ∧
    (s.net.anchor.isSome = true → s.net.anchorAt + 10000000 ≤ s.now →
      exec .axisStale s = .next (s.setFlag .netGroupFlags [] 3))) ∧
  (∀ (s : State), s.group = none →
    exec .capsTimer s = .next s ∧ exec .axisTimer s = .next s ∧ exec .axisStale s = .next s) ∧
  (∀ (s : State) (h : GrpHdr) (m : StripMsg) (g : Bytes), s.group = some g → s.grpMatches h = true →
    s.grpSeen h = false →
    let u := (s.noteSeq h).grpAck h
    let mine (k : Nat) := byteAt (Grp.strip g k) 0 = h.sender.toNat ∧ (s.strip k).active = true
    (¬mine 0 → ¬mine 1 → exec (.strip h m) s = .next u) ∧
    (mine 0 → ¬mine 1 → exec (.strip h m) s = .next (u.stripLine g 0 m)) ∧
    (¬mine 0 → mine 1 → exec (.strip h m) s = .next (u.stripLine g 1 m))) ∧
  (∀ (s : State) (g : Bytes) (k : Nat) (m : StripMsg), k < 2 → (s.strip k).expect = some m.lineIndex.toNat →
    s.stream (byteAt (Grp.strip g k) 1) = none → s.stripLine g k m =
      ((s.store (s.stripBase g k + (s.strip k).slots % 2 ^ byteAt (Grp.strip g k) 6 * s.stripSlot g k)
        (padTo (s.stripSlot g k) ((natLe 8 m.lineIndex.toNat ++ natLe 8 m.group.toNat ++ natLe 8 m.tb0.toNat ++
          natLe 1 (b2n m.damaged) ++ natLe 7 0 ++ m.band).take (s.stripSlot g k)))).count .netStripRx [k]).updStrip
        k fun t => { t with expect := some (m.lineIndex.toNat + 1), slots := t.slots + 1 }) ∧
  (∀ (s : State) (k : Fin 2), exec (.stripSeamUpdate k) s = .next ((s.setReg .netStripSeam [k.val]
    (if (s.strip k).elements = 0 then 0
      else min ((s.strip k).sumAbs * 256 / (s.strip k).elements) 0xFFFFFF)).updStrip k fun t =>
        { t with sumAbs := 0, elements := 0 })) ∧
  (∀ (s : State) (h : GrpHdr) (m : HandoffMsg) (g : Bytes), s.group = some g → s.grpMatches h = true →
    let note (u : State) (code : Nat) := (u.setFlag .ledgFlags [] 7).log { notice 12 with
      status := code, arg0 := m.partId, arg1 := n64 h.sender.toNat }
    let u := (s.noteSeq h).grpAck h
    (s.axisAnchor g = none → exec (.handoff h m) s = .next (note s Code.axisInvalid)) ∧
    (∀ a, s.axisAnchor g = some a → s.grpSeen h = false → m.kind = 1 →
      let start := translate m.anchorP m.anchorG m.axisRatio m.axisDistance a.1 a.2 g m.startPos
      (u.handoffPart m start h.sender.toNat = none → exec (.handoff h m) s =
        .next (note u Code.handoffMismatch)) ∧
      (∀ slot p, u.handoffPart m start h.sender.toNat = some (slot, p) →
        (p.undecided = false ∨ u.cutoffBehind p.encoder p.cutoff = true → exec (.handoff h m) s =
          .next (note u Code.handoffLate)) ∧
        (∀ r, p.undecided = true → u.cutoffBehind p.encoder p.cutoff = false → m.source ≠ 2 → m.damaged = false →
          (u.seen p).imgRecord 9 2 p.stream = some r → exec (.handoff h m) s =
          .next (((u.updPart slot fun p => { p with
            views := listUpd p.views m.slot fun v => { v with
              deep := some (m.scores.take (byteAt r 6)), arithDeep := v.arithDeep ||| m.arith }
            groupPeer := if p.groupPeer = 0xFF then h.sender.toNat else p.groupPeer }).recordJoined slot
              0).judge slot).afterDecision))) ∧
    (∀ a, s.axisAnchor g = some a → s.grpSeen h = false → m.kind = 2 →
      (u.partDef m.slot = none → exec (.handoff h m) s = .next (note u Code.handoffMismatch)) ∧
      (u.partDef m.slot ≠ none → exec (.handoff h m) s = .next (u.handoffDecided h m g a)))) ∧
  (∀ (ap ag lp lg : Pos) (d : Int) (g : Bytes) (p : Pos), Grp.stretch g 0x1C 4 = 16777216 → sleAt g 0x20 4 = d →
    translate ap ag 16777216 d lp lg g p = posAdd lp (posSub (posAdd ag (posSub p ap)) lg))

/-- A group launch is offered, answered, released and ended. GROUP_LAUNCH at the leader of a FORMED group reads
the item once and sends it to every member, checks it as a member does and holds the launch; outside such a
group it completes with GROUP_NOT_FORMED, with an item a group launch may not carry with FIELD_RESERVED, and
less than 5,000 counts ahead with LAUNCH_LATE, each with RESULT1 0xFF. A member answers LAUNCH_ITEM with its
check. An answer that refuses ends the launch with its code and the member; the last acceptance more than
1,000 counts ahead sends GO to every member and ends it with OK. GROUP_LAUNCH_DEADLINE ends the earliest
launch with LAUNCH_LATE. -/
def Obligations.GroupLaunches : Prop :=
  (∀ (s : State) (h : Hdr) (a : BitVec 64), s.accepts h true → addrReserved a = false →
    let l := s.launchOf h.launch
    let e := s.load a.toNat 64
    let lead := ∃ g, s.group = some g ∧ Grp.index g = 0 ∧ s.groupState = 2
    let refused (code : Nat) : Res := .next (s.ran h 0x0203 fun c u => u.complete c code 0 0xFF)
    (¬lead → exec (.groupLaunch h a) s = refused Code.groupNotFormed) ∧
    (lead → bufferIn a 64 = false → exec (.groupLaunch h a) s = refused Code.addressUnmapped) ∧
    (lead → bufferIn a 64 = true → s.badIn a.toNat 64 = none →
      (groupItem e = false → exec (.groupLaunch h a) s = refused Code.fieldReserved) ∧
      (groupItem e = true → l < s.launchCounter + 5000 → exec (.groupLaunch h a) s = refused Code.launchLate) ∧
      (groupItem e = true → s.launchCounter + 5000 ≤ l → exec (.groupLaunch h a) s =
        .next (s.ran h 0x0203 fun c u =>
          let v := ((List.range ((s.group.map Grp.size).getD 0)).drop 1).foldl
            (fun t m => t.groupSend (some m) 0x05 (e ++ natLe 8 l) true) u
          let w : State := { v with net := { v.net with launches := v.net.launches ++ [⟨l, e, some c, []⟩] } }
          (w.checkItem e l).1.groupAnswered l 0 (w.checkItem e l).2)))) ∧
  (∀ (s : State) (e : Bytes) (l : Nat), s.time.tb0.st = .listening → s.checkItem e l = (s, Code.timeNotLocked)) ∧
  (∀ (s : State) (g : GrpHdr) (e : Bytes) (l : BitVec 64), s.grpMatches g = true → s.grpSeen g = false →
    let u := s.noteSeq g
    let answer (v : State) (code : Nat) := v.sendAnswer g.sender.toNat g.seq
      (natLe 8 l.toNat ++ natLe 1 code ++ natLe 1 v.time.tb0.st.code)
    (groupItem e = false → exec (.launchItem g e l) s = .next (answer u Code.fieldReserved)) ∧
    (groupItem e = true → exec (.launchItem g e l) s =
      .next (answer (u.checkItem e l.toNat).1 (u.checkItem e l.toNat).2))) ∧
  (∀ (s : State) (g : GrpHdr) (l : BitVec 64) (st pt : Byte) (r : GroupLaunch), s.grpMatches g = true →
    s.grpSeen g = false → s.net.launches = [r] → r.launch = l.toNat →
    let u := (s.noteSeq g).grpAck g
    let u : State := { u with net := { u.net with unacked := u.net.unacked.filter fun m =>
      !(m.peer == g.sender.toNat && m.type == 0x05 && leAt m.payload 64 8 == l.toNat) } }
    (st ≠ 0 → exec (.launchAnswer g l st pt) s = .next (({ u with net := { u.net with launches := [] } } :
      State).answer r.by' st.toNat 0 g.sender.toNat)) ∧
    (st = 0 → ∀ grp, s.group = some grp →
      let acc := (g.sender.toNat :: r.accepted).dedup
      let v : State := { u with net := { u.net with launches := [{ r with accepted := acc }] } }
      ((∃ m, m < Grp.size grp ∧ m ∉ acc) ∨ l.toNat ≤ s.launchCounter + 1000 →
        exec (.launchAnswer g l st pt) s = .next v) ∧
      ((∀ m, m < Grp.size grp → m ∈ acc) → s.launchCounter + 1000 < l.toNat →
        let w := (((List.range (Grp.size grp)).drop 1).foldl
          (fun t m => t.groupSend (some m) 0x07 (natLe 8 l.toNat) true) v).goNow l.toNat
        exec (.launchAnswer g l st pt) s = .next (({ w with net := { w.net with launches := [] } } :
          State).answer r.by' Code.ok 0 0xFF)))) ∧
  (∀ (s : State), s.net.launches = [] → exec .groupLaunchDeadline s = .next s) ∧
  (∀ (s : State) (r : GroupLaunch), s.net.launches = [r] → exec .groupLaunchDeadline s =
    .next (({ s with net := { s.net with launches := [] } } : State).answer r.by' Code.launchLate 0 0xFF))

/-- The switch forwards and learns; addresses are answered. FRAME_FORWARD of at most 9,216 bytes learns its source
while the table of 1,024 has room, and leaves by the ports of its destination in the queue of its priority; a
longer frame is dropped. Between P0 and P1 a transparent clock adds to the correctionField of an event message
what it was held, and to a Sync's the ingress link's delay; what they come to is a free value
(notes/assumptions/153.md). A frame for the die goes to it alone, and a broadcast to every other port.
ADDRESS_AGEING forgets one address. ARP_REQUEST and an unfragmented ICMP_ECHO for the die's address are
answered, and any others are not. A new IP_ADDR loses the sessions of seats 2 and 3. -/
def Obligations.SwitchAndAddresses : Prop :=
  (∀ (s : State) (p : Fin 3) (f : Frame),
    let rest := s.net.macTable.filter fun e => e.1 != f.src
    (9216 < f.bytes → exec (.frameForward p f) s = .next s) ∧
    let u : State := if rest.length < 1024 then { s with net := { s.net with macTable := rest ++ [(f.src, p.val)] } } else s
    (f.bytes ≤ 9216 → f.ptp = none ∨ s.transparent = false ∨ p = 2 → exec (.frameForward p f) s = .next { u with
      out := s.out ++ (u.egress p f).map fun q => .frame q (queueOf f.pcp) f }) ∧
    (∀ e, f.bytes ≤ 9216 → f.ptp = some e → s.transparent = true → p ≠ 2 → (u.egress p f).any (· < 2) = true →
      ∃ held link k : Nat, held < residenceBound f.bytes ∧ (e.sync = false → link = 0) ∧
        exec (.frameForward p f) s = .next { u with
          free := s.free + k
          out := s.out ++ (u.egress p f).map fun q => .frame q (queueOf f.pcp) (if q = 2 then f else
            { f with ptp := some { e with correction := e.correction + n64 (held + link) } }) }) ∧
    (f.dst = Config.macAddress → f.dst ≠ macAll → s.egress p f = if p = 2 then [] else [2]) ∧
    (f.dst = macAll → s.net.noForward = false → ∀ q, q ∈ s.egress p f ↔ q < 3 ∧ q ≠ p.val)) ∧
  (∀ (s : State) (mac : BitVec 48), exec (.addressAgeing mac) s = .next { s with net := { s.net with
    macTable := s.net.macTable.filter fun e => e.1 != mac } }) ∧
  (∀ (s : State) (p : Fin 2) (m : BitVec 48) (ip target : Word) (frag : Bool) (data : Bytes),
    (target = s.ownIp → exec (.arpRequest p m ip target) s = .next (s.emit (.arpReply p m ip)) ∧
      (frag = false → exec (.icmpEcho ip target frag data) s = .next (s.emit (.echoReply ip data)))) ∧
    (target ≠ s.ownIp → exec (.arpRequest p m ip target) s = .next s) ∧
    (target ≠ s.ownIp ∨ frag = true → exec (.icmpEcho ip target frag data) s = .next s)) ∧
  (∀ (s : State) (seat : Fin 4) (v : Word),
    (s.reg .netIpAddr [] = v.toNat → exec (.ipAddr seat v) s = .next s) ∧
    (s.reg .netIpAddr [] ≠ v.toNat → exec (.ipAddr seat v) s =
      .next (((s.setReg .netIpAddr [] v.toNat).disconnect 2 .address).disconnect 3 .address)))

/-! ### Lanes (18_serdes_lanes.md) -/

/-- Lanes align, are trained and tested. LANE_ALIGNED of a lane in normal mode that is not aligned sets SIGNAL,
CDR_LOCK and ALIGNED, and shows the boundary on all but USB4 lanes; one already aligned or in raw mode is left
alone. ALIGNMENT_LOSS sets LANE_ERR bit 0 at a loss of signal or counts 16 code errors, besides a free count,
clears ALIGNED with bit 1, and takes the link of the protocol above with it. COEFFICIENT_REQUEST of a training
Ethernet lane moves one coefficient within its limits and answers; hold frees the next request, and one that
comes before it is ignored. TRAINING_TIMEOUT of a training lane fails with bit 3. The LANE registers of a USB4
lane are not written: each write leaves a notice only. On another lane, LANE_CTRL_MODE enters raw mode, losing
alignment and link, or leaves it, with a notice that names the seat. SLIP moves the raw boundary by one bit
and clears MATCH_CNT; in normal mode it is ignored with a notice. INJECT reaches a locked checker through the
near-end loopback. LOOPBACK takes mode 0, 1 and, but for CoaXPress, 2; a lane that begins to loop back loses
its link (notes/assumptions/171.md). PRBS_CHK newly enabled clears the counts and the lock; PRBS_LOCK locks an
enabled checker; PRBS_LOCK_LOSS counts the 32 errors, unlocks and sets LANE_ERR bit 2. Over how many bits they
fell is a free value. -/
def Obligations.Lanes : Prop :=
  (∀ (s : State) (n : Fin 44) (p : Nat),
    let u := ((s.setFld .laneStatus [n.val] 0 1 1).setFld .laneStatus [n.val] 1 1 1).setFld .laneStatus [n.val] 2 1 1
    (s.laneRaw n = true ∨ s.laneUp n = true → exec (.laneAligned n p) s = .next s) ∧
    (s.laneRaw n = false → s.laneUp n = false →
      (40 ≤ n.val → exec (.laneAligned n p) s = .next u) ∧
      (n.val < 32 → exec (.laneAligned n p) s = .next (u.setFld .laneStatus [n.val] 4 7 (p % 10))) ∧
      (32 ≤ n.val → n.val < 40 → exec (.laneAligned n p) s =
        .next (((u.setFld .laneStatus [n.val] 4 7 (p % 66)).setFld .laneStatus [n.val] 12 4 8).ethUp
          (if n.val < 36 then 0 else 1))))) ∧
  (∀ (s : State) (n : Fin 44),
    let u : State := { s with free := s.free + 1 }
    let d := Config.freeNat s.free % 2 ^ 32
    let drop (t : State) := (if s.laneUp n then (t.setFld .laneStatus [n.val] 2 1 0).setFlag .laneErr [n.val] 1
      else t).laneLink n
    (s.laneRaw n = true → ∀ los, exec (.alignmentLoss n los) s = .next s) ∧
    (s.laneRaw n = false → exec (.alignmentLoss n true) s = .next (drop (((((u.setFlag .laneErr [n.val] 0).setFld
      .laneStatus [n.val] 0 1 0).setFld .laneStatus [n.val] 1 1 0).count .laneCodeErr [n.val] d)))) ∧
    (s.laneRaw n = false → exec (.alignmentLoss n false) s =
      .next (drop ((u.count .laneCodeErr [n.val] 16).count .laneCodeErr [n.val] d)))) ∧
  (∀ (s : State) (n : Nat), (n < 32 → s.laneLink n = s.linkLost n true) ∧
    (32 ≤ n → n < 40 → s.fld .netPortStatus [ethPort n] 0 1 = 0 → s.laneLink n = s) ∧
    (40 ≤ n → s.laneLink n = (s.usb4Lanes (n / 2 % 2) 0).disconnect (n / 2 % 2) .link)) ∧
  (∀ (s : State) (n : Fin 44) (k : Fin 3) (up : Bool), 32 ≤ n.val → n.val < 40 → s.laneRaw n = false →
    s.fld .netPortStatus [ethPort n] 0 1 = 0 →
    let u := (s.setFld .laneTrain [n.val] 0 2 1).setFld .laneTrain [n.val] 16 16
      (min (s.fld .laneTrain [n.val] 16 16 + 1) 0xFFFF)
    let lo := if k = 0 then 0 else if k = 1 then 4 else 10
    let w := if k = 0 then 4 else if k = 1 then 6 else 5
    let v := s.fld .laneTxCoef [n.val] lo w
    let held : State := { u with lanes := Tab.put u.lanes n ⟨true⟩ }
    ((Tab.getD s.lanes n {}).pendingReq = true →
      exec (.coefficientRequest n (.change k up)) s = .next u ∧
      exec (.coefficientRequest n .preset) s = .next u ∧ exec (.coefficientRequest n .initial) s = .next u) ∧
    ((Tab.getD s.lanes n {}).pendingReq = false →
      ((s.fld .laneTrain [n.val] 2 1 = 1 ∨ v = (if up then 2 ^ w - 1 else 0)) →
        exec (.coefficientRequest n (.change k up)) s =
          .next (held.emit (.coefStatus n k (if up then 3 else 2)))) ∧
      (s.fld .laneTrain [n.val] 2 1 = 0 → v ≠ (if up then 2 ^ w - 1 else 0) →
        exec (.coefficientRequest n (.change k up)) s = .next ((held.setFld .laneTxCoef [n.val] lo w
          (if up then v + 1 else v - 1)).emit (.coefStatus n k 1)))) ∧
    exec (.coefficientRequest n .hold) s = .next { u with
      lanes := Tab.del u.lanes n
      out := u.out ++ [.coefStatus n 0 0, .coefStatus n 1 0, .coefStatus n 2 0] }) ∧
  (∀ (s : State) (n : Fin 44),
    (s.fld .laneTrain [n.val] 0 2 = 1 → exec (.trainingTimeout n) s = .next
      { (s.setFld .laneTrain [n.val] 0 2 3).setFlag .laneErr [n.val] 3 with lanes := Tab.del s.lanes n }) ∧
    (s.fld .laneTrain [n.val] 0 2 ≠ 1 → exec (.trainingTimeout n) s = .next s)) ∧
  (∀ (s : State) (seat : Fin 4) (n : Fin 44), 40 ≤ n.val →
    let r : Res := .next (s.log { notice 8 with initiator := seat, arg0 := n64 n.val })
    (∀ m, exec (.laneCtrlMode seat n m) s = r) ∧ exec (.slip seat n) s = r ∧ exec (.inject seat n) s = r ∧
    (∀ m, exec (.loopback seat n m) s = r) ∧ (∀ on, exec (.prbsChk seat n on) s = r)) ∧
  (∀ (s : State) (seat : Fin 4) (n : Fin 44), n.val < 40 →
    let note (u : State) := u.log { notice 8 with initiator := seat, arg0 := n64 n.val }
    (s.laneRaw n = false → exec (.laneCtrlMode seat n true) s =
      .next (note ((s.loseAlign n).setFld .laneCtrl [n.val] 0 1 1))) ∧
    (s.laneRaw n = true → exec (.laneCtrlMode seat n false) s = .next (note (s.setFld .laneCtrl [n.val] 0 1 0))) ∧
    (∀ m, s.laneRaw n = m → exec (.laneCtrlMode seat n m) s = .next s) ∧
    (s.laneRaw n = false → exec (.slip seat n) s = .next (note s)) ∧
    (s.laneRaw n = true → exec (.slip seat n) s = .next ((s.setFld .laneStatus [n.val] 4 7
      ((s.fld .laneStatus [n.val] 4 7 + 1) % (if n.val < 32 then 10 else 66))).setReg .laneMatchCnt [n.val] 0)) ∧
    ((s.fld .laneCtrl [n.val] 3 1 = 1 ∧ s.fld .laneCtrl [n.val] 1 2 = 1 ∧ s.prbsLocked n = true) →
      exec (.inject seat n) s = .next (s.setReg .lanePrbsErr [n.val]
        (min (s.reg .lanePrbsErr [n.val] + 1) 0xFFFFFFFF))) ∧
    (¬(s.fld .laneCtrl [n.val] 3 1 = 1 ∧ s.fld .laneCtrl [n.val] 1 2 = 1 ∧ s.prbsLocked n = true) →
      exec (.inject seat n) s = .next s) ∧
    (∀ m : BitVec 2, (m = 3 ∨ (m = 2 ∧ n.val < 32) → exec (.loopback seat n m) s = .next (note s)) ∧
      (m ≠ 3 → m ≠ 2 ∨ 32 ≤ n.val → exec (.loopback seat n m) s = .next
        (((if m = 0 ∨ s.fld .laneCtrl [n.val] 1 2 = m.toNat then s else s.laneLink n).setFld .laneCtrl [n.val] 1 2
          m.toNat).laneBack n))) ∧
    (s.fld .laneCtrl [n.val] 4 1 = 0 → exec (.prbsChk seat n true) s = .next (((((s.setFld .laneCtrl [n.val] 4 1
      1).setFld .laneStatus [n.val] 3 1 0).setReg .lanePrbsBitsLo [n.val] 0).setReg .lanePrbsBitsHi [n.val]
        0).setReg .lanePrbsErr [n.val] 0)) ∧
    (s.fld .laneCtrl [n.val] 4 1 = 1 → exec (.prbsChk seat n false) s =
      .next ((s.setFld .laneCtrl [n.val] 4 1 0).setFld .laneStatus [n.val] 3 1 0))) ∧
  (∀ (s : State) (n : Fin 44),
    (s.fld .laneCtrl [n.val] 4 1 = 1 → exec (.prbsLock n) s = .next (s.setFld .laneStatus [n.val] 3 1 1)) ∧
    (s.prbsLocked n = true → exec (.prbsLockLoss n) s =
      .next (((({ s with free := s.free + 1 } : State).prbsCount n (32 + Config.freeNat s.free % 993) 32).setFld
        .laneStatus [n.val] 3 1 0).setFlag .laneErr [n.val] 2)) ∧
    (s.prbsLocked n = false → exec (.prbsLockLoss n) s = .next s))

/-! ### The memory controller and the meters (17_memory.md) -/

/-- Scrub, refresh and meters. PATROL_SCRUB of a granule of trained DRAM with the scrub enabled advances
SCRUB_POS; a corrected error sets MEM_ERR bit 0 and is counted in all and for its channel, and an
uncorrectable granule stands in the bad granules and is reported. With the scrub off or memory untrained it
does nothing. REFRESH_RATE_READ of a channel in use shows its rate and whether some channel is hot, which is
the model's reading (notes/assumptions/46.md). LOAD_METER_REFRESH shows one unit's meter, and with the decode
engines' the sample cache in use, and RATE_COUNT_REFRESH shows the counts of the second and begins anew. -/
def Obligations.ScrubAndMeters : Prop :=
  (∀ (s : State) (a : BitVec 40) (ue ce : Bool),
    let g := a.toNat / 64 * 64
    let open' := s.fld .memScrubCfg [] 8 1 = 1 ∧ s.fld .memStatus [] 0 1 = 1 ∧ a.toNat < dramEnd
    let fixed := ((s.setFlag .memErr [] 0).count .memCeCount []).count .memChCe [channelOf g]
    let lost (u : State) := ({ u with mc := { u.mc with bad := g :: u.mc.bad.filter (· != g) } } : State).noteUe g
      true 0x40
    (¬open' → exec (.patrolScrub a ue ce) s = .next s) ∧
    (open' → exec (.patrolScrub a false false) s = .next (s.scrubPos g) ∧
      exec (.patrolScrub a false true) s = .next (fixed.scrubPos g) ∧
      exec (.patrolScrub a true false) s = .next ((lost s).scrubPos g) ∧
      exec (.patrolScrub a true true) s = .next ((lost fixed).scrubPos g)) ∧
    (g + 64 ≠ dramEnd → s.scrubPos g = s.setFld .memScrubPos [] 0 16 ((g + 64) * 10000 / dramEnd))) ∧
  (∀ (s : State) (c : Fin 32) (r : BitVec 3),
    (s.fld .memChStatus [c.val] 0 1 = 0 → exec (.refreshRateRead c r) s = .next s) ∧
    (s.fld .memChStatus [c.val] 0 1 = 1 →
      let u := s.setFld .memChStatus [c.val] 1 3 r.toNat
      ((∃ k, k < 32 ∧ 3 < u.fld .memChStatus [k] 1 3) → exec (.refreshRateRead c r) s =
        .next (u.setFld .memStatus [] 7 1 1)) ∧
      ((∀ k, k < 32 → u.fld .memChStatus [k] 1 3 ≤ 3) → exec (.refreshRateRead c r) s =
        .next (u.setFld .memStatus [] 7 1 0)))) ∧
  (∀ (s : State) (v : Word),
    (∀ p, p < 4 → exec (.loadMeterRefresh p v) s = .next (s.setReg .linePipeLoad [p] (load16 v.toNat 0))) ∧
    (∀ c, c < 4 → exec (.loadMeterRefresh (4 + c) v) s =
      .next (s.setReg .coreLoad [c] (load16 v.toNat 0 + load16 v.toNat 16 * 65536))) ∧
    exec (.loadMeterRefresh 8 v) s = .next ((s.setReg .decLoad [] (load16 v.toNat 0)).setReg .cacheUsed []
      ((s.cap.cache.map CacheEntry.bytes).foldl (· + ·) 0 / 2 ^ 20)) ∧
    exec (.loadMeterRefresh 9 v) s = .next (s.setReg .memBwRead [] v.toNat) ∧
    exec (.loadMeterRefresh 10 v) s = .next (s.setReg .memBwWrite [] v.toNat)) ∧
  (∀ (s : State), ∃ t : State, exec .rateCountRefresh s = .next t ∧
    t.fld .ledgInFlight [] 0 21 = s.liveParts.length % 2 ^ 21 ∧
    t.fld .ledgOpenRate [] 0 18 = min s.ledg.opened (2 ^ 18 - 1) ∧
    t.reg .ejInsertRate [] = min s.motion.inserted 0xFFFFFFFF ∧
    (∀ v : Int, s.ledg.slack = v → -(2 ^ 31) ≤ v → v ≤ 0x7FFFFFFF →
      toSigned 32 (t.reg .ledgSlack []) = v) ∧
    t.ledg = { s.ledg with opened := 0, slack := 0x7FFFFFFF } ∧ t.motion = { s.motion with inserted := 0 } ∧
    { t with regs := s.regs, ledg := s.ledg, motion := s.motion } = s)

/-! ### Seats and rings at work (16_host_interface.md) -/

/-- A seat connects and loses its connection. SEAT_CONNECT of a seat that is not connected, while seats can be
connected, shows the link and its rate and begins a new connection, with the aperture bases at 0.
USB4_LINK_LOSS, HOT_RESET and FUNCTION_LEVEL_RESET of a connected seat disable its rings, clear its status,
discard its completions that wait, forget its interrupts and latches, destroy its contexts, release the image
lock it holds, cancel its training work, leave a warning with the cause and raise INT_STATUS bit 3 of the
other seats. On a seat that is not connected they do nothing. BUS_MASTER_ENABLE on writes the completions that
waited, signals the seat and takes what waits; off only shows. The cause numbers are the model's
(notes/assumptions/43.md). -/
def Obligations.SeatConnections : Prop :=
  (∀ (s : State) (seat : Fin 2) (gen3 : Bool),
    (s.connected seat = false → s.seatsUp seat = true → exec (.seatConnect seat gen3) s = .next
      (((s.setFld .seatStatus [seat.val] 2 2 (if gen3 then 3 else 2)).usb4Lanes seat
        (if gen3 then 10 else 9)).connect seat)) ∧
    (s.connected seat = true ∨ s.seatsUp seat = false → exec (.seatConnect seat gen3) s = .next s)) ∧
  (∀ (s : State) (seat : Nat), seat < 4 → (s.connect seat).connected seat = true ∧
    (s.connect seat).conn seat = s.conn seat + 1 ∧
    ∀ n, n < 4 → (s.connect seat).reg .apBaseLo [seat, n] = 0 ∧ (s.connect seat).reg .apBaseHi [seat, n] = 0) ∧
  (∀ (s : State) (seat : Fin 2),
    (s.connected seat = true → exec (.hotReset seat) s = .next (s.disconnect seat .hotReset) ∧
      exec (.functionLevelReset seat) s = .next (s.disconnect seat .flr) ∧
      exec (.usb4LinkLoss seat) s = .next ((s.usb4Lanes seat 0).disconnect seat .link)) ∧
    (s.connected seat = false → exec (.hotReset seat) s = .next s ∧
      exec (.functionLevelReset seat) s = .next s ∧ exec (.usb4LinkLoss seat) s = .next s)) ∧
  (∀ (s : State) (seat : Nat) (cause : LossCause), s.connected seat = true →
    let u := (List.range 16).foldl (fun s r => s.ringStop seat r) s
    let u := ((u.setFld .seatStatus [seat] 0 1 0).setFld .seatStatus [seat] 2 2 0).setFld .seatStatus [seat] 4 1 0
    let u := (((u.loseHeld seat).dropSignals seat).dropSeatCtxs seat)
    let v := if u.img.lock.any (fun k => k.val == seat) then u.setLock none else u
    s.disconnect seat cause = ((v.detachSeat seat).log { warning 6 with
      initiator := seat, arg0 := n64 cause.code }).raisePeers seat 3) ∧
  (∀ (s : State) (seat ring : Nat), s.ringOn seat ring = true → s.ringStop seat ring =
    (s.setFld .ringCfg [seat, ring] 0 1 0).setFld .ringStatus [seat, ring] 0 2
      (if s.ringOutstanding seat ring = 0 then 0 else 2)) ∧
  (∀ (s : State) (seat : Fin 2), s.connected seat = true →
    exec (.busMasterEnable seat false) s = .next (s.setFld .seatStatus [seat.val] 4 1 0) ∧
    exec (.busMasterEnable seat true) s = .next (
      let u := s.setFld .seatStatus [seat.val] 4 1 1
      let u : State := { u with host := { u.host with
        heldDone := u.host.heldDone.filter fun x => x.1.seat != seat.val } }
      (((s.host.heldDone.filter fun x => x.1.seat == seat.val).foldl (fun s x =>
        (s.writeCqe x.1 x.2.1 x.2.2.1 x.2.2.2).ringSettle seat x.1.ring) u).signalSeat seat).takeAll))

/-- Doorbells, heads, enabling and moderation. SQ_TAIL of an enabled ring, below its size, is stored and what can
be taken is taken, after the host's writes into its own memory; a disabled ring or a tail beyond the size sets
RING_STATUS bit 3 and stores nothing. CQ_HEAD below the size is stored and frees the ring for more; one beyond
it is ignored. Enabling a ring whose bases and size pass the check starts it empty with the phase bit set; one
that fails sets bit 2. Disabling drains it while commands are outstanding. A seat's write into another seat's
registers leaves a notice first. CQ_MOD_TIMER signals an unread completion whose time has passed, and
INTERRUPT_DATAGRAM_INTERVAL sends a held datagram. -/
def Obligations.RingRegisters : Prop :=
  (∀ (s : State) (w seat : Fin 4) (ring : Fin 16) (v : Word), w ≠ seat →
    let u := s.log { notice 6 with initiator := w, arg0 := n64 seat.val }
    exec (.cqHead w seat ring v) s = exec (.cqHead seat seat ring v) u ∧
    exec (.sqTail w seat ring v []) s = exec (.sqTail seat seat ring v []) u) ∧
  (∀ (s : State) (seat : Fin 4) (ring : Fin 16) (v : Word) (ws : List (Nat × Byte)),
    let ix := [seat.val, ring.val]
    let u := if seat.val < 2 then ws.foldl (fun s w => s.hostStore seat w.1 [w.2]) s else s
    (s.ringOn seat ring = true → v.toNat % 65536 < s.ringSize seat ring →
      exec (.sqTail seat seat ring v ws) s = .next (u.setFld .sqTail ix 0 16 v.toNat).takeAll) ∧
    (s.ringOn seat ring = false ∨ s.ringSize seat ring ≤ v.toNat % 65536 →
      exec (.sqTail seat seat ring v ws) s = .next (u.setFlag .ringStatus ix 3))) ∧
  (∀ (s : State), s.entriesWaiting = 0 → s.takeAll = s) ∧
  (∀ (s : State) (k : Nat), s.entriesWaiting = 1 → s.nextTurn = some k →
    s.takeAll = (({ s with host := { s.host with turnPos := (k + 1) % 64 } } : State).takeHead (turnSeat k)
      (turnRing k)).showFull) ∧
  (∀ (s : State) (seat : Fin 4) (ring : Fin 16) (v : Word),
    let ix := [seat.val, ring.val]
    let upTo (t : State) : State := { t with host := { t.host with
      timeUp := t.host.timeUp.filter (· != (seat.val, ring.val)) } }
    (v.toNat % 65536 < s.ringSize seat ring → exec (.cqHead seat seat ring v) s =
      .next ((upTo (s.setFld .cqHead ix 0 16 v.toNat)).resignal seat ring).takeAll) ∧
    (s.ringSize seat ring ≤ v.toNat % 65536 → exec (.cqHead seat seat ring v) s = .next s) ∧
    (s.ringOn seat ring = false → s.fld .ringStatus ix 0 2 ≠ 2 →
      let u := s.setFld .ringCfg ix 1 6 (slice v.toNat 1 6)
      (bit v.toNat 0 = false → exec (.enable seat seat ring v) s = .next u) ∧
      (bit v.toNat 0 = true → u.ringOk seat ring = false → exec (.enable seat seat ring v) s =
        .next (u.setFlag .ringStatus ix 2)) ∧
      (bit v.toNat 0 = true → u.ringOk seat ring = true → exec (.enable seat seat ring v) s =
        .next ((upTo ((((((u.setFld .ringCfg ix 0 1 1).setFld .ringStatus ix 0 2 1).setReg .sqHead ix 0).setReg
          .sqTail ix 0).setReg .cqHead ix 0).setReg .cqTail ix 65536)).resignal seat ring))) ∧
    (s.ringOn seat ring = true → slice v.toNat 1 6 = s.fld .ringCfg ix 1 6 →
      exec (.enable seat seat ring v) s = .next (if bit v.toNat 0 then s else s.ringStop seat ring))) ∧
  (∀ (s : State) (seat : Fin 4) (ring : Fin 16),
    let due := s.fld .cqMod [seat.val, ring.val] 8 16 ≠ 0 ∧ s.unread seat ring ≠ 0
    (due → exec (.cqModTimer seat ring) s = .next (({ s with host := { s.host with
      timeUp := (seat.val, ring.val) :: s.host.timeUp.filter (· != (seat.val, ring.val)) } } : State).signalSeat
        seat)) ∧
    (¬due → exec (.cqModTimer seat ring) s = .next s)) ∧
  (∀ (s : State) (seat : Fin 4),
    let u : State := { s with host := { s.host with spacing := s.host.spacing.filter (· != seat.val) } }
    (seat.val ∈ s.host.intHeld → exec (.interruptDatagramInterval seat) s = .next (u.sendInterrupt seat)) ∧
    (seat.val ∉ s.host.intHeld → exec (.interruptDatagramInterval seat) s = .next u))

/-! ### The Beyholdo protocol (16_host_interface.md) -/

/-- Sessions form, are kept and end. HELLO with a header that does not match, a REQ_SEAT that names no network
seat or a MAX_PAYLOAD below 1,440 or of all ones is discarded and counted, as is a datagram of a session that
does not match (notes/assumptions/47.md). A HELLO for a free seat forms a session with the next session
number, shows the peer, connects the seat, answers HELLO_ACK and signals what is pending already; one for a
seat that another peer holds answers SEAT_BUSY. REQ_SEAT 0xFF takes the lower free seat. BYE ends the session,
as do 1 s of silence and the loss of a datagram sent five times. A separate ACK goes out where one is owed,
KEEPALIVE and ACK bring their acknowledgement only, and the keepalive timer sends one. -/
def Obligations.BeyholdoSessions : Prop :=
  (∀ (s : State) (d : BhHdr) (req : Byte) (mp : BitVec 16), s.seatsUp 2 = true →
    let good := d.magic = 0x4842 ∧ d.version = 1 ∧ d.session = 0 ∧ d.length = 4 ∧ req ∈ [2, 3, 0xFF] ∧
      1440 ≤ mp.toNat ∧ mp.toNat ≠ 0xFFFF
    let limit := min mp.toNat 8960
    (¬good → exec (.hello d req mp) s = .next (s.count .hostBhDrop [])) ∧
    (good → s.helloSeat d req.toNat = none → exec (.hello d req mp) s =
      .next (s.emit (.beyholdo req.toNat d.ip d.port (bhBytes req.toNat 0x02 0 0 0 false (natLe 1 Code.seatBusy ++
        natLe 1 req.toNat ++ natLe 2 limit ++ natLe 4 0 ++ natLe 8 Config.serial.toNat))))) ∧
    (∀ seat, good → s.helloSeat d req.toNat = some seat → s.connected seat = false →
      let id := s.host.nextSession
      let x : Session := { ip := d.ip, port := d.port, id := id, maxPayload := limit, txSeq := 0, rxSeq := 0
                           unacked := [], waiting := [], held := [], ackOwed := false }
      let u : State := { s with host := { s.host with
        sessions := Tab.put s.host.sessions seat x, nextSession := if id = 0xFFFFFFFF then 1 else id + 1 } }
      let u := ((u.setReg .peerIp [seat] d.ip.toNat).setReg .peerPort [seat] d.port.toNat).setReg .session [seat]
        id.toNat
      exec (.hello d req mp) s = .next (((u.connect seat).emit (.beyholdo seat d.ip d.port (bhBytes seat 0x02
        id.toNat 0 0 false (natLe 1 0 ++ natLe 1 seat ++ natLe 2 limit ++ natLe 4 id.toNat ++
          natLe 8 Config.serial.toNat)))).signalSeat seat))) ∧
  (∀ (s : State) (d : BhHdr), (s.seatFree 2 = true → s.helloSeat d 0xFF = some 2) ∧
    (s.seatFree 2 = false → s.seatFree 3 = true → s.helloSeat d 0xFF = some 3) ∧
    (∀ k, (s.seatFree k = true ∨ s.peerOf k d = true) → k ≠ 0xFF → s.helloSeat d k = some k)) ∧
  (∀ (s : State) (d : BhHdr), s.seatsUp 2 = true → Tab.get s.host.sessions d.seat.toNat = none →
    let r : Res := .next (s.count .hostBhDrop [])
    exec (.keepalive d) s = r ∧ exec (.ack d) s = r ∧ exec (.bye d) s = r) ∧
  (∀ (s : State) (d : BhHdr) (x : Session), s.seatsUp 2 = true → Tab.get s.host.sessions d.seat.toNat = some x →
    let good := d.magic = 0x4842 ∧ d.version = 1 ∧ d.session = x.id ∧ d.length = 0
    let u := s.bhAcked d.seat.toNat d.ack.toNat
    (¬good → ∀ i ∈ [Instr.keepalive d, .ack d, .bye d], exec i s = .next (s.count .hostBhDrop [])) ∧
    (good → exec (.keepalive d) s = .next u ∧ exec (.ack d) s = .next u ∧
      exec (.bye d) s = .next (u.disconnect d.seat.toNat .bye))) ∧
  (∀ (s : State) (seat : Fin 4) (x : Session), Tab.get s.host.sessions seat.val = some x →
    (x.ackOwed = true → exec (.bhAckTimer seat) s = .next (s.bhPut seat 0x0E 0 false [])) ∧
    (x.ackOwed = false → exec (.bhAckTimer seat) s = .next s) ∧
    exec (.bhSilence seat) s = .next (s.disconnect seat .silence) ∧
    exec (.bhKeepaliveTimer seat) s = .next { s with
      out := s.out ++ [.beyholdo seat x.ip x.port (bhBytes seat 0x0D x.id.toNat 0 x.rxSeq false [])]
      host := { s.host with sessions := Tab.put s.host.sessions seat.val { x with ackOwed := false } } } ∧
    (x.unacked = [] → exec (.bhRetransmit seat) s = .next s) ∧
    (∀ y rest, x.unacked = y :: rest →
      (5 ≤ y.tries → exec (.bhRetransmit seat) s = .next (s.disconnect seat .retransmission)) ∧
      (y.tries < 5 → exec (.bhRetransmit seat) s = .next ((s.updSession seat fun x => { x with
        unacked := { y with tries := y.tries + 1 } :: rest }).bhPut seat y.type y.seq true y.payload))))

/-- Sequenced datagrams are put in order and performed. SUBMIT, REG_READ, REG_WRITE, MEM_READ and MEM_WRITE of a
session first bring their acknowledgement. One already received is acknowledged again, one more than 64 ahead
is discarded, one ahead is held, and the next in order is performed. SUBMIT puts its entries into the ring at
SQ_TAIL and rings its doorbell, or is refused whole with RING_FULL; REG_READ of 1 to 64 registers answers
their values, and any other count is refused with LENGTH_RANGE, an all-ones one with FIELD_RESERVED; REG_WRITE
writes in ascending address; MEM_READ beyond the payload limit is refused with LENGTH_RANGE, one that touches
control space and is not in fours with ALIGNMENT, and otherwise answers the bytes; MEM_WRITE writes them. Each
of the five completes so for the datagram that is next in order in a session that holds none back. -/
def Obligations.BeyholdoDatagrams : Prop :=
  (∀ (s : State) (i : Instr) (d : BhHdr) (x y : Session),
    ((∃ r es, i = .submit d r es) ∨ (∃ o n, i = .regRead d o n) ∨ (∃ o vs, i = .regWrite d o vs) ∨
      (∃ a n, i = .memRead d a n) ∨ (∃ a b, i = .memWrite d a b)) →
    s.seatsUp 2 = true → Tab.get s.host.sessions d.seat.toNat = some x →
    let seat := d.seat.toNat
    let good := d.magic = 0x4842 ∧ d.version = 1 ∧ d.session = x.id ∧ bhPayload i = some d.length.toNat ∧
      d.length.toNat ≤ x.maxPayload
    let u := s.bhAcked seat d.ack.toNat
    let k := seqAhead d.seq.toNat y.rxSeq
    (¬good → exec i s = .next (s.count .hostBhDrop [])) ∧
    (good → Tab.get u.host.sessions seat = some y →
      (k ≤ 0 → exec i s = .next (u.bhPut seat 0x0E 0 false [])) ∧
      (64 < k → exec i s = .next u) ∧
      (1 < k → k ≤ 64 → (∀ h ∈ y.held, h.1 ≠ d.seq.toNat) → exec i s =
        .next (u.updSession seat fun x => { x with held := x.held ++ [(d.seq.toNat, i)], ackOwed := true })) ∧
      (1 < k → k ≤ 64 → (∃ h ∈ y.held, h.1 = d.seq.toNat) → exec i s = .next (u.bhPut seat 0x0E 0 false [])) ∧
      (k = 1 → y.held = [] → exec i s = .next ((u.updSession seat fun x => { x with
        rxSeq := x.rxSeq + 1, ackOwed := true, held := x.held.filter fun h => seqAhead h.1 x.rxSeq != 1 }).bhPerform
          seat y.maxPayload i)))) ∧
  (∀ (s : State) (d : BhHdr) (x y : Session), s.seatsUp 2 = true →
    Tab.get s.host.sessions d.seat.toNat = some x →
    let seat := d.seat.toNat
    let u := s.bhAcked seat d.ack.toNat
    Tab.get u.host.sessions seat = some y → seqAhead d.seq.toNat y.rxSeq = 1 → y.held = [] →
    d.magic = 0x4842 → d.version = 1 → d.session = x.id → d.length.toNat ≤ x.maxPayload →
    let v := u.updSession seat fun x => { x with rxSeq := x.rxSeq + 1, ackOwed := true, held := [] }
    (∀ (r : Byte) (es : List Bytes), bhPayload (.submit d r es) = some d.length.toNat → r.toNat < 16 →
      v.ringOn seat r.toNat = true →
      let ix := [seat, r.toNat]
      let n := v.ringSize seat r.toNat
      let tail := v.fld .sqTail ix 0 16
      es.length ≤ (v.fld .sqHead ix 0 16 + n - tail - 1) % n → exec (.submit d r es) s = .next
        (((es.zipIdx).foldl (fun t e => t.storeFor seat (v.pair .sqBaseLo .sqBaseHi ix + 64 * ((tail + e.2) % n)) e.1)
          v).doorbell seat seat r.toNat ((tail + es.length) % n))) ∧
    (∀ (o : Word) (n : BitVec 16), d.length = 6 → 0 < n.toNat → n.toNat ≤ 64 → exec (.regRead d o n) s = .next
      ((v.readWords seat o.toNat n.toNat).1.bhSend seat 0x06
        (natLe 4 o.toNat ++ natLe 2 n.toNat ++ (v.readWords seat o.toNat n.toNat).2))) ∧
    (∀ (o : Word) (vs : List Word), d.length.toNat = 6 + 4 * vs.length → vs ≠ [] → vs.length ≤ 64 →
      exec (.regWrite d o vs) s = .next (v.writeWords seat o.toNat (vs.map BitVec.toNat))) ∧
    (∀ (a : BitVec 64) (n : Word), d.length = 12 → n.toNat ≠ 2 ^ 32 - 1 → n.toNat + 16 ≤ y.maxPayload →
      touchesControl a.toNat n.toNat = false → v.badDram a.toNat n.toNat = false →
      exec (.memRead d a n) s = .next ((v.devRead seat a.toNat n.toNat).1.bhSend seat 0x09
        (natLe 8 a.toNat ++ natLe 4 n.toNat ++ (v.devRead seat a.toNat n.toNat).2))) ∧
    (∀ (a : BitVec 64) (data : Bytes), d.length.toNat = 12 + data.length →
      touchesControl a.toNat data.length = false →
      exec (.memWrite d a data) s = .next (v.devWrite seat a.toNat data))) ∧
  (∀ (s : State) (d : BhHdr) (limit : Nat),
    let seat := d.seat.toNat
    let refuse (code : Nat) := s.bhSend seat 0x0C (natLe 4 d.seq.toNat ++ natLe 1 code)
    (∀ (r : Byte) (es : List Bytes),
      let ix := [seat, r.toNat]
      let n := s.ringSize seat r.toNat
      let tail := s.fld .sqTail ix 0 16
      let room := (s.fld .sqHead ix 0 16 + n - tail - 1) % n
      let go := s.bhPerform seat limit (.submit d r es)
      (16 ≤ r.toNat → go = refuse Code.badIndex) ∧
      (r.toNat < 16 → s.ringOn seat r.toNat = true → room < es.length → go = refuse Code.ringFull) ∧
      (r.toNat < 16 → s.ringOn seat r.toNat = true → es.length ≤ room →
        go = ((es.zipIdx).foldl (fun t e => t.storeFor seat (s.pair .sqBaseLo .sqBaseHi ix + 64 * ((tail + e.2) % n)) e.1)
          s).doorbell seat seat r.toNat ((tail + es.length) % n))) ∧
    (∀ (o : Word), s.bhPerform seat limit (.regRead d o 0xFFFF) = refuse Code.fieldReserved) ∧
    (∀ (a : BitVec 64), s.bhPerform seat limit (.memRead d a 0xFFFFFFFF) = refuse Code.fieldReserved) ∧
    (∀ (o : Word) (n : BitVec 16), (n.toNat = 0 ∨ 64 < n.toNat) → n.toNat ≠ 0xFFFF →
      s.bhPerform seat limit (.regRead d o n) = refuse Code.lengthRange) ∧
    (∀ (o : Word), o.toNat % 4 = 0 → s.bhPerform seat limit (.regRead d o 1) =
      (s.ctlRead seat o.toNat).1.bhSend seat 0x06 (natLe 4 o.toNat ++ natLe 2 1 ++
        natLe 4 (s.ctlRead seat o.toNat).2.toNat)) ∧
    (∀ (o : Word) (vs : List Word), vs = [] ∨ 64 < vs.length →
      s.bhPerform seat limit (.regWrite d o vs) = refuse Code.lengthRange) ∧
    (∀ (o v w : Word), o.toNat % 4 = 0 → s.bhPerform seat limit (.regWrite d o [v, w]) =
      (s.ctlWrite seat o.toNat v.toNat).ctlWrite seat (o.toNat + 4) w.toNat) ∧
    (∀ (a : BitVec 64) (n : Word), n.toNat ≠ 2 ^ 32 - 1 →
      (limit < n.toNat + 16 → s.bhPerform seat limit (.memRead d a n) = refuse Code.lengthRange) ∧
      (n.toNat + 16 ≤ limit → touchesControl a.toNat n.toNat = true → (a.toNat % 4 ≠ 0 ∨ n.toNat % 4 ≠ 0) →
        s.bhPerform seat limit (.memRead d a n) = refuse Code.alignment) ∧
      (n.toNat + 16 ≤ limit → touchesControl a.toNat n.toNat = false → s.badDram a.toNat n.toNat = false →
        s.bhPerform seat limit (.memRead d a n) = (s.devRead seat a.toNat n.toNat).1.bhSend seat 0x09
          (natLe 8 a.toNat ++ natLe 4 n.toNat ++ (s.devRead seat a.toNat n.toNat).2))) ∧
    (∀ (a : BitVec 64) (data : Bytes), touchesControl a.toNat data.length = false →
      s.bhPerform seat limit (.memWrite d a data) = s.devWrite seat a.toNat data))

/-! ### The console and the device address space (00_scope.md, 01_device_overview.md, 16_host_interface.md) -/

/-- Control space that no block occupies. A read of an address in control space that no block occupies returns
0x0000_0000. A write to such an address is ignored. Each such access writes a notice record naming the seat
and the address. Stated for the seats' accesses by each command; from 0x200_0000 on no block occupies control
space. -/
def Obligations.UnoccupiedControlSpace : Prop :=
  (∀ (s : State) (seat : Fin 4) (off : BitVec 28) (v : Word), off.toNat % 4 = 0 → regAt off.toNat = none →
    let noted := s.log { notice 6 with initiator := seat, arg0 := n64 (0x3000000000 + off.toNat) }
    let zero : Emission := .readData seat [0, 0, 0, 0]
    exec (.loReadLatch seat off) s = .next (noted.emit zero) ∧
    exec (.registerWrite seat off v) s = .next noted ∧
    exec (.unoccupiedAccess (BitVec.ofNat 8 seat) off false) s = .next (noted.emit zero) ∧
    exec (.unoccupiedAccess (BitVec.ofNat 8 seat) off true) s = .next noted) ∧
  (∀ off : Nat, 0x2000000 ≤ off → regAt off = none)

/-- Control space is read, written, latched and cleared. An access to control space of another width or alignment
has no effect but its notice, and a read returns zeros. A write of a register whose fields are read-write
stores what the fields hold, and a read returns the register, latching the partner of a _LO register for the
seat; the latched _HI value is then read once. Writing 1 to a flag clears it, and writing 0 leaves it; a flag
that the hardware sets at the same time reads 1 and counts. -/
def Obligations.ControlSpaceAccess : Prop :=
  (∀ (s : State) (who : Byte) (off : BitVec 28) (n : Nat), n ≠ 4 ∨ off.toNat % 4 ≠ 0 →
    let noted := s.ctlNotice who.toNat off.toNat
    exec (.unalignedAccess who off n true) s = .next noted ∧
    exec (.unalignedAccess who off n false) s = .next (noted.emit (.readData who.toNat (List.replicate n 0)))) ∧
  (∀ (s : State) (seat : Fin 4) (off : BitVec 28) (v w : Word), off.toNat % 4 ≠ 0 →
    exec (.registerWrite seat off v) s = .next (s.ctlNotice seat off.toNat) ∧
    exec (.w1cClear seat off v w) s = .next (s.ctlNotice seat off.toNat)) ∧
  (∀ (s : State) (seat n : Fin 4) (v : Word), ∃ t : State,
    exec (.registerWrite seat (BitVec.ofNat 28 (RN.off .tbStepLo [n.val])) v) s = .next t ∧
    t.reg .tbStepLo [n.val] = v.toNat ∧
    (∀ (q : RN) (jx : List Nat), q.off jx ≠ RN.tbStepLo.off [n.val] → t.stored q jx = s.stored q jx) ∧
    { t with regs := s.regs, host := s.host } = s) ∧
  (∀ (s : State) (seat : Fin 4) (j : Fin 8),
    let lo := RN.off .libNextLo [j.val]
    let hi := RN.off .libNextHi [j.val]
    s.latchOf seat lo = none → ∃ t : State, exec (.loReadLatch seat (BitVec.ofNat 28 lo)) s = .next t ∧
      t.out = s.out ++ [.readData seat (natLe 4 (s.view .libNextLo [j.val]).toNat)] ∧
      t.latchOf seat hi = some (s.view .libNextHi [j.val]) ∧ { t with host := s.host, out := s.out } = s) ∧
  (∀ (s : State) (seat : Fin 4) (j : Fin 8) (v : Word),
    let hi := RN.off .libNextHi [j.val]
    s.latchOf seat hi = some v → exec (.loReadLatch seat (BitVec.ofNat 28 hi)) s =
      .next ((s.unlatch seat hi).emit (.readData seat (natLe 4 v.toNat)))) ∧
  (∀ (s : State) (seat n : Fin 4) (v : Word) (b : Nat), ∃ t : State,
    exec (.w1cClear seat (BitVec.ofNat 28 (RN.off .tbStatus [n.val])) v 0) s = .next t ∧
    ((b = 3 ∨ b = 4) → t.flag .tbStatus [n.val] b = (s.flag .tbStatus [n.val] b && !bit v.toNat b)) ∧
    (∀ (q : RN) (jx : List Nat), q.off jx ≠ RN.tbStatus.off [n.val] → t.stored q jx = s.stored q jx) ∧
    { t with regs := s.regs, host := s.host } = s) ∧
  (∀ (s : State) (seat n : Fin 4) (v w : Word), bit w.toNat 3 = true → ∃ t : State,
    exec (.w1cClear seat (BitVec.ofNat 28 (RN.off .tbStatus [n.val])) v w) s = .next t ∧
    t.flag .tbStatus [n.val] 3 = true)

/-- Device addresses through an aperture, in staging and unmapped. BAR2_ACCESS of a connected seat reads or writes
the device address its aperture base, aligned to 1 MiB, and the offset give; a seat that is not connected does
nothing. Within a page of 4 KiB, a read of good DRAM outside the regions whose content is opaque returns the
bytes, and a write of DRAM stores exactly its bytes, recorded where the device uses the region and noted where
it is the staging half. STAGING_WRITE so writes at the staging half's base. An access to nothing reads zeros,
ignores a write and leaves a warning ADDRESS_UNMAPPED. -/
def Obligations.DeviceAccess : Prop :=
  (∀ (s : State) (seat : Fin 2) (n : Fin 4) (o : BitVec 30) (x : Access),
    let a := s.pair .apBaseLo .apBaseHi [seat.val, n.val] / 2 ^ 20 * 2 ^ 20 + o.toNat
    (s.connected seat = false → exec (.bar2Access seat n o x) s = .next s) ∧
    (s.connected seat = true → exec (.bar2Access seat n o x) s = .next (s.devAccess seat a x)) ∧
    (∀ k, s.connected seat = true → x = .read k → s.placeNow a = .dram → touchesControl a k = false →
      a % 4096 + k ≤ 4096 → s.badIn a k = none → s.opaqueAt a = false → exec (.bar2Access seat n o x) s =
      .next (s.emit (.readData seat (s.load a k)))) ∧
    (∀ d : Bytes, s.connected seat = true → x = .write d → s.placeNow a = .dram → touchesControl a d.length = false →
      d ≠ [] → a % 4096 + d.length ≤ 4096 → exec (.bar2Access seat n o x) s =
      .next (((s.usedNote seat a).watchStaging seat a d.length).store a d))) ∧
  (∀ (s : State) (seat : Fin 4) (o : BitVec 33) (d : Bytes),
    let a := halfBase s.stagingHalf + o.toNat
    s.placeNow a = .dram → touchesControl a d.length = false → d ≠ [] → a % 4096 + d.length ≤ 4096 →
    exec (.stagingWrite seat o d) s =
      .next (((s.usedNote seat a).watchStaging seat a d.length).store a d)) ∧
  (∀ (s : State) (who : Byte) (a : BitVec 64),
    let noted := s.unmappedNote who.toNat a.toNat
    (s.placeNow a.toNat = .unmapped →
      (∀ n, exec (.unmappedAccess who a (.read n)) s =
        .next (noted.emit (.readData who.toNat (List.replicate n 0)))) ∧
      (∀ d, exec (.unmappedAccess who a (.write d)) s = .next noted)) ∧
    (s.placeNow a.toNat ≠ .unmapped → ∀ x, exec (.unmappedAccess who a x) s = .next s))

/-- The recovery console. STATUS answers the state, the cause, the boot attempts and the firmware version. EVENTS
answers the newest 1 to 1,024 records, and another number with LENGTH_RANGE. PEEK and POKE reach control space
only: elsewhere they answer ADDRESS_UNMAPPED, and unaligned ALIGNMENT. POKE is recorded. OPTIONS answers the
copies of the option record. FWLOAD checks a file and holds it to be written, or answers FIRMWARE_INVALID.
RESET answers OK and is a software die reset. The lines of the replies are the model's
(notes/assumptions/48.md). -/
def Obligations.Console : Prop :=
  (∀ (s : State), exec .status s = .next { s with out := s.out ++ [.console ["STATE " ++ hexDigits 8
    (s.view .glbState []).toNat, "CAUSE " ++ dec 1 s.backup.cause, "BOOTS " ++ dec 1 s.backup.attempts,
    "FIRMWARE " ++ hexDigits 8 (s.view .glbFwVersion []).toNat, "OK"]] }) ∧
  (∀ (s : State) (n : Nat), (n = 0 ∨ 1024 < n → exec (.events n) s =
      .next { s with out := s.out ++ [.console ["ERR " ++ hexDigits 2 Code.lengthRange]] }) ∧
    (0 < n → n ≤ 1024 → exec (.events n) s = .next { s with
      out := s.out ++ [.console (((s.newestRecs.take n).reverse.map fun r => hexBytes r.2) ++ ["OK"])] })) ∧
  (∀ (s : State) (a : BitVec 40) (v : Word),
    let off := a.toNat - 0x3000000000
    let noted := s.log { info 0x21 with initiator := consoleInit, arg0 := n64 a.toNat, arg1 := n64 v.toNat }
    (touchesControl a.toNat 4 = false → exec (.peek a) s = .next (s.sayErr Code.addressUnmapped) ∧
      exec (.poke a v) s = .next (s.sayErr Code.addressUnmapped)) ∧
    (touchesControl a.toNat 4 = true → a.toNat % 4 ≠ 0 →
      exec (.peek a) s = .next ((s.ctlNotice consoleInit off).sayErr Code.alignment) ∧
      exec (.poke a v) s = .next ((s.ctlNotice consoleInit off).sayErr Code.alignment)) ∧
    (touchesControl a.toNat 4 = true → a.toNat % 4 = 0 →
      exec (.peek a) s = .next ((s.ctlRead consoleInit off).1.say
        [hexDigits 8 (s.ctlRead consoleInit off).2.toNat]) ∧
      exec (.poke a v) s = .next ((noted.ctlWrite consoleInit off v.toNat).say []))) ∧
  (∀ (s : State), exec .options s = .next (s.say (s.flash.options.map hexBytes))) ∧
  (∀ (s : State) (f : Bytes),
    let g := f.take (Fw.length f)
    (16777216 < f.length → exec (.fwload f) s = .next (s.sayErr Code.lengthRange)) ∧
    (f.length ≤ 16777216 → Fw.valid g = true → ∃ t, exec (.fwload f) s = .next { t with
      boot := { t.boot with fwStore := s.boot.fwStore ++ [(none, g)] } } ∧ t = s.noteSig true) ∧
    (f.length ≤ 16777216 → Fw.valid g = false → exec (.fwload f) s =
      .next ((if Fw.formOk g then s.noteSig false else s).sayErr Code.firmwareInvalid))) ∧
  (∀ (s : State), exec .reset s = .next (({ s.say [] with free := s.free + 1 } : State).swReset consoleInit
    0xA5000001 (Config.freeNat s.free % 2 == 1)))

/-! ### Security (22_security.md) -/

/-- Keys, certificate, attestation and firmware. KEY_LOAD of a well-formed key block whose hash the enrolled slot
has puts it into that slot and completes with OK; one that is not well formed completes with KEY_FORMAT,
another hash or a slot not enrolled with IMAGE_KEY. KEY_ENROL refuses, with SEC_FLAGS bit 1, first a record
not well formed with KEY_FORMAT, then a wrong EPOCH with KEY_SEQUENCE, then a signer that may not sign with
KEY_AUTHORITY, then a missing key with KEY_MISSING, then a bad signature, then a commit in progress with
OPTION_BUSY; otherwise it takes effect. CERT_READ copies the certificate, and ATTEST writes the report with
its signature and counts it. The certificate and the signature are free values. FIRMWARE_STORE of a valid file
of at most 16 MiB holds it to be written, and completes when FIRMWARE_STORE_DONE ends the write: with OK and
the file in flash where it reads back, and with FIRMWARE_INVALID and firmware that fails otherwise, which is
the model's reading (notes/assumptions/51.md). A file that is not valid completes with FIRMWARE_INVALID at
once, and a longer one with LENGTH_RANGE. -/
def Obligations.KeysAndFirmware : Prop :=
  (∀ (s : State) (h : Hdr) (slot : Byte) (a : BitVec 64), s.accepts h false true → addrReserved a = false →
    let b := s.load a.toNat 1024
    let o := s.boot.option
    let mine := Keys.enrolled o slot.toNat = true ∧ keyHash b = Keys.hash o slot.toNat
    let done (code : Nat) : Res := .next (s.ran h 0x0701 fun c u => u.complete c code)
    (4 ≤ slot.toNat → exec (.keyLoad h slot a) s = done Code.badIndex) ∧
    (slot.toNat < 4 → bufferIn a 1024 = true → s.badIn a.toNat 1024 = none →
      (keyBlockOk b = false → exec (.keyLoad h slot a) s = done Code.keyFormat) ∧
      (keyBlockOk b = true → ¬mine → exec (.keyLoad h slot a) s = done Code.imageKey) ∧
      (keyBlockOk b = true → mine → exec (.keyLoad h slot a) s = .next (s.ran h 0x0701 fun c u =>
        ({ u with sec := { u.sec with keyRam := Tab.put u.sec.keyRam slot.toNat b } } : State).complete c
          Code.ok)))) ∧
  (∀ (s : State) (h : Hdr) (a : BitVec 64), s.accepts h false true → addrReserved a = false → bufferIn a 1664 = true →
    s.badIn a.toNat 1664 = none →
    let r := s.load a.toNat 1664
    let o := s.boot.option
    let wrong := Enrol.epoch r ≠ Keys.epoch o (Enrol.target r) + 1 ∨ Enrol.epoch r = 0xFFFFFFFF
    let refused (code : Nat) (f : State → State) : Res :=
      .next (s.ran h 0x0702 fun c u => ((f u).setFlag .secFlags [] 1).complete c code)
    (Enrol.wellFormed r = false → exec (.keyEnrol h a) s = refused Code.keyFormat id) ∧
    (Enrol.wellFormed r = true → wrong → exec (.keyEnrol h a) s = refused Code.keySequence id) ∧
    (Enrol.wellFormed r = true → ¬wrong →
      (Enrol.permitted o r = false → exec (.keyEnrol h a) s = refused Code.keyAuthority id) ∧
      (Enrol.permitted o r = true → s.enrolKey r = none → exec (.keyEnrol h a) s = refused Code.keyMissing id) ∧
      (∀ key, Enrol.permitted o r = true → s.enrolKey r = some key →
        let ok := trailerOk key (Enrol.message r) (Enrol.trailer r)
        (ok = false → exec (.keyEnrol h a) s = refused Code.imageSignature fun u => u.noteSig false) ∧
        (ok = true → s.boot.commit.isSome = true → exec (.keyEnrol h a) s =
          refused Code.optionBusy fun u => u.noteSig true) ∧
        (ok = true → s.boot.commit = none → exec (.keyEnrol h a) s =
          .next (s.ran h 0x0702 fun c u => (u.noteSig true).enrolNow c r))))) ∧
  (∀ (o r : Bytes), Enrol.permitted o r = true → Enrol.target r = 0 → Enrol.signer r = 0x20) ∧
  (∀ (s : State) (h : Hdr) (a n : BitVec 64), s.accepts h false true → addrReserved a = false → allOnes64 n = false →
    (n.toNat < Config.certificate.length → exec (.certRead h a n) s =
      .next (s.ran h 0x0703 fun c u => u.complete c Code.lengthRange)) ∧
    (Config.certificate.length ≤ n.toNat → bufferIn a Config.certificate.length = true →
      exec (.certRead h a n) s = .next (s.ran h 0x0703 fun c u =>
        (u.storeFor c.seat a.toNat Config.certificate).complete c Code.ok Config.certificate.length))) ∧
  (∀ (s : State) (h : Hdr) (nonce : BitVec 256) (a : BitVec 64), s.accepts h false true → addrReserved a = false →
    bufferIn a 848 = true → exec (.attest h nonce a) s = .next (s.ran h 0x0704 fun c u =>
      let sig := bytesAt (Config.identitySign u.free (sha512 (u.report848 nonce))) 0 512
      (((({ u with free := u.free + 1 } : State).count .secAttestCount []).storeFor c.seat a.toNat
        (u.report848 nonce ++ sig)).complete c Code.ok))) ∧
  (∀ (s : State) (h : Hdr) (a n : BitVec 64), s.accepts h false true → addrReserved a = false → allOnes64 n = false →
    let b := s.load a.toNat n.toNat
    let f := b.take (Fw.length b)
    (16777216 < n.toNat → exec (.firmwareStore h a n) s =
      .next (s.ran h 0x0801 fun c u => u.complete c Code.lengthRange)) ∧
    (n.toNat ≤ 16777216 → bufferIn a n.toNat = true → s.badIn a.toNat n.toNat = none →
      (Fw.valid f = false → exec (.firmwareStore h a n) s =
        .next (s.ran h 0x0801 fun c u => (if Fw.formOk f then u.noteSig false else u).complete c Code.firmwareInvalid)) ∧
      (Fw.valid f = true → exec (.firmwareStore h a n) s = .next (s.ran h 0x0801 fun c u =>
        { u.noteSig true with boot := { u.boot with fwStore := u.boot.fwStore ++ [(some c, f)] } })))) ∧
  (∀ (s : State) (c : CmdRef) (f : Bytes) (rest : List (Option CmdRef × Bytes)),
    s.boot.fwStore = (some c, f) :: rest →
    exec (.firmwareStoreDone true) s = .next (({ s with boot := { s.boot with fwStore := rest }
                                                        flash := { s.flash with firmware := f } } :
      State).complete c Code.ok) ∧
    exec (.firmwareStoreDone false) s = .next (({ s with boot := { s.boot with fwStore := rest }
                                                         flash := { s.flash with firmware := [] } } :
      State).complete c Code.firmwareInvalid)) ∧
  (∀ (s : State) (ok : Bool), s.boot.fwStore = [] → exec (.firmwareStoreDone ok) s = .next s)

/-! ### Libraries, decoding and training (13_capture_and_decode.md, 14_fine_tuning_and_shadow.md) -/

/-- Crops are coded into libraries, and samples are decoded and delivered. LIBRARY_ATTACH attaches or detaches a
host library through its own seat, and refuses other libraries and sizes. A coded crop goes into its library's
ring and index, or is abandoned with its capture flag: DETACHED where the library is, or while its host's Bus
Master Enable is 0. SAMPLE_DECODE adds a request to the seat's decode stream. A decode whose cycles stay below
its budget takes its engine, its end stamp and its outcome, decoded or from the cache, or SAMPLE_GONE where
its entry has changed; one that reaches its budget ends with DECODE_TIMEOUT at that budget, with an MCU and a
byte offset that are free values. A seat's sample is delivered in its order, written and answered. FLUSH
empties the cache. That an attach of another seat's library gives BAD_INDEX is the model's choice
(notes/assumptions/58.md), and so is the cycle count of a decode (notes/assumptions/57.md). -/
def Obligations.LibrariesAndDecoding : Prop :=
  (∀ (s : State) (h : Hdr) (k : Byte) (a n : BitVec 64) (l : Library), s.accepts h false → allOnes64 n = false →
    (s.takes h 0x0601).1.lib k.toNat = some l →
    (Lib.inHost l.cfg = true → byteAt l.cfg 5 = h.seat → h.seat.val < 2 →
      (n = 0 → exec (.libraryAttach h k a n) s = .next (s.ran h 0x0601 fun c u =>
        (u.detachLib k.toNat).complete c Code.ok)) ∧
      (n.toNat % 65536 = 0 → 1048576 ≤ n.toNat → exec (.libraryAttach h k a n) s = .next (s.ran h 0x0601 fun c u =>
        (((u.updLib k.toNat fun l => { l with host := some (c.seat, a.toNat, n.toNat) }).libSettle k.toNat).log
          { info adaptSource with initiator := c.seat, arg0 := n64 k.toNat }).complete c Code.ok)) ∧
      (n ≠ 0 → n.toNat % 65536 ≠ 0 ∨ n.toNat < 1048576 → exec (.libraryAttach h k a n) s =
        .next (s.ran h 0x0601 fun c u => u.complete c Code.lengthRange))) ∧
    (Lib.inHost l.cfg = false ∨ byteAt l.cfg 5 ≠ h.seat → exec (.libraryAttach h k a n) s =
      .next (s.ran h 0x0601 fun c u => u.complete c Code.badIndex))) ∧
  (∀ (s : State) (c : Crop) (q : List Crop) (l : Library) (p : Part), s.cap.waiting = c :: q →
    s.lib c.library = some l → s.part c.slot = some p →
    (s.libReach l = false → exec .cropEncoded s = .next (s.abandonWith c.id 3).settleParts) ∧
    (s.libReach l = true → ∀ (u : State) (planes : List (List (List Nat))) (twelve damaged : Bool),
      s.cropPlanes c (Lib.shift16 l.cfg) = (u, planes, twelve, damaged) →
      let data := jpegEncode (Lib.quality l.cfg) twelve planes
      let v := u.libSettle c.library
      (Lib.maxSample l.cfg < data.length ∨ (Lib.stopsFull l.cfg = false ∧ l.size < data.length) →
        exec .cropEncoded s = .next (u.abandonWith c.id 1).settleParts) ∧
      (data.length ≤ Lib.maxSample l.cfg → (Lib.stopsFull l.cfg = true ∨ data.length ≤ l.size) →
        (v.libFits c.library data.length = true → exec .cropEncoded s =
          .next (v.putSample c p c.library data planes.length twelve damaged).settleParts) ∧
        (v.libFits c.library data.length = false → Lib.stopsFull l.cfg = true →
          exec .cropEncoded s = .next (v.abandonWith c.id 2).settleParts)))) ∧
  (∀ (s : State) (c : Crop) (p : Part) (k : Nat) (data : Bytes) (comps : Nat) (twelve damaged : Bool) (l : Library),
    s.lib k = some l →
    s.putSample c p k data comps twelve damaged =
      ((((((s.ringWrite l l.wr data).store (l.entryAddr l.next)
        (sampleEntry c p l.next l.wr data.length comps twelve damaged)).updLib k fun l => { l with
          next := l.next + 1, wr := (l.wr + data.length) % max 1 l.size }).libSettle k).count .capCount []).updPart
        c.slot fun p => { p with captured := true }).dropCrop c.id) ∧
  (∀ (s : State) (h : Hdr) (k : Byte) (sample a : BitVec 64) (n : Word), s.accepts h false →
    addrReserved a = false → n.toNat ≠ 2 ^ 32 - 1 →
    let u := (s.takes h 0x0602).1
    let d := 32 + h.seat.val
    (u.lib k.toNat = none → exec (.sampleDecode h k sample a n) s = .next (s.ran h 0x0602 fun c u =>
      u.complete c Code.badIndex)) ∧
    ((u.lib k.toNat).isSome = true → bufferIn a n.toNat = false → exec (.sampleDecode h k sample a n) s =
      .next (s.ran h 0x0602 fun c u => u.complete c Code.addressUnmapped)) ∧
    ((u.lib k.toNat).isSome = true → bufferIn a n.toNat = true → exec (.sampleDecode h k sample a n) s =
      .next (s.ran h 0x0602 fun c u => (u.request d k.toNat sample.toNat (u.decStream d).nextIndex (some c) a.toNat
        n.toNat u.img.detMode).settleDec d))) ∧
  (∀ (s : State) (n : Fin 36) (r : DecReq) (l : Library), (s.decStream n).waiting = some r → r.early = none →
    s.lib r.library = some l →
    (∀ e u now, s.cacheHit r = some e → ((s.cacheSample e).count .cacheHits []).libEntry l r.sample = (u, now) →
      e.cycles < s.budgetOf (s.decStream n) (lowestStamp (s.decStream n).stamps).1 e.mcus →
      exec (.decodeComplete n) s = .next ((u.settleReq n r (if now ≠ r.entry then { code := Code.sampleGone } else
        { code := e.outcome, lostMcu := e.lostMcu, lostByte := e.lostByte, lostCount := e.lostCount, mcus := e.mcus
          planes := e.planes, bits12 := e.bits12 }) e.cycles).settleDec n)) ∧
    (s.cacheHit r = none → s.libReach l = true → ∀ (u v : State) (data : Bytes) (e : Bytes),
      s.ringRead l (LEntry.offset r.entry) (LEntry.length r.entry) = (u, data) → u.libEntry l r.sample = (v, e) →
      Config.decodeCycles data < u.budgetOf (u.decStream n) (lowestStamp (u.decStream n).stamps).1
        (decodeBytes data s.decLimits.1 s.decLimits.2.1).mcus →
      (e ≠ r.entry → exec (.decodeComplete n) s =
        .next ((v.settleReq n r { code := Code.sampleGone } (Config.decodeCycles data)).settleDec n)) ∧
      (e = r.entry → r.mayCache = false → exec (.decodeComplete n) s =
        .next ((v.settleReq n r (decodeBytes data s.decLimits.1 s.decLimits.2.1) (Config.decodeCycles data)).settleDec
          n)))) ∧
  (∀ (s : State) (n : Nat) (r : DecReq) (o : Outcome') (cycles : Nat),
    let d := s.decStream n
    let start := (lowestStamp d.stamps).1
    let e := (lowestStamp d.stamps).2
    let t := s.settleReq n r o cycles
    (t.decStream n).stamps = d.stamps.set e (start + cycles) ∧
    (t.decStream n).hist = (if o.code = Code.ok ∨ o.code = Code.decodeDamaged then
      d.hist ++ [(start + cycles, cycles, o.mcus)] else d.hist) ∧
    (∀ q ∈ (t.decStream n).reqs, q.position = r.position → q.outcome = some o.code ∧ q.stop = start + cycles ∧
      q.engine = e ∧ q.planes = o.planes)) ∧
  (∀ (s : State) (n : Fin 36) (r : DecReq) (l : Library), (s.decStream n).waiting = some r → r.early = none →
    s.lib r.library = some l → ∀ (u : State) (data : Bytes),
    s.ringRead l (LEntry.offset r.entry) (LEntry.length r.entry) = (u, data) →
    let j := readJpeg data
    let mcus := if (j.refused s.decLimits.1 s.decLimits.2.1).isSome then 0 else j.mcus.1 * j.mcus.2.1
    let m := u.draw (max 1 mcus)
    let b := m.2.draw (max 1 (LEntry.length r.entry))
    let budget := u.budgetOf (u.decStream n) (lowestStamp (u.decStream n).stamps).1 mcus
    s.cacheHit r = none →
    (budget ≤ Config.decodeCycles data →
      exec (.decodeTimeout n) s = .next ((b.2.settleReq n r
        { code := Code.decodeTimeout, lostMcu := m.1, lostByte := b.1, mcus := mcus } budget).settleDec n) ∧
      (s.libReach l = true → exec (.decodeComplete n) s = exec (.decodeTimeout n) s)) ∧
    (Config.decodeCycles data < budget → exec (.decodeTimeout n) s = .next (u.settleDec n))) ∧
  (∀ (s : State) (n : Fin 36), (s.decStream n).next = none → exec (.sampleDelivery n) s = .next s) ∧
  (∀ (s : State) (n : Fin 36) (r : DecReq) (q : List DecReq), (s.decStream n).reqs = r :: q → r.delivered = false →
    r.det = true → (s.decStream n).next = if r.outcome.isSome then some r else none) ∧
  (∀ (s : State) (n : Fin 36) (r : DecReq) (code : Nat), (s.decStream n).next = some r → 32 ≤ n.val →
    r.outcome = some code →
    let t := s.markDelivered n r 0
    let u := t.setDec n { t.decStream n with reqs := (t.decStream n).reqs.filter fun x => !x.delivered }
    let r0 := r.lostMcu + r.lostByte * 2 ^ 32
    exec (.sampleDelivery n) s = .next (
      if skipped code then u.answer r.by' code r0 r.lostCount
      else if r.outBytes < (planeBytes r).length then u.answer r.by' Code.lengthRange
      else (u.storeFor (initiatorOf r.by') r.outAddr (planeBytes r)).answer r.by' code r0 r.lostCount)) ∧
  (∀ (s : State) (seat : Fin 4), ∃ t : State, exec (.flush seat) s = .next t ∧ t.cap.cache = [] ∧
    { t with cap := { t.cap with cache := s.cap.cache, streams := s.cap.streams } } = s ∧
    ∀ n, (t.decStream n).stamps = (s.decStream n).stamps ∧ (t.decStream n).hist = (s.decStream n).hist ∧
      ∀ q ∈ (t.decStream n).reqs, q.mayCache = false ∨ q ∈ (s.decStream n).reqs)

/-- Training jobs are started, paused, stopped, saved and restored. A training command on a defined job in a state
that takes it changes the job's state and completes with OK; in another state it completes with TRAIN_STATE,
and on a job that no record defines with BAD_INDEX. A started job has fresh masters and the overlay generation
of now, and keeps what it was asked to publish. A checkpoint is taken at a step boundary and written as a
record. An epoch starts with its sample set once the set has BATCH samples, and waits otherwise. A delivered
sample that is skipped contributes nothing. -/
def Obligations.TrainingJobs : Prop :=
  (∀ (s : State) (h : Hdr) (job : Byte), s.accepts h false → job.toNat < 32 →
    let j := job.toNat
    (((s.takes h 0x0603).1.trainRec j).isSome = true →
      ([.idle, .done, .stopped].contains ((s.takes h 0x0603).1.trainJob j).st = true → exec (.trainStart h job) s =
        .next (s.ran h 0x0603 fun c u => (u.startTrain j).complete c Code.ok)) ∧
      ([.idle, .done, .stopped].contains ((s.takes h 0x0603).1.trainJob j).st = false → exec (.trainStart h job) s =
        .next (s.ran h 0x0603 fun c u => u.complete c Code.trainState))) ∧
    (((s.takes h 0x0603).1.trainRec j).isSome = false → exec (.trainStart h job) s =
      .next (s.ran h 0x0603 fun c u => u.complete c Code.badIndex)) ∧
    (((s.takes h 0x0604).1.trainRec j).isSome = true →
      (((s.takes h 0x0604).1.trainJob j).st = .running → exec (.trainPause h job) s =
        .next (s.ran h 0x0604 fun c u => (u.updTrain j fun t => { t with st := .paused }).complete c Code.ok)) ∧
      (((s.takes h 0x0604).1.trainJob j).st ≠ .running → exec (.trainPause h job) s =
        .next (s.ran h 0x0604 fun c u => u.complete c Code.trainState))) ∧
    (((s.takes h 0x0605).1.trainRec j).isSome = true →
      (((s.takes h 0x0605).1.trainJob j).st = .paused → exec (.trainResume h job) s =
        .next (s.ran h 0x0605 fun c u =>
          ((u.updTrain j fun t => { t with st := .running }).pumpTrain j).complete c Code.ok)) ∧
      (((s.takes h 0x0605).1.trainJob j).st ≠ .paused → exec (.trainResume h job) s =
        .next (s.ran h 0x0605 fun c u => u.complete c Code.trainState))) ∧
    (((s.takes h 0x0606).1.trainRec j).isSome = true →
      (((s.takes h 0x0606).1.trainJob j).st ≠ .idle → exec (.trainStop h job) s =
        .next (s.ran h 0x0606 fun c u => (u.stopTrain j 0x73).complete c Code.ok)) ∧
      (((s.takes h 0x0606).1.trainJob j).st = .idle → exec (.trainStop h job) s =
        .next (s.ran h 0x0606 fun c u => u.complete c Code.trainState))) ∧
    (∀ (a n : BitVec 64), addrReserved a = false → allOnes64 n = false → bufferIn a n.toNat = true →
      let u := (s.takes h 0x0607).1
      ∀ r, u.trainRec j = some r → (u.trainJob j).checkpoint = none →
      ((u.trainJob j).st = .running ∨ (u.trainJob j).st = .paused → exec (.trainCheckpoint h job a n) s =
        .next (s.ran h 0x0607 fun c u => (u.updTrain j fun t =>
          { t with checkpoint := some (c, a.toNat, n.toNat) }).checkBoundary j (Trn.batch r))) ∧
      ((u.trainJob j).st ≠ .running → (u.trainJob j).st ≠ .paused → exec (.trainCheckpoint h job a n) s =
        .next (s.ran h 0x0607 fun c u => u.complete c Code.trainState))) ∧
    (∀ (a : BitVec 64) (r b : Bytes) (i : Image), addrReserved a = false → bufferIn a 256 = true →
      let u := (s.takes h 0x0608).1
      u.trainRec j = some r → u.img.running = some i →
      [.idle, .done, .stopped].contains (u.trainJob j).st = true →
      b.length = 256 + roundUp (8 * leAt b 0xE4 4 + 8 * leAt b 0xE0 4) 64 +
        (if Trn.optimiser r = 1 then 3 else 2) * 4 * (i.trainables.map Prod.snd).foldl (· + ·) 0 →
      b.length < 2 ^ 64 - 1 → u.load a.toNat b.length = b → inDram a.toNat b.length = true →
      u.badIn a.toNat 256 = none → u.badIn a.toNat b.length = none →
      bytesAt b 0 4 = [0x44, 0x5A, 0x54, 0x01] → leAt b 4 8 = b.length → bytesAt b 0x10 16 = i.imageId →
      leAt b 0xE8 4 = crc32 r → byteAt b 0xD = Trn.optimiser r → leAt b 0xE4 4 ≤ 256 →
      allZero (bytesAt b 0x38 8) = true → allZero (bytesAt b 0xF0 16) = true →
      leAt b 0xE0 4 ≠ 2 ^ 32 - 1 →
      (withCrc b = b → exec (.trainRestore h job a) s =
        .next (s.ran h 0x0608 fun c u => (u.restoreTrain j r b i).complete c Code.ok)) ∧
      (withCrc b ≠ b → exec (.trainRestore h job a) s =
        .next (s.ran h 0x0608 fun c u => u.complete c Code.checkpointMismatch))) ∧
    (∀ r, (s.takes h 0x0609).1.trainRec j = some r →
      ([.running, .paused, .done].contains ((s.takes h 0x0609).1.trainJob j).st = true →
        exec (.candidatePublish h job) s = .next (s.ran h 0x0609 fun c u =>
          (u.updTrain j fun t => { t with publish := t.publish ++ [c] }).publishBoundary j r)) ∧
      ([.running, .paused, .done].contains ((s.takes h 0x0609).1.trainJob j).st = false →
        exec (.candidatePublish h job) s = .next (s.ran h 0x0609 fun c u => u.complete c Code.trainState)))) ∧
  (∀ (s : State) (j : Nat) (i : Image), s.img.running = some i →
    (s.startTrain j).trainJob j = { ({} : TrainJob) with
      st := .running, baseGen := s.overlayGen, weights := s.freshWeights i
      publish := (s.trainJob j).publish, publishDue := (s.trainJob j).publishDue } ∧
    (s.startTrain j).decStream j = {}) ∧
  (∀ (s : State) (j batch : Nat), (s.trainJob j).checkpoint.isSome = true → (s.trainJob j).atBoundary batch = true →
    (s.trainJob j).st = .running ∨ (s.trainJob j).st = .paused →
    ((s.checkBoundary j batch).trainJob j).st = .checkpointing ∧
    ((s.checkBoundary j batch).trainJob j).resumeTo = (s.trainJob j).st) ∧
  (∀ (s : State) (j : Fin 32) (r : Bytes), s.trainRec j = some r → (s.trainJob j).st = .running →
    (s.trainJob j).epochOn = false →
    let ranges := s.sampleRanges (Trn.libraryMask r)
    let n := ({ s.trainJob j with ranges := ranges } : TrainJob).setSize
    (n < Trn.batch r → exec (.epochStart j) s = .next (s.updTrain j fun t => { t with waiting := true })) ∧
    (Trn.batch r ≤ n →
      let u := s.updTrain j fun t => { t with
        waiting := false, epochOn := true, det := s.img.detMode, ranges := ranges, step := 0, events := 0
        nextAdd := 0, contributing := 0, queue := [], grads := [] }
      exec (.epochStart j) s = .next (((List.range n).foldl (fun v p => v.requestAt j r p)
        (u.setDec j { u.decStream j with reqs := [] })).settleDec j)) ∧
    ((s.trainJob j).waiting = true → exec (.sampleSetRetake j) s = exec (.epochStart j) s) ∧
    ((s.trainJob j).waiting = false → exec (.sampleSetRetake j) s = .next s)) ∧
  (∀ (s : State) (j : Fin 32) (c : CmdRef) (a n : Nat) (r : Bytes) (i : Image),
    (s.trainJob j).checkpoint = some (c, a, n) → s.trainRec j = some r → s.img.running = some i →
    (s.trainJob j).st = .checkpointing →
    let b := s.checkpointRecord j r i
    let u := s.updTrain j fun t => { t with st := t.resumeTo, checkpoint := none }
    exec (.checkpointWrite j) s = .next ((if n < b.length then u.complete c Code.lengthRange
      else (u.storeFor c.seat a b).complete c Code.ok b.length).pumpTrain j)) ∧
  (∀ (s : State) (n : Fin 36) (q : DecReq) (r : Bytes) (code : Nat), n.val < 32 → (s.decStream n).next = some q →
    s.trainRec n = some r → q.outcome = some code →
    let event := (s.trainJob n).events
    let u := (s.markDelivered n q event).updTrain n fun t => { t with events := event + 1 }
    (skipped code = true → exec (.sampleDelivery n) s =
      .next ((u.updTrain n fun t => t.passOver event).pumpTrain n)) ∧
    (skipped code = false → (sampleLabel r q.entry).filter u.labelFits = none → exec (.sampleDelivery n) s =
      .next (((u.setFlag .trainFlags [] 1).updTrain n fun t => t.passOver event).pumpTrain n)) ∧
    (∀ label, code = Code.ok → (sampleLabel r q.entry).filter u.labelFits = some label →
      exec (.sampleDelivery n) s = .next ((u.updTrain n fun t => { t with queue := t.queue ++
        [{ event := event, stream := LEntry.stream q.entry, label := label, wide := q.bits12
           planes := augment r (u.trainJob n).epoch q.library q.sample (match u.lib q.library with
             | some l => Lib.shift16 l.cfg
             | none => 0) q.bits12 q.planes }] }).pumpTrain n)))

/-! ### Parts, deadlines and history (10_ledger_and_deadlines.md, 08_history_and_sequence_ops.md) -/

/-- Parts open and are decided, deadlines are tested, and scopes are written to history. A part opens OPEN in the
slot a new record takes, with its PART_ID from the sequence count, or LEDGER_FULL is recorded: with
OPEN_OVERRUN where the open queue is full. A decision is taken once, and its record keeps verdict, source and
cause; it waits while a full insertion queue holds the deciding block back. The deadline test decides a part
past its cutoff by default, and runs the shoal model where the deep model is predicted late and the shoal
model is not. A cutoff that is reported passed decides the part with SOURCE 3 and LATE. A window that has been
passed completes its view. Shadow work ends at its limit. A history write waits for the scopes before its own
and for the lookups that hold the slots it needs, and puts at most half a ring of entries; a header is
rewritten with its next SEQ. How long the open queue takes a part (notes/assumptions/20.md), that a decision
waits in the order it was first taken (notes/assumptions/137.md) and that a lookup ends with its tail
(notes/assumptions/136.md) are the model's choices. -/
def Obligations.PartsAndDeadlines : Prop :=
  (∀ (s : State) (stream slot : Nat) (ref : Pos), s.openFull = false → s.newSlot = some slot →
    (s.openPart stream ref fun p => p).2 = some slot ∧ ∃ p, (s.openPart stream ref fun p => p).1.part slot = some p ∧
      p = { s.newPart slot stream ref with seq := 1 } ∧ p.id = n64 (s.ledg.seqNext * 2 ^ 20 + slot) ∧ p.st = .open' ∧
      (s.openPart stream ref fun p => p).1.ledg.seqNext = s.ledg.seqNext % (2 ^ 44 - 1) + 1) ∧
  (∀ (s : State) (stream : Nat) (ref : Pos) (f : Part → Part), s.openFull = true ∨ s.newSlot = none →
    let u := s.flagLog .ledgFlags [] 0 { errorRec 12 with status := Code.ledgerFull, arg0 := n64 stream }
    s.openPart stream ref f = (if s.openFull then u.setFlag .ledgFlags [] 1 else u, none)) ∧
  (∀ (s : State) (slot verdict source cause : Nat) (p : Part), s.part slot = some p →
    (p.undecided = false → s.decidePart slot verdict source cause = s) ∧
    (p.undecided = true → s.motion.insertHold ≠ [] → (∀ d ∈ s.motion.decideWait, d.1 ≠ slot) →
      s.decidePart slot verdict source cause = { s with motion := { s.motion with
        decideWait := s.motion.decideWait ++ [(slot, verdict, source, cause)] } }) ∧
    (p.undecided = true → s.motion.insertHold = [] → ∃ q, (s.decidePart slot verdict source cause).part slot = some q ∧ q.st = .decided ∧
      q.verdict = verdict ∧ q.source = source ∧ q.cause = cause ∧ q.tDecided = s.tb0 ∧ q.id = p.id)) ∧
  (∀ (s : State), s.mc.bad = [] →
    let slots := s.undecidedParts.map Prod.fst
    let t := slots.foldl (fun u k => u.deadlineOf k) (slots.foldl (fun u k => u.refreshCutoff k) s)
    exec .deadlineTest s = .next
      ((t.cam.streams.map Prod.fst).foldl (fun u n => u.forgetLines n) t).releaseShoal.afterDecision) ∧
  (∀ (s : State) (slot : Nat) (p : Part), s.part slot = some p → p.undecided = true →
    (s.cutoffPassedNow p = true → s.deadlineOf slot = s.decideDefault slot 3 Code.late) ∧
    (s.cutoffPassedNow p = false → ∀ (i : Image) (cut : Int), s.img.running = some i →
      s.timeOf p.encoder p.cutoff = some cut →
      (s.partDet p = true ∨ i.model 1 = none ∨ p.shoalRan = true ∨ p.imageGen ≠ s.img.gen → s.deadlineOf slot = s) ∧
      (s.partDet p = false → (i.model 1).isSome = true → p.shoalRan = false → p.imageGen = s.img.gen →
        ∀ deep shoal : Int, s.pred slot p 0 cut = some deep → s.pred slot p 1 cut = some shoal →
        s.deadlineOf slot = if cut < deep ∧ shoal ≤ cut then s.runShoal slot else s))) ∧
  (∀ (s : State) (slot : Nat) (p : Part), s.part slot = some p →
    (p.undecided = true → s.cutoffPassedNow p = true → exec (.cutoffPassed slot) s =
      .next (s.decideDefault slot 3 Code.late).afterDecision) ∧
    (p.undecided = false ∨ s.cutoffPassedNow p = false → exec (.cutoffPassed slot) s = .next s)) ∧
  (∀ (s : State) (slot view : Nat) (p : Part), s.part slot = some p →
    let passed := reached (s.diePos p.encoder) (posCounts p.windowEnd (s.viewOffset p view))
    (p.mode = 0 → passed = true → exec (.partWindowEnd slot view) s = .next
      ((s.updView slot view fun v => { v with passed := true }).windowCheck slot view).readyCheck.afterDecision) ∧
    (p.mode ≠ 0 ∨ passed = false → exec (.partWindowEnd slot view) s = .next s)) ∧
  (∀ (s : State) (slot : Nat) (p : Part) (r : Bytes), s.part slot = some p →
    (s.seen p).imgRecord 15 4 p.stream = some r →
    (p.shadow = true → p.undecided = false → p.decidedTb1 + leAt r 0x10 4 * 1000000 ≤ s.now →
      exec (.shadowLimit slot) s = .next
        ((((s.updPart slot fun p => { p with shadow := false, candClass := 0xFF }).count .shadowCancelled []).setFlag
          .trainFlags [] 3).settleCrops slot).afterDecision) ∧
    (p.shadow = false ∨ p.undecided = true ∨ s.now < p.decidedTb1 + leAt r 0x10 4 * 1000000 →
      exec (.shadowLimit slot) s = .next s)) ∧
  (∀ (s : State) (n : Fin 64) (q slot view : Nat) (p : Part) (v : View) (h : HistStore),
    let u := s.countVoids
    u.histDue n = some (q, slot, p, view, v) → u.histStore n = some h →
    let rows := u.scopeRows p v h
    let kept := rows.take (h.slots / 2)
    (u.settledBefore n q = false ∨ u.slotsHeld n h kept.length = true → exec (.histWrite n) s = .next u) ∧
    (u.settledBefore n q = true → u.slotsHeld n h kept.length = false →
      let w := kept.zipIdx.foldl (fun x (r, i) => x.store (h.slotAddr (h.nextIndex + i))
        (histEntry h (h.nextIndex + i) q p r.1 r.2.1 r.2.2 (v.arithDeep != 0) x.tb0)) u
      let w := w.updHist n fun h => { h with
        nextIndex := h.nextIndex + kept.length, settled := h.settled + 1
        truncated := (h.truncated + (rows.length - kept.length)) % 2 ^ 32
        damaged := (h.damaged + (kept.filter fun r => r.2.2).length) % 2 ^ 32 }
      let w : State := { w with ledg := { w.ledg with
        parts := Tab.upd w.ledg.parts slot fun p => { p with histDone := p.histDone ++ [view] } } }
      exec (.histWrite n) s = .next (((w.putHist n).settleScope slot).readyCheck).afterDecision)) ∧
  (∀ (s : State) (n : Fin 64) (h : HistStore), s.countVoids.histStore n = some h →
    exec (.historyHeaderUpdate n) s = .next ((s.countVoids.updHist n fun h => { h with seq := h.seq + 1 }).store h.base
      ({ h with seq := h.seq + 1 } : HistStore).header))

/-! ### Encoders, dividers and the eject list (11_encoders_and_eject.md) -/

/-- Encoder channels count, read and are lost. On an incremental channel whose wires have their signal,
ENCODER_EDGE counts one up or down as A leads or not and DIRECTION says, and P never moves back while the
direction holds. A sample in which both signals change sets ENC_ERR bit 0 and loses the channel, and WIRE_LOSS
of a differential channel, incremental or SSI, sets bit 1 and loses it: LOST, P held, ENC_ERR bit 7 with an
error record, and the channel's undecided parts are dealt with. WIRE_SIGNAL_RETURN lets edges count again.
INDEX_PULSE latches the count; where the counts since the last pulse differ from INDEX_CHECK it sets bit 2
with a warning. ENCODER_STOPPED stops a running channel whose count period exceeds 100 ms, with P held, and no
other. CLEAR_LOST returns a lost channel to STOPPED or RUN. Other channels, and all else but the fields named,
stay as they are. On an SSI channel SSI_READ latches the time. A word with a wrong CRC sets ENC_ERR bit 3, one
with a wrong error bit bit 4 and one with a step beyond MAX_STEP bit 6, each flag that applies, and a missing
word bit 5: a bad read; the ERR_LIMIT-th bad read in a row loses the channel. The first good read places the
counter, and a later one moves it by the difference of the two values, modulo the word. That P follows the
first good read by the formula of R284, its hold included, is the model's reading. -/
def Obligations.Encoders : Prop :=
  (∀ (s : State) (n : Fin 8) (a : Bool), (s.enc n).incremental = true → (s.enc n).wireLost = false →
    exec (.encoderEdge n a false) s =
      .next (s.setEnc n ((s.enc n).move (a != EncCfg.direction (s.enc n).cfg) 1 s.now s.now))) ∧
  (∀ (e : Enc) (up : Bool) (k te t : Nat),
    (e.move up k te t).count = (if up then e.count + BitVec.ofNat 48 k else e.count - BitVec.ofNat 48 k) ∧
    (e.move up k te t).forward = up ∧ (e.move up k te t).cfg = e.cfg ∧ (e.move up k te t).te = te ∧
    (up = true → e.forward = true → 0 ≤ posSub (e.move up k te t).p (e.posAt t)) ∧
    (up = false → e.forward = false → 0 ≤ posSub (e.posAt t) (e.move up k te t).p)) ∧
  (∀ (s : State) (n : Fin 8), (s.enc n).wireLost = false → (s.enc n).st ≠ .lost →
    let e := s.enc n
    let lost (u : State) (x : Enc) := ((u.setEnc n { x with st := .lost, p := e.posAt s.now }).flagLog .encErr
      [n.val] 7 { errorRec 13 with status := 0x95, arg0 := n64 n.val }).positionLost n
    (∀ a, e.incremental = true →
      exec (.encoderEdge n a true) s = .next (lost (s.setFlag .encErr [n.val] 0) e)) ∧
    (EncCfg.type e.cfg = 1 ∨ EncCfg.type e.cfg = 3 → exec (.wireLoss n) s =
      .next (lost ((s.setEnc n { e with wireLost := true }).setFlag .encErr [n.val] 1)
        { e with wireLost := true }))) ∧
  (∀ (s : State) (n : Fin 8), exec (.wireSignalReturn n) s =
    .next (s.setEnc n { s.enc n with wireLost := false })) ∧
  (∀ (s : State) (n : Fin 8), (s.enc n).incremental = true → (s.enc n).wireLost = false →
    let e := s.enc n
    let u := s.setEnc n { e with indexSeen := true, indexCount := e.count, indexPulses := e.indexPulses + 1 }
    let moved := ((e.count - e.indexCount).toInt).natAbs
    let check := EncCfg.indexCheck e.cfg
    ((check = 0 ∨ e.indexSeen = false ∨ moved = check) → exec (.indexPulse n) s = .next u) ∧
    (check ≠ 0 → e.indexSeen = true → moved ≠ check → exec (.indexPulse n) s =
      .next (u.flagLog .encErr [n.val] 2 { warning 13 with arg0 := n64 n.val, arg1 := n64 moved }))) ∧
  (∀ (s : State) (n : Fin 8),
    ((s.enc n).st = .run → (∀ p, (s.enc n).periodAt s.now = some p → 100000000 < p) →
      exec (.encoderStopped n) s =
        .next (s.setEnc n { s.enc n with st := .stopped, p := (s.enc n).posAt s.now })) ∧
    ((s.enc n).st ≠ .run ∨ (∃ p, (s.enc n).periodAt s.now = some p ∧ p ≤ 100000000) →
      exec (.encoderStopped n) s = .next s)) ∧
  (∀ (s : State) (seat : Fin 4) (n : Fin 8),
    ((s.enc n).st = .lost → exec (.clearLost seat n) s = .next (s.setEnc n
      (({ s.enc n with st := .stopped, ssiBad := 0, ssiValue := none } : Enc).settleState s.now))) ∧
    ((s.enc n).st ≠ .lost → exec (.clearLost seat n) s = .next s)) ∧
  (∀ (s : State) (n : Fin 8), (s.enc n).ssi = true →
    exec (.ssiRead n) s = .next (s.setEnc n { s.enc n with ssiReadAt := s.now })) ∧
  (∀ (s : State) (n : Fin 8), (s.enc n).ssi = true → (s.enc n).st ≠ .lost →
    let e := s.enc n
    let bad (flags : List Nat) := flags.foldl (fun u f => u.setFlag .encErr [n.val] f)
      (s.setEnc n { e with ssiBad := e.ssiBad + 1 })
    let badRead (flags : List Nat) : State := if e.ssiBad + 1 < EncCfg.errLimit e.cfg then bad flags
      else ((bad flags).loseEnc n).positionLost n
    let w := EncCfg.wordBits e.cfg
    let value (word : Word) := if EncCfg.gray e.cfg then grayDecode w (word.toNat % 2 ^ w) else word.toNat % 2 ^ w
    exec (.ssiTimeout n) s = .next (badRead [5]) ∧
    (e.wireLost = false → ∀ (word : Word) (eb : Bool) (crc : BitVec 16),
      let raw := word.toNat % 2 ^ w
      let k := EncCfg.crcBits e.cfg
      let sum := if EncCfg.errBit e.cfg = 0 then crcBits k (EncCfg.crcPoly e.cfg) (EncCfg.crcInit e.cfg % 2 ^ k) w raw
        else crcBits k (EncCfg.crcPoly e.cfg) (EncCfg.crcInit e.cfg % 2 ^ k) (w + 1) (raw * 2 + b2n eb)
      let want := if EncCfg.crcInvert e.cfg then 2 ^ k - 1 - sum else sum
      let d := (e.ssiValue.map fun old => toSigned w ((value word + 2 ^ w - old) % 2 ^ w)).getD 0
      let go := if EncCfg.direction e.cfg then -d else d
      let fails := (if k ≠ 0 ∧ crc.toNat % 2 ^ k ≠ want then [3] else []) ++
        (if (EncCfg.errBit e.cfg = 1 ∧ eb = true) ∨ (EncCfg.errBit e.cfg = 2 ∧ eb = false) then [4] else []) ++
        (if EncCfg.maxStep e.cfg < d.natAbs then [6] else [])
      let x : Enc := { e with ssiValue := some (value word), ssiBad := 0 }
      let stay (y : Enc) : Enc :=
        ({ y with p := y.hold (e.posAt s.now) (y.rawPos s.now) } : Enc).settleState s.now
      (fails ≠ [] → exec (.ssiWord n word eb crc) s = .next (badRead fails)) ∧
      (fails = [] → e.ssiValue = none → exec (.ssiWord n word eb crc) s = .next (s.setEnc n
        (stay { x with count := BitVec.ofNat 48 (value word), te := e.ssiReadAt, lastStep := 1 }))) ∧
      (fails = [] → e.ssiValue.isSome = true → d = 0 → exec (.ssiWord n word eb crc) s =
        .next (s.setEnc n (stay { x with te := e.ssiReadAt, lastStep := 1 }))) ∧
      (fails = [] → d ≠ 0 → exec (.ssiWord n word eb crc) s =
        .next (s.setEnc n (x.move (decide (0 < go)) go.natAbs e.ssiReadAt s.now)))))

/-- Ratio dividers and the eject list. DIVIDER_EVENT of a running divider whose encoder has reached the present
grid point in the forward direction, and not the next one, writes its line map entry and advances its grid
index; within MIN_PERIOD of the last event it is suppressed and sets DIV_ERR bit 0, and otherwise it pulses
the divider's output; elsewhere it changes nothing. TRIG_OUT_PULSE_END ends that pulse once it is over.
EJECT_INSERT takes the entries of the part at the head of the insertion queue into the lowest free slots,
whose SEQ goes on; with no room for all it takes none and sets EJ_FLAGS bit 2. An uncorrectable granule of the
ordering structure is reported and rewritten then, with the same result. LIST_CTRL_CLEAR ends every pending
entry in STATE 7, empties the windows and sets EJ_FLAGS bit 7 with a warning that names the seat. -/
def Obligations.DividersAndList : Prop :=
  (∀ (s : State) (d : Fin 8) (x : Divider), s.divider d = some x → x.stopped = false → s.field.held = false →
    (s.enc (Div.encoder x.cfg)).st ≠ .off →
    ((s.enc (Div.encoder x.cfg)).forward = false ∨ reached (s.encPos (Div.encoder x.cfg)) (x.grid x.k) = false →
      exec (.dividerEvent d) s = .next s) ∧
    ((s.enc (Div.encoder x.cfg)).forward = true → reached (s.encPos (Div.encoder x.cfg)) (x.grid x.k) = true →
    reached (s.encPos (Div.encoder x.cfg)) (x.grid (x.k + 1)) = false →
    ((∃ t, x.lastEvent = some t ∧ s.now < t + Div.minPeriod x.cfg) →
      let u := (s.writeMap d x x.k true).setDivider d { x with k := x.k + 1 }
      exec (.dividerEvent d) s = .next (({ u with motion := { u.motion with
        suppressed := Tab.put u.motion.suppressed d (Tab.getD s.motion.suppressed d 0 + 1) } } : State).setFlag
          .divErr [d.val] 0)) ∧
    ((∀ t, x.lastEvent = some t → t + Div.minPeriod x.cfg ≤ s.now) →
      let u := (s.writeMap d x x.k false).setDivider d { x with k := x.k + 1, lastEvent := some s.now }
      exec (.dividerEvent d) s = .next (if Div.trigOut x.cfg = 0xFF then u
        else u.trigPulse (Div.trigOut x.cfg) (Div.pulseNs x.cfg))))) ∧
  (∀ (s : State) (d : Nat) (x : Divider) (k : Nat) (sup : Bool), s.img.running.isSome = true →
    s.writeMap d x k sup = s.store (lineMapBase d + k % 2 ^ x.mapLog2 * 16)
      (natLe 8 ((posAdd x.origin ((k * Div.pitch x.cfg : Nat) : Int)).toNat + b2n sup * 2 ^ 56) ++
        natLe 8 s.tb0.toNat)) ∧
  (∀ (s : State) (d : Fin 8) (x : Divider), s.divider d = some x → Div.trigOut x.cfg ≠ 0xFF →
    (s.output (Div.trigOut x.cfg)).on = true → s.outMode (Div.trigOut x.cfg) = 2 →
    (s.now < (s.output (Div.trigOut x.cfg)).endAt → exec (.trigOutPulseEnd d) s = .next s) ∧
    ((s.output (Div.trigOut x.cfg)).endAt ≤ s.now → exec (.trigOutPulseEnd d) s =
      .next (s.setOutput (Div.trigOut x.cfg) ((s.output (Div.trigOut x.cfg)).off s.now)))) ∧
  (∀ (s : State), s.motion.insertQueue = [] → s.motion.insertHold = [] → s.motion.decideWait = [] →
    exec .ejectInsert s = .next s) ∧
  (∀ (s : State) (slot : Nat) (es : List Eject) (rest : List (Nat × List Eject)) (p : Part),
    s.motion.insertQueue = (slot, es) :: rest → s.part slot = some p → es ≠ [] → (∀ e ∈ es, e.mask ≠ 0) →
    s.motion.insertHold = [] → s.motion.decideWait = [] →
    let u : State := { s.readOrder with motion := { s.readOrder.motion with insertQueue := rest } }
    (2097152 < s.pendingSlots.length + es.length → exec .ejectInsert s = .next ((u.flagLog .ejFlags [] 2
      { errorRec 13 with status := Code.ejectListFull, arg0 := p.id }).settlePart slot)) ∧
    (s.pendingSlots.length + es.length ≤ 2097152 →
      let v := ((freeSlots s.pendingSlots es.length 0).zip es).foldl (fun s x => s.placeEntry x.1 x.2) u
      let v : State := { v with motion := { v.motion with inserted := v.motion.inserted + es.length } }
      exec .ejectInsert s = .next ((v.updPart slot fun p => { p with
        st := .scheduled, entries := es.length }).planWindows.settlePart
        slot))) ∧
  (∀ s : State, (∀ g ∈ s.mc.bad, g < 0x58000000 ∨ 0x60000000 ≤ g) → s.readOrder = s) ∧
  (∀ (s : State) (g : Nat), s.mc.bad = [g] → 0x58000000 ≤ g → g < 0x60000000 →
    s.readOrder = s.reportUe g 0x40) ∧
  (∀ (used : List Nat) (n : Nat), used.Pairwise (· < ·) → (freeSlots used n 0).length = n ∧
    (freeSlots used n 0).Pairwise (· < ·) ∧ (∀ k ∈ freeSlots used n 0, k ∉ used) ∧
    ∀ k ∈ freeSlots used n 0, ∀ j, j < k → j ∈ used ∨ j ∈ freeSlots used n 0) ∧
  (∀ (s : State) (slot : Nat) (e : Eject), s.placeEntry slot e = s.putEntry slot
    { e with seq := ((Tab.get s.motion.list slot).map fun x => x.seq).getD 0 }) ∧
  (∀ (s : State) (seat : Fin 4), s.motion.insertQueue = [] → s.motion.insertHold = [] → s.motion.decideWait = [] →
    let u : State := { s with motion := { s.motion with windows := [], transfers := [], applied := [] } }
    exec (.listCtrlClear seat) s = .next ((((s.motion.list.filter fun e => e.2.pending).foldl
      (fun s e => s.endEntry e.1 e.2 7 e.2.fired) u).settleParts).flagLog .ejFlags [] 7
        { warning 13 with initiator := seat }))

/-- Outputs fire, end, trip and are measured. OUTPUT_SWITCH_ON of a channel that is not OFF and whose window holds
one undamaged entry that is due switches all its outputs on with its pulse shape and reports STATE 3; an entry
first seen past its position within its LATE_COUNTS fires late with STATE 4, and beyond them is missed with
STATE 5. While outputs are held off, or the channel is OFF, nothing fires. A pulse on an output that was off
long enough starts with its peak. PEAK_PHASE_END ends the peak, and PULSE_END the pulse once every end merged
into it is reached. OUTPUT_OVERCURRENT switches the output off until CLEAR_TRIP clears it, and a group above
its limit switches its eight outputs off until G_CTRL_CLEAR. OUTPUT_MEASURE shows the current, and flags an
open load and a pin voltage that contradicts the output. OPEN_LOAD_TEST flags an open load of an output that
is off. -/
def Obligations.OutputsFire : Prop :=
  (∀ (s : State) (n : Fin 8), s.outputsHeld = true ∨ (s.enc n).st = .off → exec (.outputSwitchOn n) s = .next s) ∧
  (∀ (s : State) (n : Fin 8) (w : WinEntry), s.outputsHeld = false → (s.enc n).st ≠ .off →
    s.window n = [w] → w.bad0 = false →
    w.bad1 = false → w.copy0 = w.copy1 →
    let e := w.copy0
    let t := s.entryView e
    let beyond := posSub (s.encPos n) e.pos
    (w.evaluated = false → 0 < beyond → beyond ≤ 256 * (e.lateCounts : Int) → exec (.outputSwitchOn n) s =
      .next (((s.switchOutputs (maskOutputs e.mask) (t.shape e.shape) n).report w.slot 4).setWindow n [])) ∧
    (w.evaluated = false → 0 < beyond → 256 * (e.lateCounts : Int) < beyond → exec (.outputSwitchOn n) s =
      .next ((s.report w.slot 5).setWindow n [])) ∧
    ((w.evaluated = true ∨ beyond ≤ 0) → w.switched = 0 → e.mask ≠ 0 →
      (∀ q ∈ maskOutputs e.mask, t.switchNow n q e.pos = true) → exec (.outputSwitchOn n) s =
      .next (((s.switchOutputs (maskOutputs e.mask) (t.shape e.shape) n).report w.slot 3).setWindow n []))) ∧
  (∀ (s : State) (q : Nat) (shape : Bytes) (n : Nat) (p : Pos), s.outputsHeld = false →
    (s.output q).isTripped = false → (s.output q).on = false → (s.output q).offAt = none → Shape.mode shape = 0 →
    s.pulseOn q shape n p = s.setOutput q { s.output q with
      on := true, peak := decide (0 < Shape.peakNs shape), hold := Shape.holdDuty shape
      peakEnd := s.now + Shape.peakNs shape, endAt := s.now + Shape.onNs shape, endPos := none, more := [], onAt := s.now
      gap := Shape.minGapNs shape, host := false }) ∧
  (∀ (s : State) (q : Fin 64), (s.output q).on = true →
    ((s.output q).peak = true → exec (.peakPhaseEnd q) s =
      .next (s.setOutput q { s.output q with peak := false })) ∧
    ((s.output q).host = false →
      (∀ e ∈ ((s.output q).endAt, (s.output q).endPos) :: (s.output q).more, s.pulseOver e = true) →
      exec (.pulseEnd q) s = .next (s.setOutput q ((s.output q).off s.now))) ∧
    ((∃ e ∈ ((s.output q).endAt, (s.output q).endPos) :: (s.output q).more, s.pulseOver e = false) →
      exec (.pulseEnd q) s = .next s) ∧
    (∀ c, (c = .over1500mA ∨ c = .over1000mA ∨ (c = .overload ∧ (s.output q).peak = false)) →
      exec (.outputOvercurrent q c) s = .next ((s.setOutput q { (s.output q).off s.now with
        tripped := true, peak := false }).flagLog .qErr [q.val] 0
          { errorRec 15 with status := 0xB1, arg0 := n64 q.val }))) ∧
  (∀ (s : State) (q : Fin 64), exec (.outputOvercurrent q .thermal) s = .next ((s.setOutput q
    { (s.output q).off s.now with tripped := true, peak := false }).flagLog .qErr [q.val] 1
      { errorRec 15 with status := 0xB1, arg0 := n64 q.val })) ∧
  (∀ (s : State) (g : Fin 8) (ma : Nat),
    let u := s.setFld .gCurrent [g.val] 0 13 ma
    (ma ≤ s.groupLimit g → exec (.groupCurrentCheck g ma) s = .next u) ∧
    (s.groupLimit g < ma → exec (.groupCurrentCheck g ma) s = .next (((List.range 8).foldl (fun s k =>
      s.setOutput (8 * g.val + k) { (s.output (8 * g.val + k)).off s.now with groupTripped := true }) u).flagLog
        .gErr [g.val] 0 { errorRec 15 with status := 0xB2, arg0 := n64 g.val }))) ∧
  (∀ (s : State) (seat : Fin 4) (q : Fin 64) (g : Fin 8), s.linkCode ≠ 0 →
    exec (.clearTrip seat q) s = .next (s.setOutput q { s.output q with tripped := false }) ∧
    exec (.gCtrlClear seat g) s = .next ((List.range 8).foldl (fun s k =>
      s.setOutput (8 * g.val + k) { s.output (8 * g.val + k) with groupTripped := false }) s)) ∧
  (∀ (s : State) (q : Fin 64) (ma mv : Nat), (s.output q).isTripped = false →
    let u := s.setFld .qMeas [q.val] 0 10 (sat (ma / 2) 0x3FF)
    let open' := s.setFlag .qErr [q.val] 2
    ((s.output q).on = false → mv ≤ 12000 → exec (.outputMeasure q ma mv) s = .next u) ∧
    ((s.output q).on = false → 12000 < mv → exec (.outputMeasure q ma mv) s =
      .next (u.flagLog .qErr [q.val] 3 { warning 15 with arg0 := n64 q.val, arg1 := n64 mv })) ∧
    ((s.output q).on = true → (s.output q).onAt + 1000000 ≤ s.now → ma < 4 → 12000 ≤ mv →
      exec (.outputMeasure q ma mv) s = .next (u.setFlag .qErr [q.val] 2)) ∧
    (s.outOpenTest q = true → (s.output q).on = false → 18000 < mv →
      exec (.openLoadTest q mv) s = .next open') ∧
    (mv ≤ 18000 → exec (.openLoadTest q mv) s = .next s))

/-! ### Field inputs and the barrier link (19_field_io.md) -/

/-- Inputs count and report; host outputs and mirrored writes. INPUT_EDGE of a new level on an input without
counters and POS_ENCODER changes that input's bit and nothing else; an edge of a level it already has, or one
while the field controller is held, changes nothing. With POS_ENCODER its position is queued for the die, and
with a counter it is counted. COUNTER_GATE turns the edges of a gate into a frequency, and CNT_CTRL_ZERO
zeroes the count. While the link is DOWN, CNT_CTRL_ZERO, CLEAR_TRIP, G_CTRL_CLEAR, Q_HOST and
FIELD_MIRROR_WRITE are discarded with a notice. Q_HOST drives exactly the outputs of MODE 3. FIELD_MIRROR_READ
sends the register's value, and a free value while the link is DOWN. -/
def Obligations.FieldInputs : Prop :=
  (∀ (s : State) (i : Fin 32) (a : Bool),
    let u : State := { s with field := { s.field with
      inputs := BitVec.ofNat 32 (putSlice s.field.inputs.toNat i 1 (b2n a)) } }
    (s.field.held = true ∨ bit s.field.inputs.toNat i = a → exec (.inputEdge i a) s = .next s) ∧
    (s.field.held = false → bit s.field.inputs.toNat i ≠ a → (∀ c, c < 4 → s.fieldRec 4 c = none) →
      (s.inEncoder i = none → exec (.inputEdge i a) s = .next u) ∧
      (∀ n, s.inEncoder i = some n → exec (.inputEdge i a) s =
        .next (u.queueEdge (.edge i a (s.edgePos i n)))))) ∧
  (∀ (s : State) (c i : Nat) (a : Bool) (r : Bytes), s.fieldRec 4 c = some r → byteAt r 4 = i → byteAt r 5 = 2 →
    let k := Tab.getD s.field.counters c {}
    s.countEdge c i a = { s with field := { s.field with counters := Tab.put s.field.counters c { k with
        count := k.count + 1, edges := k.edges + 1, last := s.now
        first := if k.edges = 0 then s.now else k.first } } }) ∧
  (∀ (s : State) (c : Fin 4) (r : Bytes), s.fieldRec 4 c = some r →
    let k := Tab.getD s.field.counters c.val {}
    let f := if k.edges < 2 ∨ k.last ≤ k.first then 0
      else min ((k.edges - 1) * 256000000000 / (k.last - k.first)) 0xFFFFFFFF
    exec (.counterGate c) s = .next { s with field := { s.field with
      counters := Tab.put s.field.counters c.val { k with edges := 0, freq := n32 f } } }) ∧
  (∀ (s : State) (seat c : Fin 4), s.linkCode ≠ 0 →
    let k := Tab.getD s.field.counters c.val {}
    exec (.cntCtrlZero seat c) s = .next { s with field := { s.field with
      counters := Tab.put s.field.counters c.val { k with count := 0 } } }) ∧
  (∀ (s : State) (seat c : Fin 4) (q : Fin 64) (g : Fin 8) (v : Word), s.linkCode = 0 →
    let note (off : Nat) := s.log { notice 15 with initiator := seat, arg0 := n64 off }
    exec (.cntCtrlZero seat c) s = .next (note (RN.cntCtrl.off [c.val])) ∧
    exec (.clearTrip seat q) s = .next (note (RN.qCtrl.off [q.val])) ∧
    exec (.gCtrlClear seat g) s = .next (note (RN.gCtrl.off [g.val])) ∧
    exec (.qHost seat true v) s = .next (note (RN.fldQHostHi.off [])) ∧
    exec (.qHost seat false v) s = .next (note (RN.fldQHostLo.off []))) ∧
  (∀ (s : State) (seat : Fin 4) (high : Bool) (v : Word), s.linkCode ≠ 0 → (∀ q, q < 64 → s.outMode q = 3) →
    exec (.qHost seat high v) s = .next (({ s with field := { s.field with
      qHost := BitVec.ofNat 64 (putSlice s.field.qHost.toNat (if high then 32 else 0) 32 v.toNat) } } : State).applyHost)) ∧
  (∀ (s : State) (seat : Fin 4) (off : BitVec 20) (r : RN) (ix : List Nat) (v : Word), off.toNat % 4 = 0 →
    0x14 ≤ off.toNat → regAt (0xF00000 + off.toNat) = some (r, ix) → r ∉ [.laneMatchCnt, .lanePrbsBitsLo, .lanePrbsErr] →
    (s.linkCode ≠ 0 → exec (.fieldMirrorRead seat off) s = .next (({ s with field := { s.field with
      mirror := Tab.put s.field.mirror (r.off ix) (s.view r ix) } } : State).emit
        (.readData seat (natLe 4 (s.view r ix).toNat)))) ∧
    (s.linkCode = 0 → exec (.fieldMirrorRead seat off) s = .next (({ s with free := s.free + 1 } : State).emit
      (.readData seat (natLe 4 (Config.freeNat s.free % 2 ^ 32))))) ∧
    (s.linkCode = 0 → ∃ t : State, exec (.fieldMirrorWrite seat off v) s = .next (t.log { notice 15 with
      initiator := seat, arg0 := n64 (0xF00000 + off.toNat) }) ∧ { t with host := s.host } = s))

/-- The barrier link sends, fails, restores and starts again. BARRIER_FRAME_SEND sends a frame each way: its
header under its own sequence number, with the number acknowledged, SAFE asked for by the die and FC_RESET,
and up the samples of the eight channels. A down frame that is bad or does not arrive sets LINK_ERR bit 0, and
the fourth in a row puts the outputs into their safe states; a good one ends the count, and enters or leaves
the safe state as the frame says; a safe state entered on failed frames lasts until the die has asked for it
(the model's reading, notes/assumptions/150.md). The message slots, the near-window transfer and the CRC of a
frame are not part of the emission (notes/assumptions/145.md). A bad up frame sets bit 1, and the fourth in a
row brings the link DOWN with an error record. Sixteen good frames each way bring it UP. FC_WATCHDOG and the
loss of J3 start the field controller again: every output off, counters at 0, windows empty. FIELD_SUPPLY_ON
powers it. -/
def Obligations.BarrierLink : Prop :=
  (∀ (s : State), exec .barrierFrameSend s = .next { s with
    out := s.out ++ [.barrier true (barHeader s.field.downSeq s.field.ackUp s.wantSafe false) [],
      .barrier false (barHeader s.field.upSeq s.field.ackDown s.field.fcSafe s.field.fcReset)
        ((List.range 8).map fun n => (s.enc n).frameBits s.now)]
    field := { s.field with downSeq := s.field.downSeq + 1, upSeq := s.field.upSeq + 1 } }) ∧
  (∀ (seq ack : BitVec 6) (safe reset : Bool),
    let h := (barHeader seq ack safe reset).toNat
    slice h 0 6 = seq.toNat ∧ slice h 6 6 = ack.toNat ∧ bit h 12 = safe ∧ bit h 13 = reset ∧ slice h 14 2 = 0) ∧
  (∀ (e : Enc) (t : Nat), let f := (e.frameBits t).toNat
    slice f 0 23 = (e.posAt t).toNat % 2 ^ 23 ∧ slice f 23 13 = e.frameCode t ∧ slice f 36 2 = e.st.code) ∧
  (∀ (s : State), s.field.held = false → s.motion.transfers = [] →
    let u : State := { s.setFlag .fldLinkErr [] 0 with
      field := { s.field with downFails := s.field.downFails + 1, goodDown := 0 } }
    let v := u.enterSafe
    let t := if s.field.downFails = 3 then ({ v with field := { v.field with fcLost := true } } : State).setFlag
      .fldLinkErr [] 4 else u
    exec (.barrierDownFrame false) s = .next t ∧ exec (.frameTimeout true) s = .next t) ∧
  (∀ (s : State), s.field.held = false →
    let u : State := { s with field := { s.field with
      downFails := 0, goodDown := s.field.goodDown + 1, ackDown := s.field.downSeq - 1 } }
    let v : State := { u.enterSafe with field := { u.enterSafe.field with fcLost := false } }
    (s.wantSafe = true → exec (.barrierDownFrame true) s = .next (if s.field.dieSafe = true ∧ s.field.fcSafe = false
      then v.setFlag .fldLinkErr [] 4 else v)) ∧
    (s.wantSafe = false → s.field.fcLost = true → exec (.barrierDownFrame true) s = .next u) ∧
    (s.wantSafe = false → s.field.fcLost = false → s.motion.transfers = [] → exec (.barrierDownFrame true) s =
      .next (({ u with field := { u.field with fcSafe := false } } : State).applyHost))) ∧
  (∀ (s : State), s.field.upQueue = [] →
    let u : State := { s.setFlag .fldLinkErr [] 1 with
      field := { s.field with upFails := s.field.upFails + 1, goodUp := 0 } }
    let t := if s.field.upFails = 3 then ({ u with field := { u.field with
      dieSafe := true, linkState := 0 } } : State).log { errorRec 15 with status := 0xB0 } else u
    exec (.barrierUpFrame false) s = .next t ∧ exec (.frameTimeout false) s = .next t) ∧
  (∀ (s : State), s.field.held = false → s.field.fcReset = false →
    let u : State := { s with field := { s.field with
      upFails := 0, goodUp := s.field.goodUp + 1, ackUp := s.field.upSeq - 1, upFrames := s.field.upFrames + 1 } }
    let v : State := if s.field.fcLost then { u with field := { u.field with dieSafe := true, linkState := 0 } } else u
    exec (.barrierUpFrame true) s = .next ((v.upSamples.ackTransfers).upItem).linkCheck) ∧
  (∀ (s : State), s.field.linkState = 0 →
    (16 ≤ s.field.goodDown → 16 ≤ s.field.goodUp → s.linkCheck = ({ s with
      field := { s.field with linkState := 1, dieSafe := false }
      motion := { s.motion with transfers := [] } } : State).planWindows) ∧
    (s.field.goodDown < 16 ∨ s.field.goodUp < 16 → s.linkCheck = s)) ∧
  (∀ (s : State), (s.resetFc).field.outputs = [] ∧ (s.resetFc).field.counters = [] ∧
    (s.resetFc).field.fcReset = true ∧ (s.resetFc).motion.windows = [] ∧
    { s.resetFc with field := s.field, motion := s.motion } = s ∧
    (s.field.powered = true → exec .fcWatchdog s = .next s.resetFc) ∧
    (s.field.powered = false → exec .fcWatchdog s = .next s)) ∧
  (∀ (s : State) (mv : Nat), exec (.fieldSupplyLoss mv) s = .next (({ s.resetFc with
    field := { s.resetFc.field with powered := false, held := true, supplyMv := mv } } : State).log
      { warning 15 with arg0 := n64 mv })) ∧
  (∀ (s : State) (mv : Nat), 19200 ≤ mv →
    (s.field.powered = true → exec (.fieldSupplyOn mv) s =
      .next { s with field := { s.field with supplyMv := mv } }) ∧
    (s.field.powered = false →
      let u := ({ s with field := { s.field with powered := true, held := false } } : State).resetFc
      exec (.fieldSupplyOn mv) s = .next { u with field := { u.field with supplyMv := mv } }))

/-! ### Resets, bring-up, clocks and supplies (20_reset_clocks_power.md, 22_security.md) -/

/-- Every reset source, and what a die reset leaves. Each source resets the die, a core or the streams, with its
cause. A die reset starts bring-up at step 2 in BOOT, counts in the backup domain, clears the image, the
ledger, the scheduler and the cameras, keeps flash and what is waiting to be commanded, and keeps DRAM only in
the spill and host regions of a warm reset. That what else DRAM held reads as 0 is the model's choice
(notes/assumptions/60.md). SW_RESET needs its key, and a die request prevails. An island forced out of reset
is in clock fault. -/
def Obligations.DieResets : Prop :=
  (∀ (s : State) (rn bv : Bool) (rail : Option (Fin 8)),
    exec (.powerOn rn bv) s = .next (({ s with backup := if bv then { s.backup with valid := true } else {} } :
      State).dieReset 1 false none true rn) ∧
    exec (.brownOut rail rn) s = .next (s.dieReset 2 false (rail.map (·.val)) true rn) ∧
    exec (.resetN rn) s = .next (s.dieReset 3 true none true rn) ∧
    exec (.controlWatchdog rn) s = .next (s.dieReset 4 true none false rn) ∧
    exec (.debugReset .die rn) s = .next (s.dieReset 6 true none false rn) ∧
    exec (.clockFailure .die rn) s = .next (s.dieReset 7 true none false rn) ∧
    exec (.lockUp .die rn) s = .next (s.dieReset 8 true none false rn) ∧
    (s.boot.failed = true → exec (.bootFailureReset rn) s = .next (s.dieReset 5 true none false rn)) ∧
    (s.boot.failed = false → exec (.bootFailureReset rn) s = .next s)) ∧
  (∀ (s : State) (rn : Bool) (n : Fin 4),
    (s.dev ≠ .recovery →
      exec (.debugReset (.core n) rn) s = .next (s.holdCore n .off 6) ∧
      exec (.clockFailure (.core n) rn) s = .next ((s.flagLog .coreErr [n.val] 3 { errorRec (16 + n.val) with
        status := Code.clockFault, arg0 := n64 n.val }).coreReset n 7) ∧
      exec (.lockUp (.core n) rn) s = .next (s.holdCore n .off 8)) ∧
    (s.dev = .recovery → exec (.debugReset (.core n) rn) s = .next s ∧
      exec (.clockFailure (.core n) rn) s = .next s ∧ exec (.lockUp (.core n) rn) s = .next s)) ∧
  (∀ (s : State) (seat : Fin 4) (v : Word) (rn : Bool),
    let told := s.log { warning 1 with initiator := seat, arg0 := n64 (slice v.toNat 0 6) }
    (slice v.toNat 24 8 ≠ 0xA5 →
      let t := s.log { notice 1 with initiator := seat, arg0 := n64 (RN.off .rstSwReset []) }
      exec (.swResetDie seat v rn) s = .next t ∧ exec (.swResetCore seat v) s = .next t ∧
      exec (.swResetStreams seat v) s = .next t) ∧
    (slice v.toNat 24 8 = 0xA5 → slice v.toNat 0 6 = 0 → exec (.swResetDie seat v rn) s = .next s ∧
      exec (.swResetCore seat v) s = .next s ∧ exec (.swResetStreams seat v) s = .next s) ∧
    (slice v.toNat 24 8 = 0xA5 → v.toNat % 2 = 1 →
      exec (.swResetDie seat v rn) s = .next (told.flushRecorder.dieReset 5 true none false rn)) ∧
    (∀ n : Fin 4, slice v.toNat 24 8 = 0xA5 → slice v.toNat 0 6 = 2 ^ (1 + n.val) →
      exec (.swResetCore seat v) s = .next (told.coreReset n 5)) ∧
    (slice v.toNat 24 8 = 0xA5 → slice v.toNat 0 6 = 32 → told.dev ≠ .recovery →
      exec (.swResetStreams seat v) s = .next told.askStreamReset)) ∧
  (∀ (s : State) (a : ApplyRun), s.img.apply = some a → (a.phase = .drain ∨ a.phase = .load) →
    s.askStreamReset = { s with boot := { s.boot with pendingStreams := true } }) ∧
  (∀ s : State, s.img.apply = none → s.askStreamReset = s.streamReset) ∧
  (∀ (s : State) (cause : Nat) (warm : Bool) (rail : Option Nat) (ff rn : Bool),
    let t := s.dieReset cause warm rail ff rn
    t.dev = .boot ∧ t.boot = { step := 2, warm := warm, sendFieldReset := ff } ∧
    t.backup = { s.backup with
      valid := true, cause := cause, warm := warm, rail := rail.getD 0, count := s.backup.count + 1
      attempts := min 15 (s.backup.attempts + 1) } ∧
    t.img = {} ∧ t.ledg = {} ∧ t.sched = {} ∧ t.cam = {} ∧ t.cap = {} ∧ t.train = {} ∧ t.net = {} ∧ t.sec = {} ∧
    t.pending = s.pending ∧ t.flash.slot = s.flash.slot ∧
    t.mem = (if warm then s.mem.filter fun c => decide (0x64000000 ≤ c.1) && decide (c.1 < 0x100000000) else []) ∧
    t.host.conns = s.host.conns ∧ t.host.mem0 = s.host.mem0 ∧ t.host.mem1 = s.host.mem1 ∧
    (∀ e, (Tab.getD t.motion.encs e {}).count = (Tab.getD s.motion.encs e {}).count) ∧
    t.motion.list = [] ∧ t.motion.insertQueue = [] ∧ t.motion.insertHold = [] ∧ t.motion.decideWait = [] ∧
    t.motion.suppressed = [] ∧ t.field.fcSafe = true ∧ t.field.linkState = 0 ∧
    (warm = false → rail = none → t.regs = (({} : State).setReg .rstBootStatus []
      (b2n s.backup.valid * 256 + b2n (!rn) * 2048)).regs)) ∧
  (∀ (s : State) (i : Fin 15),
    (s.islandOff i = true ∨ s.fld .rstIslands [] i 1 = 1 → exec (.debugForceRelease i) s = .next s) ∧
    (s.islandOff i = false → s.fld .rstIslands [] i 1 ≠ 1 →
      let t := (s.setFld .rstIslands [] (16 + i.val) 1 1).flagLog .rstPwrErr [] 5
        { errorRec 1 with status := Code.clockFault, arg0 := n64 i.val }
      exec (.debugForceRelease i) s = .next (if i.val < 4 then (t.setFlag .coreErr [i.val] 3).updCore i fun c =>
        { c with st := .clockFault, reloading := false } else t)))

/-- The steps of bring-up, in order. Each step acts only when it is due. The supplies' step loads the trims and
the options, and enters recovery for the first cause that holds: the strap, the boot limit, the trims, the
options; that order is read from the spec by inference (notes/assumptions/61.md). The last powered island to
be clock-good ends step 5; a core that overtemperature switched off stays off until a reset finds it cool.
Firmware that does not verify, memory that does not train and links that do not come up fail the boot with
their codes. Boot-complete zeroes the boot attempts and enters IDLE. -/
def Obligations.BringUp : Prop :=
  (∀ (s : State) (equal : List Bool), (s.boot.step ≠ 2 → exec (.supplyGood equal) s = .next s) ∧
    (s.boot.step = 2 →
      let a := s.loadTrims equal
      let b := a.1.loadOptions
      let u := b.1.setFld .rstBoot [] 4 3 (Opt.bootLimit b.1.boot.option)
      let t : State := { u with boot := { u.boot with step := 5 } }
      let strap := t.fld .rstBootStatus [] 11 1 = 1
      let tried := Opt.bootLimit t.boot.option < t.backup.attempts
      (strap → exec (.supplyGood equal) s = .next (t.enterRecovery Code.recoveryStrap)) ∧
      (¬strap → tried → exec (.supplyGood equal) s = .next (t.enterRecovery Code.bootLimit)) ∧
      (¬strap → ¬tried → a.2 = false → exec (.supplyGood equal) s = .next (t.enterRecovery Code.trimFailure)) ∧
      (¬strap → ¬tried → a.2 = true → ∀ e, b.2 = some e →
        exec (.supplyGood equal) s = .next (t.enterRecovery e)) ∧
      (¬strap → ¬tried → a.2 = true → b.2 = none → exec (.supplyGood equal) s = .next t))) ∧
  (∀ (s : State) (equal : List Bool),
    (s.loadTrims equal).2 = (equal.take 4).any id ∧
    (s.loadTrims equal).1.fld .rstTrimStatus [] 0 3 = (match (equal.take 4).findIdx? id with
      | some n => n + 1
      | none => 4)) ∧
  (∀ (r q p : Bytes), Opt.valid r = true →
    (chooseOption [r, r, p] = .ok (r, if p = r then [0, 1, 2] else [0, 1])) ∧
    (Opt.valid q = false → Opt.valid p = false → chooseOption [q, r, p] = .ok (r, [1])) ∧
    (Opt.valid q = true → Opt.valid p = false → q ≠ r → chooseOption [r, q, p] = .error Code.optionDivergence) ∧
    (∀ x, Opt.valid x = false → Opt.valid p = false → Opt.valid q = false →
      chooseOption [x, q, p] = .error Code.optionNone)) ∧
  (∀ (s : State) (i : Fin 15),
    let skip := (s.boot.step != 0 && s.boot.step < 5) || s.islandOff i || s.fld .rstIslands [] i 1 == 1 ||
      s.fld .rstIslands [] (16 + i.val) 1 == 1
    let u := s.setFld .rstIslands [] i 1 1
    (skip = true → exec (.islandClockGood i) s = .next s) ∧
    (skip = false → i.val < 4 → exec (.islandClockGood i) s = .next (u.coreRelease i).clocksDone) ∧
    (skip = false → 4 ≤ i.val → exec (.islandClockGood i) s = .next u.clocksDone)) ∧
  (∀ (s : State) (n : Nat), s.staysHot n = true → s.coreRelease n = s.updCore n fun c =>
    { c with resetSince := false }) ∧
  (∀ (s : State), s.boot.step = 5 → s.dev ≠ .recovery →
    ((∀ i, i < 15 → s.fld .rstIslands [] i 1 = 1) →
      s.clocksDone = { s with boot := { s.boot with step := 6 } }) ∧
    (∀ i, i < 15 → s.fld .rstIslands [] i 1 ≠ 1 → s.clocksDone = s)) ∧
  (∀ (s : State), (s.boot.step ≠ 6 ∨ s.boot.failed = true → exec .firmwareVerified s = .next s) ∧
    (s.boot.step = 6 → s.boot.failed = false →
      let f := s.flash.firmware
      (Fw.valid f = false → exec .firmwareVerified s =
        .next (({ s with boot := { s.boot with failed := true } } : State).log
          { errorRec 1 with status := Code.firmwareInvalid, initiator := 0x30 })) ∧
      (Fw.valid f = true → exec .firmwareVerified s = .next (({ s with
        boot := { s.boot with step := 7, fwVersion := n32 (Fw.version f), fwHash := sha512 f }
        sec := { s.sec with root := some (Fw.keyBlock f) } } : State).loadAddress)))) ∧
  (∀ (s : State) (channels : Nat), (s.boot.step ≠ 7 ∨ s.boot.failed = true →
      exec (.memoryTrained channels) s = .next s) ∧
    (s.boot.step = 7 → s.boot.failed = false →
      let good := 32 ≤ channels ∨ s.boot.warm = true ∧ s.backup.trained = true
      let up := s.memoryUp.sendFieldReset
      (s.dev ≠ .recovery → good → exec (.memoryTrained channels) s =
        .next { up with boot := { up.boot with step := 9 } }) ∧
      (s.dev ≠ .recovery → ¬good → exec (.memoryTrained channels) s =
        .next ((s.setFld .memStatus [] 1 6 channels).bootFails Code.memoryTraining)) ∧
      (s.dev = .recovery → good → exec (.memoryTrained channels) s =
        .next { up with boot := { up.boot with step := 0 } }) ∧
      (s.dev = .recovery → ¬good → exec (.memoryTrained channels) s =
        .next { s.sendFieldReset with boot := { s.sendFieldReset.boot with step := 0 } }))) ∧
  (∀ (s : State) (up : Bool),
    (s.boot.step ≠ 9 ∨ s.boot.failed = true ∨ s.dev ≠ .boot → exec (.bootComplete up) s = .next s) ∧
    (s.boot.step = 9 → s.boot.failed = false → s.dev = .boot →
      exec (.bootComplete false) s = .next (s.bootFails Code.internal) ∧
      exec (.bootComplete true) s = .next ((({ s with
        boot := { s.boot with step := 0 }
        backup := { s.backup with attempts := 0 }
        img := { s.img with autoLoad := if Opt.autoLoad s.boot.option then 1 else 0 } } : State).setFld
          .rstBootStatus [] 13 1 1).setDev .idle))) ∧
  (∀ s : State, (s.img.autoLoad ≠ 1 ∨ s.dev ≠ .idle → exec .slotCopyComplete s = .next s) ∧
    (s.img.autoLoad = 1 → s.dev = .idle → s.flash.slot = [] →
      exec .slotCopyComplete s = .next (s.autoFail Code.imageFormat)) ∧
    (s.img.autoLoad = 1 → s.dev = .idle → s.flash.slot ≠ [] → ∃ t : State, exec .slotCopyComplete s = .next t ∧
      t.img = { s.img with
        staging := .verifying, staged := none, verify := some ⟨none, s.flash.slot.length⟩, autoLoad := 2 } ∧
      t.mem = (s.store (halfBase s.stagingHalf) s.flash.slot).mem ∧
      { t with sec := s.sec, img := s.img, mem := s.mem } =
        { s.store (halfBase s.stagingHalf) s.flash.slot with mem := s.mem }))

/-- Options are committed, and clocks, temperatures and supplies are watched. COMMIT writes the window as the next
record of the three copies, unless a commit runs or a field is out of range, and the copies' writing ends it.
REVERT, BOOT_CLEAR and RTC_HI act at once. A core above a limit slows by 50 MHz a step down to 300 MHz, and
comes back by 50 MHz after 100 clear checks. Which of two option faults is reported first is the model's
choice (notes/assumptions/62.md), and so are the warnings on a supply's crossing of its limit
(notes/assumptions/63.md). -/
def Obligations.OptionsAndSupplies : Prop :=
  (∀ (s : State) (seat : Fin 4),
    let r := Opt.next (spliceBytes (bytesAt s.boot.window 0 1024) 0x100 (bytesAt s.boot.option 0x100 764))
      (Opt.seq s.boot.option)
    (s.boot.commit.isSome = true →
      exec (.commit seat) s = .next (s.setFld .rstOptStatus [] 8 8 Code.optionBusy) ∧
      exec (.revert seat) s = .next (s.setFld .rstOptStatus [] 8 8 Code.optionBusy)) ∧
    (s.boot.commit = none → Opt.reservedOk r = false →
      exec (.commit seat) s = .next (s.setFld .rstOptStatus [] 8 8 Code.fieldReserved)) ∧
    (s.boot.commit = none → Opt.reservedOk r = true → Opt.fieldsOk r = false →
      exec (.commit seat) s = .next (s.setFld .rstOptStatus [] 8 8 Code.optionFormat)) ∧
    (s.boot.commit = none → Opt.reservedOk r = true → Opt.fieldsOk r = true →
      exec (.commit seat) s = .next (({ s with boot := { s.boot with commit := some ⟨r, none, none⟩ } } :
        State).setFld .rstOptStatus [] 7 1 1)) ∧
    (s.boot.commit = none → exec (.revert seat) s =
      .next { s with boot := { s.boot with window := s.boot.option } }) ∧
    exec (.bootClear seat) s = .next { s with backup := { s.backup with attempts := 0 } } ∧
    ∀ v : Word, exec (.rtcHi seat v) s = .next { s with backup := { s.backup with
      rtcNs := (v.toNat % 65536 * 2 ^ 32 + s.boot.rtcLo.toNat) * 1000000000, rtcValid := true } }) ∧
  (∀ s : State, (s.boot.commit = none → exec .optionCopiesWritten s = .next s) ∧
    ∀ k, s.boot.commit = some k → exec .optionCopiesWritten s = .next ((((({ s with
      boot := { s.boot with option := k.record, window := k.record, commit := none }
      flash := { s.flash with options := [k.record, k.record, k.record] } } : State).setFld .rstOptStatus [] 7 1
        0).setFld .rstOptStatus [] 8 8 Code.ok)).answer k.by' Code.ok 0
          ((k.slot.map fun n => Keys.epoch k.record n).getD 0))) ∧
  (∀ (s : State) (n : Fin 4), (s.sched.core n).mhz = 0 ∨ (s.sched.core n).targetMhz = (s.sched.core n).mhz →
    exec (.operatingPointDone n) s = .next s) ∧
  (∀ (s : State) (n : Fin 4), (s.sched.core n).mhz ≠ 0 → exec (.operatingPointDone n) s =
    .next (s.updCore n fun c => { c with mhz := c.targetMhz })) ∧
  (∀ (c : Core) (mode : Nat) (clear : Bool),
    (c.throttleStep mode true clear).targetMhz = max 300 (c.targetMhz - 50) ∧
    (c.throttleStep mode true clear).throttled = true ∧
    (c.throttled = false → c.throttleStep mode false clear = c) ∧
    (c.throttled = true → c.throttleStep mode false false = { c with clearMs := 0 }) ∧
    (c.throttled = true → c.clearMs < 100 → c.throttleStep mode false true = { c with clearMs := c.clearMs + 1 }) ∧
    (c.throttled = true → 100 ≤ c.clearMs →
      (c.throttleStep mode false true).targetMhz = min mode (c.targetMhz + 50) ∧
      (c.throttleStep mode false true).throttled = decide (min mode (c.targetMhz + 50) < mode))) ∧
  (∀ (s : State) (tj : List Int) (plate : Int) (power : Nat), s.dev ≠ .recovery → (∀ t ∈ tj, t ≤ 105) →
    power ≤ s.img.power.limits.1 → plate ≤ s.img.power.limits.2 → (∀ n, (s.sched.core n).throttled = false) →
    exec (.throttleCheck tj plate power) s = .next
      (((((List.range 4).foldl (fun u n => u.setFld .rstTempCore [] (8 * n) 8 (toUnsigned 8 (tj.getD n 0)))
        (s.setFld .rstTempPlate [] 0 16 (toUnsigned 16 plate))).setFld .rstThrottle [] 4 1 0).setFld
        .rstThrottle [] 5 1 0).setFld .rstThrottle [] 6 1 0)) ∧
  (∀ (s : State) (n : Fin 4) (t : Int),
    ((s.sched.core n).hotOff = true → s.overtemp n t = s) ∧
    ((s.sched.core n).hotOff = false → s.overtemp n t = ((((s.fence n).updCore n fun c => { c with
      st := .off, cmd := none, sets := [], lostSets := [], stalled := 0, reloading := false, hotOff := true
      resetSince := false, mhz := 0 }).setFld .rstIslands [] n 1 0).flagLog .rstPwrErr [] 3
        { critical 1 with arg0 := n64 n.val, arg1 := n64 (toUnsigned 64 t) }))) ∧
  (∀ (s : State) (mv dw : Nat) (rails : List Nat),
    let before := s.fld .rstJ1 [] 0 16
    let u := (List.range 8).foldl (fun u n => u.setReg .rstRail [n]
        (sat (rails.getD n 0) 65535 + b2n (u.railOk n (rails.getD n 0)) * 65536))
      (s.setReg .rstJ1 [] (sat mv 65535 + sat dw 65535 * 65536))
    (17000 ≤ mv → mv ≤ 33000 → exec (.supplyMeasure mv dw rails) s = .next u) ∧
    (mv < 17000 → 17000 ≤ before ∨ before = 0 → exec (.supplyMeasure mv dw rails) s = .next
      (u.flagLog .rstPwrErr [] 1 { warning 1 with arg0 := n64 mv })) ∧
    (mv < 17000 → before < 17000 → before ≠ 0 → exec (.supplyMeasure mv dw rails) s = .next u) ∧
    (33000 < mv → before ≤ 33000 → exec (.supplyMeasure mv dw rails) s = .next
      (u.flagLog .rstPwrErr [] 2 { warning 1 with arg0 := n64 mv })) ∧
    (33000 < mv → 33000 < before → exec (.supplyMeasure mv dw rails) s = .next u))

/-! ### The phases of an apply (02_deurzor_image.md) -/

/-- A field wait, a drain and a load end. FIELD_WAIT_END stops the line triggers and starts the drain once the
eject list is empty and nothing waits to enter it. DRAIN_END starts the load once every stream has reached its
boundary and no old work is left. DRAIN_TIMEOUT takes the boundaries that are left, decides the parts of
uncommitted work as late, kills that work and starts the load. A load that fails leaves the old image running
and completes with its cause; one that succeeds makes the new image the running one, and a stream reset that
waited follows. Outside its phase each event changes nothing. -/
def Obligations.ApplyPhases : Prop :=
  (∀ (s : State), s.img.apply = none → exec .fieldWaitEnd s = .next s ∧ exec .drainEnd s = .next s ∧
    exec .drainTimeout s = .next s ∧ (s.boot.pendingStreams = false → ∀ f, exec (.loadPhaseEnd f) s = .next s)) ∧
  (∀ (s : State) (a : ApplyRun), s.img.apply = some a →
    (a.phase ≠ .fieldWait ∨ s.pendingSlots ≠ [] ∨ s.motion.insertQueue ≠ [] ∨ s.motion.insertHold ≠ [] → exec .fieldWaitEnd s = .next s) ∧
    (a.phase = .fieldWait → s.pendingSlots = [] → s.motion.insertQueue = [] → s.motion.insertHold = [] →
      exec .fieldWaitEnd s =
      .next (({ s with
        motion := { s.motion with divs := s.motion.divs.map fun x => (x.1, { x.2 with stopped := true }) }
        img := { s.img with apply := some { a with phase := .drain, drainStart := s.now } } } :
          State).closedBoundaries s.tb0Ns)) ∧
    (a.phase ≠ .drain → exec .drainEnd s = .next s ∧ exec .drainTimeout s = .next s) ∧
    (a.phase = .drain →
      let reached := ∀ x ∈ s.cam.streams, (Tab.get a.boundaries x.1).isSome
      (a.left ≠ .running ∨ reached → s.oldWork = [] → exec .drainEnd s =
        .next { s with img := { s.img with apply := some { a with phase := .load } } }) ∧
      (a.left = .running → ¬reached → exec .drainEnd s = .next s) ∧
      (s.oldWork ≠ [] → exec .drainEnd s = .next s) ∧
      (let u := s.cam.streams.foldl (fun u x =>
          if u.boundaryOpen x.1 then u.takeBoundary x.1 u.tb0Ns else u) s
        let late := ((u.oldWork.filter fun j => j.model != 2).flatMap fun j => (u.servedBy j).map Prod.fst).dedup
        let v := late.foldl (fun v k => v.decideDefault k 3 Code.applyDrain) u
        exec .drainTimeout s = .next (u.oldWork.foldl (fun v j => v.withdraw j.id) v).afterDecision.startLoad)) ∧
    (a.phase ≠ .load → ∀ f, exec (.loadPhaseEnd f) s = .next s.afterApply) ∧
    (a.phase = .load →
      (∀ c, exec (.loadPhaseEnd (some c)) s = .next (s.loadFailed a c.toNat).afterApply) ∧
      (s.planFor a.newImage = none → exec (.loadPhaseEnd none) s =
        .next (s.loadFailed a Code.imageResource).afterApply) ∧
      (∀ p, s.planFor a.newImage = some p → exec (.loadPhaseEnd none) s = .next (s.loadDone a p).afterApply))) ∧
  (∀ (s : State), (s.boot.pendingStreams = false ∨ s.img.apply ≠ none → s.afterApply = s) ∧
    (s.boot.pendingStreams = true → s.img.apply = none → s.afterApply =
      ({ s with boot := { s.boot with pendingStreams := false } } : State).streamReset)) ∧
  (∀ (s : State) (a : ApplyRun) (code : Nat), (s.loadFailed a code).img.running = s.img.running ∧
    (s.loadFailed a code).img.apply = none ∧ (s.loadFailed a code).img.gen = s.img.gen) ∧
  (∀ (s : State) (a : ApplyRun) (p : Plan), (s.loadDone a p).img.running = some a.newImage ∧
    (s.loadDone a p).img.gen = s.img.gen + 1 ∧ (s.loadDone a p).img.apply = none ∧
    (s.loadDone a p).img.overlays = [] ∧ (s.loadDone a p).img.staged = s.img.running.map (fun o =>
      { o with half := s.img.runHalf }))

/-! ### The event recorder (21_faults_and_event_recorder.md) -/

/-- Records take tokens, are coalesced, spilled and cleared. A record that finds a token takes it and is accepted
with the next SEQ; one that finds none joins the pending record of its source key and severity, and its flood
begins. The oldest record on chip moves to the spill ring. A refilled bucket admits its pending record. A
flood ends with a summary once its key is quiet. CLEAR_CRITICAL and CLEAR_ALL remove records and say who
asked, and ZERO_COUNTERS zeroes every companion counter and nothing else. That cleared and displaced spill
slots are zeroed is the model's choice (notes/assumptions/53.md). -/
def Obligations.EventRecorder : Prop :=
  (∀ (s : State), (s.rec'.queue = [] → exec .eventRecord s = .next s) ∧
    (∀ r q, s.rec'.queue = r :: q →
      let u : State := { s with rec' := { s.rec' with queue := q } }
      let b := u.bucket r.key r.severity
      (0 < b.tokens → exec .eventRecord s = .next
        (((u.setBucket { b with tokens := b.tokens - 1 }).floodCount r false).acceptOrDrop r)) ∧
      (b.tokens = 0 → exec .eventRecord s = .next ((u.setBucket (b.coalesce r)).floodCount r true)))) ∧
  (∀ (s : State) (r : EvRec), s.snapClass r = none → s.onChip + r.size ≤ 8192 →
    let u : State := { s with rec' := { s.rec' with
      chip := s.rec'.chip ++ [{ r with seq := s.rec'.seqNext }], seqNext := s.rec'.seqNext + r.size } }
    s.acceptOrDrop r = if 4 ≤ r.severity then (u.exportRec { r with seq := s.rec'.seqNext }).raiseAll 0
      else u.exportRec { r with seq := s.rec'.seqNext }) ∧
  (∀ (b : Bucket) (r : EvRec),
    (b.pending = none → (b.coalesce r).pending = some { r with
      flags := r.flags ||| 0x02, count := 1, arg1 := r.time }) ∧
    (∀ p, b.pending = some p → (b.coalesce r).pending = some { p with
      count := min (p.count + 1) 0xFFFF, arg1 := r.time }) ∧
    { b.coalesce r with pending := b.pending } = b) ∧
  (∀ (s : State), s.rec'.spillOk = true → s.mc.bad = [] → ∀ r q, s.rec'.chip = r :: q →
    s.rec'.ring.length + r.size ≤ 524288 →
    let slots := s.spillSlots r.size
    let t := (slots.zip r.parts).foldl (fun t (k, p) => t.store (spillAddr k) p.2) s
    exec .spillMove s = .next { t with rec' := { t.rec' with
      chip := q
      ring := s.rec'.ring ++ (slots.zip r.parts).map fun (k, p) => (k, p.1, r.severity)
      ringNext := ((slots.getLast?).getD s.rec'.ringNext + 1) % 524288 } }) ∧
  (∀ (s : State), s.mc.bad = [] → s.rec'.spillOk = false ∨ s.rec'.chip = [] → exec .spillMove s = .next s) ∧
  (∀ (s : State) (i : Nat),
    (s.rec'.buckets[i]? = none → exec (.tokenRefill i) s = .next s) ∧
    (∀ b, s.rec'.buckets[i]? = some b → b.pending = none → exec (.tokenRefill i) s =
      .next (s.setBucket { b with tokens := min (b.tokens + 1) (s.burst b.severity) })) ∧
    (∀ b p t, s.rec'.buckets[i]? = some b → b.pending = some p → 0 < s.burst b.severity → s.accept p = some t →
      exec (.tokenRefill i) s = .next (t.setBucket { b with
        tokens := min (b.tokens + 1) (s.burst b.severity) - 1, pending := none }))) ∧
  (∀ (s : State) (i : Nat),
    (s.rec'.floods[i]? = none → exec (.floodEnd i) s = .next s) ∧
    (∀ f, s.rec'.floods[i]? = some f →
      (s.keyQuiet f.key = false → exec (.floodEnd i) s = .next s) ∧
      (s.keyQuiet f.key = true → exec (.floodEnd i) s = .next
        (({ s with rec' := { s.rec' with floods := s.rec'.floods.eraseIdx i } } : State).acceptOrDrop
          { ev f.severity f.key.source with
            time := s.tb0, tb1 := n64 s.now, status := f.key.status, flags := 0x04, flagReg := f.key.flagReg
            flagBit := f.key.flagBit, arg0 := n64 f.total, arg1 := n64 ((s.now - f.start) / 1000) }))) ) ∧
  (∀ (s : State) (seat : Fin 4), s.rec'.ring = [] →
    exec (.clearCritical seat) s = .next (({ s with rec' := { s.rec' with
      chip := s.rec'.chip.filter fun r => r.severity != 5 } } : State).log { notice 3 with initiator := seat }) ∧
    exec (.clearAll seat) s = .next (({ s with rec' := { s.rec' with chip := [] } } : State).log
      { notice 3 with initiator := seat })) ∧
  (∀ (s : State) (seat : Fin 4), ∃ t u : State,
    exec (.clearCritical seat) s = .next (t.log { notice 3 with initiator := seat }) ∧
    t.rec'.chip = (s.rec'.chip.filter fun r => r.severity != 5) ∧
    (∀ r ∈ t.rec'.ring, r ∈ s.rec'.ring ∧ r.2.2 ≠ 5) ∧
    exec (.clearAll seat) s = .next (u.log { notice 3 with initiator := seat }) ∧
    u.rec'.chip = [] ∧ u.rec'.ring = [] ∧ u.rec'.seqNext = s.rec'.seqNext) ∧
  (∀ (s : State) (seat : Fin 4), ∃ t : State, exec (.zeroCounters seat) s = .next t ∧
    { t with regs := s.regs } = s ∧
    (∀ e ∈ t.regs, e ∈ s.regs ∧ ((regAt e.1).map fun r => r.1.isCounter) ≠ some true) ∧
    ∀ e ∈ s.regs, ((regAt e.1).map fun r => r.1.isCounter) ≠ some true → e ∈ t.regs)

/-! ### Reset, ticks and memory (20_reset_clocks_power.md, 15_line_group_and_time.md, 17_memory.md) -/

/-- The state right after reset. After reset the device is in BOOT with no image, no part, no bound stream and no
command waiting; every register reads its reset value, the sequence count of parts and of records is 1, and
memory is in canonical form. That memory reads as 0 and that flash holds the default option record are the
model's choices (notes/assumptions/1.md and 5.md). -/
def Obligations.ResetState : Prop :=
  State.reset.pending = [] ∧ State.reset.dev = .boot ∧ State.reset.img.running = none ∧
  State.reset.img.apply = none ∧ State.reset.ledg.parts = [] ∧ State.reset.ledg.seqNext = 1 ∧
  State.reset.rec'.seqNext = 1 ∧ State.reset.cam.streams = [] ∧ State.reset.host.outstanding = [] ∧
  State.reset.mc.bad = [] ∧ State.reset.memWf = true ∧ (∀ a n, State.reset.load a n = List.replicate n 0) ∧
  (∀ r ix, State.reset.stored r ix = r.reset ix) ∧
  (∀ o ∈ State.reset.flash.options, bytesAt o 0 4 = [0x49, 0x4F, 0x50, 0x54] ∧ byteAt o 9 = 0 ∧ byteAt o 0xA = 3)

/-- A tick of the clock, and what a write leaves in memory. With no command waiting a step is one tick: the four
time bases and the real-time clock advance, and with nothing due, queued for export or waiting in a ring that
is all. That the empty queue ticks is the model's choice (notes/assumptions/12.md). Bytes written are the
bytes read back, every other byte stays, and memory keeps its canonical form. A whole write of an
uncorrectable granule makes it good again; a part of one is discarded, reported and flagged. -/
def Obligations.TicksAndMemory : Prop :=
  (∀ s : State, s.pending = [] → step s = .next (((s.advance 1).fireDue).drainSyslog.drainFanout).takeAll ∧
    (s.img.items = [] → s.rec'.syslog = {} → s.rec'.fanout = {} → s.entriesWaiting = 0 →
      step s = .next (s.advance 1))) ∧
  (∀ (s : State) (k : Nat),
    (s.advance k).time.tb0 = s.time.tb0.set (s.time.tb0.value + s.time.tb0.inc * k) ∧
    (s.advance k).time.tb1 = s.time.tb1.set (s.time.tb1.value + s.time.tb1.inc * k) ∧
    (s.advance k).time.tb2 = s.time.tb2.set (s.time.tb2.value + s.time.tb2.inc * k) ∧
    (s.advance k).time.tb3 = s.time.tb3.set (s.time.tb3.value + s.time.tb3.inc * k) ∧
    (s.advance k).backup.rtcNs = s.backup.rtcNs + 4 * k ∧
    { s.advance k with time := s.time, backup := s.backup } = s) ∧
  (∀ (s : State) (a : Nat) (data : Bytes), Mem.wf s.mem = true → s.badIn a data.length = none →
    Mem.wf (s.store a data).mem = true ∧ (s.store a data).load a data.length = data ∧
    (∀ c, c < a ∨ a + data.length ≤ c → Mem.read (s.store a data).mem c = Mem.read s.mem c) ∧
    { s.store a data with mem := s.mem } = s) ∧
  (∀ (s : State) (a : Nat) (data : Bytes), Mem.wf s.mem = true → Mem.wf (s.store a data).mem = true) ∧
  (∀ (s : State) (g : Nat) (data : Bytes), Mem.wf s.mem = true → g % 64 = 0 → s.mc.bad = [g] →
    (data.length = 64 → (s.store g data).mc.bad = [] ∧ (s.store g data).load g 64 = data) ∧
    (0 < data.length → data.length < 64 →
      s.store g data = (s.setFlag .memErr [] 2).reportUe g 0x40 ∧
      (s.store g data).mc.bad = [] ∧ (s.store g data).load g 64 = List.replicate 64 0)) ∧
  (∀ (s : State) (seat a : Nat) (data : Bytes), s.memWf = true → (s.hostStore seat a data).memWf = true ∧
    (seat = 0 → Mem.readAll (s.hostStore seat a data).host.mem0 a data.length = data ∧
      (s.hostStore seat a data).host.mem1 = s.host.mem1) ∧
    (seat ≠ 0 → Mem.readAll (s.hostStore seat a data).host.mem1 a data.length = data ∧
      (s.hostStore seat a data).host.mem0 = s.host.mem0) ∧
    (s.hostStore seat a data).mem = s.mem)

/-- Every step keeps the canonical form of memory. From every state whose three memories (the module's own and the
two host memories a module reaches) are in canonical form, a step of any command, and a tick, leaves them in
canonical form: strictly rising addresses and no byte listed that reads as an unlisted one does. That an
unlisted byte reads as 0 is the model's choice (notes/assumptions/1.md and 2.md). -/
def Obligations.EveryStepKeepsMemory : Prop :=
  ∀ s t : State, s.memWf = true → step s = .next t → t.memWf = true
end

