-- ==== Sys2Proof/Laws/Bits.lean ====
section
/-! SUPPORT. What the byte, table and memory helpers do: a number read back from its bytes, a field read
back from a word, an entry read back from a table, a byte read back from memory, and that every memory
operation keeps the canonical form. -/

namespace Sys2Proof.Machine

/-! ### Numbers -/

@[simp] theorem natLe_length (n v : Nat) : (natLe n v).length = n := by
  induction n generalizing v with
  | zero => rfl
  | succ n ih => simp [natLe, ih]

/-- A number that fits comes back from its little-endian bytes. -/
theorem leNat_natLe (n v : Nat) : leNat (natLe n v) = v % 256 ^ n := by
  induction n generalizing v with
  | zero => simp [natLe, leNat, Nat.mod_one]
  | succ n ih =>
    have e : 256 ^ (n + 1) = 256 * 256 ^ n := by rw [Nat.pow_succ, Nat.mul_comm]
    rw [e, Nat.mod_mul, natLe, leNat, ih]
    rfl

/-- The field just put in reads back, modulo its width. -/
theorem slice_putSlice_same (v lo w x : Nat) : slice (putSlice v lo w x) lo w = x % 2 ^ w := by
  unfold slice putSlice slice
  have hp : 0 < 2 ^ lo := Nat.two_pow_pos lo
  have hw : 0 < 2 ^ w := Nat.two_pow_pos w
  have e : v = v % 2 ^ lo + (v / 2 ^ lo % 2 ^ w) * 2 ^ lo + v / 2 ^ lo / 2 ^ w * 2 ^ w * 2 ^ lo := by
    have a := Nat.mod_add_div v (2 ^ lo)
    have b := Nat.mod_add_div (v / 2 ^ lo) (2 ^ w)
    calc v = v % 2 ^ lo + 2 ^ lo * (v / 2 ^ lo) := a.symm
      _ = v % 2 ^ lo + 2 ^ lo * (v / 2 ^ lo % 2 ^ w + 2 ^ w * (v / 2 ^ lo / 2 ^ w)) := by rw [b]
      _ = _ := by ring
  have hl : v % 2 ^ lo < 2 ^ lo := Nat.mod_lt _ hp
  have e2 : v - v / 2 ^ lo % 2 ^ w * 2 ^ lo + x % 2 ^ w * 2 ^ lo =
      v % 2 ^ lo + 2 ^ lo * (x % 2 ^ w + 2 ^ w * (v / 2 ^ lo / 2 ^ w)) := by
    have : v - v / 2 ^ lo % 2 ^ w * 2 ^ lo = v % 2 ^ lo + v / 2 ^ lo / 2 ^ w * 2 ^ w * 2 ^ lo := by omega
    rw [this]; ring
  rw [e2, Nat.add_mul_div_left _ _ hp, Nat.div_eq_of_lt hl, Nat.zero_add, Nat.add_mul_mod_self_left,
    Nat.mod_mod]

/-- A word without one field and what lies above and below it. -/
theorem putSlice_parts (v lo w x : Nat) :
    putSlice v lo w x = v % 2 ^ lo + 2 ^ lo * (x % 2 ^ w + 2 ^ w * (v / 2 ^ lo / 2 ^ w)) := by
  unfold putSlice slice
  have e : v = v % 2 ^ lo + (v / 2 ^ lo % 2 ^ w) * 2 ^ lo + v / 2 ^ lo / 2 ^ w * 2 ^ w * 2 ^ lo := by
    have a := Nat.mod_add_div v (2 ^ lo)
    have b := Nat.mod_add_div (v / 2 ^ lo) (2 ^ w)
    calc v = v % 2 ^ lo + 2 ^ lo * (v / 2 ^ lo) := a.symm
      _ = v % 2 ^ lo + 2 ^ lo * (v / 2 ^ lo % 2 ^ w + 2 ^ w * (v / 2 ^ lo / 2 ^ w)) := by rw [b]
      _ = _ := by ring
  have : v - v / 2 ^ lo % 2 ^ w * 2 ^ lo = v % 2 ^ lo + v / 2 ^ lo / 2 ^ w * 2 ^ w * 2 ^ lo := by omega
  rw [this]; ring

/-- A field below the one put in is as before. -/
theorem slice_putSlice_below (v lo w x lo' w' : Nat) (h : lo' + w' ≤ lo) :
    slice (putSlice v lo w x) lo' w' = slice v lo' w' := by
  obtain ⟨d, rfl⟩ := Nat.exists_eq_add_of_le h
  have key : ∀ q, (v % 2 ^ (lo' + w' + d) + 2 ^ (lo' + w' + d) * q) / 2 ^ lo' % 2 ^ w' =
      v / 2 ^ lo' % 2 ^ w' := by
    intro q
    have a : ∀ n, n / 2 ^ lo' % 2 ^ w' = n % 2 ^ (lo' + w') / 2 ^ lo' := by
      intro n
      rw [Nat.pow_add, Nat.mod_mul_right_div_self]
    rw [a, a]
    congr 1
    rw [Nat.pow_add 2 (lo' + w') d, Nat.mul_assoc, Nat.add_mul_mod_self_left, Nat.mod_mul_right_mod]
  rw [putSlice_parts]
  exact key _

/-- A field above the one put in is as before. -/
theorem slice_putSlice_above (v lo w x lo' w' : Nat) (h : lo + w ≤ lo') :
    slice (putSlice v lo w x) lo' w' = slice v lo' w' := by
  obtain ⟨d, rfl⟩ := Nat.exists_eq_add_of_le h
  rw [putSlice_parts]
  have hl : v % 2 ^ lo < 2 ^ lo := Nat.mod_lt _ (Nat.two_pow_pos lo)
  have hx : x % 2 ^ w < 2 ^ w := Nat.mod_lt _ (Nat.two_pow_pos w)
  unfold slice
  congr 1
  rw [Nat.pow_add, Nat.pow_add, ← Nat.div_div_eq_div_mul, ← Nat.div_div_eq_div_mul,
    ← Nat.div_div_eq_div_mul, ← Nat.div_div_eq_div_mul, Nat.add_mul_div_left _ _ (Nat.two_pow_pos lo),
    Nat.div_eq_of_lt hl, Nat.zero_add, Nat.add_mul_div_left _ _ (Nat.two_pow_pos w),
    Nat.div_eq_of_lt hx, Nat.zero_add]

/-- A field put into a word of 32 bits leaves a word of 32 bits. -/
theorem putSlice_lt (v lo w x : Nat) (hv : v < 2 ^ 32) (h : lo + w ≤ 32) : putSlice v lo w x < 2 ^ 32 := by
  rw [putSlice_parts]
  obtain ⟨d, hd⟩ := Nat.exists_eq_add_of_le h
  have hl : v % 2 ^ lo < 2 ^ lo := Nat.mod_lt _ (Nat.two_pow_pos lo)
  have hx : x % 2 ^ w < 2 ^ w := Nat.mod_lt _ (Nat.two_pow_pos w)
  have e : (2 : Nat) ^ 32 = 2 ^ lo * (2 ^ w * 2 ^ d) := by
    rw [hd, Nat.pow_add, Nat.pow_add, Nat.mul_assoc]
  have hq : v / 2 ^ lo / 2 ^ w < 2 ^ d := by
    rw [Nat.div_lt_iff_lt_mul (Nat.two_pow_pos w), Nat.div_lt_iff_lt_mul (Nat.two_pow_pos lo)]
    calc v < 2 ^ 32 := hv
      _ = _ := by rw [e]; ring
  have h1 : x % 2 ^ w + 2 ^ w * (v / 2 ^ lo / 2 ^ w) + 1 ≤ 2 ^ w * 2 ^ d := by
    calc _ ≤ 2 ^ w + 2 ^ w * (v / 2 ^ lo / 2 ^ w) := by omega
      _ = 2 ^ w * (v / 2 ^ lo / 2 ^ w + 1) := by ring
      _ ≤ 2 ^ w * 2 ^ d := Nat.mul_le_mul_left _ hq
  calc _ < 2 ^ lo + 2 ^ lo * (x % 2 ^ w + 2 ^ w * (v / 2 ^ lo / 2 ^ w)) := by omega
    _ = 2 ^ lo * (x % 2 ^ w + 2 ^ w * (v / 2 ^ lo / 2 ^ w) + 1) := by ring
    _ ≤ 2 ^ lo * (2 ^ w * 2 ^ d) := Nat.mul_le_mul_left _ h1
    _ = 2 ^ 32 := e.symm

/-! ### Tables -/

@[simp] theorem Tab.get_put_same {α : Type} (t : Tab α) (k : Nat) (v : α) : Tab.get (Tab.put t k v) k = some v := by
  induction t with
  | nil => simp [Tab.put, Tab.get]
  | cons e r ih =>
    obtain ⟨j, a⟩ := e
    simp only [Tab.put]
    split
    · simp [Tab.get]
    · split
      · simp [Tab.get]
      · rw [Tab.get, if_neg (by omega)]; exact ih

theorem Tab.get_put_other {α : Type} (t : Tab α) (k j : Nat) (v : α) (h : j ≠ k) :
    Tab.get (Tab.put t k v) j = Tab.get t j := by
  induction t with
  | nil => simp [Tab.put, Tab.get, Ne.symm h]
  | cons e r ih =>
    obtain ⟨i, a⟩ := e
    simp only [Tab.put]
    split
    · rw [Tab.get, if_neg (by omega)]
    · split
      · next hk => subst hk; rw [Tab.get, Tab.get, if_neg (by omega), if_neg (by omega)]
      · simp only [Tab.get, ih]

@[simp] theorem Tab.get_del_same {α : Type} (t : Tab α) (k : Nat) : Tab.get (Tab.del t k) k = none := by
  induction t with
  | nil => rfl
  | cons e r ih =>
    obtain ⟨j, a⟩ := e
    by_cases hj : j = k
    · simpa [Tab.del, hj] using ih
    · simpa [Tab.del, hj, Tab.get] using ih

theorem Tab.get_del_other {α : Type} (t : Tab α) (k j : Nat) (h : j ≠ k) :
    Tab.get (Tab.del t k) j = Tab.get t j := by
  induction t with
  | nil => rfl
  | cons e r ih =>
    obtain ⟨i, a⟩ := e
    by_cases hi : i = k
    · subst hi
      have : Tab.del ((i, a) :: r) i = Tab.del r i := by simp [Tab.del]
      rw [this, ih, Tab.get, if_neg (Ne.symm h)]
    · have : Tab.del ((i, a) :: r) k = (i, a) :: Tab.del r k := by simp [Tab.del, hi]
      rw [this, Tab.get, Tab.get, ih]

@[simp] theorem Tab.getD_put_same {α : Type} (t : Tab α) (k : Nat) (v d : α) :
    Tab.getD (Tab.put t k v) k d = v := by simp [Tab.getD]

theorem Tab.getD_put_other {α : Type} (t : Tab α) (k j : Nat) (v d : α) (h : j ≠ k) :
    Tab.getD (Tab.put t k v) j d = Tab.getD t j d := by simp [Tab.getD, Tab.get_put_other t k j v h]

/-! ### Memory -/

theorem Mem.read_low (m : List (Nat × Byte)) (lo a : Nat) (hm : Mem.above (some lo) m = true) (h : a ≤ lo) :
    Mem.read m a = 0 := by
  cases m with
  | nil => rfl
  | cons e r =>
    obtain ⟨k, v⟩ := e
    simp only [Mem.above, Bool.and_eq_true, decide_eq_true_eq] at hm
    rw [Mem.read, if_neg (by omega), if_pos (by omega)]

theorem Mem.above_mono (m : List (Nat × Byte)) (lo lo' : Nat) (h : lo' ≤ lo)
    (hm : Mem.above (some lo) m = true) : Mem.above (some lo') m = true := by
  cases m with
  | nil => rfl
  | cons e r =>
    obtain ⟨k, v⟩ := e
    simp only [Mem.above, Bool.and_eq_true, decide_eq_true_eq] at hm ⊢
    exact ⟨⟨by omega, hm.1.2⟩, hm.2⟩

theorem Mem.above_none (m : List (Nat × Byte)) (lo : Nat) (hm : Mem.above (some lo) m = true) :
    Mem.above none m = true := by
  cases m with
  | nil => rfl
  | cons e r =>
    obtain ⟨k, v⟩ := e
    simp only [Mem.above, Bool.and_eq_true, decide_eq_true_eq] at hm ⊢
    tauto

/-- A write above a bound keeps the form above the bound. -/
theorem Mem.above_write (m : List (Nat × Byte)) (lo : Nat) (a : Nat) (b : Byte) (ha : lo < a)
    (hm : Mem.above (some lo) m = true) : Mem.above (some lo) (Mem.write m a b) = true := by
  induction m generalizing lo with
  | nil =>
    simp only [Mem.write]
    split <;> simp_all [Mem.above]
  | cons e r ih =>
    obtain ⟨k, v⟩ := e
    simp only [Mem.above, Bool.and_eq_true, decide_eq_true_eq] at hm
    simp only [Mem.write]
    split
    · split <;> simp_all [Mem.above]
    · split
      · next hk =>
        subst hk
        split
        · exact Mem.above_mono r a lo (by omega) hm.2
        · simp_all [Mem.above]
      · simp only [Mem.above, Bool.and_eq_true, decide_eq_true_eq]
        exact ⟨hm.1, ih k (by omega) hm.2⟩

/-- Writing a byte keeps the canonical form. -/
theorem Mem.wf_write (m : List (Nat × Byte)) (a : Nat) (b : Byte) (hm : Mem.wf m = true) :
    Mem.wf (Mem.write m a b) = true := by
  unfold Mem.wf at *
  cases m with
  | nil =>
    simp only [Mem.write]
    split <;> simp_all [Mem.above]
  | cons e r =>
    obtain ⟨k, v⟩ := e
    simp only [Mem.above, Bool.true_and, Bool.and_eq_true] at hm
    simp only [Mem.write]
    split
    · split <;> simp_all [Mem.above]
    · split
      · next hk =>
        subst hk
        split
        · exact Mem.above_none r a hm.2
        · simp_all [Mem.above]
      · simp only [Mem.above, Bool.true_and, Bool.and_eq_true]
        exact ⟨hm.1, Mem.above_write r k a b (by omega) hm.2⟩

/-- Writing bytes keeps the canonical form. -/
theorem Mem.wf_writeAll (m : List (Nat × Byte)) (a : Nat) (d : Bytes) (hm : Mem.wf m = true) :
    Mem.wf (Mem.writeAll m a d) = true := by
  induction d generalizing m a with
  | nil => exact hm
  | cons b bs ih => exact ih _ _ (Mem.wf_write m a b hm)

theorem Mem.read_write_above (m : List (Nat × Byte)) (lo a c : Nat) (b : Byte) (hm : Mem.above (some lo) m = true) :
    Mem.read (Mem.write m a b) c = if c = a then b else Mem.read m c := by
  induction m generalizing lo with
  | nil =>
    have e : Mem.write [] a b = if b = 0 then [] else [(a, b)] := rfl
    rw [e]
    by_cases hc : c = a
    · subst hc
      split
      · next hb => simp [Mem.read, hb]
      · simp [Mem.read]
    · split <;> simp [Mem.read, Ne.symm hc]
  | cons e r ih =>
    obtain ⟨k, v⟩ := e
    simp only [Mem.above, Bool.and_eq_true, decide_eq_true_eq] at hm
    simp only [Mem.write]
    by_cases h1 : a < k
    · rw [if_pos h1]
      by_cases hb : b = 0
      · rw [if_pos hb]
        by_cases hc : c = a
        · subst hc; rw [if_pos rfl, Mem.read, if_neg (by omega), if_pos h1, hb]
        · rw [if_neg hc]
      · rw [if_neg hb]
        by_cases hc : c = a
        · subst hc; rw [if_pos rfl, Mem.read, if_pos rfl]
        · rw [if_neg hc]
          by_cases hlt : c < a
          · rw [Mem.read, if_neg (by omega), if_pos hlt, Mem.read, if_neg (by omega), if_pos (by omega)]
          · conv_lhs => rw [Mem.read]
            rw [if_neg (by omega), if_neg hlt]
    · rw [if_neg h1]
      by_cases h2 : a = k
      · rw [if_pos h2]
        subst h2
        by_cases hc : c = a
        · subst hc
          rw [if_pos rfl]
          by_cases hb : b = 0
          · rw [if_pos hb, hb]; exact Mem.read_low r c c hm.2 (Nat.le_refl c)
          · rw [if_neg hb, Mem.read, if_pos rfl]
        · rw [if_neg hc]
          conv_rhs => rw [Mem.read]
          rw [if_neg (Ne.symm hc)]
          by_cases hb : b = 0
          · rw [if_pos hb]
            by_cases hlt : c < a
            · rw [if_pos hlt]; exact Mem.read_low r a c hm.2 (by omega)
            · rw [if_neg hlt]
          · rw [if_neg hb, Mem.read, if_neg (Ne.symm hc)]
      · rw [if_neg h2]
        simp only [Mem.read]
        rw [ih k hm.2]
        by_cases hc : c = a
        · subst hc; rw [if_pos rfl, if_neg (Ne.symm h2), if_neg h1, if_pos rfl]
        · simp [hc]

/-- A byte written reads back, and every other byte reads as before. -/
theorem Mem.read_write (m : List (Nat × Byte)) (a c : Nat) (b : Byte) (hm : Mem.wf m = true) :
    Mem.read (Mem.write m a b) c = if c = a then b else Mem.read m c := by
  cases m with
  | nil => exact Mem.read_write_above [] 0 a c b rfl
  | cons e r =>
    obtain ⟨k, v⟩ := e
    unfold Mem.wf at hm
    simp only [Mem.above, Bool.true_and, Bool.and_eq_true] at hm
    by_cases hk : 0 < k
    · exact Mem.read_write_above _ 0 a c b (by
        simp only [Mem.above, Bool.and_eq_true, decide_eq_true_eq]
        exact ⟨⟨hk, hm.1⟩, hm.2⟩)
    · have hk0 : k = 0 := by omega
      subst hk0
      by_cases ha : a = 0
      · subst ha
        have e : Mem.write ((0, v) :: r) 0 b = if b = 0 then r else (0, b) :: r := rfl
        rw [e]
        by_cases hc : c = 0
        · subst hc
          rw [if_pos rfl]
          by_cases hb : b = 0
          · rw [if_pos hb, hb]; exact Mem.read_low r 0 0 hm.2 (Nat.le_refl 0)
          · rw [if_neg hb, Mem.read, if_pos rfl]
        · have past : ∀ x : Byte, Mem.read ((0, x) :: r) c = Mem.read r c := fun x => by
            have h0 : ¬c < 0 := by omega
            simp only [Mem.read, Ne.symm hc, h0, if_false]
          rw [if_neg hc, past]
          by_cases hb : b = 0
          · rw [if_pos hb]
          · rw [if_neg hb, past]
      · simp only [Mem.write]
        rw [if_neg (by omega), if_neg ha]
        simp only [Mem.read]
        rw [Mem.read_write_above r 0 a c b hm.2]
        by_cases hc : c = a
        · subst hc; rw [if_pos rfl, if_neg (Ne.symm ha), if_neg (by omega), if_pos rfl]
        · simp [hc]

/-- Bytes written read back, and every byte outside them reads as before. -/
theorem Mem.read_writeAll (m : List (Nat × Byte)) (a c : Nat) (d : Bytes) (hm : Mem.wf m = true) :
    Mem.read (Mem.writeAll m a d) c =
      if a ≤ c ∧ c < a + d.length then d.getD (c - a) 0 else Mem.read m c := by
  induction d generalizing m a with
  | nil =>
    rw [if_neg (by simp only [List.length_nil]; omega)]; rfl
  | cons b bs ih =>
    rw [Mem.writeAll, ih _ _ (Mem.wf_write m a b hm), Mem.read_write m a c b hm]
    by_cases hc : c = a
    · subst hc
      rw [if_neg (by omega), if_pos rfl, if_pos (by simp)]
      simp
    · by_cases hin : a + 1 ≤ c ∧ c < a + 1 + bs.length
      · rw [if_pos hin, if_pos (by simp only [List.length_cons]; omega)]
        obtain ⟨j, hj⟩ : ∃ j, c - a = j + 1 := ⟨c - a - 1, by omega⟩
        have : c - (a + 1) = j := by omega
        rw [this, hj, List.getD_cons_succ]
      · rw [if_neg hin, if_neg hc, if_neg (by simp only [List.length_cons]; omega)]

/-- Bytes just written, read as a whole. -/
theorem Mem.readAll_writeAll_same (m : List (Nat × Byte)) (a : Nat) (d : Bytes) (hm : Mem.wf m = true) :
    Mem.readAll (Mem.writeAll m a d) a d.length = d := by
  apply List.ext_getElem
  · simp [Mem.readAll]
  · intro i h1 h2
    have h3 : i < d.length := h2
    simp only [Mem.readAll, List.getElem_map, List.getElem_range]
    rw [Mem.read_writeAll m a (a + i) d hm, if_pos (by omega)]
    simp [h3]

end Sys2Proof.Machine
end

