-- ==== Sys2Proof/Laws/Registers.lean ====
section
/-! SUPPORT. Reading a register after a write: the register written, every other register, and the fields of a
register; and what setting a flag leaves. -/

namespace Sys2Proof.Machine

@[simp] theorem State.stored_setStored_same (s : State) (r : RN) (ix : List Nat) (v : Word) :
    (s.setStored r ix v).stored r ix = v := by
  unfold State.setStored State.stored Tab.getD
  by_cases h : v = r.reset ix
  · simp [h]
  · simp [h]

/-- A register at another offset reads as before. -/
theorem State.stored_setStored_other (s : State) (r q : RN) (ix jx : List Nat) (v : Word)
    (h : q.off jx ≠ r.off ix) : (s.setStored r ix v).stored q jx = s.stored q jx := by
  unfold State.setStored State.stored Tab.getD
  by_cases hv : v = r.reset ix
  · simp only [hv, if_true, Tab.get_del_other _ _ _ h]
  · simp only [hv, if_false, Tab.get_put_other _ _ _ _ h]

@[simp] theorem State.reg_setReg_same (s : State) (r : RN) (ix : List Nat) (x : Nat) :
    (s.setReg r ix x).reg r ix = x % 2 ^ 32 := by
  simp only [State.reg, State.setReg, State.stored_setStored_same, n32, BitVec.toNat_ofNat]

theorem State.reg_setReg_other (s : State) (r q : RN) (ix jx : List Nat) (x : Nat) (h : q.off jx ≠ r.off ix) :
    (s.setReg r ix x).reg q jx = s.reg q jx := by
  simp only [State.reg, State.setReg, State.stored_setStored_other _ _ _ _ _ _ h]

/-- The field just written reads back, modulo its width. -/
theorem State.fld_setFld_same (s : State) (r : RN) (ix : List Nat) (lo w x : Nat) (h : lo + w ≤ 32) :
    (s.setFld r ix lo w x).fld r ix lo w = x % 2 ^ w := by
  have hb := putSlice_lt (s.stored r ix).toNat lo w x (s.stored r ix).isLt h
  simp only [State.fld, State.setFld, State.stored_setStored_same, n32, BitVec.toNat_ofNat, Nat.mod_eq_of_lt hb,
    slice_putSlice_same]

/-- A field of the same register that does not meet the one written reads as before. -/
theorem State.fld_setFld_apart (s : State) (r : RN) (ix : List Nat) (lo w x lo' w' : Nat) (h : lo + w ≤ 32)
    (ha : lo' + w' ≤ lo ∨ lo + w ≤ lo') : (s.setFld r ix lo w x).fld r ix lo' w' = s.fld r ix lo' w' := by
  have hb := putSlice_lt (s.stored r ix).toNat lo w x (s.stored r ix).isLt h
  simp only [State.fld, State.setFld, State.stored_setStored_same, n32, BitVec.toNat_ofNat, Nat.mod_eq_of_lt hb]
  cases ha with
  | inl ha => exact slice_putSlice_below _ _ _ _ _ _ ha
  | inr ha => exact slice_putSlice_above _ _ _ _ _ _ ha

theorem State.stored_setFld_other (s : State) (r q : RN) (ix jx : List Nat) (lo w x : Nat)
    (h : q.off jx ≠ r.off ix) : (s.setFld r ix lo w x).stored q jx = s.stored q jx :=
  State.stored_setStored_other _ _ _ _ _ _ h

theorem State.stored_setReg_other (s : State) (r q : RN) (ix jx : List Nat) (x : Nat)
    (h : q.off jx ≠ r.off ix) : (s.setReg r ix x).stored q jx = s.stored q jx :=
  State.stored_setStored_other _ _ _ _ _ _ h

theorem State.stored_count_other (s : State) (r q : RN) (ix jx : List Nat) (n : Nat)
    (h : q.off jx ≠ r.off ix) : (s.count r ix n).stored q jx = s.stored q jx :=
  State.stored_setStored_other _ _ _ _ _ _ h

theorem State.fld_setFld_other (s : State) (r q : RN) (ix jx : List Nat) (lo w x lo' w' : Nat)
    (h : q.off jx ≠ r.off ix) : (s.setFld r ix lo w x).fld q jx lo' w' = s.fld q jx lo' w' := by
  simp only [State.fld, State.stored_setFld_other _ _ _ _ _ _ _ _ h]

theorem State.fld_setReg_other (s : State) (r q : RN) (ix jx : List Nat) (x lo' w' : Nat)
    (h : q.off jx ≠ r.off ix) : (s.setReg r ix x).fld q jx lo' w' = s.fld q jx lo' w' := by
  simp only [State.fld, State.stored_setReg_other _ _ _ _ _ _ h]

theorem State.fld_count_other (s : State) (r q : RN) (ix jx : List Nat) (n lo' w' : Nat)
    (h : q.off jx ≠ r.off ix) : (s.count r ix n).fld q jx lo' w' = s.fld q jx lo' w' := by
  simp only [State.fld, State.stored_count_other _ _ _ _ _ _ h]

/-- A register that is neither the flag's nor its counter's reads as before. -/
theorem State.stored_setFlag_other (s : State) (r q : RN) (ix jx : List Nat) (b : Nat) (h : q.off jx ≠ r.off ix)
    (hc : ∀ c kx k, r.counter ix b = some (c, kx, k) → q.off jx ≠ c.off kx) :
    (s.setFlag r ix b).stored q jx = s.stored q jx := by
  unfold State.setFlag
  split
  · next c kx k hk => rw [State.stored_setFld_other _ _ _ _ _ _ _ _ (hc c kx k hk), State.stored_setFld_other _ _ _ _ _ _ _ _ h]
  · exact State.stored_setFld_other _ _ _ _ _ _ _ _ h

/-- A flag that is set reads 1. -/
theorem State.flag_setFlag_same (s : State) (r : RN) (ix : List Nat) (b : Nat) (hb : b < 32)
    (hc : ∀ c kx k, r.counter ix b = some (c, kx, k) → r.off ix ≠ c.off kx) :
    (s.setFlag r ix b).flag r ix b = true := by
  have h1 : (s.setFld r ix b 1 1).fld r ix b 1 = 1 := by rw [State.fld_setFld_same _ _ _ _ _ _ (by omega)]; rfl
  unfold State.setFlag State.flag
  split
  · next c kx k hk =>
    rw [State.fld_setFld_other _ _ _ _ _ _ _ _ _ _ (hc c kx k hk), h1]; rfl
  · rw [h1]; rfl

/-- The companion counter of a flag that is set counts, up to 0xFF. -/
theorem State.counter_setFlag (s : State) (r c : RN) (ix kx : List Nat) (b k : Nat) (hk : k < 4)
    (hr : r.counter ix b = some (c, kx, k)) (ho : c.off kx ≠ r.off ix) :
    (s.setFlag r ix b).fld c kx (8 * k) 8 = min (s.fld c kx (8 * k) 8 + 1) 0xFF := by
  unfold State.setFlag
  simp only [hr]
  rw [State.fld_setFld_same _ _ _ _ _ _ (by omega), State.fld_setFld_other _ _ _ _ _ _ _ _ _ _ ho]
  have : min (s.fld c kx (8 * k) 8 + 1) 0xFF < 2 ^ 8 := by omega
  exact Nat.mod_eq_of_lt this

end Sys2Proof.Machine
end

