-- ==== Sys2Proof/Laws/State.lean ====
section
/-! SUPPORT. What the shared operations leave alone: for each operation one lemma that says what part of State it
may write, and from it one lemma for each field that it does not, so that no later proof unfolds them. -/

set_option Elab.async false

namespace Sys2Proof.Machine

/-! ### The state without a part of it -/

/-- The state without registers. -/
def State.withoutRegs (s : State) : State := { s with regs := [] }

/-- The state without memory. -/
def State.withoutMem (s : State) : State := { s with mem := [] }

/-- The state without what it has sent. -/
def State.withoutOut (s : State) : State := { s with out := [] }

/-- The state without the host block. -/
def State.withoutHost (s : State) : State := { s with host := {} }

/-- The state without registers and the recorder. -/
def State.withoutLog (s : State) : State := { s with regs := [], rec' := {} }

/-- The state without registers, the recorder, memory and its controller. -/
def State.withoutStore (s : State) : State := { s with regs := [], rec' := {}, mem := [], mc := {} }

/-- The state without the host block and what it has sent. -/
def State.withoutSend (s : State) : State := { s with host := {}, out := [] }

/-- The state without registers, the host block and what it has sent. -/
def State.withoutSig (s : State) : State := { s with regs := [], host := {}, out := [] }

/-- The state without registers, the recorder, memory and its controller, the host block and what it has sent. -/
def State.withoutDone (s : State) : State := { s with regs := [], rec' := {}, mem := [], mc := {}, host := {}, out := [] }

theorem State.withoutRegs_mem (s : State) : s.withoutRegs.mem = s.mem := rfl
theorem State.withoutRegs_dev (s : State) : s.withoutRegs.dev = s.dev := rfl
theorem State.withoutRegs_img (s : State) : s.withoutRegs.img = s.img := rfl
theorem State.withoutRegs_flash (s : State) : s.withoutRegs.flash = s.flash := rfl
theorem State.withoutRegs_host (s : State) : s.withoutRegs.host = s.host := rfl
theorem State.withoutRegs_rec_ (s : State) : s.withoutRegs.rec' = s.rec' := rfl
theorem State.withoutRegs_time (s : State) : s.withoutRegs.time = s.time := rfl
theorem State.withoutRegs_net (s : State) : s.withoutRegs.net = s.net := rfl
theorem State.withoutRegs_cam (s : State) : s.withoutRegs.cam = s.cam := rfl
theorem State.withoutRegs_sched (s : State) : s.withoutRegs.sched = s.sched := rfl
theorem State.withoutRegs_ledg (s : State) : s.withoutRegs.ledg = s.ledg := rfl
theorem State.withoutRegs_motion (s : State) : s.withoutRegs.motion = s.motion := rfl
theorem State.withoutRegs_field (s : State) : s.withoutRegs.field = s.field := rfl
theorem State.withoutRegs_cap (s : State) : s.withoutRegs.cap = s.cap := rfl
theorem State.withoutRegs_train (s : State) : s.withoutRegs.train = s.train := rfl
theorem State.withoutRegs_backup (s : State) : s.withoutRegs.backup = s.backup := rfl
theorem State.withoutRegs_boot (s : State) : s.withoutRegs.boot = s.boot := rfl
theorem State.withoutRegs_sec (s : State) : s.withoutRegs.sec = s.sec := rfl
theorem State.withoutRegs_lanes (s : State) : s.withoutRegs.lanes = s.lanes := rfl
theorem State.withoutRegs_mc (s : State) : s.withoutRegs.mc = s.mc := rfl
theorem State.withoutRegs_free (s : State) : s.withoutRegs.free = s.free := rfl
theorem State.withoutRegs_out (s : State) : s.withoutRegs.out = s.out := rfl
theorem State.withoutRegs_pending (s : State) : s.withoutRegs.pending = s.pending := rfl
theorem State.withoutRegs_withoutLog (s : State) : s.withoutRegs.withoutLog = s.withoutLog := rfl
theorem State.withoutRegs_withoutStore (s : State) : s.withoutRegs.withoutStore = s.withoutStore := rfl
theorem State.withoutRegs_withoutSig (s : State) : s.withoutRegs.withoutSig = s.withoutSig := rfl
theorem State.withoutRegs_withoutDone (s : State) : s.withoutRegs.withoutDone = s.withoutDone := rfl

theorem State.withoutMem_regs (s : State) : s.withoutMem.regs = s.regs := rfl
theorem State.withoutMem_dev (s : State) : s.withoutMem.dev = s.dev := rfl
theorem State.withoutMem_img (s : State) : s.withoutMem.img = s.img := rfl
theorem State.withoutMem_flash (s : State) : s.withoutMem.flash = s.flash := rfl
theorem State.withoutMem_host (s : State) : s.withoutMem.host = s.host := rfl
theorem State.withoutMem_rec_ (s : State) : s.withoutMem.rec' = s.rec' := rfl
theorem State.withoutMem_time (s : State) : s.withoutMem.time = s.time := rfl
theorem State.withoutMem_net (s : State) : s.withoutMem.net = s.net := rfl
theorem State.withoutMem_cam (s : State) : s.withoutMem.cam = s.cam := rfl
theorem State.withoutMem_sched (s : State) : s.withoutMem.sched = s.sched := rfl
theorem State.withoutMem_ledg (s : State) : s.withoutMem.ledg = s.ledg := rfl
theorem State.withoutMem_motion (s : State) : s.withoutMem.motion = s.motion := rfl
theorem State.withoutMem_field (s : State) : s.withoutMem.field = s.field := rfl
theorem State.withoutMem_cap (s : State) : s.withoutMem.cap = s.cap := rfl
theorem State.withoutMem_train (s : State) : s.withoutMem.train = s.train := rfl
theorem State.withoutMem_backup (s : State) : s.withoutMem.backup = s.backup := rfl
theorem State.withoutMem_boot (s : State) : s.withoutMem.boot = s.boot := rfl
theorem State.withoutMem_sec (s : State) : s.withoutMem.sec = s.sec := rfl
theorem State.withoutMem_lanes (s : State) : s.withoutMem.lanes = s.lanes := rfl
theorem State.withoutMem_mc (s : State) : s.withoutMem.mc = s.mc := rfl
theorem State.withoutMem_free (s : State) : s.withoutMem.free = s.free := rfl
theorem State.withoutMem_out (s : State) : s.withoutMem.out = s.out := rfl
theorem State.withoutMem_pending (s : State) : s.withoutMem.pending = s.pending := rfl
theorem State.withoutMem_withoutStore (s : State) : s.withoutMem.withoutStore = s.withoutStore := rfl
theorem State.withoutMem_withoutDone (s : State) : s.withoutMem.withoutDone = s.withoutDone := rfl

theorem State.withoutOut_regs (s : State) : s.withoutOut.regs = s.regs := rfl
theorem State.withoutOut_mem (s : State) : s.withoutOut.mem = s.mem := rfl
theorem State.withoutOut_dev (s : State) : s.withoutOut.dev = s.dev := rfl
theorem State.withoutOut_img (s : State) : s.withoutOut.img = s.img := rfl
theorem State.withoutOut_flash (s : State) : s.withoutOut.flash = s.flash := rfl
theorem State.withoutOut_host (s : State) : s.withoutOut.host = s.host := rfl
theorem State.withoutOut_rec_ (s : State) : s.withoutOut.rec' = s.rec' := rfl
theorem State.withoutOut_time (s : State) : s.withoutOut.time = s.time := rfl
theorem State.withoutOut_net (s : State) : s.withoutOut.net = s.net := rfl
theorem State.withoutOut_cam (s : State) : s.withoutOut.cam = s.cam := rfl
theorem State.withoutOut_sched (s : State) : s.withoutOut.sched = s.sched := rfl
theorem State.withoutOut_ledg (s : State) : s.withoutOut.ledg = s.ledg := rfl
theorem State.withoutOut_motion (s : State) : s.withoutOut.motion = s.motion := rfl
theorem State.withoutOut_field (s : State) : s.withoutOut.field = s.field := rfl
theorem State.withoutOut_cap (s : State) : s.withoutOut.cap = s.cap := rfl
theorem State.withoutOut_train (s : State) : s.withoutOut.train = s.train := rfl
theorem State.withoutOut_backup (s : State) : s.withoutOut.backup = s.backup := rfl
theorem State.withoutOut_boot (s : State) : s.withoutOut.boot = s.boot := rfl
theorem State.withoutOut_sec (s : State) : s.withoutOut.sec = s.sec := rfl
theorem State.withoutOut_lanes (s : State) : s.withoutOut.lanes = s.lanes := rfl
theorem State.withoutOut_mc (s : State) : s.withoutOut.mc = s.mc := rfl
theorem State.withoutOut_free (s : State) : s.withoutOut.free = s.free := rfl
theorem State.withoutOut_pending (s : State) : s.withoutOut.pending = s.pending := rfl
theorem State.withoutOut_withoutSend (s : State) : s.withoutOut.withoutSend = s.withoutSend := rfl
theorem State.withoutOut_withoutSig (s : State) : s.withoutOut.withoutSig = s.withoutSig := rfl
theorem State.withoutOut_withoutDone (s : State) : s.withoutOut.withoutDone = s.withoutDone := rfl

theorem State.withoutHost_regs (s : State) : s.withoutHost.regs = s.regs := rfl
theorem State.withoutHost_mem (s : State) : s.withoutHost.mem = s.mem := rfl
theorem State.withoutHost_dev (s : State) : s.withoutHost.dev = s.dev := rfl
theorem State.withoutHost_img (s : State) : s.withoutHost.img = s.img := rfl
theorem State.withoutHost_flash (s : State) : s.withoutHost.flash = s.flash := rfl
theorem State.withoutHost_rec_ (s : State) : s.withoutHost.rec' = s.rec' := rfl
theorem State.withoutHost_time (s : State) : s.withoutHost.time = s.time := rfl
theorem State.withoutHost_net (s : State) : s.withoutHost.net = s.net := rfl
theorem State.withoutHost_cam (s : State) : s.withoutHost.cam = s.cam := rfl
theorem State.withoutHost_sched (s : State) : s.withoutHost.sched = s.sched := rfl
theorem State.withoutHost_ledg (s : State) : s.withoutHost.ledg = s.ledg := rfl
theorem State.withoutHost_motion (s : State) : s.withoutHost.motion = s.motion := rfl
theorem State.withoutHost_field (s : State) : s.withoutHost.field = s.field := rfl
theorem State.withoutHost_cap (s : State) : s.withoutHost.cap = s.cap := rfl
theorem State.withoutHost_train (s : State) : s.withoutHost.train = s.train := rfl
theorem State.withoutHost_backup (s : State) : s.withoutHost.backup = s.backup := rfl
theorem State.withoutHost_boot (s : State) : s.withoutHost.boot = s.boot := rfl
theorem State.withoutHost_sec (s : State) : s.withoutHost.sec = s.sec := rfl
theorem State.withoutHost_lanes (s : State) : s.withoutHost.lanes = s.lanes := rfl
theorem State.withoutHost_mc (s : State) : s.withoutHost.mc = s.mc := rfl
theorem State.withoutHost_free (s : State) : s.withoutHost.free = s.free := rfl
theorem State.withoutHost_out (s : State) : s.withoutHost.out = s.out := rfl
theorem State.withoutHost_pending (s : State) : s.withoutHost.pending = s.pending := rfl
theorem State.withoutHost_withoutSend (s : State) : s.withoutHost.withoutSend = s.withoutSend := rfl
theorem State.withoutHost_withoutSig (s : State) : s.withoutHost.withoutSig = s.withoutSig := rfl
theorem State.withoutHost_withoutDone (s : State) : s.withoutHost.withoutDone = s.withoutDone := rfl

theorem State.withoutLog_mem (s : State) : s.withoutLog.mem = s.mem := rfl
theorem State.withoutLog_dev (s : State) : s.withoutLog.dev = s.dev := rfl
theorem State.withoutLog_img (s : State) : s.withoutLog.img = s.img := rfl
theorem State.withoutLog_flash (s : State) : s.withoutLog.flash = s.flash := rfl
theorem State.withoutLog_host (s : State) : s.withoutLog.host = s.host := rfl
theorem State.withoutLog_time (s : State) : s.withoutLog.time = s.time := rfl
theorem State.withoutLog_net (s : State) : s.withoutLog.net = s.net := rfl
theorem State.withoutLog_cam (s : State) : s.withoutLog.cam = s.cam := rfl
theorem State.withoutLog_sched (s : State) : s.withoutLog.sched = s.sched := rfl
theorem State.withoutLog_ledg (s : State) : s.withoutLog.ledg = s.ledg := rfl
theorem State.withoutLog_motion (s : State) : s.withoutLog.motion = s.motion := rfl
theorem State.withoutLog_field (s : State) : s.withoutLog.field = s.field := rfl
theorem State.withoutLog_cap (s : State) : s.withoutLog.cap = s.cap := rfl
theorem State.withoutLog_train (s : State) : s.withoutLog.train = s.train := rfl
theorem State.withoutLog_backup (s : State) : s.withoutLog.backup = s.backup := rfl
theorem State.withoutLog_boot (s : State) : s.withoutLog.boot = s.boot := rfl
theorem State.withoutLog_sec (s : State) : s.withoutLog.sec = s.sec := rfl
theorem State.withoutLog_lanes (s : State) : s.withoutLog.lanes = s.lanes := rfl
theorem State.withoutLog_mc (s : State) : s.withoutLog.mc = s.mc := rfl
theorem State.withoutLog_free (s : State) : s.withoutLog.free = s.free := rfl
theorem State.withoutLog_out (s : State) : s.withoutLog.out = s.out := rfl
theorem State.withoutLog_pending (s : State) : s.withoutLog.pending = s.pending := rfl
theorem State.withoutLog_withoutStore (s : State) : s.withoutLog.withoutStore = s.withoutStore := rfl
theorem State.withoutLog_withoutDone (s : State) : s.withoutLog.withoutDone = s.withoutDone := rfl

theorem State.withoutStore_dev (s : State) : s.withoutStore.dev = s.dev := rfl
theorem State.withoutStore_img (s : State) : s.withoutStore.img = s.img := rfl
theorem State.withoutStore_flash (s : State) : s.withoutStore.flash = s.flash := rfl
theorem State.withoutStore_host (s : State) : s.withoutStore.host = s.host := rfl
theorem State.withoutStore_time (s : State) : s.withoutStore.time = s.time := rfl
theorem State.withoutStore_net (s : State) : s.withoutStore.net = s.net := rfl
theorem State.withoutStore_cam (s : State) : s.withoutStore.cam = s.cam := rfl
theorem State.withoutStore_sched (s : State) : s.withoutStore.sched = s.sched := rfl
theorem State.withoutStore_ledg (s : State) : s.withoutStore.ledg = s.ledg := rfl
theorem State.withoutStore_motion (s : State) : s.withoutStore.motion = s.motion := rfl
theorem State.withoutStore_field (s : State) : s.withoutStore.field = s.field := rfl
theorem State.withoutStore_cap (s : State) : s.withoutStore.cap = s.cap := rfl
theorem State.withoutStore_train (s : State) : s.withoutStore.train = s.train := rfl
theorem State.withoutStore_backup (s : State) : s.withoutStore.backup = s.backup := rfl
theorem State.withoutStore_boot (s : State) : s.withoutStore.boot = s.boot := rfl
theorem State.withoutStore_sec (s : State) : s.withoutStore.sec = s.sec := rfl
theorem State.withoutStore_lanes (s : State) : s.withoutStore.lanes = s.lanes := rfl
theorem State.withoutStore_free (s : State) : s.withoutStore.free = s.free := rfl
theorem State.withoutStore_out (s : State) : s.withoutStore.out = s.out := rfl
theorem State.withoutStore_pending (s : State) : s.withoutStore.pending = s.pending := rfl
theorem State.withoutStore_withoutDone (s : State) : s.withoutStore.withoutDone = s.withoutDone := rfl

theorem State.withoutSend_regs (s : State) : s.withoutSend.regs = s.regs := rfl
theorem State.withoutSend_mem (s : State) : s.withoutSend.mem = s.mem := rfl
theorem State.withoutSend_dev (s : State) : s.withoutSend.dev = s.dev := rfl
theorem State.withoutSend_img (s : State) : s.withoutSend.img = s.img := rfl
theorem State.withoutSend_flash (s : State) : s.withoutSend.flash = s.flash := rfl
theorem State.withoutSend_rec_ (s : State) : s.withoutSend.rec' = s.rec' := rfl
theorem State.withoutSend_time (s : State) : s.withoutSend.time = s.time := rfl
theorem State.withoutSend_net (s : State) : s.withoutSend.net = s.net := rfl
theorem State.withoutSend_cam (s : State) : s.withoutSend.cam = s.cam := rfl
theorem State.withoutSend_sched (s : State) : s.withoutSend.sched = s.sched := rfl
theorem State.withoutSend_ledg (s : State) : s.withoutSend.ledg = s.ledg := rfl
theorem State.withoutSend_motion (s : State) : s.withoutSend.motion = s.motion := rfl
theorem State.withoutSend_field (s : State) : s.withoutSend.field = s.field := rfl
theorem State.withoutSend_cap (s : State) : s.withoutSend.cap = s.cap := rfl
theorem State.withoutSend_train (s : State) : s.withoutSend.train = s.train := rfl
theorem State.withoutSend_backup (s : State) : s.withoutSend.backup = s.backup := rfl
theorem State.withoutSend_boot (s : State) : s.withoutSend.boot = s.boot := rfl
theorem State.withoutSend_sec (s : State) : s.withoutSend.sec = s.sec := rfl
theorem State.withoutSend_lanes (s : State) : s.withoutSend.lanes = s.lanes := rfl
theorem State.withoutSend_mc (s : State) : s.withoutSend.mc = s.mc := rfl
theorem State.withoutSend_free (s : State) : s.withoutSend.free = s.free := rfl
theorem State.withoutSend_pending (s : State) : s.withoutSend.pending = s.pending := rfl
theorem State.withoutSend_withoutSig (s : State) : s.withoutSend.withoutSig = s.withoutSig := rfl
theorem State.withoutSend_withoutDone (s : State) : s.withoutSend.withoutDone = s.withoutDone := rfl

theorem State.withoutSig_mem (s : State) : s.withoutSig.mem = s.mem := rfl
theorem State.withoutSig_dev (s : State) : s.withoutSig.dev = s.dev := rfl
theorem State.withoutSig_img (s : State) : s.withoutSig.img = s.img := rfl
theorem State.withoutSig_flash (s : State) : s.withoutSig.flash = s.flash := rfl
theorem State.withoutSig_rec_ (s : State) : s.withoutSig.rec' = s.rec' := rfl
theorem State.withoutSig_time (s : State) : s.withoutSig.time = s.time := rfl
theorem State.withoutSig_net (s : State) : s.withoutSig.net = s.net := rfl
theorem State.withoutSig_cam (s : State) : s.withoutSig.cam = s.cam := rfl
theorem State.withoutSig_sched (s : State) : s.withoutSig.sched = s.sched := rfl
theorem State.withoutSig_ledg (s : State) : s.withoutSig.ledg = s.ledg := rfl
theorem State.withoutSig_motion (s : State) : s.withoutSig.motion = s.motion := rfl
theorem State.withoutSig_field (s : State) : s.withoutSig.field = s.field := rfl
theorem State.withoutSig_cap (s : State) : s.withoutSig.cap = s.cap := rfl
theorem State.withoutSig_train (s : State) : s.withoutSig.train = s.train := rfl
theorem State.withoutSig_backup (s : State) : s.withoutSig.backup = s.backup := rfl
theorem State.withoutSig_boot (s : State) : s.withoutSig.boot = s.boot := rfl
theorem State.withoutSig_sec (s : State) : s.withoutSig.sec = s.sec := rfl
theorem State.withoutSig_lanes (s : State) : s.withoutSig.lanes = s.lanes := rfl
theorem State.withoutSig_mc (s : State) : s.withoutSig.mc = s.mc := rfl
theorem State.withoutSig_free (s : State) : s.withoutSig.free = s.free := rfl
theorem State.withoutSig_pending (s : State) : s.withoutSig.pending = s.pending := rfl
theorem State.withoutSig_withoutDone (s : State) : s.withoutSig.withoutDone = s.withoutDone := rfl

theorem State.withoutDone_dev (s : State) : s.withoutDone.dev = s.dev := rfl
theorem State.withoutDone_img (s : State) : s.withoutDone.img = s.img := rfl
theorem State.withoutDone_flash (s : State) : s.withoutDone.flash = s.flash := rfl
theorem State.withoutDone_time (s : State) : s.withoutDone.time = s.time := rfl
theorem State.withoutDone_net (s : State) : s.withoutDone.net = s.net := rfl
theorem State.withoutDone_cam (s : State) : s.withoutDone.cam = s.cam := rfl
theorem State.withoutDone_sched (s : State) : s.withoutDone.sched = s.sched := rfl
theorem State.withoutDone_ledg (s : State) : s.withoutDone.ledg = s.ledg := rfl
theorem State.withoutDone_motion (s : State) : s.withoutDone.motion = s.motion := rfl
theorem State.withoutDone_field (s : State) : s.withoutDone.field = s.field := rfl
theorem State.withoutDone_cap (s : State) : s.withoutDone.cap = s.cap := rfl
theorem State.withoutDone_train (s : State) : s.withoutDone.train = s.train := rfl
theorem State.withoutDone_backup (s : State) : s.withoutDone.backup = s.backup := rfl
theorem State.withoutDone_boot (s : State) : s.withoutDone.boot = s.boot := rfl
theorem State.withoutDone_sec (s : State) : s.withoutDone.sec = s.sec := rfl
theorem State.withoutDone_lanes (s : State) : s.withoutDone.lanes = s.lanes := rfl
theorem State.withoutDone_free (s : State) : s.withoutDone.free = s.free := rfl
theorem State.withoutDone_pending (s : State) : s.withoutDone.pending = s.pending := rfl

/-! ### The operations -/

@[simp] theorem State.setStored_withoutRegs (s : State) (r : RN) (ix : List Nat) (v : Word) :
    (s.setStored r ix v).withoutRegs = s.withoutRegs := rfl

@[simp] theorem State.setStored_withoutLog (s : State) (r : RN) (ix : List Nat) (v : Word) : (s.setStored r ix v).withoutLog = s.withoutLog :=
  (State.withoutRegs_withoutLog _).symm.trans
    ((congrArg State.withoutLog (s.setStored_withoutRegs r ix v)).trans (State.withoutRegs_withoutLog s))
@[simp] theorem State.setStored_withoutStore (s : State) (r : RN) (ix : List Nat) (v : Word) : (s.setStored r ix v).withoutStore = s.withoutStore :=
  (State.withoutRegs_withoutStore _).symm.trans
    ((congrArg State.withoutStore (s.setStored_withoutRegs r ix v)).trans (State.withoutRegs_withoutStore s))
@[simp] theorem State.setStored_withoutSig (s : State) (r : RN) (ix : List Nat) (v : Word) : (s.setStored r ix v).withoutSig = s.withoutSig :=
  (State.withoutRegs_withoutSig _).symm.trans
    ((congrArg State.withoutSig (s.setStored_withoutRegs r ix v)).trans (State.withoutRegs_withoutSig s))
@[simp] theorem State.setStored_withoutDone (s : State) (r : RN) (ix : List Nat) (v : Word) : (s.setStored r ix v).withoutDone = s.withoutDone :=
  (State.withoutRegs_withoutDone _).symm.trans
    ((congrArg State.withoutDone (s.setStored_withoutRegs r ix v)).trans (State.withoutRegs_withoutDone s))
@[simp] theorem State.setStored_mem (s : State) (r : RN) (ix : List Nat) (v : Word) : (s.setStored r ix v).mem = s.mem :=
  (State.withoutRegs_mem _).symm.trans ((congrArg State.mem (s.setStored_withoutRegs r ix v)).trans (State.withoutRegs_mem s))
@[simp] theorem State.setStored_dev (s : State) (r : RN) (ix : List Nat) (v : Word) : (s.setStored r ix v).dev = s.dev :=
  (State.withoutRegs_dev _).symm.trans ((congrArg State.dev (s.setStored_withoutRegs r ix v)).trans (State.withoutRegs_dev s))
@[simp] theorem State.setStored_img (s : State) (r : RN) (ix : List Nat) (v : Word) : (s.setStored r ix v).img = s.img :=
  (State.withoutRegs_img _).symm.trans ((congrArg State.img (s.setStored_withoutRegs r ix v)).trans (State.withoutRegs_img s))
@[simp] theorem State.setStored_flash (s : State) (r : RN) (ix : List Nat) (v : Word) : (s.setStored r ix v).flash = s.flash :=
  (State.withoutRegs_flash _).symm.trans ((congrArg State.flash (s.setStored_withoutRegs r ix v)).trans (State.withoutRegs_flash s))
@[simp] theorem State.setStored_host (s : State) (r : RN) (ix : List Nat) (v : Word) : (s.setStored r ix v).host = s.host :=
  (State.withoutRegs_host _).symm.trans ((congrArg State.host (s.setStored_withoutRegs r ix v)).trans (State.withoutRegs_host s))
@[simp] theorem State.setStored_rec_ (s : State) (r : RN) (ix : List Nat) (v : Word) : (s.setStored r ix v).rec' = s.rec' :=
  (State.withoutRegs_rec_ _).symm.trans ((congrArg State.rec' (s.setStored_withoutRegs r ix v)).trans (State.withoutRegs_rec_ s))
@[simp] theorem State.setStored_time (s : State) (r : RN) (ix : List Nat) (v : Word) : (s.setStored r ix v).time = s.time :=
  (State.withoutRegs_time _).symm.trans ((congrArg State.time (s.setStored_withoutRegs r ix v)).trans (State.withoutRegs_time s))
@[simp] theorem State.setStored_net (s : State) (r : RN) (ix : List Nat) (v : Word) : (s.setStored r ix v).net = s.net :=
  (State.withoutRegs_net _).symm.trans ((congrArg State.net (s.setStored_withoutRegs r ix v)).trans (State.withoutRegs_net s))
@[simp] theorem State.setStored_cam (s : State) (r : RN) (ix : List Nat) (v : Word) : (s.setStored r ix v).cam = s.cam :=
  (State.withoutRegs_cam _).symm.trans ((congrArg State.cam (s.setStored_withoutRegs r ix v)).trans (State.withoutRegs_cam s))
@[simp] theorem State.setStored_sched (s : State) (r : RN) (ix : List Nat) (v : Word) : (s.setStored r ix v).sched = s.sched :=
  (State.withoutRegs_sched _).symm.trans ((congrArg State.sched (s.setStored_withoutRegs r ix v)).trans (State.withoutRegs_sched s))
@[simp] theorem State.setStored_ledg (s : State) (r : RN) (ix : List Nat) (v : Word) : (s.setStored r ix v).ledg = s.ledg :=
  (State.withoutRegs_ledg _).symm.trans ((congrArg State.ledg (s.setStored_withoutRegs r ix v)).trans (State.withoutRegs_ledg s))
@[simp] theorem State.setStored_motion (s : State) (r : RN) (ix : List Nat) (v : Word) : (s.setStored r ix v).motion = s.motion :=
  (State.withoutRegs_motion _).symm.trans ((congrArg State.motion (s.setStored_withoutRegs r ix v)).trans (State.withoutRegs_motion s))
@[simp] theorem State.setStored_field (s : State) (r : RN) (ix : List Nat) (v : Word) : (s.setStored r ix v).field = s.field :=
  (State.withoutRegs_field _).symm.trans ((congrArg State.field (s.setStored_withoutRegs r ix v)).trans (State.withoutRegs_field s))
@[simp] theorem State.setStored_cap (s : State) (r : RN) (ix : List Nat) (v : Word) : (s.setStored r ix v).cap = s.cap :=
  (State.withoutRegs_cap _).symm.trans ((congrArg State.cap (s.setStored_withoutRegs r ix v)).trans (State.withoutRegs_cap s))
@[simp] theorem State.setStored_train (s : State) (r : RN) (ix : List Nat) (v : Word) : (s.setStored r ix v).train = s.train :=
  (State.withoutRegs_train _).symm.trans ((congrArg State.train (s.setStored_withoutRegs r ix v)).trans (State.withoutRegs_train s))
@[simp] theorem State.setStored_backup (s : State) (r : RN) (ix : List Nat) (v : Word) : (s.setStored r ix v).backup = s.backup :=
  (State.withoutRegs_backup _).symm.trans ((congrArg State.backup (s.setStored_withoutRegs r ix v)).trans (State.withoutRegs_backup s))
@[simp] theorem State.setStored_boot (s : State) (r : RN) (ix : List Nat) (v : Word) : (s.setStored r ix v).boot = s.boot :=
  (State.withoutRegs_boot _).symm.trans ((congrArg State.boot (s.setStored_withoutRegs r ix v)).trans (State.withoutRegs_boot s))
@[simp] theorem State.setStored_sec (s : State) (r : RN) (ix : List Nat) (v : Word) : (s.setStored r ix v).sec = s.sec :=
  (State.withoutRegs_sec _).symm.trans ((congrArg State.sec (s.setStored_withoutRegs r ix v)).trans (State.withoutRegs_sec s))
@[simp] theorem State.setStored_lanes (s : State) (r : RN) (ix : List Nat) (v : Word) : (s.setStored r ix v).lanes = s.lanes :=
  (State.withoutRegs_lanes _).symm.trans ((congrArg State.lanes (s.setStored_withoutRegs r ix v)).trans (State.withoutRegs_lanes s))
@[simp] theorem State.setStored_mc (s : State) (r : RN) (ix : List Nat) (v : Word) : (s.setStored r ix v).mc = s.mc :=
  (State.withoutRegs_mc _).symm.trans ((congrArg State.mc (s.setStored_withoutRegs r ix v)).trans (State.withoutRegs_mc s))
@[simp] theorem State.setStored_free (s : State) (r : RN) (ix : List Nat) (v : Word) : (s.setStored r ix v).free = s.free :=
  (State.withoutRegs_free _).symm.trans ((congrArg State.free (s.setStored_withoutRegs r ix v)).trans (State.withoutRegs_free s))
@[simp] theorem State.setStored_out (s : State) (r : RN) (ix : List Nat) (v : Word) : (s.setStored r ix v).out = s.out :=
  (State.withoutRegs_out _).symm.trans ((congrArg State.out (s.setStored_withoutRegs r ix v)).trans (State.withoutRegs_out s))
@[simp] theorem State.setStored_pending (s : State) (r : RN) (ix : List Nat) (v : Word) : (s.setStored r ix v).pending = s.pending :=
  (State.withoutRegs_pending _).symm.trans ((congrArg State.pending (s.setStored_withoutRegs r ix v)).trans (State.withoutRegs_pending s))

@[simp] theorem State.setFld_withoutRegs (s : State) (r : RN) (ix : List Nat) (lo w x : Nat) :
    (s.setFld r ix lo w x).withoutRegs = s.withoutRegs := rfl

@[simp] theorem State.setFld_withoutLog (s : State) (r : RN) (ix : List Nat) (lo w x : Nat) : (s.setFld r ix lo w x).withoutLog = s.withoutLog :=
  (State.withoutRegs_withoutLog _).symm.trans
    ((congrArg State.withoutLog (s.setFld_withoutRegs r ix lo w x)).trans (State.withoutRegs_withoutLog s))
@[simp] theorem State.setFld_withoutStore (s : State) (r : RN) (ix : List Nat) (lo w x : Nat) : (s.setFld r ix lo w x).withoutStore = s.withoutStore :=
  (State.withoutRegs_withoutStore _).symm.trans
    ((congrArg State.withoutStore (s.setFld_withoutRegs r ix lo w x)).trans (State.withoutRegs_withoutStore s))
@[simp] theorem State.setFld_withoutSig (s : State) (r : RN) (ix : List Nat) (lo w x : Nat) : (s.setFld r ix lo w x).withoutSig = s.withoutSig :=
  (State.withoutRegs_withoutSig _).symm.trans
    ((congrArg State.withoutSig (s.setFld_withoutRegs r ix lo w x)).trans (State.withoutRegs_withoutSig s))
@[simp] theorem State.setFld_withoutDone (s : State) (r : RN) (ix : List Nat) (lo w x : Nat) : (s.setFld r ix lo w x).withoutDone = s.withoutDone :=
  (State.withoutRegs_withoutDone _).symm.trans
    ((congrArg State.withoutDone (s.setFld_withoutRegs r ix lo w x)).trans (State.withoutRegs_withoutDone s))
@[simp] theorem State.setFld_mem (s : State) (r : RN) (ix : List Nat) (lo w x : Nat) : (s.setFld r ix lo w x).mem = s.mem :=
  (State.withoutRegs_mem _).symm.trans ((congrArg State.mem (s.setFld_withoutRegs r ix lo w x)).trans (State.withoutRegs_mem s))
@[simp] theorem State.setFld_dev (s : State) (r : RN) (ix : List Nat) (lo w x : Nat) : (s.setFld r ix lo w x).dev = s.dev :=
  (State.withoutRegs_dev _).symm.trans ((congrArg State.dev (s.setFld_withoutRegs r ix lo w x)).trans (State.withoutRegs_dev s))
@[simp] theorem State.setFld_img (s : State) (r : RN) (ix : List Nat) (lo w x : Nat) : (s.setFld r ix lo w x).img = s.img :=
  (State.withoutRegs_img _).symm.trans ((congrArg State.img (s.setFld_withoutRegs r ix lo w x)).trans (State.withoutRegs_img s))
@[simp] theorem State.setFld_flash (s : State) (r : RN) (ix : List Nat) (lo w x : Nat) : (s.setFld r ix lo w x).flash = s.flash :=
  (State.withoutRegs_flash _).symm.trans ((congrArg State.flash (s.setFld_withoutRegs r ix lo w x)).trans (State.withoutRegs_flash s))
@[simp] theorem State.setFld_host (s : State) (r : RN) (ix : List Nat) (lo w x : Nat) : (s.setFld r ix lo w x).host = s.host :=
  (State.withoutRegs_host _).symm.trans ((congrArg State.host (s.setFld_withoutRegs r ix lo w x)).trans (State.withoutRegs_host s))
@[simp] theorem State.setFld_rec_ (s : State) (r : RN) (ix : List Nat) (lo w x : Nat) : (s.setFld r ix lo w x).rec' = s.rec' :=
  (State.withoutRegs_rec_ _).symm.trans ((congrArg State.rec' (s.setFld_withoutRegs r ix lo w x)).trans (State.withoutRegs_rec_ s))
@[simp] theorem State.setFld_time (s : State) (r : RN) (ix : List Nat) (lo w x : Nat) : (s.setFld r ix lo w x).time = s.time :=
  (State.withoutRegs_time _).symm.trans ((congrArg State.time (s.setFld_withoutRegs r ix lo w x)).trans (State.withoutRegs_time s))
@[simp] theorem State.setFld_net (s : State) (r : RN) (ix : List Nat) (lo w x : Nat) : (s.setFld r ix lo w x).net = s.net :=
  (State.withoutRegs_net _).symm.trans ((congrArg State.net (s.setFld_withoutRegs r ix lo w x)).trans (State.withoutRegs_net s))
@[simp] theorem State.setFld_cam (s : State) (r : RN) (ix : List Nat) (lo w x : Nat) : (s.setFld r ix lo w x).cam = s.cam :=
  (State.withoutRegs_cam _).symm.trans ((congrArg State.cam (s.setFld_withoutRegs r ix lo w x)).trans (State.withoutRegs_cam s))
@[simp] theorem State.setFld_sched (s : State) (r : RN) (ix : List Nat) (lo w x : Nat) : (s.setFld r ix lo w x).sched = s.sched :=
  (State.withoutRegs_sched _).symm.trans ((congrArg State.sched (s.setFld_withoutRegs r ix lo w x)).trans (State.withoutRegs_sched s))
@[simp] theorem State.setFld_ledg (s : State) (r : RN) (ix : List Nat) (lo w x : Nat) : (s.setFld r ix lo w x).ledg = s.ledg :=
  (State.withoutRegs_ledg _).symm.trans ((congrArg State.ledg (s.setFld_withoutRegs r ix lo w x)).trans (State.withoutRegs_ledg s))
@[simp] theorem State.setFld_motion (s : State) (r : RN) (ix : List Nat) (lo w x : Nat) : (s.setFld r ix lo w x).motion = s.motion :=
  (State.withoutRegs_motion _).symm.trans ((congrArg State.motion (s.setFld_withoutRegs r ix lo w x)).trans (State.withoutRegs_motion s))
@[simp] theorem State.setFld_field (s : State) (r : RN) (ix : List Nat) (lo w x : Nat) : (s.setFld r ix lo w x).field = s.field :=
  (State.withoutRegs_field _).symm.trans ((congrArg State.field (s.setFld_withoutRegs r ix lo w x)).trans (State.withoutRegs_field s))
@[simp] theorem State.setFld_cap (s : State) (r : RN) (ix : List Nat) (lo w x : Nat) : (s.setFld r ix lo w x).cap = s.cap :=
  (State.withoutRegs_cap _).symm.trans ((congrArg State.cap (s.setFld_withoutRegs r ix lo w x)).trans (State.withoutRegs_cap s))
@[simp] theorem State.setFld_train (s : State) (r : RN) (ix : List Nat) (lo w x : Nat) : (s.setFld r ix lo w x).train = s.train :=
  (State.withoutRegs_train _).symm.trans ((congrArg State.train (s.setFld_withoutRegs r ix lo w x)).trans (State.withoutRegs_train s))
@[simp] theorem State.setFld_backup (s : State) (r : RN) (ix : List Nat) (lo w x : Nat) : (s.setFld r ix lo w x).backup = s.backup :=
  (State.withoutRegs_backup _).symm.trans ((congrArg State.backup (s.setFld_withoutRegs r ix lo w x)).trans (State.withoutRegs_backup s))
@[simp] theorem State.setFld_boot (s : State) (r : RN) (ix : List Nat) (lo w x : Nat) : (s.setFld r ix lo w x).boot = s.boot :=
  (State.withoutRegs_boot _).symm.trans ((congrArg State.boot (s.setFld_withoutRegs r ix lo w x)).trans (State.withoutRegs_boot s))
@[simp] theorem State.setFld_sec (s : State) (r : RN) (ix : List Nat) (lo w x : Nat) : (s.setFld r ix lo w x).sec = s.sec :=
  (State.withoutRegs_sec _).symm.trans ((congrArg State.sec (s.setFld_withoutRegs r ix lo w x)).trans (State.withoutRegs_sec s))
@[simp] theorem State.setFld_lanes (s : State) (r : RN) (ix : List Nat) (lo w x : Nat) : (s.setFld r ix lo w x).lanes = s.lanes :=
  (State.withoutRegs_lanes _).symm.trans ((congrArg State.lanes (s.setFld_withoutRegs r ix lo w x)).trans (State.withoutRegs_lanes s))
@[simp] theorem State.setFld_mc (s : State) (r : RN) (ix : List Nat) (lo w x : Nat) : (s.setFld r ix lo w x).mc = s.mc :=
  (State.withoutRegs_mc _).symm.trans ((congrArg State.mc (s.setFld_withoutRegs r ix lo w x)).trans (State.withoutRegs_mc s))
@[simp] theorem State.setFld_free (s : State) (r : RN) (ix : List Nat) (lo w x : Nat) : (s.setFld r ix lo w x).free = s.free :=
  (State.withoutRegs_free _).symm.trans ((congrArg State.free (s.setFld_withoutRegs r ix lo w x)).trans (State.withoutRegs_free s))
@[simp] theorem State.setFld_out (s : State) (r : RN) (ix : List Nat) (lo w x : Nat) : (s.setFld r ix lo w x).out = s.out :=
  (State.withoutRegs_out _).symm.trans ((congrArg State.out (s.setFld_withoutRegs r ix lo w x)).trans (State.withoutRegs_out s))
@[simp] theorem State.setFld_pending (s : State) (r : RN) (ix : List Nat) (lo w x : Nat) : (s.setFld r ix lo w x).pending = s.pending :=
  (State.withoutRegs_pending _).symm.trans ((congrArg State.pending (s.setFld_withoutRegs r ix lo w x)).trans (State.withoutRegs_pending s))

@[simp] theorem State.setReg_withoutRegs (s : State) (r : RN) (ix : List Nat) (x : Nat) :
    (s.setReg r ix x).withoutRegs = s.withoutRegs := rfl

@[simp] theorem State.setReg_withoutLog (s : State) (r : RN) (ix : List Nat) (x : Nat) : (s.setReg r ix x).withoutLog = s.withoutLog :=
  (State.withoutRegs_withoutLog _).symm.trans
    ((congrArg State.withoutLog (s.setReg_withoutRegs r ix x)).trans (State.withoutRegs_withoutLog s))
@[simp] theorem State.setReg_withoutStore (s : State) (r : RN) (ix : List Nat) (x : Nat) : (s.setReg r ix x).withoutStore = s.withoutStore :=
  (State.withoutRegs_withoutStore _).symm.trans
    ((congrArg State.withoutStore (s.setReg_withoutRegs r ix x)).trans (State.withoutRegs_withoutStore s))
@[simp] theorem State.setReg_withoutSig (s : State) (r : RN) (ix : List Nat) (x : Nat) : (s.setReg r ix x).withoutSig = s.withoutSig :=
  (State.withoutRegs_withoutSig _).symm.trans
    ((congrArg State.withoutSig (s.setReg_withoutRegs r ix x)).trans (State.withoutRegs_withoutSig s))
@[simp] theorem State.setReg_withoutDone (s : State) (r : RN) (ix : List Nat) (x : Nat) : (s.setReg r ix x).withoutDone = s.withoutDone :=
  (State.withoutRegs_withoutDone _).symm.trans
    ((congrArg State.withoutDone (s.setReg_withoutRegs r ix x)).trans (State.withoutRegs_withoutDone s))
@[simp] theorem State.setReg_mem (s : State) (r : RN) (ix : List Nat) (x : Nat) : (s.setReg r ix x).mem = s.mem :=
  (State.withoutRegs_mem _).symm.trans ((congrArg State.mem (s.setReg_withoutRegs r ix x)).trans (State.withoutRegs_mem s))
@[simp] theorem State.setReg_dev (s : State) (r : RN) (ix : List Nat) (x : Nat) : (s.setReg r ix x).dev = s.dev :=
  (State.withoutRegs_dev _).symm.trans ((congrArg State.dev (s.setReg_withoutRegs r ix x)).trans (State.withoutRegs_dev s))
@[simp] theorem State.setReg_img (s : State) (r : RN) (ix : List Nat) (x : Nat) : (s.setReg r ix x).img = s.img :=
  (State.withoutRegs_img _).symm.trans ((congrArg State.img (s.setReg_withoutRegs r ix x)).trans (State.withoutRegs_img s))
@[simp] theorem State.setReg_flash (s : State) (r : RN) (ix : List Nat) (x : Nat) : (s.setReg r ix x).flash = s.flash :=
  (State.withoutRegs_flash _).symm.trans ((congrArg State.flash (s.setReg_withoutRegs r ix x)).trans (State.withoutRegs_flash s))
@[simp] theorem State.setReg_host (s : State) (r : RN) (ix : List Nat) (x : Nat) : (s.setReg r ix x).host = s.host :=
  (State.withoutRegs_host _).symm.trans ((congrArg State.host (s.setReg_withoutRegs r ix x)).trans (State.withoutRegs_host s))
@[simp] theorem State.setReg_rec_ (s : State) (r : RN) (ix : List Nat) (x : Nat) : (s.setReg r ix x).rec' = s.rec' :=
  (State.withoutRegs_rec_ _).symm.trans ((congrArg State.rec' (s.setReg_withoutRegs r ix x)).trans (State.withoutRegs_rec_ s))
@[simp] theorem State.setReg_time (s : State) (r : RN) (ix : List Nat) (x : Nat) : (s.setReg r ix x).time = s.time :=
  (State.withoutRegs_time _).symm.trans ((congrArg State.time (s.setReg_withoutRegs r ix x)).trans (State.withoutRegs_time s))
@[simp] theorem State.setReg_net (s : State) (r : RN) (ix : List Nat) (x : Nat) : (s.setReg r ix x).net = s.net :=
  (State.withoutRegs_net _).symm.trans ((congrArg State.net (s.setReg_withoutRegs r ix x)).trans (State.withoutRegs_net s))
@[simp] theorem State.setReg_cam (s : State) (r : RN) (ix : List Nat) (x : Nat) : (s.setReg r ix x).cam = s.cam :=
  (State.withoutRegs_cam _).symm.trans ((congrArg State.cam (s.setReg_withoutRegs r ix x)).trans (State.withoutRegs_cam s))
@[simp] theorem State.setReg_sched (s : State) (r : RN) (ix : List Nat) (x : Nat) : (s.setReg r ix x).sched = s.sched :=
  (State.withoutRegs_sched _).symm.trans ((congrArg State.sched (s.setReg_withoutRegs r ix x)).trans (State.withoutRegs_sched s))
@[simp] theorem State.setReg_ledg (s : State) (r : RN) (ix : List Nat) (x : Nat) : (s.setReg r ix x).ledg = s.ledg :=
  (State.withoutRegs_ledg _).symm.trans ((congrArg State.ledg (s.setReg_withoutRegs r ix x)).trans (State.withoutRegs_ledg s))
@[simp] theorem State.setReg_motion (s : State) (r : RN) (ix : List Nat) (x : Nat) : (s.setReg r ix x).motion = s.motion :=
  (State.withoutRegs_motion _).symm.trans ((congrArg State.motion (s.setReg_withoutRegs r ix x)).trans (State.withoutRegs_motion s))
@[simp] theorem State.setReg_field (s : State) (r : RN) (ix : List Nat) (x : Nat) : (s.setReg r ix x).field = s.field :=
  (State.withoutRegs_field _).symm.trans ((congrArg State.field (s.setReg_withoutRegs r ix x)).trans (State.withoutRegs_field s))
@[simp] theorem State.setReg_cap (s : State) (r : RN) (ix : List Nat) (x : Nat) : (s.setReg r ix x).cap = s.cap :=
  (State.withoutRegs_cap _).symm.trans ((congrArg State.cap (s.setReg_withoutRegs r ix x)).trans (State.withoutRegs_cap s))
@[simp] theorem State.setReg_train (s : State) (r : RN) (ix : List Nat) (x : Nat) : (s.setReg r ix x).train = s.train :=
  (State.withoutRegs_train _).symm.trans ((congrArg State.train (s.setReg_withoutRegs r ix x)).trans (State.withoutRegs_train s))
@[simp] theorem State.setReg_backup (s : State) (r : RN) (ix : List Nat) (x : Nat) : (s.setReg r ix x).backup = s.backup :=
  (State.withoutRegs_backup _).symm.trans ((congrArg State.backup (s.setReg_withoutRegs r ix x)).trans (State.withoutRegs_backup s))
@[simp] theorem State.setReg_boot (s : State) (r : RN) (ix : List Nat) (x : Nat) : (s.setReg r ix x).boot = s.boot :=
  (State.withoutRegs_boot _).symm.trans ((congrArg State.boot (s.setReg_withoutRegs r ix x)).trans (State.withoutRegs_boot s))
@[simp] theorem State.setReg_sec (s : State) (r : RN) (ix : List Nat) (x : Nat) : (s.setReg r ix x).sec = s.sec :=
  (State.withoutRegs_sec _).symm.trans ((congrArg State.sec (s.setReg_withoutRegs r ix x)).trans (State.withoutRegs_sec s))
@[simp] theorem State.setReg_lanes (s : State) (r : RN) (ix : List Nat) (x : Nat) : (s.setReg r ix x).lanes = s.lanes :=
  (State.withoutRegs_lanes _).symm.trans ((congrArg State.lanes (s.setReg_withoutRegs r ix x)).trans (State.withoutRegs_lanes s))
@[simp] theorem State.setReg_mc (s : State) (r : RN) (ix : List Nat) (x : Nat) : (s.setReg r ix x).mc = s.mc :=
  (State.withoutRegs_mc _).symm.trans ((congrArg State.mc (s.setReg_withoutRegs r ix x)).trans (State.withoutRegs_mc s))
@[simp] theorem State.setReg_free (s : State) (r : RN) (ix : List Nat) (x : Nat) : (s.setReg r ix x).free = s.free :=
  (State.withoutRegs_free _).symm.trans ((congrArg State.free (s.setReg_withoutRegs r ix x)).trans (State.withoutRegs_free s))
@[simp] theorem State.setReg_out (s : State) (r : RN) (ix : List Nat) (x : Nat) : (s.setReg r ix x).out = s.out :=
  (State.withoutRegs_out _).symm.trans ((congrArg State.out (s.setReg_withoutRegs r ix x)).trans (State.withoutRegs_out s))
@[simp] theorem State.setReg_pending (s : State) (r : RN) (ix : List Nat) (x : Nat) : (s.setReg r ix x).pending = s.pending :=
  (State.withoutRegs_pending _).symm.trans ((congrArg State.pending (s.setReg_withoutRegs r ix x)).trans (State.withoutRegs_pending s))

@[simp] theorem State.count_withoutRegs (s : State) (r : RN) (ix : List Nat) (n : Nat) :
    (s.count r ix n).withoutRegs = s.withoutRegs := rfl

@[simp] theorem State.count_withoutLog (s : State) (r : RN) (ix : List Nat) (n : Nat) : (s.count r ix n).withoutLog = s.withoutLog :=
  (State.withoutRegs_withoutLog _).symm.trans
    ((congrArg State.withoutLog (s.count_withoutRegs r ix n)).trans (State.withoutRegs_withoutLog s))
@[simp] theorem State.count_withoutStore (s : State) (r : RN) (ix : List Nat) (n : Nat) : (s.count r ix n).withoutStore = s.withoutStore :=
  (State.withoutRegs_withoutStore _).symm.trans
    ((congrArg State.withoutStore (s.count_withoutRegs r ix n)).trans (State.withoutRegs_withoutStore s))
@[simp] theorem State.count_withoutSig (s : State) (r : RN) (ix : List Nat) (n : Nat) : (s.count r ix n).withoutSig = s.withoutSig :=
  (State.withoutRegs_withoutSig _).symm.trans
    ((congrArg State.withoutSig (s.count_withoutRegs r ix n)).trans (State.withoutRegs_withoutSig s))
@[simp] theorem State.count_withoutDone (s : State) (r : RN) (ix : List Nat) (n : Nat) : (s.count r ix n).withoutDone = s.withoutDone :=
  (State.withoutRegs_withoutDone _).symm.trans
    ((congrArg State.withoutDone (s.count_withoutRegs r ix n)).trans (State.withoutRegs_withoutDone s))
@[simp] theorem State.count_mem (s : State) (r : RN) (ix : List Nat) (n : Nat) : (s.count r ix n).mem = s.mem :=
  (State.withoutRegs_mem _).symm.trans ((congrArg State.mem (s.count_withoutRegs r ix n)).trans (State.withoutRegs_mem s))
@[simp] theorem State.count_dev (s : State) (r : RN) (ix : List Nat) (n : Nat) : (s.count r ix n).dev = s.dev :=
  (State.withoutRegs_dev _).symm.trans ((congrArg State.dev (s.count_withoutRegs r ix n)).trans (State.withoutRegs_dev s))
@[simp] theorem State.count_img (s : State) (r : RN) (ix : List Nat) (n : Nat) : (s.count r ix n).img = s.img :=
  (State.withoutRegs_img _).symm.trans ((congrArg State.img (s.count_withoutRegs r ix n)).trans (State.withoutRegs_img s))
@[simp] theorem State.count_flash (s : State) (r : RN) (ix : List Nat) (n : Nat) : (s.count r ix n).flash = s.flash :=
  (State.withoutRegs_flash _).symm.trans ((congrArg State.flash (s.count_withoutRegs r ix n)).trans (State.withoutRegs_flash s))
@[simp] theorem State.count_host (s : State) (r : RN) (ix : List Nat) (n : Nat) : (s.count r ix n).host = s.host :=
  (State.withoutRegs_host _).symm.trans ((congrArg State.host (s.count_withoutRegs r ix n)).trans (State.withoutRegs_host s))
@[simp] theorem State.count_rec_ (s : State) (r : RN) (ix : List Nat) (n : Nat) : (s.count r ix n).rec' = s.rec' :=
  (State.withoutRegs_rec_ _).symm.trans ((congrArg State.rec' (s.count_withoutRegs r ix n)).trans (State.withoutRegs_rec_ s))
@[simp] theorem State.count_time (s : State) (r : RN) (ix : List Nat) (n : Nat) : (s.count r ix n).time = s.time :=
  (State.withoutRegs_time _).symm.trans ((congrArg State.time (s.count_withoutRegs r ix n)).trans (State.withoutRegs_time s))
@[simp] theorem State.count_net (s : State) (r : RN) (ix : List Nat) (n : Nat) : (s.count r ix n).net = s.net :=
  (State.withoutRegs_net _).symm.trans ((congrArg State.net (s.count_withoutRegs r ix n)).trans (State.withoutRegs_net s))
@[simp] theorem State.count_cam (s : State) (r : RN) (ix : List Nat) (n : Nat) : (s.count r ix n).cam = s.cam :=
  (State.withoutRegs_cam _).symm.trans ((congrArg State.cam (s.count_withoutRegs r ix n)).trans (State.withoutRegs_cam s))
@[simp] theorem State.count_sched (s : State) (r : RN) (ix : List Nat) (n : Nat) : (s.count r ix n).sched = s.sched :=
  (State.withoutRegs_sched _).symm.trans ((congrArg State.sched (s.count_withoutRegs r ix n)).trans (State.withoutRegs_sched s))
@[simp] theorem State.count_ledg (s : State) (r : RN) (ix : List Nat) (n : Nat) : (s.count r ix n).ledg = s.ledg :=
  (State.withoutRegs_ledg _).symm.trans ((congrArg State.ledg (s.count_withoutRegs r ix n)).trans (State.withoutRegs_ledg s))
@[simp] theorem State.count_motion (s : State) (r : RN) (ix : List Nat) (n : Nat) : (s.count r ix n).motion = s.motion :=
  (State.withoutRegs_motion _).symm.trans ((congrArg State.motion (s.count_withoutRegs r ix n)).trans (State.withoutRegs_motion s))
@[simp] theorem State.count_field (s : State) (r : RN) (ix : List Nat) (n : Nat) : (s.count r ix n).field = s.field :=
  (State.withoutRegs_field _).symm.trans ((congrArg State.field (s.count_withoutRegs r ix n)).trans (State.withoutRegs_field s))
@[simp] theorem State.count_cap (s : State) (r : RN) (ix : List Nat) (n : Nat) : (s.count r ix n).cap = s.cap :=
  (State.withoutRegs_cap _).symm.trans ((congrArg State.cap (s.count_withoutRegs r ix n)).trans (State.withoutRegs_cap s))
@[simp] theorem State.count_train (s : State) (r : RN) (ix : List Nat) (n : Nat) : (s.count r ix n).train = s.train :=
  (State.withoutRegs_train _).symm.trans ((congrArg State.train (s.count_withoutRegs r ix n)).trans (State.withoutRegs_train s))
@[simp] theorem State.count_backup (s : State) (r : RN) (ix : List Nat) (n : Nat) : (s.count r ix n).backup = s.backup :=
  (State.withoutRegs_backup _).symm.trans ((congrArg State.backup (s.count_withoutRegs r ix n)).trans (State.withoutRegs_backup s))
@[simp] theorem State.count_boot (s : State) (r : RN) (ix : List Nat) (n : Nat) : (s.count r ix n).boot = s.boot :=
  (State.withoutRegs_boot _).symm.trans ((congrArg State.boot (s.count_withoutRegs r ix n)).trans (State.withoutRegs_boot s))
@[simp] theorem State.count_sec (s : State) (r : RN) (ix : List Nat) (n : Nat) : (s.count r ix n).sec = s.sec :=
  (State.withoutRegs_sec _).symm.trans ((congrArg State.sec (s.count_withoutRegs r ix n)).trans (State.withoutRegs_sec s))
@[simp] theorem State.count_lanes (s : State) (r : RN) (ix : List Nat) (n : Nat) : (s.count r ix n).lanes = s.lanes :=
  (State.withoutRegs_lanes _).symm.trans ((congrArg State.lanes (s.count_withoutRegs r ix n)).trans (State.withoutRegs_lanes s))
@[simp] theorem State.count_mc (s : State) (r : RN) (ix : List Nat) (n : Nat) : (s.count r ix n).mc = s.mc :=
  (State.withoutRegs_mc _).symm.trans ((congrArg State.mc (s.count_withoutRegs r ix n)).trans (State.withoutRegs_mc s))
@[simp] theorem State.count_free (s : State) (r : RN) (ix : List Nat) (n : Nat) : (s.count r ix n).free = s.free :=
  (State.withoutRegs_free _).symm.trans ((congrArg State.free (s.count_withoutRegs r ix n)).trans (State.withoutRegs_free s))
@[simp] theorem State.count_out (s : State) (r : RN) (ix : List Nat) (n : Nat) : (s.count r ix n).out = s.out :=
  (State.withoutRegs_out _).symm.trans ((congrArg State.out (s.count_withoutRegs r ix n)).trans (State.withoutRegs_out s))
@[simp] theorem State.count_pending (s : State) (r : RN) (ix : List Nat) (n : Nat) : (s.count r ix n).pending = s.pending :=
  (State.withoutRegs_pending _).symm.trans ((congrArg State.pending (s.count_withoutRegs r ix n)).trans (State.withoutRegs_pending s))

@[simp] theorem State.countSat_withoutRegs (s : State) (r : RN) (ix : List Nat) (n : Nat) :
    (s.countSat r ix n).withoutRegs = s.withoutRegs := rfl

@[simp] theorem State.countSat_withoutLog (s : State) (r : RN) (ix : List Nat) (n : Nat) : (s.countSat r ix n).withoutLog = s.withoutLog :=
  (State.withoutRegs_withoutLog _).symm.trans
    ((congrArg State.withoutLog (s.countSat_withoutRegs r ix n)).trans (State.withoutRegs_withoutLog s))
@[simp] theorem State.countSat_withoutStore (s : State) (r : RN) (ix : List Nat) (n : Nat) : (s.countSat r ix n).withoutStore = s.withoutStore :=
  (State.withoutRegs_withoutStore _).symm.trans
    ((congrArg State.withoutStore (s.countSat_withoutRegs r ix n)).trans (State.withoutRegs_withoutStore s))
@[simp] theorem State.countSat_withoutSig (s : State) (r : RN) (ix : List Nat) (n : Nat) : (s.countSat r ix n).withoutSig = s.withoutSig :=
  (State.withoutRegs_withoutSig _).symm.trans
    ((congrArg State.withoutSig (s.countSat_withoutRegs r ix n)).trans (State.withoutRegs_withoutSig s))
@[simp] theorem State.countSat_withoutDone (s : State) (r : RN) (ix : List Nat) (n : Nat) : (s.countSat r ix n).withoutDone = s.withoutDone :=
  (State.withoutRegs_withoutDone _).symm.trans
    ((congrArg State.withoutDone (s.countSat_withoutRegs r ix n)).trans (State.withoutRegs_withoutDone s))
@[simp] theorem State.countSat_mem (s : State) (r : RN) (ix : List Nat) (n : Nat) : (s.countSat r ix n).mem = s.mem :=
  (State.withoutRegs_mem _).symm.trans ((congrArg State.mem (s.countSat_withoutRegs r ix n)).trans (State.withoutRegs_mem s))
@[simp] theorem State.countSat_dev (s : State) (r : RN) (ix : List Nat) (n : Nat) : (s.countSat r ix n).dev = s.dev :=
  (State.withoutRegs_dev _).symm.trans ((congrArg State.dev (s.countSat_withoutRegs r ix n)).trans (State.withoutRegs_dev s))
@[simp] theorem State.countSat_img (s : State) (r : RN) (ix : List Nat) (n : Nat) : (s.countSat r ix n).img = s.img :=
  (State.withoutRegs_img _).symm.trans ((congrArg State.img (s.countSat_withoutRegs r ix n)).trans (State.withoutRegs_img s))
@[simp] theorem State.countSat_flash (s : State) (r : RN) (ix : List Nat) (n : Nat) : (s.countSat r ix n).flash = s.flash :=
  (State.withoutRegs_flash _).symm.trans ((congrArg State.flash (s.countSat_withoutRegs r ix n)).trans (State.withoutRegs_flash s))
@[simp] theorem State.countSat_host (s : State) (r : RN) (ix : List Nat) (n : Nat) : (s.countSat r ix n).host = s.host :=
  (State.withoutRegs_host _).symm.trans ((congrArg State.host (s.countSat_withoutRegs r ix n)).trans (State.withoutRegs_host s))
@[simp] theorem State.countSat_rec_ (s : State) (r : RN) (ix : List Nat) (n : Nat) : (s.countSat r ix n).rec' = s.rec' :=
  (State.withoutRegs_rec_ _).symm.trans ((congrArg State.rec' (s.countSat_withoutRegs r ix n)).trans (State.withoutRegs_rec_ s))
@[simp] theorem State.countSat_time (s : State) (r : RN) (ix : List Nat) (n : Nat) : (s.countSat r ix n).time = s.time :=
  (State.withoutRegs_time _).symm.trans ((congrArg State.time (s.countSat_withoutRegs r ix n)).trans (State.withoutRegs_time s))
@[simp] theorem State.countSat_net (s : State) (r : RN) (ix : List Nat) (n : Nat) : (s.countSat r ix n).net = s.net :=
  (State.withoutRegs_net _).symm.trans ((congrArg State.net (s.countSat_withoutRegs r ix n)).trans (State.withoutRegs_net s))
@[simp] theorem State.countSat_cam (s : State) (r : RN) (ix : List Nat) (n : Nat) : (s.countSat r ix n).cam = s.cam :=
  (State.withoutRegs_cam _).symm.trans ((congrArg State.cam (s.countSat_withoutRegs r ix n)).trans (State.withoutRegs_cam s))
@[simp] theorem State.countSat_sched (s : State) (r : RN) (ix : List Nat) (n : Nat) : (s.countSat r ix n).sched = s.sched :=
  (State.withoutRegs_sched _).symm.trans ((congrArg State.sched (s.countSat_withoutRegs r ix n)).trans (State.withoutRegs_sched s))
@[simp] theorem State.countSat_ledg (s : State) (r : RN) (ix : List Nat) (n : Nat) : (s.countSat r ix n).ledg = s.ledg :=
  (State.withoutRegs_ledg _).symm.trans ((congrArg State.ledg (s.countSat_withoutRegs r ix n)).trans (State.withoutRegs_ledg s))
@[simp] theorem State.countSat_motion (s : State) (r : RN) (ix : List Nat) (n : Nat) : (s.countSat r ix n).motion = s.motion :=
  (State.withoutRegs_motion _).symm.trans ((congrArg State.motion (s.countSat_withoutRegs r ix n)).trans (State.withoutRegs_motion s))
@[simp] theorem State.countSat_field (s : State) (r : RN) (ix : List Nat) (n : Nat) : (s.countSat r ix n).field = s.field :=
  (State.withoutRegs_field _).symm.trans ((congrArg State.field (s.countSat_withoutRegs r ix n)).trans (State.withoutRegs_field s))
@[simp] theorem State.countSat_cap (s : State) (r : RN) (ix : List Nat) (n : Nat) : (s.countSat r ix n).cap = s.cap :=
  (State.withoutRegs_cap _).symm.trans ((congrArg State.cap (s.countSat_withoutRegs r ix n)).trans (State.withoutRegs_cap s))
@[simp] theorem State.countSat_train (s : State) (r : RN) (ix : List Nat) (n : Nat) : (s.countSat r ix n).train = s.train :=
  (State.withoutRegs_train _).symm.trans ((congrArg State.train (s.countSat_withoutRegs r ix n)).trans (State.withoutRegs_train s))
@[simp] theorem State.countSat_backup (s : State) (r : RN) (ix : List Nat) (n : Nat) : (s.countSat r ix n).backup = s.backup :=
  (State.withoutRegs_backup _).symm.trans ((congrArg State.backup (s.countSat_withoutRegs r ix n)).trans (State.withoutRegs_backup s))
@[simp] theorem State.countSat_boot (s : State) (r : RN) (ix : List Nat) (n : Nat) : (s.countSat r ix n).boot = s.boot :=
  (State.withoutRegs_boot _).symm.trans ((congrArg State.boot (s.countSat_withoutRegs r ix n)).trans (State.withoutRegs_boot s))
@[simp] theorem State.countSat_sec (s : State) (r : RN) (ix : List Nat) (n : Nat) : (s.countSat r ix n).sec = s.sec :=
  (State.withoutRegs_sec _).symm.trans ((congrArg State.sec (s.countSat_withoutRegs r ix n)).trans (State.withoutRegs_sec s))
@[simp] theorem State.countSat_lanes (s : State) (r : RN) (ix : List Nat) (n : Nat) : (s.countSat r ix n).lanes = s.lanes :=
  (State.withoutRegs_lanes _).symm.trans ((congrArg State.lanes (s.countSat_withoutRegs r ix n)).trans (State.withoutRegs_lanes s))
@[simp] theorem State.countSat_mc (s : State) (r : RN) (ix : List Nat) (n : Nat) : (s.countSat r ix n).mc = s.mc :=
  (State.withoutRegs_mc _).symm.trans ((congrArg State.mc (s.countSat_withoutRegs r ix n)).trans (State.withoutRegs_mc s))
@[simp] theorem State.countSat_free (s : State) (r : RN) (ix : List Nat) (n : Nat) : (s.countSat r ix n).free = s.free :=
  (State.withoutRegs_free _).symm.trans ((congrArg State.free (s.countSat_withoutRegs r ix n)).trans (State.withoutRegs_free s))
@[simp] theorem State.countSat_out (s : State) (r : RN) (ix : List Nat) (n : Nat) : (s.countSat r ix n).out = s.out :=
  (State.withoutRegs_out _).symm.trans ((congrArg State.out (s.countSat_withoutRegs r ix n)).trans (State.withoutRegs_out s))
@[simp] theorem State.countSat_pending (s : State) (r : RN) (ix : List Nat) (n : Nat) : (s.countSat r ix n).pending = s.pending :=
  (State.withoutRegs_pending _).symm.trans ((congrArg State.pending (s.countSat_withoutRegs r ix n)).trans (State.withoutRegs_pending s))

@[simp] theorem State.setPair_withoutRegs (s : State) (lo hi : RN) (ix : List Nat) (v : Nat) :
    (s.setPair lo hi ix v).withoutRegs = s.withoutRegs := rfl

@[simp] theorem State.setPair_withoutLog (s : State) (lo hi : RN) (ix : List Nat) (v : Nat) : (s.setPair lo hi ix v).withoutLog = s.withoutLog :=
  (State.withoutRegs_withoutLog _).symm.trans
    ((congrArg State.withoutLog (s.setPair_withoutRegs lo hi ix v)).trans (State.withoutRegs_withoutLog s))
@[simp] theorem State.setPair_withoutStore (s : State) (lo hi : RN) (ix : List Nat) (v : Nat) : (s.setPair lo hi ix v).withoutStore = s.withoutStore :=
  (State.withoutRegs_withoutStore _).symm.trans
    ((congrArg State.withoutStore (s.setPair_withoutRegs lo hi ix v)).trans (State.withoutRegs_withoutStore s))
@[simp] theorem State.setPair_withoutSig (s : State) (lo hi : RN) (ix : List Nat) (v : Nat) : (s.setPair lo hi ix v).withoutSig = s.withoutSig :=
  (State.withoutRegs_withoutSig _).symm.trans
    ((congrArg State.withoutSig (s.setPair_withoutRegs lo hi ix v)).trans (State.withoutRegs_withoutSig s))
@[simp] theorem State.setPair_withoutDone (s : State) (lo hi : RN) (ix : List Nat) (v : Nat) : (s.setPair lo hi ix v).withoutDone = s.withoutDone :=
  (State.withoutRegs_withoutDone _).symm.trans
    ((congrArg State.withoutDone (s.setPair_withoutRegs lo hi ix v)).trans (State.withoutRegs_withoutDone s))
@[simp] theorem State.setPair_mem (s : State) (lo hi : RN) (ix : List Nat) (v : Nat) : (s.setPair lo hi ix v).mem = s.mem :=
  (State.withoutRegs_mem _).symm.trans ((congrArg State.mem (s.setPair_withoutRegs lo hi ix v)).trans (State.withoutRegs_mem s))
@[simp] theorem State.setPair_dev (s : State) (lo hi : RN) (ix : List Nat) (v : Nat) : (s.setPair lo hi ix v).dev = s.dev :=
  (State.withoutRegs_dev _).symm.trans ((congrArg State.dev (s.setPair_withoutRegs lo hi ix v)).trans (State.withoutRegs_dev s))
@[simp] theorem State.setPair_img (s : State) (lo hi : RN) (ix : List Nat) (v : Nat) : (s.setPair lo hi ix v).img = s.img :=
  (State.withoutRegs_img _).symm.trans ((congrArg State.img (s.setPair_withoutRegs lo hi ix v)).trans (State.withoutRegs_img s))
@[simp] theorem State.setPair_flash (s : State) (lo hi : RN) (ix : List Nat) (v : Nat) : (s.setPair lo hi ix v).flash = s.flash :=
  (State.withoutRegs_flash _).symm.trans ((congrArg State.flash (s.setPair_withoutRegs lo hi ix v)).trans (State.withoutRegs_flash s))
@[simp] theorem State.setPair_host (s : State) (lo hi : RN) (ix : List Nat) (v : Nat) : (s.setPair lo hi ix v).host = s.host :=
  (State.withoutRegs_host _).symm.trans ((congrArg State.host (s.setPair_withoutRegs lo hi ix v)).trans (State.withoutRegs_host s))
@[simp] theorem State.setPair_rec_ (s : State) (lo hi : RN) (ix : List Nat) (v : Nat) : (s.setPair lo hi ix v).rec' = s.rec' :=
  (State.withoutRegs_rec_ _).symm.trans ((congrArg State.rec' (s.setPair_withoutRegs lo hi ix v)).trans (State.withoutRegs_rec_ s))
@[simp] theorem State.setPair_time (s : State) (lo hi : RN) (ix : List Nat) (v : Nat) : (s.setPair lo hi ix v).time = s.time :=
  (State.withoutRegs_time _).symm.trans ((congrArg State.time (s.setPair_withoutRegs lo hi ix v)).trans (State.withoutRegs_time s))
@[simp] theorem State.setPair_net (s : State) (lo hi : RN) (ix : List Nat) (v : Nat) : (s.setPair lo hi ix v).net = s.net :=
  (State.withoutRegs_net _).symm.trans ((congrArg State.net (s.setPair_withoutRegs lo hi ix v)).trans (State.withoutRegs_net s))
@[simp] theorem State.setPair_cam (s : State) (lo hi : RN) (ix : List Nat) (v : Nat) : (s.setPair lo hi ix v).cam = s.cam :=
  (State.withoutRegs_cam _).symm.trans ((congrArg State.cam (s.setPair_withoutRegs lo hi ix v)).trans (State.withoutRegs_cam s))
@[simp] theorem State.setPair_sched (s : State) (lo hi : RN) (ix : List Nat) (v : Nat) : (s.setPair lo hi ix v).sched = s.sched :=
  (State.withoutRegs_sched _).symm.trans ((congrArg State.sched (s.setPair_withoutRegs lo hi ix v)).trans (State.withoutRegs_sched s))
@[simp] theorem State.setPair_ledg (s : State) (lo hi : RN) (ix : List Nat) (v : Nat) : (s.setPair lo hi ix v).ledg = s.ledg :=
  (State.withoutRegs_ledg _).symm.trans ((congrArg State.ledg (s.setPair_withoutRegs lo hi ix v)).trans (State.withoutRegs_ledg s))
@[simp] theorem State.setPair_motion (s : State) (lo hi : RN) (ix : List Nat) (v : Nat) : (s.setPair lo hi ix v).motion = s.motion :=
  (State.withoutRegs_motion _).symm.trans ((congrArg State.motion (s.setPair_withoutRegs lo hi ix v)).trans (State.withoutRegs_motion s))
@[simp] theorem State.setPair_field (s : State) (lo hi : RN) (ix : List Nat) (v : Nat) : (s.setPair lo hi ix v).field = s.field :=
  (State.withoutRegs_field _).symm.trans ((congrArg State.field (s.setPair_withoutRegs lo hi ix v)).trans (State.withoutRegs_field s))
@[simp] theorem State.setPair_cap (s : State) (lo hi : RN) (ix : List Nat) (v : Nat) : (s.setPair lo hi ix v).cap = s.cap :=
  (State.withoutRegs_cap _).symm.trans ((congrArg State.cap (s.setPair_withoutRegs lo hi ix v)).trans (State.withoutRegs_cap s))
@[simp] theorem State.setPair_train (s : State) (lo hi : RN) (ix : List Nat) (v : Nat) : (s.setPair lo hi ix v).train = s.train :=
  (State.withoutRegs_train _).symm.trans ((congrArg State.train (s.setPair_withoutRegs lo hi ix v)).trans (State.withoutRegs_train s))
@[simp] theorem State.setPair_backup (s : State) (lo hi : RN) (ix : List Nat) (v : Nat) : (s.setPair lo hi ix v).backup = s.backup :=
  (State.withoutRegs_backup _).symm.trans ((congrArg State.backup (s.setPair_withoutRegs lo hi ix v)).trans (State.withoutRegs_backup s))
@[simp] theorem State.setPair_boot (s : State) (lo hi : RN) (ix : List Nat) (v : Nat) : (s.setPair lo hi ix v).boot = s.boot :=
  (State.withoutRegs_boot _).symm.trans ((congrArg State.boot (s.setPair_withoutRegs lo hi ix v)).trans (State.withoutRegs_boot s))
@[simp] theorem State.setPair_sec (s : State) (lo hi : RN) (ix : List Nat) (v : Nat) : (s.setPair lo hi ix v).sec = s.sec :=
  (State.withoutRegs_sec _).symm.trans ((congrArg State.sec (s.setPair_withoutRegs lo hi ix v)).trans (State.withoutRegs_sec s))
@[simp] theorem State.setPair_lanes (s : State) (lo hi : RN) (ix : List Nat) (v : Nat) : (s.setPair lo hi ix v).lanes = s.lanes :=
  (State.withoutRegs_lanes _).symm.trans ((congrArg State.lanes (s.setPair_withoutRegs lo hi ix v)).trans (State.withoutRegs_lanes s))
@[simp] theorem State.setPair_mc (s : State) (lo hi : RN) (ix : List Nat) (v : Nat) : (s.setPair lo hi ix v).mc = s.mc :=
  (State.withoutRegs_mc _).symm.trans ((congrArg State.mc (s.setPair_withoutRegs lo hi ix v)).trans (State.withoutRegs_mc s))
@[simp] theorem State.setPair_free (s : State) (lo hi : RN) (ix : List Nat) (v : Nat) : (s.setPair lo hi ix v).free = s.free :=
  (State.withoutRegs_free _).symm.trans ((congrArg State.free (s.setPair_withoutRegs lo hi ix v)).trans (State.withoutRegs_free s))
@[simp] theorem State.setPair_out (s : State) (lo hi : RN) (ix : List Nat) (v : Nat) : (s.setPair lo hi ix v).out = s.out :=
  (State.withoutRegs_out _).symm.trans ((congrArg State.out (s.setPair_withoutRegs lo hi ix v)).trans (State.withoutRegs_out s))
@[simp] theorem State.setPair_pending (s : State) (lo hi : RN) (ix : List Nat) (v : Nat) : (s.setPair lo hi ix v).pending = s.pending :=
  (State.withoutRegs_pending _).symm.trans ((congrArg State.pending (s.setPair_withoutRegs lo hi ix v)).trans (State.withoutRegs_pending s))

@[simp] theorem State.countDrop_withoutRegs (s : State) (v : Nat) :
    (s.countDrop v).withoutRegs = s.withoutRegs := rfl

@[simp] theorem State.countDrop_withoutLog (s : State) (v : Nat) : (s.countDrop v).withoutLog = s.withoutLog :=
  (State.withoutRegs_withoutLog _).symm.trans
    ((congrArg State.withoutLog (s.countDrop_withoutRegs v)).trans (State.withoutRegs_withoutLog s))
@[simp] theorem State.countDrop_withoutStore (s : State) (v : Nat) : (s.countDrop v).withoutStore = s.withoutStore :=
  (State.withoutRegs_withoutStore _).symm.trans
    ((congrArg State.withoutStore (s.countDrop_withoutRegs v)).trans (State.withoutRegs_withoutStore s))
@[simp] theorem State.countDrop_withoutSig (s : State) (v : Nat) : (s.countDrop v).withoutSig = s.withoutSig :=
  (State.withoutRegs_withoutSig _).symm.trans
    ((congrArg State.withoutSig (s.countDrop_withoutRegs v)).trans (State.withoutRegs_withoutSig s))
@[simp] theorem State.countDrop_withoutDone (s : State) (v : Nat) : (s.countDrop v).withoutDone = s.withoutDone :=
  (State.withoutRegs_withoutDone _).symm.trans
    ((congrArg State.withoutDone (s.countDrop_withoutRegs v)).trans (State.withoutRegs_withoutDone s))
@[simp] theorem State.countDrop_mem (s : State) (v : Nat) : (s.countDrop v).mem = s.mem :=
  (State.withoutRegs_mem _).symm.trans ((congrArg State.mem (s.countDrop_withoutRegs v)).trans (State.withoutRegs_mem s))
@[simp] theorem State.countDrop_dev (s : State) (v : Nat) : (s.countDrop v).dev = s.dev :=
  (State.withoutRegs_dev _).symm.trans ((congrArg State.dev (s.countDrop_withoutRegs v)).trans (State.withoutRegs_dev s))
@[simp] theorem State.countDrop_img (s : State) (v : Nat) : (s.countDrop v).img = s.img :=
  (State.withoutRegs_img _).symm.trans ((congrArg State.img (s.countDrop_withoutRegs v)).trans (State.withoutRegs_img s))
@[simp] theorem State.countDrop_flash (s : State) (v : Nat) : (s.countDrop v).flash = s.flash :=
  (State.withoutRegs_flash _).symm.trans ((congrArg State.flash (s.countDrop_withoutRegs v)).trans (State.withoutRegs_flash s))
@[simp] theorem State.countDrop_host (s : State) (v : Nat) : (s.countDrop v).host = s.host :=
  (State.withoutRegs_host _).symm.trans ((congrArg State.host (s.countDrop_withoutRegs v)).trans (State.withoutRegs_host s))
@[simp] theorem State.countDrop_rec_ (s : State) (v : Nat) : (s.countDrop v).rec' = s.rec' :=
  (State.withoutRegs_rec_ _).symm.trans ((congrArg State.rec' (s.countDrop_withoutRegs v)).trans (State.withoutRegs_rec_ s))
@[simp] theorem State.countDrop_time (s : State) (v : Nat) : (s.countDrop v).time = s.time :=
  (State.withoutRegs_time _).symm.trans ((congrArg State.time (s.countDrop_withoutRegs v)).trans (State.withoutRegs_time s))
@[simp] theorem State.countDrop_net (s : State) (v : Nat) : (s.countDrop v).net = s.net :=
  (State.withoutRegs_net _).symm.trans ((congrArg State.net (s.countDrop_withoutRegs v)).trans (State.withoutRegs_net s))
@[simp] theorem State.countDrop_cam (s : State) (v : Nat) : (s.countDrop v).cam = s.cam :=
  (State.withoutRegs_cam _).symm.trans ((congrArg State.cam (s.countDrop_withoutRegs v)).trans (State.withoutRegs_cam s))
@[simp] theorem State.countDrop_sched (s : State) (v : Nat) : (s.countDrop v).sched = s.sched :=
  (State.withoutRegs_sched _).symm.trans ((congrArg State.sched (s.countDrop_withoutRegs v)).trans (State.withoutRegs_sched s))
@[simp] theorem State.countDrop_ledg (s : State) (v : Nat) : (s.countDrop v).ledg = s.ledg :=
  (State.withoutRegs_ledg _).symm.trans ((congrArg State.ledg (s.countDrop_withoutRegs v)).trans (State.withoutRegs_ledg s))
@[simp] theorem State.countDrop_motion (s : State) (v : Nat) : (s.countDrop v).motion = s.motion :=
  (State.withoutRegs_motion _).symm.trans ((congrArg State.motion (s.countDrop_withoutRegs v)).trans (State.withoutRegs_motion s))
@[simp] theorem State.countDrop_field (s : State) (v : Nat) : (s.countDrop v).field = s.field :=
  (State.withoutRegs_field _).symm.trans ((congrArg State.field (s.countDrop_withoutRegs v)).trans (State.withoutRegs_field s))
@[simp] theorem State.countDrop_cap (s : State) (v : Nat) : (s.countDrop v).cap = s.cap :=
  (State.withoutRegs_cap _).symm.trans ((congrArg State.cap (s.countDrop_withoutRegs v)).trans (State.withoutRegs_cap s))
@[simp] theorem State.countDrop_train (s : State) (v : Nat) : (s.countDrop v).train = s.train :=
  (State.withoutRegs_train _).symm.trans ((congrArg State.train (s.countDrop_withoutRegs v)).trans (State.withoutRegs_train s))
@[simp] theorem State.countDrop_backup (s : State) (v : Nat) : (s.countDrop v).backup = s.backup :=
  (State.withoutRegs_backup _).symm.trans ((congrArg State.backup (s.countDrop_withoutRegs v)).trans (State.withoutRegs_backup s))
@[simp] theorem State.countDrop_boot (s : State) (v : Nat) : (s.countDrop v).boot = s.boot :=
  (State.withoutRegs_boot _).symm.trans ((congrArg State.boot (s.countDrop_withoutRegs v)).trans (State.withoutRegs_boot s))
@[simp] theorem State.countDrop_sec (s : State) (v : Nat) : (s.countDrop v).sec = s.sec :=
  (State.withoutRegs_sec _).symm.trans ((congrArg State.sec (s.countDrop_withoutRegs v)).trans (State.withoutRegs_sec s))
@[simp] theorem State.countDrop_lanes (s : State) (v : Nat) : (s.countDrop v).lanes = s.lanes :=
  (State.withoutRegs_lanes _).symm.trans ((congrArg State.lanes (s.countDrop_withoutRegs v)).trans (State.withoutRegs_lanes s))
@[simp] theorem State.countDrop_mc (s : State) (v : Nat) : (s.countDrop v).mc = s.mc :=
  (State.withoutRegs_mc _).symm.trans ((congrArg State.mc (s.countDrop_withoutRegs v)).trans (State.withoutRegs_mc s))
@[simp] theorem State.countDrop_free (s : State) (v : Nat) : (s.countDrop v).free = s.free :=
  (State.withoutRegs_free _).symm.trans ((congrArg State.free (s.countDrop_withoutRegs v)).trans (State.withoutRegs_free s))
@[simp] theorem State.countDrop_out (s : State) (v : Nat) : (s.countDrop v).out = s.out :=
  (State.withoutRegs_out _).symm.trans ((congrArg State.out (s.countDrop_withoutRegs v)).trans (State.withoutRegs_out s))
@[simp] theorem State.countDrop_pending (s : State) (v : Nat) : (s.countDrop v).pending = s.pending :=
  (State.withoutRegs_pending _).symm.trans ((congrArg State.pending (s.countDrop_withoutRegs v)).trans (State.withoutRegs_pending s))

@[simp] theorem State.setFlag_withoutRegs (s : State) (r : RN) (ix : List Nat) (b : Nat) :
    (s.setFlag r ix b).withoutRegs = s.withoutRegs := by
  unfold State.setFlag
  dsimp only
  split <;> rfl

@[simp] theorem State.setFlag_withoutLog (s : State) (r : RN) (ix : List Nat) (b : Nat) : (s.setFlag r ix b).withoutLog = s.withoutLog :=
  (State.withoutRegs_withoutLog _).symm.trans
    ((congrArg State.withoutLog (s.setFlag_withoutRegs r ix b)).trans (State.withoutRegs_withoutLog s))
@[simp] theorem State.setFlag_withoutStore (s : State) (r : RN) (ix : List Nat) (b : Nat) : (s.setFlag r ix b).withoutStore = s.withoutStore :=
  (State.withoutRegs_withoutStore _).symm.trans
    ((congrArg State.withoutStore (s.setFlag_withoutRegs r ix b)).trans (State.withoutRegs_withoutStore s))
@[simp] theorem State.setFlag_withoutSig (s : State) (r : RN) (ix : List Nat) (b : Nat) : (s.setFlag r ix b).withoutSig = s.withoutSig :=
  (State.withoutRegs_withoutSig _).symm.trans
    ((congrArg State.withoutSig (s.setFlag_withoutRegs r ix b)).trans (State.withoutRegs_withoutSig s))
@[simp] theorem State.setFlag_withoutDone (s : State) (r : RN) (ix : List Nat) (b : Nat) : (s.setFlag r ix b).withoutDone = s.withoutDone :=
  (State.withoutRegs_withoutDone _).symm.trans
    ((congrArg State.withoutDone (s.setFlag_withoutRegs r ix b)).trans (State.withoutRegs_withoutDone s))
@[simp] theorem State.setFlag_mem (s : State) (r : RN) (ix : List Nat) (b : Nat) : (s.setFlag r ix b).mem = s.mem :=
  (State.withoutRegs_mem _).symm.trans ((congrArg State.mem (s.setFlag_withoutRegs r ix b)).trans (State.withoutRegs_mem s))
@[simp] theorem State.setFlag_dev (s : State) (r : RN) (ix : List Nat) (b : Nat) : (s.setFlag r ix b).dev = s.dev :=
  (State.withoutRegs_dev _).symm.trans ((congrArg State.dev (s.setFlag_withoutRegs r ix b)).trans (State.withoutRegs_dev s))
@[simp] theorem State.setFlag_img (s : State) (r : RN) (ix : List Nat) (b : Nat) : (s.setFlag r ix b).img = s.img :=
  (State.withoutRegs_img _).symm.trans ((congrArg State.img (s.setFlag_withoutRegs r ix b)).trans (State.withoutRegs_img s))
@[simp] theorem State.setFlag_flash (s : State) (r : RN) (ix : List Nat) (b : Nat) : (s.setFlag r ix b).flash = s.flash :=
  (State.withoutRegs_flash _).symm.trans ((congrArg State.flash (s.setFlag_withoutRegs r ix b)).trans (State.withoutRegs_flash s))
@[simp] theorem State.setFlag_host (s : State) (r : RN) (ix : List Nat) (b : Nat) : (s.setFlag r ix b).host = s.host :=
  (State.withoutRegs_host _).symm.trans ((congrArg State.host (s.setFlag_withoutRegs r ix b)).trans (State.withoutRegs_host s))
@[simp] theorem State.setFlag_rec_ (s : State) (r : RN) (ix : List Nat) (b : Nat) : (s.setFlag r ix b).rec' = s.rec' :=
  (State.withoutRegs_rec_ _).symm.trans ((congrArg State.rec' (s.setFlag_withoutRegs r ix b)).trans (State.withoutRegs_rec_ s))
@[simp] theorem State.setFlag_time (s : State) (r : RN) (ix : List Nat) (b : Nat) : (s.setFlag r ix b).time = s.time :=
  (State.withoutRegs_time _).symm.trans ((congrArg State.time (s.setFlag_withoutRegs r ix b)).trans (State.withoutRegs_time s))
@[simp] theorem State.setFlag_net (s : State) (r : RN) (ix : List Nat) (b : Nat) : (s.setFlag r ix b).net = s.net :=
  (State.withoutRegs_net _).symm.trans ((congrArg State.net (s.setFlag_withoutRegs r ix b)).trans (State.withoutRegs_net s))
@[simp] theorem State.setFlag_cam (s : State) (r : RN) (ix : List Nat) (b : Nat) : (s.setFlag r ix b).cam = s.cam :=
  (State.withoutRegs_cam _).symm.trans ((congrArg State.cam (s.setFlag_withoutRegs r ix b)).trans (State.withoutRegs_cam s))
@[simp] theorem State.setFlag_sched (s : State) (r : RN) (ix : List Nat) (b : Nat) : (s.setFlag r ix b).sched = s.sched :=
  (State.withoutRegs_sched _).symm.trans ((congrArg State.sched (s.setFlag_withoutRegs r ix b)).trans (State.withoutRegs_sched s))
@[simp] theorem State.setFlag_ledg (s : State) (r : RN) (ix : List Nat) (b : Nat) : (s.setFlag r ix b).ledg = s.ledg :=
  (State.withoutRegs_ledg _).symm.trans ((congrArg State.ledg (s.setFlag_withoutRegs r ix b)).trans (State.withoutRegs_ledg s))
@[simp] theorem State.setFlag_motion (s : State) (r : RN) (ix : List Nat) (b : Nat) : (s.setFlag r ix b).motion = s.motion :=
  (State.withoutRegs_motion _).symm.trans ((congrArg State.motion (s.setFlag_withoutRegs r ix b)).trans (State.withoutRegs_motion s))
@[simp] theorem State.setFlag_field (s : State) (r : RN) (ix : List Nat) (b : Nat) : (s.setFlag r ix b).field = s.field :=
  (State.withoutRegs_field _).symm.trans ((congrArg State.field (s.setFlag_withoutRegs r ix b)).trans (State.withoutRegs_field s))
@[simp] theorem State.setFlag_cap (s : State) (r : RN) (ix : List Nat) (b : Nat) : (s.setFlag r ix b).cap = s.cap :=
  (State.withoutRegs_cap _).symm.trans ((congrArg State.cap (s.setFlag_withoutRegs r ix b)).trans (State.withoutRegs_cap s))
@[simp] theorem State.setFlag_train (s : State) (r : RN) (ix : List Nat) (b : Nat) : (s.setFlag r ix b).train = s.train :=
  (State.withoutRegs_train _).symm.trans ((congrArg State.train (s.setFlag_withoutRegs r ix b)).trans (State.withoutRegs_train s))
@[simp] theorem State.setFlag_backup (s : State) (r : RN) (ix : List Nat) (b : Nat) : (s.setFlag r ix b).backup = s.backup :=
  (State.withoutRegs_backup _).symm.trans ((congrArg State.backup (s.setFlag_withoutRegs r ix b)).trans (State.withoutRegs_backup s))
@[simp] theorem State.setFlag_boot (s : State) (r : RN) (ix : List Nat) (b : Nat) : (s.setFlag r ix b).boot = s.boot :=
  (State.withoutRegs_boot _).symm.trans ((congrArg State.boot (s.setFlag_withoutRegs r ix b)).trans (State.withoutRegs_boot s))
@[simp] theorem State.setFlag_sec (s : State) (r : RN) (ix : List Nat) (b : Nat) : (s.setFlag r ix b).sec = s.sec :=
  (State.withoutRegs_sec _).symm.trans ((congrArg State.sec (s.setFlag_withoutRegs r ix b)).trans (State.withoutRegs_sec s))
@[simp] theorem State.setFlag_lanes (s : State) (r : RN) (ix : List Nat) (b : Nat) : (s.setFlag r ix b).lanes = s.lanes :=
  (State.withoutRegs_lanes _).symm.trans ((congrArg State.lanes (s.setFlag_withoutRegs r ix b)).trans (State.withoutRegs_lanes s))
@[simp] theorem State.setFlag_mc (s : State) (r : RN) (ix : List Nat) (b : Nat) : (s.setFlag r ix b).mc = s.mc :=
  (State.withoutRegs_mc _).symm.trans ((congrArg State.mc (s.setFlag_withoutRegs r ix b)).trans (State.withoutRegs_mc s))
@[simp] theorem State.setFlag_free (s : State) (r : RN) (ix : List Nat) (b : Nat) : (s.setFlag r ix b).free = s.free :=
  (State.withoutRegs_free _).symm.trans ((congrArg State.free (s.setFlag_withoutRegs r ix b)).trans (State.withoutRegs_free s))
@[simp] theorem State.setFlag_out (s : State) (r : RN) (ix : List Nat) (b : Nat) : (s.setFlag r ix b).out = s.out :=
  (State.withoutRegs_out _).symm.trans ((congrArg State.out (s.setFlag_withoutRegs r ix b)).trans (State.withoutRegs_out s))
@[simp] theorem State.setFlag_pending (s : State) (r : RN) (ix : List Nat) (b : Nat) : (s.setFlag r ix b).pending = s.pending :=
  (State.withoutRegs_pending _).symm.trans ((congrArg State.pending (s.setFlag_withoutRegs r ix b)).trans (State.withoutRegs_pending s))

@[simp] theorem State.ringSettle_withoutRegs (s : State) (seat ring : Nat) :
    (s.ringSettle seat ring).withoutRegs = s.withoutRegs := by
  unfold State.ringSettle
  split
  · rfl
  · rfl

@[simp] theorem State.ringSettle_withoutLog (s : State) (seat ring : Nat) : (s.ringSettle seat ring).withoutLog = s.withoutLog :=
  (State.withoutRegs_withoutLog _).symm.trans
    ((congrArg State.withoutLog (s.ringSettle_withoutRegs seat ring)).trans (State.withoutRegs_withoutLog s))
@[simp] theorem State.ringSettle_withoutStore (s : State) (seat ring : Nat) : (s.ringSettle seat ring).withoutStore = s.withoutStore :=
  (State.withoutRegs_withoutStore _).symm.trans
    ((congrArg State.withoutStore (s.ringSettle_withoutRegs seat ring)).trans (State.withoutRegs_withoutStore s))
@[simp] theorem State.ringSettle_withoutSig (s : State) (seat ring : Nat) : (s.ringSettle seat ring).withoutSig = s.withoutSig :=
  (State.withoutRegs_withoutSig _).symm.trans
    ((congrArg State.withoutSig (s.ringSettle_withoutRegs seat ring)).trans (State.withoutRegs_withoutSig s))
@[simp] theorem State.ringSettle_withoutDone (s : State) (seat ring : Nat) : (s.ringSettle seat ring).withoutDone = s.withoutDone :=
  (State.withoutRegs_withoutDone _).symm.trans
    ((congrArg State.withoutDone (s.ringSettle_withoutRegs seat ring)).trans (State.withoutRegs_withoutDone s))
@[simp] theorem State.ringSettle_mem (s : State) (seat ring : Nat) : (s.ringSettle seat ring).mem = s.mem :=
  (State.withoutRegs_mem _).symm.trans ((congrArg State.mem (s.ringSettle_withoutRegs seat ring)).trans (State.withoutRegs_mem s))
@[simp] theorem State.ringSettle_dev (s : State) (seat ring : Nat) : (s.ringSettle seat ring).dev = s.dev :=
  (State.withoutRegs_dev _).symm.trans ((congrArg State.dev (s.ringSettle_withoutRegs seat ring)).trans (State.withoutRegs_dev s))
@[simp] theorem State.ringSettle_img (s : State) (seat ring : Nat) : (s.ringSettle seat ring).img = s.img :=
  (State.withoutRegs_img _).symm.trans ((congrArg State.img (s.ringSettle_withoutRegs seat ring)).trans (State.withoutRegs_img s))
@[simp] theorem State.ringSettle_flash (s : State) (seat ring : Nat) : (s.ringSettle seat ring).flash = s.flash :=
  (State.withoutRegs_flash _).symm.trans ((congrArg State.flash (s.ringSettle_withoutRegs seat ring)).trans (State.withoutRegs_flash s))
@[simp] theorem State.ringSettle_host (s : State) (seat ring : Nat) : (s.ringSettle seat ring).host = s.host :=
  (State.withoutRegs_host _).symm.trans ((congrArg State.host (s.ringSettle_withoutRegs seat ring)).trans (State.withoutRegs_host s))
@[simp] theorem State.ringSettle_rec_ (s : State) (seat ring : Nat) : (s.ringSettle seat ring).rec' = s.rec' :=
  (State.withoutRegs_rec_ _).symm.trans ((congrArg State.rec' (s.ringSettle_withoutRegs seat ring)).trans (State.withoutRegs_rec_ s))
@[simp] theorem State.ringSettle_time (s : State) (seat ring : Nat) : (s.ringSettle seat ring).time = s.time :=
  (State.withoutRegs_time _).symm.trans ((congrArg State.time (s.ringSettle_withoutRegs seat ring)).trans (State.withoutRegs_time s))
@[simp] theorem State.ringSettle_net (s : State) (seat ring : Nat) : (s.ringSettle seat ring).net = s.net :=
  (State.withoutRegs_net _).symm.trans ((congrArg State.net (s.ringSettle_withoutRegs seat ring)).trans (State.withoutRegs_net s))
@[simp] theorem State.ringSettle_cam (s : State) (seat ring : Nat) : (s.ringSettle seat ring).cam = s.cam :=
  (State.withoutRegs_cam _).symm.trans ((congrArg State.cam (s.ringSettle_withoutRegs seat ring)).trans (State.withoutRegs_cam s))
@[simp] theorem State.ringSettle_sched (s : State) (seat ring : Nat) : (s.ringSettle seat ring).sched = s.sched :=
  (State.withoutRegs_sched _).symm.trans ((congrArg State.sched (s.ringSettle_withoutRegs seat ring)).trans (State.withoutRegs_sched s))
@[simp] theorem State.ringSettle_ledg (s : State) (seat ring : Nat) : (s.ringSettle seat ring).ledg = s.ledg :=
  (State.withoutRegs_ledg _).symm.trans ((congrArg State.ledg (s.ringSettle_withoutRegs seat ring)).trans (State.withoutRegs_ledg s))
@[simp] theorem State.ringSettle_motion (s : State) (seat ring : Nat) : (s.ringSettle seat ring).motion = s.motion :=
  (State.withoutRegs_motion _).symm.trans ((congrArg State.motion (s.ringSettle_withoutRegs seat ring)).trans (State.withoutRegs_motion s))
@[simp] theorem State.ringSettle_field (s : State) (seat ring : Nat) : (s.ringSettle seat ring).field = s.field :=
  (State.withoutRegs_field _).symm.trans ((congrArg State.field (s.ringSettle_withoutRegs seat ring)).trans (State.withoutRegs_field s))
@[simp] theorem State.ringSettle_cap (s : State) (seat ring : Nat) : (s.ringSettle seat ring).cap = s.cap :=
  (State.withoutRegs_cap _).symm.trans ((congrArg State.cap (s.ringSettle_withoutRegs seat ring)).trans (State.withoutRegs_cap s))
@[simp] theorem State.ringSettle_train (s : State) (seat ring : Nat) : (s.ringSettle seat ring).train = s.train :=
  (State.withoutRegs_train _).symm.trans ((congrArg State.train (s.ringSettle_withoutRegs seat ring)).trans (State.withoutRegs_train s))
@[simp] theorem State.ringSettle_backup (s : State) (seat ring : Nat) : (s.ringSettle seat ring).backup = s.backup :=
  (State.withoutRegs_backup _).symm.trans ((congrArg State.backup (s.ringSettle_withoutRegs seat ring)).trans (State.withoutRegs_backup s))
@[simp] theorem State.ringSettle_boot (s : State) (seat ring : Nat) : (s.ringSettle seat ring).boot = s.boot :=
  (State.withoutRegs_boot _).symm.trans ((congrArg State.boot (s.ringSettle_withoutRegs seat ring)).trans (State.withoutRegs_boot s))
@[simp] theorem State.ringSettle_sec (s : State) (seat ring : Nat) : (s.ringSettle seat ring).sec = s.sec :=
  (State.withoutRegs_sec _).symm.trans ((congrArg State.sec (s.ringSettle_withoutRegs seat ring)).trans (State.withoutRegs_sec s))
@[simp] theorem State.ringSettle_lanes (s : State) (seat ring : Nat) : (s.ringSettle seat ring).lanes = s.lanes :=
  (State.withoutRegs_lanes _).symm.trans ((congrArg State.lanes (s.ringSettle_withoutRegs seat ring)).trans (State.withoutRegs_lanes s))
@[simp] theorem State.ringSettle_mc (s : State) (seat ring : Nat) : (s.ringSettle seat ring).mc = s.mc :=
  (State.withoutRegs_mc _).symm.trans ((congrArg State.mc (s.ringSettle_withoutRegs seat ring)).trans (State.withoutRegs_mc s))
@[simp] theorem State.ringSettle_free (s : State) (seat ring : Nat) : (s.ringSettle seat ring).free = s.free :=
  (State.withoutRegs_free _).symm.trans ((congrArg State.free (s.ringSettle_withoutRegs seat ring)).trans (State.withoutRegs_free s))
@[simp] theorem State.ringSettle_out (s : State) (seat ring : Nat) : (s.ringSettle seat ring).out = s.out :=
  (State.withoutRegs_out _).symm.trans ((congrArg State.out (s.ringSettle_withoutRegs seat ring)).trans (State.withoutRegs_out s))
@[simp] theorem State.ringSettle_pending (s : State) (seat ring : Nat) : (s.ringSettle seat ring).pending = s.pending :=
  (State.withoutRegs_pending _).symm.trans ((congrArg State.pending (s.ringSettle_withoutRegs seat ring)).trans (State.withoutRegs_pending s))

@[simp] theorem State.emit_withoutOut (s : State) (e : Emission) :
    (s.emit e).withoutOut = s.withoutOut := rfl

@[simp] theorem State.emit_withoutSend (s : State) (e : Emission) : (s.emit e).withoutSend = s.withoutSend :=
  (State.withoutOut_withoutSend _).symm.trans
    ((congrArg State.withoutSend (s.emit_withoutOut e)).trans (State.withoutOut_withoutSend s))
@[simp] theorem State.emit_withoutSig (s : State) (e : Emission) : (s.emit e).withoutSig = s.withoutSig :=
  (State.withoutOut_withoutSig _).symm.trans
    ((congrArg State.withoutSig (s.emit_withoutOut e)).trans (State.withoutOut_withoutSig s))
@[simp] theorem State.emit_withoutDone (s : State) (e : Emission) : (s.emit e).withoutDone = s.withoutDone :=
  (State.withoutOut_withoutDone _).symm.trans
    ((congrArg State.withoutDone (s.emit_withoutOut e)).trans (State.withoutOut_withoutDone s))
@[simp] theorem State.emit_regs (s : State) (e : Emission) : (s.emit e).regs = s.regs :=
  (State.withoutOut_regs _).symm.trans ((congrArg State.regs (s.emit_withoutOut e)).trans (State.withoutOut_regs s))
@[simp] theorem State.emit_mem (s : State) (e : Emission) : (s.emit e).mem = s.mem :=
  (State.withoutOut_mem _).symm.trans ((congrArg State.mem (s.emit_withoutOut e)).trans (State.withoutOut_mem s))
@[simp] theorem State.emit_dev (s : State) (e : Emission) : (s.emit e).dev = s.dev :=
  (State.withoutOut_dev _).symm.trans ((congrArg State.dev (s.emit_withoutOut e)).trans (State.withoutOut_dev s))
@[simp] theorem State.emit_img (s : State) (e : Emission) : (s.emit e).img = s.img :=
  (State.withoutOut_img _).symm.trans ((congrArg State.img (s.emit_withoutOut e)).trans (State.withoutOut_img s))
@[simp] theorem State.emit_flash (s : State) (e : Emission) : (s.emit e).flash = s.flash :=
  (State.withoutOut_flash _).symm.trans ((congrArg State.flash (s.emit_withoutOut e)).trans (State.withoutOut_flash s))
@[simp] theorem State.emit_host (s : State) (e : Emission) : (s.emit e).host = s.host :=
  (State.withoutOut_host _).symm.trans ((congrArg State.host (s.emit_withoutOut e)).trans (State.withoutOut_host s))
@[simp] theorem State.emit_rec_ (s : State) (e : Emission) : (s.emit e).rec' = s.rec' :=
  (State.withoutOut_rec_ _).symm.trans ((congrArg State.rec' (s.emit_withoutOut e)).trans (State.withoutOut_rec_ s))
@[simp] theorem State.emit_time (s : State) (e : Emission) : (s.emit e).time = s.time :=
  (State.withoutOut_time _).symm.trans ((congrArg State.time (s.emit_withoutOut e)).trans (State.withoutOut_time s))
@[simp] theorem State.emit_net (s : State) (e : Emission) : (s.emit e).net = s.net :=
  (State.withoutOut_net _).symm.trans ((congrArg State.net (s.emit_withoutOut e)).trans (State.withoutOut_net s))
@[simp] theorem State.emit_cam (s : State) (e : Emission) : (s.emit e).cam = s.cam :=
  (State.withoutOut_cam _).symm.trans ((congrArg State.cam (s.emit_withoutOut e)).trans (State.withoutOut_cam s))
@[simp] theorem State.emit_sched (s : State) (e : Emission) : (s.emit e).sched = s.sched :=
  (State.withoutOut_sched _).symm.trans ((congrArg State.sched (s.emit_withoutOut e)).trans (State.withoutOut_sched s))
@[simp] theorem State.emit_ledg (s : State) (e : Emission) : (s.emit e).ledg = s.ledg :=
  (State.withoutOut_ledg _).symm.trans ((congrArg State.ledg (s.emit_withoutOut e)).trans (State.withoutOut_ledg s))
@[simp] theorem State.emit_motion (s : State) (e : Emission) : (s.emit e).motion = s.motion :=
  (State.withoutOut_motion _).symm.trans ((congrArg State.motion (s.emit_withoutOut e)).trans (State.withoutOut_motion s))
@[simp] theorem State.emit_field (s : State) (e : Emission) : (s.emit e).field = s.field :=
  (State.withoutOut_field _).symm.trans ((congrArg State.field (s.emit_withoutOut e)).trans (State.withoutOut_field s))
@[simp] theorem State.emit_cap (s : State) (e : Emission) : (s.emit e).cap = s.cap :=
  (State.withoutOut_cap _).symm.trans ((congrArg State.cap (s.emit_withoutOut e)).trans (State.withoutOut_cap s))
@[simp] theorem State.emit_train (s : State) (e : Emission) : (s.emit e).train = s.train :=
  (State.withoutOut_train _).symm.trans ((congrArg State.train (s.emit_withoutOut e)).trans (State.withoutOut_train s))
@[simp] theorem State.emit_backup (s : State) (e : Emission) : (s.emit e).backup = s.backup :=
  (State.withoutOut_backup _).symm.trans ((congrArg State.backup (s.emit_withoutOut e)).trans (State.withoutOut_backup s))
@[simp] theorem State.emit_boot (s : State) (e : Emission) : (s.emit e).boot = s.boot :=
  (State.withoutOut_boot _).symm.trans ((congrArg State.boot (s.emit_withoutOut e)).trans (State.withoutOut_boot s))
@[simp] theorem State.emit_sec (s : State) (e : Emission) : (s.emit e).sec = s.sec :=
  (State.withoutOut_sec _).symm.trans ((congrArg State.sec (s.emit_withoutOut e)).trans (State.withoutOut_sec s))
@[simp] theorem State.emit_lanes (s : State) (e : Emission) : (s.emit e).lanes = s.lanes :=
  (State.withoutOut_lanes _).symm.trans ((congrArg State.lanes (s.emit_withoutOut e)).trans (State.withoutOut_lanes s))
@[simp] theorem State.emit_mc (s : State) (e : Emission) : (s.emit e).mc = s.mc :=
  (State.withoutOut_mc _).symm.trans ((congrArg State.mc (s.emit_withoutOut e)).trans (State.withoutOut_mc s))
@[simp] theorem State.emit_free (s : State) (e : Emission) : (s.emit e).free = s.free :=
  (State.withoutOut_free _).symm.trans ((congrArg State.free (s.emit_withoutOut e)).trans (State.withoutOut_free s))
@[simp] theorem State.emit_pending (s : State) (e : Emission) : (s.emit e).pending = s.pending :=
  (State.withoutOut_pending _).symm.trans ((congrArg State.pending (s.emit_withoutOut e)).trans (State.withoutOut_pending s))

@[simp] theorem State.emits_withoutOut (s : State) (es : List Emission) :
    (s.emits es).withoutOut = s.withoutOut := rfl

@[simp] theorem State.emits_withoutSend (s : State) (es : List Emission) : (s.emits es).withoutSend = s.withoutSend :=
  (State.withoutOut_withoutSend _).symm.trans
    ((congrArg State.withoutSend (s.emits_withoutOut es)).trans (State.withoutOut_withoutSend s))
@[simp] theorem State.emits_withoutSig (s : State) (es : List Emission) : (s.emits es).withoutSig = s.withoutSig :=
  (State.withoutOut_withoutSig _).symm.trans
    ((congrArg State.withoutSig (s.emits_withoutOut es)).trans (State.withoutOut_withoutSig s))
@[simp] theorem State.emits_withoutDone (s : State) (es : List Emission) : (s.emits es).withoutDone = s.withoutDone :=
  (State.withoutOut_withoutDone _).symm.trans
    ((congrArg State.withoutDone (s.emits_withoutOut es)).trans (State.withoutOut_withoutDone s))
@[simp] theorem State.emits_regs (s : State) (es : List Emission) : (s.emits es).regs = s.regs :=
  (State.withoutOut_regs _).symm.trans ((congrArg State.regs (s.emits_withoutOut es)).trans (State.withoutOut_regs s))
@[simp] theorem State.emits_mem (s : State) (es : List Emission) : (s.emits es).mem = s.mem :=
  (State.withoutOut_mem _).symm.trans ((congrArg State.mem (s.emits_withoutOut es)).trans (State.withoutOut_mem s))
@[simp] theorem State.emits_dev (s : State) (es : List Emission) : (s.emits es).dev = s.dev :=
  (State.withoutOut_dev _).symm.trans ((congrArg State.dev (s.emits_withoutOut es)).trans (State.withoutOut_dev s))
@[simp] theorem State.emits_img (s : State) (es : List Emission) : (s.emits es).img = s.img :=
  (State.withoutOut_img _).symm.trans ((congrArg State.img (s.emits_withoutOut es)).trans (State.withoutOut_img s))
@[simp] theorem State.emits_flash (s : State) (es : List Emission) : (s.emits es).flash = s.flash :=
  (State.withoutOut_flash _).symm.trans ((congrArg State.flash (s.emits_withoutOut es)).trans (State.withoutOut_flash s))
@[simp] theorem State.emits_host (s : State) (es : List Emission) : (s.emits es).host = s.host :=
  (State.withoutOut_host _).symm.trans ((congrArg State.host (s.emits_withoutOut es)).trans (State.withoutOut_host s))
@[simp] theorem State.emits_rec_ (s : State) (es : List Emission) : (s.emits es).rec' = s.rec' :=
  (State.withoutOut_rec_ _).symm.trans ((congrArg State.rec' (s.emits_withoutOut es)).trans (State.withoutOut_rec_ s))
@[simp] theorem State.emits_time (s : State) (es : List Emission) : (s.emits es).time = s.time :=
  (State.withoutOut_time _).symm.trans ((congrArg State.time (s.emits_withoutOut es)).trans (State.withoutOut_time s))
@[simp] theorem State.emits_net (s : State) (es : List Emission) : (s.emits es).net = s.net :=
  (State.withoutOut_net _).symm.trans ((congrArg State.net (s.emits_withoutOut es)).trans (State.withoutOut_net s))
@[simp] theorem State.emits_cam (s : State) (es : List Emission) : (s.emits es).cam = s.cam :=
  (State.withoutOut_cam _).symm.trans ((congrArg State.cam (s.emits_withoutOut es)).trans (State.withoutOut_cam s))
@[simp] theorem State.emits_sched (s : State) (es : List Emission) : (s.emits es).sched = s.sched :=
  (State.withoutOut_sched _).symm.trans ((congrArg State.sched (s.emits_withoutOut es)).trans (State.withoutOut_sched s))
@[simp] theorem State.emits_ledg (s : State) (es : List Emission) : (s.emits es).ledg = s.ledg :=
  (State.withoutOut_ledg _).symm.trans ((congrArg State.ledg (s.emits_withoutOut es)).trans (State.withoutOut_ledg s))
@[simp] theorem State.emits_motion (s : State) (es : List Emission) : (s.emits es).motion = s.motion :=
  (State.withoutOut_motion _).symm.trans ((congrArg State.motion (s.emits_withoutOut es)).trans (State.withoutOut_motion s))
@[simp] theorem State.emits_field (s : State) (es : List Emission) : (s.emits es).field = s.field :=
  (State.withoutOut_field _).symm.trans ((congrArg State.field (s.emits_withoutOut es)).trans (State.withoutOut_field s))
@[simp] theorem State.emits_cap (s : State) (es : List Emission) : (s.emits es).cap = s.cap :=
  (State.withoutOut_cap _).symm.trans ((congrArg State.cap (s.emits_withoutOut es)).trans (State.withoutOut_cap s))
@[simp] theorem State.emits_train (s : State) (es : List Emission) : (s.emits es).train = s.train :=
  (State.withoutOut_train _).symm.trans ((congrArg State.train (s.emits_withoutOut es)).trans (State.withoutOut_train s))
@[simp] theorem State.emits_backup (s : State) (es : List Emission) : (s.emits es).backup = s.backup :=
  (State.withoutOut_backup _).symm.trans ((congrArg State.backup (s.emits_withoutOut es)).trans (State.withoutOut_backup s))
@[simp] theorem State.emits_boot (s : State) (es : List Emission) : (s.emits es).boot = s.boot :=
  (State.withoutOut_boot _).symm.trans ((congrArg State.boot (s.emits_withoutOut es)).trans (State.withoutOut_boot s))
@[simp] theorem State.emits_sec (s : State) (es : List Emission) : (s.emits es).sec = s.sec :=
  (State.withoutOut_sec _).symm.trans ((congrArg State.sec (s.emits_withoutOut es)).trans (State.withoutOut_sec s))
@[simp] theorem State.emits_lanes (s : State) (es : List Emission) : (s.emits es).lanes = s.lanes :=
  (State.withoutOut_lanes _).symm.trans ((congrArg State.lanes (s.emits_withoutOut es)).trans (State.withoutOut_lanes s))
@[simp] theorem State.emits_mc (s : State) (es : List Emission) : (s.emits es).mc = s.mc :=
  (State.withoutOut_mc _).symm.trans ((congrArg State.mc (s.emits_withoutOut es)).trans (State.withoutOut_mc s))
@[simp] theorem State.emits_free (s : State) (es : List Emission) : (s.emits es).free = s.free :=
  (State.withoutOut_free _).symm.trans ((congrArg State.free (s.emits_withoutOut es)).trans (State.withoutOut_free s))
@[simp] theorem State.emits_pending (s : State) (es : List Emission) : (s.emits es).pending = s.pending :=
  (State.withoutOut_pending _).symm.trans ((congrArg State.pending (s.emits_withoutOut es)).trans (State.withoutOut_pending s))

@[simp] theorem State.poke_withoutMem (s : State) (a : Nat) (d : Bytes) :
    (s.poke a d).withoutMem = s.withoutMem := rfl

@[simp] theorem State.poke_withoutStore (s : State) (a : Nat) (d : Bytes) : (s.poke a d).withoutStore = s.withoutStore :=
  (State.withoutMem_withoutStore _).symm.trans
    ((congrArg State.withoutStore (s.poke_withoutMem a d)).trans (State.withoutMem_withoutStore s))
@[simp] theorem State.poke_withoutDone (s : State) (a : Nat) (d : Bytes) : (s.poke a d).withoutDone = s.withoutDone :=
  (State.withoutMem_withoutDone _).symm.trans
    ((congrArg State.withoutDone (s.poke_withoutMem a d)).trans (State.withoutMem_withoutDone s))
@[simp] theorem State.poke_regs (s : State) (a : Nat) (d : Bytes) : (s.poke a d).regs = s.regs :=
  (State.withoutMem_regs _).symm.trans ((congrArg State.regs (s.poke_withoutMem a d)).trans (State.withoutMem_regs s))
@[simp] theorem State.poke_dev (s : State) (a : Nat) (d : Bytes) : (s.poke a d).dev = s.dev :=
  (State.withoutMem_dev _).symm.trans ((congrArg State.dev (s.poke_withoutMem a d)).trans (State.withoutMem_dev s))
@[simp] theorem State.poke_img (s : State) (a : Nat) (d : Bytes) : (s.poke a d).img = s.img :=
  (State.withoutMem_img _).symm.trans ((congrArg State.img (s.poke_withoutMem a d)).trans (State.withoutMem_img s))
@[simp] theorem State.poke_flash (s : State) (a : Nat) (d : Bytes) : (s.poke a d).flash = s.flash :=
  (State.withoutMem_flash _).symm.trans ((congrArg State.flash (s.poke_withoutMem a d)).trans (State.withoutMem_flash s))
@[simp] theorem State.poke_host (s : State) (a : Nat) (d : Bytes) : (s.poke a d).host = s.host :=
  (State.withoutMem_host _).symm.trans ((congrArg State.host (s.poke_withoutMem a d)).trans (State.withoutMem_host s))
@[simp] theorem State.poke_rec_ (s : State) (a : Nat) (d : Bytes) : (s.poke a d).rec' = s.rec' :=
  (State.withoutMem_rec_ _).symm.trans ((congrArg State.rec' (s.poke_withoutMem a d)).trans (State.withoutMem_rec_ s))
@[simp] theorem State.poke_time (s : State) (a : Nat) (d : Bytes) : (s.poke a d).time = s.time :=
  (State.withoutMem_time _).symm.trans ((congrArg State.time (s.poke_withoutMem a d)).trans (State.withoutMem_time s))
@[simp] theorem State.poke_net (s : State) (a : Nat) (d : Bytes) : (s.poke a d).net = s.net :=
  (State.withoutMem_net _).symm.trans ((congrArg State.net (s.poke_withoutMem a d)).trans (State.withoutMem_net s))
@[simp] theorem State.poke_cam (s : State) (a : Nat) (d : Bytes) : (s.poke a d).cam = s.cam :=
  (State.withoutMem_cam _).symm.trans ((congrArg State.cam (s.poke_withoutMem a d)).trans (State.withoutMem_cam s))
@[simp] theorem State.poke_sched (s : State) (a : Nat) (d : Bytes) : (s.poke a d).sched = s.sched :=
  (State.withoutMem_sched _).symm.trans ((congrArg State.sched (s.poke_withoutMem a d)).trans (State.withoutMem_sched s))
@[simp] theorem State.poke_ledg (s : State) (a : Nat) (d : Bytes) : (s.poke a d).ledg = s.ledg :=
  (State.withoutMem_ledg _).symm.trans ((congrArg State.ledg (s.poke_withoutMem a d)).trans (State.withoutMem_ledg s))
@[simp] theorem State.poke_motion (s : State) (a : Nat) (d : Bytes) : (s.poke a d).motion = s.motion :=
  (State.withoutMem_motion _).symm.trans ((congrArg State.motion (s.poke_withoutMem a d)).trans (State.withoutMem_motion s))
@[simp] theorem State.poke_field (s : State) (a : Nat) (d : Bytes) : (s.poke a d).field = s.field :=
  (State.withoutMem_field _).symm.trans ((congrArg State.field (s.poke_withoutMem a d)).trans (State.withoutMem_field s))
@[simp] theorem State.poke_cap (s : State) (a : Nat) (d : Bytes) : (s.poke a d).cap = s.cap :=
  (State.withoutMem_cap _).symm.trans ((congrArg State.cap (s.poke_withoutMem a d)).trans (State.withoutMem_cap s))
@[simp] theorem State.poke_train (s : State) (a : Nat) (d : Bytes) : (s.poke a d).train = s.train :=
  (State.withoutMem_train _).symm.trans ((congrArg State.train (s.poke_withoutMem a d)).trans (State.withoutMem_train s))
@[simp] theorem State.poke_backup (s : State) (a : Nat) (d : Bytes) : (s.poke a d).backup = s.backup :=
  (State.withoutMem_backup _).symm.trans ((congrArg State.backup (s.poke_withoutMem a d)).trans (State.withoutMem_backup s))
@[simp] theorem State.poke_boot (s : State) (a : Nat) (d : Bytes) : (s.poke a d).boot = s.boot :=
  (State.withoutMem_boot _).symm.trans ((congrArg State.boot (s.poke_withoutMem a d)).trans (State.withoutMem_boot s))
@[simp] theorem State.poke_sec (s : State) (a : Nat) (d : Bytes) : (s.poke a d).sec = s.sec :=
  (State.withoutMem_sec _).symm.trans ((congrArg State.sec (s.poke_withoutMem a d)).trans (State.withoutMem_sec s))
@[simp] theorem State.poke_lanes (s : State) (a : Nat) (d : Bytes) : (s.poke a d).lanes = s.lanes :=
  (State.withoutMem_lanes _).symm.trans ((congrArg State.lanes (s.poke_withoutMem a d)).trans (State.withoutMem_lanes s))
@[simp] theorem State.poke_mc (s : State) (a : Nat) (d : Bytes) : (s.poke a d).mc = s.mc :=
  (State.withoutMem_mc _).symm.trans ((congrArg State.mc (s.poke_withoutMem a d)).trans (State.withoutMem_mc s))
@[simp] theorem State.poke_free (s : State) (a : Nat) (d : Bytes) : (s.poke a d).free = s.free :=
  (State.withoutMem_free _).symm.trans ((congrArg State.free (s.poke_withoutMem a d)).trans (State.withoutMem_free s))
@[simp] theorem State.poke_out (s : State) (a : Nat) (d : Bytes) : (s.poke a d).out = s.out :=
  (State.withoutMem_out _).symm.trans ((congrArg State.out (s.poke_withoutMem a d)).trans (State.withoutMem_out s))
@[simp] theorem State.poke_pending (s : State) (a : Nat) (d : Bytes) : (s.poke a d).pending = s.pending :=
  (State.withoutMem_pending _).symm.trans ((congrArg State.pending (s.poke_withoutMem a d)).trans (State.withoutMem_pending s))

@[simp] theorem State.hostStore_withoutHost (s : State) (n a : Nat) (d : Bytes) :
    (s.hostStore n a d).withoutHost = s.withoutHost := by
  unfold State.hostStore
  split <;> rfl

@[simp] theorem State.hostStore_withoutSend (s : State) (n a : Nat) (d : Bytes) : (s.hostStore n a d).withoutSend = s.withoutSend :=
  (State.withoutHost_withoutSend _).symm.trans
    ((congrArg State.withoutSend (s.hostStore_withoutHost n a d)).trans (State.withoutHost_withoutSend s))
@[simp] theorem State.hostStore_withoutSig (s : State) (n a : Nat) (d : Bytes) : (s.hostStore n a d).withoutSig = s.withoutSig :=
  (State.withoutHost_withoutSig _).symm.trans
    ((congrArg State.withoutSig (s.hostStore_withoutHost n a d)).trans (State.withoutHost_withoutSig s))
@[simp] theorem State.hostStore_withoutDone (s : State) (n a : Nat) (d : Bytes) : (s.hostStore n a d).withoutDone = s.withoutDone :=
  (State.withoutHost_withoutDone _).symm.trans
    ((congrArg State.withoutDone (s.hostStore_withoutHost n a d)).trans (State.withoutHost_withoutDone s))
@[simp] theorem State.hostStore_regs (s : State) (n a : Nat) (d : Bytes) : (s.hostStore n a d).regs = s.regs :=
  (State.withoutHost_regs _).symm.trans ((congrArg State.regs (s.hostStore_withoutHost n a d)).trans (State.withoutHost_regs s))
@[simp] theorem State.hostStore_mem (s : State) (n a : Nat) (d : Bytes) : (s.hostStore n a d).mem = s.mem :=
  (State.withoutHost_mem _).symm.trans ((congrArg State.mem (s.hostStore_withoutHost n a d)).trans (State.withoutHost_mem s))
@[simp] theorem State.hostStore_dev (s : State) (n a : Nat) (d : Bytes) : (s.hostStore n a d).dev = s.dev :=
  (State.withoutHost_dev _).symm.trans ((congrArg State.dev (s.hostStore_withoutHost n a d)).trans (State.withoutHost_dev s))
@[simp] theorem State.hostStore_img (s : State) (n a : Nat) (d : Bytes) : (s.hostStore n a d).img = s.img :=
  (State.withoutHost_img _).symm.trans ((congrArg State.img (s.hostStore_withoutHost n a d)).trans (State.withoutHost_img s))
@[simp] theorem State.hostStore_flash (s : State) (n a : Nat) (d : Bytes) : (s.hostStore n a d).flash = s.flash :=
  (State.withoutHost_flash _).symm.trans ((congrArg State.flash (s.hostStore_withoutHost n a d)).trans (State.withoutHost_flash s))
@[simp] theorem State.hostStore_rec_ (s : State) (n a : Nat) (d : Bytes) : (s.hostStore n a d).rec' = s.rec' :=
  (State.withoutHost_rec_ _).symm.trans ((congrArg State.rec' (s.hostStore_withoutHost n a d)).trans (State.withoutHost_rec_ s))
@[simp] theorem State.hostStore_time (s : State) (n a : Nat) (d : Bytes) : (s.hostStore n a d).time = s.time :=
  (State.withoutHost_time _).symm.trans ((congrArg State.time (s.hostStore_withoutHost n a d)).trans (State.withoutHost_time s))
@[simp] theorem State.hostStore_net (s : State) (n a : Nat) (d : Bytes) : (s.hostStore n a d).net = s.net :=
  (State.withoutHost_net _).symm.trans ((congrArg State.net (s.hostStore_withoutHost n a d)).trans (State.withoutHost_net s))
@[simp] theorem State.hostStore_cam (s : State) (n a : Nat) (d : Bytes) : (s.hostStore n a d).cam = s.cam :=
  (State.withoutHost_cam _).symm.trans ((congrArg State.cam (s.hostStore_withoutHost n a d)).trans (State.withoutHost_cam s))
@[simp] theorem State.hostStore_sched (s : State) (n a : Nat) (d : Bytes) : (s.hostStore n a d).sched = s.sched :=
  (State.withoutHost_sched _).symm.trans ((congrArg State.sched (s.hostStore_withoutHost n a d)).trans (State.withoutHost_sched s))
@[simp] theorem State.hostStore_ledg (s : State) (n a : Nat) (d : Bytes) : (s.hostStore n a d).ledg = s.ledg :=
  (State.withoutHost_ledg _).symm.trans ((congrArg State.ledg (s.hostStore_withoutHost n a d)).trans (State.withoutHost_ledg s))
@[simp] theorem State.hostStore_motion (s : State) (n a : Nat) (d : Bytes) : (s.hostStore n a d).motion = s.motion :=
  (State.withoutHost_motion _).symm.trans ((congrArg State.motion (s.hostStore_withoutHost n a d)).trans (State.withoutHost_motion s))
@[simp] theorem State.hostStore_field (s : State) (n a : Nat) (d : Bytes) : (s.hostStore n a d).field = s.field :=
  (State.withoutHost_field _).symm.trans ((congrArg State.field (s.hostStore_withoutHost n a d)).trans (State.withoutHost_field s))
@[simp] theorem State.hostStore_cap (s : State) (n a : Nat) (d : Bytes) : (s.hostStore n a d).cap = s.cap :=
  (State.withoutHost_cap _).symm.trans ((congrArg State.cap (s.hostStore_withoutHost n a d)).trans (State.withoutHost_cap s))
@[simp] theorem State.hostStore_train (s : State) (n a : Nat) (d : Bytes) : (s.hostStore n a d).train = s.train :=
  (State.withoutHost_train _).symm.trans ((congrArg State.train (s.hostStore_withoutHost n a d)).trans (State.withoutHost_train s))
@[simp] theorem State.hostStore_backup (s : State) (n a : Nat) (d : Bytes) : (s.hostStore n a d).backup = s.backup :=
  (State.withoutHost_backup _).symm.trans ((congrArg State.backup (s.hostStore_withoutHost n a d)).trans (State.withoutHost_backup s))
@[simp] theorem State.hostStore_boot (s : State) (n a : Nat) (d : Bytes) : (s.hostStore n a d).boot = s.boot :=
  (State.withoutHost_boot _).symm.trans ((congrArg State.boot (s.hostStore_withoutHost n a d)).trans (State.withoutHost_boot s))
@[simp] theorem State.hostStore_sec (s : State) (n a : Nat) (d : Bytes) : (s.hostStore n a d).sec = s.sec :=
  (State.withoutHost_sec _).symm.trans ((congrArg State.sec (s.hostStore_withoutHost n a d)).trans (State.withoutHost_sec s))
@[simp] theorem State.hostStore_lanes (s : State) (n a : Nat) (d : Bytes) : (s.hostStore n a d).lanes = s.lanes :=
  (State.withoutHost_lanes _).symm.trans ((congrArg State.lanes (s.hostStore_withoutHost n a d)).trans (State.withoutHost_lanes s))
@[simp] theorem State.hostStore_mc (s : State) (n a : Nat) (d : Bytes) : (s.hostStore n a d).mc = s.mc :=
  (State.withoutHost_mc _).symm.trans ((congrArg State.mc (s.hostStore_withoutHost n a d)).trans (State.withoutHost_mc s))
@[simp] theorem State.hostStore_free (s : State) (n a : Nat) (d : Bytes) : (s.hostStore n a d).free = s.free :=
  (State.withoutHost_free _).symm.trans ((congrArg State.free (s.hostStore_withoutHost n a d)).trans (State.withoutHost_free s))
@[simp] theorem State.hostStore_out (s : State) (n a : Nat) (d : Bytes) : (s.hostStore n a d).out = s.out :=
  (State.withoutHost_out _).symm.trans ((congrArg State.out (s.hostStore_withoutHost n a d)).trans (State.withoutHost_out s))
@[simp] theorem State.hostStore_pending (s : State) (n a : Nat) (d : Bytes) : (s.hostStore n a d).pending = s.pending :=
  (State.withoutHost_pending _).symm.trans ((congrArg State.pending (s.hostStore_withoutHost n a d)).trans (State.withoutHost_pending s))

@[simp] theorem State.enqueueRec_withoutLog (s : State) (e : EvRec) :
    (s.enqueueRec e).withoutLog = s.withoutLog := by
  unfold State.enqueueRec
  split
  · rfl
  · dsimp only
    split
    · simp [State.withoutLog]
    · simp

@[simp] theorem State.enqueueRec_withoutStore (s : State) (e : EvRec) : (s.enqueueRec e).withoutStore = s.withoutStore :=
  (State.withoutLog_withoutStore _).symm.trans
    ((congrArg State.withoutStore (s.enqueueRec_withoutLog e)).trans (State.withoutLog_withoutStore s))
@[simp] theorem State.enqueueRec_withoutDone (s : State) (e : EvRec) : (s.enqueueRec e).withoutDone = s.withoutDone :=
  (State.withoutLog_withoutDone _).symm.trans
    ((congrArg State.withoutDone (s.enqueueRec_withoutLog e)).trans (State.withoutLog_withoutDone s))
@[simp] theorem State.enqueueRec_mem (s : State) (e : EvRec) : (s.enqueueRec e).mem = s.mem :=
  (State.withoutLog_mem _).symm.trans ((congrArg State.mem (s.enqueueRec_withoutLog e)).trans (State.withoutLog_mem s))
@[simp] theorem State.enqueueRec_dev (s : State) (e : EvRec) : (s.enqueueRec e).dev = s.dev :=
  (State.withoutLog_dev _).symm.trans ((congrArg State.dev (s.enqueueRec_withoutLog e)).trans (State.withoutLog_dev s))
@[simp] theorem State.enqueueRec_img (s : State) (e : EvRec) : (s.enqueueRec e).img = s.img :=
  (State.withoutLog_img _).symm.trans ((congrArg State.img (s.enqueueRec_withoutLog e)).trans (State.withoutLog_img s))
@[simp] theorem State.enqueueRec_flash (s : State) (e : EvRec) : (s.enqueueRec e).flash = s.flash :=
  (State.withoutLog_flash _).symm.trans ((congrArg State.flash (s.enqueueRec_withoutLog e)).trans (State.withoutLog_flash s))
@[simp] theorem State.enqueueRec_host (s : State) (e : EvRec) : (s.enqueueRec e).host = s.host :=
  (State.withoutLog_host _).symm.trans ((congrArg State.host (s.enqueueRec_withoutLog e)).trans (State.withoutLog_host s))
@[simp] theorem State.enqueueRec_time (s : State) (e : EvRec) : (s.enqueueRec e).time = s.time :=
  (State.withoutLog_time _).symm.trans ((congrArg State.time (s.enqueueRec_withoutLog e)).trans (State.withoutLog_time s))
@[simp] theorem State.enqueueRec_net (s : State) (e : EvRec) : (s.enqueueRec e).net = s.net :=
  (State.withoutLog_net _).symm.trans ((congrArg State.net (s.enqueueRec_withoutLog e)).trans (State.withoutLog_net s))
@[simp] theorem State.enqueueRec_cam (s : State) (e : EvRec) : (s.enqueueRec e).cam = s.cam :=
  (State.withoutLog_cam _).symm.trans ((congrArg State.cam (s.enqueueRec_withoutLog e)).trans (State.withoutLog_cam s))
@[simp] theorem State.enqueueRec_sched (s : State) (e : EvRec) : (s.enqueueRec e).sched = s.sched :=
  (State.withoutLog_sched _).symm.trans ((congrArg State.sched (s.enqueueRec_withoutLog e)).trans (State.withoutLog_sched s))
@[simp] theorem State.enqueueRec_ledg (s : State) (e : EvRec) : (s.enqueueRec e).ledg = s.ledg :=
  (State.withoutLog_ledg _).symm.trans ((congrArg State.ledg (s.enqueueRec_withoutLog e)).trans (State.withoutLog_ledg s))
@[simp] theorem State.enqueueRec_motion (s : State) (e : EvRec) : (s.enqueueRec e).motion = s.motion :=
  (State.withoutLog_motion _).symm.trans ((congrArg State.motion (s.enqueueRec_withoutLog e)).trans (State.withoutLog_motion s))
@[simp] theorem State.enqueueRec_field (s : State) (e : EvRec) : (s.enqueueRec e).field = s.field :=
  (State.withoutLog_field _).symm.trans ((congrArg State.field (s.enqueueRec_withoutLog e)).trans (State.withoutLog_field s))
@[simp] theorem State.enqueueRec_cap (s : State) (e : EvRec) : (s.enqueueRec e).cap = s.cap :=
  (State.withoutLog_cap _).symm.trans ((congrArg State.cap (s.enqueueRec_withoutLog e)).trans (State.withoutLog_cap s))
@[simp] theorem State.enqueueRec_train (s : State) (e : EvRec) : (s.enqueueRec e).train = s.train :=
  (State.withoutLog_train _).symm.trans ((congrArg State.train (s.enqueueRec_withoutLog e)).trans (State.withoutLog_train s))
@[simp] theorem State.enqueueRec_backup (s : State) (e : EvRec) : (s.enqueueRec e).backup = s.backup :=
  (State.withoutLog_backup _).symm.trans ((congrArg State.backup (s.enqueueRec_withoutLog e)).trans (State.withoutLog_backup s))
@[simp] theorem State.enqueueRec_boot (s : State) (e : EvRec) : (s.enqueueRec e).boot = s.boot :=
  (State.withoutLog_boot _).symm.trans ((congrArg State.boot (s.enqueueRec_withoutLog e)).trans (State.withoutLog_boot s))
@[simp] theorem State.enqueueRec_sec (s : State) (e : EvRec) : (s.enqueueRec e).sec = s.sec :=
  (State.withoutLog_sec _).symm.trans ((congrArg State.sec (s.enqueueRec_withoutLog e)).trans (State.withoutLog_sec s))
@[simp] theorem State.enqueueRec_lanes (s : State) (e : EvRec) : (s.enqueueRec e).lanes = s.lanes :=
  (State.withoutLog_lanes _).symm.trans ((congrArg State.lanes (s.enqueueRec_withoutLog e)).trans (State.withoutLog_lanes s))
@[simp] theorem State.enqueueRec_mc (s : State) (e : EvRec) : (s.enqueueRec e).mc = s.mc :=
  (State.withoutLog_mc _).symm.trans ((congrArg State.mc (s.enqueueRec_withoutLog e)).trans (State.withoutLog_mc s))
@[simp] theorem State.enqueueRec_free (s : State) (e : EvRec) : (s.enqueueRec e).free = s.free :=
  (State.withoutLog_free _).symm.trans ((congrArg State.free (s.enqueueRec_withoutLog e)).trans (State.withoutLog_free s))
@[simp] theorem State.enqueueRec_out (s : State) (e : EvRec) : (s.enqueueRec e).out = s.out :=
  (State.withoutLog_out _).symm.trans ((congrArg State.out (s.enqueueRec_withoutLog e)).trans (State.withoutLog_out s))
@[simp] theorem State.enqueueRec_pending (s : State) (e : EvRec) : (s.enqueueRec e).pending = s.pending :=
  (State.withoutLog_pending _).symm.trans ((congrArg State.pending (s.enqueueRec_withoutLog e)).trans (State.withoutLog_pending s))

@[simp] theorem State.log_withoutLog (s : State) (e : EvRec) :
    (s.log e).withoutLog = s.withoutLog := by simp [State.log]

@[simp] theorem State.log_withoutStore (s : State) (e : EvRec) : (s.log e).withoutStore = s.withoutStore :=
  (State.withoutLog_withoutStore _).symm.trans
    ((congrArg State.withoutStore (s.log_withoutLog e)).trans (State.withoutLog_withoutStore s))
@[simp] theorem State.log_withoutDone (s : State) (e : EvRec) : (s.log e).withoutDone = s.withoutDone :=
  (State.withoutLog_withoutDone _).symm.trans
    ((congrArg State.withoutDone (s.log_withoutLog e)).trans (State.withoutLog_withoutDone s))
@[simp] theorem State.log_mem (s : State) (e : EvRec) : (s.log e).mem = s.mem :=
  (State.withoutLog_mem _).symm.trans ((congrArg State.mem (s.log_withoutLog e)).trans (State.withoutLog_mem s))
@[simp] theorem State.log_dev (s : State) (e : EvRec) : (s.log e).dev = s.dev :=
  (State.withoutLog_dev _).symm.trans ((congrArg State.dev (s.log_withoutLog e)).trans (State.withoutLog_dev s))
@[simp] theorem State.log_img (s : State) (e : EvRec) : (s.log e).img = s.img :=
  (State.withoutLog_img _).symm.trans ((congrArg State.img (s.log_withoutLog e)).trans (State.withoutLog_img s))
@[simp] theorem State.log_flash (s : State) (e : EvRec) : (s.log e).flash = s.flash :=
  (State.withoutLog_flash _).symm.trans ((congrArg State.flash (s.log_withoutLog e)).trans (State.withoutLog_flash s))
@[simp] theorem State.log_host (s : State) (e : EvRec) : (s.log e).host = s.host :=
  (State.withoutLog_host _).symm.trans ((congrArg State.host (s.log_withoutLog e)).trans (State.withoutLog_host s))
@[simp] theorem State.log_time (s : State) (e : EvRec) : (s.log e).time = s.time :=
  (State.withoutLog_time _).symm.trans ((congrArg State.time (s.log_withoutLog e)).trans (State.withoutLog_time s))
@[simp] theorem State.log_net (s : State) (e : EvRec) : (s.log e).net = s.net :=
  (State.withoutLog_net _).symm.trans ((congrArg State.net (s.log_withoutLog e)).trans (State.withoutLog_net s))
@[simp] theorem State.log_cam (s : State) (e : EvRec) : (s.log e).cam = s.cam :=
  (State.withoutLog_cam _).symm.trans ((congrArg State.cam (s.log_withoutLog e)).trans (State.withoutLog_cam s))
@[simp] theorem State.log_sched (s : State) (e : EvRec) : (s.log e).sched = s.sched :=
  (State.withoutLog_sched _).symm.trans ((congrArg State.sched (s.log_withoutLog e)).trans (State.withoutLog_sched s))
@[simp] theorem State.log_ledg (s : State) (e : EvRec) : (s.log e).ledg = s.ledg :=
  (State.withoutLog_ledg _).symm.trans ((congrArg State.ledg (s.log_withoutLog e)).trans (State.withoutLog_ledg s))
@[simp] theorem State.log_motion (s : State) (e : EvRec) : (s.log e).motion = s.motion :=
  (State.withoutLog_motion _).symm.trans ((congrArg State.motion (s.log_withoutLog e)).trans (State.withoutLog_motion s))
@[simp] theorem State.log_field (s : State) (e : EvRec) : (s.log e).field = s.field :=
  (State.withoutLog_field _).symm.trans ((congrArg State.field (s.log_withoutLog e)).trans (State.withoutLog_field s))
@[simp] theorem State.log_cap (s : State) (e : EvRec) : (s.log e).cap = s.cap :=
  (State.withoutLog_cap _).symm.trans ((congrArg State.cap (s.log_withoutLog e)).trans (State.withoutLog_cap s))
@[simp] theorem State.log_train (s : State) (e : EvRec) : (s.log e).train = s.train :=
  (State.withoutLog_train _).symm.trans ((congrArg State.train (s.log_withoutLog e)).trans (State.withoutLog_train s))
@[simp] theorem State.log_backup (s : State) (e : EvRec) : (s.log e).backup = s.backup :=
  (State.withoutLog_backup _).symm.trans ((congrArg State.backup (s.log_withoutLog e)).trans (State.withoutLog_backup s))
@[simp] theorem State.log_boot (s : State) (e : EvRec) : (s.log e).boot = s.boot :=
  (State.withoutLog_boot _).symm.trans ((congrArg State.boot (s.log_withoutLog e)).trans (State.withoutLog_boot s))
@[simp] theorem State.log_sec (s : State) (e : EvRec) : (s.log e).sec = s.sec :=
  (State.withoutLog_sec _).symm.trans ((congrArg State.sec (s.log_withoutLog e)).trans (State.withoutLog_sec s))
@[simp] theorem State.log_lanes (s : State) (e : EvRec) : (s.log e).lanes = s.lanes :=
  (State.withoutLog_lanes _).symm.trans ((congrArg State.lanes (s.log_withoutLog e)).trans (State.withoutLog_lanes s))
@[simp] theorem State.log_mc (s : State) (e : EvRec) : (s.log e).mc = s.mc :=
  (State.withoutLog_mc _).symm.trans ((congrArg State.mc (s.log_withoutLog e)).trans (State.withoutLog_mc s))
@[simp] theorem State.log_free (s : State) (e : EvRec) : (s.log e).free = s.free :=
  (State.withoutLog_free _).symm.trans ((congrArg State.free (s.log_withoutLog e)).trans (State.withoutLog_free s))
@[simp] theorem State.log_out (s : State) (e : EvRec) : (s.log e).out = s.out :=
  (State.withoutLog_out _).symm.trans ((congrArg State.out (s.log_withoutLog e)).trans (State.withoutLog_out s))
@[simp] theorem State.log_pending (s : State) (e : EvRec) : (s.log e).pending = s.pending :=
  (State.withoutLog_pending _).symm.trans ((congrArg State.pending (s.log_withoutLog e)).trans (State.withoutLog_pending s))

@[simp] theorem State.flagLog_withoutLog (s : State) (r : RN) (ix : List Nat) (b : Nat) (e : EvRec) :
    (s.flagLog r ix b e).withoutLog = s.withoutLog := by simp [State.flagLog]

@[simp] theorem State.flagLog_withoutStore (s : State) (r : RN) (ix : List Nat) (b : Nat) (e : EvRec) : (s.flagLog r ix b e).withoutStore = s.withoutStore :=
  (State.withoutLog_withoutStore _).symm.trans
    ((congrArg State.withoutStore (s.flagLog_withoutLog r ix b e)).trans (State.withoutLog_withoutStore s))
@[simp] theorem State.flagLog_withoutDone (s : State) (r : RN) (ix : List Nat) (b : Nat) (e : EvRec) : (s.flagLog r ix b e).withoutDone = s.withoutDone :=
  (State.withoutLog_withoutDone _).symm.trans
    ((congrArg State.withoutDone (s.flagLog_withoutLog r ix b e)).trans (State.withoutLog_withoutDone s))
@[simp] theorem State.flagLog_mem (s : State) (r : RN) (ix : List Nat) (b : Nat) (e : EvRec) : (s.flagLog r ix b e).mem = s.mem :=
  (State.withoutLog_mem _).symm.trans ((congrArg State.mem (s.flagLog_withoutLog r ix b e)).trans (State.withoutLog_mem s))
@[simp] theorem State.flagLog_dev (s : State) (r : RN) (ix : List Nat) (b : Nat) (e : EvRec) : (s.flagLog r ix b e).dev = s.dev :=
  (State.withoutLog_dev _).symm.trans ((congrArg State.dev (s.flagLog_withoutLog r ix b e)).trans (State.withoutLog_dev s))
@[simp] theorem State.flagLog_img (s : State) (r : RN) (ix : List Nat) (b : Nat) (e : EvRec) : (s.flagLog r ix b e).img = s.img :=
  (State.withoutLog_img _).symm.trans ((congrArg State.img (s.flagLog_withoutLog r ix b e)).trans (State.withoutLog_img s))
@[simp] theorem State.flagLog_flash (s : State) (r : RN) (ix : List Nat) (b : Nat) (e : EvRec) : (s.flagLog r ix b e).flash = s.flash :=
  (State.withoutLog_flash _).symm.trans ((congrArg State.flash (s.flagLog_withoutLog r ix b e)).trans (State.withoutLog_flash s))
@[simp] theorem State.flagLog_host (s : State) (r : RN) (ix : List Nat) (b : Nat) (e : EvRec) : (s.flagLog r ix b e).host = s.host :=
  (State.withoutLog_host _).symm.trans ((congrArg State.host (s.flagLog_withoutLog r ix b e)).trans (State.withoutLog_host s))
@[simp] theorem State.flagLog_time (s : State) (r : RN) (ix : List Nat) (b : Nat) (e : EvRec) : (s.flagLog r ix b e).time = s.time :=
  (State.withoutLog_time _).symm.trans ((congrArg State.time (s.flagLog_withoutLog r ix b e)).trans (State.withoutLog_time s))
@[simp] theorem State.flagLog_net (s : State) (r : RN) (ix : List Nat) (b : Nat) (e : EvRec) : (s.flagLog r ix b e).net = s.net :=
  (State.withoutLog_net _).symm.trans ((congrArg State.net (s.flagLog_withoutLog r ix b e)).trans (State.withoutLog_net s))
@[simp] theorem State.flagLog_cam (s : State) (r : RN) (ix : List Nat) (b : Nat) (e : EvRec) : (s.flagLog r ix b e).cam = s.cam :=
  (State.withoutLog_cam _).symm.trans ((congrArg State.cam (s.flagLog_withoutLog r ix b e)).trans (State.withoutLog_cam s))
@[simp] theorem State.flagLog_sched (s : State) (r : RN) (ix : List Nat) (b : Nat) (e : EvRec) : (s.flagLog r ix b e).sched = s.sched :=
  (State.withoutLog_sched _).symm.trans ((congrArg State.sched (s.flagLog_withoutLog r ix b e)).trans (State.withoutLog_sched s))
@[simp] theorem State.flagLog_ledg (s : State) (r : RN) (ix : List Nat) (b : Nat) (e : EvRec) : (s.flagLog r ix b e).ledg = s.ledg :=
  (State.withoutLog_ledg _).symm.trans ((congrArg State.ledg (s.flagLog_withoutLog r ix b e)).trans (State.withoutLog_ledg s))
@[simp] theorem State.flagLog_motion (s : State) (r : RN) (ix : List Nat) (b : Nat) (e : EvRec) : (s.flagLog r ix b e).motion = s.motion :=
  (State.withoutLog_motion _).symm.trans ((congrArg State.motion (s.flagLog_withoutLog r ix b e)).trans (State.withoutLog_motion s))
@[simp] theorem State.flagLog_field (s : State) (r : RN) (ix : List Nat) (b : Nat) (e : EvRec) : (s.flagLog r ix b e).field = s.field :=
  (State.withoutLog_field _).symm.trans ((congrArg State.field (s.flagLog_withoutLog r ix b e)).trans (State.withoutLog_field s))
@[simp] theorem State.flagLog_cap (s : State) (r : RN) (ix : List Nat) (b : Nat) (e : EvRec) : (s.flagLog r ix b e).cap = s.cap :=
  (State.withoutLog_cap _).symm.trans ((congrArg State.cap (s.flagLog_withoutLog r ix b e)).trans (State.withoutLog_cap s))
@[simp] theorem State.flagLog_train (s : State) (r : RN) (ix : List Nat) (b : Nat) (e : EvRec) : (s.flagLog r ix b e).train = s.train :=
  (State.withoutLog_train _).symm.trans ((congrArg State.train (s.flagLog_withoutLog r ix b e)).trans (State.withoutLog_train s))
@[simp] theorem State.flagLog_backup (s : State) (r : RN) (ix : List Nat) (b : Nat) (e : EvRec) : (s.flagLog r ix b e).backup = s.backup :=
  (State.withoutLog_backup _).symm.trans ((congrArg State.backup (s.flagLog_withoutLog r ix b e)).trans (State.withoutLog_backup s))
@[simp] theorem State.flagLog_boot (s : State) (r : RN) (ix : List Nat) (b : Nat) (e : EvRec) : (s.flagLog r ix b e).boot = s.boot :=
  (State.withoutLog_boot _).symm.trans ((congrArg State.boot (s.flagLog_withoutLog r ix b e)).trans (State.withoutLog_boot s))
@[simp] theorem State.flagLog_sec (s : State) (r : RN) (ix : List Nat) (b : Nat) (e : EvRec) : (s.flagLog r ix b e).sec = s.sec :=
  (State.withoutLog_sec _).symm.trans ((congrArg State.sec (s.flagLog_withoutLog r ix b e)).trans (State.withoutLog_sec s))
@[simp] theorem State.flagLog_lanes (s : State) (r : RN) (ix : List Nat) (b : Nat) (e : EvRec) : (s.flagLog r ix b e).lanes = s.lanes :=
  (State.withoutLog_lanes _).symm.trans ((congrArg State.lanes (s.flagLog_withoutLog r ix b e)).trans (State.withoutLog_lanes s))
@[simp] theorem State.flagLog_mc (s : State) (r : RN) (ix : List Nat) (b : Nat) (e : EvRec) : (s.flagLog r ix b e).mc = s.mc :=
  (State.withoutLog_mc _).symm.trans ((congrArg State.mc (s.flagLog_withoutLog r ix b e)).trans (State.withoutLog_mc s))
@[simp] theorem State.flagLog_free (s : State) (r : RN) (ix : List Nat) (b : Nat) (e : EvRec) : (s.flagLog r ix b e).free = s.free :=
  (State.withoutLog_free _).symm.trans ((congrArg State.free (s.flagLog_withoutLog r ix b e)).trans (State.withoutLog_free s))
@[simp] theorem State.flagLog_out (s : State) (r : RN) (ix : List Nat) (b : Nat) (e : EvRec) : (s.flagLog r ix b e).out = s.out :=
  (State.withoutLog_out _).symm.trans ((congrArg State.out (s.flagLog_withoutLog r ix b e)).trans (State.withoutLog_out s))
@[simp] theorem State.flagLog_pending (s : State) (r : RN) (ix : List Nat) (b : Nat) (e : EvRec) : (s.flagLog r ix b e).pending = s.pending :=
  (State.withoutLog_pending _).symm.trans ((congrArg State.pending (s.flagLog_withoutLog r ix b e)).trans (State.withoutLog_pending s))

@[simp] theorem State.noteUe_withoutLog (s : State) (g : Nat) (b : Bool) (i : Nat) :
    (s.noteUe g b i).withoutLog = s.withoutLog := by simp [State.noteUe]

@[simp] theorem State.noteUe_withoutStore (s : State) (g : Nat) (b : Bool) (i : Nat) : (s.noteUe g b i).withoutStore = s.withoutStore :=
  (State.withoutLog_withoutStore _).symm.trans
    ((congrArg State.withoutStore (s.noteUe_withoutLog g b i)).trans (State.withoutLog_withoutStore s))
@[simp] theorem State.noteUe_withoutDone (s : State) (g : Nat) (b : Bool) (i : Nat) : (s.noteUe g b i).withoutDone = s.withoutDone :=
  (State.withoutLog_withoutDone _).symm.trans
    ((congrArg State.withoutDone (s.noteUe_withoutLog g b i)).trans (State.withoutLog_withoutDone s))
@[simp] theorem State.noteUe_mem (s : State) (g : Nat) (b : Bool) (i : Nat) : (s.noteUe g b i).mem = s.mem :=
  (State.withoutLog_mem _).symm.trans ((congrArg State.mem (s.noteUe_withoutLog g b i)).trans (State.withoutLog_mem s))
@[simp] theorem State.noteUe_dev (s : State) (g : Nat) (b : Bool) (i : Nat) : (s.noteUe g b i).dev = s.dev :=
  (State.withoutLog_dev _).symm.trans ((congrArg State.dev (s.noteUe_withoutLog g b i)).trans (State.withoutLog_dev s))
@[simp] theorem State.noteUe_img (s : State) (g : Nat) (b : Bool) (i : Nat) : (s.noteUe g b i).img = s.img :=
  (State.withoutLog_img _).symm.trans ((congrArg State.img (s.noteUe_withoutLog g b i)).trans (State.withoutLog_img s))
@[simp] theorem State.noteUe_flash (s : State) (g : Nat) (b : Bool) (i : Nat) : (s.noteUe g b i).flash = s.flash :=
  (State.withoutLog_flash _).symm.trans ((congrArg State.flash (s.noteUe_withoutLog g b i)).trans (State.withoutLog_flash s))
@[simp] theorem State.noteUe_host (s : State) (g : Nat) (b : Bool) (i : Nat) : (s.noteUe g b i).host = s.host :=
  (State.withoutLog_host _).symm.trans ((congrArg State.host (s.noteUe_withoutLog g b i)).trans (State.withoutLog_host s))
@[simp] theorem State.noteUe_time (s : State) (g : Nat) (b : Bool) (i : Nat) : (s.noteUe g b i).time = s.time :=
  (State.withoutLog_time _).symm.trans ((congrArg State.time (s.noteUe_withoutLog g b i)).trans (State.withoutLog_time s))
@[simp] theorem State.noteUe_net (s : State) (g : Nat) (b : Bool) (i : Nat) : (s.noteUe g b i).net = s.net :=
  (State.withoutLog_net _).symm.trans ((congrArg State.net (s.noteUe_withoutLog g b i)).trans (State.withoutLog_net s))
@[simp] theorem State.noteUe_cam (s : State) (g : Nat) (b : Bool) (i : Nat) : (s.noteUe g b i).cam = s.cam :=
  (State.withoutLog_cam _).symm.trans ((congrArg State.cam (s.noteUe_withoutLog g b i)).trans (State.withoutLog_cam s))
@[simp] theorem State.noteUe_sched (s : State) (g : Nat) (b : Bool) (i : Nat) : (s.noteUe g b i).sched = s.sched :=
  (State.withoutLog_sched _).symm.trans ((congrArg State.sched (s.noteUe_withoutLog g b i)).trans (State.withoutLog_sched s))
@[simp] theorem State.noteUe_ledg (s : State) (g : Nat) (b : Bool) (i : Nat) : (s.noteUe g b i).ledg = s.ledg :=
  (State.withoutLog_ledg _).symm.trans ((congrArg State.ledg (s.noteUe_withoutLog g b i)).trans (State.withoutLog_ledg s))
@[simp] theorem State.noteUe_motion (s : State) (g : Nat) (b : Bool) (i : Nat) : (s.noteUe g b i).motion = s.motion :=
  (State.withoutLog_motion _).symm.trans ((congrArg State.motion (s.noteUe_withoutLog g b i)).trans (State.withoutLog_motion s))
@[simp] theorem State.noteUe_field (s : State) (g : Nat) (b : Bool) (i : Nat) : (s.noteUe g b i).field = s.field :=
  (State.withoutLog_field _).symm.trans ((congrArg State.field (s.noteUe_withoutLog g b i)).trans (State.withoutLog_field s))
@[simp] theorem State.noteUe_cap (s : State) (g : Nat) (b : Bool) (i : Nat) : (s.noteUe g b i).cap = s.cap :=
  (State.withoutLog_cap _).symm.trans ((congrArg State.cap (s.noteUe_withoutLog g b i)).trans (State.withoutLog_cap s))
@[simp] theorem State.noteUe_train (s : State) (g : Nat) (b : Bool) (i : Nat) : (s.noteUe g b i).train = s.train :=
  (State.withoutLog_train _).symm.trans ((congrArg State.train (s.noteUe_withoutLog g b i)).trans (State.withoutLog_train s))
@[simp] theorem State.noteUe_backup (s : State) (g : Nat) (b : Bool) (i : Nat) : (s.noteUe g b i).backup = s.backup :=
  (State.withoutLog_backup _).symm.trans ((congrArg State.backup (s.noteUe_withoutLog g b i)).trans (State.withoutLog_backup s))
@[simp] theorem State.noteUe_boot (s : State) (g : Nat) (b : Bool) (i : Nat) : (s.noteUe g b i).boot = s.boot :=
  (State.withoutLog_boot _).symm.trans ((congrArg State.boot (s.noteUe_withoutLog g b i)).trans (State.withoutLog_boot s))
@[simp] theorem State.noteUe_sec (s : State) (g : Nat) (b : Bool) (i : Nat) : (s.noteUe g b i).sec = s.sec :=
  (State.withoutLog_sec _).symm.trans ((congrArg State.sec (s.noteUe_withoutLog g b i)).trans (State.withoutLog_sec s))
@[simp] theorem State.noteUe_lanes (s : State) (g : Nat) (b : Bool) (i : Nat) : (s.noteUe g b i).lanes = s.lanes :=
  (State.withoutLog_lanes _).symm.trans ((congrArg State.lanes (s.noteUe_withoutLog g b i)).trans (State.withoutLog_lanes s))
@[simp] theorem State.noteUe_mc (s : State) (g : Nat) (b : Bool) (i : Nat) : (s.noteUe g b i).mc = s.mc :=
  (State.withoutLog_mc _).symm.trans ((congrArg State.mc (s.noteUe_withoutLog g b i)).trans (State.withoutLog_mc s))
@[simp] theorem State.noteUe_free (s : State) (g : Nat) (b : Bool) (i : Nat) : (s.noteUe g b i).free = s.free :=
  (State.withoutLog_free _).symm.trans ((congrArg State.free (s.noteUe_withoutLog g b i)).trans (State.withoutLog_free s))
@[simp] theorem State.noteUe_out (s : State) (g : Nat) (b : Bool) (i : Nat) : (s.noteUe g b i).out = s.out :=
  (State.withoutLog_out _).symm.trans ((congrArg State.out (s.noteUe_withoutLog g b i)).trans (State.withoutLog_out s))
@[simp] theorem State.noteUe_pending (s : State) (g : Nat) (b : Bool) (i : Nat) : (s.noteUe g b i).pending = s.pending :=
  (State.withoutLog_pending _).symm.trans ((congrArg State.pending (s.noteUe_withoutLog g b i)).trans (State.withoutLog_pending s))

@[simp] theorem State.reportUe_withoutStore (s : State) (g i : Nat) :
    (s.reportUe g i).withoutStore = s.withoutStore := by
  unfold State.reportUe
  dsimp only
  split <;> simp [State.withoutStore]

@[simp] theorem State.reportUe_withoutDone (s : State) (g i : Nat) : (s.reportUe g i).withoutDone = s.withoutDone :=
  (State.withoutStore_withoutDone _).symm.trans
    ((congrArg State.withoutDone (s.reportUe_withoutStore g i)).trans (State.withoutStore_withoutDone s))
@[simp] theorem State.reportUe_dev (s : State) (g i : Nat) : (s.reportUe g i).dev = s.dev :=
  (State.withoutStore_dev _).symm.trans ((congrArg State.dev (s.reportUe_withoutStore g i)).trans (State.withoutStore_dev s))
@[simp] theorem State.reportUe_img (s : State) (g i : Nat) : (s.reportUe g i).img = s.img :=
  (State.withoutStore_img _).symm.trans ((congrArg State.img (s.reportUe_withoutStore g i)).trans (State.withoutStore_img s))
@[simp] theorem State.reportUe_flash (s : State) (g i : Nat) : (s.reportUe g i).flash = s.flash :=
  (State.withoutStore_flash _).symm.trans ((congrArg State.flash (s.reportUe_withoutStore g i)).trans (State.withoutStore_flash s))
@[simp] theorem State.reportUe_host (s : State) (g i : Nat) : (s.reportUe g i).host = s.host :=
  (State.withoutStore_host _).symm.trans ((congrArg State.host (s.reportUe_withoutStore g i)).trans (State.withoutStore_host s))
@[simp] theorem State.reportUe_time (s : State) (g i : Nat) : (s.reportUe g i).time = s.time :=
  (State.withoutStore_time _).symm.trans ((congrArg State.time (s.reportUe_withoutStore g i)).trans (State.withoutStore_time s))
@[simp] theorem State.reportUe_net (s : State) (g i : Nat) : (s.reportUe g i).net = s.net :=
  (State.withoutStore_net _).symm.trans ((congrArg State.net (s.reportUe_withoutStore g i)).trans (State.withoutStore_net s))
@[simp] theorem State.reportUe_cam (s : State) (g i : Nat) : (s.reportUe g i).cam = s.cam :=
  (State.withoutStore_cam _).symm.trans ((congrArg State.cam (s.reportUe_withoutStore g i)).trans (State.withoutStore_cam s))
@[simp] theorem State.reportUe_sched (s : State) (g i : Nat) : (s.reportUe g i).sched = s.sched :=
  (State.withoutStore_sched _).symm.trans ((congrArg State.sched (s.reportUe_withoutStore g i)).trans (State.withoutStore_sched s))
@[simp] theorem State.reportUe_ledg (s : State) (g i : Nat) : (s.reportUe g i).ledg = s.ledg :=
  (State.withoutStore_ledg _).symm.trans ((congrArg State.ledg (s.reportUe_withoutStore g i)).trans (State.withoutStore_ledg s))
@[simp] theorem State.reportUe_motion (s : State) (g i : Nat) : (s.reportUe g i).motion = s.motion :=
  (State.withoutStore_motion _).symm.trans ((congrArg State.motion (s.reportUe_withoutStore g i)).trans (State.withoutStore_motion s))
@[simp] theorem State.reportUe_field (s : State) (g i : Nat) : (s.reportUe g i).field = s.field :=
  (State.withoutStore_field _).symm.trans ((congrArg State.field (s.reportUe_withoutStore g i)).trans (State.withoutStore_field s))
@[simp] theorem State.reportUe_cap (s : State) (g i : Nat) : (s.reportUe g i).cap = s.cap :=
  (State.withoutStore_cap _).symm.trans ((congrArg State.cap (s.reportUe_withoutStore g i)).trans (State.withoutStore_cap s))
@[simp] theorem State.reportUe_train (s : State) (g i : Nat) : (s.reportUe g i).train = s.train :=
  (State.withoutStore_train _).symm.trans ((congrArg State.train (s.reportUe_withoutStore g i)).trans (State.withoutStore_train s))
@[simp] theorem State.reportUe_backup (s : State) (g i : Nat) : (s.reportUe g i).backup = s.backup :=
  (State.withoutStore_backup _).symm.trans ((congrArg State.backup (s.reportUe_withoutStore g i)).trans (State.withoutStore_backup s))
@[simp] theorem State.reportUe_boot (s : State) (g i : Nat) : (s.reportUe g i).boot = s.boot :=
  (State.withoutStore_boot _).symm.trans ((congrArg State.boot (s.reportUe_withoutStore g i)).trans (State.withoutStore_boot s))
@[simp] theorem State.reportUe_sec (s : State) (g i : Nat) : (s.reportUe g i).sec = s.sec :=
  (State.withoutStore_sec _).symm.trans ((congrArg State.sec (s.reportUe_withoutStore g i)).trans (State.withoutStore_sec s))
@[simp] theorem State.reportUe_lanes (s : State) (g i : Nat) : (s.reportUe g i).lanes = s.lanes :=
  (State.withoutStore_lanes _).symm.trans ((congrArg State.lanes (s.reportUe_withoutStore g i)).trans (State.withoutStore_lanes s))
@[simp] theorem State.reportUe_free (s : State) (g i : Nat) : (s.reportUe g i).free = s.free :=
  (State.withoutStore_free _).symm.trans ((congrArg State.free (s.reportUe_withoutStore g i)).trans (State.withoutStore_free s))
@[simp] theorem State.reportUe_out (s : State) (g i : Nat) : (s.reportUe g i).out = s.out :=
  (State.withoutStore_out _).symm.trans ((congrArg State.out (s.reportUe_withoutStore g i)).trans (State.withoutStore_out s))
@[simp] theorem State.reportUe_pending (s : State) (g i : Nat) : (s.reportUe g i).pending = s.pending :=
  (State.withoutStore_pending _).symm.trans ((congrArg State.pending (s.reportUe_withoutStore g i)).trans (State.withoutStore_pending s))

@[simp] theorem State.storeGranules_withoutStore (s : State) (a : Nat) (d : Bytes) (gs : List Nat) :
    (s.storeGranules a d gs).withoutStore = s.withoutStore := by
  induction gs generalizing s with
  | nil => rfl
  | cons g gs ih =>
    simp only [State.storeGranules, ih]
    split
    · split <;> simp [State.withoutStore]
    · simp

@[simp] theorem State.storeGranules_withoutDone (s : State) (a : Nat) (d : Bytes) (gs : List Nat) : (s.storeGranules a d gs).withoutDone = s.withoutDone :=
  (State.withoutStore_withoutDone _).symm.trans
    ((congrArg State.withoutDone (s.storeGranules_withoutStore a d gs)).trans (State.withoutStore_withoutDone s))
@[simp] theorem State.storeGranules_dev (s : State) (a : Nat) (d : Bytes) (gs : List Nat) : (s.storeGranules a d gs).dev = s.dev :=
  (State.withoutStore_dev _).symm.trans ((congrArg State.dev (s.storeGranules_withoutStore a d gs)).trans (State.withoutStore_dev s))
@[simp] theorem State.storeGranules_img (s : State) (a : Nat) (d : Bytes) (gs : List Nat) : (s.storeGranules a d gs).img = s.img :=
  (State.withoutStore_img _).symm.trans ((congrArg State.img (s.storeGranules_withoutStore a d gs)).trans (State.withoutStore_img s))
@[simp] theorem State.storeGranules_flash (s : State) (a : Nat) (d : Bytes) (gs : List Nat) : (s.storeGranules a d gs).flash = s.flash :=
  (State.withoutStore_flash _).symm.trans ((congrArg State.flash (s.storeGranules_withoutStore a d gs)).trans (State.withoutStore_flash s))
@[simp] theorem State.storeGranules_host (s : State) (a : Nat) (d : Bytes) (gs : List Nat) : (s.storeGranules a d gs).host = s.host :=
  (State.withoutStore_host _).symm.trans ((congrArg State.host (s.storeGranules_withoutStore a d gs)).trans (State.withoutStore_host s))
@[simp] theorem State.storeGranules_time (s : State) (a : Nat) (d : Bytes) (gs : List Nat) : (s.storeGranules a d gs).time = s.time :=
  (State.withoutStore_time _).symm.trans ((congrArg State.time (s.storeGranules_withoutStore a d gs)).trans (State.withoutStore_time s))
@[simp] theorem State.storeGranules_net (s : State) (a : Nat) (d : Bytes) (gs : List Nat) : (s.storeGranules a d gs).net = s.net :=
  (State.withoutStore_net _).symm.trans ((congrArg State.net (s.storeGranules_withoutStore a d gs)).trans (State.withoutStore_net s))
@[simp] theorem State.storeGranules_cam (s : State) (a : Nat) (d : Bytes) (gs : List Nat) : (s.storeGranules a d gs).cam = s.cam :=
  (State.withoutStore_cam _).symm.trans ((congrArg State.cam (s.storeGranules_withoutStore a d gs)).trans (State.withoutStore_cam s))
@[simp] theorem State.storeGranules_sched (s : State) (a : Nat) (d : Bytes) (gs : List Nat) : (s.storeGranules a d gs).sched = s.sched :=
  (State.withoutStore_sched _).symm.trans ((congrArg State.sched (s.storeGranules_withoutStore a d gs)).trans (State.withoutStore_sched s))
@[simp] theorem State.storeGranules_ledg (s : State) (a : Nat) (d : Bytes) (gs : List Nat) : (s.storeGranules a d gs).ledg = s.ledg :=
  (State.withoutStore_ledg _).symm.trans ((congrArg State.ledg (s.storeGranules_withoutStore a d gs)).trans (State.withoutStore_ledg s))
@[simp] theorem State.storeGranules_motion (s : State) (a : Nat) (d : Bytes) (gs : List Nat) : (s.storeGranules a d gs).motion = s.motion :=
  (State.withoutStore_motion _).symm.trans ((congrArg State.motion (s.storeGranules_withoutStore a d gs)).trans (State.withoutStore_motion s))
@[simp] theorem State.storeGranules_field (s : State) (a : Nat) (d : Bytes) (gs : List Nat) : (s.storeGranules a d gs).field = s.field :=
  (State.withoutStore_field _).symm.trans ((congrArg State.field (s.storeGranules_withoutStore a d gs)).trans (State.withoutStore_field s))
@[simp] theorem State.storeGranules_cap (s : State) (a : Nat) (d : Bytes) (gs : List Nat) : (s.storeGranules a d gs).cap = s.cap :=
  (State.withoutStore_cap _).symm.trans ((congrArg State.cap (s.storeGranules_withoutStore a d gs)).trans (State.withoutStore_cap s))
@[simp] theorem State.storeGranules_train (s : State) (a : Nat) (d : Bytes) (gs : List Nat) : (s.storeGranules a d gs).train = s.train :=
  (State.withoutStore_train _).symm.trans ((congrArg State.train (s.storeGranules_withoutStore a d gs)).trans (State.withoutStore_train s))
@[simp] theorem State.storeGranules_backup (s : State) (a : Nat) (d : Bytes) (gs : List Nat) : (s.storeGranules a d gs).backup = s.backup :=
  (State.withoutStore_backup _).symm.trans ((congrArg State.backup (s.storeGranules_withoutStore a d gs)).trans (State.withoutStore_backup s))
@[simp] theorem State.storeGranules_boot (s : State) (a : Nat) (d : Bytes) (gs : List Nat) : (s.storeGranules a d gs).boot = s.boot :=
  (State.withoutStore_boot _).symm.trans ((congrArg State.boot (s.storeGranules_withoutStore a d gs)).trans (State.withoutStore_boot s))
@[simp] theorem State.storeGranules_sec (s : State) (a : Nat) (d : Bytes) (gs : List Nat) : (s.storeGranules a d gs).sec = s.sec :=
  (State.withoutStore_sec _).symm.trans ((congrArg State.sec (s.storeGranules_withoutStore a d gs)).trans (State.withoutStore_sec s))
@[simp] theorem State.storeGranules_lanes (s : State) (a : Nat) (d : Bytes) (gs : List Nat) : (s.storeGranules a d gs).lanes = s.lanes :=
  (State.withoutStore_lanes _).symm.trans ((congrArg State.lanes (s.storeGranules_withoutStore a d gs)).trans (State.withoutStore_lanes s))
@[simp] theorem State.storeGranules_free (s : State) (a : Nat) (d : Bytes) (gs : List Nat) : (s.storeGranules a d gs).free = s.free :=
  (State.withoutStore_free _).symm.trans ((congrArg State.free (s.storeGranules_withoutStore a d gs)).trans (State.withoutStore_free s))
@[simp] theorem State.storeGranules_out (s : State) (a : Nat) (d : Bytes) (gs : List Nat) : (s.storeGranules a d gs).out = s.out :=
  (State.withoutStore_out _).symm.trans ((congrArg State.out (s.storeGranules_withoutStore a d gs)).trans (State.withoutStore_out s))
@[simp] theorem State.storeGranules_pending (s : State) (a : Nat) (d : Bytes) (gs : List Nat) : (s.storeGranules a d gs).pending = s.pending :=
  (State.withoutStore_pending _).symm.trans ((congrArg State.pending (s.storeGranules_withoutStore a d gs)).trans (State.withoutStore_pending s))

@[simp] theorem State.store_withoutStore (s : State) (a : Nat) (d : Bytes) :
    (s.store a d).withoutStore = s.withoutStore := by
  unfold State.store
  split <;> simp

@[simp] theorem State.store_withoutDone (s : State) (a : Nat) (d : Bytes) : (s.store a d).withoutDone = s.withoutDone :=
  (State.withoutStore_withoutDone _).symm.trans
    ((congrArg State.withoutDone (s.store_withoutStore a d)).trans (State.withoutStore_withoutDone s))
@[simp] theorem State.store_dev (s : State) (a : Nat) (d : Bytes) : (s.store a d).dev = s.dev :=
  (State.withoutStore_dev _).symm.trans ((congrArg State.dev (s.store_withoutStore a d)).trans (State.withoutStore_dev s))
@[simp] theorem State.store_img (s : State) (a : Nat) (d : Bytes) : (s.store a d).img = s.img :=
  (State.withoutStore_img _).symm.trans ((congrArg State.img (s.store_withoutStore a d)).trans (State.withoutStore_img s))
@[simp] theorem State.store_flash (s : State) (a : Nat) (d : Bytes) : (s.store a d).flash = s.flash :=
  (State.withoutStore_flash _).symm.trans ((congrArg State.flash (s.store_withoutStore a d)).trans (State.withoutStore_flash s))
@[simp] theorem State.store_host (s : State) (a : Nat) (d : Bytes) : (s.store a d).host = s.host :=
  (State.withoutStore_host _).symm.trans ((congrArg State.host (s.store_withoutStore a d)).trans (State.withoutStore_host s))
@[simp] theorem State.store_time (s : State) (a : Nat) (d : Bytes) : (s.store a d).time = s.time :=
  (State.withoutStore_time _).symm.trans ((congrArg State.time (s.store_withoutStore a d)).trans (State.withoutStore_time s))
@[simp] theorem State.store_net (s : State) (a : Nat) (d : Bytes) : (s.store a d).net = s.net :=
  (State.withoutStore_net _).symm.trans ((congrArg State.net (s.store_withoutStore a d)).trans (State.withoutStore_net s))
@[simp] theorem State.store_cam (s : State) (a : Nat) (d : Bytes) : (s.store a d).cam = s.cam :=
  (State.withoutStore_cam _).symm.trans ((congrArg State.cam (s.store_withoutStore a d)).trans (State.withoutStore_cam s))
@[simp] theorem State.store_sched (s : State) (a : Nat) (d : Bytes) : (s.store a d).sched = s.sched :=
  (State.withoutStore_sched _).symm.trans ((congrArg State.sched (s.store_withoutStore a d)).trans (State.withoutStore_sched s))
@[simp] theorem State.store_ledg (s : State) (a : Nat) (d : Bytes) : (s.store a d).ledg = s.ledg :=
  (State.withoutStore_ledg _).symm.trans ((congrArg State.ledg (s.store_withoutStore a d)).trans (State.withoutStore_ledg s))
@[simp] theorem State.store_motion (s : State) (a : Nat) (d : Bytes) : (s.store a d).motion = s.motion :=
  (State.withoutStore_motion _).symm.trans ((congrArg State.motion (s.store_withoutStore a d)).trans (State.withoutStore_motion s))
@[simp] theorem State.store_field (s : State) (a : Nat) (d : Bytes) : (s.store a d).field = s.field :=
  (State.withoutStore_field _).symm.trans ((congrArg State.field (s.store_withoutStore a d)).trans (State.withoutStore_field s))
@[simp] theorem State.store_cap (s : State) (a : Nat) (d : Bytes) : (s.store a d).cap = s.cap :=
  (State.withoutStore_cap _).symm.trans ((congrArg State.cap (s.store_withoutStore a d)).trans (State.withoutStore_cap s))
@[simp] theorem State.store_train (s : State) (a : Nat) (d : Bytes) : (s.store a d).train = s.train :=
  (State.withoutStore_train _).symm.trans ((congrArg State.train (s.store_withoutStore a d)).trans (State.withoutStore_train s))
@[simp] theorem State.store_backup (s : State) (a : Nat) (d : Bytes) : (s.store a d).backup = s.backup :=
  (State.withoutStore_backup _).symm.trans ((congrArg State.backup (s.store_withoutStore a d)).trans (State.withoutStore_backup s))
@[simp] theorem State.store_boot (s : State) (a : Nat) (d : Bytes) : (s.store a d).boot = s.boot :=
  (State.withoutStore_boot _).symm.trans ((congrArg State.boot (s.store_withoutStore a d)).trans (State.withoutStore_boot s))
@[simp] theorem State.store_sec (s : State) (a : Nat) (d : Bytes) : (s.store a d).sec = s.sec :=
  (State.withoutStore_sec _).symm.trans ((congrArg State.sec (s.store_withoutStore a d)).trans (State.withoutStore_sec s))
@[simp] theorem State.store_lanes (s : State) (a : Nat) (d : Bytes) : (s.store a d).lanes = s.lanes :=
  (State.withoutStore_lanes _).symm.trans ((congrArg State.lanes (s.store_withoutStore a d)).trans (State.withoutStore_lanes s))
@[simp] theorem State.store_free (s : State) (a : Nat) (d : Bytes) : (s.store a d).free = s.free :=
  (State.withoutStore_free _).symm.trans ((congrArg State.free (s.store_withoutStore a d)).trans (State.withoutStore_free s))
@[simp] theorem State.store_out (s : State) (a : Nat) (d : Bytes) : (s.store a d).out = s.out :=
  (State.withoutStore_out _).symm.trans ((congrArg State.out (s.store_withoutStore a d)).trans (State.withoutStore_out s))
@[simp] theorem State.store_pending (s : State) (a : Nat) (d : Bytes) : (s.store a d).pending = s.pending :=
  (State.withoutStore_pending _).symm.trans ((congrArg State.pending (s.store_withoutStore a d)).trans (State.withoutStore_pending s))

@[simp] theorem State.bhPut_withoutSend (s : State) (seat type seq : Nat) (retry : Bool) (p : Bytes) :
    (s.bhPut seat type seq retry p).withoutSend = s.withoutSend := by
  unfold State.bhPut
  split <;> rfl

@[simp] theorem State.bhPut_withoutSig (s : State) (seat type seq : Nat) (retry : Bool) (p : Bytes) : (s.bhPut seat type seq retry p).withoutSig = s.withoutSig :=
  (State.withoutSend_withoutSig _).symm.trans
    ((congrArg State.withoutSig (s.bhPut_withoutSend seat type seq retry p)).trans (State.withoutSend_withoutSig s))
@[simp] theorem State.bhPut_withoutDone (s : State) (seat type seq : Nat) (retry : Bool) (p : Bytes) : (s.bhPut seat type seq retry p).withoutDone = s.withoutDone :=
  (State.withoutSend_withoutDone _).symm.trans
    ((congrArg State.withoutDone (s.bhPut_withoutSend seat type seq retry p)).trans (State.withoutSend_withoutDone s))
@[simp] theorem State.bhPut_regs (s : State) (seat type seq : Nat) (retry : Bool) (p : Bytes) : (s.bhPut seat type seq retry p).regs = s.regs :=
  (State.withoutSend_regs _).symm.trans ((congrArg State.regs (s.bhPut_withoutSend seat type seq retry p)).trans (State.withoutSend_regs s))
@[simp] theorem State.bhPut_mem (s : State) (seat type seq : Nat) (retry : Bool) (p : Bytes) : (s.bhPut seat type seq retry p).mem = s.mem :=
  (State.withoutSend_mem _).symm.trans ((congrArg State.mem (s.bhPut_withoutSend seat type seq retry p)).trans (State.withoutSend_mem s))
@[simp] theorem State.bhPut_dev (s : State) (seat type seq : Nat) (retry : Bool) (p : Bytes) : (s.bhPut seat type seq retry p).dev = s.dev :=
  (State.withoutSend_dev _).symm.trans ((congrArg State.dev (s.bhPut_withoutSend seat type seq retry p)).trans (State.withoutSend_dev s))
@[simp] theorem State.bhPut_img (s : State) (seat type seq : Nat) (retry : Bool) (p : Bytes) : (s.bhPut seat type seq retry p).img = s.img :=
  (State.withoutSend_img _).symm.trans ((congrArg State.img (s.bhPut_withoutSend seat type seq retry p)).trans (State.withoutSend_img s))
@[simp] theorem State.bhPut_flash (s : State) (seat type seq : Nat) (retry : Bool) (p : Bytes) : (s.bhPut seat type seq retry p).flash = s.flash :=
  (State.withoutSend_flash _).symm.trans ((congrArg State.flash (s.bhPut_withoutSend seat type seq retry p)).trans (State.withoutSend_flash s))
@[simp] theorem State.bhPut_rec_ (s : State) (seat type seq : Nat) (retry : Bool) (p : Bytes) : (s.bhPut seat type seq retry p).rec' = s.rec' :=
  (State.withoutSend_rec_ _).symm.trans ((congrArg State.rec' (s.bhPut_withoutSend seat type seq retry p)).trans (State.withoutSend_rec_ s))
@[simp] theorem State.bhPut_time (s : State) (seat type seq : Nat) (retry : Bool) (p : Bytes) : (s.bhPut seat type seq retry p).time = s.time :=
  (State.withoutSend_time _).symm.trans ((congrArg State.time (s.bhPut_withoutSend seat type seq retry p)).trans (State.withoutSend_time s))
@[simp] theorem State.bhPut_net (s : State) (seat type seq : Nat) (retry : Bool) (p : Bytes) : (s.bhPut seat type seq retry p).net = s.net :=
  (State.withoutSend_net _).symm.trans ((congrArg State.net (s.bhPut_withoutSend seat type seq retry p)).trans (State.withoutSend_net s))
@[simp] theorem State.bhPut_cam (s : State) (seat type seq : Nat) (retry : Bool) (p : Bytes) : (s.bhPut seat type seq retry p).cam = s.cam :=
  (State.withoutSend_cam _).symm.trans ((congrArg State.cam (s.bhPut_withoutSend seat type seq retry p)).trans (State.withoutSend_cam s))
@[simp] theorem State.bhPut_sched (s : State) (seat type seq : Nat) (retry : Bool) (p : Bytes) : (s.bhPut seat type seq retry p).sched = s.sched :=
  (State.withoutSend_sched _).symm.trans ((congrArg State.sched (s.bhPut_withoutSend seat type seq retry p)).trans (State.withoutSend_sched s))
@[simp] theorem State.bhPut_ledg (s : State) (seat type seq : Nat) (retry : Bool) (p : Bytes) : (s.bhPut seat type seq retry p).ledg = s.ledg :=
  (State.withoutSend_ledg _).symm.trans ((congrArg State.ledg (s.bhPut_withoutSend seat type seq retry p)).trans (State.withoutSend_ledg s))
@[simp] theorem State.bhPut_motion (s : State) (seat type seq : Nat) (retry : Bool) (p : Bytes) : (s.bhPut seat type seq retry p).motion = s.motion :=
  (State.withoutSend_motion _).symm.trans ((congrArg State.motion (s.bhPut_withoutSend seat type seq retry p)).trans (State.withoutSend_motion s))
@[simp] theorem State.bhPut_field (s : State) (seat type seq : Nat) (retry : Bool) (p : Bytes) : (s.bhPut seat type seq retry p).field = s.field :=
  (State.withoutSend_field _).symm.trans ((congrArg State.field (s.bhPut_withoutSend seat type seq retry p)).trans (State.withoutSend_field s))
@[simp] theorem State.bhPut_cap (s : State) (seat type seq : Nat) (retry : Bool) (p : Bytes) : (s.bhPut seat type seq retry p).cap = s.cap :=
  (State.withoutSend_cap _).symm.trans ((congrArg State.cap (s.bhPut_withoutSend seat type seq retry p)).trans (State.withoutSend_cap s))
@[simp] theorem State.bhPut_train (s : State) (seat type seq : Nat) (retry : Bool) (p : Bytes) : (s.bhPut seat type seq retry p).train = s.train :=
  (State.withoutSend_train _).symm.trans ((congrArg State.train (s.bhPut_withoutSend seat type seq retry p)).trans (State.withoutSend_train s))
@[simp] theorem State.bhPut_backup (s : State) (seat type seq : Nat) (retry : Bool) (p : Bytes) : (s.bhPut seat type seq retry p).backup = s.backup :=
  (State.withoutSend_backup _).symm.trans ((congrArg State.backup (s.bhPut_withoutSend seat type seq retry p)).trans (State.withoutSend_backup s))
@[simp] theorem State.bhPut_boot (s : State) (seat type seq : Nat) (retry : Bool) (p : Bytes) : (s.bhPut seat type seq retry p).boot = s.boot :=
  (State.withoutSend_boot _).symm.trans ((congrArg State.boot (s.bhPut_withoutSend seat type seq retry p)).trans (State.withoutSend_boot s))
@[simp] theorem State.bhPut_sec (s : State) (seat type seq : Nat) (retry : Bool) (p : Bytes) : (s.bhPut seat type seq retry p).sec = s.sec :=
  (State.withoutSend_sec _).symm.trans ((congrArg State.sec (s.bhPut_withoutSend seat type seq retry p)).trans (State.withoutSend_sec s))
@[simp] theorem State.bhPut_lanes (s : State) (seat type seq : Nat) (retry : Bool) (p : Bytes) : (s.bhPut seat type seq retry p).lanes = s.lanes :=
  (State.withoutSend_lanes _).symm.trans ((congrArg State.lanes (s.bhPut_withoutSend seat type seq retry p)).trans (State.withoutSend_lanes s))
@[simp] theorem State.bhPut_mc (s : State) (seat type seq : Nat) (retry : Bool) (p : Bytes) : (s.bhPut seat type seq retry p).mc = s.mc :=
  (State.withoutSend_mc _).symm.trans ((congrArg State.mc (s.bhPut_withoutSend seat type seq retry p)).trans (State.withoutSend_mc s))
@[simp] theorem State.bhPut_free (s : State) (seat type seq : Nat) (retry : Bool) (p : Bytes) : (s.bhPut seat type seq retry p).free = s.free :=
  (State.withoutSend_free _).symm.trans ((congrArg State.free (s.bhPut_withoutSend seat type seq retry p)).trans (State.withoutSend_free s))
@[simp] theorem State.bhPut_pending (s : State) (seat type seq : Nat) (retry : Bool) (p : Bytes) : (s.bhPut seat type seq retry p).pending = s.pending :=
  (State.withoutSend_pending _).symm.trans ((congrArg State.pending (s.bhPut_withoutSend seat type seq retry p)).trans (State.withoutSend_pending s))

@[simp] theorem State.bhSend_withoutSend (s : State) (seat type : Nat) (p : Bytes) (ring n : Nat) :
    (s.bhSend seat type p ring n).withoutSend = s.withoutSend := by
  unfold State.bhSend
  split
  · rfl
  · dsimp only
    split <;> simp [State.withoutSend]

@[simp] theorem State.bhSend_withoutSig (s : State) (seat type : Nat) (p : Bytes) (ring n : Nat) : (s.bhSend seat type p ring n).withoutSig = s.withoutSig :=
  (State.withoutSend_withoutSig _).symm.trans
    ((congrArg State.withoutSig (s.bhSend_withoutSend seat type p ring n)).trans (State.withoutSend_withoutSig s))
@[simp] theorem State.bhSend_withoutDone (s : State) (seat type : Nat) (p : Bytes) (ring n : Nat) : (s.bhSend seat type p ring n).withoutDone = s.withoutDone :=
  (State.withoutSend_withoutDone _).symm.trans
    ((congrArg State.withoutDone (s.bhSend_withoutSend seat type p ring n)).trans (State.withoutSend_withoutDone s))
@[simp] theorem State.bhSend_regs (s : State) (seat type : Nat) (p : Bytes) (ring n : Nat) : (s.bhSend seat type p ring n).regs = s.regs :=
  (State.withoutSend_regs _).symm.trans ((congrArg State.regs (s.bhSend_withoutSend seat type p ring n)).trans (State.withoutSend_regs s))
@[simp] theorem State.bhSend_mem (s : State) (seat type : Nat) (p : Bytes) (ring n : Nat) : (s.bhSend seat type p ring n).mem = s.mem :=
  (State.withoutSend_mem _).symm.trans ((congrArg State.mem (s.bhSend_withoutSend seat type p ring n)).trans (State.withoutSend_mem s))
@[simp] theorem State.bhSend_dev (s : State) (seat type : Nat) (p : Bytes) (ring n : Nat) : (s.bhSend seat type p ring n).dev = s.dev :=
  (State.withoutSend_dev _).symm.trans ((congrArg State.dev (s.bhSend_withoutSend seat type p ring n)).trans (State.withoutSend_dev s))
@[simp] theorem State.bhSend_img (s : State) (seat type : Nat) (p : Bytes) (ring n : Nat) : (s.bhSend seat type p ring n).img = s.img :=
  (State.withoutSend_img _).symm.trans ((congrArg State.img (s.bhSend_withoutSend seat type p ring n)).trans (State.withoutSend_img s))
@[simp] theorem State.bhSend_flash (s : State) (seat type : Nat) (p : Bytes) (ring n : Nat) : (s.bhSend seat type p ring n).flash = s.flash :=
  (State.withoutSend_flash _).symm.trans ((congrArg State.flash (s.bhSend_withoutSend seat type p ring n)).trans (State.withoutSend_flash s))
@[simp] theorem State.bhSend_rec_ (s : State) (seat type : Nat) (p : Bytes) (ring n : Nat) : (s.bhSend seat type p ring n).rec' = s.rec' :=
  (State.withoutSend_rec_ _).symm.trans ((congrArg State.rec' (s.bhSend_withoutSend seat type p ring n)).trans (State.withoutSend_rec_ s))
@[simp] theorem State.bhSend_time (s : State) (seat type : Nat) (p : Bytes) (ring n : Nat) : (s.bhSend seat type p ring n).time = s.time :=
  (State.withoutSend_time _).symm.trans ((congrArg State.time (s.bhSend_withoutSend seat type p ring n)).trans (State.withoutSend_time s))
@[simp] theorem State.bhSend_net (s : State) (seat type : Nat) (p : Bytes) (ring n : Nat) : (s.bhSend seat type p ring n).net = s.net :=
  (State.withoutSend_net _).symm.trans ((congrArg State.net (s.bhSend_withoutSend seat type p ring n)).trans (State.withoutSend_net s))
@[simp] theorem State.bhSend_cam (s : State) (seat type : Nat) (p : Bytes) (ring n : Nat) : (s.bhSend seat type p ring n).cam = s.cam :=
  (State.withoutSend_cam _).symm.trans ((congrArg State.cam (s.bhSend_withoutSend seat type p ring n)).trans (State.withoutSend_cam s))
@[simp] theorem State.bhSend_sched (s : State) (seat type : Nat) (p : Bytes) (ring n : Nat) : (s.bhSend seat type p ring n).sched = s.sched :=
  (State.withoutSend_sched _).symm.trans ((congrArg State.sched (s.bhSend_withoutSend seat type p ring n)).trans (State.withoutSend_sched s))
@[simp] theorem State.bhSend_ledg (s : State) (seat type : Nat) (p : Bytes) (ring n : Nat) : (s.bhSend seat type p ring n).ledg = s.ledg :=
  (State.withoutSend_ledg _).symm.trans ((congrArg State.ledg (s.bhSend_withoutSend seat type p ring n)).trans (State.withoutSend_ledg s))
@[simp] theorem State.bhSend_motion (s : State) (seat type : Nat) (p : Bytes) (ring n : Nat) : (s.bhSend seat type p ring n).motion = s.motion :=
  (State.withoutSend_motion _).symm.trans ((congrArg State.motion (s.bhSend_withoutSend seat type p ring n)).trans (State.withoutSend_motion s))
@[simp] theorem State.bhSend_field (s : State) (seat type : Nat) (p : Bytes) (ring n : Nat) : (s.bhSend seat type p ring n).field = s.field :=
  (State.withoutSend_field _).symm.trans ((congrArg State.field (s.bhSend_withoutSend seat type p ring n)).trans (State.withoutSend_field s))
@[simp] theorem State.bhSend_cap (s : State) (seat type : Nat) (p : Bytes) (ring n : Nat) : (s.bhSend seat type p ring n).cap = s.cap :=
  (State.withoutSend_cap _).symm.trans ((congrArg State.cap (s.bhSend_withoutSend seat type p ring n)).trans (State.withoutSend_cap s))
@[simp] theorem State.bhSend_train (s : State) (seat type : Nat) (p : Bytes) (ring n : Nat) : (s.bhSend seat type p ring n).train = s.train :=
  (State.withoutSend_train _).symm.trans ((congrArg State.train (s.bhSend_withoutSend seat type p ring n)).trans (State.withoutSend_train s))
@[simp] theorem State.bhSend_backup (s : State) (seat type : Nat) (p : Bytes) (ring n : Nat) : (s.bhSend seat type p ring n).backup = s.backup :=
  (State.withoutSend_backup _).symm.trans ((congrArg State.backup (s.bhSend_withoutSend seat type p ring n)).trans (State.withoutSend_backup s))
@[simp] theorem State.bhSend_boot (s : State) (seat type : Nat) (p : Bytes) (ring n : Nat) : (s.bhSend seat type p ring n).boot = s.boot :=
  (State.withoutSend_boot _).symm.trans ((congrArg State.boot (s.bhSend_withoutSend seat type p ring n)).trans (State.withoutSend_boot s))
@[simp] theorem State.bhSend_sec (s : State) (seat type : Nat) (p : Bytes) (ring n : Nat) : (s.bhSend seat type p ring n).sec = s.sec :=
  (State.withoutSend_sec _).symm.trans ((congrArg State.sec (s.bhSend_withoutSend seat type p ring n)).trans (State.withoutSend_sec s))
@[simp] theorem State.bhSend_lanes (s : State) (seat type : Nat) (p : Bytes) (ring n : Nat) : (s.bhSend seat type p ring n).lanes = s.lanes :=
  (State.withoutSend_lanes _).symm.trans ((congrArg State.lanes (s.bhSend_withoutSend seat type p ring n)).trans (State.withoutSend_lanes s))
@[simp] theorem State.bhSend_mc (s : State) (seat type : Nat) (p : Bytes) (ring n : Nat) : (s.bhSend seat type p ring n).mc = s.mc :=
  (State.withoutSend_mc _).symm.trans ((congrArg State.mc (s.bhSend_withoutSend seat type p ring n)).trans (State.withoutSend_mc s))
@[simp] theorem State.bhSend_free (s : State) (seat type : Nat) (p : Bytes) (ring n : Nat) : (s.bhSend seat type p ring n).free = s.free :=
  (State.withoutSend_free _).symm.trans ((congrArg State.free (s.bhSend_withoutSend seat type p ring n)).trans (State.withoutSend_free s))
@[simp] theorem State.bhSend_pending (s : State) (seat type : Nat) (p : Bytes) (ring n : Nat) : (s.bhSend seat type p ring n).pending = s.pending :=
  (State.withoutSend_pending _).symm.trans ((congrArg State.pending (s.bhSend_withoutSend seat type p ring n)).trans (State.withoutSend_pending s))

@[simp] theorem State.sendInterrupt_withoutSend (s : State) (seat : Nat) :
    (s.sendInterrupt seat).withoutSend = s.withoutSend := by simp [State.sendInterrupt, State.withoutSend]

@[simp] theorem State.sendInterrupt_withoutSig (s : State) (seat : Nat) : (s.sendInterrupt seat).withoutSig = s.withoutSig :=
  (State.withoutSend_withoutSig _).symm.trans
    ((congrArg State.withoutSig (s.sendInterrupt_withoutSend seat)).trans (State.withoutSend_withoutSig s))
@[simp] theorem State.sendInterrupt_withoutDone (s : State) (seat : Nat) : (s.sendInterrupt seat).withoutDone = s.withoutDone :=
  (State.withoutSend_withoutDone _).symm.trans
    ((congrArg State.withoutDone (s.sendInterrupt_withoutSend seat)).trans (State.withoutSend_withoutDone s))
@[simp] theorem State.sendInterrupt_regs (s : State) (seat : Nat) : (s.sendInterrupt seat).regs = s.regs :=
  (State.withoutSend_regs _).symm.trans ((congrArg State.regs (s.sendInterrupt_withoutSend seat)).trans (State.withoutSend_regs s))
@[simp] theorem State.sendInterrupt_mem (s : State) (seat : Nat) : (s.sendInterrupt seat).mem = s.mem :=
  (State.withoutSend_mem _).symm.trans ((congrArg State.mem (s.sendInterrupt_withoutSend seat)).trans (State.withoutSend_mem s))
@[simp] theorem State.sendInterrupt_dev (s : State) (seat : Nat) : (s.sendInterrupt seat).dev = s.dev :=
  (State.withoutSend_dev _).symm.trans ((congrArg State.dev (s.sendInterrupt_withoutSend seat)).trans (State.withoutSend_dev s))
@[simp] theorem State.sendInterrupt_img (s : State) (seat : Nat) : (s.sendInterrupt seat).img = s.img :=
  (State.withoutSend_img _).symm.trans ((congrArg State.img (s.sendInterrupt_withoutSend seat)).trans (State.withoutSend_img s))
@[simp] theorem State.sendInterrupt_flash (s : State) (seat : Nat) : (s.sendInterrupt seat).flash = s.flash :=
  (State.withoutSend_flash _).symm.trans ((congrArg State.flash (s.sendInterrupt_withoutSend seat)).trans (State.withoutSend_flash s))
@[simp] theorem State.sendInterrupt_rec_ (s : State) (seat : Nat) : (s.sendInterrupt seat).rec' = s.rec' :=
  (State.withoutSend_rec_ _).symm.trans ((congrArg State.rec' (s.sendInterrupt_withoutSend seat)).trans (State.withoutSend_rec_ s))
@[simp] theorem State.sendInterrupt_time (s : State) (seat : Nat) : (s.sendInterrupt seat).time = s.time :=
  (State.withoutSend_time _).symm.trans ((congrArg State.time (s.sendInterrupt_withoutSend seat)).trans (State.withoutSend_time s))
@[simp] theorem State.sendInterrupt_net (s : State) (seat : Nat) : (s.sendInterrupt seat).net = s.net :=
  (State.withoutSend_net _).symm.trans ((congrArg State.net (s.sendInterrupt_withoutSend seat)).trans (State.withoutSend_net s))
@[simp] theorem State.sendInterrupt_cam (s : State) (seat : Nat) : (s.sendInterrupt seat).cam = s.cam :=
  (State.withoutSend_cam _).symm.trans ((congrArg State.cam (s.sendInterrupt_withoutSend seat)).trans (State.withoutSend_cam s))
@[simp] theorem State.sendInterrupt_sched (s : State) (seat : Nat) : (s.sendInterrupt seat).sched = s.sched :=
  (State.withoutSend_sched _).symm.trans ((congrArg State.sched (s.sendInterrupt_withoutSend seat)).trans (State.withoutSend_sched s))
@[simp] theorem State.sendInterrupt_ledg (s : State) (seat : Nat) : (s.sendInterrupt seat).ledg = s.ledg :=
  (State.withoutSend_ledg _).symm.trans ((congrArg State.ledg (s.sendInterrupt_withoutSend seat)).trans (State.withoutSend_ledg s))
@[simp] theorem State.sendInterrupt_motion (s : State) (seat : Nat) : (s.sendInterrupt seat).motion = s.motion :=
  (State.withoutSend_motion _).symm.trans ((congrArg State.motion (s.sendInterrupt_withoutSend seat)).trans (State.withoutSend_motion s))
@[simp] theorem State.sendInterrupt_field (s : State) (seat : Nat) : (s.sendInterrupt seat).field = s.field :=
  (State.withoutSend_field _).symm.trans ((congrArg State.field (s.sendInterrupt_withoutSend seat)).trans (State.withoutSend_field s))
@[simp] theorem State.sendInterrupt_cap (s : State) (seat : Nat) : (s.sendInterrupt seat).cap = s.cap :=
  (State.withoutSend_cap _).symm.trans ((congrArg State.cap (s.sendInterrupt_withoutSend seat)).trans (State.withoutSend_cap s))
@[simp] theorem State.sendInterrupt_train (s : State) (seat : Nat) : (s.sendInterrupt seat).train = s.train :=
  (State.withoutSend_train _).symm.trans ((congrArg State.train (s.sendInterrupt_withoutSend seat)).trans (State.withoutSend_train s))
@[simp] theorem State.sendInterrupt_backup (s : State) (seat : Nat) : (s.sendInterrupt seat).backup = s.backup :=
  (State.withoutSend_backup _).symm.trans ((congrArg State.backup (s.sendInterrupt_withoutSend seat)).trans (State.withoutSend_backup s))
@[simp] theorem State.sendInterrupt_boot (s : State) (seat : Nat) : (s.sendInterrupt seat).boot = s.boot :=
  (State.withoutSend_boot _).symm.trans ((congrArg State.boot (s.sendInterrupt_withoutSend seat)).trans (State.withoutSend_boot s))
@[simp] theorem State.sendInterrupt_sec (s : State) (seat : Nat) : (s.sendInterrupt seat).sec = s.sec :=
  (State.withoutSend_sec _).symm.trans ((congrArg State.sec (s.sendInterrupt_withoutSend seat)).trans (State.withoutSend_sec s))
@[simp] theorem State.sendInterrupt_lanes (s : State) (seat : Nat) : (s.sendInterrupt seat).lanes = s.lanes :=
  (State.withoutSend_lanes _).symm.trans ((congrArg State.lanes (s.sendInterrupt_withoutSend seat)).trans (State.withoutSend_lanes s))
@[simp] theorem State.sendInterrupt_mc (s : State) (seat : Nat) : (s.sendInterrupt seat).mc = s.mc :=
  (State.withoutSend_mc _).symm.trans ((congrArg State.mc (s.sendInterrupt_withoutSend seat)).trans (State.withoutSend_mc s))
@[simp] theorem State.sendInterrupt_free (s : State) (seat : Nat) : (s.sendInterrupt seat).free = s.free :=
  (State.withoutSend_free _).symm.trans ((congrArg State.free (s.sendInterrupt_withoutSend seat)).trans (State.withoutSend_free s))
@[simp] theorem State.sendInterrupt_pending (s : State) (seat : Nat) : (s.sendInterrupt seat).pending = s.pending :=
  (State.withoutSend_pending _).symm.trans ((congrArg State.pending (s.sendInterrupt_withoutSend seat)).trans (State.withoutSend_pending s))

@[simp] theorem State.signalSeat_withoutSend (s : State) (seat : Nat) :
    (s.signalSeat seat).withoutSend = s.withoutSend := by
  unfold State.signalSeat
  dsimp only
  repeat' split
  all_goals simp [State.withoutSend]

@[simp] theorem State.signalSeat_withoutSig (s : State) (seat : Nat) : (s.signalSeat seat).withoutSig = s.withoutSig :=
  (State.withoutSend_withoutSig _).symm.trans
    ((congrArg State.withoutSig (s.signalSeat_withoutSend seat)).trans (State.withoutSend_withoutSig s))
@[simp] theorem State.signalSeat_withoutDone (s : State) (seat : Nat) : (s.signalSeat seat).withoutDone = s.withoutDone :=
  (State.withoutSend_withoutDone _).symm.trans
    ((congrArg State.withoutDone (s.signalSeat_withoutSend seat)).trans (State.withoutSend_withoutDone s))
@[simp] theorem State.signalSeat_regs (s : State) (seat : Nat) : (s.signalSeat seat).regs = s.regs :=
  (State.withoutSend_regs _).symm.trans ((congrArg State.regs (s.signalSeat_withoutSend seat)).trans (State.withoutSend_regs s))
@[simp] theorem State.signalSeat_mem (s : State) (seat : Nat) : (s.signalSeat seat).mem = s.mem :=
  (State.withoutSend_mem _).symm.trans ((congrArg State.mem (s.signalSeat_withoutSend seat)).trans (State.withoutSend_mem s))
@[simp] theorem State.signalSeat_dev (s : State) (seat : Nat) : (s.signalSeat seat).dev = s.dev :=
  (State.withoutSend_dev _).symm.trans ((congrArg State.dev (s.signalSeat_withoutSend seat)).trans (State.withoutSend_dev s))
@[simp] theorem State.signalSeat_img (s : State) (seat : Nat) : (s.signalSeat seat).img = s.img :=
  (State.withoutSend_img _).symm.trans ((congrArg State.img (s.signalSeat_withoutSend seat)).trans (State.withoutSend_img s))
@[simp] theorem State.signalSeat_flash (s : State) (seat : Nat) : (s.signalSeat seat).flash = s.flash :=
  (State.withoutSend_flash _).symm.trans ((congrArg State.flash (s.signalSeat_withoutSend seat)).trans (State.withoutSend_flash s))
@[simp] theorem State.signalSeat_rec_ (s : State) (seat : Nat) : (s.signalSeat seat).rec' = s.rec' :=
  (State.withoutSend_rec_ _).symm.trans ((congrArg State.rec' (s.signalSeat_withoutSend seat)).trans (State.withoutSend_rec_ s))
@[simp] theorem State.signalSeat_time (s : State) (seat : Nat) : (s.signalSeat seat).time = s.time :=
  (State.withoutSend_time _).symm.trans ((congrArg State.time (s.signalSeat_withoutSend seat)).trans (State.withoutSend_time s))
@[simp] theorem State.signalSeat_net (s : State) (seat : Nat) : (s.signalSeat seat).net = s.net :=
  (State.withoutSend_net _).symm.trans ((congrArg State.net (s.signalSeat_withoutSend seat)).trans (State.withoutSend_net s))
@[simp] theorem State.signalSeat_cam (s : State) (seat : Nat) : (s.signalSeat seat).cam = s.cam :=
  (State.withoutSend_cam _).symm.trans ((congrArg State.cam (s.signalSeat_withoutSend seat)).trans (State.withoutSend_cam s))
@[simp] theorem State.signalSeat_sched (s : State) (seat : Nat) : (s.signalSeat seat).sched = s.sched :=
  (State.withoutSend_sched _).symm.trans ((congrArg State.sched (s.signalSeat_withoutSend seat)).trans (State.withoutSend_sched s))
@[simp] theorem State.signalSeat_ledg (s : State) (seat : Nat) : (s.signalSeat seat).ledg = s.ledg :=
  (State.withoutSend_ledg _).symm.trans ((congrArg State.ledg (s.signalSeat_withoutSend seat)).trans (State.withoutSend_ledg s))
@[simp] theorem State.signalSeat_motion (s : State) (seat : Nat) : (s.signalSeat seat).motion = s.motion :=
  (State.withoutSend_motion _).symm.trans ((congrArg State.motion (s.signalSeat_withoutSend seat)).trans (State.withoutSend_motion s))
@[simp] theorem State.signalSeat_field (s : State) (seat : Nat) : (s.signalSeat seat).field = s.field :=
  (State.withoutSend_field _).symm.trans ((congrArg State.field (s.signalSeat_withoutSend seat)).trans (State.withoutSend_field s))
@[simp] theorem State.signalSeat_cap (s : State) (seat : Nat) : (s.signalSeat seat).cap = s.cap :=
  (State.withoutSend_cap _).symm.trans ((congrArg State.cap (s.signalSeat_withoutSend seat)).trans (State.withoutSend_cap s))
@[simp] theorem State.signalSeat_train (s : State) (seat : Nat) : (s.signalSeat seat).train = s.train :=
  (State.withoutSend_train _).symm.trans ((congrArg State.train (s.signalSeat_withoutSend seat)).trans (State.withoutSend_train s))
@[simp] theorem State.signalSeat_backup (s : State) (seat : Nat) : (s.signalSeat seat).backup = s.backup :=
  (State.withoutSend_backup _).symm.trans ((congrArg State.backup (s.signalSeat_withoutSend seat)).trans (State.withoutSend_backup s))
@[simp] theorem State.signalSeat_boot (s : State) (seat : Nat) : (s.signalSeat seat).boot = s.boot :=
  (State.withoutSend_boot _).symm.trans ((congrArg State.boot (s.signalSeat_withoutSend seat)).trans (State.withoutSend_boot s))
@[simp] theorem State.signalSeat_sec (s : State) (seat : Nat) : (s.signalSeat seat).sec = s.sec :=
  (State.withoutSend_sec _).symm.trans ((congrArg State.sec (s.signalSeat_withoutSend seat)).trans (State.withoutSend_sec s))
@[simp] theorem State.signalSeat_lanes (s : State) (seat : Nat) : (s.signalSeat seat).lanes = s.lanes :=
  (State.withoutSend_lanes _).symm.trans ((congrArg State.lanes (s.signalSeat_withoutSend seat)).trans (State.withoutSend_lanes s))
@[simp] theorem State.signalSeat_mc (s : State) (seat : Nat) : (s.signalSeat seat).mc = s.mc :=
  (State.withoutSend_mc _).symm.trans ((congrArg State.mc (s.signalSeat_withoutSend seat)).trans (State.withoutSend_mc s))
@[simp] theorem State.signalSeat_free (s : State) (seat : Nat) : (s.signalSeat seat).free = s.free :=
  (State.withoutSend_free _).symm.trans ((congrArg State.free (s.signalSeat_withoutSend seat)).trans (State.withoutSend_free s))
@[simp] theorem State.signalSeat_pending (s : State) (seat : Nat) : (s.signalSeat seat).pending = s.pending :=
  (State.withoutSend_pending _).symm.trans ((congrArg State.pending (s.signalSeat_withoutSend seat)).trans (State.withoutSend_pending s))

@[simp] theorem State.resignal_withoutSend (s : State) (seat c : Nat) :
    (s.resignal seat c).withoutSend = s.withoutSend := by simp [State.resignal, State.withoutSend]

@[simp] theorem State.resignal_withoutSig (s : State) (seat c : Nat) : (s.resignal seat c).withoutSig = s.withoutSig :=
  (State.withoutSend_withoutSig _).symm.trans
    ((congrArg State.withoutSig (s.resignal_withoutSend seat c)).trans (State.withoutSend_withoutSig s))
@[simp] theorem State.resignal_withoutDone (s : State) (seat c : Nat) : (s.resignal seat c).withoutDone = s.withoutDone :=
  (State.withoutSend_withoutDone _).symm.trans
    ((congrArg State.withoutDone (s.resignal_withoutSend seat c)).trans (State.withoutSend_withoutDone s))
@[simp] theorem State.resignal_regs (s : State) (seat c : Nat) : (s.resignal seat c).regs = s.regs :=
  (State.withoutSend_regs _).symm.trans ((congrArg State.regs (s.resignal_withoutSend seat c)).trans (State.withoutSend_regs s))
@[simp] theorem State.resignal_mem (s : State) (seat c : Nat) : (s.resignal seat c).mem = s.mem :=
  (State.withoutSend_mem _).symm.trans ((congrArg State.mem (s.resignal_withoutSend seat c)).trans (State.withoutSend_mem s))
@[simp] theorem State.resignal_dev (s : State) (seat c : Nat) : (s.resignal seat c).dev = s.dev :=
  (State.withoutSend_dev _).symm.trans ((congrArg State.dev (s.resignal_withoutSend seat c)).trans (State.withoutSend_dev s))
@[simp] theorem State.resignal_img (s : State) (seat c : Nat) : (s.resignal seat c).img = s.img :=
  (State.withoutSend_img _).symm.trans ((congrArg State.img (s.resignal_withoutSend seat c)).trans (State.withoutSend_img s))
@[simp] theorem State.resignal_flash (s : State) (seat c : Nat) : (s.resignal seat c).flash = s.flash :=
  (State.withoutSend_flash _).symm.trans ((congrArg State.flash (s.resignal_withoutSend seat c)).trans (State.withoutSend_flash s))
@[simp] theorem State.resignal_rec_ (s : State) (seat c : Nat) : (s.resignal seat c).rec' = s.rec' :=
  (State.withoutSend_rec_ _).symm.trans ((congrArg State.rec' (s.resignal_withoutSend seat c)).trans (State.withoutSend_rec_ s))
@[simp] theorem State.resignal_time (s : State) (seat c : Nat) : (s.resignal seat c).time = s.time :=
  (State.withoutSend_time _).symm.trans ((congrArg State.time (s.resignal_withoutSend seat c)).trans (State.withoutSend_time s))
@[simp] theorem State.resignal_net (s : State) (seat c : Nat) : (s.resignal seat c).net = s.net :=
  (State.withoutSend_net _).symm.trans ((congrArg State.net (s.resignal_withoutSend seat c)).trans (State.withoutSend_net s))
@[simp] theorem State.resignal_cam (s : State) (seat c : Nat) : (s.resignal seat c).cam = s.cam :=
  (State.withoutSend_cam _).symm.trans ((congrArg State.cam (s.resignal_withoutSend seat c)).trans (State.withoutSend_cam s))
@[simp] theorem State.resignal_sched (s : State) (seat c : Nat) : (s.resignal seat c).sched = s.sched :=
  (State.withoutSend_sched _).symm.trans ((congrArg State.sched (s.resignal_withoutSend seat c)).trans (State.withoutSend_sched s))
@[simp] theorem State.resignal_ledg (s : State) (seat c : Nat) : (s.resignal seat c).ledg = s.ledg :=
  (State.withoutSend_ledg _).symm.trans ((congrArg State.ledg (s.resignal_withoutSend seat c)).trans (State.withoutSend_ledg s))
@[simp] theorem State.resignal_motion (s : State) (seat c : Nat) : (s.resignal seat c).motion = s.motion :=
  (State.withoutSend_motion _).symm.trans ((congrArg State.motion (s.resignal_withoutSend seat c)).trans (State.withoutSend_motion s))
@[simp] theorem State.resignal_field (s : State) (seat c : Nat) : (s.resignal seat c).field = s.field :=
  (State.withoutSend_field _).symm.trans ((congrArg State.field (s.resignal_withoutSend seat c)).trans (State.withoutSend_field s))
@[simp] theorem State.resignal_cap (s : State) (seat c : Nat) : (s.resignal seat c).cap = s.cap :=
  (State.withoutSend_cap _).symm.trans ((congrArg State.cap (s.resignal_withoutSend seat c)).trans (State.withoutSend_cap s))
@[simp] theorem State.resignal_train (s : State) (seat c : Nat) : (s.resignal seat c).train = s.train :=
  (State.withoutSend_train _).symm.trans ((congrArg State.train (s.resignal_withoutSend seat c)).trans (State.withoutSend_train s))
@[simp] theorem State.resignal_backup (s : State) (seat c : Nat) : (s.resignal seat c).backup = s.backup :=
  (State.withoutSend_backup _).symm.trans ((congrArg State.backup (s.resignal_withoutSend seat c)).trans (State.withoutSend_backup s))
@[simp] theorem State.resignal_boot (s : State) (seat c : Nat) : (s.resignal seat c).boot = s.boot :=
  (State.withoutSend_boot _).symm.trans ((congrArg State.boot (s.resignal_withoutSend seat c)).trans (State.withoutSend_boot s))
@[simp] theorem State.resignal_sec (s : State) (seat c : Nat) : (s.resignal seat c).sec = s.sec :=
  (State.withoutSend_sec _).symm.trans ((congrArg State.sec (s.resignal_withoutSend seat c)).trans (State.withoutSend_sec s))
@[simp] theorem State.resignal_lanes (s : State) (seat c : Nat) : (s.resignal seat c).lanes = s.lanes :=
  (State.withoutSend_lanes _).symm.trans ((congrArg State.lanes (s.resignal_withoutSend seat c)).trans (State.withoutSend_lanes s))
@[simp] theorem State.resignal_mc (s : State) (seat c : Nat) : (s.resignal seat c).mc = s.mc :=
  (State.withoutSend_mc _).symm.trans ((congrArg State.mc (s.resignal_withoutSend seat c)).trans (State.withoutSend_mc s))
@[simp] theorem State.resignal_free (s : State) (seat c : Nat) : (s.resignal seat c).free = s.free :=
  (State.withoutSend_free _).symm.trans ((congrArg State.free (s.resignal_withoutSend seat c)).trans (State.withoutSend_free s))
@[simp] theorem State.resignal_pending (s : State) (seat c : Nat) : (s.resignal seat c).pending = s.pending :=
  (State.withoutSend_pending _).symm.trans ((congrArg State.pending (s.resignal_withoutSend seat c)).trans (State.withoutSend_pending s))

@[simp] theorem State.raiseInt_withoutSig (s : State) (seat b : Nat) :
    (s.raiseInt seat b).withoutSig = s.withoutSig := by simp [State.raiseInt]

@[simp] theorem State.raiseInt_withoutDone (s : State) (seat b : Nat) : (s.raiseInt seat b).withoutDone = s.withoutDone :=
  (State.withoutSig_withoutDone _).symm.trans
    ((congrArg State.withoutDone (s.raiseInt_withoutSig seat b)).trans (State.withoutSig_withoutDone s))
@[simp] theorem State.raiseInt_mem (s : State) (seat b : Nat) : (s.raiseInt seat b).mem = s.mem :=
  (State.withoutSig_mem _).symm.trans ((congrArg State.mem (s.raiseInt_withoutSig seat b)).trans (State.withoutSig_mem s))
@[simp] theorem State.raiseInt_dev (s : State) (seat b : Nat) : (s.raiseInt seat b).dev = s.dev :=
  (State.withoutSig_dev _).symm.trans ((congrArg State.dev (s.raiseInt_withoutSig seat b)).trans (State.withoutSig_dev s))
@[simp] theorem State.raiseInt_img (s : State) (seat b : Nat) : (s.raiseInt seat b).img = s.img :=
  (State.withoutSig_img _).symm.trans ((congrArg State.img (s.raiseInt_withoutSig seat b)).trans (State.withoutSig_img s))
@[simp] theorem State.raiseInt_flash (s : State) (seat b : Nat) : (s.raiseInt seat b).flash = s.flash :=
  (State.withoutSig_flash _).symm.trans ((congrArg State.flash (s.raiseInt_withoutSig seat b)).trans (State.withoutSig_flash s))
@[simp] theorem State.raiseInt_rec_ (s : State) (seat b : Nat) : (s.raiseInt seat b).rec' = s.rec' :=
  (State.withoutSig_rec_ _).symm.trans ((congrArg State.rec' (s.raiseInt_withoutSig seat b)).trans (State.withoutSig_rec_ s))
@[simp] theorem State.raiseInt_time (s : State) (seat b : Nat) : (s.raiseInt seat b).time = s.time :=
  (State.withoutSig_time _).symm.trans ((congrArg State.time (s.raiseInt_withoutSig seat b)).trans (State.withoutSig_time s))
@[simp] theorem State.raiseInt_net (s : State) (seat b : Nat) : (s.raiseInt seat b).net = s.net :=
  (State.withoutSig_net _).symm.trans ((congrArg State.net (s.raiseInt_withoutSig seat b)).trans (State.withoutSig_net s))
@[simp] theorem State.raiseInt_cam (s : State) (seat b : Nat) : (s.raiseInt seat b).cam = s.cam :=
  (State.withoutSig_cam _).symm.trans ((congrArg State.cam (s.raiseInt_withoutSig seat b)).trans (State.withoutSig_cam s))
@[simp] theorem State.raiseInt_sched (s : State) (seat b : Nat) : (s.raiseInt seat b).sched = s.sched :=
  (State.withoutSig_sched _).symm.trans ((congrArg State.sched (s.raiseInt_withoutSig seat b)).trans (State.withoutSig_sched s))
@[simp] theorem State.raiseInt_ledg (s : State) (seat b : Nat) : (s.raiseInt seat b).ledg = s.ledg :=
  (State.withoutSig_ledg _).symm.trans ((congrArg State.ledg (s.raiseInt_withoutSig seat b)).trans (State.withoutSig_ledg s))
@[simp] theorem State.raiseInt_motion (s : State) (seat b : Nat) : (s.raiseInt seat b).motion = s.motion :=
  (State.withoutSig_motion _).symm.trans ((congrArg State.motion (s.raiseInt_withoutSig seat b)).trans (State.withoutSig_motion s))
@[simp] theorem State.raiseInt_field (s : State) (seat b : Nat) : (s.raiseInt seat b).field = s.field :=
  (State.withoutSig_field _).symm.trans ((congrArg State.field (s.raiseInt_withoutSig seat b)).trans (State.withoutSig_field s))
@[simp] theorem State.raiseInt_cap (s : State) (seat b : Nat) : (s.raiseInt seat b).cap = s.cap :=
  (State.withoutSig_cap _).symm.trans ((congrArg State.cap (s.raiseInt_withoutSig seat b)).trans (State.withoutSig_cap s))
@[simp] theorem State.raiseInt_train (s : State) (seat b : Nat) : (s.raiseInt seat b).train = s.train :=
  (State.withoutSig_train _).symm.trans ((congrArg State.train (s.raiseInt_withoutSig seat b)).trans (State.withoutSig_train s))
@[simp] theorem State.raiseInt_backup (s : State) (seat b : Nat) : (s.raiseInt seat b).backup = s.backup :=
  (State.withoutSig_backup _).symm.trans ((congrArg State.backup (s.raiseInt_withoutSig seat b)).trans (State.withoutSig_backup s))
@[simp] theorem State.raiseInt_boot (s : State) (seat b : Nat) : (s.raiseInt seat b).boot = s.boot :=
  (State.withoutSig_boot _).symm.trans ((congrArg State.boot (s.raiseInt_withoutSig seat b)).trans (State.withoutSig_boot s))
@[simp] theorem State.raiseInt_sec (s : State) (seat b : Nat) : (s.raiseInt seat b).sec = s.sec :=
  (State.withoutSig_sec _).symm.trans ((congrArg State.sec (s.raiseInt_withoutSig seat b)).trans (State.withoutSig_sec s))
@[simp] theorem State.raiseInt_lanes (s : State) (seat b : Nat) : (s.raiseInt seat b).lanes = s.lanes :=
  (State.withoutSig_lanes _).symm.trans ((congrArg State.lanes (s.raiseInt_withoutSig seat b)).trans (State.withoutSig_lanes s))
@[simp] theorem State.raiseInt_mc (s : State) (seat b : Nat) : (s.raiseInt seat b).mc = s.mc :=
  (State.withoutSig_mc _).symm.trans ((congrArg State.mc (s.raiseInt_withoutSig seat b)).trans (State.withoutSig_mc s))
@[simp] theorem State.raiseInt_free (s : State) (seat b : Nat) : (s.raiseInt seat b).free = s.free :=
  (State.withoutSig_free _).symm.trans ((congrArg State.free (s.raiseInt_withoutSig seat b)).trans (State.withoutSig_free s))
@[simp] theorem State.raiseInt_pending (s : State) (seat b : Nat) : (s.raiseInt seat b).pending = s.pending :=
  (State.withoutSig_pending _).symm.trans ((congrArg State.pending (s.raiseInt_withoutSig seat b)).trans (State.withoutSig_pending s))

@[simp] theorem State.raiseAll_withoutSig (s : State) (b : Nat) :
    (s.raiseAll b).withoutSig = s.withoutSig := by simp [State.raiseAll]

@[simp] theorem State.raiseAll_withoutDone (s : State) (b : Nat) : (s.raiseAll b).withoutDone = s.withoutDone :=
  (State.withoutSig_withoutDone _).symm.trans
    ((congrArg State.withoutDone (s.raiseAll_withoutSig b)).trans (State.withoutSig_withoutDone s))
@[simp] theorem State.raiseAll_mem (s : State) (b : Nat) : (s.raiseAll b).mem = s.mem :=
  (State.withoutSig_mem _).symm.trans ((congrArg State.mem (s.raiseAll_withoutSig b)).trans (State.withoutSig_mem s))
@[simp] theorem State.raiseAll_dev (s : State) (b : Nat) : (s.raiseAll b).dev = s.dev :=
  (State.withoutSig_dev _).symm.trans ((congrArg State.dev (s.raiseAll_withoutSig b)).trans (State.withoutSig_dev s))
@[simp] theorem State.raiseAll_img (s : State) (b : Nat) : (s.raiseAll b).img = s.img :=
  (State.withoutSig_img _).symm.trans ((congrArg State.img (s.raiseAll_withoutSig b)).trans (State.withoutSig_img s))
@[simp] theorem State.raiseAll_flash (s : State) (b : Nat) : (s.raiseAll b).flash = s.flash :=
  (State.withoutSig_flash _).symm.trans ((congrArg State.flash (s.raiseAll_withoutSig b)).trans (State.withoutSig_flash s))
@[simp] theorem State.raiseAll_rec_ (s : State) (b : Nat) : (s.raiseAll b).rec' = s.rec' :=
  (State.withoutSig_rec_ _).symm.trans ((congrArg State.rec' (s.raiseAll_withoutSig b)).trans (State.withoutSig_rec_ s))
@[simp] theorem State.raiseAll_time (s : State) (b : Nat) : (s.raiseAll b).time = s.time :=
  (State.withoutSig_time _).symm.trans ((congrArg State.time (s.raiseAll_withoutSig b)).trans (State.withoutSig_time s))
@[simp] theorem State.raiseAll_net (s : State) (b : Nat) : (s.raiseAll b).net = s.net :=
  (State.withoutSig_net _).symm.trans ((congrArg State.net (s.raiseAll_withoutSig b)).trans (State.withoutSig_net s))
@[simp] theorem State.raiseAll_cam (s : State) (b : Nat) : (s.raiseAll b).cam = s.cam :=
  (State.withoutSig_cam _).symm.trans ((congrArg State.cam (s.raiseAll_withoutSig b)).trans (State.withoutSig_cam s))
@[simp] theorem State.raiseAll_sched (s : State) (b : Nat) : (s.raiseAll b).sched = s.sched :=
  (State.withoutSig_sched _).symm.trans ((congrArg State.sched (s.raiseAll_withoutSig b)).trans (State.withoutSig_sched s))
@[simp] theorem State.raiseAll_ledg (s : State) (b : Nat) : (s.raiseAll b).ledg = s.ledg :=
  (State.withoutSig_ledg _).symm.trans ((congrArg State.ledg (s.raiseAll_withoutSig b)).trans (State.withoutSig_ledg s))
@[simp] theorem State.raiseAll_motion (s : State) (b : Nat) : (s.raiseAll b).motion = s.motion :=
  (State.withoutSig_motion _).symm.trans ((congrArg State.motion (s.raiseAll_withoutSig b)).trans (State.withoutSig_motion s))
@[simp] theorem State.raiseAll_field (s : State) (b : Nat) : (s.raiseAll b).field = s.field :=
  (State.withoutSig_field _).symm.trans ((congrArg State.field (s.raiseAll_withoutSig b)).trans (State.withoutSig_field s))
@[simp] theorem State.raiseAll_cap (s : State) (b : Nat) : (s.raiseAll b).cap = s.cap :=
  (State.withoutSig_cap _).symm.trans ((congrArg State.cap (s.raiseAll_withoutSig b)).trans (State.withoutSig_cap s))
@[simp] theorem State.raiseAll_train (s : State) (b : Nat) : (s.raiseAll b).train = s.train :=
  (State.withoutSig_train _).symm.trans ((congrArg State.train (s.raiseAll_withoutSig b)).trans (State.withoutSig_train s))
@[simp] theorem State.raiseAll_backup (s : State) (b : Nat) : (s.raiseAll b).backup = s.backup :=
  (State.withoutSig_backup _).symm.trans ((congrArg State.backup (s.raiseAll_withoutSig b)).trans (State.withoutSig_backup s))
@[simp] theorem State.raiseAll_boot (s : State) (b : Nat) : (s.raiseAll b).boot = s.boot :=
  (State.withoutSig_boot _).symm.trans ((congrArg State.boot (s.raiseAll_withoutSig b)).trans (State.withoutSig_boot s))
@[simp] theorem State.raiseAll_sec (s : State) (b : Nat) : (s.raiseAll b).sec = s.sec :=
  (State.withoutSig_sec _).symm.trans ((congrArg State.sec (s.raiseAll_withoutSig b)).trans (State.withoutSig_sec s))
@[simp] theorem State.raiseAll_lanes (s : State) (b : Nat) : (s.raiseAll b).lanes = s.lanes :=
  (State.withoutSig_lanes _).symm.trans ((congrArg State.lanes (s.raiseAll_withoutSig b)).trans (State.withoutSig_lanes s))
@[simp] theorem State.raiseAll_mc (s : State) (b : Nat) : (s.raiseAll b).mc = s.mc :=
  (State.withoutSig_mc _).symm.trans ((congrArg State.mc (s.raiseAll_withoutSig b)).trans (State.withoutSig_mc s))
@[simp] theorem State.raiseAll_free (s : State) (b : Nat) : (s.raiseAll b).free = s.free :=
  (State.withoutSig_free _).symm.trans ((congrArg State.free (s.raiseAll_withoutSig b)).trans (State.withoutSig_free s))
@[simp] theorem State.raiseAll_pending (s : State) (b : Nat) : (s.raiseAll b).pending = s.pending :=
  (State.withoutSig_pending _).symm.trans ((congrArg State.pending (s.raiseAll_withoutSig b)).trans (State.withoutSig_pending s))

@[simp] theorem State.raisePeers_withoutSig (s : State) (seat b : Nat) :
    (s.raisePeers seat b).withoutSig = s.withoutSig := by
  unfold State.raisePeers
  suffices h : ∀ (l : List Nat) (s : State),
      (l.foldl (fun s p => if p ≠ seat ∧ s.connected p then s.raiseInt p b else s) s).withoutSig = s.withoutSig from
    h _ s
  intro l
  induction l with
  | nil => intro s; rfl
  | cons p l ih =>
    intro s
    rw [List.foldl_cons, ih]
    split <;> simp

@[simp] theorem State.raisePeers_withoutDone (s : State) (seat b : Nat) : (s.raisePeers seat b).withoutDone = s.withoutDone :=
  (State.withoutSig_withoutDone _).symm.trans
    ((congrArg State.withoutDone (s.raisePeers_withoutSig seat b)).trans (State.withoutSig_withoutDone s))
@[simp] theorem State.raisePeers_mem (s : State) (seat b : Nat) : (s.raisePeers seat b).mem = s.mem :=
  (State.withoutSig_mem _).symm.trans ((congrArg State.mem (s.raisePeers_withoutSig seat b)).trans (State.withoutSig_mem s))
@[simp] theorem State.raisePeers_dev (s : State) (seat b : Nat) : (s.raisePeers seat b).dev = s.dev :=
  (State.withoutSig_dev _).symm.trans ((congrArg State.dev (s.raisePeers_withoutSig seat b)).trans (State.withoutSig_dev s))
@[simp] theorem State.raisePeers_img (s : State) (seat b : Nat) : (s.raisePeers seat b).img = s.img :=
  (State.withoutSig_img _).symm.trans ((congrArg State.img (s.raisePeers_withoutSig seat b)).trans (State.withoutSig_img s))
@[simp] theorem State.raisePeers_flash (s : State) (seat b : Nat) : (s.raisePeers seat b).flash = s.flash :=
  (State.withoutSig_flash _).symm.trans ((congrArg State.flash (s.raisePeers_withoutSig seat b)).trans (State.withoutSig_flash s))
@[simp] theorem State.raisePeers_rec_ (s : State) (seat b : Nat) : (s.raisePeers seat b).rec' = s.rec' :=
  (State.withoutSig_rec_ _).symm.trans ((congrArg State.rec' (s.raisePeers_withoutSig seat b)).trans (State.withoutSig_rec_ s))
@[simp] theorem State.raisePeers_time (s : State) (seat b : Nat) : (s.raisePeers seat b).time = s.time :=
  (State.withoutSig_time _).symm.trans ((congrArg State.time (s.raisePeers_withoutSig seat b)).trans (State.withoutSig_time s))
@[simp] theorem State.raisePeers_net (s : State) (seat b : Nat) : (s.raisePeers seat b).net = s.net :=
  (State.withoutSig_net _).symm.trans ((congrArg State.net (s.raisePeers_withoutSig seat b)).trans (State.withoutSig_net s))
@[simp] theorem State.raisePeers_cam (s : State) (seat b : Nat) : (s.raisePeers seat b).cam = s.cam :=
  (State.withoutSig_cam _).symm.trans ((congrArg State.cam (s.raisePeers_withoutSig seat b)).trans (State.withoutSig_cam s))
@[simp] theorem State.raisePeers_sched (s : State) (seat b : Nat) : (s.raisePeers seat b).sched = s.sched :=
  (State.withoutSig_sched _).symm.trans ((congrArg State.sched (s.raisePeers_withoutSig seat b)).trans (State.withoutSig_sched s))
@[simp] theorem State.raisePeers_ledg (s : State) (seat b : Nat) : (s.raisePeers seat b).ledg = s.ledg :=
  (State.withoutSig_ledg _).symm.trans ((congrArg State.ledg (s.raisePeers_withoutSig seat b)).trans (State.withoutSig_ledg s))
@[simp] theorem State.raisePeers_motion (s : State) (seat b : Nat) : (s.raisePeers seat b).motion = s.motion :=
  (State.withoutSig_motion _).symm.trans ((congrArg State.motion (s.raisePeers_withoutSig seat b)).trans (State.withoutSig_motion s))
@[simp] theorem State.raisePeers_field (s : State) (seat b : Nat) : (s.raisePeers seat b).field = s.field :=
  (State.withoutSig_field _).symm.trans ((congrArg State.field (s.raisePeers_withoutSig seat b)).trans (State.withoutSig_field s))
@[simp] theorem State.raisePeers_cap (s : State) (seat b : Nat) : (s.raisePeers seat b).cap = s.cap :=
  (State.withoutSig_cap _).symm.trans ((congrArg State.cap (s.raisePeers_withoutSig seat b)).trans (State.withoutSig_cap s))
@[simp] theorem State.raisePeers_train (s : State) (seat b : Nat) : (s.raisePeers seat b).train = s.train :=
  (State.withoutSig_train _).symm.trans ((congrArg State.train (s.raisePeers_withoutSig seat b)).trans (State.withoutSig_train s))
@[simp] theorem State.raisePeers_backup (s : State) (seat b : Nat) : (s.raisePeers seat b).backup = s.backup :=
  (State.withoutSig_backup _).symm.trans ((congrArg State.backup (s.raisePeers_withoutSig seat b)).trans (State.withoutSig_backup s))
@[simp] theorem State.raisePeers_boot (s : State) (seat b : Nat) : (s.raisePeers seat b).boot = s.boot :=
  (State.withoutSig_boot _).symm.trans ((congrArg State.boot (s.raisePeers_withoutSig seat b)).trans (State.withoutSig_boot s))
@[simp] theorem State.raisePeers_sec (s : State) (seat b : Nat) : (s.raisePeers seat b).sec = s.sec :=
  (State.withoutSig_sec _).symm.trans ((congrArg State.sec (s.raisePeers_withoutSig seat b)).trans (State.withoutSig_sec s))
@[simp] theorem State.raisePeers_lanes (s : State) (seat b : Nat) : (s.raisePeers seat b).lanes = s.lanes :=
  (State.withoutSig_lanes _).symm.trans ((congrArg State.lanes (s.raisePeers_withoutSig seat b)).trans (State.withoutSig_lanes s))
@[simp] theorem State.raisePeers_mc (s : State) (seat b : Nat) : (s.raisePeers seat b).mc = s.mc :=
  (State.withoutSig_mc _).symm.trans ((congrArg State.mc (s.raisePeers_withoutSig seat b)).trans (State.withoutSig_mc s))
@[simp] theorem State.raisePeers_free (s : State) (seat b : Nat) : (s.raisePeers seat b).free = s.free :=
  (State.withoutSig_free _).symm.trans ((congrArg State.free (s.raisePeers_withoutSig seat b)).trans (State.withoutSig_free s))
@[simp] theorem State.raisePeers_pending (s : State) (seat b : Nat) : (s.raisePeers seat b).pending = s.pending :=
  (State.withoutSig_pending _).symm.trans ((congrArg State.pending (s.raisePeers_withoutSig seat b)).trans (State.withoutSig_pending s))

@[simp] theorem State.writeCqe_withoutDone (s : State) (c : CmdRef) (st r0 r1 : Nat) :
    (s.writeCqe c st r0 r1).withoutDone = s.withoutDone := by
  unfold State.writeCqe
  dsimp only
  repeat' split
  all_goals simp

@[simp] theorem State.writeCqe_dev (s : State) (c : CmdRef) (st r0 r1 : Nat) : (s.writeCqe c st r0 r1).dev = s.dev :=
  (State.withoutDone_dev _).symm.trans ((congrArg State.dev (s.writeCqe_withoutDone c st r0 r1)).trans (State.withoutDone_dev s))
@[simp] theorem State.writeCqe_img (s : State) (c : CmdRef) (st r0 r1 : Nat) : (s.writeCqe c st r0 r1).img = s.img :=
  (State.withoutDone_img _).symm.trans ((congrArg State.img (s.writeCqe_withoutDone c st r0 r1)).trans (State.withoutDone_img s))
@[simp] theorem State.writeCqe_flash (s : State) (c : CmdRef) (st r0 r1 : Nat) : (s.writeCqe c st r0 r1).flash = s.flash :=
  (State.withoutDone_flash _).symm.trans ((congrArg State.flash (s.writeCqe_withoutDone c st r0 r1)).trans (State.withoutDone_flash s))
@[simp] theorem State.writeCqe_time (s : State) (c : CmdRef) (st r0 r1 : Nat) : (s.writeCqe c st r0 r1).time = s.time :=
  (State.withoutDone_time _).symm.trans ((congrArg State.time (s.writeCqe_withoutDone c st r0 r1)).trans (State.withoutDone_time s))
@[simp] theorem State.writeCqe_net (s : State) (c : CmdRef) (st r0 r1 : Nat) : (s.writeCqe c st r0 r1).net = s.net :=
  (State.withoutDone_net _).symm.trans ((congrArg State.net (s.writeCqe_withoutDone c st r0 r1)).trans (State.withoutDone_net s))
@[simp] theorem State.writeCqe_cam (s : State) (c : CmdRef) (st r0 r1 : Nat) : (s.writeCqe c st r0 r1).cam = s.cam :=
  (State.withoutDone_cam _).symm.trans ((congrArg State.cam (s.writeCqe_withoutDone c st r0 r1)).trans (State.withoutDone_cam s))
@[simp] theorem State.writeCqe_sched (s : State) (c : CmdRef) (st r0 r1 : Nat) : (s.writeCqe c st r0 r1).sched = s.sched :=
  (State.withoutDone_sched _).symm.trans ((congrArg State.sched (s.writeCqe_withoutDone c st r0 r1)).trans (State.withoutDone_sched s))
@[simp] theorem State.writeCqe_ledg (s : State) (c : CmdRef) (st r0 r1 : Nat) : (s.writeCqe c st r0 r1).ledg = s.ledg :=
  (State.withoutDone_ledg _).symm.trans ((congrArg State.ledg (s.writeCqe_withoutDone c st r0 r1)).trans (State.withoutDone_ledg s))
@[simp] theorem State.writeCqe_motion (s : State) (c : CmdRef) (st r0 r1 : Nat) : (s.writeCqe c st r0 r1).motion = s.motion :=
  (State.withoutDone_motion _).symm.trans ((congrArg State.motion (s.writeCqe_withoutDone c st r0 r1)).trans (State.withoutDone_motion s))
@[simp] theorem State.writeCqe_field (s : State) (c : CmdRef) (st r0 r1 : Nat) : (s.writeCqe c st r0 r1).field = s.field :=
  (State.withoutDone_field _).symm.trans ((congrArg State.field (s.writeCqe_withoutDone c st r0 r1)).trans (State.withoutDone_field s))
@[simp] theorem State.writeCqe_cap (s : State) (c : CmdRef) (st r0 r1 : Nat) : (s.writeCqe c st r0 r1).cap = s.cap :=
  (State.withoutDone_cap _).symm.trans ((congrArg State.cap (s.writeCqe_withoutDone c st r0 r1)).trans (State.withoutDone_cap s))
@[simp] theorem State.writeCqe_train (s : State) (c : CmdRef) (st r0 r1 : Nat) : (s.writeCqe c st r0 r1).train = s.train :=
  (State.withoutDone_train _).symm.trans ((congrArg State.train (s.writeCqe_withoutDone c st r0 r1)).trans (State.withoutDone_train s))
@[simp] theorem State.writeCqe_backup (s : State) (c : CmdRef) (st r0 r1 : Nat) : (s.writeCqe c st r0 r1).backup = s.backup :=
  (State.withoutDone_backup _).symm.trans ((congrArg State.backup (s.writeCqe_withoutDone c st r0 r1)).trans (State.withoutDone_backup s))
@[simp] theorem State.writeCqe_boot (s : State) (c : CmdRef) (st r0 r1 : Nat) : (s.writeCqe c st r0 r1).boot = s.boot :=
  (State.withoutDone_boot _).symm.trans ((congrArg State.boot (s.writeCqe_withoutDone c st r0 r1)).trans (State.withoutDone_boot s))
@[simp] theorem State.writeCqe_sec (s : State) (c : CmdRef) (st r0 r1 : Nat) : (s.writeCqe c st r0 r1).sec = s.sec :=
  (State.withoutDone_sec _).symm.trans ((congrArg State.sec (s.writeCqe_withoutDone c st r0 r1)).trans (State.withoutDone_sec s))
@[simp] theorem State.writeCqe_lanes (s : State) (c : CmdRef) (st r0 r1 : Nat) : (s.writeCqe c st r0 r1).lanes = s.lanes :=
  (State.withoutDone_lanes _).symm.trans ((congrArg State.lanes (s.writeCqe_withoutDone c st r0 r1)).trans (State.withoutDone_lanes s))
@[simp] theorem State.writeCqe_free (s : State) (c : CmdRef) (st r0 r1 : Nat) : (s.writeCqe c st r0 r1).free = s.free :=
  (State.withoutDone_free _).symm.trans ((congrArg State.free (s.writeCqe_withoutDone c st r0 r1)).trans (State.withoutDone_free s))
@[simp] theorem State.writeCqe_pending (s : State) (c : CmdRef) (st r0 r1 : Nat) : (s.writeCqe c st r0 r1).pending = s.pending :=
  (State.withoutDone_pending _).symm.trans ((congrArg State.pending (s.writeCqe_withoutDone c st r0 r1)).trans (State.withoutDone_pending s))

@[simp] theorem State.finish_withoutDone (s : State) (c : CmdRef) (st r0 r1 : Nat) :
    (s.finish c st r0 r1).withoutDone = s.withoutDone := by
  unfold State.finish
  split
  · rfl
  · split
    · rfl
    · dsimp only
      rw [State.ringSettle_withoutDone]
      repeat' split
      all_goals simp [State.withoutDone]

@[simp] theorem State.finish_dev (s : State) (c : CmdRef) (st r0 r1 : Nat) : (s.finish c st r0 r1).dev = s.dev :=
  (State.withoutDone_dev _).symm.trans ((congrArg State.dev (s.finish_withoutDone c st r0 r1)).trans (State.withoutDone_dev s))
@[simp] theorem State.finish_img (s : State) (c : CmdRef) (st r0 r1 : Nat) : (s.finish c st r0 r1).img = s.img :=
  (State.withoutDone_img _).symm.trans ((congrArg State.img (s.finish_withoutDone c st r0 r1)).trans (State.withoutDone_img s))
@[simp] theorem State.finish_flash (s : State) (c : CmdRef) (st r0 r1 : Nat) : (s.finish c st r0 r1).flash = s.flash :=
  (State.withoutDone_flash _).symm.trans ((congrArg State.flash (s.finish_withoutDone c st r0 r1)).trans (State.withoutDone_flash s))
@[simp] theorem State.finish_time (s : State) (c : CmdRef) (st r0 r1 : Nat) : (s.finish c st r0 r1).time = s.time :=
  (State.withoutDone_time _).symm.trans ((congrArg State.time (s.finish_withoutDone c st r0 r1)).trans (State.withoutDone_time s))
@[simp] theorem State.finish_net (s : State) (c : CmdRef) (st r0 r1 : Nat) : (s.finish c st r0 r1).net = s.net :=
  (State.withoutDone_net _).symm.trans ((congrArg State.net (s.finish_withoutDone c st r0 r1)).trans (State.withoutDone_net s))
@[simp] theorem State.finish_cam (s : State) (c : CmdRef) (st r0 r1 : Nat) : (s.finish c st r0 r1).cam = s.cam :=
  (State.withoutDone_cam _).symm.trans ((congrArg State.cam (s.finish_withoutDone c st r0 r1)).trans (State.withoutDone_cam s))
@[simp] theorem State.finish_sched (s : State) (c : CmdRef) (st r0 r1 : Nat) : (s.finish c st r0 r1).sched = s.sched :=
  (State.withoutDone_sched _).symm.trans ((congrArg State.sched (s.finish_withoutDone c st r0 r1)).trans (State.withoutDone_sched s))
@[simp] theorem State.finish_ledg (s : State) (c : CmdRef) (st r0 r1 : Nat) : (s.finish c st r0 r1).ledg = s.ledg :=
  (State.withoutDone_ledg _).symm.trans ((congrArg State.ledg (s.finish_withoutDone c st r0 r1)).trans (State.withoutDone_ledg s))
@[simp] theorem State.finish_motion (s : State) (c : CmdRef) (st r0 r1 : Nat) : (s.finish c st r0 r1).motion = s.motion :=
  (State.withoutDone_motion _).symm.trans ((congrArg State.motion (s.finish_withoutDone c st r0 r1)).trans (State.withoutDone_motion s))
@[simp] theorem State.finish_field (s : State) (c : CmdRef) (st r0 r1 : Nat) : (s.finish c st r0 r1).field = s.field :=
  (State.withoutDone_field _).symm.trans ((congrArg State.field (s.finish_withoutDone c st r0 r1)).trans (State.withoutDone_field s))
@[simp] theorem State.finish_cap (s : State) (c : CmdRef) (st r0 r1 : Nat) : (s.finish c st r0 r1).cap = s.cap :=
  (State.withoutDone_cap _).symm.trans ((congrArg State.cap (s.finish_withoutDone c st r0 r1)).trans (State.withoutDone_cap s))
@[simp] theorem State.finish_train (s : State) (c : CmdRef) (st r0 r1 : Nat) : (s.finish c st r0 r1).train = s.train :=
  (State.withoutDone_train _).symm.trans ((congrArg State.train (s.finish_withoutDone c st r0 r1)).trans (State.withoutDone_train s))
@[simp] theorem State.finish_backup (s : State) (c : CmdRef) (st r0 r1 : Nat) : (s.finish c st r0 r1).backup = s.backup :=
  (State.withoutDone_backup _).symm.trans ((congrArg State.backup (s.finish_withoutDone c st r0 r1)).trans (State.withoutDone_backup s))
@[simp] theorem State.finish_boot (s : State) (c : CmdRef) (st r0 r1 : Nat) : (s.finish c st r0 r1).boot = s.boot :=
  (State.withoutDone_boot _).symm.trans ((congrArg State.boot (s.finish_withoutDone c st r0 r1)).trans (State.withoutDone_boot s))
@[simp] theorem State.finish_sec (s : State) (c : CmdRef) (st r0 r1 : Nat) : (s.finish c st r0 r1).sec = s.sec :=
  (State.withoutDone_sec _).symm.trans ((congrArg State.sec (s.finish_withoutDone c st r0 r1)).trans (State.withoutDone_sec s))
@[simp] theorem State.finish_lanes (s : State) (c : CmdRef) (st r0 r1 : Nat) : (s.finish c st r0 r1).lanes = s.lanes :=
  (State.withoutDone_lanes _).symm.trans ((congrArg State.lanes (s.finish_withoutDone c st r0 r1)).trans (State.withoutDone_lanes s))
@[simp] theorem State.finish_free (s : State) (c : CmdRef) (st r0 r1 : Nat) : (s.finish c st r0 r1).free = s.free :=
  (State.withoutDone_free _).symm.trans ((congrArg State.free (s.finish_withoutDone c st r0 r1)).trans (State.withoutDone_free s))
@[simp] theorem State.finish_pending (s : State) (c : CmdRef) (st r0 r1 : Nat) : (s.finish c st r0 r1).pending = s.pending :=
  (State.withoutDone_pending _).symm.trans ((congrArg State.pending (s.finish_withoutDone c st r0 r1)).trans (State.withoutDone_pending s))

@[simp] theorem State.finishFor_withoutDone (s : State) (c : Option CmdRef) (st : Nat) :
    (s.finishFor c st).withoutDone = s.withoutDone := by
  unfold State.finishFor
  split <;> simp

@[simp] theorem State.finishFor_dev (s : State) (c : Option CmdRef) (st : Nat) : (s.finishFor c st).dev = s.dev :=
  (State.withoutDone_dev _).symm.trans ((congrArg State.dev (s.finishFor_withoutDone c st)).trans (State.withoutDone_dev s))
@[simp] theorem State.finishFor_img (s : State) (c : Option CmdRef) (st : Nat) : (s.finishFor c st).img = s.img :=
  (State.withoutDone_img _).symm.trans ((congrArg State.img (s.finishFor_withoutDone c st)).trans (State.withoutDone_img s))
@[simp] theorem State.finishFor_flash (s : State) (c : Option CmdRef) (st : Nat) : (s.finishFor c st).flash = s.flash :=
  (State.withoutDone_flash _).symm.trans ((congrArg State.flash (s.finishFor_withoutDone c st)).trans (State.withoutDone_flash s))
@[simp] theorem State.finishFor_time (s : State) (c : Option CmdRef) (st : Nat) : (s.finishFor c st).time = s.time :=
  (State.withoutDone_time _).symm.trans ((congrArg State.time (s.finishFor_withoutDone c st)).trans (State.withoutDone_time s))
@[simp] theorem State.finishFor_net (s : State) (c : Option CmdRef) (st : Nat) : (s.finishFor c st).net = s.net :=
  (State.withoutDone_net _).symm.trans ((congrArg State.net (s.finishFor_withoutDone c st)).trans (State.withoutDone_net s))
@[simp] theorem State.finishFor_cam (s : State) (c : Option CmdRef) (st : Nat) : (s.finishFor c st).cam = s.cam :=
  (State.withoutDone_cam _).symm.trans ((congrArg State.cam (s.finishFor_withoutDone c st)).trans (State.withoutDone_cam s))
@[simp] theorem State.finishFor_sched (s : State) (c : Option CmdRef) (st : Nat) : (s.finishFor c st).sched = s.sched :=
  (State.withoutDone_sched _).symm.trans ((congrArg State.sched (s.finishFor_withoutDone c st)).trans (State.withoutDone_sched s))
@[simp] theorem State.finishFor_ledg (s : State) (c : Option CmdRef) (st : Nat) : (s.finishFor c st).ledg = s.ledg :=
  (State.withoutDone_ledg _).symm.trans ((congrArg State.ledg (s.finishFor_withoutDone c st)).trans (State.withoutDone_ledg s))
@[simp] theorem State.finishFor_motion (s : State) (c : Option CmdRef) (st : Nat) : (s.finishFor c st).motion = s.motion :=
  (State.withoutDone_motion _).symm.trans ((congrArg State.motion (s.finishFor_withoutDone c st)).trans (State.withoutDone_motion s))
@[simp] theorem State.finishFor_field (s : State) (c : Option CmdRef) (st : Nat) : (s.finishFor c st).field = s.field :=
  (State.withoutDone_field _).symm.trans ((congrArg State.field (s.finishFor_withoutDone c st)).trans (State.withoutDone_field s))
@[simp] theorem State.finishFor_cap (s : State) (c : Option CmdRef) (st : Nat) : (s.finishFor c st).cap = s.cap :=
  (State.withoutDone_cap _).symm.trans ((congrArg State.cap (s.finishFor_withoutDone c st)).trans (State.withoutDone_cap s))
@[simp] theorem State.finishFor_train (s : State) (c : Option CmdRef) (st : Nat) : (s.finishFor c st).train = s.train :=
  (State.withoutDone_train _).symm.trans ((congrArg State.train (s.finishFor_withoutDone c st)).trans (State.withoutDone_train s))
@[simp] theorem State.finishFor_backup (s : State) (c : Option CmdRef) (st : Nat) : (s.finishFor c st).backup = s.backup :=
  (State.withoutDone_backup _).symm.trans ((congrArg State.backup (s.finishFor_withoutDone c st)).trans (State.withoutDone_backup s))
@[simp] theorem State.finishFor_boot (s : State) (c : Option CmdRef) (st : Nat) : (s.finishFor c st).boot = s.boot :=
  (State.withoutDone_boot _).symm.trans ((congrArg State.boot (s.finishFor_withoutDone c st)).trans (State.withoutDone_boot s))
@[simp] theorem State.finishFor_sec (s : State) (c : Option CmdRef) (st : Nat) : (s.finishFor c st).sec = s.sec :=
  (State.withoutDone_sec _).symm.trans ((congrArg State.sec (s.finishFor_withoutDone c st)).trans (State.withoutDone_sec s))
@[simp] theorem State.finishFor_lanes (s : State) (c : Option CmdRef) (st : Nat) : (s.finishFor c st).lanes = s.lanes :=
  (State.withoutDone_lanes _).symm.trans ((congrArg State.lanes (s.finishFor_withoutDone c st)).trans (State.withoutDone_lanes s))
@[simp] theorem State.finishFor_free (s : State) (c : Option CmdRef) (st : Nat) : (s.finishFor c st).free = s.free :=
  (State.withoutDone_free _).symm.trans ((congrArg State.free (s.finishFor_withoutDone c st)).trans (State.withoutDone_free s))
@[simp] theorem State.finishFor_pending (s : State) (c : Option CmdRef) (st : Nat) : (s.finishFor c st).pending = s.pending :=
  (State.withoutDone_pending _).symm.trans ((congrArg State.pending (s.finishFor_withoutDone c st)).trans (State.withoutDone_pending s))

/-! What a completion may change beyond that is the image state, where its entry falls into the staging region
(02_deurzor_image.md R56). -/

/-- The state without what a completion or a write into the staging region changes. -/
def State.withoutTold (s : State) : State := { s.withoutDone with img := {} }

theorem State.withoutTold_dev (s : State) : s.withoutTold.dev = s.dev := rfl
theorem State.withoutTold_flash (s : State) : s.withoutTold.flash = s.flash := rfl
theorem State.withoutTold_time (s : State) : s.withoutTold.time = s.time := rfl
theorem State.withoutTold_net (s : State) : s.withoutTold.net = s.net := rfl
theorem State.withoutTold_cam (s : State) : s.withoutTold.cam = s.cam := rfl
theorem State.withoutTold_sched (s : State) : s.withoutTold.sched = s.sched := rfl
theorem State.withoutTold_ledg (s : State) : s.withoutTold.ledg = s.ledg := rfl
theorem State.withoutTold_motion (s : State) : s.withoutTold.motion = s.motion := rfl
theorem State.withoutTold_field (s : State) : s.withoutTold.field = s.field := rfl
theorem State.withoutTold_cap (s : State) : s.withoutTold.cap = s.cap := rfl
theorem State.withoutTold_train (s : State) : s.withoutTold.train = s.train := rfl
theorem State.withoutTold_backup (s : State) : s.withoutTold.backup = s.backup := rfl
theorem State.withoutTold_boot (s : State) : s.withoutTold.boot = s.boot := rfl
theorem State.withoutTold_sec (s : State) : s.withoutTold.sec = s.sec := rfl
theorem State.withoutTold_lanes (s : State) : s.withoutTold.lanes = s.lanes := rfl
theorem State.withoutTold_free (s : State) : s.withoutTold.free = s.free := rfl
theorem State.withoutTold_pending (s : State) : s.withoutTold.pending = s.pending := rfl

/-- What keeps everything but what a completion changes keeps all the more what a staging write leaves. -/
theorem State.withoutTold_of_withoutDone {s t : State} (h : s.withoutDone = t.withoutDone) :
    s.withoutTold = t.withoutTold := by
  unfold State.withoutTold
  rw [h]

@[simp] theorem State.log_withoutTold (s : State) (e : EvRec) : (s.log e).withoutTold = s.withoutTold :=
  State.withoutTold_of_withoutDone (s.log_withoutDone e)
@[simp] theorem State.store_withoutTold (s : State) (a : Nat) (d : Bytes) : (s.store a d).withoutTold = s.withoutTold :=
  State.withoutTold_of_withoutDone (s.store_withoutDone a d)
@[simp] theorem State.finish_withoutTold (s : State) (c : CmdRef) (st r0 r1 : Nat) :
    (s.finish c st r0 r1).withoutTold = s.withoutTold := State.withoutTold_of_withoutDone (s.finish_withoutDone c st r0 r1)
@[simp] theorem State.finishFor_withoutTold (s : State) (c : Option CmdRef) (st : Nat) :
    (s.finishFor c st).withoutTold = s.withoutTold := State.withoutTold_of_withoutDone (s.finishFor_withoutDone c st)
@[simp] theorem State.setImg_withoutTold (s : State) (g : ImgState) : ({ s with img := g } : State).withoutTold = s.withoutTold := rfl
@[simp] theorem State.dropItem_withoutTold (s : State) (it : LaunchItem) : (s.dropItem it).withoutTold = s.withoutTold := rfl
@[simp] theorem State.autoFail_withoutTold (s : State) (code : Nat) : (s.autoFail code).withoutTold = s.withoutTold := by
  simp [State.autoFail]

/-- A write that misses the staging region leaves its state alone. -/
theorem State.watchStaging_outside (s : State) (who a n : Nat)
    (h : n = 0 ∨ halfBase s.stagingHalf + 0x120000000 ≤ a ∨ a + n ≤ halfBase s.stagingHalf) :
    s.watchStaging who a n = s := by
  simp [State.watchStaging, h]

/-- A completion whose entry lies outside device memory does no more than `finish`. -/
theorem State.complete_eq_finish (s : State) (c : CmdRef) (st r0 r1 : Nat) (h : s.cqePlace c = none) :
    s.complete c st r0 r1 = s.finish c st r0 r1 := by
  simp [State.complete, h]

@[simp] theorem State.watchStaging_withoutTold (s : State) (who a n : Nat) :
    (s.watchStaging who a n).withoutTold = s.withoutTold := by
  unfold State.watchStaging
  dsimp only
  repeat' split
  all_goals simp

@[simp] theorem State.watchStaging_dev (s : State) (who a n : Nat) : (s.watchStaging who a n).dev = s.dev :=
  (State.withoutTold_dev _).symm.trans ((congrArg State.dev (s.watchStaging_withoutTold who a n)).trans (State.withoutTold_dev s))
@[simp] theorem State.watchStaging_flash (s : State) (who a n : Nat) : (s.watchStaging who a n).flash = s.flash :=
  (State.withoutTold_flash _).symm.trans ((congrArg State.flash (s.watchStaging_withoutTold who a n)).trans (State.withoutTold_flash s))
@[simp] theorem State.watchStaging_time (s : State) (who a n : Nat) : (s.watchStaging who a n).time = s.time :=
  (State.withoutTold_time _).symm.trans ((congrArg State.time (s.watchStaging_withoutTold who a n)).trans (State.withoutTold_time s))
@[simp] theorem State.watchStaging_net (s : State) (who a n : Nat) : (s.watchStaging who a n).net = s.net :=
  (State.withoutTold_net _).symm.trans ((congrArg State.net (s.watchStaging_withoutTold who a n)).trans (State.withoutTold_net s))
@[simp] theorem State.watchStaging_cam (s : State) (who a n : Nat) : (s.watchStaging who a n).cam = s.cam :=
  (State.withoutTold_cam _).symm.trans ((congrArg State.cam (s.watchStaging_withoutTold who a n)).trans (State.withoutTold_cam s))
@[simp] theorem State.watchStaging_sched (s : State) (who a n : Nat) : (s.watchStaging who a n).sched = s.sched :=
  (State.withoutTold_sched _).symm.trans ((congrArg State.sched (s.watchStaging_withoutTold who a n)).trans (State.withoutTold_sched s))
@[simp] theorem State.watchStaging_ledg (s : State) (who a n : Nat) : (s.watchStaging who a n).ledg = s.ledg :=
  (State.withoutTold_ledg _).symm.trans ((congrArg State.ledg (s.watchStaging_withoutTold who a n)).trans (State.withoutTold_ledg s))
@[simp] theorem State.watchStaging_motion (s : State) (who a n : Nat) : (s.watchStaging who a n).motion = s.motion :=
  (State.withoutTold_motion _).symm.trans ((congrArg State.motion (s.watchStaging_withoutTold who a n)).trans (State.withoutTold_motion s))
@[simp] theorem State.watchStaging_field (s : State) (who a n : Nat) : (s.watchStaging who a n).field = s.field :=
  (State.withoutTold_field _).symm.trans ((congrArg State.field (s.watchStaging_withoutTold who a n)).trans (State.withoutTold_field s))
@[simp] theorem State.watchStaging_cap (s : State) (who a n : Nat) : (s.watchStaging who a n).cap = s.cap :=
  (State.withoutTold_cap _).symm.trans ((congrArg State.cap (s.watchStaging_withoutTold who a n)).trans (State.withoutTold_cap s))
@[simp] theorem State.watchStaging_train (s : State) (who a n : Nat) : (s.watchStaging who a n).train = s.train :=
  (State.withoutTold_train _).symm.trans ((congrArg State.train (s.watchStaging_withoutTold who a n)).trans (State.withoutTold_train s))
@[simp] theorem State.watchStaging_backup (s : State) (who a n : Nat) : (s.watchStaging who a n).backup = s.backup :=
  (State.withoutTold_backup _).symm.trans ((congrArg State.backup (s.watchStaging_withoutTold who a n)).trans (State.withoutTold_backup s))
@[simp] theorem State.watchStaging_boot (s : State) (who a n : Nat) : (s.watchStaging who a n).boot = s.boot :=
  (State.withoutTold_boot _).symm.trans ((congrArg State.boot (s.watchStaging_withoutTold who a n)).trans (State.withoutTold_boot s))
@[simp] theorem State.watchStaging_sec (s : State) (who a n : Nat) : (s.watchStaging who a n).sec = s.sec :=
  (State.withoutTold_sec _).symm.trans ((congrArg State.sec (s.watchStaging_withoutTold who a n)).trans (State.withoutTold_sec s))
@[simp] theorem State.watchStaging_lanes (s : State) (who a n : Nat) : (s.watchStaging who a n).lanes = s.lanes :=
  (State.withoutTold_lanes _).symm.trans ((congrArg State.lanes (s.watchStaging_withoutTold who a n)).trans (State.withoutTold_lanes s))
@[simp] theorem State.watchStaging_free (s : State) (who a n : Nat) : (s.watchStaging who a n).free = s.free :=
  (State.withoutTold_free _).symm.trans ((congrArg State.free (s.watchStaging_withoutTold who a n)).trans (State.withoutTold_free s))
@[simp] theorem State.watchStaging_pending (s : State) (who a n : Nat) : (s.watchStaging who a n).pending = s.pending :=
  (State.withoutTold_pending _).symm.trans ((congrArg State.pending (s.watchStaging_withoutTold who a n)).trans (State.withoutTold_pending s))

@[simp] theorem State.storeFor_withoutTold (s : State) (who a : Nat) (d : Bytes) :
    (s.storeFor who a d).withoutTold = s.withoutTold := by
  simp [State.storeFor]

@[simp] theorem State.storeFor_dev (s : State) (who a : Nat) (d : Bytes) : (s.storeFor who a d).dev = s.dev :=
  (State.withoutTold_dev _).symm.trans ((congrArg State.dev (s.storeFor_withoutTold who a d)).trans (State.withoutTold_dev s))
@[simp] theorem State.storeFor_flash (s : State) (who a : Nat) (d : Bytes) : (s.storeFor who a d).flash = s.flash :=
  (State.withoutTold_flash _).symm.trans ((congrArg State.flash (s.storeFor_withoutTold who a d)).trans (State.withoutTold_flash s))
@[simp] theorem State.storeFor_time (s : State) (who a : Nat) (d : Bytes) : (s.storeFor who a d).time = s.time :=
  (State.withoutTold_time _).symm.trans ((congrArg State.time (s.storeFor_withoutTold who a d)).trans (State.withoutTold_time s))
@[simp] theorem State.storeFor_net (s : State) (who a : Nat) (d : Bytes) : (s.storeFor who a d).net = s.net :=
  (State.withoutTold_net _).symm.trans ((congrArg State.net (s.storeFor_withoutTold who a d)).trans (State.withoutTold_net s))
@[simp] theorem State.storeFor_cam (s : State) (who a : Nat) (d : Bytes) : (s.storeFor who a d).cam = s.cam :=
  (State.withoutTold_cam _).symm.trans ((congrArg State.cam (s.storeFor_withoutTold who a d)).trans (State.withoutTold_cam s))
@[simp] theorem State.storeFor_sched (s : State) (who a : Nat) (d : Bytes) : (s.storeFor who a d).sched = s.sched :=
  (State.withoutTold_sched _).symm.trans ((congrArg State.sched (s.storeFor_withoutTold who a d)).trans (State.withoutTold_sched s))
@[simp] theorem State.storeFor_ledg (s : State) (who a : Nat) (d : Bytes) : (s.storeFor who a d).ledg = s.ledg :=
  (State.withoutTold_ledg _).symm.trans ((congrArg State.ledg (s.storeFor_withoutTold who a d)).trans (State.withoutTold_ledg s))
@[simp] theorem State.storeFor_motion (s : State) (who a : Nat) (d : Bytes) : (s.storeFor who a d).motion = s.motion :=
  (State.withoutTold_motion _).symm.trans ((congrArg State.motion (s.storeFor_withoutTold who a d)).trans (State.withoutTold_motion s))
@[simp] theorem State.storeFor_field (s : State) (who a : Nat) (d : Bytes) : (s.storeFor who a d).field = s.field :=
  (State.withoutTold_field _).symm.trans ((congrArg State.field (s.storeFor_withoutTold who a d)).trans (State.withoutTold_field s))
@[simp] theorem State.storeFor_cap (s : State) (who a : Nat) (d : Bytes) : (s.storeFor who a d).cap = s.cap :=
  (State.withoutTold_cap _).symm.trans ((congrArg State.cap (s.storeFor_withoutTold who a d)).trans (State.withoutTold_cap s))
@[simp] theorem State.storeFor_train (s : State) (who a : Nat) (d : Bytes) : (s.storeFor who a d).train = s.train :=
  (State.withoutTold_train _).symm.trans ((congrArg State.train (s.storeFor_withoutTold who a d)).trans (State.withoutTold_train s))
@[simp] theorem State.storeFor_backup (s : State) (who a : Nat) (d : Bytes) : (s.storeFor who a d).backup = s.backup :=
  (State.withoutTold_backup _).symm.trans ((congrArg State.backup (s.storeFor_withoutTold who a d)).trans (State.withoutTold_backup s))
@[simp] theorem State.storeFor_boot (s : State) (who a : Nat) (d : Bytes) : (s.storeFor who a d).boot = s.boot :=
  (State.withoutTold_boot _).symm.trans ((congrArg State.boot (s.storeFor_withoutTold who a d)).trans (State.withoutTold_boot s))
@[simp] theorem State.storeFor_sec (s : State) (who a : Nat) (d : Bytes) : (s.storeFor who a d).sec = s.sec :=
  (State.withoutTold_sec _).symm.trans ((congrArg State.sec (s.storeFor_withoutTold who a d)).trans (State.withoutTold_sec s))
@[simp] theorem State.storeFor_lanes (s : State) (who a : Nat) (d : Bytes) : (s.storeFor who a d).lanes = s.lanes :=
  (State.withoutTold_lanes _).symm.trans ((congrArg State.lanes (s.storeFor_withoutTold who a d)).trans (State.withoutTold_lanes s))
@[simp] theorem State.storeFor_free (s : State) (who a : Nat) (d : Bytes) : (s.storeFor who a d).free = s.free :=
  (State.withoutTold_free _).symm.trans ((congrArg State.free (s.storeFor_withoutTold who a d)).trans (State.withoutTold_free s))
@[simp] theorem State.storeFor_pending (s : State) (who a : Nat) (d : Bytes) : (s.storeFor who a d).pending = s.pending :=
  (State.withoutTold_pending _).symm.trans ((congrArg State.pending (s.storeFor_withoutTold who a d)).trans (State.withoutTold_pending s))

@[simp] theorem State.complete_withoutTold (s : State) (c : CmdRef) (st r0 r1 : Nat) :
    (s.complete c st r0 r1).withoutTold = s.withoutTold := by
  unfold State.complete
  dsimp only
  split <;> simp

@[simp] theorem State.complete_dev (s : State) (c : CmdRef) (st r0 r1 : Nat) : (s.complete c st r0 r1).dev = s.dev :=
  (State.withoutTold_dev _).symm.trans ((congrArg State.dev (s.complete_withoutTold c st r0 r1)).trans (State.withoutTold_dev s))
@[simp] theorem State.complete_flash (s : State) (c : CmdRef) (st r0 r1 : Nat) : (s.complete c st r0 r1).flash = s.flash :=
  (State.withoutTold_flash _).symm.trans ((congrArg State.flash (s.complete_withoutTold c st r0 r1)).trans (State.withoutTold_flash s))
@[simp] theorem State.complete_time (s : State) (c : CmdRef) (st r0 r1 : Nat) : (s.complete c st r0 r1).time = s.time :=
  (State.withoutTold_time _).symm.trans ((congrArg State.time (s.complete_withoutTold c st r0 r1)).trans (State.withoutTold_time s))
@[simp] theorem State.complete_net (s : State) (c : CmdRef) (st r0 r1 : Nat) : (s.complete c st r0 r1).net = s.net :=
  (State.withoutTold_net _).symm.trans ((congrArg State.net (s.complete_withoutTold c st r0 r1)).trans (State.withoutTold_net s))
@[simp] theorem State.complete_cam (s : State) (c : CmdRef) (st r0 r1 : Nat) : (s.complete c st r0 r1).cam = s.cam :=
  (State.withoutTold_cam _).symm.trans ((congrArg State.cam (s.complete_withoutTold c st r0 r1)).trans (State.withoutTold_cam s))
@[simp] theorem State.complete_sched (s : State) (c : CmdRef) (st r0 r1 : Nat) : (s.complete c st r0 r1).sched = s.sched :=
  (State.withoutTold_sched _).symm.trans ((congrArg State.sched (s.complete_withoutTold c st r0 r1)).trans (State.withoutTold_sched s))
@[simp] theorem State.complete_ledg (s : State) (c : CmdRef) (st r0 r1 : Nat) : (s.complete c st r0 r1).ledg = s.ledg :=
  (State.withoutTold_ledg _).symm.trans ((congrArg State.ledg (s.complete_withoutTold c st r0 r1)).trans (State.withoutTold_ledg s))
@[simp] theorem State.complete_motion (s : State) (c : CmdRef) (st r0 r1 : Nat) : (s.complete c st r0 r1).motion = s.motion :=
  (State.withoutTold_motion _).symm.trans ((congrArg State.motion (s.complete_withoutTold c st r0 r1)).trans (State.withoutTold_motion s))
@[simp] theorem State.complete_field (s : State) (c : CmdRef) (st r0 r1 : Nat) : (s.complete c st r0 r1).field = s.field :=
  (State.withoutTold_field _).symm.trans ((congrArg State.field (s.complete_withoutTold c st r0 r1)).trans (State.withoutTold_field s))
@[simp] theorem State.complete_cap (s : State) (c : CmdRef) (st r0 r1 : Nat) : (s.complete c st r0 r1).cap = s.cap :=
  (State.withoutTold_cap _).symm.trans ((congrArg State.cap (s.complete_withoutTold c st r0 r1)).trans (State.withoutTold_cap s))
@[simp] theorem State.complete_train (s : State) (c : CmdRef) (st r0 r1 : Nat) : (s.complete c st r0 r1).train = s.train :=
  (State.withoutTold_train _).symm.trans ((congrArg State.train (s.complete_withoutTold c st r0 r1)).trans (State.withoutTold_train s))
@[simp] theorem State.complete_backup (s : State) (c : CmdRef) (st r0 r1 : Nat) : (s.complete c st r0 r1).backup = s.backup :=
  (State.withoutTold_backup _).symm.trans ((congrArg State.backup (s.complete_withoutTold c st r0 r1)).trans (State.withoutTold_backup s))
@[simp] theorem State.complete_boot (s : State) (c : CmdRef) (st r0 r1 : Nat) : (s.complete c st r0 r1).boot = s.boot :=
  (State.withoutTold_boot _).symm.trans ((congrArg State.boot (s.complete_withoutTold c st r0 r1)).trans (State.withoutTold_boot s))
@[simp] theorem State.complete_sec (s : State) (c : CmdRef) (st r0 r1 : Nat) : (s.complete c st r0 r1).sec = s.sec :=
  (State.withoutTold_sec _).symm.trans ((congrArg State.sec (s.complete_withoutTold c st r0 r1)).trans (State.withoutTold_sec s))
@[simp] theorem State.complete_lanes (s : State) (c : CmdRef) (st r0 r1 : Nat) : (s.complete c st r0 r1).lanes = s.lanes :=
  (State.withoutTold_lanes _).symm.trans ((congrArg State.lanes (s.complete_withoutTold c st r0 r1)).trans (State.withoutTold_lanes s))
@[simp] theorem State.complete_free (s : State) (c : CmdRef) (st r0 r1 : Nat) : (s.complete c st r0 r1).free = s.free :=
  (State.withoutTold_free _).symm.trans ((congrArg State.free (s.complete_withoutTold c st r0 r1)).trans (State.withoutTold_free s))
@[simp] theorem State.complete_pending (s : State) (c : CmdRef) (st r0 r1 : Nat) : (s.complete c st r0 r1).pending = s.pending :=
  (State.withoutTold_pending _).symm.trans ((congrArg State.pending (s.complete_withoutTold c st r0 r1)).trans (State.withoutTold_pending s))

@[simp] theorem State.answer_withoutTold (s : State) (c : Option CmdRef) (st r0 r1 : Nat) :
    (s.answer c st r0 r1).withoutTold = s.withoutTold := by
  unfold State.answer
  split <;> simp

@[simp] theorem State.answer_dev (s : State) (c : Option CmdRef) (st r0 r1 : Nat) : (s.answer c st r0 r1).dev = s.dev :=
  (State.withoutTold_dev _).symm.trans ((congrArg State.dev (s.answer_withoutTold c st r0 r1)).trans (State.withoutTold_dev s))
@[simp] theorem State.answer_flash (s : State) (c : Option CmdRef) (st r0 r1 : Nat) : (s.answer c st r0 r1).flash = s.flash :=
  (State.withoutTold_flash _).symm.trans ((congrArg State.flash (s.answer_withoutTold c st r0 r1)).trans (State.withoutTold_flash s))
@[simp] theorem State.answer_time (s : State) (c : Option CmdRef) (st r0 r1 : Nat) : (s.answer c st r0 r1).time = s.time :=
  (State.withoutTold_time _).symm.trans ((congrArg State.time (s.answer_withoutTold c st r0 r1)).trans (State.withoutTold_time s))
@[simp] theorem State.answer_net (s : State) (c : Option CmdRef) (st r0 r1 : Nat) : (s.answer c st r0 r1).net = s.net :=
  (State.withoutTold_net _).symm.trans ((congrArg State.net (s.answer_withoutTold c st r0 r1)).trans (State.withoutTold_net s))
@[simp] theorem State.answer_cam (s : State) (c : Option CmdRef) (st r0 r1 : Nat) : (s.answer c st r0 r1).cam = s.cam :=
  (State.withoutTold_cam _).symm.trans ((congrArg State.cam (s.answer_withoutTold c st r0 r1)).trans (State.withoutTold_cam s))
@[simp] theorem State.answer_sched (s : State) (c : Option CmdRef) (st r0 r1 : Nat) : (s.answer c st r0 r1).sched = s.sched :=
  (State.withoutTold_sched _).symm.trans ((congrArg State.sched (s.answer_withoutTold c st r0 r1)).trans (State.withoutTold_sched s))
@[simp] theorem State.answer_ledg (s : State) (c : Option CmdRef) (st r0 r1 : Nat) : (s.answer c st r0 r1).ledg = s.ledg :=
  (State.withoutTold_ledg _).symm.trans ((congrArg State.ledg (s.answer_withoutTold c st r0 r1)).trans (State.withoutTold_ledg s))
@[simp] theorem State.answer_motion (s : State) (c : Option CmdRef) (st r0 r1 : Nat) : (s.answer c st r0 r1).motion = s.motion :=
  (State.withoutTold_motion _).symm.trans ((congrArg State.motion (s.answer_withoutTold c st r0 r1)).trans (State.withoutTold_motion s))
@[simp] theorem State.answer_field (s : State) (c : Option CmdRef) (st r0 r1 : Nat) : (s.answer c st r0 r1).field = s.field :=
  (State.withoutTold_field _).symm.trans ((congrArg State.field (s.answer_withoutTold c st r0 r1)).trans (State.withoutTold_field s))
@[simp] theorem State.answer_cap (s : State) (c : Option CmdRef) (st r0 r1 : Nat) : (s.answer c st r0 r1).cap = s.cap :=
  (State.withoutTold_cap _).symm.trans ((congrArg State.cap (s.answer_withoutTold c st r0 r1)).trans (State.withoutTold_cap s))
@[simp] theorem State.answer_train (s : State) (c : Option CmdRef) (st r0 r1 : Nat) : (s.answer c st r0 r1).train = s.train :=
  (State.withoutTold_train _).symm.trans ((congrArg State.train (s.answer_withoutTold c st r0 r1)).trans (State.withoutTold_train s))
@[simp] theorem State.answer_backup (s : State) (c : Option CmdRef) (st r0 r1 : Nat) : (s.answer c st r0 r1).backup = s.backup :=
  (State.withoutTold_backup _).symm.trans ((congrArg State.backup (s.answer_withoutTold c st r0 r1)).trans (State.withoutTold_backup s))
@[simp] theorem State.answer_boot (s : State) (c : Option CmdRef) (st r0 r1 : Nat) : (s.answer c st r0 r1).boot = s.boot :=
  (State.withoutTold_boot _).symm.trans ((congrArg State.boot (s.answer_withoutTold c st r0 r1)).trans (State.withoutTold_boot s))
@[simp] theorem State.answer_sec (s : State) (c : Option CmdRef) (st r0 r1 : Nat) : (s.answer c st r0 r1).sec = s.sec :=
  (State.withoutTold_sec _).symm.trans ((congrArg State.sec (s.answer_withoutTold c st r0 r1)).trans (State.withoutTold_sec s))
@[simp] theorem State.answer_lanes (s : State) (c : Option CmdRef) (st r0 r1 : Nat) : (s.answer c st r0 r1).lanes = s.lanes :=
  (State.withoutTold_lanes _).symm.trans ((congrArg State.lanes (s.answer_withoutTold c st r0 r1)).trans (State.withoutTold_lanes s))
@[simp] theorem State.answer_free (s : State) (c : Option CmdRef) (st r0 r1 : Nat) : (s.answer c st r0 r1).free = s.free :=
  (State.withoutTold_free _).symm.trans ((congrArg State.free (s.answer_withoutTold c st r0 r1)).trans (State.withoutTold_free s))
@[simp] theorem State.answer_pending (s : State) (c : Option CmdRef) (st r0 r1 : Nat) : (s.answer c st r0 r1).pending = s.pending :=
  (State.withoutTold_pending _).symm.trans ((congrArg State.pending (s.answer_withoutTold c st r0 r1)).trans (State.withoutTold_pending s))

end Sys2Proof.Machine
end

