-- ==== Sys2Proof/Laws/Host.lean ====
section
/-! SUPPORT. Taking a ring command: one lemma for the case that it runs and one for the case that every command
shares a refusal with it, and what taking leaves alone. -/

set_option Elab.async false

namespace Sys2Proof.Machine

@[simp] theorem State.arrive_withoutSig (s : State) (h : Hdr) (op : Nat) :
    (s.arrive h op).1.withoutSig = s.withoutSig := by
  have hh : ∀ (u : State) (x : HostState), State.withoutSig { u with host := x } = u.withoutSig := fun _ _ => rfl
  unfold State.arrive
  dsimp only
  rw [hh, State.count_withoutSig, State.setFld_withoutSig]

@[simp] theorem State.takes_withoutSig (s : State) (h : Hdr) (op : Nat) :
    (s.takes h op).1.withoutSig = s.withoutSig := by
  unfold State.takes
  rw [State.arrive_withoutSig, State.setFld_withoutSig]

@[simp] theorem State.arrive_mem (s : State) (h : Hdr) (op : Nat) : (s.arrive h op).1.mem = s.mem :=
  (State.withoutSig_mem _).symm.trans ((congrArg State.mem (s.arrive_withoutSig h op)).trans (State.withoutSig_mem s))
@[simp] theorem State.takes_mem (s : State) (h : Hdr) (op : Nat) : (s.takes h op).1.mem = s.mem :=
  (State.withoutSig_mem _).symm.trans ((congrArg State.mem (s.takes_withoutSig h op)).trans (State.withoutSig_mem s))
@[simp] theorem State.arrive_dev (s : State) (h : Hdr) (op : Nat) : (s.arrive h op).1.dev = s.dev :=
  (State.withoutSig_dev _).symm.trans ((congrArg State.dev (s.arrive_withoutSig h op)).trans (State.withoutSig_dev s))
@[simp] theorem State.takes_dev (s : State) (h : Hdr) (op : Nat) : (s.takes h op).1.dev = s.dev :=
  (State.withoutSig_dev _).symm.trans ((congrArg State.dev (s.takes_withoutSig h op)).trans (State.withoutSig_dev s))
@[simp] theorem State.arrive_img (s : State) (h : Hdr) (op : Nat) : (s.arrive h op).1.img = s.img :=
  (State.withoutSig_img _).symm.trans ((congrArg State.img (s.arrive_withoutSig h op)).trans (State.withoutSig_img s))
@[simp] theorem State.takes_img (s : State) (h : Hdr) (op : Nat) : (s.takes h op).1.img = s.img :=
  (State.withoutSig_img _).symm.trans ((congrArg State.img (s.takes_withoutSig h op)).trans (State.withoutSig_img s))
@[simp] theorem State.arrive_flash (s : State) (h : Hdr) (op : Nat) : (s.arrive h op).1.flash = s.flash :=
  (State.withoutSig_flash _).symm.trans ((congrArg State.flash (s.arrive_withoutSig h op)).trans (State.withoutSig_flash s))
@[simp] theorem State.takes_flash (s : State) (h : Hdr) (op : Nat) : (s.takes h op).1.flash = s.flash :=
  (State.withoutSig_flash _).symm.trans ((congrArg State.flash (s.takes_withoutSig h op)).trans (State.withoutSig_flash s))
@[simp] theorem State.arrive_rec_ (s : State) (h : Hdr) (op : Nat) : (s.arrive h op).1.rec' = s.rec' :=
  (State.withoutSig_rec_ _).symm.trans ((congrArg State.rec' (s.arrive_withoutSig h op)).trans (State.withoutSig_rec_ s))
@[simp] theorem State.takes_rec_ (s : State) (h : Hdr) (op : Nat) : (s.takes h op).1.rec' = s.rec' :=
  (State.withoutSig_rec_ _).symm.trans ((congrArg State.rec' (s.takes_withoutSig h op)).trans (State.withoutSig_rec_ s))
@[simp] theorem State.arrive_time (s : State) (h : Hdr) (op : Nat) : (s.arrive h op).1.time = s.time :=
  (State.withoutSig_time _).symm.trans ((congrArg State.time (s.arrive_withoutSig h op)).trans (State.withoutSig_time s))
@[simp] theorem State.takes_time (s : State) (h : Hdr) (op : Nat) : (s.takes h op).1.time = s.time :=
  (State.withoutSig_time _).symm.trans ((congrArg State.time (s.takes_withoutSig h op)).trans (State.withoutSig_time s))
@[simp] theorem State.arrive_net (s : State) (h : Hdr) (op : Nat) : (s.arrive h op).1.net = s.net :=
  (State.withoutSig_net _).symm.trans ((congrArg State.net (s.arrive_withoutSig h op)).trans (State.withoutSig_net s))
@[simp] theorem State.takes_net (s : State) (h : Hdr) (op : Nat) : (s.takes h op).1.net = s.net :=
  (State.withoutSig_net _).symm.trans ((congrArg State.net (s.takes_withoutSig h op)).trans (State.withoutSig_net s))
@[simp] theorem State.arrive_cam (s : State) (h : Hdr) (op : Nat) : (s.arrive h op).1.cam = s.cam :=
  (State.withoutSig_cam _).symm.trans ((congrArg State.cam (s.arrive_withoutSig h op)).trans (State.withoutSig_cam s))
@[simp] theorem State.takes_cam (s : State) (h : Hdr) (op : Nat) : (s.takes h op).1.cam = s.cam :=
  (State.withoutSig_cam _).symm.trans ((congrArg State.cam (s.takes_withoutSig h op)).trans (State.withoutSig_cam s))
@[simp] theorem State.arrive_sched (s : State) (h : Hdr) (op : Nat) : (s.arrive h op).1.sched = s.sched :=
  (State.withoutSig_sched _).symm.trans ((congrArg State.sched (s.arrive_withoutSig h op)).trans (State.withoutSig_sched s))
@[simp] theorem State.takes_sched (s : State) (h : Hdr) (op : Nat) : (s.takes h op).1.sched = s.sched :=
  (State.withoutSig_sched _).symm.trans ((congrArg State.sched (s.takes_withoutSig h op)).trans (State.withoutSig_sched s))
@[simp] theorem State.arrive_ledg (s : State) (h : Hdr) (op : Nat) : (s.arrive h op).1.ledg = s.ledg :=
  (State.withoutSig_ledg _).symm.trans ((congrArg State.ledg (s.arrive_withoutSig h op)).trans (State.withoutSig_ledg s))
@[simp] theorem State.takes_ledg (s : State) (h : Hdr) (op : Nat) : (s.takes h op).1.ledg = s.ledg :=
  (State.withoutSig_ledg _).symm.trans ((congrArg State.ledg (s.takes_withoutSig h op)).trans (State.withoutSig_ledg s))
@[simp] theorem State.arrive_motion (s : State) (h : Hdr) (op : Nat) : (s.arrive h op).1.motion = s.motion :=
  (State.withoutSig_motion _).symm.trans ((congrArg State.motion (s.arrive_withoutSig h op)).trans (State.withoutSig_motion s))
@[simp] theorem State.takes_motion (s : State) (h : Hdr) (op : Nat) : (s.takes h op).1.motion = s.motion :=
  (State.withoutSig_motion _).symm.trans ((congrArg State.motion (s.takes_withoutSig h op)).trans (State.withoutSig_motion s))
@[simp] theorem State.arrive_field (s : State) (h : Hdr) (op : Nat) : (s.arrive h op).1.field = s.field :=
  (State.withoutSig_field _).symm.trans ((congrArg State.field (s.arrive_withoutSig h op)).trans (State.withoutSig_field s))
@[simp] theorem State.takes_field (s : State) (h : Hdr) (op : Nat) : (s.takes h op).1.field = s.field :=
  (State.withoutSig_field _).symm.trans ((congrArg State.field (s.takes_withoutSig h op)).trans (State.withoutSig_field s))
@[simp] theorem State.arrive_cap (s : State) (h : Hdr) (op : Nat) : (s.arrive h op).1.cap = s.cap :=
  (State.withoutSig_cap _).symm.trans ((congrArg State.cap (s.arrive_withoutSig h op)).trans (State.withoutSig_cap s))
@[simp] theorem State.takes_cap (s : State) (h : Hdr) (op : Nat) : (s.takes h op).1.cap = s.cap :=
  (State.withoutSig_cap _).symm.trans ((congrArg State.cap (s.takes_withoutSig h op)).trans (State.withoutSig_cap s))
@[simp] theorem State.arrive_train (s : State) (h : Hdr) (op : Nat) : (s.arrive h op).1.train = s.train :=
  (State.withoutSig_train _).symm.trans ((congrArg State.train (s.arrive_withoutSig h op)).trans (State.withoutSig_train s))
@[simp] theorem State.takes_train (s : State) (h : Hdr) (op : Nat) : (s.takes h op).1.train = s.train :=
  (State.withoutSig_train _).symm.trans ((congrArg State.train (s.takes_withoutSig h op)).trans (State.withoutSig_train s))
@[simp] theorem State.arrive_backup (s : State) (h : Hdr) (op : Nat) : (s.arrive h op).1.backup = s.backup :=
  (State.withoutSig_backup _).symm.trans ((congrArg State.backup (s.arrive_withoutSig h op)).trans (State.withoutSig_backup s))
@[simp] theorem State.takes_backup (s : State) (h : Hdr) (op : Nat) : (s.takes h op).1.backup = s.backup :=
  (State.withoutSig_backup _).symm.trans ((congrArg State.backup (s.takes_withoutSig h op)).trans (State.withoutSig_backup s))
@[simp] theorem State.arrive_boot (s : State) (h : Hdr) (op : Nat) : (s.arrive h op).1.boot = s.boot :=
  (State.withoutSig_boot _).symm.trans ((congrArg State.boot (s.arrive_withoutSig h op)).trans (State.withoutSig_boot s))
@[simp] theorem State.takes_boot (s : State) (h : Hdr) (op : Nat) : (s.takes h op).1.boot = s.boot :=
  (State.withoutSig_boot _).symm.trans ((congrArg State.boot (s.takes_withoutSig h op)).trans (State.withoutSig_boot s))
@[simp] theorem State.arrive_sec (s : State) (h : Hdr) (op : Nat) : (s.arrive h op).1.sec = s.sec :=
  (State.withoutSig_sec _).symm.trans ((congrArg State.sec (s.arrive_withoutSig h op)).trans (State.withoutSig_sec s))
@[simp] theorem State.takes_sec (s : State) (h : Hdr) (op : Nat) : (s.takes h op).1.sec = s.sec :=
  (State.withoutSig_sec _).symm.trans ((congrArg State.sec (s.takes_withoutSig h op)).trans (State.withoutSig_sec s))
@[simp] theorem State.arrive_lanes (s : State) (h : Hdr) (op : Nat) : (s.arrive h op).1.lanes = s.lanes :=
  (State.withoutSig_lanes _).symm.trans ((congrArg State.lanes (s.arrive_withoutSig h op)).trans (State.withoutSig_lanes s))
@[simp] theorem State.takes_lanes (s : State) (h : Hdr) (op : Nat) : (s.takes h op).1.lanes = s.lanes :=
  (State.withoutSig_lanes _).symm.trans ((congrArg State.lanes (s.takes_withoutSig h op)).trans (State.withoutSig_lanes s))
@[simp] theorem State.arrive_mc (s : State) (h : Hdr) (op : Nat) : (s.arrive h op).1.mc = s.mc :=
  (State.withoutSig_mc _).symm.trans ((congrArg State.mc (s.arrive_withoutSig h op)).trans (State.withoutSig_mc s))
@[simp] theorem State.takes_mc (s : State) (h : Hdr) (op : Nat) : (s.takes h op).1.mc = s.mc :=
  (State.withoutSig_mc _).symm.trans ((congrArg State.mc (s.takes_withoutSig h op)).trans (State.withoutSig_mc s))
@[simp] theorem State.arrive_free (s : State) (h : Hdr) (op : Nat) : (s.arrive h op).1.free = s.free :=
  (State.withoutSig_free _).symm.trans ((congrArg State.free (s.arrive_withoutSig h op)).trans (State.withoutSig_free s))
@[simp] theorem State.takes_free (s : State) (h : Hdr) (op : Nat) : (s.takes h op).1.free = s.free :=
  (State.withoutSig_free _).symm.trans ((congrArg State.free (s.takes_withoutSig h op)).trans (State.withoutSig_free s))
@[simp] theorem State.arrive_pending (s : State) (h : Hdr) (op : Nat) : (s.arrive h op).1.pending = s.pending :=
  (State.withoutSig_pending _).symm.trans ((congrArg State.pending (s.arrive_withoutSig h op)).trans (State.withoutSig_pending s))
@[simp] theorem State.takes_pending (s : State) (h : Hdr) (op : Nat) : (s.takes h op).1.pending = s.pending :=
  (State.withoutSig_pending _).symm.trans ((congrArg State.pending (s.takes_withoutSig h op)).trans (State.withoutSig_pending s))

@[simp] theorem State.takes_tb0 (s : State) (h : Hdr) (op : Nat) : (s.takes h op).1.tb0 = s.tb0 := by
  unfold State.tb0
  rw [State.takes_time]
@[simp] theorem State.takes_tb0Ns (s : State) (h : Hdr) (op : Nat) : (s.takes h op).1.tb0Ns = s.tb0Ns := by
  unfold State.tb0Ns
  rw [State.takes_time]
@[simp] theorem State.takes_launchCounter (s : State) (h : Hdr) (op : Nat) :
    (s.takes h op).1.launchCounter = s.launchCounter := by
  unfold State.launchCounter
  rw [State.takes_tb0Ns]
@[simp] theorem State.takes_launchOf (s : State) (h : Hdr) (op : Nat) (v : BitVec 64) :
    (s.takes h op).1.launchOf v = s.launchOf v := by
  unfold State.launchOf
  rw [State.takes_launchCounter]
@[simp] theorem State.takes_isLate (s : State) (h : Hdr) (op : Nat) (l : Nat) :
    (s.takes h op).1.isLate l = s.isLate l := by
  unfold State.isLate
  rw [State.takes_launchCounter]

/-- A register outside the taking ring's and the count of commands arrived reads as before. -/
theorem State.takes_stored (s : State) (h : Hdr) (op : Nat) (q : RN) (jx : List Nat)
    (h1 : q.off jx ≠ RN.sqTail.off [h.seat.val, h.ring.val]) (h2 : q.off jx ≠ RN.sqHead.off [h.seat.val, h.ring.val])
    (h3 : q.off jx ≠ RN.cmdArrived.off [h.seat.val]) : (s.takes h op).1.stored q jx = s.stored q jx := by
  have hh : ∀ (u : State) (x : HostState), State.stored { u with host := x } q jx = u.stored q jx := fun _ _ => rfl
  unfold State.takes State.arrive
  dsimp only
  rw [hh, State.stored_count_other _ _ _ _ _ _ h3, State.stored_setFld_other _ _ _ _ _ _ _ _ h2,
    State.stored_setFld_other _ _ _ _ _ _ _ _ h1]

/-- The reference of a command taken. -/
theorem State.takes_ref (s : State) (h : Hdr) (op : Nat) :
    (s.takes h op).2 = ⟨h.seat, h.ring, s.conn h.seat, h.tag, op, s.tb0, h.fence⟩ := rfl

theorem State.ringReady_on (s : State) (h : Hdr) (hr : s.ringReady h) :
    s.connected h.seat = true ∧ s.ringOn h.seat h.ring = true := by
  have := hr.2
  unfold State.holdOf at this
  split at this
  · cases this
  · next hn =>
    simp only [Bool.or_eq_true, Bool.not_eq_true', not_or] at hn
    exact ⟨by simpa using hn.1.1, by simpa using hn.1.2⟩

/-- A ring that is ready takes the command and goes on with it. -/
theorem State.takeNow_ready (s : State) (i : Instr) (e : Entry) (body : CmdRef → State → State)
    (he : entryOf i = some e) (hr : s.ringReady e.hdr) :
    s.takeNow i body = (s.setFld .sqTail [e.hdr.seat.val, e.hdr.ring.val] 0 16
      ((s.fld .sqTail [e.hdr.seat.val, e.hdr.ring.val] 0 16 + 1) % s.ringSize e.hdr.seat e.hdr.ring)).runTaken i e body := by
  obtain ⟨hc, ho⟩ := s.ringReady_on e.hdr hr
  have h1 : (s.fld .sqHead [e.hdr.seat.val, e.hdr.ring.val] 0 16 !=
      s.fld .sqTail [e.hdr.seat.val, e.hdr.ring.val] 0 16) = false := by simp [hr.1]
  unfold State.takeNow
  simp only [he, hc, ho, hr.2, h1]
  rfl

/-- A command that no shared refusal meets runs its meaning once it is taken. -/
theorem State.takeNow_run (s : State) (i : Instr) (e : Entry) (body : CmdRef → State → State)
    (he : entryOf i = some e) (hr : s.ringReady e.hdr)
    (hn : e.refused (s.dev == .recovery) (isUnknown i) = none) :
    s.takeNow i body = body (s.takes e.hdr e.opcode).2 (s.takes e.hdr e.opcode).1 := by
  rw [s.takeNow_ready i e body he hr]
  unfold State.runTaken
  have hd : ((s.setFld .sqTail [e.hdr.seat.val, e.hdr.ring.val] 0 16
      ((s.fld .sqTail [e.hdr.seat.val, e.hdr.ring.val] 0 16 + 1) % s.ringSize e.hdr.seat e.hdr.ring)).arrive
        e.hdr e.opcode).1.dev = s.dev := by rw [State.arrive_dev, State.setFld_dev]
  simp only [hd, hn]
  rfl

/-- A command that a shared refusal meets completes with its code and does nothing else. -/
theorem State.takeNow_refused (s : State) (i : Instr) (e : Entry) (body : CmdRef → State → State) (code : Nat)
    (he : entryOf i = some e) (hr : s.ringReady e.hdr)
    (hn : e.refused (s.dev == .recovery) (isUnknown i) = some code) :
    s.takeNow i body = (s.takes e.hdr e.opcode).1.complete (s.takes e.hdr e.opcode).2 code := by
  rw [s.takeNow_ready i e body he hr]
  unfold State.runTaken
  have hd : ((s.setFld .sqTail [e.hdr.seat.val, e.hdr.ring.val] 0 16
      ((s.fld .sqTail [e.hdr.seat.val, e.hdr.ring.val] 0 16 + 1) % s.ringSize e.hdr.seat e.hdr.ring)).arrive
        e.hdr e.opcode).1.dev = s.dev := by rw [State.arrive_dev, State.setFld_dev]
  simp only [hd, hn]
  rfl

/-- An accepted command meets no shared refusal. -/
theorem State.accepts_none (s : State) (e : Entry) (hu : s.accepts e.hdr e.launch e.inRecovery) (unknown : Bool)
    (hk : unknown = false) : e.refused (s.dev == .recovery) unknown = none := by
  obtain ⟨_, hd, hres, hl⟩ := hu
  have hd' : (s.dev == .recovery && !e.inRecovery) = false := by
    cases hr : e.inRecovery with
    | true => simp
    | false => simpa using hd hr
  subst hk
  unfold Entry.refused
  simp only [hd', hres, Bool.false_or]
  cases hln : e.launch with
  | true => simp
  | false => simp [hl hln]

/-- A header accepted outside RECOVERY is accepted by every command. -/
theorem State.accepts_of (s : State) (h : Hdr) (l r : Bool) (hu : s.accepts h l) : s.accepts h l r :=
  ⟨hu.1, fun _ => hu.2.1 rfl, hu.2.2⟩

/-- An accepted command runs its meaning. -/
theorem State.takeNow_accepts (s : State) (i : Instr) (e : Entry) (body : CmdRef → State → State)
    (he : entryOf i = some e) (hu : s.accepts e.hdr e.launch e.inRecovery) (hk : isUnknown i = false) :
    s.takeNow i body = body (s.takes e.hdr e.opcode).2 (s.takes e.hdr e.opcode).1 :=
  s.takeNow_run i e body he hu.1 (s.accepts_none e hu _ hk)

/-- What every ring command does: it is taken, and what its opcode names follows. -/
theorem exec_ring (s : State) (i : Instr) (e : Entry) (he : entryOf i = some e) :
    exec i s = .next (s.takeNow i fun c u => u.runRing c i) := by
  cases i
  all_goals first
    | (simp [entryOf] at he; done)
    | rfl

/-- An accepted ring command does what its opcode names on the state that its taking leaves. -/
theorem exec_accepted (s : State) (i : Instr) (e : Entry) (he : entryOf i = some e)
    (hu : s.accepts e.hdr e.launch e.inRecovery) (hk : isUnknown i = false) :
    exec i s = .next (s.ran e.hdr e.opcode fun c u => u.runRing c i) := by
  rw [exec_ring s i e he, s.takeNow_accepts i e _ he hu hk]
  rfl

/-- A condition list whose conditions all fail lets the command go on. -/
theorem State.checked_ok (s : State) (c : CmdRef) (cs : List (Bool × Nat)) (body : State → State)
    (h : cs.all (fun p => !p.1) = true) : s.checked c cs body = body s := by
  have hf : cs.find? (fun p => p.1) = none := by
    rw [List.find?_eq_none]
    intro p hp
    have := List.all_eq_true.mp h p hp
    simpa using this
  simp only [State.checked, firstCode, hf, Option.map_none]

/-- The image gate, when it is open. -/
theorem State.imageGate_open (s : State) (c : CmdRef) (h : Hdr) (body : State → State) (hd : s.dev ≠ .recovery)
    (hg : s.gateOpen h) : s.imageGate c h body = body (s.gated h) := by
  unfold State.imageGate State.gated
  rw [if_neg hd]
  cases hl : s.lockedOut h.seat with
  | false => simp
  | true =>
    cases hg with
    | inl h0 => rw [hl] at h0; cases h0
    | inr h1 => simp [h1]

@[simp] theorem State.gated_withoutLog (s : State) (h : Hdr) : (s.gated h).withoutLog = s.withoutLog := by
  unfold State.gated State.noteOverride
  split <;> simp

@[simp] theorem State.gated_mem (s : State) (h : Hdr) : (s.gated h).mem = s.mem :=
  (State.withoutLog_mem _).symm.trans ((congrArg State.mem (s.gated_withoutLog h)).trans (State.withoutLog_mem s))
@[simp] theorem State.gated_dev (s : State) (h : Hdr) : (s.gated h).dev = s.dev :=
  (State.withoutLog_dev _).symm.trans ((congrArg State.dev (s.gated_withoutLog h)).trans (State.withoutLog_dev s))
@[simp] theorem State.gated_img (s : State) (h : Hdr) : (s.gated h).img = s.img :=
  (State.withoutLog_img _).symm.trans ((congrArg State.img (s.gated_withoutLog h)).trans (State.withoutLog_img s))
@[simp] theorem State.gated_flash (s : State) (h : Hdr) : (s.gated h).flash = s.flash :=
  (State.withoutLog_flash _).symm.trans ((congrArg State.flash (s.gated_withoutLog h)).trans (State.withoutLog_flash s))
@[simp] theorem State.gated_host (s : State) (h : Hdr) : (s.gated h).host = s.host :=
  (State.withoutLog_host _).symm.trans ((congrArg State.host (s.gated_withoutLog h)).trans (State.withoutLog_host s))
@[simp] theorem State.gated_time (s : State) (h : Hdr) : (s.gated h).time = s.time :=
  (State.withoutLog_time _).symm.trans ((congrArg State.time (s.gated_withoutLog h)).trans (State.withoutLog_time s))
@[simp] theorem State.gated_net (s : State) (h : Hdr) : (s.gated h).net = s.net :=
  (State.withoutLog_net _).symm.trans ((congrArg State.net (s.gated_withoutLog h)).trans (State.withoutLog_net s))
@[simp] theorem State.gated_cam (s : State) (h : Hdr) : (s.gated h).cam = s.cam :=
  (State.withoutLog_cam _).symm.trans ((congrArg State.cam (s.gated_withoutLog h)).trans (State.withoutLog_cam s))
@[simp] theorem State.gated_sched (s : State) (h : Hdr) : (s.gated h).sched = s.sched :=
  (State.withoutLog_sched _).symm.trans ((congrArg State.sched (s.gated_withoutLog h)).trans (State.withoutLog_sched s))
@[simp] theorem State.gated_ledg (s : State) (h : Hdr) : (s.gated h).ledg = s.ledg :=
  (State.withoutLog_ledg _).symm.trans ((congrArg State.ledg (s.gated_withoutLog h)).trans (State.withoutLog_ledg s))
@[simp] theorem State.gated_motion (s : State) (h : Hdr) : (s.gated h).motion = s.motion :=
  (State.withoutLog_motion _).symm.trans ((congrArg State.motion (s.gated_withoutLog h)).trans (State.withoutLog_motion s))
@[simp] theorem State.gated_field (s : State) (h : Hdr) : (s.gated h).field = s.field :=
  (State.withoutLog_field _).symm.trans ((congrArg State.field (s.gated_withoutLog h)).trans (State.withoutLog_field s))
@[simp] theorem State.gated_cap (s : State) (h : Hdr) : (s.gated h).cap = s.cap :=
  (State.withoutLog_cap _).symm.trans ((congrArg State.cap (s.gated_withoutLog h)).trans (State.withoutLog_cap s))
@[simp] theorem State.gated_train (s : State) (h : Hdr) : (s.gated h).train = s.train :=
  (State.withoutLog_train _).symm.trans ((congrArg State.train (s.gated_withoutLog h)).trans (State.withoutLog_train s))
@[simp] theorem State.gated_backup (s : State) (h : Hdr) : (s.gated h).backup = s.backup :=
  (State.withoutLog_backup _).symm.trans ((congrArg State.backup (s.gated_withoutLog h)).trans (State.withoutLog_backup s))
@[simp] theorem State.gated_boot (s : State) (h : Hdr) : (s.gated h).boot = s.boot :=
  (State.withoutLog_boot _).symm.trans ((congrArg State.boot (s.gated_withoutLog h)).trans (State.withoutLog_boot s))
@[simp] theorem State.gated_sec (s : State) (h : Hdr) : (s.gated h).sec = s.sec :=
  (State.withoutLog_sec _).symm.trans ((congrArg State.sec (s.gated_withoutLog h)).trans (State.withoutLog_sec s))
@[simp] theorem State.gated_lanes (s : State) (h : Hdr) : (s.gated h).lanes = s.lanes :=
  (State.withoutLog_lanes _).symm.trans ((congrArg State.lanes (s.gated_withoutLog h)).trans (State.withoutLog_lanes s))
@[simp] theorem State.gated_mc (s : State) (h : Hdr) : (s.gated h).mc = s.mc :=
  (State.withoutLog_mc _).symm.trans ((congrArg State.mc (s.gated_withoutLog h)).trans (State.withoutLog_mc s))
@[simp] theorem State.gated_free (s : State) (h : Hdr) : (s.gated h).free = s.free :=
  (State.withoutLog_free _).symm.trans ((congrArg State.free (s.gated_withoutLog h)).trans (State.withoutLog_free s))
@[simp] theorem State.gated_out (s : State) (h : Hdr) : (s.gated h).out = s.out :=
  (State.withoutLog_out _).symm.trans ((congrArg State.out (s.gated_withoutLog h)).trans (State.withoutLog_out s))
@[simp] theorem State.gated_pending (s : State) (h : Hdr) : (s.gated h).pending = s.pending :=
  (State.withoutLog_pending _).symm.trans ((congrArg State.pending (s.gated_withoutLog h)).trans (State.withoutLog_pending s))

end Sys2Proof.Machine
end

