-- ==== Sys2Proof/Laws/Memory.lean ====
section
/-! SUPPORT. Every operation that writes a memory keeps its canonical form (17_memory.md R436, R438). -/

set_option Elab.async false

namespace Sys2Proof.Machine

theorem Mem.above_filter (m : List (Nat × Byte)) (f : Nat × Byte → Bool) (lo : Option Nat)
    (hm : Mem.above lo m = true) : Mem.above lo (m.filter f) = true := by
  induction m generalizing lo with
  | nil => rfl
  | cons c m ih =>
    obtain ⟨k, v⟩ := c
    simp only [Mem.above, Bool.and_eq_true] at hm
    obtain ⟨⟨hl, hv⟩, hr⟩ := hm
    rw [List.filter_cons]
    split
    · simp only [Mem.above, Bool.and_eq_true]
      exact ⟨⟨hl, hv⟩, ih _ hr⟩
    · apply ih
      cases lo with
      | none => exact Mem.above_none m k hr
      | some l => exact Mem.above_mono m k l (le_of_lt (by simpa using hl)) hr

/-- A memory of which some bytes are dropped stays in canonical form. -/
theorem Mem.wf_filter (m : List (Nat × Byte)) (f : Nat × Byte → Bool) (hm : Mem.wf m = true) :
    Mem.wf (m.filter f) = true := Mem.above_filter m f none hm

theorem State.wf_poke (s : State) (a : Nat) (d : Bytes) (h : Mem.wf s.mem = true) :
    Mem.wf (s.poke a d).mem = true := Mem.wf_writeAll s.mem a d h

theorem State.wf_reportUe (s : State) (g i : Nat) (h : Mem.wf s.mem = true) :
    Mem.wf (s.reportUe g i).mem = true := by
  unfold State.reportUe
  dsimp only
  refine State.wf_poke _ _ _ ?_
  split
  · rw [State.flagLog_mem, State.noteUe_mem]
    exact h
  · rw [State.noteUe_mem]
    exact h

theorem State.wf_storeGranules (s : State) (a : Nat) (d : Bytes) (gs : List Nat) (h : Mem.wf s.mem = true) :
    Mem.wf (s.storeGranules a d gs).mem = true := by
  induction gs generalizing s with
  | nil => exact h
  | cons g gs ih =>
    unfold State.storeGranules
    apply ih
    split
    · split
      · exact State.wf_poke _ _ _ h
      · apply State.wf_reportUe
        simpa using h
    · exact State.wf_poke _ _ _ h

/-- A write into the module's memory keeps its canonical form. -/
theorem State.wf_store (s : State) (a : Nat) (d : Bytes) (h : Mem.wf s.mem = true) :
    Mem.wf (s.store a d).mem = true := by
  unfold State.store
  split
  · exact State.wf_poke s a d h
  · exact State.wf_storeGranules s a d _ h

/-- A range that is zeroed keeps the canonical form. -/
theorem State.wf_zero (s : State) (a n : Nat) (h : Mem.wf s.mem = true) : Mem.wf (s.zero a n).mem = true :=
  Mem.wf_filter s.mem _ h

/-- What a reset keeps of memory is in canonical form. -/
theorem State.wf_keptMem (s : State) (warm : Bool) (h : Mem.wf s.mem = true) :
    Mem.wf (s.keptMem warm) = true := by
  cases warm
  · rfl
  · exact Mem.wf_filter s.mem _ h

/-- A write into a host's memory keeps the canonical form of all three memories. -/
theorem State.memWf_hostStore (s : State) (seat a : Nat) (d : Bytes) (h : s.memWf = true) :
    (s.hostStore seat a d).memWf = true := by
  unfold State.memWf at h ⊢
  simp only [Bool.and_eq_true] at h ⊢
  obtain ⟨⟨hm, h0⟩, h1⟩ := h
  unfold State.hostStore
  split
  · exact ⟨⟨hm, Mem.wf_writeAll _ a d h0⟩, h1⟩
  · exact ⟨⟨hm, h0⟩, Mem.wf_writeAll _ a d h1⟩

/-- The form of the three memories depends on nothing else of the state. -/
theorem State.memWf_congr (s t : State) (hm : t.mem = s.mem) (hh : t.host = s.host) : t.memWf = s.memWf := by
  unfold State.memWf
  rw [hm, hh]

theorem State.memWf_poke (s : State) (a : Nat) (d : Bytes) (h : s.memWf = true) : (s.poke a d).memWf = true := by
  unfold State.memWf at h ⊢
  simp only [Bool.and_eq_true] at h ⊢
  exact ⟨⟨State.wf_poke s a d h.1.1, h.1.2⟩, h.2⟩

/-- Reading the ordering structure changes neither the list nor the parts. -/
@[simp] theorem State.readOrder_motion (s : State) : s.readOrder.motion = s.motion :=
  List.foldlRecOn (motive := fun t : State => t.motion = s.motion) _ _ rfl fun t h g _ =>
    (t.reportUe_motion g 0x40).trans h
@[simp] theorem State.readOrder_ledg (s : State) : s.readOrder.ledg = s.ledg :=
  List.foldlRecOn (motive := fun t : State => t.ledg = s.ledg) _ _ rfl fun t h g _ =>
    (t.reportUe_ledg g 0x40).trans h

end Sys2Proof.Machine
end

