-- ==== Sys2Proof/Tests/Slice0.lean ====
section
/-! SUPPORT. The model's own tests: terms that are no commands, entries of rings written out byte by byte, one
step of commands on small states, and for the statements of Certificates/Slice0 states that meet their hypotheses. -/

set_option Elab.async false

namespace Sys2Proof.Tests

open Sys2Proof Sys2Proof.Machine

/-! ### Small states -/

/-- Bytes of a length, zero but at the places named. -/
def bytesWith (n : Nat) (l : List (Nat × Nat)) : Bytes :=
  (List.range n).map fun i => BitVec.ofNat 8 ((l.lookup i).getD 0)

/-- A record of a KIND and INDEX with the bytes named. -/
def record (kind index : Nat) (l : List (Nat × Nat)) : Bytes := bytesWith 64 ((0, kind) :: (1, index) :: l)

/-- An image with the sections named: TYPE, payload, ENTRY_COUNT. -/
def imageWith (l : List (Nat × Bytes × Nat)) : Image :=
  { half := 0, header := bytesWith 128 []
    secs := (List.range 15).map fun t => ((l.lookup (t + 1)).map Prod.fst).getD []
    counts := (List.range 15).map fun t => ((l.lookup (t + 1)).map Prod.snd).getD 0, digest := bytesWith 64 [] }

/-- Seat 0 is connected with Bus Master Enable, and its ring 0 of 64 entries is enabled in device memory. -/
def up : State :=
  (({ State.reset with dev := .idle } : State).setReg .seatStatus [0] 0x11).setReg .ringCfg [0, 0] 0x19

/-- The same device with a running image. -/
def running (i : Image) : State := { up with dev := .running, img := { up.img with running := some i } }

/-- The same device in recovery mode. -/
def recovery : State := { up with dev := .recovery }

def hdr : Hdr := ⟨0, 0, 7, false, false, 0, false⟩
def hdrOver : Hdr := { hdr with override := true }
def hdrLate : Hdr := { hdr with launch := 0 }
def hdrNext : Hdr := { hdr with launch := BitVec.allOnes 64 }
def cref : CmdRef := ⟨0, 0, 0, 7, 1, 0, false⟩

/-- A stream of 16 columns and one component that has no line yet. -/
def layout : StreamLayout :=
  { base := 0x700000000, size := 0x200000, statOff := 0x10000, rawOff := 0x20000, corrOff := 0x40000
    rawLineBytes := 64, corrLineBytes := 64, laneRowBytes := 64, corrSlots := 16, winOff := 0, winRows := 4 }

/-- A stream on connection 0 of port 0, of 16 columns of one byte and blocks of 8 lines. -/
def streamCfg : Bytes :=
  bytesWith 64 [(2, 1), (4, 1), (8, 16), (0xC, 8), (0x10, 64), (0x18, 1), (0x1A, 16), (0x1E, 4)]
def stream0 : Stream := { cfg := streamCfg, lp := none, layout := layout, imageGen := 0 }
/-- The same stream through pipe 0 in line. -/
def pipedCfg : Bytes :=
  bytesWith 64 [(2, 1), (4, 1), (7, 1), (8, 16), (0xC, 8), (0x10, 64), (0x18, 1), (0x1A, 16), (0x1E, 4)]
def piped : Stream := { stream0 with cfg := pipedCfg }
def bare : Image := imageWith []
def withStream (s : State) (x : Stream) : State := { s with cam := { s.cam with streams := [(0, x)] } }

/-! ### Terms that are no commands -/

/-- A group header whose GROUP_CONFIG_ID is one byte short. -/
def shortGrp : GrpHdr := { inPort := 0, mac := 1, ip := 1, version := 1, sender := 1, flags := 0, length := 0
                           payloadBytes := 0, seq := 1, configId := bytesWith 15 [] }
def grpHdr : GrpHdr := { shortGrp with configId := bytesWith 16 [] }
def bhHdr : BhHdr := ⟨1, 2, 0x4842, 1, 1, 1, 0, 0, 2, 0⟩
def capsMsg : CapsMsg := { index := 1, size := 2, fwVersion := 0, imageId := bytesWith 16 [], imageGen := 1
                           strip0 := bytesWith 8 [], strip1 := bytesWith 8 [], stripShape := [], ptpState := 0
                           domain := 0, members := 3 }
def handoffMsg : HandoffMsg := { kind := 1, slot := 0, source := 0, damaged := false, arith := 0, verdict := 0
                                 partId := 0, startPos := 0, endPos := 0, ejectPos := 0, lateral := 0
                                 axisRatio := 16777216, anchorP := 0, anchorG := 0, axisDistance := 0
                                 lateralOrigin := 0, scores := [] }
def stripMsg : StripMsg := { lineIndex := 0, group := 0, tb0 := 0, damaged := false, band := [1, 2] }

/-- One term for each check of WellFormed.lean that fails it. -/
theorem test_ill_formed : ([
    .submit bhHdr 0 [bytesWith 63 []],
    .submit bhHdr 0 (List.replicate 256 (bytesWith 64 [])),
    .caps shortGrp capsMsg,
    .caps grpHdr { capsMsg with imageId := bytesWith 17 [] },
    .caps grpHdr { capsMsg with strip0 := bytesWith 7 [] },
    .caps grpHdr { capsMsg with strip1 := bytesWith 9 [] },
    .axis shortGrp 0 0 1,
    .handoff shortGrp handoffMsg,
    .strip shortGrp stripMsg,
    .launchItem shortGrp (bytesWith 64 []) 0,
    .launchItem grpHdr (bytesWith 63 []) 0,
    .launchAnswer shortGrp 0 0 0,
    .go shortGrp 0,
    .event shortGrp (bytesWith 64 []),
    .event grpHdr (bytesWith 65 []),
    .groupAck shortGrp 0,
    .tickWord true [(3, 0), (3, 1)] false 0,
    .coreWatchdog [true, true, true],
    .fieldMirrorRead 0 2,
    .fieldMirrorWrite 0 1 0,
    .memoryTrained 33,
    .throttleCheck [50, 50, 50] 400 0,
    .supplyMeasure 24000 0 [],
    .w1cClear 0 3 0 0,
    .registerWrite 0 1 0,
    .unalignedAccess 0 4 4 true,
    .unoccupiedAccess 0 6 false,
    .loReadLatch 0 2,
    .laneAligned 0 10,
    .laneAligned 32 66,
    .loadMeterRefresh 11 0] : List Instr).all (fun i => !i.wellFormed) = true := by decide +kernel

/-- MEM_WRITE of more than a datagram can carry. -/
theorem test_ill_formed_memWrite :
    Instr.wellFormed (.memWrite bhHdr 0 (List.replicate 65536 0)) = false := by
  simp only [Instr.wellFormed, List.length_replicate, Nat.lt_irrefl, decide_false]

theorem test_well_formed : ([
    .submit bhHdr 0 [bytesWith 64 []], .caps grpHdr capsMsg, .launchItem grpHdr (bytesWith 64 []) 0,
    .tickWord true [(3, 0), (4, 1)] false 0, .coreWatchdog [true, true, true, true], .memoryTrained 32,
    .unalignedAccess 0 4 2 true, .laneAligned 31 9, .laneAligned 39 65, .laneAligned 43 99,
    .loadMeterRefresh 10 0] : List Instr).all Instr.wellFormed = true := by decide +kernel

/-! ### Ring entries written out from the tables of 16_host_interface.md R414 and R417 -/

theorem test_entry_nop : decodeEntry 0 0 (bytesWith 64 [(0, 0x01), (4, 7)]) = .nop hdr := by decide +kernel

/-- A reserved byte that is not 0 shows in the header, and changes no operand. -/
theorem test_entry_reserved : decodeEntry 0 0 (bytesWith 64 [(0, 0x01), (4, 7), (0x3F, 1)]) =
    .nop { hdr with reservedSet := true } := by decide +kernel

theorem test_entry_override : decodeEntry 1 2 (bytesWith 64 [(0, 0x05), (1, 0x01), (2, 0x03), (4, 7), (8, 9)]) =
    .imageLock ⟨1, 2, 7, true, true, 9, false⟩ := by decide +kernel

theorem test_entry_imageVerify : decodeEntry 0 0 (bytesWith 64 [(0, 0x01), (1, 0x01), (4, 7), (0x11, 0x02)]) =
    .imageVerify hdr 0x200 := by decide +kernel

theorem test_entry_powerMode : decodeEntry 0 0 (bytesWith 64 ([(0, 0x01), (1, 0x02), (4, 7), (0x10, 2)] ++
    (List.range 8).map fun k => (8 + k, 0xFF))) = .powerMode hdrNext 2 := by decide +kernel

theorem test_entry_jobReplay : decodeEntry 0 0 (bytesWith 64 [(0, 0x03), (1, 0x03), (4, 7), (0x10, 0xA0), (0x12, 1),
    (0x13, 5), (0x14, 64), (0x1C, 1), (0x24, 2), (0x29, 1)]) =
    .jobReplay hdr 160 1 5 64 0x100000000 0x200000000 256 := by decide +kernel

theorem test_entry_streamSave : decodeEntry 0 0 (bytesWith 64 [(0, 0x03), (1, 0x04), (4, 7), (0x10, 6), (0x18, 64),
    (0x21, 4)]) = .streamSave hdr 6 64 1024 := by decide +kernel

theorem test_entry_cxpControl : decodeEntry 0 0 (bytesWith 64 [(0, 0x01), (1, 0x05), (4, 7), (0x10, 3), (0x11, 1),
    (0x12, 1), (0x15, 0x40), (0x18, 4), (0x21, 2)]) = .cxpControl hdr 3 1 1 0x4000 4 512 := by decide +kernel

theorem test_entry_sampleDecode : decodeEntry 0 0 (bytesWith 64 [(0, 0x02), (1, 0x06), (4, 7), (0x10, 1), (0x18, 9),
    (0x22, 1), (0x29, 2)]) = .sampleDecode hdr 1 9 65536 512 := by decide +kernel

theorem test_entry_candidatePromote : decodeEntry 0 0 (bytesWith 64 [(0, 0x0A), (1, 0x06), (4, 7), (0x10, 1)]) =
    .candidatePromote { hdr with launch := 0 } 1 := by decide +kernel

theorem test_entry_firmwareStore : decodeEntry 0 0 (bytesWith 64 [(0, 0x01), (1, 0x08), (4, 7), (0x19, 1), (0x22, 1)]) =
    .firmwareStore hdr 256 65536 := by decide +kernel

theorem test_entry_unknown : decodeEntry 0 0 (bytesWith 64 [(0, 0x0B), (1, 0x06), (4, 7)]) =
    .opcodeUnknown hdr 0x060B := by decide +kernel

/-! ### Arithmetic and checks with the values the spec gives, and one step of commands -/

/-- R38: the CRC-32 of the nine digits, the check value that the named polynomial and values give. -/
theorem test_crc32 : crc32 [0x31, 0x32, 0x33, 0x34, 0x35, 0x36, 0x37, 0x38, 0x39] = 0xCBF43926 := by decide +kernel

theorem test_crc64 : crc64 0 [0x31, 0x32, 0x33, 0x34, 0x35, 0x36, 0x37, 0x38, 0x39] = 0x6C40DF5F0B497347 := by
  decide +kernel

/-- The three examples of R148, FP32 to FP8E4M3: 300.0, 464.0 (with FLOAT_SAT) and 2^-10. -/
theorem test_fp8_examples : (roundFloat 0x10 false (decodeEl 0x14 0x43960000)).1 = 0x79 ∧
    roundFloat 0x10 false (decodeEl 0x14 0x43E80000) = (0x7E, Arith.floatSat) ∧
    roundFloat 0x10 false (decodeEl 0x14 0x3A800000) = (0x00, 0) := by decide +kernel

/-- R2, R31, R32: what GLB.IDENT, GLB.CAPS and GLB.STATE read at reset; R7: an unoccupied word. -/
theorem test_reset_reads : State.reset.viewAt 0x000 = 0x96400A01 ∧ State.reset.viewAt 0x004 = 0x04444020 ∧
    State.reset.viewAt 0x008 = 0x00000020 ∧ State.reset.viewAt 0x1FFFFFC = 0 := by decide +kernel

/-- The next state of a step that has one. -/
def after (s : State) (i : Instr) : State :=
  match step { s with pending := [i] } with
  | .next t => t
  | _ => s

/-- R415: NOP of ring 0 completes with TAG 7, STATUS OK, OPCODE 1 in the entry at CQ_BASE; CQ_TAIL goes to 1. -/
theorem test_nop_completes : (after up (.nop hdr)).load 0 2 = [7, 0] ∧
    (after up (.nop hdr)).view .cqTail [0, 0] = 0x10001 := by decide +kernel

/-- R417: an unlisted opcode completes with STATUS 0x13 (OPCODE_UNKNOWN of R13). -/
theorem test_unlisted_completes : ((after up (.opcodeUnknown hdr 0x060B)).load 6 1) = [0x13] := by decide +kernel

/-- R28, R13: a command that recovery mode does not take completes with STATUS 0x14 (RECOVERY_UNAVAILABLE). -/
theorem test_recovery_refuses : ((after recovery (.ctxCreate hdr 0xFF)).load 6 1) = [0x14] := by decide +kernel

/-- R88: a write of 250 W to BUDGET_W is taken as 240 W, and one of 30 W stays. -/
theorem test_budgetW : (after up (.budgetW 0 250)).view .cxpPocxpBudget [] = 240 ∧
    (after up (.budgetW 0 30)).view .cxpPocxpBudget [] = 30 := by decide +kernel

/-! ### States that meet the hypotheses of the statements of Certificates/Slice0

Each theorem names its statement and holds the hypotheses of its clauses together, at the ends of their ranges where
clauses meet. -/

theorem witness_EntryDecodesToItsCommand : (entryOf (.nop hdr)).isSome ∧ (entryOf (.opcodeUnknown hdr 0x060B)).isSome := by
  decide +kernel

theorem witness_SharedRefusals : up.accepts hdr false true ∧ up.accepts hdr true ∧ up.ringReady hdr ∧
    isUnknown (.imageLock hdr) = false ∧ isUnknown (.opcodeUnknown hdr 2) = true ∧
    (entryOf (.imageLock hdr)).isSome ∧ (entryOf (.ctxCreate hdr 0)).map Entry.inRecovery = some false ∧
    recovery.ringReady hdr ∧ recovery.dev = .recovery ∧ recovery.accepts hdr false true := by
  unfold State.accepts State.ringReady; decide +kernel

/-- Ring 0 of seat 0 with an entry that waits; with its completion ring full. -/
def waits : State := up.setReg .sqTail [0, 0] 1
def cqFull : State := up.setReg .cqTail [0, 0] 63

theorem witness_RingHoldsBack : (entryOf (.nop hdr)).map Entry.hdr = some hdr ∧ State.reset.connected 0 = false ∧
    up.ringOn 0 1 = false ∧ up.connected 0 = true ∧ up.ringOn 0 0 = true ∧
    waits.fld .sqHead [0, 0] 0 16 ≠ waits.fld .sqTail [0, 0] 0 16 ∧ waits.ringOn 0 0 = true ∧
    cqFull.holdOf 0 0 false = some .full ∧ up.holdOf 0 0 false = none := by decide +kernel

/-- A command of ring 0 is outstanding; the same for a connection that is gone. -/
def asked : State := { up with host := { up.host with outstanding := [cref] } }
def askedLast : State := asked.setReg .cqTail [0, 0] 0x1003F

theorem witness_CompletionIsWritten : asked.memWf = true ∧ (cref.seat < 4 ∧ cref.ring < 16) ∧ asked.host.outstanding.contains cref = true ∧ asked.conn 0 = cref.conn ∧
    asked.connected 0 = true ∧ asked.busMaster 0 = true ∧ asked.ringInHost 0 0 = false ∧ asked.badIn 0 32 = none ∧
    askedLast.fld .cqTail [0, 0] 0 16 + 1 = askedLast.ringSize 0 0 ∧ asked.fld .cqTail [0, 0] 0 16 + 1 ≠
    asked.ringSize 0 0 ∧ (asked.setReg .seatStatus [0] 0).connected 0 = false ∧
    up.host.outstanding.contains cref = false ∧
    ((asked.setReg .ringCfg [0, 0] 0x1B).ringInHost 0 0 = true) := by decide +kernel

def locked (k : Fin 4) : State := { up with img := { up.img with lock := some k } }

theorem witness_ImageLock : (locked 0).accepts hdr false ∧ (locked 1).accepts hdr false ∧
    (locked 1).accepts hdrOver false ∧ up.accepts hdr false ∧ up.img.lock = none ∧ hdrOver.override = true ∧
    (locked 0).img.lock ≠ none ∧ recovery.accepts hdr true true ∧ recovery.accepts hdr false true ∧ recovery.dev = .recovery ∧
    allOnes64 64 = false ∧ addrReserved 64 = false ∧ (1 : Byte).toNat ≤ 1 := by
  unfold State.accepts State.ringReady; decide +kernel

/-- Half 1 holds bytes that no one has verified; they are being verified; a verified image stands there. -/
def written : State := { up with img := { up.img with staging := .written } }
def verifying : State := { up with img := { up.img with staging := .verifying, verify := some ⟨some cref, 64⟩ } }
def verified : State := { up with img := { up.img with staging := .verified, staged := some bare } }
def applying (p : ApplyPhase) : State := { running bare with
  dev := .applying
  img := { (running bare).img with apply := some ⟨p, 1, false, .running, some cref, bare, 0, [], false, none, []⟩ } }
def pendingItem : LaunchItem := ⟨1, 0, .imageApply true, some cref, false⟩
def pendingApply : State := { verified with img := { verified.img with staging := .pending, items := [pendingItem] } }

theorem witness_ImageVerify : written.accepts hdr false ∧ written.gateOpen hdr ∧ allOnes64 64 = false ∧
    written.img.apply = none ∧ written.img.staging = .written ∧ verified.img.staging = .verified ∧
    verifying.img.verify = some ⟨some cref, 64⟩ ∧ verifying.checkStaging 64 = (.error Code.imageFormat, none) := by
  unfold State.accepts State.ringReady State.gateOpen; decide +kernel

theorem witness_ImageApply : verified.accepts hdrNext true ∧ verified.gateOpen hdrNext ∧ (1 : Byte).toNat ≤ 1 ∧
    verified.dev = .idle ∧ verified.img.staged = some bare ∧ verified.isLate (verified.launchOf hdrNext.launch) = false ∧
    verified.fieldDiffers bare = false ∧ (running bare).dev = .running ∧ pendingApply.accepts hdr false ∧
    pendingApply.pendingApply = some pendingItem ∧ pendingApply.isLate 1 = false := by
  unfold State.accepts State.ringReady State.gateOpen; decide +kernel

theorem witness_ImageStoreAndQuery : verified.accepts hdr false ∧ verified.gateOpen hdr ∧
    bare.length + 1024 ≤ 50331648 ∧ verified.img.store = none ∧
    ({ up.img with store := some (cref, []) } : ImgState).store = some (cref, []) ∧
    recovery.accepts hdr false true ∧ addrReserved 0x100 = false ∧ bufferIn 0x100 64 = true := by
  unfold State.accepts State.ringReady State.gateOpen; decide +kernel

def revertRun : OverlayRun := ⟨1, 0, some cref, none, []⟩
def recordItem : LaunchItem := ⟨9, 0, .promote 0x280000000 [1] false, some cref, false⟩
def candidate : State := { running bare with train := { cand := { current := some 0 } } }

theorem witness_OverlayCommands : (running bare).accepts hdrNext true ∧ (running bare).gateOpen hdrNext ∧
    (running bare).isLate ((running bare).launchOf hdrNext.launch) = false ∧ (0 : Byte).toNat ≤ (running bare).overlayGen ∧
    (({ up.img with overlayRuns := [revertRun] } : ImgState).overlayRuns.find? fun r => r.left.isEmpty) =
      some revertRun ∧ revertRun.promoted = none ∧ candidate.accepts hdrNext true ∧
    candidate.train.cand.current = some 0 ∧ candidate.train.cand.base = candidate.overlayGen ∧
    candidate.overlayGen < 255 ∧ recordItem.kind = .promote 0x280000000 [1] false := by
  unfold State.accepts State.ringReady State.gateOpen; decide +kernel

theorem witness_LaunchedModes : up.accepts hdrNext true ∧ up.isLate (up.launchOf hdrNext.launch) = false ∧
    (2 : Byte).toNat ≤ 2 ∧ (0xFF : Byte).toNat = 0xFF ∧ ((withStream up stream0).stream 0).isSome = true ∧
    (withStream up stream0).accepts hdrNext true ∧ hdrNext.launch.toNat = 2 ^ 64 - 1 ∧ up.accepts hdrLate true ∧
    up.isLate (up.launchOf hdrLate.launch) = true := by
  unfold State.accepts State.ringReady; decide +kernel

def withItem (s : State) (k : LaunchKind) : State := { s with img := { s.img with items := [⟨0, 0, k, some cref, false⟩] } }

theorem witness_LaunchEdge : (pendingApply.img.items.map LaunchItem.launch).min? = some 1 ∧
    pendingApply.tb0Ns < 1 * 1000 ∧ pendingApply.time.tb0.inc ≠ 0 ∧
    pendingApply.time.tb0.value + pendingApply.time.tb0.inc * 250 < pendingApply.time.tb0.cycle * 2 ^ 32 ∧
    (withItem up (.power .full)).net.member = [] ∧ (withItem up (.power .full)).img.apply = none ∧
    (0 * 1000 ≤ (withItem up (.power .full)).tb0Ns) ∧ ((withItem up (.det 0xFF)).img.items.length = 1) ∧
    (withItem (withStream up stream0) (.pause 0)).stream 0 = some stream0 := by decide +kernel

/-- A stream that is paused, and the record that it saves. -/
def pausedS : State := withStream (running bare) { stream0 with paused := true }

theorem witness_StreamSaveRestore : pausedS.accepts hdr false ∧ addrReserved 0x100 = false ∧ allOnes64 0x10000 = false ∧
    (pausedS.takes hdr 0x0403).1.stream 0 = some { stream0 with paused := true } ∧
    (pausedS.takes hdr 0x0403).1.streamBusy 0 = false ∧
    ((pausedS.takes hdr 0x0403).1.saveRecord 0).length ≤ 0x10000 ∧
    bufferIn 0x100 ((pausedS.takes hdr 0x0403).1.saveRecord 0).length = true := by
  unfold State.accepts State.ringReady; decide +kernel

/-- The saved record stands in memory, and the stream is closed and empty. -/
def saved : State := pausedS.store 0x1000 (pausedS.saveRecord 0)

theorem witness_StreamRestore : saved.accepts hdrNext true ∧ addrReserved 0x1000 = false ∧
    bufferIn 0x1000 256 = true ∧ (saved.takes hdrNext 0x0404).1.badIn 0x1000 256 = none ∧
    (saved.takes hdrNext 0x0404).1.restoreFail 0 ((saved.takes hdrNext 0x0404).1.load 0x1000 256)
      (saved.launchOf hdrNext.launch) = none ∧
    bufferIn 0x1000 (Save.length ((saved.takes hdrNext 0x0404).1.load 0x1000 256)) = true := by
  unfold State.accepts State.ringReady; decide +kernel

/-! The scheduler. -/

/-- An image of one deep model of one operator over stream 0, in one stage that any core runs. -/
def modelled : Image := imageWith [(3, bytesWith 32 [(0, 1), (19, 15), (28, 0xFF)], 1),
  (6, bytesWith 112 [(0, 1), (24, 1), (28, 1)], 2)]

def hostCtx : Ctx := { kind := .host, owner := 0, pinned := false, slot := some 0, blockedSince := none, starve := 0
                       waiting := false, evicting := false }
def job (k ctx : Nat) (kind : JobKind) : Job :=
  { id := k, kind := kind, ctx := ctx, model := 0, stream := 0, stripe := 0, lane := 0, gen := 0, first := 0, last := 1
    ownFirst := 0, ownLast := 1, slot := 0, view := 0, input := none, result := none, accepted := 0
    closedEnd := false, det := false, by' := some cref, aux := 0 }
def cmd (k j : Nat) (st : CmdSt) : Cmd := { id := k, job := j, stage := 0, st := st, core := none, startOrder := 0
                                            spaceReserved := false, doomed := false, turnKills := 0 }
/-- Context 160 of seat 0 has a replay job whose command is in the state named, the four cores are idle, and the turn
is seat 0's. -/
def sched (st : CmdSt) : State := { withStream (running modelled) stream0 with
  sched := { ctxs := [(160, hostCtx)], jobs := [job 1 160 .replay], cmds := [cmd 1 1 st], core0 := { st := .idle }
             core1 := { st := .idle }, core2 := { st := .idle }, core3 := { st := .idle }
             turn := { active := true } } }
/-- The same command on core 0, in the state named. -/
def onCore (st : CmdSt) (cs : CoreSt) : State := let s := sched st
  { s with sched := { s.sched with core0 := { st := cs, cmd := some 1 } } }

theorem witness_HostContexts : up.accepts hdr false ∧ (1 : Byte).toNat ≤ 1 ∧
    (List.range 864).find? (fun k => (up.ctx (160 + k)).isNone) = some 0 ∧ up.pinnedCount < 128 ∧
    (sched .queued).accepts hdr false ∧ (160 : BitVec 16).toNat < 1024 ∧ (sched .queued).isHostCtx 160 = true ∧
    ((sched .queued).sched.jobs.filter fun j => j.ctx == 160 && j.by'.any fun b => b.tag == 7) = [job 1 160 .replay] ∧
    ((sched .queued).jobCmds 1).any (fun x => x.st != .committing && x.st != .done) = true ∧
    (job 1 160 .replay).by' = some cref := by
  unfold State.accepts State.ringReady; decide +kernel

theorem witness_JobReplay : (sched .done).accepts hdr false ∧ addrReserved 0x1000 = false ∧
    modelled.inModel 0 0 = true ∧ (sched .done).stream 0 = some stream0 ∧ (sched .done).isHostCtx 160 = true ∧
    modelled.replayBytes stream0 0 1 ≤ 4096 ∧ bufferIn 0x1000 (stream0.corrBytes * 1) = true ∧
    bufferIn 0x2000 4096 = true ∧ (sched .done).img.running = some modelled := by
  unfold State.accepts State.ringReady; decide +kernel

/-- A shadow-class command runs on every core, and a live command of class 0 may be dispatched. -/
def contended : State :=
  let busy : Core := { st := .running, cmd := some 1 }
  let s := sched .running
  { s with sched := { s.sched with
      ctxs := [(0, { hostCtx with kind := .live, slot := some 1 }), (160, hostCtx)]
      jobs := [job 1 160 .replay, job 2 0 .stripe]
      cmds := [cmd 1 1 .running, cmd 2 2 .ready]
      core0 := busy, core1 := busy, core2 := busy, core3 := busy } }

theorem witness_CommandsOnCores :
    (onCore .dispatched .dispatched).onCore 0 = some (cmd 1 1 .dispatched) ∧
    (onCore .running .running).onCore 0 = some (cmd 1 1 .running) ∧
    ((onCore .running .killing).sched.core 0).st = .killing ∧
    (sched .queued).cmd 1 = some (cmd 1 1 .queued) ∧
    (sched .ready).readWeights.faultLost = sched .ready ∧ (sched .ready).turnCheck = sched .ready ∧
    (sched .ready).sched.cmds.filter (sched .ready).mayDispatch = [cmd 1 1 .ready] ∧
    (sched .ready).chooseCore (cmd 1 1 .ready) = some 0 ∧
    contended.readWeights.faultLost = contended ∧ contended.turnCheck = contended ∧
    contended.sched.cmds.filter contended.mayDispatch = [cmd 2 2 .ready] ∧
    contended.chooseCore (cmd 2 2 .ready) = none ∧ contended.victim (cmd 2 2 .ready) = some 1 ∧
    up.readWeights.faultLost = up ∧ up.turnCheck = up ∧ up.sched.cmds.filter up.mayDispatch = [] ∧
    (onCore .committing .committing).onCore 0 = some (cmd 1 1 .committing) ∧
    (onCore .committing .committing).job 1 = some (job 1 160 .replay) := by decide +kernel

/-- The context waits for a slot; 128 others hold them all. -/
def unslotted : State := let s := sched .ready
  { s with sched := { s.sched with ctxs := [(160, { hostCtx with slot := none, waiting := true })] } }
def crowded (pinned : Bool) : State := let s := sched .ready
  { s with sched := { s.sched with ctxs := ((List.range 128).map fun k =>
      (k, { hostCtx with kind := .live, slot := some k, pinned := pinned || decide (k ≠ 5)
                         blockedSince := some 0 })) ++ [(160, { hostCtx with slot := none, waiting := true })] } }

/-- One granule of DRAM reads uncorrectable. -/
def badAt (g : Nat) (s : State) : State := { s with mc := { s.mc with bad := [g] } }

theorem witness_ContextsAndTurns :
    unslotted.badIn (contextAddr 160) 256 = none ∧ (crowded false).badIn (contextAddr 160) 256 = none ∧
    (badAt 0x1E00A0C0 unslotted).ctx 160 = some { hostCtx with slot := none, waiting := true } ∧
    (badAt 0x1E00A0C0 unslotted).runnable 160 = true ∧ (badAt 0x1E00A0C0 unslotted).mc.bad = [0x1E00A0C0] ∧
    contextAddr 160 ≤ 0x1E00A0C0 ∧ 0x1E00A0C0 < contextAddr 160 + 256 ∧ hostCtx.kind = .host ∧
    unslotted.ctx 160 = some { hostCtx with slot := none, waiting := true } ∧ unslotted.runnable 160 = true ∧
    unslotted.freeSlot = some 0 ∧ (crowded false).freeSlot = none ∧ (crowded false).runnable 160 = true ∧
    ((crowded false).sched.ctxs.filter fun y => y.2.slot.isSome && !y.2.pinned && !(crowded false).runnable y.1 &&
      !(crowded false).ctxRunning y.1).length = 1 ∧
    ((crowded true).sched.ctxs.filter fun c => c.2.slot.isSome).length = 128 ∧
    (∀ c ∈ (crowded true).sched.ctxs, c.2.slot.isSome = true → c.2.pinned = true) ∧
    ((crowded true).sched.ctxs.filter fun c => c.2.waiting && (crowded true).runnable c.1).length = 1 ∧
    (up.sched.ctxs.filter fun c => c.2.slot.isSome).length ≠ 128 ∧ (sched .queued).sched.turn.active = true ∧
    (∀ c ∈ (sched .queued).sched.cmds, ((sched .queued).hostCtxs (sched .queued).sched.turn.seat).contains
      ((sched .queued).cmdCtx c) = true → c.st = .queued ∨ c.st = .ready ∨ c.st = .done) ∧
    (onCore .running .running).sched.turn.active = true ∧
    ((onCore .running .running).sched.cmds.filter fun c => ((onCore .running .running).hostCtxs 0).contains
      ((onCore .running .running).cmdCtx c) && (c.st == .dispatched || c.st == .running)) = [cmd 1 1 .running] ∧
    (∀ c ∈ (onCore .running .running).sched.cmds, c.st ≠ .committing) ∧ (cmd 1 1 .running).turnKills < 7 ∧
    7 ≤ ({ cmd 1 1 .running with turnKills := 7 } : Cmd).turnKills ∧
    (∃ c ∈ (onCore .committing .committing).sched.cmds, ((onCore .committing .committing).hostCtxs 0).contains
      ((onCore .committing .committing).cmdCtx c) = true ∧ c.st = .committing) ∧
    up.nextSeat up.sched.turn.seat = none ∧ (sched .ready).nextSeat 3 = some 0 := by decide +kernel

def reloading : State := { up with sched := { up.sched with core0 := { reloading := true } } }

theorem witness_CoreService : ((onCore .running .running).sched.core 0).st = .running ∧
    ((onCore .running .running).sched.core 0).stalled < 3 ∧
    (3 ≤ ({ st := .killing, stalled := 3 } : Core).stalled) ∧ ((sched .queued).sched.core 0).st = .idle ∧
    (reloading.readPinned 0).faultLost = reloading ∧ (reloading.sched.core 0).reloading = true ∧
    up.img.running = none ∧ (100000 : Word).toNat % 2 ^ 17 = 100000 ∧ (99 : Word).toNat % 2 ^ 17 < 100 ∧
    100000 < (100001 : Word).toNat % 2 ^ 17 := by decide +kernel

/-! Camera ports, streams and line pipes. -/

def withPort (s : State) (st : Nat) (x : Port) : State :=
  { s.setFld .cxpPortStatus [0] 0 4 st with cam := { s.cam with ports := [(0, x)] } }
def ctrl0 (write : Bool) : CtrlCmd := ⟨cref, write, 0x4000, 4, 0x1000, false⟩

theorem witness_PortPower : up.dev ≠ .recovery ∧ (up.port 0).powered = false ∧
    up.reserved + up.fld .cxpPortCtrl [0] 4 4 ≤ up.budget ∧
    (up.setFld .cxpPocxpBudget [] 0 8 0).budget < (up.setFld .cxpPocxpBudget [] 0 8 0).reserved +
      (up.setFld .cxpPocxpBudget [] 0 8 0).fld .cxpPortCtrl [0] 4 4 ∧ up.portStreams 0 = [] ∧
    ((withPort up 4 { powered := true }).setFld .cxpPortCtrl [0] 0 1 1).fld .cxpPortCtrl [0] 0 1 = 1 ∧
    ((withPort up 4 { powered := true }).port 0).powered = true ∧ (1 ≤ (13 : BitVec 4).toNat ∧
    (13 : BitVec 4).toNat ≤ 13) ∧ 13 < (14 : BitVec 4).toNat ∧ (withPort up 2 { powered := true }).awaiting 0 = true ∧
    (1000 < 1001 ∧ 5 * 240 ≤ up.fld .cxpPortCtrl [0] 4 4 * 10000) ∧ up.fld .cxpPortCtrl [0] 4 4 * 10000 < 1000 * 240 := by
  decide +kernel

theorem witness_CameraBudget : up.fld .cxpPocxpBudget [] 8 24 = 0 ∧
    RN.off .cxpPortCtrl [0] ≠ RN.off .cxpPocxpBudget [] := by decide +kernel

/-- Port 0 shows a rate in the state named. -/
def ported (st rate : Nat) (x : Port) : State := (withPort up st x).setFld .cxpPortStatus [0] 4 3 rate

theorem witness_CameraLink : (withPort up 2 { powered := true }).awaiting 0 = true ∧
    (withPort up 2 { powered := true }).portStreams 0 = [] ∧ (ported 3 3 {}).portState 0 = 3 ∧
    (ported 3 3 {}).fld .cxpPortStatus [0] 4 3 ≠ 0 ∧ (ported 4 3 {}).linked 0 = true ∧
    (3 ≤ ((ported 4 3 {}).setFld .cxpPortCable [0] 8 8 85).fld .cxpPortCable [0] 8 8) ∧
    (ported 4 3 {}).fld .cxpPortCable [0] 8 8 < 86 ∧ ((ported 4 3 {}).port 0).writer = none ∧
    ((ported 4 3 { writer := some 2 }).port 0).writer = some 2 ∧
    bit 0x7F 6 = true ∧ 35 ≤ maxLength 7 ∧ (bit 0x3F 6 = false ∧ maxLength 7 < 36) := by decide +kernel

theorem witness_CameraControl : (ported 4 3 {}).accepts hdr false ∧ addrReserved 0x1000 = false ∧
    (4 : Word).toNat % 4 = 0 ∧ (1024 : Word).toNat ≤ 1024 ∧ bufferIn 0x1000 1024 = true ∧
    ((ported 4 3 {}).port 0).budgetRefused = false ∧ (ported 4 3 {}).linked 0 = true ∧
    ((ported 4 3 {}).port 0).ctrl = [] ∧ ((ported 4 3 { ctrl := [ctrl0 true] }).port 0).ctrl = [ctrl0 true] ∧
    ((ported 4 3 { ctrl := [ctrl0 false] }).port 0).ctrl = [ctrl0 false] ∧ (ctrl0 true).write = true ∧
    (ctrl0 false).write = false ∧ allOnes64 64 = false ∧
    ((ported 4 3 { fileBytes := 64 }).setFld .cxpPortStatus [0] 12 1 1).fld .cxpPortStatus [0] 12 1 = 1 ∧
    ((ported 4 3 { fileBytes := 64 }).port 0).fileBytes ≤ (64 : BitVec 64).toNat ∧
    (ported 4 3 { fileBytes := 64 }).badIn (fileAddr 0) 64 = none := by
  unfold State.accepts State.ringReady; decide +kernel

def block0 : Block := { number := 0, declared := 8, arrived := 0, filed := 0, firstLine := 0, headerTime := 0
                        flags := 16, sourceTag := 0, dropping := false, trusted := true, cause := 0, lineEls := 16 }
def inBlock : Stream := { stream0 with block := some block0 }
def lineIn : Stream := { piped with block := some block0, closed := false }

theorem witness_LineBlocks : up.streamOf 0 0 = none ∧
    (withStream up stream0).streamOf 0 0 = some (0, stream0) ∧ (withStream up stream0).orderBreak stream0.cfg = none ∧
    stream0.block = none ∧ (1 : BitVec 16).toNat = Strm.dataType stream0.cfg ∧
    (16 : Word).toNat = Strm.width stream0.cfg ∧ (8 : Word).toNat ≤ Strm.blockLines stream0.cfg ∧
    (16 : Word).toNat ≠ 2 ^ 32 - 1 ∧ 0 < (8 : Word).toNat ∧ (withStream up stream0).boundaryOpen 0 = false ∧
    Strm.width ((withStream up stream0).cfgNow 0 stream0) = 16 ∧ (withStream up stream0).stream 0 = some stream0 ∧
    ({ stream0 with descProd := stream0.descProd + 1 } : Stream).descHeld stream0.blockNext = false ∧
    block0.held = none ∧ block0.dropping = false ∧ 15 < block0.lineEls ∧
    (withStream up inBlock).orderBreak inBlock.cfg = none ∧ (withStream up inBlock).streamOf 0 0 = some (0, inBlock) ∧
    inBlock.nextTag.getD 255 = 255 ∧ inBlock.window = [] ∧
    inBlock.partial'.length + 15 < Strm.width inBlock.cfg * Strm.comps inBlock.cfg ∧ inBlock.remaining = some 128 ∧
    (withStream up lineIn).stream 0 = some lineIn ∧ (withStream up lineIn).dividerOf 0 = none ∧
    (withStream up lineIn).img.apply = none ∧ passes lineIn.cfg lineIn.lp = true ∧ Strm.inLine lineIn.cfg = true := by
  decide +kernel

/-- Divider 0 of encoder 0, of stream 0, with a pitch of 256 counts. -/
def divCfg : Bytes := record 2 0 [(5, 0), (9, 1), (0x14, 1), (7, 0xFF)]
def divider0 : Divider := { cfg := divCfg, origin := 0, k := 0, lastEvent := none, mapLog2 := 4
                            dieK := 0, stopped := false }
def withDivider (s : State) (d : Divider) : State := { s with motion := { s.motion with divs := [(0, d)] } }
def trig0 : Trig := ⟨0, 0, 0, 0⟩
def triggered : Stream := { stream0 with trigQueue := [trig0] }

theorem witness_StreamsCloseAndTrigger :
    (withStream up { stream0 with closed := false }).img.apply = none ∧
    (withStream up { stream0 with closed := false }).img.overlayRuns = [] ∧
    (withDivider up divider0).divider 0 = some divider0 ∧ divider0.dieK % 256 = (0 : Byte).toNat ∧
    (withStream (withDivider up divider0) stream0).cam.streams.filter
      (fun y => bit (Div.streams divider0.cfg) y.1) = [(0, stream0)] ∧ stream0.trigQueue.length < 2 ∧
    triggered.trigQueue = [trig0] ∧ (withStream (ported 4 3 {}) triggered).linked (Strm.portFirst triggered.cfg) = true ∧
    (withStream (ported 4 3 {}) triggered).orderBreak triggered.cfg = none ∧
    (withStream (ported 4 3 {}) triggered).uplinkFree 0 ≤ 900 ∧
    1000000 ≤ (withStream (ported 4 3 {}) { triggered with uplinkFree := 1000000 }).uplinkFree 0 ∧
    (withStream up stream0).stream 0 = some stream0 := by decide +kernel

def raw0 : RawLine := { index := 0, pos := 0, time := 0, block := 0, blockTime := 0, last := false, short := false
                        cause := 0, gap := false, pix := List.replicate 16 5 }
def work0 : WorkLine := { index := 0, pos := 0, time := 0, block := 0, blockTime := 0, last := false, short := false
                          cause := 0, comps := [List.replicate 16 5], alignFlag := false, rawSat := [], ffSat := []
                          drift := [], offs := [] }
def served : Stream := { piped with rawLines := [raw0] }
def aligned : Stream := { piped with align := [work0] }
def finished : Stream := { stream0 with readyLines := [work0] }
def corr0 : CorrLine := { index := 0, pos := 0, time := 0, block := 0, cause := 0, loc := .corrected, spilled := true
                          jobs := [], shoalHold := false, crops := [] }
def spilled0 : Stream := { piped with lines := [corr0], nextCorr := 1 }

theorem witness_LinePipe :
    (withStream up served).cam.streams.filter (fun x => Strm.pipe x.2.cfg == 0 && x.2.hasWork) = [(0, served)] ∧
    Strm.inLine served.cfg = true ∧ served.rawLines = [raw0] ∧ raw0.pix ≠ [] ∧
    (enterPipe served raw0 ((withStream up served).rawComps served raw0)
      ((withStream up served).enc (Strm.encoder served.cfg)).diePeriod).2 = false ∧
    (∃ r ∈ [alignHead aligned true], r = some (work0, false, false)) ∧
    (applying .drain).img.apply.map ApplyRun.phase = some .drain ∧
    (withStream up finished).stream 0 = some finished ∧ Strm.inLine finished.cfg = false ∧
    finished.room finished.layout.corrSlots finished.nextCorr = true ∧
    ({ corr0 with cause := 1 } : CorrLine).cause ≠ 0 ∧
    spilled0.lines.find? (fun l => l.spilled) = some corr0 ∧ spilled0.room spilled0.layout.winRows 0 = true ∧
    (withStream up spilled0).touchLine 0 0 = withStream up spilled0 ∧
    2 ^ 31 ≤ (up.reg .lineStatProd [0] + 2 ^ 32 - (1 : Word).toNat) % 2 ^ 32 ∧
    ((up.setReg .lineStatProd [0] 5).reg .lineStatProd [0] + 2 ^ 32 - 4) % 2 ^ 32 ≤
      2 ^ up.fld .lineStatCfg [0] 0 5 ∧
    2 ^ up.fld .lineStatCfg [0] 0 5 < ((up.setReg .lineStatProd [0] 0x40000000).reg .lineStatProd [0] + 2 ^ 32 - 4) %
      2 ^ 32 := by decide +kernel

/-! Time, the line group, the network and the lanes. -/

/-- An image with a PTP record of the role named, whose TB0 is disciplined by PTP, with or without INITIAL_STEP. -/
def ptpImage (role : Nat) (step : Nat) : Image := imageWith [(13, record 1 0 [(5, 1), (6, step)] ++
  record 2 0 [(4, role), (0x14, 1)], 2)]
def announce : Announce := ⟨128, 6, 0, 0, 128, 5, 0, 0⟩
def ptpRecord (role : Nat) : Bytes := record 2 0 [(4, role), (0x14, 1)]
def slave (step : Nat) (t : TbSt) : State := let s := running (ptpImage 1 step)
  { s with time := { s.time with master := some (0, announce), tb0 := { s.time.tb0 with st := t } } }

theorem witness_ServoSample : (slave 0 .free).ptpRec = some (ptpRecord 1) ∧
    (slave 0 .free).time.master = some (0, announce) ∧ TRec.source ((slave 0 .free).timeRec 0) = 1 ∧
    ¬(TRec.initialStep ((slave 0 .free).timeRec 0) = true ∧ ((slave 0 .free).time.base 0).sampled = false) ∧
    TRec.initialStep ((slave 1 .free).timeRec 0) = true ∧ ((slave 1 .free).time.base 0).sampled = false ∧
    TRec.jumpNs ((slave 0 .free).timeRec 0) < (1000001 : Int).natAbs ∧
    (1000000 : Int).natAbs ≤ TRec.jumpNs ((slave 0 .locked).timeRec 0) ∧
    ((slave 0 .locked).time.base 0).st = .locked ∧ 900 < (901 : Int).natAbs ∧ (-900 : Int).natAbs ≤ 900 ∧
    ((slave 0 .free).time.base 0).st ≠ .locked ∧ up.time.master = none := by decide +kernel

theorem witness_PtpAndSteps : (running (ptpImage 1 0)).ptpRec = some (ptpRecord 1) ∧ PtpRec.role (ptpRecord 1) = 1 ∧
    announce.domain = PtpRec.domain (ptpRecord 1) ∧ 0 ∈ PtpRec.ports (ptpRecord 1) ∧
    (running (ptpImage 1 0)).time.master = none ∧ 1 ∉ PtpRec.ports (ptpRecord 1) ∧ PtpRec.role (ptpRecord 2) ≠ 1 ∧
    PtpRec.role (ptpRecord 2) ≠ 0 ∧ PtpRec.peer (ptpRecord 2) = false ∧
    ((running (ptpImage 2 0)).setFld .timePtpStatus [] 0 2 2).ptpMaster = true ∧
    (running (ptpImage 2 0)).ptpMaster = false ∧ ({ up.field with held := false } : FieldState).held = false ∧
    true ≠ up.ppsFalling ∧ up.field.ppsLast = none ∧ (500000000 ≤ 0 + 500000000 ∧ ¬500000000 < 0 + 500000000) ∧
    (bit (1 : Word).toNat 0 = true ∧ bit (1 : Word).toNat 1 = false ∧ bit (3 : Word).toNat 1 = true ∧
      bit (2 : Word).toNat 0 = false) ∧ (0 : Fin 4) ≠ 1 ∧ RN.off .tbStatus [0] ≠ RN.off .snapW [0, 0] := by
  decide +kernel

/-- The GROUP section of the member of the INDEX named, of a group of two, with a strip to the sender. -/
def group (index : Nat) : Bytes := bytesWith 64 [(0, index), (1, 2), (0x1F, 1), (0x24, 1), (0x28, 1), (0x2C, 0xFF)]
def inGroup (index : Nat) : State := running (imageWith [(14, group index, 1)])
def seen (s : State) : State := { s with net := { s.net with seen := [(1, [1])] } }
def sent (type tries : Nat) : GroupMsg := ⟨1, 7, type, tries, [], 0⟩
def badHdr : GrpHdr := { grpHdr with version := 2 }
/-- The encoder of the group runs, has a sample at TB0 time 0, and TB0 is locked. -/
def anchoring : State := let s := inGroup 1
  { s with
    motion := { s.motion with encs := [(0, { ({} : Enc) with dieSt := .run, samples := [(0, 256)] })] }
    time := { s.time with tb0 := { s.time.tb0 with st := .locked } } }

theorem witness_GroupMessages : (inGroup 0).grpMatches badHdr = false ∧ (inGroup 0).grpMatches grpHdr = true ∧
    (seen (inGroup 0)).grpMatches grpHdr = true ∧ (seen (inGroup 0)).grpSeen grpHdr = true ∧
    (inGroup 0).grpSeen grpHdr = false ∧ (inGroup 0).group = some (group 0) ∧ anchoring.group = some (group 1) ∧
    Grp.index (group 1) ≠ 0 ∧ anchoring.time.tb0.st = .locked ∧
    (anchoring.enc (Grp.stretch (group 1) 0x18 1)).dieSt = .run ∧
    (anchoring.enc (Grp.stretch (group 1) 0x18 1)).posAtTb0 (anchoring.tb0Of 0) = some 256 ∧
    (anchoring.enc (Grp.stretch (group 1) 0x18 1)).posAtTb0 (anchoring.tb0Of 5) = none ∧
    [sent 3 3].find? (fun m => m.peer == 1 && m.seq == 7) = some (sent 3 3) ∧ (sent 3 3).type ≠ 0x07 ∧
    (sent 3 3).tries < 4 ∧ 4 ≤ (sent 6 4).tries ∧ (sent 6 4).type ≠ 0x03 := by decide +kernel

/-- A message from another module, and the module's own coming back: both hold whatever the MAC address is. -/
theorem witness_macAddress : Config.macAddress + 1 ≠ Config.macAddress ∧
    ({ grpHdr with mac := Config.macAddress } : GrpHdr).mac = Config.macAddress ∧
    (inGroup 0).grpMatches { grpHdr with mac := Config.macAddress } = true := by
  refine ⟨fun h => ?_, rfl, by decide +kernel⟩
  generalize Config.macAddress = m at h
  bv_omega

def peer1 : Peer := { mac := 1, ip := 1, caps := capsMsg, present := true, excluded := false }
def strip0On (s : State) : State := { s with net := { s.net with strip0 := { active := true, expect := some 0 } } }
def anchored (s : State) : State := { s with net := { s.net with anchor := some (0, 0) } }
def noStrips : Bytes := bytesWith 64 [(0, 1), (1, 2), (0x24, 0xFF), (0x2C, 0xFF)]

theorem witness_GroupMembership : capsMsg.index = Grp.index (group 1) ∧ capsMsg.index ≠ Grp.index (group 0) ∧
    Tab.get (inGroup 0).net.peers capsMsg.index = none ∧
    (∀ x ∈ (running (imageWith [(14, noStrips, 1)])).ownStrips noStrips, byteAt x.1 0 ≠ 1) ∧
    Tab.get ({ up.net with peers := [(1, peer1)] } : NetState).peers 1 = some peer1 ∧ Grp.index (group 0) = 0 ∧
    (anchoring.enc (Grp.stretch (group 0) 0x18 1)).samples = [(0, 256)] ∧ Grp.index (group 1) ≠ 0 ∧
    (anchored (inGroup 1)).net.anchor.isSome = true ∧ up.group = none ∧
    byteAt (Grp.strip (group 0) 0) 0 = grpHdr.sender.toNat ∧ ((strip0On (inGroup 0)).strip 0).active = true ∧
    byteAt (Grp.strip (group 0) 1) 0 ≠ grpHdr.sender.toNat ∧
    ((strip0On (inGroup 0)).strip 0).expect = some stripMsg.lineIndex.toNat ∧
    (inGroup 0).stream (byteAt (Grp.strip (group 0) 0) 1) = none ∧ (inGroup 1).axisAnchor (group 1) = none ∧
    (anchored (inGroup 1)).axisAnchor (group 1) = some (0, 0) ∧ handoffMsg.kind = 1 ∧
    (((anchored (inGroup 1)).noteSeq grpHdr).grpAck grpHdr).handoffPart handoffMsg 0 1 = none ∧
    (((anchored (inGroup 1)).noteSeq grpHdr).grpAck grpHdr).partDef 0 = none ∧
    Grp.stretch (group 1) 0x1C 4 = 16777216 ∧ sleAt (group 1) 0x20 4 = 0 := by decide +kernel

/-- Parts of stream 0 have one view, which member 1 has: its join record and part definition stand in section 9. A part
is open, and one has been decided by its cutoff; the encoder of the part stands, or has passed the cutoff. -/
def remoteImage : Image :=
  imageWith [(14, group 1, 1), (9, record 2 0 [(5, 1), (6, 1), (9, 1)] ++ record 1 0 [], 2)]
def remotePart : Part := (running remoteImage).newPart 0 0 0
def joining (p : Part) : State := anchored { running remoteImage with ledg := { up.ledg with parts := [(0, p)] } }
def lateToJoin : State := { joining remotePart with
  motion := { up.motion with encs := [(0, { ({} : Enc) with dieSt := .run })] }
  field := { up.field with linkState := 1 } }
def heard (s : State) : State := (s.noteSeq grpHdr).grpAck grpHdr
def byCutoff : Part := { remotePart with st := .decided, source := 3 }

theorem witness_GroupHandoffs : (joining remotePart).group = some (group 1) ∧
    (joining remotePart).grpMatches grpHdr = true ∧ (joining remotePart).axisAnchor (group 1) = some (0, 0) ∧
    (joining remotePart).grpSeen grpHdr = false ∧ handoffMsg.kind = 1 ∧ handoffMsg.source ≠ 2 ∧
    handoffMsg.damaged = false ∧ (heard (joining remotePart)).handoffPart handoffMsg 0 1 = some (0, remotePart) ∧
    remotePart.undecided = true ∧ (heard (joining remotePart)).cutoffBehind remotePart.encoder remotePart.cutoff = false ∧
    (((heard (joining remotePart)).seen remotePart).imgRecord 9 2 remotePart.stream).isSome = true ∧
    (heard lateToJoin).handoffPart handoffMsg 0 1 = some (0, remotePart) ∧
    (heard lateToJoin).cutoffBehind remotePart.encoder remotePart.cutoff = true ∧
    (heard (joining byCutoff)).handoffPart handoffMsg 0 1 = some (0, byCutoff) ∧ byCutoff.undecided = false ∧
    ({ handoffMsg with kind := 2 } : HandoffMsg).kind = 2 ∧ (heard (joining remotePart)).partDef 0 ≠ none ∧
    (heard (anchored (inGroup 1))).partDef 0 = none ∧ (inGroup 1).axisAnchor (group 1) = none := by decide +kernel

/-- A transparent clock, and a Sync that passes it from P0 to P1. -/
def clocked : State := running (imageWith [(13, record 2 0 [(0xF, 1)], 1)])
def syncFrame : Frame := ⟨macAll, 3, none, 1542, some ⟨true, 0⟩⟩

theorem witness_SwitchAndAddresses_clock : clocked.transparent = true ∧ syncFrame.bytes ≤ 9216 ∧
    syncFrame.ptp = some ⟨true, 0⟩ ∧ (0 : Fin 3) ≠ 2 ∧ (clocked.egress 0 syncFrame).any (· < 2) = true ∧
    (({ clocked with net := { clocked.net with macTable := [(3, 0)] } } : State).egress 0 syncFrame).any (· < 2) = true ∧
    up.transparent = false ∧ 0 < residenceBound 1542 := by decide +kernel

/-- The leader of a formed group of two without strips, with a POWER_MODE item at 0x1000. -/
def leader : State :=
  let g := bytesWith 64 [(1, 2), (0x24, 0xFF), (0x2C, 0xFF)]
  let s := running (imageWith [(14, g, 1)])
  ({ s with net := { s.net with peers := [(1, { peer1 with caps := { capsMsg with
      strip0 := bytesWith 8 [(0, 0xFF)], strip1 := bytesWith 8 [(0, 0xFF)] } })] } } : State).store 0x1000
    (bytesWith 64 [(0, 0x01), (1, 0x02)])
def offer : GroupLaunch := ⟨9000, bytesWith 64 [(0, 0x01), (1, 0x02)], some cref, [0]⟩
def offered : State := { leader with net := { leader.net with launches := [offer] } }
def hdrFar : Hdr := { hdr with launch := 9000 }

theorem witness_GroupLaunches : (running bare).accepts hdrNext true ∧ addrReserved 0x1000 = false ∧
    (running bare).group = none ∧ leader.accepts hdrFar true ∧ leader.accepts hdrNext true ∧
    leader.group.map Grp.index = some 0 ∧ leader.groupState = 2 ∧ bufferIn 0xFFFFFFFFFF 64 = false ∧
    bufferIn 0x1000 64 = true ∧ leader.badIn 0x1000 64 = none ∧ groupItem (leader.load 0x1000 64) = true ∧
    groupItem (leader.load 0x2000 64) = false ∧ leader.launchOf hdrNext.launch < leader.launchCounter + 5000 ∧
    leader.launchCounter + 5000 ≤ leader.launchOf hdrFar.launch ∧
    ({ up.time.tb0 with st := .listening } : TimeBase).st = .listening ∧ offered.grpMatches grpHdr = true ∧
    offered.grpSeen grpHdr = false ∧ offered.net.launches = [offer] ∧ offer.launch = (9000 : BitVec 64).toNat ∧
    (∀ m, m < 2 → m ∈ (grpHdr.sender.toNat :: offer.accepted).dedup) ∧ 1 ∉ [0] ∧
    offered.launchCounter + 1000 < (9000 : BitVec 64).toNat ∧ up.net.launches = [] := by
  unfold State.accepts State.ringReady; decide +kernel

def frame0 : Frame := ⟨2, 3, none, 9216, none⟩

theorem witness_SwitchAndAddresses : 9216 < ({ frame0 with bytes := 9217 } : Frame).bytes ∧ frame0.bytes ≤ 9216 ∧
    (up.net.macTable.filter fun e => e.1 != frame0.src).length < 1024 ∧
    1024 ≤ ((List.replicate 1024 ((4 : BitVec 48), 0)).filter fun e => e.1 != frame0.src).length ∧
    up.net.noForward = false ∧ (up.setReg .netIpAddr [] 5).ownIp = 5 ∧ (up.setReg .netIpAddr [] 5).ownIp ≠ 6 ∧
    (up.setReg .netIpAddr [] 5).reg .netIpAddr [] = (5 : Word).toNat ∧ up.reg .netIpAddr [] ≠ (5 : Word).toNat := by
  decide +kernel

def lane (n lo w v : Nat) : State := up.setFld .laneStatus [n] lo w v
def injecting : State := ((lane 0 3 1 1).setFld .laneCtrl [0] 3 1 1).setFld .laneCtrl [0] 1 2 1

theorem witness_Lanes : (up.setFld .laneCtrl [0] 0 1 1).laneRaw 0 = true ∧ (lane 0 2 1 1).laneUp 0 = true ∧
    up.laneRaw 0 = false ∧ up.laneUp 0 = false ∧ up.fld .netPortStatus [ethPort 32] 0 1 = 0 ∧
    (Tab.getD ([(32, ⟨true⟩)] : Tab Lane) 32 {}).pendingReq = true ∧ (Tab.getD up.lanes 32 {}).pendingReq = false ∧
    (up.setFld .laneTrain [32] 2 1 1).fld .laneTrain [32] 2 1 = 1 ∧ up.fld .laneTrain [32] 2 1 = 0 ∧
    up.fld .laneTxCoef [32] 0 4 ≠ 15 ∧ (up.setFld .laneTxCoef [32] 0 4 15).fld .laneTxCoef [32] 0 4 = 2 ^ 4 - 1 ∧
    (up.setFld .laneTrain [32] 0 2 1).fld .laneTrain [32] 0 2 = 1 ∧ up.fld .laneTrain [32] 0 2 ≠ 1 ∧
    injecting.fld .laneCtrl [0] 3 1 = 1 ∧ injecting.fld .laneCtrl [0] 1 2 = 1 ∧ injecting.prbsLocked 0 = true ∧
    up.fld .laneCtrl [0] 4 1 = 0 ∧ (up.setFld .laneCtrl [0] 4 1 1).fld .laneCtrl [0] 4 1 = 1 ∧
    up.prbsLocked 0 = false := by decide +kernel

def trained : State := up.setFld .memStatus [] 0 1 1
def channel0 : State := up.setFld .memChStatus [0] 0 1 1

theorem witness_ScrubAndMeters : (trained.fld .memScrubCfg [] 8 1 = 1 ∧ trained.fld .memStatus [] 0 1 = 1 ∧
      (0 : BitVec 40).toNat < dramEnd) ∧ (trained.setFld .memScrubCfg [] 8 1 0).fld .memScrubCfg [] 8 1 ≠ 1 ∧
    0 + 64 ≠ dramEnd ∧ up.fld .memChStatus [0] 0 1 = 0 ∧
    channel0.fld .memChStatus [0] 0 1 = 1 ∧
    (∃ k ∈ List.range 32, 3 < (channel0.setFld .memChStatus [0] 1 3 4).fld .memChStatus [k] 1 3) ∧
    (∀ k ∈ List.range 32, (channel0.setFld .memChStatus [0] 1 3 3).fld .memChStatus [k] 1 3 ≤ 3) ∧
    (0x7FFFFFFF : Int) ≤ 0x7FFFFFFF := by decide +kernel

/-! Seats, the Beyholdo protocol, control space and the console. -/

def lost0 : State := up.setReg .seatStatus [0] 0

theorem witness_SeatConnections : lost0.connected 0 = false ∧ lost0.seatsUp 0 = true ∧ up.connected 0 = true ∧
    State.reset.seatsUp 0 = false ∧ recovery.seatsUp 1 = false ∧ up.ringOn 0 0 = true ∧
    up.ringOutstanding 0 0 = 0 ∧ asked.ringOutstanding 0 0 ≠ 0 := by decide +kernel

/-- A ring of 64 entries at 0 in trained memory, off. -/
def ready64 : State := (trained.setReg .ringCfg [0, 1] 0)
def unread1 : State := (up.setReg .cqTail [0, 0] 1).setReg .cqMod [0, 0] 0x101

theorem witness_RingRegisters : (1 : Fin 4) ≠ 0 ∧ up.ringOn 0 0 = true ∧ (63 : Word).toNat % 65536 < up.ringSize 0 0 ∧
    up.ringSize 0 0 ≤ (64 : Word).toNat % 65536 ∧ up.ringOn 0 1 = false ∧ up.entriesWaiting = 0 ∧
    waits.entriesWaiting = 1 ∧ waits.nextTurn = some 0 ∧ ready64.fld .ringStatus [0, 1] 0 2 ≠ 2 ∧
    bit (0x19 : Word).toNat 0 = true ∧
    (ready64.setFld .ringCfg [0, 1] 1 6 (slice (0x19 : Word).toNat 1 6)).ringOk 0 1 = true ∧
    (ready64.setFld .ringCfg [0, 1] 1 6 (slice (0x15 : Word).toNat 1 6)).ringOk 0 1 = false ∧
    bit (0x18 : Word).toNat 0 = false ∧ slice (0x18 : Word).toNat 1 6 = up.fld .ringCfg [0, 0] 1 6 ∧
    (unread1.fld .cqMod [0, 0] 8 16 ≠ 0 ∧ unread1.unread 0 0 ≠ 0) ∧ up.unread 0 0 = 0 ∧
    2 ∈ ({ up.host with intHeld := [2] } : HostState).intHeld ∧ 2 ∉ up.host.intHeld := by decide +kernel

def dgram (tries : Nat) : SentDgram := ⟨3, 0x0C, [], tries, 0, 0⟩
def session : Session := { ip := 1, port := 2, id := 1, maxPayload := 1440, txSeq := 0, rxSeq := 0, unacked := []
                           waiting := [], held := [], ackOwed := true }
def withSession (x : Session) : State := { up with host := { up.host with sessions := [(2, x)] } }
def hello : BhHdr := { bhHdr with session := 0, length := 4 }

theorem witness_BeyholdoSessions : up.seatsUp 2 = true ∧
    (hello.magic = 0x4842 ∧ hello.version = 1 ∧ hello.session = 0 ∧ hello.length = 4 ∧ (0xFF : Byte) ∈ [2, 3, 0xFF] ∧
      1440 ≤ (1440 : BitVec 16).toNat) ∧ (4 : Byte) ∉ [2, 3, 0xFF] ∧ ¬1440 ≤ (1439 : BitVec 16).toNat ∧
    up.helloSeat hello 2 = some 2 ∧ up.connected 2 = false ∧
    (withSession session).helloSeat { hello with ip := 9 } 2 = none ∧ up.seatFree 2 = true ∧
    (withSession session).seatFree 2 = false ∧ (withSession session).seatFree 3 = true ∧
    (withSession session).peerOf 2 hello = true ∧ Tab.get up.host.sessions bhHdr.seat.toNat = none ∧
    (withSession session).seatsUp 2 = true ∧ Tab.get (withSession session).host.sessions bhHdr.seat.toNat = some session ∧
    (bhHdr.magic = 0x4842 ∧ bhHdr.version = 1 ∧ bhHdr.session = session.id ∧ bhHdr.length = 0) ∧
    hello.session ≠ session.id ∧ session.ackOwed = true ∧ ({ session with ackOwed := false } : Session).ackOwed = false ∧
    session.unacked = [] ∧ 5 ≤ (dgram 5).tries ∧ (dgram 4).tries < 5 := by decide +kernel

def readReg : BhHdr := { bhHdr with length := 6 }
def submitHdr (n : BitVec 16) : BhHdr := { bhHdr with length := n }
/-- The session of a seat whose ring 0 of 16 entries is enabled. -/
def ringed (seat : Nat) : State := (withSession session).setReg .ringCfg [seat, 0] 0x11

theorem witness_BeyholdoDatagrams : (readReg.magic = 0x4842 ∧ readReg.version = 1 ∧ readReg.session = session.id ∧
      bhPayload (.regRead readReg 0 1) = some readReg.length.toNat ∧ readReg.length.toNat ≤ session.maxPayload) ∧
    bhPayload (.regRead bhHdr 0 1) ≠ some bhHdr.length.toNat ∧
    Tab.get ((withSession session).bhAcked 2 readReg.ack.toNat).host.sessions 2 = some session ∧
    seqAhead readReg.seq.toNat session.rxSeq = 1 ∧ seqAhead 0 0 ≤ 0 ∧ 64 < seqAhead 65 0 ∧ 1 < seqAhead 2 0 ∧
    seqAhead 64 0 ≤ 64 ∧ session.held = [] ∧
    Tab.get ((ringed 2).bhAcked 2 (submitHdr 68).ack.toNat).host.sessions 2 = some session ∧
    (ringed 2).seatsUp 2 = true ∧ Tab.get (ringed 2).host.sessions (submitHdr 68).seat.toNat = some session ∧
    bhPayload (.submit (submitHdr 68) 0 [bytesWith 64 []]) = some (submitHdr 68).length.toNat ∧
    (submitHdr 68).length.toNat ≤ session.maxPayload ∧ seqAhead (submitHdr 68).seq.toNat session.rxSeq = 1 ∧
    (((ringed 2).bhAcked 2 0).updSession 2 fun x => { x with rxSeq := x.rxSeq + 1, ackOwed := true, held := [] }).ringOn
      2 0 = true ∧ 1 ≤ (0 + 16 - 0 - 1) % 16 ∧
    (0 < (1 : BitVec 16).toNat ∧ (64 : BitVec 16).toNat ≤ 64) ∧ 6 + 4 * 1 ≤ session.maxPayload ∧
    touchesControl 0x1000 4 = false ∧ (0x1000 : Word).toNat ≠ 2 ^ 32 - 1 ∧
    16 ≤ (16 : Byte).toNat ∧ up.ringOn 0 0 = true ∧
    (15 < 16 ∧ (up.fld .sqHead [0, 0] 0 16 + 16 - up.fld .sqTail [0, 0] 0 16 - 1) % 16 = 15) ∧
    64 < (65 : BitVec 16).toNat ∧ (0x900000 : Word).toNat % 4 = 0 ∧ 1440 < (1425 : Word).toNat + 16 ∧
    (1424 : Word).toNat + 16 ≤ 1440 ∧ touchesControl 0x3000000002 4 = true ∧ 0x3000000002 % 4 ≠ 0 ∧
    touchesControl 0x1000 4 = false ∧ up.badDram 0x1000 4 = false := by decide +kernel

theorem witness_UnoccupiedControlSpace : (0x1FFFFFC : BitVec 28).toNat % 4 = 0 ∧
    regAt (0xFFFFFFC : BitVec 28).toNat = none ∧ (0xFFFFFFC : BitVec 28).toNat % 4 = 0 := by decide +kernel

theorem witness_ControlSpaceAccess : (3 ≠ 4 ∨ (0 : BitVec 28).toNat % 4 ≠ 0) ∧ (2 : BitVec 28).toNat % 4 ≠ 0 ∧
    up.latchOf 0 (RN.off .libNextLo [7]) = none ∧
    ({ up with host := { up.host with latches := [(0, RN.off .libNextHi [7], 5)] } } : State).latchOf 0
      (RN.off .libNextHi [7]) = some 5 ∧ bit (8 : Word).toNat 3 = true := by decide +kernel

/-- Aperture 0 of seat 0 at 0, in trained memory, outside the regions of the spill ring and of opaque content. -/
theorem witness_DeviceAccess : lost0.connected 0 = false ∧ trained.connected 0 = true ∧
    trained.placeNow 0x64000000 = .dram ∧ touchesControl 0x64000000 4 = false ∧ 0x64000000 % 4096 ≤ 4092 ∧
    trained.badIn 0x64000000 4 = none ∧ trained.opaqueAt 0x64000000 = false ∧
    trained.pair .apBaseLo .apBaseHi [0, 0] / 2 ^ 20 * 2 ^ 20 + (0x3FFFFFFF : BitVec 30).toNat = 0x3FFFFFFF ∧
    trained.placeNow (halfBase trained.stagingHalf) = .dram ∧ touchesControl (halfBase trained.stagingHalf) 1 = false ∧
    up.placeNow (0xFFFFFFFFFF : BitVec 64).toNat = .unmapped ∧ trained.placeNow 0 ≠ .unmapped := by decide +kernel

theorem witness_Console : (1024 ≤ 1024 ∧ 1024 < 1025) ∧ touchesControl (0x1000 : BitVec 40).toNat 4 = false ∧
    touchesControl (0x3000000002 : BitVec 40).toNat 4 = true ∧ (0x3000000002 : BitVec 40).toNat % 4 ≠ 0 ∧
    touchesControl (0x3000000004 : BitVec 40).toNat 4 = true ∧ (0x3000000004 : BitVec 40).toNat % 4 = 0 ∧
    ([] : Bytes).length ≤ 16777216 ∧ Fw.valid [] = false := by decide +kernel

/-! Keys, libraries, decoding and training. The clauses on a firmware file, an image, an overlay or an enrolment record
that verifies have no witness here: the root key is opaque, and a signature takes the kernel minutes. -/

/-- A key block: exponent 3 and a modulus of 4,096 bits. It stands at 0x1000, and option slot 2 has its hash. -/
def keyBlk : Bytes := bytesWith 1024 [(0, 0x44), (1, 0x5A), (2, 0x4B), (3, 1), (8, 3), (0xC, 0x80)]
def hashed : Nat :=
  0xa9e354afd3c40be4930eea1f6a8ae60cb4fa9d4b8fbd2847f17233054e905d06a724380828db3ce80992ab8aa638b0ca9b7e838a906252af2d2368738b02fa3a
def keyedOption : Bytes :=
  spliceBytes (spliceBytes (bytesWith 1024 []) (0x104 + 96 * 2) [1]) (0x10C + 96 * 2) (natBe 64 hashed)
def keyed : State := { up.store 0x1000 keyBlk with boot := { up.boot with option := keyedOption } }

theorem witness_KeysAndFirmware_load : keyed.accepts hdr false true ∧ addrReserved 0x1000 = false ∧
    bufferIn 0x1000 1024 = true ∧ keyed.badIn 0x1000 1024 = none ∧ keyBlockOk (keyed.load 0x1000 1024) = true ∧
    keyBlockOk (up.load 0x1000 1024) = false ∧ Keys.enrolled keyed.boot.option 2 = true ∧
    Keys.enrolled keyed.boot.option 3 = false := by
  unfold State.accepts State.ringReady; decide +kernel

theorem witness_KeysAndFirmware_hash : keyHash (keyed.load 0x1000 1024) = Keys.hash keyed.boot.option 2 := by
  decide +kernel

/-- An enrolment record of the key block into slot 1: OP, TARGET, SIGNER and EPOCH as named, SERIAL 0. -/
def enrolment (l : List (Nat × Nat)) : Bytes :=
  bytesWith 1664 ([(0, 0x44), (1, 0x5A), (2, 0x45), (3, 1), (4, 1), (5, 1), (0x40, 0x44), (0x41, 0x5A), (0x42, 0x4B),
    (0x43, 1), (0x48, 3), (0x4C, 0x80)] ++ l)
def storing : State :=
  { up with boot := { up.boot with fwStore := [(some cref, [1])], commit := some ⟨[], none, none⟩ } }

theorem witness_KeysAndFirmware : up.accepts hdr false true ∧ bufferIn 0x1000 1664 = true ∧ up.badIn 0x1000 1664 = none ∧
    Enrol.wellFormed (bytesWith 1664 []) = false ∧ Enrol.wellFormed (enrolment [(6, 1), (0x10, 1)]) = true ∧
    Enrol.epoch (enrolment [(6, 1), (0x10, 1)]) = Keys.epoch up.boot.option 1 + 1 ∧
    Enrol.epoch (enrolment [(6, 1), (0x10, 2)]) ≠ Keys.epoch up.boot.option 1 + 1 ∧
    Enrol.permitted up.boot.option (enrolment [(6, 2), (0x10, 1)]) = false ∧
    Enrol.permitted up.boot.option (enrolment [(6, 0x20), (0x10, 1)]) = true ∧
    up.enrolKey (enrolment [(6, 0x20), (0x10, 1)]) = none ∧
    Enrol.permitted up.boot.option (enrolment [(6, 1), (0x10, 1)]) = true ∧
    up.enrolKey (enrolment [(6, 1), (0x10, 1)]) = some keyBlk ∧ storing.boot.commit.isSome = true ∧
    up.boot.commit = none ∧ allOnes64 16777216 = false ∧ (16777216 < (16777217 : BitVec 64).toNat) ∧
    bufferIn 0x1000 848 = true ∧ bufferIn 0x1000 64 = true ∧ up.badIn 0x1000 64 = none ∧
    Fw.valid ((up.load 0x1000 64).take (Fw.length (up.load 0x1000 64))) = false ∧
    storing.boot.fwStore = [(some cref, [1])] ∧ up.boot.fwStore = [] := by
  unfold State.accepts State.ringReady; decide +kernel

def library (inHost : Nat) : Library :=
  { cfg := record 1 0 [(4, inHost), (5, 0), (6, 4), (7, 50), (0xA, 1), (0x12, 1)], indexBase := 0x1000, dataBase := 0x2000 }
def withLib (s : State) (l : Library) : State := { s with cap := { s.cap with libs := [(0, l)] } }
def part0 : Part := up.newPart 0 0 0
def crop0 : Crop := { id := 1, slot := 0, partId := 0, rule := 0, view := 0, stream := 0, library := 0, line0 := 0
                      lines := 1, col0 := 0, cols := 1, edge := false, ready := true }
def cropping (l : Library) : State := let s := withStream (withLib up l) stream0
  { s with
    cap := { s.cap with waiting := [crop0], crops := [crop0] }
    ledg := { s.ledg with parts := [(0, part0)] } }
def req (outcome : Option Nat) : DecReq :=
  { library := 0, sample := 0, by' := some cref, outAddr := 0x3000, outBytes := 64, position := 0, engine := 0
    start := 0, stop := 0, cycles := 0, mcus := 0, early := none, outcome := outcome, lostMcu := 0, lostByte := 0
    lostCount := 0, planes := [], bits12 := false, entry := bytesWith 64 [], delivered := false, event := 0
    det := true, mayCache := false }
def decoding (q : DecReq) : State := let s := withLib up (library 0)
  { s with cap := { s.cap with streams := [(32, { reqs := [q] })] } }
def cached : CacheEntry := ⟨0, 0, 0, 0, 0, 0, 0, 5, 1, [], false⟩

theorem witness_LibrariesAndDecoding : (withLib up (library 1)).accepts hdr false ∧ allOnes64 1048576 = false ∧
    ((withLib up (library 1)).takes hdr 0x0601).1.lib 0 = some (library 1) ∧ Lib.inHost (library 1).cfg = true ∧
    byteAt (library 1).cfg 5 = hdr.seat ∧ Lib.inHost (library 0).cfg = false ∧
    ((1048576 : BitVec 64).toNat % 65536 = 0 ∧ ¬(1048576 : BitVec 64).toNat < 1048576) ∧
    (1048575 : BitVec 64).toNat % 65536 ≠ 0 ∧ (cropping (library 0)).cap.waiting = [crop0] ∧
    (cropping (library 0)).lib 0 = some (library 0) ∧ (cropping (library 0)).part 0 = some part0 ∧
    (library 1).attached = false ∧ (library 0).attached = true ∧
    ((cropping (library 0)).libSettle 0).libFits 0 100 = true ∧ ((cropping (library 0)).libSettle 0).libFits 0 65537 = false ∧
    addrReserved 0x3000 = false ∧ ((decoding (req none)).takes hdr 0x0602).1.lib 1 = none ∧
    bufferIn 0xFFFFFFFFFF 64 = false ∧ bufferIn 0x3000 64 = true ∧
    ((decoding (req none)).decStream 32).waiting = some (req none) ∧ (decoding (req none)).cacheHit (req none) = none ∧
    ({ decoding (req none) with cap := { (decoding (req none)).cap with cache := [cached] } } : State).cacheHit
      (req none) = some cached ∧
    ((decoding (req none)).libEntry (library 0) 0).2 = (req none).entry ∧
    ((decoding { req none with entry := bytesWith 64 [(0, 9)] }).libEntry (library 0) 0).2 ≠
      ({ req none with entry := bytesWith 64 [(0, 9)] } : DecReq).entry ∧
    ((decoding (req none)).decStream 32).next = none ∧ ((decoding (req (some 0))).decStream 32).next = some (req (some 0)) ∧
    skipped 0 = false ∧ skipped 0x42 = true ∧ (req none).early = none ∧ (req none).mayCache = false := by
  unfold State.accepts State.ringReady; decide +kernel

/-- A budget is at least MIN_BUDGET, so that a cached decode of 5 cycles stays below it (65,536 by default). How many
cycles a decode takes is opaque: it is below the budget of a stream whose last decode took long enough. -/
theorem witness_LibrariesAndDecoding_budget (c : Nat) :
    cached.cycles < up.budgetOf {} 0 cached.mcus ∧ c < up.budgetOf { hist := [(0, c + 1, 1)] } 1 1 := by
  have e : up.decLimits = (16384, 16384, 16, 65536, 256) := by decide +kernel
  simp only [State.budgetOf, e, DecStream.mean]
  constructor
  · exact Nat.lt_of_lt_of_le (by decide) (Nat.le_max_left _ _)
  · have m : (([(0, c + 1, 1)] : List (Nat × Nat × Nat)).filter fun h =>
        decide (h.1 < 1) && decide (0 < h.2.2)) = [(0, c + 1, 1)] := rfl
    rw [m, List.mergeSort_singleton]
    refine Nat.lt_of_lt_of_le ?_ (Nat.le_max_right _ _)
    have q : (16 * ((c : Rat) + 1)).floor = 16 * (c + 1 : Int) := by
      rw [show 16 * ((c : Rat) + 1) = ((16 * (c + 1 : Int) : Int) : Rat) by push_cast; ring]; exact Rat.floor_intCast _
    simp [q]
    omega

/-- An image with training job 0, and the job in the state named. -/
def trainImage : Image := imageWith [(15, record 3 0 [(7, 1)], 1)]
def training (t : TrainJob) : State := let s := withLib (running trainImage) { library 0 with next := 1 }
  { s with train := { s.train with jobs := [(0, t)] } }
def jobIn (st : TrainSt) : State := training { ({} : TrainJob) with st := st }
def trainRecord : Bytes := record 3 0 [(7, 1)]

theorem witness_TrainingJobs : (jobIn .idle).accepts hdr false ∧
    ((jobIn .idle).takes hdr 0x0603).1.trainRec 0 = some trainRecord ∧
    (((jobIn .idle).takes hdr 0x0603).1.trainJob 0).st = .idle ∧ ((jobIn .idle).takes hdr 0x0603).1.trainRec 1 = none ∧
    (((jobIn .running).takes hdr 0x0604).1.trainJob 0).st = .running ∧
    (((jobIn .paused).takes hdr 0x0605).1.trainJob 0).st = .paused ∧
    (((jobIn .running).takes hdr 0x0607).1.trainJob 0).checkpoint = none ∧
    (jobIn .running).img.running = some trainImage ∧ ((jobIn .running).trainJob 0).epochOn = false ∧
    ((training { ({} : TrainJob) with st := .running, checkpoint := some (cref, 0x1000, 256) }).trainJob 0).atBoundary
      (Trn.batch trainRecord) = true ∧
    (({ (jobIn .running).trainJob 0 with ranges := (jobIn .running).sampleRanges (Trn.libraryMask trainRecord) } :
      TrainJob).setSize = 1 ∧ Trn.batch trainRecord = 1) ∧
    ((training { ({} : TrainJob) with st := .checkpointing, checkpoint := some (cref, 0x1000, 256) }).trainJob 0).st =
      .checkpointing ∧
    (sampleLabel trainRecord (bytesWith 64 [])).filter (jobIn .running).labelFits = none := by
  unfold State.accepts State.ringReady; decide +kernel

/-- The checkpoint of that job, its CRC in bytes 0xEC to 0xEF, at 0x1000. -/
def stored : Bytes := bytesWith 256 [(0, 68), (1, 90), (2, 84), (3, 1), (5, 1), (50, 128), (51, 63), (54, 128), (55, 63),
  (232, 172), (233, 193), (234, 9), (235, 39), (236, 12), (237, 127), (238, 204), (239, 69)]
def checkpointed : State := (jobIn .idle).store 0x1000 stored

theorem witness_TrainingJobs_restore : ((checkpointed.takes hdr 0x0608).1).load 0x1000 256 = stored ∧
    stored.length = 256 ∧ inDram 0x1000 256 = true ∧ (checkpointed.takes hdr 0x0608).1.badIn 0x1000 256 = none ∧
    bytesAt stored 0 4 = [0x44, 0x5A, 0x54, 0x01] ∧ leAt stored 4 8 = stored.length ∧
    bytesAt stored 0x10 16 = trainImage.imageId ∧ leAt stored 0xE8 4 = crc32 trainRecord ∧
    byteAt stored 0xD = Trn.optimiser trainRecord ∧ leAt stored 0xE4 4 = 0 ∧ leAt stored 0xE0 4 = 0 ∧
    trainImage.trainables = [] ∧ allZero (bytesAt stored 0x38 8) = true ∧ allZero (bytesAt stored 0xF0 16) = true ∧
    leAt stored 0xE0 4 ≠ 2 ^ 32 - 1 ∧ leAt stored 0xE4 4 ≤ 256 := by decide +kernel

/-- One byte of the CRC-32. -/
def crcByte (c : Nat) (b : Byte) : Nat := crcDown 0xEDB88320 8 (c ^^^ b.toNat)

theorem crc32_eq (b : Bytes) : crc32 b = b.foldl crcByte 0xFFFFFFFF ^^^ 0xFFFFFFFF := rfl

/-- The CRC goes from a value to another over each of some chunks of 64 bytes. -/
def crcChain (b : Bytes) (v : Nat) : List Nat → Bool
  | [] => b.isEmpty
  | w :: ws => (b.take 64).foldl crcByte v == w && crcChain (b.drop 64) w ws

theorem foldl_of_crcChain (ws : List Nat) : ∀ (b : Bytes) (v : Nat), crcChain b v ws = true →
    b.foldl crcByte v = ws.getLastD v := by
  induction ws with
  | nil => intro b v h; rw [List.isEmpty_iff.mp h]; rfl
  | cons w ws ih =>
    intro b v h
    have h := (Bool.and_eq_true _ _).mp h
    conv_lhs => rw [← List.take_append_drop 64 b, List.foldl_append, beq_iff_eq.mp h.1, ih _ _ h.2]
    cases ws <;> rfl

def blank : Bytes := spliceBytes stored 0xEC (natLe 4 0)

theorem crc_blank : crc32 blank = 1171029772 := by
  rw [crc32_eq, foldl_of_crcChain [2339147886, 3991098649, 885658683, 3123937523] _ _ (by decide +kernel)]; decide

theorem witness_TrainingJobs_crc : withCrc stored = stored := by
  show spliceBytes stored 0xEC (natLe 4 (crc32 blank)) = stored
  rw [crc_blank]; decide +kernel

/-- The CRC of the default option record is that of 20_reset_clocks_power.md R505, and the record is valid. -/
theorem crc_defaultOption : Opt.crc defaultOption = leAt defaultOption 0x3FC 4 := by
  unfold Opt.crc
  rw [crc32_eq, foldl_of_crcChain [193602504, 1940100351, 1878377544, 4210263699, 3647973381, 3782058343, 2294351033,
    3566543791, 1200281606, 3605871690, 334777857, 2990653125, 1031609995, 950067821, 1651781429, 1723248523] _ _
    (by decide +kernel)]
  decide +kernel

theorem test_defaultOption_valid : Opt.valid defaultOption = true := by
  unfold Opt.valid
  rw [crc_defaultOption]; decide +kernel

/-! Parts, encoders, outputs and the barrier link. -/

/-- Part 0 of stream 0, in the running image, on encoder 0. -/
def withPart (s : State) (p : Part) : State := { s with ledg := { s.ledg with parts := [(0, p)] } }
/-- Encoder 0 runs at the die, one count each 4,096 ns, and the link is up. -/
def moving (s : State) : State :=
  { s with
    motion := { s.motion with encs := [(0, { ({} : Enc) with dieSt := .run, diePeriod := 1048576 })] }
    field := { s.field with linkState := 1 } }
def ahead : Part := { part0 with cutoff := 256 }
def deepAndShoal : Image := imageWith [(6, bytesWith 80 [(0, 2), (48, 1)], 2)]

theorem lowestFree_range (n k : Nat) : lowestFree k (List.range' k n) = k + n := by
  induction n generalizing k with
  | zero => rfl
  | succ n ih => simp only [List.range'_succ, lowestFree, ↓reduceIte, ih (k + 1)]; omega

/-- The slots below n are taken, and none is retired. -/
def taken (n : Nat) : State := { up with ledg := { up.ledg with parts := (List.range' 0 n).map fun k => (k, part0) } }

theorem newSlot_taken (n : Nat) (h : 1048576 ≤ n) : (taken n).newSlot = none := by
  have e : (taken n).ledg.parts.map Prod.fst = List.range' 0 n := by
    show ((List.range' 0 n).map fun k => (k, part0)).map Prod.fst = _
    rw [List.map_map]; exact List.map_id _
  unfold State.newSlot
  rw [e, lowestFree_range, if_neg (by omega)]; rfl

/-- Every one of the 1,048,576 slots is taken. -/
theorem witness_PartsAndDeadlines_full : (taken 1048576).newSlot = none := newSlot_taken _ (Nat.le_refl _)

def ended : Part := { part0 with st := .decided, shadow := true, decidedTb1 := 0 }
def shadowing : State := withPart (running (imageWith [(15, record 4 0 [(0x10, 0)], 1)])) ended
def histView : View := { newView 0 true with first := some 0, last := some 0, deep := some [], scope := some 0 }
def viewAt (scope : Nat) : View := { histView with scope := some scope }
def scopedAt (scope : Nat) : Part := { part0 with views := [viewAt scope] }
def store0 : HistStore := { record := bytesWith 64 [], base := 0x10000, entryBytes := 64, keyFormat := 4, valueFormat := 4 }
def history : State := let s := withPart (running bare) (scopedAt 0)
  { s with ledg := { s.ledg with hist := [(0, store0)] } }

/-- Scope 0's deep tail has not committed, and that of the scope named, in slot 1, has. -/
def waitsFor (scope : Nat) : State := { history with ledg := { history.ledg with
  parts := [(0, { part0 with views := [{ viewAt 0 with deep := none }] }), (1, scopedAt scope)] } }
/-- The open queue has no place left. -/
def openQueueFull : State := { up with ledg := { up.ledg with openFree := 4096 * 5000 } }
/-- The deciding block is held back by a full insertion queue. -/
def heldBack : State := { withPart up part0 with motion := { up.motion with insertHold := [(1, [])] } }

def inService : State := { up with sched := { up.sched with core0 := { st := .idle, mhz := 500 } } }

theorem witness_PartsAndDeadlines : up.newSlot = some 0 ∧ (withPart up part0).part 0 = some part0 ∧
    part0.undecided = true ∧ ended.undecided = false ∧ up.mc.bad = [] ∧
    (moving (withPart up part0)).cutoffPassedNow part0 = true ∧
    (moving (withPart (running bare) ahead)).cutoffPassedNow ahead = false ∧
    (moving (withPart (running bare) ahead)).timeOf ahead.encoder ahead.cutoff = some 4096 ∧
    (moving (withPart (running bare) ahead)).partDet ahead = false ∧ bare.model 1 = none ∧
    (deepAndShoal.model 1).isSome = true ∧ ahead.shoalRan = false ∧
    ({ ahead with imageGen := 0 } : Part).imageGen = (running deepAndShoal).img.gen ∧
    (inService.pred 0 part0 0 5).isSome = true ∧ (inService.pred 0 part0 1 5).isSome = true ∧ part0.mode = 0 ∧
    reached (up.diePos part0.encoder) (posCounts part0.windowEnd (up.viewOffset part0 0)) = true ∧
    ({ part0 with mode := 1 } : Part).mode ≠ 0 ∧
    (shadowing.seen ended).imgRecord 15 4 ended.stream = some (record 4 0 [(0x10, 0)]) ∧ ended.shadow = true ∧
    ended.decidedTb1 + leAt (record 4 0 [(0x10, 0)]) 0x10 4 * 1000000 ≤ shadowing.now ∧ part0.shadow = false := by decide +kernel

/-- History: the lowest scope is due where the scopes before it are settled, and waits where one is not. -/
theorem witness_PartsAndDeadlines_history :
    history.countVoids.histDue 0 = some (0, 0, scopedAt 0, 0, viewAt 0) ∧ history.countVoids.histStore 0 = some store0 ∧
    history.countVoids.settledBefore 0 0 = true ∧ history.countVoids.slotsHeld 0 store0 1 = false ∧
    (waitsFor 1).countVoids.histDue 0 = some (1, 1, scopedAt 1, 0, viewAt 1) ∧
    (waitsFor 1).countVoids.settledBefore 0 1 = false := by
  decide +kernel

theorem witness_PartsAndDeadlines_held : up.openFull = false ∧ openQueueFull.openFull = true ∧
    up.motion.insertHold = [] ∧ heldBack.motion.insertHold ≠ [] ∧ (∀ d ∈ heldBack.motion.decideWait, d.1 ≠ 0) ∧
    heldBack.part 0 = some part0 := by decide +kernel

/-- Encoder 0 with the MOTION record named. -/
def encoder (l : List (Nat × Nat)) (e : Enc) : State :=
  { up with motion := { up.motion with encs := [(0, { e with cfg := record 1 0 l })] } }

/-- A running channel of the count period named, in ns. -/
def slow (ns : Rat) : Enc := { st := .run, period := some ns }

theorem witness_Encoders : ((encoder [(4, 1)] {}).enc 0).incremental = true ∧
    ((encoder [(4, 1)] {}).enc 0).wireLost = false ∧ ((encoder [(4, 1)] {}).enc 0).st ≠ .lost ∧
    EncCfg.type ((encoder [(4, 1)] {}).enc 0).cfg = 1 ∧
    (EncCfg.indexCheck ((encoder [(4, 1), (0x20, 4)] { indexSeen := true, count := 4 }).enc 0).cfg = 4) ∧
    (((encoder [(4, 1)] { indexSeen := true, count := 4 }).enc 0).count -
      ((encoder [(4, 1)] { indexSeen := true, count := 4 }).enc 0).indexCount).toInt.natAbs = 4 ∧
    ((encoder [(4, 1)] { st := .run }).enc 0).st = .run ∧ ((encoder [(4, 1)] { st := .lost }).enc 0).st = .lost ∧
    ((encoder [(4, 3), (9, 8)] {}).enc 0).ssi = true ∧
    EncCfg.errBit ((encoder [(4, 3), (9, 8)] {}).enc 0).cfg = 0 ∧
    EncCfg.errBit ((encoder [(4, 3), (9, 8), (0xB, 1)] {}).enc 0).cfg = 1 ∧
    ((encoder [(4, 3), (9, 8)] { ssiValue := some 255 }).enc 0).ssiValue = some 255 ∧
    toSigned 8 ((0 + 2 ^ 8 - 255) % 2 ^ 8) = 1 ∧
    (1 : Int).natAbs ≤ EncCfg.maxStep ((encoder [(4, 3), (9, 8), (0x18, 1)] {}).enc 0).cfg ∧
    EncCfg.maxStep ((encoder [(4, 3), (9, 8), (0x18, 1)] {}).enc 0).cfg < (2 : Int).natAbs ∧
    (0 + 1 < EncCfg.errLimit (record 1 0 [(0x1C, 2)]) ∧ ¬1 + 1 < EncCfg.errLimit (record 1 0 [(0x1C, 2)])) ∧
    ((encoder [(4, 3), (9, 8)] {}).enc 0).wireLost = false ∧ EncCfg.type ((encoder [(4, 3)] {}).enc 0).cfg = 3 ∧
    (slow 100000001).periodAt 0 = some 100000001 ∧ (slow 100000000).periodAt 0 = some 100000000 ∧
    (({} : Enc).periodAt 0 = none) ∧ (slow 100000001).st = .run := by
  decide +kernel

def eject0 : Eject := { seq := 0, pos := 0, mask := 1, failMask := 0, partId := part0.id, partSlot := 0, encoder := 0
                        shape := 0, failShape := 0, st := 1, lateCounts := 1, fired := 0, index := 0 }
def entry0 (p : Pos) (seen : Bool) : WinEntry := ⟨0, { eject0 with pos := p }, { eject0 with pos := p }, false, false, 0, seen⟩
/-- The outputs are not held, and encoder 0 stands at the position named. -/
def firing (p : Pos) : State := { up with
  field := { up.field with held := false, powered := true, fcSafe := false }
  motion := { up.motion with encs := [(0, { ({} : Enc) with p := p, st := .stopped })] } }
def armed (p : Pos) (w : WinEntry) : State := let s := firing p
  { s with motion := { s.motion with windows := [(0, [w])] } }
def queued0 : State := { withPart up part0 with motion := { up.motion with insertQueue := [(0, [eject0])] } }
def divRunning : State := withDivider (firing 0) divider0

theorem witness_DividersAndList : (∀ g ∈ up.mc.bad, g < 0x58000000 ∨ 0x60000000 ≤ g) ∧
    (badAt 0x5FFFFFC0 up).mc.bad = [0x5FFFFFC0] ∧
    divRunning.divider 0 = some divider0 ∧ divider0.stopped = false ∧
    divRunning.field.held = false ∧ (divRunning.enc (Div.encoder divider0.cfg)).st ≠ .off ∧
    reached (divRunning.encPos (Div.encoder divider0.cfg)) (divider0.grid (divider0.k + 1)) = false ∧
    reached (divRunning.encPos (Div.encoder divider0.cfg)) (divider0.grid divider0.k) = true ∧
    (divRunning.enc (Div.encoder divider0.cfg)).forward = true ∧
    reached (({ divRunning with motion := { divRunning.motion with encs := [(0, { ({} : Enc) with
      st := .stopped, count := -1, p := -256 })] } } : State).encPos 0) (divider0.grid divider0.k) = false ∧
    ((withDivider up divider0).now < ({ on := true, endAt := 5 } : Output).endAt ∧ ({ on := true } : Output).endAt ≤
      up.now) ∧ divRunning.motion.insertHold = [] ∧ divRunning.motion.decideWait = [] ∧
    queued0.motion.insertHold = [] ∧ queued0.motion.decideWait = [] ∧
    divider0.lastEvent = none ∧ divRunning.now < 0 + Div.minPeriod (record 2 0 [(0xC, 1)]) ∧
    (running bare).img.running.isSome = true ∧ Div.trigOut divider0.cfg ≠ 0xFF ∧
    (({ on := true } : Output).on = true) ∧ ({ divRunning with field := { divRunning.field with
      cfg := [record 2 0 [(4, 2)]], outputs := [(0, { on := true })] } } : State).outMode 0 = 2 ∧
    up.motion.insertQueue = [] ∧ queued0.motion.insertQueue = [(0, [eject0])] ∧ queued0.part 0 = some part0 ∧
    (∀ e ∈ [eject0], e.mask ≠ 0) ∧ queued0.pendingSlots.length + [eject0].length ≤ 2097152 ∧
    [0, 2].Pairwise (· < ·) := by decide +kernel

/-- The list holds n pending entries. -/
def listed (n : Nat) : State :=
  { queued0 with motion := { queued0.motion with list := (List.range n).map fun k => (k, eject0) } }

theorem pendingSlots_listed (n : Nat) : (listed n).pendingSlots.length = n := by
  show ((((List.range n).map fun k => (k, eject0)).filter fun e => e.2.pending).map Prod.fst).length = n
  rw [List.filter_eq_self.mpr (by intro a h; obtain ⟨k, -, rfl⟩ := List.mem_map.mp h; rfl), List.length_map,
    List.length_map, List.length_range]

/-- A list of 2,097,152 pending entries has no room for one more. -/
theorem witness_DividersAndList_full : 2097152 < (listed 2097152).pendingSlots.length + [eject0].length := by
  rw [pendingSlots_listed]; exact Nat.lt_succ_self _

theorem witness_OutputsFire : up.outputsHeld = true ∧ (up.enc 0).st = .off ∧ ((armed 0 (entry0 0 false)).enc 0).st ≠ .off ∧
    up.pulseOver (0, none) = true ∧ up.pulseOver (1, none) = false ∧ up.pulseOver (1, some (0, 1)) = false ∧ (armed 256 (entry0 0 false)).outputsHeld = false ∧
    (armed 256 (entry0 0 false)).window 0 = [entry0 0 false] ∧ (entry0 0 false).bad0 = false ∧
    (entry0 0 false).bad1 = false ∧ (entry0 0 false).copy0 = (entry0 0 false).copy1 ∧
    posSub ((armed 256 (entry0 0 false)).encPos 0) 0 = 256 * (eject0.lateCounts : Int) ∧
    256 * (eject0.lateCounts : Int) < posSub ((armed 257 (entry0 0 false)).encPos 0) 0 ∧
    posSub ((armed 0 (entry0 0 false)).encPos 0) 0 ≤ 0 ∧ (entry0 0 false).switched = 0 ∧
    (∀ q ∈ maskOutputs eject0.mask, ((armed 0 (entry0 0 false)).entryView eject0).switchNow 0 q eject0.pos = true) ∧
    ((firing 0).output 0).isTripped = false ∧ ((firing 0).output 0).on = false ∧ ((firing 0).output 0).offAt = none ∧
    Shape.mode (record 3 0 []) = 0 ∧ ({ on := true, peak := true } : Output).peak = true ∧
    (4000 ≤ up.groupLimit 0 ∧ up.groupLimit 0 < 4001) ∧
    ({ up with field := { up.field with linkState := 1 } } : State).linkCode ≠ 0 ∧ 12000 < 12001 ∧
    (0 + 1000000 ≤ ({ up with time := { up.time with tb1 := { up.time.tb1 with value := 1000000 * 2 ^ 32 } } } :
      State).now) ∧ ({ up with field := { up.field with cfg := [record 2 0 [(6, 1)]] } } : State).outOpenTest 0 = true := by
  decide +kernel

def input0 (enc : Nat) : State := { firing 0 with field := { (firing 0).field with cfg := [record 1 0 [(8, enc)]] } }
def counter0 : State := { firing 0 with field := { (firing 0).field with cfg := [record 4 0 [(5, 2)]] } }
def outputsHost : State := { up with field := { up.field with
  linkState := 1, cfg := (List.range 64).map fun q => record 2 q [(4, 3)] } }

theorem witness_FieldInputs : up.field.held = true ∧ (input0 0xFF).field.held = false ∧
    bit (input0 0xFF).field.inputs.toNat 0 ≠ true ∧ (∀ c ∈ List.range 4, (input0 0xFF).fieldRec 4 c = none) ∧
    (input0 0xFF).inEncoder 0 = none ∧ (input0 3).inEncoder 0 = some 3 ∧
    counter0.fieldRec 4 0 = some (record 4 0 [(5, 2)]) ∧ byteAt (record 4 0 [(5, 2)]) 4 = 0 ∧
    byteAt (record 4 0 [(5, 2)]) 5 = 2 ∧ outputsHost.linkCode ≠ 0 ∧ up.linkCode = 0 ∧
    (∀ q ∈ List.range 64, outputsHost.outMode q = 3) ∧ (0x24 : BitVec 20).toNat % 4 = 0 ∧
    0x14 ≤ (0x14 : BitVec 20).toNat ∧ (regAt (0xF00000 + 0x14)).isSome = true ∧
    ((regAt (0xF00000 + 0x14)).map fun r => decide (r.1 ∉ [.laneMatchCnt, .lanePrbsBitsLo, .lanePrbsErr])) = some true := by
  decide +kernel

theorem witness_BarrierLink : (firing 0).field.held = false ∧ (firing 0).motion.transfers = [] ∧
    up.wantSafe = true ∧ ({ running bare with field := { up.field with dieSafe := false } } : State).wantSafe = false ∧
    (up.field.dieSafe = true ∨ up.field.fcSafe = true) ∧ (up.field.fcLost = false) ∧
    ({ up.field with fcLost := true } : FieldState).fcLost = true ∧
    up.field.upQueue = [] ∧ up.field.fcReset = false ∧ up.field.linkState = 0 ∧
    (16 ≤ 16 ∧ up.field.goodDown < 16) ∧ (firing 0).field.powered = true ∧ up.field.powered = false ∧
    19200 ≤ 19200 := by decide +kernel

/-! Resets, bring-up, options, applies, the recorder and ticks. -/

def islands (v : Nat) : State := up.setReg .rstIslands [] v
def boot (n : Nat) : State := { State.reset with boot := { State.reset.boot with step := n } }
def attempted (n : Nat) : State := { boot 2 with backup := { (boot 2).backup with attempts := n } }

theorem witness_DieResets : ({ up with boot := { up.boot with failed := true } } : State).boot.failed = true ∧
    up.boot.failed = false ∧ up.dev ≠ .recovery ∧ recovery.dev = .recovery ∧ slice (0xA4000001 : Word).toNat 24 8 ≠ 0xA5 ∧
    (slice (0xA5000000 : Word).toNat 24 8 = 0xA5 ∧ slice (0xA5000000 : Word).toNat 0 6 = 0) ∧
    (0xA5000001 : Word).toNat % 2 = 1 ∧ slice (0xA5000010 : Word).toNat 0 6 = 2 ^ (1 + (3 : Fin 4).val) ∧
    slice (0xA5000020 : Word).toNat 0 6 = 32 ∧ (applying .drain).img.apply.map ApplyRun.phase = some .drain ∧
    up.img.apply = none ∧ recovery.islandOff 0 = true ∧ up.islandOff 0 = false ∧
    (islands 1).fld .rstIslands [] 0 1 = 1 ∧ (islands 0).fld .rstIslands [] 0 1 ≠ 1 := by decide +kernel

/-- Overtemperature has switched core 0 off, and no reset has come since. -/
def overheated : State := { up with sched := { up.sched with core0 := { hotOff := true } } }

/-- The firmware of reset flash does not verify. A file that does needs the root key, which is opaque. -/
theorem witness_BringUp : State.reset.boot.step ≠ 2 ∧ (boot 2).boot.step = 2 ∧
    ((boot 2).setFld .rstBootStatus [] 11 1 1).fld .rstBootStatus [] 11 1 = 1 ∧
    (boot 2).fld .rstBootStatus [] 11 1 ≠ 1 ∧ Opt.bootLimit defaultOption < (attempted 4).backup.attempts ∧
    overheated.staysHot 0 = true ∧ up.staysHot 0 = false ∧
    ¬Opt.bootLimit defaultOption < (attempted 3).backup.attempts ∧
    ((boot 2).loadTrims [false, false, false, false]).2 = false ∧
    ((boot 2).loadTrims [false, false, false, true]).2 = true ∧ (islands 0x7FFF).fld .rstIslands [] 14 1 = 1 ∧
    (∀ i ∈ List.range 15, (islands 0x7FFF).fld .rstIslands [] i 1 = 1) ∧ (islands 0x3FFF).fld .rstIslands [] 14 1 ≠ 1 ∧
    ((boot 5).boot.step = 5 ∧ (boot 5).dev ≠ .recovery) ∧ ((boot 6).boot.step = 6 ∧ (boot 6).boot.failed = false) ∧
    Fw.valid (boot 6).flash.firmware = false ∧ ((boot 7).boot.step = 7 ∧ ¬32 ≤ 31) ∧
    ({ boot 7 with dev := .recovery } : State).dev = .recovery ∧ ((boot 9).boot.step = 9 ∧ (boot 9).dev = .boot) ∧
    up.img.autoLoad ≠ 1 ∧ ({ up.img with autoLoad := 1 } : ImgState).autoLoad = 1 ∧ up.flash.slot = [] ∧
    ({ up.flash with slot := [1] } : Flash).slot ≠ [] := by decide +kernel

theorem loadOptions_of_three (s : State) (d : Bytes) (hv : Opt.valid d = true) (ho : s.flash.options = [d, d, d]) :
    s.loadOptions.2 = none := by
  unfold State.loadOptions
  rw [ho]
  simp [chooseOption, List.zipIdx, hv]

theorem witness_BringUp_options : (boot 2).loadOptions.2 = none :=
  loadOptions_of_three _ _ test_defaultOption_valid rfl

theorem witness_BringUp_invalid : Opt.valid [] = false := by decide +kernel

/-- The boot record and the window hold the default record, with the bytes named changed in the window. -/
def window (off : Nat) (b : Byte) : State := { up with boot := { up.boot with
  option := defaultOption, window := spliceBytes defaultOption off [b] } }
def nextOf (s : State) : Bytes :=
  Opt.next (spliceBytes (bytesAt s.boot.window 0 1024) 0x100 (bytesAt s.boot.option 0x100 764)) (Opt.seq s.boot.option)

theorem witness_OptionsAndSupplies : storing.boot.commit.isSome = true ∧ (window 9 1).boot.commit = none ∧
    Opt.reservedOk (nextOf (window 9 1)) = true ∧ Opt.fieldsOk (nextOf (window 9 1)) = true ∧
    Opt.fieldsOk (nextOf (window 9 2)) = false ∧ Opt.reservedOk (nextOf (window 0x20 1)) = false ∧
    (up.sched.core 0).mhz = 0 ∧ (inService.sched.core 0).mhz ≠ 0 ∧ (({} : Core).throttled = false) ∧
    (({ throttled := true, clearMs := 99 } : Core).clearMs < 100 ∧ 100 ≤ ({ throttled := true, clearMs := 100 } : Core).clearMs) ∧
    (∀ t ∈ ([105, 105, 105, 105] : List Int), t ≤ 105) ∧ 0 ≤ up.img.power.limits.1 ∧ (400 : Int) ≤ up.img.power.limits.2 ∧
    (∀ n ∈ List.range 4, (up.sched.core n).throttled = false) ∧ ({ hotOff := true } : Core).hotOff = true ∧
    ((17000 ≤ 17000 ∧ 33000 ≤ 33000) ∧ 16999 < 17000 ∧ 33000 < 33001) ∧ up.fld .rstJ1 [] 0 16 = 0 ∧
    (up.setReg .rstJ1 [] 16999).fld .rstJ1 [] 0 16 < 17000 ∧ (up.setReg .rstJ1 [] 16999).fld .rstJ1 [] 0 16 ≠ 0 ∧
    33000 < (up.setReg .rstJ1 [] 33001).fld .rstJ1 [] 0 16 := by decide +kernel

/-- The drain with an old stripe job, and with a stream that has not reached its boundary. -/
def drainJob : State := let s := applying .drain
  { s with sched := { s.sched with jobs := [job 1 0 .stripe] } }

theorem witness_ApplyPhases : up.img.apply = none ∧ up.boot.pendingStreams = false ∧
    (applying .fieldWait).img.apply.map ApplyRun.phase = some .fieldWait ∧ (applying .fieldWait).pendingSlots = [] ∧
    (applying .fieldWait).motion.insertQueue = [] ∧ (applying .fieldWait).motion.insertHold = [] ∧
    heldBack.motion.insertHold ≠ [] ∧ queued0.motion.insertQueue ≠ [] ∧
    (applying .drain).oldWork = [] ∧ (∀ x ∈ (applying .drain).cam.streams, (Tab.get ([] : Tab Nat) x.1).isSome) ∧
    ¬(∀ x ∈ (withStream (applying .drain) stream0).cam.streams, (Tab.get ([] : Tab Nat) x.1).isSome = true) ∧
    drainJob.oldWork ≠ [] ∧ (applying .load).img.apply.map ApplyRun.phase = some .load ∧
    (applying .load).boot.pendingStreams = false ∧
    ({ up.boot with pendingStreams := true } : BootState).pendingStreams = true := by decide +kernel

theorem witness_ApplyPhases_plan : ((applying .load).planFor bare).isSome = true := by decide +kernel

def rec0 : EvRec := info 9
def recorder (queue chip : List EvRec) : State := { up with rec' := { up.rec' with queue := queue, chip := chip } }
def bucket0 (tokens : Nat) (p : Option EvRec) : Bucket := ⟨rec0.key, rec0.severity, tokens, p⟩
def bucketed (b : Bucket) : State := let s := recorder [rec0] []
  { s with rec' := { s.rec' with buckets := [b] } }

theorem witness_EventRecorder : up.rec'.queue = [] ∧ (recorder [rec0] []).rec'.queue = [rec0] ∧
    0 < ((recorder [rec0] []).bucket rec0.key rec0.severity).tokens ∧
    ((bucketed (bucket0 0 none)).bucket rec0.key rec0.severity).tokens = 0 ∧ up.snapClass rec0 = none ∧
    up.onChip + rec0.size ≤ 8192 ∧ ({ up.rec' with spillOk := true } : RecState).spillOk = true ∧ up.mc.bad = [] ∧
    (recorder [] [rec0]).rec'.chip = [rec0] ∧ up.rec'.ring.length + rec0.size ≤ 524288 ∧ up.rec'.spillOk = false ∧
    up.rec'.buckets[0]? = none ∧ (bucketed (bucket0 0 none)).rec'.buckets[0]? = some (bucket0 0 none) ∧
    (bucketed (bucket0 0 (some rec0))).rec'.buckets[0]? = some (bucket0 0 (some rec0)) ∧
    0 < (bucketed (bucket0 0 (some rec0))).burst 2 ∧
    ((bucketed (bucket0 0 (some rec0))).accept rec0).isSome = true ∧ up.rec'.floods[0]? = none ∧
    (bucketed (bucket0 0 none)).keyQuiet rec0.key = false ∧ up.keyQuiet rec0.key = true ∧ up.rec'.ring = [] := by
  decide +kernel

theorem witness_TicksAndMemory : up.pending = [] ∧ up.img.items = [] ∧ up.rec'.syslog = {} ∧ up.rec'.fanout = {} ∧
    up.entriesWaiting = 0 ∧ Mem.wf [(5, (1 : Byte))] = true ∧ up.badIn 0x1000 64 = none ∧ 0x1000 % 64 = 0 ∧
    up.memWf = true ∧ (bytesWith 63 []).length < 64 ∧ 0 < (bytesWith 63 []).length ∧
    (0 : Nat) = 0 ∧ (1 : Nat) ≠ 0 := by decide +kernel

theorem witness_EveryStepKeepsMemory : up.memWf = true ∧ ∃ t, step up = .next t := by
  exact ⟨by decide +kernel, _, rfl⟩

end Sys2Proof.Tests
end

/-! PROOFS. A ring entry and back: the fields of an entry's 64 bytes read back, so its command does (O3). -/

namespace Sys2Proof.Machine

/-! ### Numbers in a byte string -/

/-- A number at the front of a byte string reads back, modulo its width. -/
theorem leAt_natLe (n v : Nat) (r : Bytes) : leAt (natLe n v ++ r) 0 n = v % 256 ^ n := by
  rw [leAt, List.drop_zero, List.take_left' (natLe_length n v), leNat_natLe]

/-- A word at the front of a byte string that is wide enough for it reads back. -/
theorem leAt_natLe_toNat {w n : Nat} (v : BitVec w) (r : Bytes) (h : 2 ^ w ≤ 256 ^ n) :
    leAt (natLe n v.toNat ++ r) 0 n = v.toNat := by
  rw [leAt_natLe, Nat.mod_eq_of_lt (v.isLt.trans_le h)]

/-- What stands past a number is read as if the number were not there. -/
theorem leAt_natLe_past (m v off n : Nat) (r : Bytes) (h : m ≤ off) :
    leAt (natLe m v ++ r) off n = leAt r (off - m) n := by
  rw [leAt, leAt, List.drop_append, natLe_length, List.drop_of_length_le (by simpa using h), List.nil_append]

theorem byteAt_eq_leAt (bs : Bytes) (off : Nat) : byteAt bs off = leAt bs off 1 := by
  unfold byteAt leAt
  cases bs.drop off <;> simp [leNat]

/-! ### The 64 bytes of an entry (R414) -/

/-- The bytes past the last one that a command lists. -/
def Entry.padding (e : Entry) : Bytes := List.replicate (48 - e.params.length) 0

theorem Entry.bytes_eq (e : Entry) : e.bytes = natLe 2 e.opcode ++ (natLe 1 (hdrFlags e.hdr) ++ (natLe 1 0 ++
    (natLe 4 e.hdr.tag.toNat ++ (natLe 8 e.hdr.launch.toNat ++ (e.params ++ e.padding))))) := by
  simp only [Entry.bytes, Entry.padding, List.append_assoc]

theorem Entry.bytes_length (e : Entry) (h : e.params.length ≤ 48) : e.bytes.length = 64 := by
  simp only [Entry.bytes_eq, Entry.padding, List.length_append, natLe_length, List.length_replicate]
  omega

theorem Entry.leAt_opcode (e : Entry) : leAt e.bytes 0 2 = e.opcode % 65536 := by
  simp only [Entry.bytes_eq, leAt_natLe, Nat.reducePow]

/-- FLAGS is one byte, and each of its bits reads back. -/
theorem hdrFlags_bits (h : Hdr) : hdrFlags h < 256 ∧ bit (hdrFlags h) 0 = h.override ∧
    bit (hdrFlags h) 1 = h.fence ∧ bit (hdrFlags h) 7 = h.reservedSet := by
  unfold hdrFlags
  generalize h.override = override, h.fence = fence, h.reservedSet = reserved
  revert override fence reserved
  decide

theorem Entry.byteAt_flags (e : Entry) : byteAt e.bytes 2 = hdrFlags e.hdr := by
  rw [byteAt_eq_leAt, Entry.bytes_eq, leAt_natLe_past _ _ _ _ _ (by decide), leAt_natLe]
  exact Nat.mod_eq_of_lt (hdrFlags_bits e.hdr).1

theorem Entry.leAt_tag (e : Entry) : leAt e.bytes 4 4 = e.hdr.tag.toNat := by
  rw [Entry.bytes_eq]
  simp [leAt_natLe_past, leAt_natLe_toNat]

theorem Entry.leAt_launch (e : Entry) : leAt e.bytes 8 8 = e.hdr.launch.toNat := by
  rw [Entry.bytes_eq]
  simp [leAt_natLe_past, leAt_natLe_toNat]

/-- From byte 0x10 on an entry holds its PARAMS. -/
theorem Entry.leAt_params (e : Entry) (off n : Nat) (h : 16 ≤ off) :
    leAt e.bytes off n = leAt (e.params ++ e.padding) (off - 16) n := by
  rw [Entry.bytes_eq, leAt_natLe_past _ _ _ _ _ (by omega), leAt_natLe_past _ _ _ _ _ (by omega),
    leAt_natLe_past _ _ _ _ _ (by omega), leAt_natLe_past _ _ _ _ _ (by omega), leAt_natLe_past _ _ _ _ _ (by omega)]
  simp only [Nat.sub_sub, Nat.reduceAdd]

/-- The header reads back but for whether a reserved bit is set, which the decoder tries both ways. -/
theorem Entry.entryHdr_bytes (e : Entry) (reserved : Bool) :
    entryHdr e.hdr.seat e.hdr.ring reserved e.bytes = { e.hdr with reservedSet := reserved } := by
  obtain ⟨-, ho, hf, -⟩ := hdrFlags_bits e.hdr
  simp [entryHdr, Entry.byteAt_flags, Entry.leAt_tag, Entry.leAt_launch, ho, hf]

/-! ### The fields of a command (R417, R553) -/

/-- The opcodes that R417 and R553 list. -/
def listedOpcodes : List Nat :=
  [0x0001, 0x0101, 0x0102, 0x0103, 0x0104, 0x0105, 0x0106, 0x0107, 0x0108, 0x0201, 0x0202, 0x0203, 0x0301, 0x0302,
   0x0303, 0x0304, 0x0401, 0x0402, 0x0403, 0x0404, 0x0501, 0x0502, 0x0601, 0x0602, 0x0603, 0x0604, 0x0605, 0x0606,
   0x0607, 0x0608, 0x0609, 0x060A, 0x0701, 0x0702, 0x0703, 0x0704, 0x0801]

theorem entryOf_params_length (i : Instr) (e : Entry) (he : entryOf i = some e) : e.params.length ≤ 48 := by
  unfold entryOf at he
  split at he <;> cases he <;> simp

/-- Whatever the bytes are, the command read from them has an entry under the header given. -/
theorem entryOf_entryFields (h : Hdr) (bs : Bytes) : ∃ e, entryOf (entryFields h bs) = some e ∧ e.hdr = h := by
  simp only [entryFields]
  split <;> exact ⟨_, rfl, rfl⟩

/-- An opcode that is not listed has no fields. -/
theorem entryFields_unlisted (h : Hdr) (bs : Bytes) (hn : leAt bs 0 2 ∉ listedOpcodes) :
    entryFields h bs = .opcodeUnknown h (BitVec.ofNat 16 (leAt bs 0 2)) := by
  simp only [listedOpcodes, List.mem_cons, List.not_mem_nil, or_false, not_or] at hn
  simp only [entryFields]
  split
  case h_38 => rfl
  all_goals omega

/-- The fields of a listed command stand in its entry where the decoder reads them. -/
theorem entryFields_bytes_listed (i : Instr) (e : Entry) (he : entryOf i = some e) (hu : isUnknown i = false) :
    entryFields e.hdr e.bytes = i := by
  unfold entryOf at he
  split at he <;> cases he
  case h_38 => cases hu
  all_goals simp [entryFields, byteAt_eq_leAt, Entry.leAt_opcode, Entry.leAt_params, leAt_natLe_past, leAt_natLe_toNat]

theorem eq_opcodeUnknown (i : Instr) (hu : isUnknown i = true) : ∃ h op, i = .opcodeUnknown h op := by
  unfold isUnknown at hu
  split at hu
  · exact ⟨_, _, rfl⟩
  · cases hu

theorem entryFields_bytes (i : Instr) (e : Entry) (he : entryOf i = some e)
    (hn : ∀ h op, i = .opcodeUnknown h op → op.toNat ∉ listedOpcodes) : entryFields e.hdr e.bytes = i := by
  cases hu : isUnknown i with
  | false => exact entryFields_bytes_listed i e he hu
  | true =>
    obtain ⟨h, op, rfl⟩ := eq_opcodeUnknown i hu
    cases he
    have hop : leAt (Entry.bytes ⟨h, op.toNat, false, true, []⟩) 0 2 = op.toNat :=
      (Entry.leAt_opcode _).trans (Nat.mod_eq_of_lt op.isLt)
    rw [entryFields_unlisted _ _ (by rw [hop]; exact hn h op rfl), hop, BitVec.ofNat_toNat, BitVec.setWidth_eq]

/-- The bytes of an entry with a reserved bit set are not the bytes of one without. -/
theorem Entry.reservedSet_eq_of_bytes_eq (e e' : Entry) (h : e.bytes = e'.bytes) :
    e.hdr.reservedSet = e'.hdr.reservedSet := by
  have hf : hdrFlags e.hdr = hdrFlags e'.hdr := by rw [← Entry.byteAt_flags, ← Entry.byteAt_flags, h]
  obtain ⟨-, -, -, hr⟩ := hdrFlags_bits e.hdr
  obtain ⟨-, -, -, hr'⟩ := hdrFlags_bits e'.hdr
  rw [← hr, ← hr', hf]

theorem decodeEntry_bytes (i : Instr) (e : Entry) (he : entryOf i = some e)
    (hn : ∀ h op, i = .opcodeUnknown h op → op.toNat ∉ listedOpcodes) :
    decodeEntry e.hdr.seat e.hdr.ring e.bytes = i := by
  have hi := entryFields_bytes i e he hn
  simp only [decodeEntry, Entry.entryHdr_bytes]
  cases hr : e.hdr.reservedSet with
  | false =>
    have hh : { e.hdr with reservedSet := false } = e.hdr := by rw [← hr]
    rw [hh, hi, encodeEntry, he]
    exact if_pos rfl
  | true =>
    have hh : { e.hdr with reservedSet := true } = e.hdr := by rw [← hr]
    obtain ⟨e', he', hd⟩ := entryOf_entryFields { e.hdr with reservedSet := false } e.bytes
    rw [encodeEntry, he', hh, hi]
    refine if_neg fun hb => ?_
    have := Entry.reservedSet_eq_of_bytes_eq e' e (Option.some.inj hb)
    rw [hd, hr] at this
    cases this

/-- Settles O3: the fields of an entry read back from its bytes, and FLAGS bit 7 tells which of the two headers that
the decoder tries gives the bytes back. -/
theorem entryDecodesToItsCommand : Obligations.EntryDecodesToItsCommand :=
  fun i e he hn => ⟨e.bytes_length (entryOf_params_length i e he), decodeEntry_bytes i e he hn⟩

end Sys2Proof.Machine

/-! PROOFS. Control space as the seats reach it: what a read and a write of a register come to, which offsets no
block occupies (O40), and the fields that a write stores, latches and clears (O41). -/

namespace Sys2Proof.Machine

/-! ### Which offsets a block occupies (R7) -/

/-- The last offset of a row's registers. -/
def RegRow.last (r : RegRow) : Nat := r.base + (r.dims.map fun d => d.1 * (d.2 - 1)).sum

theorem le_of_div_lt (d s n : Nat) (h : d / s < n) : d ≤ s * (n - 1) + d % s := by
  have := Nat.mul_le_mul_left s (Nat.le_sub_one_of_lt h)
  have := Nat.div_add_mod d s
  omega

/-- A row's index does not reach past its last register. -/
theorem RegRow.index_le_last (r : RegRow) (off : Nat) (ix : List Nat) (h : r.index off = some ix) : off ≤ r.last := by
  have none_ne : (none : Option (List Nat)) ≠ some ix := nofun
  unfold RegRow.index at h
  unfold RegRow.last
  split at h
  · exact absurd h none_ne
  · dsimp only at h
    split at h
    next hd =>
      split at h
      · omega
      · exact absurd h none_ne
    next s n hd =>
      split at h
      next hx =>
        have := le_of_div_lt _ _ _ hx.2
        simp only [hd, List.map_cons, List.map_nil, List.sum_cons, List.sum_nil]
        omega
      · exact absurd h none_ne
    next s n t m rest hd =>
      split at h
      next hx =>
        have := le_of_div_lt _ _ _ hx.1
        have := le_of_div_lt _ _ _ hx.2.2
        simp only [hd, List.map_cons, List.sum_cons]
        omega
      · exact absurd h none_ne

/-- No row of the register tables reaches 0x200_0000. -/
theorem RN.last_lt : ∀ r ∈ RN.all, r.row.last < 0x2000000 := by decide +kernel

theorem regAt_beyond (off : Nat) (h : 0x2000000 ≤ off) : regAt off = none := by
  unfold regAt
  rw [List.findSome?_eq_none_iff]
  intro r hr
  cases hx : r.row.index off with
  | none => rfl
  | some ix =>
    have := RegRow.index_le_last _ _ _ hx
    have := RN.last_lt r hr
    omega

/-! ### An access by a seat (R6, R7) -/

theorem State.ctlNotice_seat (s : State) (seat : Fin 4) (off : Nat) :
    s.ctlNotice seat off = s.log { notice 6 with initiator := seat, arg0 := n64 (0x3000000000 + off) } := by
  unfold State.ctlNotice ctlAddr
  rw [if_neg (by omega)]

theorem State.ctlRead_unoccupied (s : State) (who off : Nat) (h : regAt off = none) :
    s.ctlRead who off = (s.ctlNotice who off, 0) := by
  simp only [State.ctlRead, h]

theorem State.ctlWrite_unoccupied (s : State) (who off v : Nat) (h : regAt off = none) :
    s.ctlWrite who off v = s.ctlNotice who off := by
  simp only [State.ctlWrite, h]

theorem exec_loReadLatch_aligned (s : State) (seat : Fin 4) (off : BitVec 28) (h : off.toNat % 4 = 0) :
    exec (.loReadLatch seat off) s = .next ((s.ctlRead seat off.toNat).1.emit
      (.readData seat (natLe 4 (s.ctlRead seat off.toNat).2.toNat))) := by
  change Host.Outcome.next (s.seatRead seat off.toNat) = _
  rw [State.seatRead, if_neg (not_not_intro h)]

theorem exec_registerWrite_aligned (s : State) (seat : Fin 4) (off : BitVec 28) (v : Word) (h : off.toNat % 4 = 0) :
    exec (.registerWrite seat off v) s = .next (s.ctlWrite seat off.toNat v.toNat) := by
  change execRegisterWrite seat off v s = _
  rw [execRegisterWrite, if_neg (not_not_intro h)]

theorem exec_registerWrite_odd (s : State) (seat : Fin 4) (off : BitVec 28) (v : Word) (h : off.toNat % 4 ≠ 0) :
    exec (.registerWrite seat off v) s = .next (s.ctlNotice seat off.toNat) := by
  change execRegisterWrite seat off v s = _
  rw [execRegisterWrite, if_pos h]
  rfl

theorem exec_w1cClear_aligned (s : State) (seat : Fin 4) (off : BitVec 28) (v w : Word) (h : off.toNat % 4 = 0) :
    exec (.w1cClear seat off v w) s = .next (s.clearFlags seat off.toNat v.toNat w.toNat) := by
  change execW1cClear seat off v w s = _
  rw [execW1cClear, if_neg (not_not_intro h)]

theorem exec_w1cClear_odd (s : State) (seat : Fin 4) (off : BitVec 28) (v w : Word) (h : off.toNat % 4 ≠ 0) :
    exec (.w1cClear seat off v w) s = .next (s.ctlNotice seat off.toNat) := by
  change execW1cClear seat off v w s = _
  rw [execW1cClear, if_pos h]
  rfl

theorem exec_unalignedAccess_odd (s : State) (who : Byte) (off : BitVec 28) (n : Nat) (write : Bool)
    (h : n ≠ 4 ∨ off.toNat % 4 ≠ 0) : exec (.unalignedAccess who off n write) s =
      .next (if write then s.ctlNotice who.toNat off.toNat
        else (s.ctlNotice who.toNat off.toNat).emit (.readData who.toNat (List.replicate n 0))) := by
  change execUnalignedAccess who off n write s = _
  rw [execUnalignedAccess, if_neg (not_and_or.mpr h)]
  rfl

theorem exec_unoccupiedAccess_none (s : State) (who : Byte) (off : BitVec 28) (write : Bool)
    (h : off.toNat % 4 = 0) (hr : regAt off.toNat = none) : exec (.unoccupiedAccess who off write) s =
      .next (if write then s.ctlNotice who.toNat off.toNat
        else (s.ctlNotice who.toNat off.toNat).emit (.readData who.toNat (List.replicate 4 0))) := by
  change execUnoccupiedAccess who off write s = _
  rw [execUnoccupiedAccess, if_neg (by simp [h, hr])]

theorem natLe_four_zero : natLe 4 (0 : Word).toNat = [0, 0, 0, 0] := by decide

/-- Settles O40: an offset without a register is answered with its notice alone, and no row of the register tables
reaches 0x200_0000. -/
theorem unoccupiedControlSpace : Obligations.UnoccupiedControlSpace := by
  refine ⟨fun s seat off v ha hr => ?_, regAt_beyond⟩
  have hseat : (BitVec.ofNat 8 seat).toNat = seat := Nat.mod_eq_of_lt (by omega)
  simp only [← State.ctlNotice_seat]
  refine ⟨?_, ?_, ?_, ?_⟩
  · rw [exec_loReadLatch_aligned s seat off ha, State.ctlRead_unoccupied s seat _ hr, natLe_four_zero]
  · rw [exec_registerWrite_aligned s seat off v ha, State.ctlWrite_unoccupied s seat _ _ hr]
  · rw [exec_unoccupiedAccess_none s _ off false ha hr, hseat]
    rfl
  · rw [exec_unoccupiedAccess_none s _ off true ha hr, hseat]
    rfl

end Sys2Proof.Machine

/-! PROOFS. The fields of a register after a write: what each takes, that the others stay, and the accesses of a
seat that read, write, latch and clear them (O41). -/

namespace Sys2Proof.Machine

/-! ### What the fields of a register take (R8, R10) -/

/-- Two fields do not meet. -/
abbrev Fld.apart (f g : Fld) : Prop := f.lo + f.w ≤ g.lo ∨ g.lo + g.w ≤ f.lo

/-- A register word with what a field takes from the value written. -/
def Fld.put (v w : Nat) (f : Fld) : Nat :=
  match f.acc with
  | .rw => putSlice w f.lo f.w (slice v f.lo f.w)
  | .w1c => if bit v f.lo then putSlice w f.lo f.w 0 else w
  | _ => w

/-- What a field holds after a write of `v`, where it held `old`. -/
def Fld.takes (f : Fld) (v old : Nat) : Nat :=
  match f.acc with
  | .rw => slice v f.lo f.w
  | .w1c => if bit v f.lo then 0 else old
  | _ => old

theorem RN.fields_apart (r : RN) : r.row.fields.Pairwise Fld.apart := by
  cases r <;> decide

theorem RN.fields_fit (r : RN) : ∀ f ∈ r.row.fields, f.lo + f.w ≤ 32 := by
  cases r <;> decide

theorem State.writeFields_eq (s : State) (r : RN) (ix : List Nat) (v : Nat) :
    s.writeFields r ix v = s.setReg r ix (r.row.fields.foldl (Fld.put v) (s.reg r ix)) := rfl

theorem slice_putSlice_apart (w x : Nat) (f g : Fld) (h : f.apart g) :
    slice (putSlice w g.lo g.w x) f.lo f.w = slice w f.lo f.w := by
  rcases h with h | h
  · exact slice_putSlice_below _ _ _ _ _ _ h
  · exact slice_putSlice_above _ _ _ _ _ _ h

theorem Fld.slice_put_same (f : Fld) (v w : Nat) : slice (f.put v w) f.lo f.w = f.takes v (slice w f.lo f.w) := by
  unfold Fld.put Fld.takes
  split
  · rw [slice_putSlice_same]
    exact Nat.mod_mod _ _
  · split
    · rw [slice_putSlice_same, Nat.zero_mod]
    · rfl
  · rfl

theorem Fld.slice_put_apart (f g : Fld) (v w : Nat) (h : f.apart g) :
    slice (g.put v w) f.lo f.w = slice w f.lo f.w := by
  unfold Fld.put
  split
  · exact slice_putSlice_apart _ _ _ _ h
  · split
    · exact slice_putSlice_apart _ _ _ _ h
    · rfl
  · rfl

theorem Fld.put_lt (f : Fld) (v w : Nat) (hw : w < 2 ^ 32) (hf : f.lo + f.w ≤ 32) : f.put v w < 2 ^ 32 := by
  unfold Fld.put
  split
  · exact putSlice_lt _ _ _ _ hw hf
  · split
    · exact putSlice_lt _ _ _ _ hw hf
    · exact hw
  · exact hw

theorem slice_foldl_put_apart (fs : List Fld) (f : Fld) (v w : Nat) (h : ∀ g ∈ fs, f.apart g) :
    slice (fs.foldl (Fld.put v) w) f.lo f.w = slice w f.lo f.w := by
  induction fs generalizing w with
  | nil => rfl
  | cons g gs ih =>
    rw [List.foldl_cons, ih _ fun k hk => h k (List.mem_cons_of_mem g hk), f.slice_put_apart g v w
      (h g List.mem_cons_self)]

/-- Where no two fields meet, each takes its own part of the value. -/
theorem slice_foldl_put (fs : List Fld) (f : Fld) (v w : Nat) (hp : fs.Pairwise Fld.apart) (hf : f ∈ fs) :
    slice (fs.foldl (Fld.put v) w) f.lo f.w = f.takes v (slice w f.lo f.w) := by
  induction fs generalizing w with
  | nil => cases hf
  | cons g gs ih =>
    obtain ⟨hg, hgs⟩ := List.pairwise_cons.mp hp
    rw [List.foldl_cons]
    rcases List.mem_cons.mp hf with rfl | hf
    · rw [slice_foldl_put_apart gs f v _ hg, f.slice_put_same]
    · rw [ih _ hgs hf, f.slice_put_apart g v w (hg f hf).symm]

theorem foldl_put_lt (fs : List Fld) (v w : Nat) (hw : w < 2 ^ 32) (hf : ∀ f ∈ fs, f.lo + f.w ≤ 32) :
    fs.foldl (Fld.put v) w < 2 ^ 32 := by
  induction fs generalizing w with
  | nil => exact hw
  | cons g gs ih =>
    exact ih _ (g.put_lt v w hw (hf g List.mem_cons_self)) fun f h => hf f (List.mem_cons_of_mem g h)

/-- Each field of a register that is written takes what its access allows. -/
theorem State.fld_writeFields (s : State) (r : RN) (ix : List Nat) (v : Nat) (f : Fld) (hf : f ∈ r.row.fields) :
    (s.writeFields r ix v).fld r ix f.lo f.w = f.takes v (s.fld r ix f.lo f.w) := by
  have hlt := foldl_put_lt r.row.fields v (s.reg r ix) (s.stored r ix).isLt r.fields_fit
  rw [State.fld, State.writeFields_eq, ← State.reg, State.reg_setReg_same, Nat.mod_eq_of_lt hlt,
    slice_foldl_put _ f v _ r.fields_apart hf]
  rfl

theorem State.stored_writeFields_other (s : State) (r q : RN) (ix jx : List Nat) (v : Nat)
    (h : q.off jx ≠ r.off ix) : (s.writeFields r ix v).stored q jx = s.stored q jx :=
  State.stored_setReg_other _ _ _ _ _ _ h

/-- A register of one read-write field holds the word written. -/
theorem State.reg_writeFields_whole (s : State) (r : RN) (ix : List Nat) (v : Word) (x : Nat)
    (hf : r.row.fields = [⟨0, 32, .rw, x⟩]) : (s.writeFields r ix v.toNat).reg r ix = v.toNat := by
  have whole : ∀ w : Word, slice w.toNat 0 32 = w.toNat := fun w => by
    rw [slice, Nat.pow_zero, Nat.div_one, Nat.mod_eq_of_lt w.isLt]
  have h := s.fld_writeFields r ix v.toNat ⟨0, 32, .rw, x⟩ (by rw [hf]; exact List.mem_singleton_self _)
  rw [State.fld, whole] at h
  rw [State.reg, h]
  exact whole v

/-- Writing 1 to a flag clears it, and writing 0 leaves it. -/
theorem State.flag_writeFields (s : State) (r : RN) (ix : List Nat) (v b x : Nat)
    (hf : ⟨b, 1, .w1c, x⟩ ∈ r.row.fields) :
    (s.writeFields r ix v).flag r ix b = (s.flag r ix b && !bit v b) := by
  have h : (s.writeFields r ix v).fld r ix b 1 = if bit v b then 0 else s.fld r ix b 1 :=
    s.fld_writeFields r ix v _ hf
  unfold State.flag
  rw [h]
  cases bit v b <;> simp

/-- A flag stays set while another flag of its register is set. -/
theorem State.flag_setFlag_apart (s : State) (r : RN) (ix : List Nat) (b b' : Nat) (hb : b' < 32) (hne : b ≠ b')
    (hc : ∀ c kx k, r.counter ix b' = some (c, kx, k) → r.off ix ≠ c.off kx) :
    (s.setFlag r ix b').flag r ix b = s.flag r ix b := by
  have h : (s.setFld r ix b' 1 1).fld r ix b 1 = s.fld r ix b 1 :=
    State.fld_setFld_apart _ _ _ _ _ _ _ _ (by omega) (by omega)
  unfold State.setFlag State.flag
  split
  · next c kx k hk => rw [State.fld_setFld_other _ _ _ _ _ _ _ _ _ _ (hc c kx k hk), h]
  · rw [h]

theorem bit_eq_testBit (v i : Nat) : bit v i = v.testBit i := by
  rw [bit, Nat.testBit_eq_decide_div_mod_eq, beq_eq_decide]

theorem bit_and (v m i : Nat) : bit (v &&& m) i = (bit v i && bit m i) := by
  simp only [bit_eq_testBit, Nat.testBit_and]

/-! ### A register that a seat reaches in the die -/

/-- The register lies at its own offset, which is aligned and within control space, and is not mirrored from the
field controller. -/
abbrev RN.plain (r : RN) (ix : List Nat) : Prop :=
  regAt (r.off ix) = some (r, ix) ∧ r.off ix % 4 = 0 ∧ mirrored (r.off ix) = false ∧ r.off ix < 2 ^ 28

theorem RN.plain_tbStepLo (n : Fin 4) : RN.tbStepLo.plain [n.val] := by revert n; decide
theorem RN.plain_tbStatus (n : Fin 4) : RN.tbStatus.plain [n.val] := by revert n; decide
theorem RN.plain_libNextLo (j : Fin 8) : RN.libNextLo.plain [j.val] := by revert j; decide
theorem RN.plain_libNextHi (j : Fin 8) : RN.libNextHi.plain [j.val] := by revert j; decide

section
variable (s : State) (seat : Fin 4) {r : RN} {ix : List Nat} (h : r.plain ix)
include h

theorem RN.plain_toNat : (BitVec.ofNat 28 (r.off ix)).toNat = r.off ix := by
  obtain ⟨-, -, -, hlt⟩ := h
  exact Nat.mod_eq_of_lt hlt

theorem exec_registerWrite_plain (v : Word) : exec (.registerWrite seat (BitVec.ofNat 28 (r.off ix)) v) s =
    .next ((s.unlatch seat (r.off ix)).writeReg seat r ix v.toNat) := by
  have ho := RN.plain_toNat h
  obtain ⟨hr, ha, hm, -⟩ := h
  rw [exec_registerWrite_aligned s seat _ v (ho.symm ▸ ha), ho]
  simp only [State.ctlWrite, hr, hm, Bool.false_eq_true, if_false]

theorem exec_loReadLatch_latched (v : Word) (hv : s.latchOf seat (r.off ix) = some v)
    (hg : r ∉ [RN.laneMatchCnt, .lanePrbsBitsLo, .lanePrbsErr]) :
    exec (.loReadLatch seat (BitVec.ofNat 28 (r.off ix))) s =
      .next ((s.unlatch seat (r.off ix)).emit (.readData seat (natLe 4 v.toNat))) := by
  have ho := RN.plain_toNat h
  obtain ⟨hr, ha, hm, -⟩ := h
  have hread : s.ctlRead seat (r.off ix) = (s.unlatch seat (r.off ix), v) := by
    simp only [List.mem_cons, List.not_mem_nil, or_false, not_or] at hg
    simp [State.ctlRead, hr, hm, hg, hv]
  rw [exec_loReadLatch_aligned s seat _ (ho.symm ▸ ha), ho, hread]

theorem exec_loReadLatch_fresh (hv : s.latchOf seat (r.off ix) = none)
    (hg : r ∉ [RN.laneMatchCnt, .lanePrbsBitsLo, .lanePrbsErr]) :
    exec (.loReadLatch seat (BitVec.ofNat 28 (r.off ix))) s =
      .next ((s.latch seat r ix).emit (.readData seat (natLe 4 (s.view r ix).toNat))) := by
  have ho := RN.plain_toNat h
  obtain ⟨hr, ha, hm, -⟩ := h
  have hread : s.ctlRead seat (r.off ix) = (s.latch seat r ix, s.view r ix) := by
    simp only [List.mem_cons, List.not_mem_nil, or_false, not_or] at hg
    simp [State.ctlRead, hr, hm, hg, hv]
  rw [exec_loReadLatch_aligned s seat _ (ho.symm ▸ ha), ho, hread]

end

/-! ### The registers that O41 names -/

/-- The companion counter of TB_STATUS is another register. -/
theorem RN.tbStatus_counter_ne (n b : Nat) (c : RN) (kx : List Nat) (k : Nat)
    (h : RN.tbStatus.counter [n] b = some (c, kx, k)) : RN.tbStatus.off [n] ≠ c.off kx := by
  cases h
  simp [RN.off, RN.row]

/-- TB_STATUS takes a clear of its two flags, and then what the hardware sets. -/
theorem exec_w1cClear_tbStatus (s : State) (seat n : Fin 4) (v w : Word) :
    exec (.w1cClear seat (BitVec.ofNat 28 (RN.off .tbStatus [n.val])) v w) s =
      let cleared := s.writeFields .tbStatus [n.val] (v.toNat &&& 0x18)
      let stepped := if bit w.toNat 3 then cleared.setFlag .tbStatus [n.val] 3 else cleared
      .next (if bit w.toNat 4 then stepped.setFlag .tbStatus [n.val] 4 else stepped) := by
  have ho := RN.plain_toNat (RN.plain_tbStatus n)
  obtain ⟨hr, ha, hm, -⟩ := RN.plain_tbStatus n
  have hflags : (RN.row .tbStatus).fields.filter (fun f => f.acc == .w1c) = [⟨3, 1, .w1c, 0⟩, ⟨4, 1, .w1c, 0⟩] := rfl
  rw [exec_w1cClear_aligned s seat _ v w (ho.symm ▸ ha), ho]
  simp only [State.clearFlags, hr, hm, hflags, List.filter_cons, List.filter_nil]
  cases bit w.toNat 3 <;> cases bit w.toNat 4 <;> rfl

/-- The partner of a library's NEXT_LO is latched with the value it shows at the read. -/
theorem State.latch_libNextLo (s : State) (who j : Nat) : s.latch who .libNextLo [j] = { s with host := { s.host with
    latches := (who, RN.off .libNextHi [j], s.view .libNextHi [j]) ::
      (s.unlatch who (RN.off .libNextHi [j])).host.latches } } := rfl

/-- Settles O41: each field takes what its access allows and no two fields meet, so a write stores, a flag clears and
a hardware set prevails; a fresh read latches, and a latched value is read once. -/
theorem controlSpaceAccess : Obligations.ControlSpaceAccess := by
  refine ⟨?odd, ?oddWrite, ?store, ?latch, ?latched, ?clear, ?set⟩
  case odd =>
    intro s who off n h
    exact ⟨exec_unalignedAccess_odd s who off n true h, exec_unalignedAccess_odd s who off n false h⟩
  case oddWrite =>
    intro s seat off v w h
    exact ⟨exec_registerWrite_odd s seat off v h, exec_w1cClear_odd s seat off v w h⟩
  case store =>
    intro s seat n v
    exact ⟨_, exec_registerWrite_plain s seat (RN.plain_tbStepLo n) v, State.reg_writeFields_whole _ _ _ v 0 rfl,
      fun q jx hq => State.stored_writeFields_other _ _ q _ jx _ hq, rfl⟩
  case latch =>
    intro s seat j lo hi hnone
    refine ⟨_, exec_loReadLatch_fresh s seat (RN.plain_libNextLo j) hnone (by decide), rfl, ?_, rfl⟩
    rw [State.latch_libNextLo]
    simp [State.latchOf, State.emit, hi]
  case latched =>
    intro s seat j v hi hsome
    exact exec_loReadLatch_latched s seat (RN.plain_libNextHi j) v hsome (by decide)
  case clear =>
    intro s seat n v b
    refine ⟨_, exec_w1cClear_tbStatus s seat n v 0, fun hb => ?_,
      fun q jx hq => State.stored_writeFields_other _ _ q _ jx _ hq, rfl⟩
    have hfield : ⟨b, 1, .w1c, 0⟩ ∈ RN.tbStatus.row.fields ∧ bit 0x18 b = true := by
      rcases hb with rfl | rfl <;> decide
    have h := s.flag_writeFields .tbStatus [n.val] (v.toNat &&& 0x18) b 0 hfield.1
    rwa [bit_and, hfield.2, Bool.and_true] at h
  case set =>
    intro s seat n v w hw
    refine ⟨_, exec_w1cClear_tbStatus s seat n v w, ?_⟩
    have hset := (s.writeFields .tbStatus [n.val] (v.toNat &&& 0x18)).flag_setFlag_same .tbStatus [n.val] 3 (by decide)
      (RN.tbStatus_counter_ne n 3)
    rw [if_pos hw]
    split
    · rw [State.flag_setFlag_apart _ _ _ 3 4 (by decide) (by decide) (RN.tbStatus_counter_ne n 4)]
      exact hset
    · exact hset

end Sys2Proof.Machine

/-! PROOFS. The state right after reset (O58). -/

namespace Sys2Proof.Machine

/-- Memory that lists no byte reads as zeros. -/
theorem Mem.readAll_nil (a n : Nat) : Mem.readAll [] a n = List.replicate n 0 := by
  simp only [Mem.readAll, Mem.read, List.map_const', List.length_range]

/-- Right after reset no register is listed, so each reads its reset value. -/
theorem State.reset_stored (r : RN) (ix : List Nat) : State.reset.stored r ix = r.reset ix := rfl

/-- The default option record: its signature, AUTO_LOAD 0 and BOOT_LIMIT 3 (20_reset_clocks_power.md R505). -/
theorem defaultOption_fields : bytesAt defaultOption 0 4 = [0x49, 0x4F, 0x50, 0x54] ∧ byteAt defaultOption 9 = 0 ∧
    byteAt defaultOption 0xA = 3 := by decide

theorem State.reset_options (o : Bytes) (h : o ∈ State.reset.flash.options) : o = defaultOption :=
  List.eq_of_mem_replicate (n := 3) h

/-- Settles O58: every field stands at its reset value, memory and the register table list nothing, and the three
copies of the option record are the default one. -/
theorem resetState : Obligations.ResetState :=
  ⟨rfl, rfl, rfl, rfl, rfl, rfl, rfl, rfl, rfl, rfl, rfl, Mem.readAll_nil, State.reset_stored,
    fun o ho => State.reset_options o ho ▸ defaultOption_fields⟩

end Sys2Proof.Machine

/-! PROOFS. Commands that only schedule a launch item: each adds it, or completes with LAUNCH_LATE (O13). -/

namespace Sys2Proof.Machine

/-- What a command that only schedules does once nothing refuses its operands: it adds its launch item, or it
completes with LAUNCH_LATE where its launch count has passed (12_reproducibility.md R321). -/
def State.schedule (s : State) (c : CmdRef) (h : Hdr) (k : LaunchKind) : State :=
  if s.isLate (s.launchOf h.launch) then s.complete c Code.launchLate
  else s.addItem (s.launchOf h.launch) k (some c)

/-- A command that its operands do not refuse is left with the check of its launch count. -/
theorem State.checked_launch (s : State) (c : CmdRef) (h : Hdr) (k : LaunchKind) (refused : Bool) (code : Nat)
    (hr : refused = false) :
    s.checked c [(refused, code), (s.isLate (s.launchOf h.launch), Code.launchLate)]
      (fun u => u.addItem (s.launchOf h.launch) k (some c)) = s.schedule c h k := by
  subst hr
  unfold State.checked State.schedule
  cases s.isLate (s.launchOf h.launch) <;> rfl

/-- In state `s` the ring command `i`, with header `h` and opcode `op`, schedules the launch item `k` and does no
more: so it runs in every state that has the streams of `s`. -/
structure Schedules (s : State) (i : Instr) (h : Hdr) (op : Nat) (k : LaunchKind) : Prop where
  entry : ∃ params, entryOf i = some ⟨h, op, true, false, params⟩
  listed : isUnknown i = false
  runs : ∀ (c : CmdRef) (u : State), u.cam = s.cam → u.runRing c i = u.schedule c h k

section
variable {s : State} {i : Instr} {h : Hdr} {op : Nat} {k : LaunchKind} (hs : Schedules s i h op k)
include hs

theorem Schedules.exec_eq (ha : s.accepts h true) :
    exec i s = .next (s.ran h op fun c u => u.schedule c h k) := by
  obtain ⟨params, he⟩ := hs.entry
  rw [exec_accepted s i _ he ha hs.listed]
  exact congrArg Host.Outcome.next (hs.runs _ _ (s.takes_cam h op))

/-- Before its launch count the command adds its item. -/
theorem Schedules.inTime (ha : s.accepts h true) (hl : s.isLate (s.launchOf h.launch) = false) :
    exec i s = .next (s.ran h op fun c u => u.addItem (s.launchOf h.launch) k (some c)) := by
  rw [hs.exec_eq ha]
  simp [State.ran, State.schedule, hl]

/-- After its launch count the command is refused. -/
theorem Schedules.late (ha : s.accepts h true) (hl : s.isLate (s.launchOf h.launch) = true) :
    exec i s = .next (s.ran h op fun c u => u.complete c Code.launchLate) := by
  rw [hs.exec_eq ha]
  simp [State.ran, State.schedule, hl]

end

theorem State.stream_isNone_of_cam {s u : State} (n : Nat) (hu : u.cam = s.cam) (hn : (s.stream n).isSome = true) :
    (u.stream n).isNone = false := by
  unfold State.stream at hn ⊢
  rw [hu, ← Option.not_isSome, hn]
  rfl

section
variable (s : State) (h : Hdr)

/-- POWER_MODE of a mode that R22 lists. -/
theorem schedules_powerMode (mode : Byte) (hm : mode.toNat ≤ 2) :
    Schedules s (.powerMode h mode) h 0x0201 (.power (PowerMode.ofCode mode.toNat)) where
  entry := ⟨_, rfl⟩
  listed := rfl
  runs c u _ := u.checked_launch c h _ _ _ (by simpa using hm)

/-- DET_OVERRIDE of a mode that R22 lists. -/
theorem schedules_detOverride (mode : Byte) (hm : mode.toNat ≤ 1 ∨ mode.toNat = 0xFF) :
    Schedules s (.detOverride h mode) h 0x0202 (.det mode.toNat) where
  entry := ⟨_, rfl⟩
  listed := rfl
  runs c u _ := u.checked_launch c h _ _ _ (by simpa [imp_iff_not_or] using hm)

/-- STREAM_PAUSE of a bound stream. -/
theorem schedules_streamPause (n : Byte) (hn : (s.stream n.toNat).isSome = true) :
    Schedules s (.streamPause h n) h 0x0401 (.pause n.toNat) where
  entry := ⟨_, rfl⟩
  listed := rfl
  runs c u hu := u.checked_launch c h _ _ _ (State.stream_isNone_of_cam _ hu hn)

/-- STREAM_RESUME of a bound stream. -/
theorem schedules_streamResume (n : Byte) (hn : (s.stream n.toNat).isSome = true) :
    Schedules s (.streamResume h n) h 0x0402 (.resume n.toNat) where
  entry := ⟨_, rfl⟩
  listed := rfl
  runs c u hu := u.checked_launch c h _ _ _ (State.stream_isNone_of_cam _ hu hn)

end

/-- Settles O13: each of the four commands only schedules its item, and a scheduling command adds it or is late. -/
theorem launchedModes : Obligations.LaunchedModes := by
  refine ⟨fun s h ha hl => ?inTime, fun s h ha hl => ?late⟩
  case inTime =>
    exact ⟨fun mode hm => (schedules_powerMode s h mode hm).inTime ha hl,
      fun mode hm => (schedules_detOverride s h mode hm).inTime ha hl,
      fun n hn => (schedules_streamPause s h n hn).inTime ha hl,
      fun n hn => (schedules_streamResume s h n hn).inTime ha hl,
      fun hv => if_pos hv, fun hv => if_neg hv⟩
  case late =>
    exact ⟨fun mode hm => (schedules_powerMode s h mode hm).late ha hl,
      fun mode hm => (schedules_detOverride s h mode hm).late ha hl,
      fun n hn => (schedules_streamPause s h n hn).late ha hl,
      fun n hn => (schedules_streamResume s h n hn).late ha hl⟩

end Sys2Proof.Machine

/-! PROOFS. The device address space as a seat reaches it: an access within a page of DRAM is one part, and an access
to nothing is noted (O42). -/

namespace Sys2Proof.Machine

theorem accessParts_zero (a fuel : Nat) : accessParts a fuel 0 = [] := by
  cases fuel <;> simp [accessParts]

/-- An access within a page is not cut. -/
theorem accessParts_page (a fuel n : Nat) (hn : n ≠ 0) (hp : a % 4096 + n ≤ 4096) :
    accessParts a (fuel + 1) n = [(a, n)] := by
  have hk : min n (4096 - a % 4096) = n := by omega
  simp only [accessParts, if_neg hn, hk, Nat.sub_self, accessParts_zero]

section
variable (s : State) (who a : Nat) (hd : s.placeNow a = .dram)
include hd

theorem State.unmappedParts_dram (n : Nat) : s.unmappedParts who [(a, n)] = s := by
  simp [State.unmappedParts, hd]

/-- Good DRAM outside the opaque regions reads as it lies. -/
theorem State.readPart_dram (n : Nat) (hb : s.badIn a n = none) (ho : s.opaqueAt a = false) :
    s.readPart who a n = (s, s.load a n) := by
  simp [State.readPart, hd, hb, ho]

/-- A write of DRAM is recorded where the device uses the region, and watched where it is the staging half. -/
theorem State.writePart_dram (d : Bytes) :
    s.writePart who a d = ((s.usedNote who a).watchStaging who a d.length).store a d := by
  simp [State.writePart, hd, State.storeFor]

theorem State.devRead_dram_page (n : Nat) (hc : touchesControl a n = false) (hp : a % 4096 + n ≤ 4096)
    (hb : s.badIn a n = none) (ho : s.opaqueAt a = false) : s.devRead who a n = (s, s.load a n) := by
  unfold State.devRead
  rw [hc]
  by_cases hn : n = 0
  · subst hn
    rw [accessParts_zero]
    rfl
  · rw [accessParts_page a _ n hn hp]
    simp [s.unmappedParts_dram who a hd, s.readPart_dram who a hd n hb ho]

theorem State.devWrite_dram_page (d : Bytes) (hc : touchesControl a d.length = false) (hne : d ≠ [])
    (hp : a % 4096 + d.length ≤ 4096) :
    s.devWrite who a d = ((s.usedNote who a).watchStaging who a d.length).store a d := by
  unfold State.devWrite
  rw [hc, accessParts_page a _ d.length (List.length_eq_zero_iff.not.mpr hne) hp]
  simp [s.unmappedParts_dram who a hd, s.writePart_dram who a hd]

end

theorem exec_bar2Access_connected (s : State) (seat : Fin 2) (n : Fin 4) (o : BitVec 30) (x : Access)
    (hc : s.connected seat = true) : exec (.bar2Access seat n o x) s = .next (s.devAccess seat
      (s.pair .apBaseLo .apBaseHi [seat.val, n.val] / 2 ^ 20 * 2 ^ 20 + o.toNat) x) := by
  change execBar2Access seat n o x s = _
  simp only [execBar2Access, hc, if_true]

theorem exec_bar2Access_lost (s : State) (seat : Fin 2) (n : Fin 4) (o : BitVec 30) (x : Access)
    (hc : s.connected seat = false) : exec (.bar2Access seat n o x) s = .next s := by
  change execBar2Access seat n o x s = _
  simp only [execBar2Access, hc, Bool.false_eq_true, if_false]

theorem exec_unmappedAccess_read (s : State) (who : Byte) (a : BitVec 64) (n : Nat)
    (hu : s.placeNow a.toNat = .unmapped) : exec (.unmappedAccess who a (.read n)) s =
      .next ((s.unmappedNote who.toNat a.toNat).emit (.readData who.toNat (List.replicate n 0))) := by
  change execUnmappedAccess who a (.read n) s = _
  simp [execUnmappedAccess, hu]

theorem exec_unmappedAccess_write (s : State) (who : Byte) (a : BitVec 64) (d : Bytes)
    (hu : s.placeNow a.toNat = .unmapped) : exec (.unmappedAccess who a (.write d)) s =
      .next (s.unmappedNote who.toNat a.toNat) := by
  change execUnmappedAccess who a (.write d) s = _
  simp [execUnmappedAccess, hu]

theorem exec_unmappedAccess_mapped (s : State) (who : Byte) (a : BitVec 64) (x : Access)
    (hu : s.placeNow a.toNat ≠ .unmapped) : exec (.unmappedAccess who a x) s = .next s := by
  change execUnmappedAccess who a x s = _
  simp [execUnmappedAccess, hu]

/-- Settles O42: an access of a connected seat is one to the address that its aperture gives, and within a page of
DRAM it is a single part, which is read or written as it stands. -/
theorem deviceAccess : Obligations.DeviceAccess := by
  refine ⟨fun s seat n o x => ?aperture, fun s seat o d hd hc hne hp => ?staging, fun s who a => ?unmapped⟩
  case aperture =>
    refine ⟨exec_bar2Access_lost s seat n o x, exec_bar2Access_connected s seat n o x, ?read, ?write⟩
    case read =>
      intro k hcon hx hd hc hp hb ho
      rw [exec_bar2Access_connected s seat n o x hcon, hx, State.devAccess,
        s.devRead_dram_page seat _ hd k hc hp hb ho, State.returned]
    case write =>
      intro d hcon hx hd hc hne hp
      rw [exec_bar2Access_connected s seat n o x hcon, hx, State.devAccess, s.devWrite_dram_page seat _ hd d hc hne hp]
  case staging =>
    exact congrArg Host.Outcome.next (s.devWrite_dram_page seat _ hd d hc hne hp)
  case unmapped =>
    exact ⟨fun hu => ⟨fun n => exec_unmappedAccess_read s who a n hu, fun d => exec_unmappedAccess_write s who a d hu⟩,
      fun hu x => exec_unmappedAccess_mapped s who a x hu⟩

end Sys2Proof.Machine

/-! PROOFS. What every image and overlay command shares: the image gate, and the state that taking a command leaves to
it (02_deurzor_image.md R69, R71). -/

namespace Sys2Proof.Machine

/-- An accepted command that RECOVERY would take too finds the device out of RECOVERY. -/
theorem State.accepts_dev {s : State} {h : Hdr} {launch : Bool} (ha : s.accepts h launch) : s.dev ≠ .recovery := by
  obtain ⟨-, hd, -⟩ := ha
  exact hd rfl

/-- The image gate lets a command through: the device is out of RECOVERY, and the lock does not keep its seat out. -/
structure State.Lets (s : State) (h : Hdr) : Prop where
  dev : s.dev ≠ .recovery
  gate : s.gateOpen h

theorem State.gateOpen_congr {s u : State} {h : Hdr} (hu : u.img = s.img) (hg : s.gateOpen h) : u.gateOpen h := by
  unfold State.gateOpen State.lockedOut at hg ⊢
  rwa [hu]

/-- Taking a command leaves the gate as it was. -/
theorem State.Lets.of_accepts {s : State} {h : Hdr} {launch : Bool} (ha : s.accepts h launch) (hg : s.gateOpen h)
    (op : Nat) : (s.takes h op).1.Lets h where
  dev := by
    rw [State.takes_dev]
    exact State.accepts_dev ha
  gate := State.gateOpen_congr (s.takes_img h op) hg

theorem State.Lets.imageGate {s : State} {h : Hdr} (hl : s.Lets h) (c : CmdRef) (body : State → State) :
    s.imageGate c h body = body (s.gated h) :=
  s.imageGate_open c h body hl.dev hl.gate

theorem State.imageGate_recovery (s : State) (c : CmdRef) (h : Hdr) (body : State → State) (hd : s.dev = .recovery) :
    s.imageGate c h body = s.complete c Code.imageState := by
  rw [State.imageGate, if_pos hd]

/-- A ring command, accepted, has the effect that its opcode's meaning has on the state its taking leaves. -/
theorem exec_effect {s : State} {h : Hdr} {i : Instr} {op : Nat} {launch inRecovery : Bool} {params : Bytes}
    (he : entryOf i = some ⟨h, op, launch, inRecovery, params⟩) (hk : isUnknown i = false)
    (ha : s.accepts h launch inRecovery) (effect : CmdRef → State → State)
    (hr : (s.takes h op).1.runRing (s.takes h op).2 i = effect (s.takes h op).2 (s.takes h op).1) :
    exec i s = .next (s.ran h op effect) := by
  rw [exec_accepted s i _ he ha hk]
  exact congrArg Host.Outcome.next hr

end Sys2Proof.Machine

/-! PROOFS. IMAGE_LOCK (O8). -/

namespace Sys2Proof.Machine

/-! ### What a change of the lock sets -/

theorem State.fld_congr {s t : State} (ht : t.regs = s.regs) (r : RN) (ix : List Nat) (lo w : Nat) :
    t.fld r ix lo w = s.fld r ix lo w := by
  unfold State.fld State.stored
  rw [ht]

theorem State.flag_congr {s t : State} (ht : t.regs = s.regs) (r : RN) (ix : List Nat) (b : Nat) :
    t.flag r ix b = s.flag r ix b :=
  congrArg (· == 1) (State.fld_congr ht r ix b 1)

/-- A cause raised on a seat is set in its INT_STATUS, and no other seat's changes. -/
theorem State.flag_raiseInt (s : State) (seat k b : Nat) (hb : b < 32) :
    (s.raiseInt seat b).flag .intStatus [k] b = (k == seat || s.flag .intStatus [k] b) := by
  have hoff (r : RN) (n : Nat) (h : r = .intStatus ∧ k ≠ n ∨ r = .intStatusCnt) :
      RN.intStatus.off [k] ≠ r.off [n] := by
    obtain ⟨rfl, hn⟩ | rfl := h <;> simp only [RN.off, RN.row, List.zipWith, List.foldl] <;> omega
  rw [State.raiseInt, State.flag_congr (State.signalSeat_regs _ _)]
  by_cases hk : k = seat
  · subst hk
    rw [s.flag_setFlag_same .intStatus [k] b hb, beq_self_eq_true, Bool.true_or]
    intro c kx n hc
    cases hc
    exact hoff _ k (.inr rfl)
  · rw [beq_false_of_ne hk, Bool.false_or, State.flag, State.fld, s.stored_setFlag_other]
    · rfl
    · exact hoff _ seat (.inl ⟨rfl, hk⟩)
    · intro c kx n hc
      cases hc
      exact hoff _ seat (.inr rfl)

/-- A cause raised on all seats is set on each of them. -/
theorem State.flag_raiseAll (s : State) (b k : Nat) (hb : b < 32) (hk : k < 4) :
    (s.raiseAll b).flag .intStatus [k] b = true := by
  interval_cases k <;> simp [State.raiseAll, State.flag_raiseInt _ _ _ b hb]

theorem State.setLock_changed {s : State} {o : Option (Fin 4)} (ho : s.img.lock ≠ o) :
    s.setLock o = ({ s with img := { s.img with lock := o } } : State).raiseAll 2 := if_neg ho

/-- What keeps all but the image state, registers, the host block and what is sent is the same state once these are
put back. -/
theorem State.put_of_withoutSig {s t : State} {g : ImgState}
    (ht : t.withoutSig = ({ s with img := g } : State).withoutSig) :
    { t with img := s.img, regs := s.regs, host := s.host, out := s.out } = s :=
  congrArg (fun u : State => { u with img := s.img, regs := s.regs, host := s.host, out := s.out }) ht

/-! ### The command -/

section
variable {s : State} {h : Hdr}

theorem State.lockedOut_free (hk : s.img.lock = none) : s.lockedOut h.seat = false := by
  simp only [State.lockedOut, hk]

theorem State.lockedOut_other {k : Fin 4} (hk : s.img.lock = some k) (hne : k ≠ h.seat) :
    s.lockedOut h.seat = true := by
  simp [State.lockedOut, hk, hne]

section
variable (c : CmdRef) (hd : s.dev ≠ .recovery)
include hd

theorem State.runImageLock_holder (hk : s.img.lock = some h.seat) :
    s.runImageLock c h = (s.setLock none).complete c Code.ok 0 0xFF := by
  rw [State.runImageLock, if_neg hd, if_pos hk]

theorem State.runImageLock_free (hk : s.img.lock = none) :
    s.runImageLock c h = (s.setLock (some h.seat)).complete c Code.ok 0 h.seat := by
  simp [State.runImageLock, hd, hk, State.lockedOut_free hk]

theorem State.runImageLock_other {k : Fin 4} (hk : s.img.lock = some k) (hne : k ≠ h.seat) :
    s.runImageLock c h = if h.override then
        ((s.noteOverride h.seat).setLock (some h.seat)).complete c Code.ok 0 h.seat
      else s.complete c Code.imageLocked 0 k := by
  simp [State.runImageLock, hd, hk, hne, State.lockedOut_other hk hne, State.holder]

end

section
variable (c : CmdRef) (hd : s.dev = .recovery)
include hd

theorem State.runImageVerify_recovery {x : BitVec 64} (hx : allOnes64 x = false) :
    s.runImageVerify c h x = s.complete c Code.imageState := by
  simp [State.runImageVerify, hx, State.imageGate_recovery _ _ _ _ hd]

theorem State.runImageApply_recovery {b : Byte} (hb : b.toNat ≤ 1) :
    s.runImageApply c h b = s.complete c Code.imageState := by
  rw [State.runImageApply, if_neg (by omega), State.imageGate_recovery _ _ _ _ hd]

theorem State.runOverlayApply_recovery {x : BitVec 64} (hx : addrReserved x = false) :
    s.runOverlayApply c h x = s.complete c Code.imageState := by
  simp [State.runOverlayApply, hx, State.imageGate_recovery _ _ _ _ hd]

theorem State.runApplyCancel_recovery : s.runApplyCancel c h = s.complete c Code.imageState :=
  State.imageGate_recovery s c h _ hd

theorem State.runImageStore_recovery : s.runImageStore c h = s.complete c Code.imageState :=
  State.imageGate_recovery s c h _ hd

theorem State.runImageLock_recovery : s.runImageLock c h = s.complete c Code.imageState 0 s.holder := by
  rw [State.runImageLock, if_pos hd]

theorem State.runOverlayRevert_recovery (b : Byte) : s.runOverlayRevert c h b = s.complete c Code.imageState :=
  State.imageGate_recovery s c h _ hd

end

end

/-- Settles O8: out of RECOVERY the command follows who holds the lock; a change of holder raises INT_STATUS.LOCK of
one seat after the other, and none of them takes back another's; in RECOVERY the image gate refuses. -/
theorem imageLock : Obligations.ImageLock := by
  refine ⟨fun s h ha => ?command, fun s o ho => ?change, fun s h b x hd hx hr hb => ?recovery⟩
  case command =>
    have hd : (s.takes h 0x0105).1.dev ≠ .recovery := (s.takes_dev h _).trans_ne (State.accepts_dev ha)
    have hlock : (s.takes h 0x0105).1.img.lock = s.img.lock := by rw [State.takes_img]
    have ha := s.accepts_of h false true ha
    refine ⟨fun hk => ?_, fun hk => ?_, fun k hk hne ho => ?_, fun k hk hne ho => ?_⟩
    · exact exec_effect rfl rfl ha _ (State.runImageLock_holder _ hd (hlock.trans hk))
    · exact exec_effect rfl rfl ha _ (State.runImageLock_free _ hd (hlock.trans hk))
    · exact exec_effect rfl rfl ha _ ((State.runImageLock_other _ hd (hlock.trans hk) hne).trans (if_pos ho))
    · exact exec_effect rfl rfl ha _ ((State.runImageLock_other _ hd (hlock.trans hk) hne).trans (by simp [ho]))
  case change =>
    refine ⟨?_, fun k hk => ?_, ?_⟩
    · rw [State.setLock_changed ho, State.raiseAll_img]
    · rw [State.setLock_changed ho]
      exact State.flag_raiseAll _ 2 k (by decide) hk
    · rw [State.setLock_changed ho]
      exact State.put_of_withoutSig (State.raiseAll_withoutSig _ 2)
  case recovery =>
    have hd (op : Nat) : (s.takes h op).1.dev = .recovery := (s.takes_dev h op).trans hd
    intro refused
    refine ⟨fun ha => ⟨?_, ?_, ?_, ?_⟩, fun ha => ⟨?_, ?_, ?_⟩⟩
    · exact exec_effect rfl rfl ha _ (State.runImageVerify_recovery _ (hd _) hx)
    · exact exec_effect rfl rfl ha _ (State.runApplyCancel_recovery _ (hd _))
    · exact exec_effect rfl rfl ha _ (State.runImageStore_recovery _ (hd _))
    · exact exec_effect rfl rfl ha _ (State.runImageLock_recovery _ (hd _))
    · exact exec_effect rfl rfl ha _ (State.runImageApply_recovery _ (hd _) hb)
    · exact exec_effect rfl rfl ha _ (State.runOverlayApply_recovery _ (hd _) hr)
    · exact exec_effect rfl rfl ha _ (State.runOverlayRevert_recovery _ (hd _) b)

end Sys2Proof.Machine

/-! PROOFS. IMAGE_VERIFY and the end of its checks (O9). -/

namespace Sys2Proof.Machine

section
variable {s : State} {c : CmdRef} {h : Hdr}

/-- What an accepted IMAGE_VERIFY does. -/
theorem State.runImageVerify_staged {length : BitVec 64} (hl : s.Lets h) (hn : allOnes64 length = false)
    (ha : s.img.apply = none) (hs : s.img.staging = .written ∨ s.img.staging = .verified) :
    s.runImageVerify c h length = { s.gated h with img := { (s.gated h).img with
      staging := .verifying, staged := none, verify := some ⟨some c, length.toNat⟩ } } := by
  rw [State.runImageVerify, if_neg (by simp [hn]), hl.imageGate]
  exact if_neg (by rcases hs with hs | hs <;> simp [ha, hs])

/-- The checks end with an image: it is VERIFIED, and a signature that they reached is counted. -/
theorem State.verified_ok {n : Nat} {i : Image} (hv : s.img.verify = some ⟨some c, n⟩)
    (hc : s.checkStaging n = (.ok i, none)) :
    s.verified =
      let w := if s.sigReached n then s.count .secVerifyCount [] else s
      ({ w with img := { w.img with verify := none, staging := .verified, staged := some i } } : State).complete c
        Code.ok := by
  unfold State.verified
  simp only [hv, hc]
  cases s.sigReached n <;> rfl

/-- The checks end with a code: the region is WRITTEN, and a signature that they reached is counted, and flagged where
it is what failed. -/
theorem State.verified_error {n code : Nat} (hv : s.img.verify = some ⟨some c, n⟩)
    (hc : s.checkStaging n = (.error code, none)) :
    s.verified =
      let w := if s.sigReached n then s.count .secVerifyCount [] else s
      let w := if s.sigReached n ∧ code = Code.imageSignature then w.setFlag .secFlags [] 0 else w
      ({ w with img := { w.img with verify := none, staging := .written, staged := none } } : State).complete c
        code := by
  unfold State.verified
  simp only [hv, hc]
  cases s.sigReached n
  · rfl
  · by_cases hcode : code = Code.imageSignature
    · subst hcode
      rfl
    · simp [State.noteSig, hcode, State.answer]

end

theorem exec_verificationComplete (s : State) : exec .verificationComplete s = .next s.verified := rfl

/-- Settles O9: a region that may be verified passes the gate and every refusal; the checks end with an image or with a
code. -/
theorem imageVerify : Obligations.ImageVerify := by
  refine ⟨fun s h length ha hg hn happly hs => ?command, fun s c n i hv hc => ?image, fun s c n code hv hc => ?code⟩
  case command =>
    have himg := s.takes_img h 0x0101
    exact exec_effect rfl rfl (s.accepts_of h _ _ ha) _
      (State.runImageVerify_staged (.of_accepts ha hg _) hn (by rwa [himg]) (by rwa [himg]))
  case image => exact (exec_verificationComplete s).trans (congrArg Host.Outcome.next (State.verified_ok hv hc))
  case code => exact (exec_verificationComplete s).trans (congrArg Host.Outcome.next (State.verified_error hv hc))

end Sys2Proof.Machine

/-! PROOFS. IMAGE_APPLY and its cancel (O10). -/

namespace Sys2Proof.Machine

/-! ### What the record of an override leaves of time -/

@[simp] theorem State.gated_launchCounter (s : State) (h : Hdr) : (s.gated h).launchCounter = s.launchCounter := by
  unfold State.launchCounter State.tb0Ns
  rw [State.gated_time]

@[simp] theorem State.gated_launchOf (s : State) (h : Hdr) (v : BitVec 64) : (s.gated h).launchOf v = s.launchOf v := by
  unfold State.launchOf
  rw [State.gated_launchCounter]

@[simp] theorem State.gated_isLate (s : State) (h : Hdr) (l : Nat) : (s.gated h).isLate l = s.isLate l := by
  unfold State.isLate
  rw [State.gated_launchCounter]

theorem State.fieldDiffers_congr {s u : State} (hu : u.img = s.img) (i : Image) :
    u.fieldDiffers i = s.fieldDiffers i := by
  unfold State.fieldDiffers
  rw [hu]

theorem State.pendingApply_congr {s u : State} (hu : u.img = s.img) : u.pendingApply = s.pendingApply := by
  unfold State.pendingApply
  rw [hu]

/-! ### The commands -/

/-- A command of a seat of this module schedules an item of this module's own. -/
theorem State.addItem_seat (s : State) (launch : Nat) (k : LaunchKind) (c : CmdRef) (hc : c.seat < 4) :
    s.addItem launch k (some c) = { s with img := { s.img with
      items := s.img.items ++ [⟨launch, s.img.itemOrder, k, some c, false⟩]
      itemOrder := s.img.itemOrder + 1 } } := by
  have hown : (some c).any (fun c => c.seat == groupSeat) = false :=
    beq_false_of_ne (Nat.lt_trans hc (by decide)).ne
  rw [State.addItem, hown]

section
variable {s : State} {c : CmdRef} {h : Hdr} (hl : s.Lets h)
include hl

theorem State.runImageApply_verified {fieldChange : Byte} {i : Image} (hf : fieldChange.toNat ≤ 1)
    (hd : s.dev = .idle ∨ s.dev = .running) (hst : s.img.staging = .verified) (hi : s.img.staged = some i)
    (hlate : s.isLate (s.launchOf h.launch) = false) (hx : fieldChange = 1 ∨ s.fieldDiffers i = false) :
    s.runImageApply c h fieldChange =
      ({ s.gated h with img := { (s.gated h).img with staging := .pending } } : State).addItem (s.launchOf h.launch)
        (.imageApply (fieldChange == 1)) (some c) := by
  have hdev : (s.dev != .idle && s.dev != .running) = false := by rcases hd with hd | hd <;> simp [hd]
  have hfield : ¬fieldChange = 0 ∨ s.fieldDiffers i = false := hx.imp_left (by rintro rfl; decide)
  rw [State.runImageApply, if_neg (by omega), hl.imageGate]
  dsimp only
  rw [State.gated_launchOf, State.checked_ok]
  simpa [hdev, hst, hi, hlate, State.fieldDiffers_congr (s.gated_img h)] using hfield

theorem State.runApplyCancel_pending {it : LaunchItem} (hp : s.pendingApply = some it)
    (hlate : s.isLate it.launch = false) :
    s.runApplyCancel c h =
      ((({ s.gated h with img := { (s.gated h).img with staging := .verified, autoLoad := 0 } } : State).dropItem
        it).answer it.by' Code.cancelled).complete c Code.ok := by
  have hp := (State.pendingApply_congr (s.gated_img h)).trans hp
  rw [State.runApplyCancel, hl.imageGate]
  simp only [hp, State.gated_isLate, hlate]
  rfl

end

/-- Settles O10: none of IMAGE_APPLY's conditions holds, and the cancel finds the pending apply before its count. -/
theorem imageApply : Obligations.ImageApply := by
  refine ⟨fun s h f i ha hg hf hd hst hi hlate hx => ?apply, fun s h it ha hg hp hlate => ?cancel,
    State.addItem_seat⟩
  case apply =>
    have himg := s.takes_img h 0x0102
    refine exec_effect rfl rfl (s.accepts_of h _ _ ha) _ ((State.runImageApply_verified (.of_accepts ha hg _) hf
      (i := i) ?_ (by rwa [himg]) (by rwa [himg]) ?_ ?_).trans ?_)
    · rwa [State.takes_dev]
    · rwa [State.takes_launchOf, State.takes_isLate]
    · rwa [State.fieldDiffers_congr himg]
    · rw [State.takes_launchOf]
  case cancel =>
    refine exec_effect rfl rfl (s.accepts_of h _ _ ha) _ (State.runApplyCancel_pending (.of_accepts ha hg _)
      ((State.pendingApply_congr (s.takes_img h _)).trans hp) ?_)
    rwa [State.takes_isLate]

end Sys2Proof.Machine

/-! PROOFS. IMAGE_STORE, the end of its flash write, and IMAGE_QUERY (O11). -/

namespace Sys2Proof.Machine

theorem bytesAt_length (bs : Bytes) (off n : Nat) : (bytesAt bs off n).length = n := by
  simp only [bytesAt, List.length_append, List.length_replicate, List.length_take]
  omega

theorem State.halfId_length (s : State) (k : Nat) : (s.halfId k).length = 16 := by
  unfold State.halfId
  split
  · cases s.img.running
    · rfl
    · exact bytesAt_length _ _ _
  · split
    · rfl
    · simp [State.load, Mem.readAll]

/-- The answer of IMAGE_QUERY has the 64 bytes that R418 lists. -/
theorem State.queryBytes_length (s : State) : s.queryBytes.length = 64 := by
  simp [State.queryBytes, State.halfId_length]

/-- What IMAGE_STORE copies of a staged image: the image as it lies, and the key block of its KEY_SLOT, or 1024 zeros
where that slot is empty (the model's choice, notes/assumptions/102.md). -/
def State.storeCopy (s : State) (i : Image) : Bytes :=
  s.load (halfBase s.stagingHalf) i.length ++ (Tab.get s.sec.keyRam i.keySlot).getD (List.replicate 1024 0)

theorem State.storeCopy_congr {s u : State} (hm : u.mem = s.mem) (hi : u.img = s.img) (hs : u.sec = s.sec) (i : Image) :
    u.storeCopy i = s.storeCopy i := by
  unfold State.storeCopy State.load State.stagingHalf
  rw [hm, hi, hs]

section
variable {s : State} {c : CmdRef} {h : Hdr}

theorem State.runImageStore_verified {i : Image} (hl : s.Lets h) (hst : s.img.staging = .verified)
    (hi : s.img.staged = some i) (hn : i.length + 1024 ≤ 50331648) (hs : s.img.store = none) :
    s.runImageStore c h =
      { s.gated h with img := { (s.gated h).img with store := some (c, s.storeCopy i) } } := by
  rw [← State.gated_img s h] at hst hi
  rw [State.runImageStore, hl.imageGate, ← State.storeCopy_congr (s.gated_mem h) (s.gated_img h) (s.gated_sec h)]
  split
  next j _ hj =>
    obtain rfl := Option.some.inj (hj.symm.trans hi)
    exact State.checked_ok _ _ _ _ (by simpa [hs] using hn)
  next hno => exact absurd hi (hno i hst)

theorem State.runImageQuery_dram {a : BitVec 64} (ha : addrReserved a = false) (hb : bufferIn a 64 = true) :
    s.runImageQuery c a = (s.storeFor c.seat a.toNat s.queryBytes).complete c Code.ok :=
  s.checked_ok c _ _ (by simp [ha, hb])

end

theorem exec_imageStoreDone {s : State} {c : CmdRef} {data : Bytes} (hs : s.img.store = some (c, data)) :
    exec .imageStoreDone s = .next (({ s with
      img := { s.img with store := none }, flash := { s.flash with slot := data } } : State).complete c Code.ok) := by
  change execImageStoreDone s = _
  rw [execImageStoreDone, hs]

/-- Settles O11: IMAGE_STORE meets no refusal and takes its copies, the end of the write puts them into the slot, and
the answer of IMAGE_QUERY is 64 bytes in DRAM. -/
theorem imageStoreAndQuery : Obligations.ImageStoreAndQuery := by
  refine ⟨fun s h i ha hg hst hi hn hs => ?store, fun s c data => exec_imageStoreDone,
    fun s h a ha hr hb => exec_effect rfl rfl ha _ (State.runImageQuery_dram hr hb), State.queryBytes_length⟩
  have himg := s.takes_img h 0x0104
  refine exec_effect rfl rfl (s.accepts_of h _ _ ha) _ ((State.runImageStore_verified (.of_accepts ha hg _)
    (by rwa [himg]) (by rwa [himg]) hn (by rwa [himg])).trans ?_)
  rw [State.storeCopy_congr (s.takes_mem h _) himg (s.takes_sec h _), State.storeCopy]

end Sys2Proof.Machine

/-! PROOFS. Overlay commands, promotions, and their ends (O12). -/

namespace Sys2Proof.Machine

/-! ### What an overlay command reads of the state -/

theorem State.load_congr {s u : State} (hm : u.mem = s.mem) (a n : Nat) : u.load a n = s.load a n := by
  unfold State.load
  rw [hm]

theorem State.badIn_congr {s u : State} (hc : u.mc = s.mc) (a n : Nat) : u.badIn a n = s.badIn a n := by
  unfold State.badIn
  rw [hc]

/-- A buffer in good memory is read as it lies. -/
theorem State.readBuf_good {s : State} {a n : Nat} (hb : s.badIn a n = none) (seat : Nat) :
    s.readBuf a n seat = (s, some (s.load a n)) := by
  rw [State.readBuf, hb]

theorem State.overlaySig_congr {s u : State} (hb : u.boot = s.boot) (hs : u.sec = s.sec) (r : Bytes) :
    u.overlaySig r = s.overlaySig r := by
  unfold State.overlaySig State.imageKey
  rw [hb, hs]

theorem State.overlayGen_congr {s u : State} (hi : u.img = s.img) : u.overlayGen = s.overlayGen := by
  unfold State.overlayGen
  rw [hi]

theorem State.overlayNext_congr {s u : State} (hi : u.img = s.img) : u.overlayNext = s.overlayNext := by
  unfold State.overlayNext
  rw [hi]

theorem State.overlayRoom_congr {s u : State} (hi : u.img = s.img) (n : Nat) : u.overlayRoom n = s.overlayRoom n := by
  unfold State.overlayRoom
  rw [State.overlayNext_congr hi, hi]

/-- A signature that holds is counted. -/
theorem State.noteSig_true (s : State) : s.noteSig true = s.count .secVerifyCount [] := rfl

/-! ### OVERLAY_APPLY (R67) -/

/-- The overlay record at an address, as long as its header says. -/
def State.overlayRecord (s : State) (a : Nat) : Bytes := s.load a (Ovl.length (s.load a 64))

theorem State.overlayRecord_congr {s u : State} (hm : u.mem = s.mem) (a : Nat) :
    u.overlayRecord a = s.overlayRecord a := by
  unfold State.overlayRecord
  simp only [State.load_congr hm]

/-- The record at an address lies in good memory and passes every check for the running image. -/
structure State.GoodOverlay (s : State) (a : BitVec 64) (i : Image) : Prop where
  headIn : bufferIn a 64 = true
  headGood : s.badIn a.toNat 64 = none
  head : Checks.fail (overlayHeader (s.load a.toNat 64)) = none
  inDram : bufferIn a (Ovl.length (s.load a.toNat 64)) = true
  good : s.badIn a.toNat (Ovl.length (s.load a.toNat 64)) = none
  sig : s.overlaySig (s.overlayRecord a.toNat) = none
  runs : s.img.running = some i
  content : Checks.fail (i.overlayChecks s.overlayGen (s.overlayRecord a.toNat)) = none
  room : s.overlayRoom (s.overlayRecord a.toNat).length = true

/-- Whether a record is good rests on memory, the image state and the keys alone. -/
theorem State.GoodOverlay.congr {s u : State} {a : BitVec 64} {i : Image} (hs : s.GoodOverlay a i)
    (hmem : u.mem = s.mem) (hmc : u.mc = s.mc) (himg : u.img = s.img) (hboot : u.boot = s.boot)
    (hsec : u.sec = s.sec) : u.GoodOverlay a i where
  headIn := hs.headIn
  headGood := by rw [State.badIn_congr hmc, hs.headGood]
  head := by rw [State.load_congr hmem, hs.head]
  inDram := by rw [State.load_congr hmem, hs.inDram]
  good := by rw [State.load_congr hmem, State.badIn_congr hmc, hs.good]
  sig := by rw [State.overlayRecord_congr hmem, State.overlaySig_congr hboot hsec, hs.sig]
  runs := by rw [himg, hs.runs]
  content := by rw [State.overlayRecord_congr hmem, State.overlayGen_congr himg, hs.content]
  room := by rw [State.overlayRecord_congr hmem, State.overlayRoom_congr himg, hs.room]

theorem State.GoodOverlay.gated {s : State} {a : BitVec 64} {i : Image} (hs : s.GoodOverlay a i) (h : Hdr) :
    (s.gated h).GoodOverlay a i :=
  hs.congr (s.gated_mem h) (s.gated_mc h) (s.gated_img h) (s.gated_boot h) (s.gated_sec h)

theorem State.GoodOverlay.takes {s : State} {a : BitVec 64} {i : Image} (hs : s.GoodOverlay a i) (h : Hdr) (op : Nat) :
    (s.takes h op).1.GoodOverlay a i :=
  hs.congr (s.takes_mem h op) (s.takes_mc h op) (s.takes_img h op) (s.takes_boot h op) (s.takes_sec h op)

section
variable {s : State} {c : CmdRef} {h : Hdr}

theorem State.runOverlayApply_good {a : BitVec 64} {i : Image} (hl : s.Lets h) (ha : addrReserved a = false)
    (hlate : s.isLate (s.launchOf h.launch) = false) (hs : s.GoodOverlay a i) :
    s.runOverlayApply c h a =
      let v := (s.gated h).count .secVerifyCount []
      (v.store v.overlayNext (s.overlayRecord a.toNat)).addItem (s.launchOf h.launch)
        (.overlayApply v.overlayNext (s.overlayRecord a.toNat)) (some c) := by
  have hv := hs.gated h
  rw [← State.gated_isLate s h] at hlate
  rw [State.runOverlayApply, if_neg (by simp [ha]), hl.imageGate, State.gated_launchOf,
    ← State.overlayRecord_congr (s.gated_mem h)]
  generalize s.gated h = v at hv hlate
  have hgen : (v.count .secVerifyCount []).overlayGen = v.overlayGen := State.overlayGen_congr (v.count_img _ _ _)
  have hroom := (State.overlayRoom_congr (v.count_img .secVerifyCount [] 1) _).trans hv.room
  have hruns := (congrArg ImgState.running (v.count_img .secVerifyCount [] 1)).trans hv.runs
  have hbytes : v.load a.toNat (Ovl.length (v.load a.toNat 64)) = v.overlayRecord a.toNat := rfl
  simp only [hlate, hv.headIn, State.readBuf_good hv.headGood, hv.head, hv.inDram, State.readBuf_good hv.good, hbytes,
    hv.sig, reduceCtorEq, if_false, Option.isNone_none, State.noteSig_true, hgen, hruns, hv.content, hroom]
  rfl

/-! ### OVERLAY_REVERT and the end of a change of overlays (R67, R68) -/

theorem State.runOverlayRevert_inTime {gen : Byte} (hl : s.Lets h) (hlate : s.isLate (s.launchOf h.launch) = false)
    (hg : gen.toNat ≤ s.overlayGen) :
    s.runOverlayRevert c h gen =
      (s.gated h).addItem (s.launchOf h.launch) (.overlayRevert gen.toNat) (some c) := by
  rw [State.runOverlayRevert, hl.imageGate]
  dsimp only
  rw [State.gated_launchOf, State.checked_ok]
  simp [hlate, State.overlayGen_congr (s.gated_img h), hg]

theorem State.overlayGapEnd_reached {r : OverlayRun}
    (hr : s.img.overlayRuns.find? (fun r => r.left.isEmpty) = some r) (hp : r.promoted = none) :
    s.overlayGapEnd = ({ s with img := { s.img with overlayRuns := s.img.overlayRuns.erase r } } : State).answer r.by'
      Code.ok 0 r.gen := by
  simp only [State.overlayGapEnd, hr, hp]

/-! ### CANDIDATE_PROMOTE and CANDIDATE_RECORD_STORED (R361) -/

/-- The record of a promotion of buffer `k` before its trailer. -/
def State.promotion (s : State) (k : Nat) : Bytes :=
  promotionBody ((s.img.running.map Image.imageId).getD []) s.overlayGen
    (if k = 0 then s.train.cand.buf0 else s.train.cand.buf1)

theorem State.promotion_congr {s u : State} (hi : u.img = s.img) (ht : u.train = s.train) (k : Nat) :
    u.promotion k = s.promotion k := by
  unfold State.promotion
  rw [State.overlayGen_congr hi, hi, ht]

/-- The trailer of a record rests on the free value drawn for it. -/
theorem State.signed_congr {s u : State} (hf : u.free = s.free) (body : Bytes) :
    (u.signed body).2 = (s.signed body).2 := by
  unfold State.signed
  rw [hf]

theorem State.runPromote_room {force : Byte} {k : Nat} (hf : force.toNat ≤ 1) (hk : s.train.cand.current = some k)
    (hb : force = 1 ∨ s.train.cand.base = s.overlayGen) (hlate : s.isLate (s.launchOf h.launch) = false)
    (hg : s.overlayGen < 255) (hroom : s.overlayRoom (s.signed (s.promotion k)).2.length = true) :
    s.runPromote c h force = (s.signed (s.promotion k)).1.addItem (s.launchOf h.launch)
      (.promote s.overlayNext (s.signed (s.promotion k)).2 false) (some c) := by
  have hstale : force ≠ 0 ∨ s.train.cand.base = s.overlayGen := hb.imp_left (by rintro rfl; decide)
  have hroom : (s.signed (s.promotion k)).1.overlayRoom (s.signed (s.promotion k)).2.length = true := hroom
  have hbuf : promotionBody ((s.img.running.map Image.imageId).getD []) s.overlayGen
      (if s.train.cand.current = some 0 then s.train.cand.buf0 else s.train.cand.buf1) = s.promotion k := by
    simp [State.promotion, hk]
  rw [State.runPromote, State.checked_ok]
  · simp only [hbuf, hroom]
    rfl
  · simpa [hk, hlate, hf, hg] using hstale

/-- The record of the first promotion that is not stored yet is written, and marked stored. -/
theorem State.storePromotion_first {it : LaunchItem} {a : Nat} {r : Bytes} {rest : List LaunchItem}
    (hs : s.img.items = it :: rest) (hk : it.kind = .promote a r false) (ho : ∀ x ∈ rest, x.order ≠ it.order) :
    s.storePromotion = ({ s with img := { s.img with
      items := { it with kind := .promote a r true } :: rest } } : State).store a r := by
  have hrest : (rest.map fun x => if x.order = it.order then { x with kind := .promote a r true } else x) = rest :=
    (List.map_congr_left fun x hx => if_neg (ho x hx)).trans (List.map_id _)
  simp only [State.storePromotion, hs, List.findSome?_cons, hk, List.map_cons, if_true, hrest]

end

theorem exec_overlayApplyGapEnd (s : State) : exec .overlayApplyGapEnd s = .next s.overlayGapEnd := rfl

theorem exec_candidateRecordStored (s : State) : exec .candidateRecordStored s = .next s.storePromotion := rfl

/-- Settles O12: a good record and a promotion with room pass every refusal, and the ends act on the first run and the
first record that are due. -/
theorem overlayCommands : Obligations.OverlayCommands := by
  refine ⟨fun s h a i ha hg hr hlate hbuf hgood hhead hbuf' hgood' hsig hrun hcontent hroom => ?apply,
    fun s h gen ha hg hlate hgen => ?revert, fun s r hr hp => ?gapEnd,
    fun s h force k ha hf hk hb hlate hgen hroom => ?promote, fun s it a r rest hs hk ho => ?stored⟩
  case apply =>
    have hs : s.GoodOverlay a i := ⟨hbuf, hgood, hhead, hbuf', hgood', hsig, hrun, hcontent, hroom⟩
    refine exec_effect rfl rfl (s.accepts_of h _ _ ha) _ ((State.runOverlayApply_good (.of_accepts ha hg _) hr ?_
      (hs.takes h _)).trans ?_)
    · rw [State.takes_launchOf, State.takes_isLate]
      exact hlate
    · rw [State.takes_launchOf, State.overlayRecord_congr (s.takes_mem h _)]
      rfl
  case revert =>
    refine exec_effect rfl rfl (s.accepts_of h _ _ ha) _ ((State.runOverlayRevert_inTime (.of_accepts ha hg _) ?_
      ?_).trans ?_)
    · rwa [State.takes_launchOf, State.takes_isLate]
    · rwa [State.overlayGen_congr (s.takes_img h _)]
    · rw [State.takes_launchOf]
  case gapEnd =>
    exact (exec_overlayApplyGapEnd s).trans (congrArg Host.Outcome.next (State.overlayGapEnd_reached hr hp))
  case promote =>
    have himg := s.takes_img h 0x060A
    have hbody := State.promotion_congr himg (s.takes_train h 0x060A) k
    have hsigned := State.signed_congr (s.takes_free h 0x060A) (s.promotion k)
    refine exec_effect rfl rfl ha _ ((State.runPromote_room hf (k := k) ?_ ?_ ?_ ?_ ?_).trans ?_)
    · rw [State.takes_train]
      exact hk
    · rw [State.takes_train, State.overlayGen_congr himg]
      exact hb
    · rw [State.takes_launchOf, State.takes_isLate]
      exact hlate
    · rw [State.overlayGen_congr himg]
      exact hgen
    · rw [hbody, hsigned, State.overlayRoom_congr himg]
      exact hroom
    · rw [hbody, hsigned, State.takes_launchOf, State.overlayNext_congr himg]
      rfl
  case stored =>
    exact (exec_candidateRecordStored s).trans (congrArg Host.Outcome.next (State.storePromotion_first hs hk ho))

end Sys2Proof.Machine

/-! PROOFS. What a completion writes, and when it is lost (O7). -/

namespace Sys2Proof.Machine

/-! ### What telling a seat leaves of the host block -/

/-- The host block without what datagrams and interrupts to a seat change. -/
def HostState.withoutTalk (x : HostState) : HostState :=
  { x with sessions := [], spacing := [], intHeld := [], sentCauses := [] }

theorem HostState.withoutTalk_outstanding (x : HostState) : x.withoutTalk.outstanding = x.outstanding := rfl
theorem HostState.withoutTalk_mem0 (x : HostState) : x.withoutTalk.mem0 = x.mem0 := rfl
theorem HostState.withoutTalk_mem1 (x : HostState) : x.withoutTalk.mem1 = x.mem1 := rfl

theorem State.bhPut_withoutTalk (s : State) (seat type seq : Nat) (retry : Bool) (p : Bytes) :
    (s.bhPut seat type seq retry p).host.withoutTalk = s.host.withoutTalk := by
  unfold State.bhPut
  split <;> rfl

theorem State.bhSend_withoutTalk (s : State) (seat type : Nat) (p : Bytes) (ring n : Nat) :
    (s.bhSend seat type p ring n).host.withoutTalk = s.host.withoutTalk := by
  unfold State.bhSend
  split
  · rfl
  · dsimp only
    split
    · rw [State.bhPut_withoutTalk]
      rfl
    · rfl

theorem State.sendInterrupt_withoutTalk (s : State) (seat : Nat) :
    (s.sendInterrupt seat).host.withoutTalk = s.host.withoutTalk :=
  s.bhSend_withoutTalk seat 0x0B _ 0 0

theorem State.signalSeat_withoutTalk (s : State) (seat : Nat) :
    (s.signalSeat seat).host.withoutTalk = s.host.withoutTalk := by
  unfold State.signalSeat
  dsimp only
  repeat' split
  case isFalse.isFalse.isFalse.isFalse => exact State.sendInterrupt_withoutTalk _ seat
  all_goals rfl

/-! ### The steps of a completion's writing (R413, R415, R423) -/

theorem cqeBytes_length (c : CmdRef) (st r0 r1 phase sqHead : Nat) :
    (cqeBytes c st r0 r1 phase sqHead).length = 32 := by
  simp [cqeBytes]

/-- The entry goes where the ring lies. -/
def State.putCqe (s : State) (c : CmdRef) (a : Nat) (e : Bytes) : State :=
  if s.ringInHost c.seat c.ring then s.hostStore c.seat a e else s.store a e

/-- CQ_TAIL passes the entry, and at the end of the ring the phase bit turns. -/
def State.passCqe (s : State) (seat ring tail phase : Nat) : State :=
  let wrap := tail + 1 == s.ringSize seat ring
  let s := s.setFld .cqTail [seat, ring] 0 16 (if wrap then 0 else tail + 1)
  if wrap then s.setFld .cqTail [seat, ring] 16 1 (1 - phase) else s

/-- The seat is told: a network seat by a COMPLETE datagram, and every seat by its causes. -/
def State.tellCqe (s : State) (c : CmdRef) (e : Bytes) : State :=
  (if 2 ≤ c.seat then s.bhSend c.seat 0x04 (natLe 1 c.ring ++ [1, 0, 0] ++ e) c.ring 1 else s).signalSeat c.seat

/-- The entry of a completion written now. -/
def State.cqe (s : State) (c : CmdRef) (st r0 r1 : Nat) : Bytes :=
  cqeBytes c st r0 r1 (s.fld .cqTail [c.seat, c.ring] 16 1) (s.fld .sqHead [c.seat, c.ring] 0 16)

/-- Where a completion written now lies. -/
def State.cqeAddr (s : State) (c : CmdRef) : Nat :=
  s.pair .cqBaseLo .cqBaseHi [c.seat, c.ring] + 32 * s.fld .cqTail [c.seat, c.ring] 0 16

theorem State.writeCqe_steps (s : State) (c : CmdRef) (st r0 r1 : Nat) :
    s.writeCqe c st r0 r1 = ((s.putCqe c (s.cqeAddr c) (s.cqe c st r0 r1)).passCqe c.seat c.ring
      (s.fld .cqTail [c.seat, c.ring] 0 16) (s.fld .cqTail [c.seat, c.ring] 16 1)).tellCqe c (s.cqe c st r0 r1) := by
  unfold State.writeCqe State.putCqe State.passCqe State.tellCqe State.cqe State.cqeAddr
  rfl

theorem State.cqe_length (s : State) (c : CmdRef) (st r0 r1 : Nat) : (s.cqe c st r0 r1).length = 32 :=
  cqeBytes_length c st r0 r1 _ _

/-- A write into good memory touches nothing but the bytes written. -/
theorem State.store_good {s : State} {a : Nat} {d : Bytes} (hb : s.badIn a d.length = none) :
    s.store a d = s.poke a d := by
  rw [State.store, hb]

section
variable (s : State) (c : CmdRef) (a : Nat) (e : Bytes)

theorem State.tellCqe_withoutSend : (s.tellCqe c e).withoutSend = s.withoutSend := by
  unfold State.tellCqe
  split <;> simp

theorem State.tellCqe_regs : (s.tellCqe c e).regs = s.regs := by
  rw [← State.withoutSend_regs, State.tellCqe_withoutSend, State.withoutSend_regs]

theorem State.tellCqe_withoutSig : (s.tellCqe c e).withoutSig = s.withoutSig := by
  rw [← State.withoutSend_withoutSig, State.tellCqe_withoutSend, State.withoutSend_withoutSig]

theorem State.tellCqe_mem : (s.tellCqe c e).mem = s.mem := by
  rw [← State.withoutSend_mem, State.tellCqe_withoutSend, State.withoutSend_mem]

theorem State.tellCqe_withoutTalk : (s.tellCqe c e).host.withoutTalk = s.host.withoutTalk := by
  unfold State.tellCqe
  rw [State.signalSeat_withoutTalk]
  split
  · exact State.bhSend_withoutTalk _ _ _ _ _ _
  · rfl

section
variable (seat ring tail phase : Nat)

theorem State.passCqe_withoutRegs : (s.passCqe seat ring tail phase).withoutRegs = s.withoutRegs := by
  unfold State.passCqe
  dsimp only
  split
  · rw [State.setFld_withoutRegs, State.setFld_withoutRegs]
  · rw [State.setFld_withoutRegs]

theorem State.passCqe_mem : (s.passCqe seat ring tail phase).mem = s.mem := by
  rw [← State.withoutRegs_mem, State.passCqe_withoutRegs, State.withoutRegs_mem]

theorem State.passCqe_host : (s.passCqe seat ring tail phase).host = s.host := by
  rw [← State.withoutRegs_host, State.passCqe_withoutRegs, State.withoutRegs_host]

theorem State.passCqe_withoutSig : (s.passCqe seat ring tail phase).withoutSig = s.withoutSig := by
  rw [← State.withoutRegs_withoutSig, State.passCqe_withoutRegs, State.withoutRegs_withoutSig]

theorem State.passCqe_last (h : tail + 1 = s.ringSize seat ring) :
    (s.passCqe seat ring tail phase).fld .cqTail [seat, ring] 0 16 = 0 ∧
    (s.passCqe seat ring tail phase).fld .cqTail [seat, ring] 16 1 = (1 - phase) % 2 := by
  simp only [State.passCqe, beq_iff_eq.mpr h, if_true]
  constructor
  · rw [State.fld_setFld_apart _ _ _ _ _ _ _ _ (by decide) (.inl (by decide)),
      State.fld_setFld_same _ _ _ _ _ _ (by decide), Nat.zero_mod]
  · rw [State.fld_setFld_same _ _ _ _ _ _ (by decide), Nat.pow_one]

theorem State.passCqe_within (h : tail + 1 ≠ s.ringSize seat ring) :
    (s.passCqe seat ring tail phase).fld .cqTail [seat, ring] 0 16 = (tail + 1) % 2 ^ 16 ∧
    (s.passCqe seat ring tail phase).fld .cqTail [seat, ring] 16 1 = s.fld .cqTail [seat, ring] 16 1 := by
  simp only [State.passCqe, beq_false_of_ne h, Bool.false_eq_true, if_false]
  exact ⟨State.fld_setFld_same _ _ _ _ _ _ (by decide),
    State.fld_setFld_apart _ _ _ _ _ _ _ _ (by decide) (.inr (by decide))⟩

end

end

theorem State.ringSettle_fld_cqTail (s : State) (seat ring lo w : Nat) :
    (s.ringSettle seat ring).fld .cqTail [seat, ring] lo w = s.fld .cqTail [seat, ring] lo w := by
  unfold State.ringSettle
  split
  · refine State.fld_setFld_other _ _ _ _ _ _ _ _ _ _ ?_
    simp only [RN.off, RN.row, List.zipWith, List.foldl]
    omega
  · rfl

/-! ### Memory after the entry is written -/

theorem State.hostLoad_congr {s t : State} (ht : t.host.withoutTalk = s.host.withoutTalk) (seat a n : Nat) :
    t.hostLoad seat a n = s.hostLoad seat a n := by
  rw [State.hostLoad, ← HostState.withoutTalk_mem0 t.host, ← HostState.withoutTalk_mem1 t.host, ht]
  rfl

/-- Bytes written into a seat's host memory read back. -/
theorem State.hostLoad_hostStore (s : State) (hw : s.memWf = true) (seat a : Nat) (d : Bytes) :
    (s.hostStore seat a d).hostLoad seat a d.length = d := by
  simp only [State.memWf, Bool.and_eq_true] at hw
  obtain ⟨⟨-, h0⟩, h1⟩ := hw
  unfold State.hostStore State.hostLoad
  by_cases hs : seat = 0
  · simp only [hs, if_true]
    exact Mem.readAll_writeAll_same _ a d h0
  · simp only [hs, if_false]
    exact Mem.readAll_writeAll_same _ a d h1

/-- The state without what a completion's entry changes. -/
def State.withoutCqe (s : State) : State := { s.withoutSig with mem := [] }

theorem State.withoutCqe_of_withoutSig {s t : State} (h : t.withoutSig = s.withoutSig) :
    t.withoutCqe = s.withoutCqe := congrArg (fun u : State => { u with mem := [] }) h

theorem State.poke_withoutCqe (s : State) (a : Nat) (d : Bytes) : (s.poke a d).withoutCqe = s.withoutCqe := rfl

theorem State.poke_written (s : State) (a : Nat) (d : Bytes) : (s.poke a d).mem = Mem.writeAll s.mem a d := rfl

/-- What keeps all that a completion's entry does not change is the same state once the rest is put back. -/
theorem State.put_of_withoutCqe {s t : State} (h : t.withoutCqe = s.withoutCqe) :
    { t with regs := s.regs, mem := s.mem, host := s.host, out := s.out } = s :=
  congrArg (fun u : State => { u with regs := s.regs, mem := s.mem, host := s.host, out := s.out }) h

/-! ### A completion that is written -/

/-- The state in which the command is no longer outstanding. -/
abbrev State.released (s : State) (c : CmdRef) : State :=
  { s with host := { s.host with outstanding := s.host.outstanding.erase c } }

/-- The state once the entry is written. -/
def State.withCqe (s : State) (c : CmdRef) (st r0 r1 : Nat) : State :=
  (s.released c).putCqe c (s.cqeAddr c) (s.cqe c st r0 r1)

/-- A command completes by an entry now: it is outstanding, its connection stands, its ring can be reached, and the
place of the entry is good. -/
structure State.Completes (s : State) (c : CmdRef) : Prop where
  seat : c.seat < 4
  live : s.host.outstanding.contains c = true
  conn : s.conn c.seat = c.conn
  connected : s.connected c.seat = true
  master : s.busMaster c.seat = true ∨ s.ringInHost c.seat c.ring = false
  good : s.badIn (s.cqeAddr c) 32 = none

theorem State.released_withoutCqe (s : State) (c : CmdRef) : (s.released c).withoutCqe = s.withoutCqe := rfl
theorem State.released_memWf (s : State) (c : CmdRef) : (s.released c).memWf = s.memWf := rfl

theorem CmdRef.not_group {c : CmdRef} (h : c.seat < 4) : c.seat ≠ groupSeat := (Nat.lt_trans h (by decide)).ne

theorem State.withCqe_inHost {s : State} {c : CmdRef} (hr : s.ringInHost c.seat c.ring = true) (st r0 r1 : Nat) :
    s.withCqe c st r0 r1 = (s.released c).hostStore c.seat (s.cqeAddr c) (s.cqe c st r0 r1) :=
  if_pos hr

section
variable {s : State} {c : CmdRef} (hc : s.Completes c) (st r0 r1 : Nat)
include hc

theorem State.Completes.withCqe_inDevice (hr : s.ringInHost c.seat c.ring = false) :
    s.withCqe c st r0 r1 = (s.released c).poke (s.cqeAddr c) (s.cqe c st r0 r1) :=
  (if_neg (ne_true_of_eq_false hr)).trans (State.store_good ((s.cqe_length c st r0 r1).symm ▸ hc.good))

theorem State.Completes.withCqe_regs : (s.withCqe c st r0 r1).regs = s.regs := by
  cases hr : s.ringInHost c.seat c.ring with
  | true => rw [State.withCqe_inHost hr, State.hostStore_regs]
  | false => rw [hc.withCqe_inDevice st r0 r1 hr, State.poke_regs]

theorem State.Completes.withCqe_outstanding :
    (s.withCqe c st r0 r1).host.outstanding = s.host.outstanding.erase c := by
  cases hr : s.ringInHost c.seat c.ring with
  | true =>
    rw [State.withCqe_inHost hr, State.hostStore]
    split <;> rfl
  | false => rw [hc.withCqe_inDevice st r0 r1 hr, State.poke_host]

theorem State.Completes.withCqe_withoutCqe : (s.withCqe c st r0 r1).withoutCqe = s.withoutCqe := by
  cases hr : s.ringInHost c.seat c.ring with
  | true =>
    rw [State.withCqe_inHost hr]
    exact (State.withoutCqe_of_withoutSig (State.hostStore_withoutSig _ _ _ _)).trans (s.released_withoutCqe c)
  | false => rw [hc.withCqe_inDevice st r0 r1 hr, State.poke_withoutCqe, State.released_withoutCqe]

/-- A completion writes its entry, passes it, tells its seat, and settles a ring that drains. -/
theorem State.Completes.finish_eq : s.finish c st r0 r1 =
    (((s.withCqe c st r0 r1).passCqe c.seat c.ring (s.fld .cqTail [c.seat, c.ring] 0 16)
      (s.fld .cqTail [c.seat, c.ring] 16 1)).tellCqe c (s.cqe c st r0 r1)).ringSettle c.seat c.ring := by
  have hhere : ¬((s.released c).conn c.seat ≠ c.conn ∨ (!(s.released c).connected c.seat) = true) :=
    not_or.mpr ⟨not_not_intro hc.conn, Bool.not_eq_true' _ ▸ ne_false_of_eq_true hc.connected⟩
  have hreach : ((s.released c).ringInHost c.seat c.ring && !(s.released c).busMaster c.seat) = false := by
    change (s.ringInHost c.seat c.ring && !s.busMaster c.seat) = false
    rcases hc.master with h | h <;> simp [h]
  unfold State.finish
  rw [if_neg (CmdRef.not_group hc.seat), if_neg (by rw [hc.live]; decide)]
  dsimp only
  rw [if_neg hhere, if_neg (ne_true_of_eq_false hreach), State.writeCqe_steps]
  rfl

theorem State.Completes.finish_fld (lo w : Nat) :
    (s.finish c st r0 r1).fld .cqTail [c.seat, c.ring] lo w =
      ((s.withCqe c st r0 r1).passCqe c.seat c.ring (s.fld .cqTail [c.seat, c.ring] 0 16)
        (s.fld .cqTail [c.seat, c.ring] 16 1)).fld .cqTail [c.seat, c.ring] lo w := by
  rw [hc.finish_eq, State.ringSettle_fld_cqTail, State.fld_congr (State.tellCqe_regs _ _ _)]

theorem State.Completes.finish_mem : (s.finish c st r0 r1).mem = (s.withCqe c st r0 r1).mem := by
  rw [hc.finish_eq, State.ringSettle_mem, State.tellCqe_mem, State.passCqe_mem]

theorem State.Completes.finish_withoutTalk :
    (s.finish c st r0 r1).host.withoutTalk = (s.withCqe c st r0 r1).host.withoutTalk := by
  rw [hc.finish_eq, State.ringSettle_host, State.tellCqe_withoutTalk, State.passCqe_host]

theorem State.Completes.finish_withoutCqe : (s.finish c st r0 r1).withoutCqe = s.withoutCqe := by
  rw [hc.finish_eq]
  refine (State.withoutCqe_of_withoutSig ?_).trans (hc.withCqe_withoutCqe st r0 r1)
  rw [State.ringSettle_withoutSig, State.tellCqe_withoutSig, State.passCqe_withoutSig]

theorem State.Completes.withCqe_ringSize :
    (s.withCqe c st r0 r1).ringSize c.seat c.ring = s.ringSize c.seat c.ring := by
  unfold State.ringSize
  rw [State.fld_congr (hc.withCqe_regs st r0 r1)]

/-- An entry in device memory reads back, and no other byte there changes. -/
theorem State.Completes.finish_inDevice (hw : s.memWf = true) (hr : s.ringInHost c.seat c.ring = false) :
    (s.finish c st r0 r1).load (s.cqeAddr c) 32 = s.cqe c st r0 r1 ∧
    ∀ b, b < s.cqeAddr c ∨ s.cqeAddr c + 32 ≤ b →
      Mem.read (s.finish c st r0 r1).mem b = Mem.read s.mem b := by
  have hm : Mem.wf s.mem = true := by
    simp only [State.memWf, Bool.and_eq_true] at hw
    exact hw.1.1
  have hmem : (s.finish c st r0 r1).mem = Mem.writeAll s.mem (s.cqeAddr c) (s.cqe c st r0 r1) := by
    rw [hc.finish_mem, hc.withCqe_inDevice st r0 r1 hr, State.poke_written]
  rw [State.load, hmem]
  constructor
  · exact s.cqe_length c st r0 r1 ▸ Mem.readAll_writeAll_same _ _ _ hm
  · intro b hb
    rw [Mem.read_writeAll _ _ _ _ hm, s.cqe_length, if_neg (by omega)]

theorem State.Completes.finish_inHost (hw : s.memWf = true) (hr : s.ringInHost c.seat c.ring = true) :
    (s.finish c st r0 r1).mem = s.mem ∧
    (s.finish c st r0 r1).hostLoad c.seat (s.cqeAddr c) 32 = s.cqe c st r0 r1 := by
  rw [hc.finish_mem, State.hostLoad_congr (hc.finish_withoutTalk st r0 r1), State.withCqe_inHost hr]
  have hw := (s.released_memWf c).trans hw
  exact ⟨State.hostStore_mem _ _ _ _, s.cqe_length c st r0 r1 ▸ State.hostLoad_hostStore _ hw _ _ _⟩

theorem State.Completes.finish_outstanding :
    (s.finish c st r0 r1).host.outstanding = s.host.outstanding.erase c := by
  rw [← HostState.withoutTalk_outstanding, hc.finish_withoutTalk, HostState.withoutTalk_outstanding,
    hc.withCqe_outstanding]

/-- An entry in device memory is a write there, which the staging region is told of (R56). -/
theorem State.Completes.complete_eq : s.complete c st r0 r1 =
    if s.ringInHost c.seat c.ring = true then s.finish c st r0 r1
    else (s.finish c st r0 r1).watchStaging c.seat (s.cqeAddr c) 32 := by
  cases hr : s.ringInHost c.seat c.ring with
  | true => simp [State.complete, State.cqePlace, hr]
  | false =>
    have hp : s.cqePlace c = some (s.cqeAddr c) :=
      if_pos ⟨CmdRef.not_group hc.seat, hc.live, hc.conn, hc.connected, by simp [hr]⟩
    simp [State.complete, hp]

end

/-! ### A completion that is lost, and a command that is not outstanding (R416, R426) -/

section
variable {s : State} {c : CmdRef} (hs : c.seat < 4) (st r0 r1 : Nat)
include hs

theorem State.complete_lost (hl : s.host.outstanding.contains c = true)
    (hx : s.conn c.seat ≠ c.conn ∨ s.connected c.seat = false) :
    s.complete c st r0 r1 = ((s.released c).count .hostLostCompletions []).ringSettle c.seat c.ring := by
  have hp : s.cqePlace c = none := if_neg (by rcases hx with h | h <;> simp [h])
  have hx : (s.released c).conn c.seat ≠ c.conn ∨ (!(s.released c).connected c.seat) = true :=
    hx.imp_right fun h => congrArg Bool.not h
  rw [State.complete_eq_finish _ _ _ _ _ hp, State.finish, if_neg (CmdRef.not_group hs), if_neg (by rw [hl]; decide)]
  dsimp only
  rw [if_pos hx]

theorem State.complete_unknown (hl : s.host.outstanding.contains c = false) : s.complete c st r0 r1 = s := by
  have hp : s.cqePlace c = none := if_neg (by rintro ⟨-, h, -⟩; exact ne_true_of_eq_false hl h)
  rw [State.complete_eq_finish _ _ _ _ _ hp, State.finish, if_neg (CmdRef.not_group hs), if_pos (by rw [hl]; decide)]

end

theorem State.ringSettle_reg_lost (s : State) (seat ring : Nat) :
    (s.ringSettle seat ring).reg .hostLostCompletions [] = s.reg .hostLostCompletions [] := by
  unfold State.ringSettle
  split
  · refine congrArg BitVec.toNat (State.stored_setFld_other _ _ _ _ _ _ _ _ ?_)
    simp only [RN.off, RN.row, List.zipWith, List.foldl]
    omega
  · rfl

/-- Settles O7: the entry is written, passed and told; a lost completion is only counted. -/
theorem completionIsWritten : Obligations.CompletionIsWritten := by
  refine ⟨fun s c code r0 r1 => ?written, fun s c code r0 r1 hs hr => ⟨fun hl hx => ?lost,
    State.complete_unknown hs code r0 r1⟩⟩
  case written =>
    intro ix tail phase a entry last t hw hs _ hl hconn hcon hm hb
    have hc : s.Completes c := ⟨hs, hl, hconn, hcon, hm, hb⟩
    refine ⟨hc.finish_inDevice code r0 r1 hw, hc.finish_inHost code r0 r1 hw, fun hlast => ?_, fun hlast => ?_,
      hc.finish_outstanding code r0 r1, State.put_of_withoutCqe (hc.finish_withoutCqe code r0 r1),
      hc.complete_eq code r0 r1⟩
    · rw [hc.finish_fld, hc.finish_fld]
      exact State.passCqe_last _ _ _ _ _ (hlast.trans (hc.withCqe_ringSize code r0 r1).symm)
    · obtain ⟨htail, hphase⟩ := State.passCqe_within (s.withCqe c code r0 r1) c.seat c.ring tail phase
        fun h => hlast (h.trans (hc.withCqe_ringSize code r0 r1))
      rw [hc.finish_fld, hc.finish_fld]
      exact ⟨htail, hphase.trans (State.fld_congr (hc.withCqe_regs code r0 r1) _ _ _ _)⟩
  case lost =>
    rw [State.complete_lost hs code r0 r1 hl hx]
    refine ⟨?_, ?_, ?_, ?_⟩
    · rw [State.ringSettle_reg_lost]
      exact State.reg_setReg_same _ _ _ _
    · rw [State.ringSettle_host, State.count_host]
    · rw [State.ringSettle_mem, State.count_mem]
    · rw [State.ringSettle_out, State.count_out]

end Sys2Proof.Machine

/-! PROOFS. The end of a load whose completion lies in the new staging region (O56). -/

namespace Sys2Proof.Machine

/-- An image without sections, in a half. -/
def blankImage (half : Nat) : Image :=
  { half := half, header := List.replicate 128 0, secs := List.replicate 15 [], counts := List.replicate 15 0
    digest := List.replicate 64 0 }

/-- The command that asked for the apply: IMAGE_APPLY on ring 0 of seat 0. -/
def applyCommand : CmdRef := ⟨0, 0, 0, 7, 0x0102, 0, false⟩

/-- Its apply, in the load phase, of an image in half 1. -/
def loadRun : ApplyRun := ⟨.load, 1, false, .running, some applyCommand, blankImage 1, 0, [], false, none, []⟩

/-- Half 0 runs an image and half 1 is being loaded. Seat 0 is connected, and the completion ring of its ring 0, with 64
entries, lies in half 0 from 0x1F0000000 on: the half that becomes the staging region when the load succeeds. -/
def loadingState : State :=
  (((({ State.reset with
    dev := .applying
    img := { State.reset.img with running := some (blankImage 0), apply := some loadRun }
    host := { State.reset.host with outstanding := [applyCommand] } } : State).setReg .seatStatus [0] 0x11).setReg
      .ringCfg [0, 0] 0x19).setReg .cqBaseLo [0, 0] 0xF0000000).setReg .cqBaseHi [0, 0] 1

/-- Where the new image's contents are to lie. -/
def loadPlan : Plan := (loadingState.planFor loadRun.newImage).getD {}

/-- The image fits, so the end of its load phase succeeds. -/
theorem loadingState_planned : loadingState.planFor loadRun.newImage = some loadPlan := by decide +kernel

/-- The completion of the apply is a write into the staging region, which by R56 is WRITTEN from then on: the old image
no longer stands there verified. -/
theorem loadingState_staging : (loadingState.loadDone loadRun loadPlan).img.staging = .written ∧
    (loadingState.loadDone loadRun loadPlan).img.staged = none := by decide +kernel

/-- Refutes O56: a load that succeeds need not leave the old image as the staged one. Where the completion ring of the
command that asked lies in the half that the old image leaves, the entry written there at the end of the load takes the
region from VERIFIED to WRITTEN (R56). -/
theorem not_applyPhases : ¬ Obligations.ApplyPhases := by
  unfold Obligations.ApplyPhases
  intro ⟨_, _, _, _, hdone⟩
  obtain ⟨-, -, -, -, hstaged⟩ := hdone loadingState loadRun loadPlan
  obtain ⟨-, hnone⟩ := loadingState_staging
  rw [hnone] at hstaged
  exact absurd hstaged nofun

end Sys2Proof.Machine

/-! PROOFS. Camera ports and bound streams as parts of the state: what each reads after a write to it or to another,
and which registers of a port a write leaves (03_camera_ingest.md R91 to R95). -/

namespace Sys2Proof.Machine

/-! ### Tables -/

@[simp] theorem Tab.put_put {α : Type} (t : Tab α) (k : Nat) (v w : α) :
    Tab.put (Tab.put t k v) k w = Tab.put t k w := by
  induction t with
  | nil => simp [Tab.put]
  | cons e r ih =>
    obtain ⟨j, a⟩ := e
    rcases Nat.lt_trichotomy k j with h | rfl | h
    · simp [Tab.put, h]
    · simp [Tab.put]
    · simp [Tab.put, h.asymm, h.ne', ih]

theorem Tab.upd_of_get {α : Type} {t : Tab α} {k : Nat} {a : α} (h : Tab.get t k = some a) (f : α → α) :
    Tab.upd t k f = Tab.put t k (f a) := by
  unfold Tab.upd
  rw [h]

/-! ### Bound streams -/

section
variable (s : State) (n : Nat) (x : Stream)

@[simp] theorem State.stream_setStream_same : (s.setStream n x).stream n = some x := Tab.get_put_same _ n x

theorem State.stream_setStream_other {m : Nat} (h : m ≠ n) : (s.setStream n x).stream m = s.stream m :=
  Tab.get_put_other _ n m x h

@[simp] theorem State.setStream_setStream (y : Stream) : (s.setStream n x).setStream n y = s.setStream n y := by
  simp [State.setStream]


/-- Changing a bound stream puts the changed stream back. -/
theorem State.updStream_bound {s : State} {n : Nat} {x : Stream} (h : s.stream n = some x) (f : Stream → Stream) :
    s.updStream n f = s.setStream n (f x) := by
  unfold State.updStream State.setStream
  rw [Tab.upd_of_get h]

@[simp] theorem State.updStream_setStream (f : Stream → Stream) :
    (s.setStream n x).updStream n f = s.setStream n (f x) := by
  rw [State.updStream_bound (s.stream_setStream_same n x), State.setStream_setStream]

end

/-! ### Camera ports -/

theorem State.port_congr {s u : State} (hu : u.cam = s.cam) (p : Nat) : u.port p = s.port p := by
  unfold State.port
  rw [hu]

theorem State.portStreams_congr {s u : State} (hu : u.cam.streams = s.cam.streams) (p : Nat) :
    u.portStreams p = s.portStreams p := by
  unfold State.portStreams
  rw [hu]

section
variable (s : State) (p : Nat) (f : Port → Port)

@[simp] theorem State.port_updPort_same : (s.updPort p f).port p = f (s.port p) := Tab.getD_put_same _ p _ _

@[simp] theorem State.fld_updPort (r : RN) (ix : List Nat) (lo w : Nat) :
    (s.updPort p f).fld r ix lo w = s.fld r ix lo w := rfl


@[simp] theorem State.noRate_cam : (s.noRate p).cam = s.cam := by simp [State.noRate]

end

/-! ### The registers of a port -/

/-- A register row of the camera ports: one word for each port, 0x40 bytes apart. -/
def RN.ofPort (r : RN) : Prop := r.row.dims = [(0x40, 32)]

theorem RN.ofPort.off_eq {r : RN} (h : r.ofPort) (p : Nat) : r.off [p] = r.row.base + 0x40 * p := by
  simp [RN.off, show r.row.dims = [(0x40, 32)] from h]

/-- The registers of a row lie apart from those of a row whose word in the 0x40 bytes of a port is another. -/
theorem RN.ofPort.off_ne_row {r q : RN} (hr : r.ofPort) (hq : q.ofPort) (h : q.row.base % 0x40 ≠ r.row.base % 0x40)
    (p k : Nat) : q.off [k] ≠ r.off [p] := by
  rw [hr.off_eq, hq.off_eq]
  omega

theorem RN.ofPort.off_ne_port {r : RN} (hr : r.ofPort) {p k : Nat} (h : k ≠ p) : r.off [k] ≠ r.off [p] := by
  rw [hr.off_eq, hr.off_eq]
  omega

/-- A field of a port's register is as before where a field that does not meet it was written, on whichever port. -/
theorem State.fld_setFld_ofPort (s : State) {r : RN} (hr : r.ofPort) (p k lo w x lo' w' : Nat) (h : lo + w ≤ 32)
    (ha : lo' + w' ≤ lo ∨ lo + w ≤ lo') : (s.setFld r [p] lo w x).fld r [k] lo' w' = s.fld r [k] lo' w' := by
  by_cases hk : k = p
  · subst hk
    exact s.fld_setFld_apart r [k] lo w x lo' w' h ha
  · exact s.fld_setFld_other r r [p] [k] lo w x lo' w' (hr.off_ne_port hk)

end Sys2Proof.Machine

/-! PROOFS. Power and discovery of a camera port (O21). -/

namespace Sys2Proof.Machine

/-! ### A port with no bound stream -/

section
variable {s : State} {p : Nat} (hp : s.portStreams p = [])
include hp

/-- No block is cut. -/
theorem State.cutStreams_none : s.cutStreams p = s := by
  rw [State.cutStreams, hp, List.foldl_nil]

theorem State.dropLink_none : s.dropLink p = ((s.noRate p).updPort p fun x => { x with picked := 0 }).setFld
    .cxpPortStatus [p] 0 4 (if (s.port p).powered then 2 else 3) := by
  unfold State.dropLink
  dsimp only
  rw [State.cutStreams_none hp, State.port_updPort_same, State.port_congr (s.noRate_cam p)]

theorem State.unpower_none (st : Nat) : s.unpower p st = (((s.noRate p).setFld .cxpPortCtrl [p] 0 2 0).updPort p
    fun x => { x with powered := false, lowMs := 0, picked := 0 }).setFld .cxpPortStatus [p] 0 4 st := by
  unfold State.unpower
  rw [State.cutStreams_none hp]

end

/-! ### The budget (R77, R88) -/

theorem RN.cxpPortCtrl_ofPort : RN.cxpPortCtrl.ofPort := rfl

/-- Setting POWER_EN changes no port's reservation. -/
theorem State.reserved_setPowerEn (s : State) (p x : Nat) :
    (s.setFld .cxpPortCtrl [p] 0 1 x).reserved = s.reserved := by
  unfold State.reserved
  simp only [State.port_congr (s.setFld_cam .cxpPortCtrl [p] 0 1 x),
    s.fld_setFld_ofPort RN.cxpPortCtrl_ofPort p _ 0 1 x 4 4 (by decide) (by decide)]

/-- Changing what is known of a port, but for its power, changes no port's reservation. -/
theorem State.reserved_updPort (s : State) (p : Nat) (f : Port → Port) (hf : ∀ x, (f x).powered = x.powered) :
    (s.updPort p f).reserved = s.reserved := by
  have hq (q : Nat) : ((s.updPort p f).port q).powered = (s.port q).powered := by
    by_cases h : q = p
    · subst h
      rw [State.port_updPort_same, hf]
    · exact congrArg Port.powered (Tab.getD_put_other _ p q _ _ h)
  simp only [State.reserved, hq, State.fld_updPort]

/-- Setting POWER_EN of a port does not change the budget. -/
theorem State.budget_setPowerEn (s : State) (p x : Nat) : (s.setFld .cxpPortCtrl [p] 0 1 x).budget = s.budget :=
  s.fld_setFld_other _ _ _ _ _ _ _ _ _ (by rw [RN.cxpPortCtrl_ofPort.off_eq]; exact (Nat.lt_add_right _ (by decide)).ne)

/-- What POWER_EN set on a port leaves before detection. -/
def State.powerAsked (s : State) (p : Nat) : State :=
  (s.setFld .cxpPortCtrl [p] 0 1 1).updPort p fun x => { x with unpoweredDiscovery := false, budgetRefused := false }

/-- The port fits the budget after POWER_EN is set exactly where it did before. -/
theorem State.powerAsked_over (s : State) (p : Nat) :
    (s.powerAsked p).budget < (s.powerAsked p).reserved + (s.powerAsked p).fld .cxpPortCtrl [p] 4 4 ↔
      s.budget < s.reserved + s.fld .cxpPortCtrl [p] 4 4 := by
  have hb : (s.powerAsked p).budget = s.budget := s.budget_setPowerEn p 1
  have hr : (s.powerAsked p).reserved = s.reserved := by
    rw [State.powerAsked, State.reserved_updPort, State.reserved_setPowerEn]
    exact fun _ => rfl
  have hf : (s.powerAsked p).fld .cxpPortCtrl [p] 4 4 = s.fld .cxpPortCtrl [p] 4 4 := 
    s.fld_setFld_apart .cxpPortCtrl [p] 0 1 1 4 4 (by decide) (by decide)
  rw [hb, hr, hf]

/-! ### POWER_EN, REDISCOVER and LIMIT (R76, R77, R91) -/

section
variable {s : State} {p : Nat} (hd : s.dev ≠ .recovery) (hp : (s.port p).powered = false)
include hd hp

theorem State.powerUp_within (hb : s.reserved + s.fld .cxpPortCtrl [p] 4 4 ≤ s.budget) : s.powerUp p true =
    (((s.powerAsked p).updPort p fun x => { x with powered := true, lowMs := 0 }).noRate p).setFld
      .cxpPortStatus [p] 0 4 2 := by
  unfold State.powerUp
  rw [if_neg (by simp [hd, hp])]
  exact if_neg ((s.powerAsked_over p).not.mpr hb.not_gt)

theorem State.powerUp_beyond (hb : s.budget < s.reserved + s.fld .cxpPortCtrl [p] 4 4) : s.powerUp p true =
    (((((s.powerAsked p).setFld .cxpPortCtrl [p] 0 1 0).updPort p fun x => { x with budgetRefused := true }).noRate
      p).setFld .cxpPortStatus [p] 0 4 0).setFlag .cxpPortErr [p] 7 := by
  unfold State.powerUp
  rw [if_neg (by simp [hd, hp])]
  exact if_pos ((s.powerAsked_over p).mpr hb)

theorem State.powerUp_noLoad : s.powerUp p false = ((s.powerAsked p).noRate p).setFld .cxpPortStatus [p] 0 4 6 := by
  unfold State.powerUp
  rw [if_neg (by simp [hd, hp])]
  rfl

end

theorem State.rediscover_powered {s : State} {p : Nat} (hd : s.dev ≠ .recovery)
    (he : s.fld .cxpPortCtrl [p] 0 1 = 1) (hp : (s.port p).powered = true) :
    s.rediscover p = (s.dropLink p).setFld .cxpPortCtrl [p] 1 1 1 := by
  simp [State.rediscover, hd, he, hp]

section
variable {s : State} {p w : Nat} (seat : Nat)

theorem State.writeLimit_unpowered (hp : (s.port p).powered = false) (h1 : 1 ≤ w) (h13 : w ≤ 13) :
    s.writeLimit seat p w = s.setFld .cxpPortCtrl [p] 4 4 w := by
  unfold State.writeLimit
  rw [if_neg (by omega)]
  simp [hp]

theorem State.writeLimit_ignored (h : w = 0 ∨ 13 < w) : s.writeLimit seat p w = s.log { notice 9 with
    initiator := seat, arg0 := n64 (RN.off .cxpPortCtrl [p]), arg1 := n64 w } := if_pos h

end

/-! ### Measurements (R85) -/

theorem State.tripPort_powered {s : State} {p : Nat} (hp : (s.port p).powered = true) (flag : Nat) :
    s.tripPort p flag = (s.unpower p 5).flagLog .cxpPortErr [p] flag
      (portRec { errorRec 9 with status := Code.pocxpFault } p) := by
  simp [State.tripPort, hp]

/-- What a measurement with a supply of at least 20 V shows. -/
def State.measured (s : State) (p ma dv total mv : Nat) : State :=
  let u := (s.setReg .cxpPortPower [p] (sat ma 1023 + sat dv 511 * 65536)).setReg .cxpPocxpTotal []
    (sat total 4095 + sat mv 65535 * 65536)
  { u with cam := { u.cam with supplyLow := false } }

section
variable (s : State) (p ma dv total mv : Nat)

theorem State.measured_port (q : Nat) : (s.measured p ma dv total mv).port q = s.port q := by
  simp [State.measured, State.port]

/-- A measurement leaves every port's LIMIT. -/
theorem State.measured_limit : (s.measured p ma dv total mv).fld .cxpPortCtrl [p] 4 4 = s.fld .cxpPortCtrl [p] 4 4 := by
  have htotal : RN.cxpPortCtrl.off [p] ≠ RN.cxpPocxpTotal.off [] := by
    rw [RN.cxpPortCtrl_ofPort.off_eq]
    exact (Nat.lt_add_right _ (by decide)).ne'
  have hpower : RN.cxpPortCtrl.off [p] ≠ RN.cxpPortPower.off [p] :=
    RN.ofPort.off_ne_row (r := .cxpPortPower) rfl RN.cxpPortCtrl_ofPort (by decide) p p
  exact (State.fld_setReg_other _ _ _ _ _ _ _ _ htotal).trans (s.fld_setReg_other _ _ _ _ _ _ _ hpower)

/-- A powered port's measurement with a supply of at least 20 V and no low current: too much current, too much power, or
neither. -/
theorem State.measurePort_powered (hp : (s.port p).powered = true) (hmv : 20000 ≤ mv) (hma : 5 ≤ ma) :
    s.measurePort p ma dv total mv =
      let u := s.measured p ma dv total mv
      if 1000 < ma then u.tripPort p 2
      else if s.fld .cxpPortCtrl [p] 4 4 * 10000 < ma * dv then u.tripPort p 3
      else u.updPort p fun x => { x with lowMs := 0 } := by
  have hn : ¬(!((s.measured p ma dv total mv).port p).powered) = true := by simp [State.measured_port, hp]
  rw [← s.measured_limit p ma dv total mv]
  simp only [State.measurePort, hmv.not_gt, hma.not_gt, decide_false, false_and, if_false, Bool.and_false,
    Bool.false_eq_true]
  exact if_neg hn

end

/-- Settles O21: the reservation and the budget that decide on POWER_EN are those before it was set, and the power of the
port and its LIMIT that decide on a measurement are those before it was shown. -/
theorem portPower : Obligations.PortPower := by
  refine ⟨fun s seat p hd hp => ?powerEn, fun s seat p x hs => ?powerDown, fun s seat p hd he hp hs => ?rediscover,
    fun s seat p w hp => ?limit, fun s p ha => ?attempt, fun s p ma dv total mv hp hmv hma => ?measure,
    fun s p hp => ?short, fun s p st hs => State.unpower_none hs st⟩
  case powerEn =>
    exact ⟨fun hb => congrArg Host.Outcome.next (State.powerUp_within hd hp hb),
      fun hb => congrArg Host.Outcome.next (State.powerUp_beyond hd hp hb),
      congrArg Host.Outcome.next (State.powerUp_noLoad hd hp)⟩
  case powerDown =>
    refine congrArg Host.Outcome.next (?_ : s.powerDown p = _)
    rw [State.powerDown, State.unpower_none hs]
  case rediscover =>
    refine congrArg Host.Outcome.next ((State.rediscover_powered hd he hp).trans ?_)
    rw [State.dropLink_none hs, if_pos hp]
  case limit =>
    exact ⟨fun h1 h13 => congrArg Host.Outcome.next (State.writeLimit_unpowered seat hp h1 h13),
      fun h => congrArg Host.Outcome.next (State.writeLimit_ignored seat h)⟩
  case attempt => exact congrArg Host.Outcome.next (if_pos ha)
  case measure =>
    have hu : ((s.measured p ma dv total mv).port p).powered = true := by rw [State.measured_port, hp]
    have hm := s.measurePort_powered p ma dv total mv hp hmv hma
    intro u u'
    refine ⟨fun hc => congrArg Host.Outcome.next (hm.trans ?_), fun hc hl => congrArg Host.Outcome.next (hm.trans ?_),
      fun hc hl => congrArg Host.Outcome.next (hm.trans ?_)⟩
    · exact (if_pos hc).trans (State.tripPort_powered hu 2)
    · exact (if_neg hc.not_gt).trans (if_neg hl.not_gt)
    · exact (if_neg hc.not_gt).trans ((if_pos hl).trans (State.tripPort_powered hu 3))
  case short => exact congrArg Host.Outcome.next (State.tripPort_powered hp 2)

end Sys2Proof.Machine

/-! PROOFS. The camera power budget (O22). -/

namespace Sys2Proof.Machine

theorem State.writeBudget_eq (s : State) (w : Byte) :
    s.writeBudget w.toNat = s.setFld .cxpPocxpBudget [] 0 8 (min w.toNat 240) := by
  rw [State.writeBudget, Nat.mod_eq_of_lt w.isLt]

/-- A register whose low byte is put over a word that is zero above it holds that byte. -/
theorem State.reg_setFld_low (s : State) (r : RN) (ix : List Nat) (x : Nat) (h : s.fld r ix 8 24 = 0)
    (hx : x < 256) : (s.setFld r ix 0 8 x).reg r ix = x := by
  have hlow := s.fld_setFld_same r ix 0 8 x (by decide)
  have hhigh := s.fld_setFld_apart r ix 0 8 x 8 24 (by decide) (by decide)
  have hlt := ((s.setFld r ix 0 8 x).stored r ix).isLt
  rw [h] at hhigh
  simp only [State.fld, slice, State.reg] at hlow hhigh ⊢
  omega

/-- Settles O22: the write changes bits [7:0] of the register and nothing else. -/
theorem cameraBudget : Obligations.CameraBudget := by
  refine ⟨by decide, by decide, fun s seat watts => ?_⟩
  have hw : min watts.toNat 240 < 256 := Nat.lt_of_le_of_lt (Nat.min_le_right _ _) (by decide)
  refine ⟨_, congrArg Host.Outcome.next (s.writeBudget_eq watts), ?low, fun h => ?whole, ?high, fun q jx hq => ?other,
    rfl⟩
  case low => exact (s.fld_setFld_same _ _ _ _ _ (by decide)).trans (Nat.mod_eq_of_lt hw)
  case whole => exact s.reg_setFld_low _ _ _ h hw
  case high => exact s.fld_setFld_apart _ _ 0 8 _ 8 24 (by decide) (by decide)
  case other => exact s.stored_setFld_other _ _ _ _ _ _ _ hq

end Sys2Proof.Machine

/-! PROOFS. A camera's link: its coming, its description file, its cable and its loss (O23). -/

namespace Sys2Proof.Machine

/-! ### The rate that discovery selects (R77) -/

/-- What a partial function gives last over the numbers below a bound: its value at the last number where it has one. -/
theorem getLast?_filterMap_range {α : Type} {f : Nat → Option α} {n k : Nat} {a : α} (hk : k < n) (hf : f k = some a)
    (hn : ∀ j, k < j → j < n → f j = none) : ((List.range n).filterMap f).getLast? = some a := by
  induction n with
  | zero => omega
  | succ n ih =>
    rw [List.range_succ, List.filterMap_append]
    by_cases h : k = n
    · subst h
      simp [hf]
    · simp [hn n (by omega) (by omega), ih (by omega) fun j h1 h2 => hn j h1 (by omega)]

theorem pickRate_fixed {fix : Nat} (h : fix ≠ 0) (rates len : Nat) : pickRate fix rates len = fix := if_pos h

/-- Without a fixed rate it is the highest offered rate that the cable carries. -/
theorem pickRate_highest {rates len k : Nat} (hk : k < 7) (hr : bit rates k = true) (hl : len ≤ maxLength (k + 1))
    (ho : ∀ j, k < j → j < 7 → bit rates j = true → maxLength (j + 1) < len) : pickRate 0 rates len = k + 1 := by
  have hlast : (((List.range 7).filterMap fun k => if bit rates k then some (k + 1) else none).filter
      fun r => decide (len ≤ maxLength r)).getLast? = some (k + 1) := by
    rw [List.filter_filterMap]
    refine getLast?_filterMap_range hk (by simp [hr, hl]) fun j h1 h2 => ?_
    cases hb : bit rates j with
    | false => rfl
    | true => simp [ho j h1 h2 hb]
  simp only [pickRate, hlast, ne_eq, not_true_eq_false, if_false]

/-! ### A port alone (R78) -/

theorem State.groupPorts_none {s : State} {p : Nat} (hs : s.portStreams p = []) : s.groupPorts p = [p] := by
  rw [State.groupPorts, hs]

/-- A port alone runs at the rate that its own discovery selects. -/
theorem State.groupRate_alone (s : State) (p : Nat) : s.groupRate [p] = (s.port p).picked := by
  by_cases h : (s.port p).picked = 0 <;> simp [State.groupRate, h]

theorem State.rateGroup_alone (s : State) (p : Nat) :
    s.rateGroup [p] = if (s.port p).picked = 0 then s else s.setRate p (s.port p).picked := by
  by_cases h : (s.port p).picked = 0 <;> simp [State.rateGroup, State.groupRate_alone, h]

/-! ### The link comes (R77) -/

theorem RN.cxpPortStatus_ofPort : RN.cxpPortStatus.ofPort := rfl
theorem RN.cxpPortCable_ofPort : RN.cxpPortCable.ofPort := rfl
theorem RN.cxpPortCaps_ofPort : RN.cxpPortCaps.ofPort := rfl

/-- What the camera's bootstrap registers show on its port. -/
def State.introduced (s : State) (p rates conns index : Nat) (master : Bool) : State :=
  let u := s.setReg .cxpPortCaps [p] (rates % 128 + conns % 16 * 256)
  (u.setFld .cxpPortStatus [p] 8 3 index).setFld .cxpPortStatus [p] 11 1 (b2n master)

section
variable (s : State) (p rates conns index : Nat) (master : Bool)

theorem State.introduced_cam : (s.introduced p rates conns index master).cam = s.cam := by
  simp [State.introduced]

/-- They leave the control register of the port. -/
theorem State.introduced_ctrl (lo w : Nat) :
    (s.introduced p rates conns index master).fld .cxpPortCtrl [p] lo w = s.fld .cxpPortCtrl [p] lo w := by
  have hcaps := RN.cxpPortCaps_ofPort.off_ne_row RN.cxpPortCtrl_ofPort (by decide) p p
  have hstatus := RN.cxpPortStatus_ofPort.off_ne_row RN.cxpPortCtrl_ofPort (by decide) p p
  simp only [State.introduced, State.fld_setFld_other _ _ _ _ _ _ _ _ _ _ hstatus,
    State.fld_setReg_other _ _ _ _ _ _ _ _ hcaps]

/-- On a port of no bound stream the link comes up at the rate that the port's own discovery selects, and one connection
is written to the camera. -/
theorem State.linkUp_alone (eq len : Nat) (ha : s.awaiting p = true) (hs : s.portStreams p = []) :
    s.linkUp p rates conns index master eq len =
      let rate := pickRate (s.fld .cxpPortCtrl [p] 8 3) rates len
      let u := (s.introduced p rates conns index master).updPort p fun x => { x with picked := rate }
      let u := if rate = 0 then u else u.setRate p rate
      ((((u.setFld .cxpPortStatus [p] 0 4 3).cable p eq len).emit
        (.camControl p true camConnConfig (natBe 4 (65536 + rateCode rate)))).emit
          (.camControl p true camPacketMax (natBe 4 8192))) := by
  have hg : (s.introduced p rates conns index master).groupPorts p = [p] := by
    refine State.groupPorts_none ((State.portStreams_congr ?_ p).trans hs)
    rw [s.introduced_cam]
  have hc := s.introduced_ctrl p rates conns index master 8 3
  unfold State.introduced at hg hc
  unfold State.linkUp State.introduced
  simp only [ha, hg, hc, State.groupRate_alone, State.rateGroup_alone, State.port_updPort_same, List.length_singleton,
    Nat.one_mul, Bool.not_true, Bool.false_eq_true, if_false]

end

/-! ### The description file, the cable, the loss (R77, R80, R86) -/

/-- A file that fits is held, and the port is LINKED. -/
theorem State.describe_alone {s : State} {p : Nat} {file : Bytes} (h3 : s.portState p = 3)
    (hr : s.fld .cxpPortStatus [p] 4 3 ≠ 0) (hl : file.length ≤ 0x1000000) (hs : s.portStreams p = []) :
    s.describe p file = ((((s.store (fileAddr p) file).updPort p fun x =>
      { x with fileBytes := file.length, lowMs := 0 }).setFld .cxpPortStatus [p] 12 1 1).setFld
        .cxpPortStatus [p] 0 4 4).setFld .cxpPortCtrl [p] 1 1 0 := by
  have hs' (f : Port → Port) : (((((s.store (fileAddr p) file).updPort p f).setFld .cxpPortStatus [p] 12 1 1).setFld
      .cxpPortStatus [p] 0 4 4).setFld .cxpPortCtrl [p] 1 1 0).portStreams p = [] := by
    refine (State.portStreams_congr ?_ p).trans hs
    simp [State.updPort]
  unfold State.describe
  simp only [h3, hr, hl, hs', ne_eq, not_true_eq_false, or_self, if_false, decide_true, if_true, b2n, List.foldl_nil]

/-- An estimate leaves the longest cable that the register names. -/
theorem State.cable_eq (s : State) (p eq len : Nat) : s.cable p eq len =
    let u := (s.setFld .cxpPortCable [p] 0 8 (sat len 255)).setFld .cxpPortCable [p] 16 8 eq
    if s.fld .cxpPortCable [p] 8 8 < len then u.flagLog .cxpPortErr [p] 4 (portRec (warning 9) p len) else u := by
  unfold State.cable
  simp only [State.fld_setFld_ofPort _ RN.cxpPortCable_ofPort p p 16 8 _ 8 8 (by decide) (by decide),
    State.fld_setFld_ofPort _ RN.cxpPortCable_ofPort p p 0 8 _ 8 8 (by decide) (by decide)]

/-- Dropping a link keeps who last wrote to the camera. -/
theorem State.dropLink_writer {s : State} {p : Nat} (hs : s.portStreams p = []) :
    ((s.dropLink p).port p).writer = (s.port p).writer := by
  rw [State.dropLink_none hs, State.port_congr (State.setFld_cam _ _ _ _ _ _), State.port_updPort_same,
    State.port_congr (s.noRate_cam p)]

section
variable {s : State} {p : Nat} (hr : s.fld .cxpPortStatus [p] 4 3 ≠ 0) (hs : s.portStreams p = [])
include hr hs

theorem State.linkLost_unwritten (hw : (s.port p).writer = none) :
    s.linkLost p false = (s.dropLink p).setFlag .cxpPortErr [p] 1 := by
  simp [State.linkLost, hr, State.dropLink_writer hs, hw]

theorem State.linkLost_written {w : Nat} (hw : (s.port p).writer = some w) : s.linkLost p false =
    (s.dropLink p).flagLog .cxpPortErr [p] 1 (portRec { warning 9 with initiator := w } p) := by
  simp [State.linkLost, hr, State.dropLink_writer hs, hw, State.writerOf]

end

theorem exec_cameraLinkLoss (s : State) (p : Fin 32) : exec (.cameraLinkLoss p) s = .next (s.linkLost p false) := rfl

theorem exec_cableEstimate {s : State} {p : Fin 32} (hl : s.linked p = true) (eq len : Nat) :
    exec (.cableEstimate p eq len) s = .next (s.cable p eq len) := congrArg Host.Outcome.next (if_pos hl)

/-- Settles O23: a port of no bound stream is a group of its own, and what a command shows on it leaves the fields and
what is known of the port on which the command's outcome turns. -/
theorem cameraLink : Obligations.CameraLink := by
  refine ⟨fun s p rates conns index master eq len ha hs => ?linkUp, fun fix rates len => ?rate,
    fun s p file h3 hr hl hs => ?described, fun s p eq len hl => ?cable, fun s p hr hs => ?lost⟩
  case linkUp => exact congrArg Host.Outcome.next (s.linkUp_alone p rates conns index master eq len ha hs)
  case rate =>
    refine ⟨fun h => pickRate_fixed h rates len, fun h k hk hr hl ho => ?_⟩
    subst h
    exact pickRate_highest hk hr hl ho
  case described => exact congrArg Host.Outcome.next (State.describe_alone h3 hr hl hs)
  case cable =>
    have hc := (exec_cableEstimate hl eq len).trans (congrArg Host.Outcome.next (s.cable_eq p eq len))
    exact ⟨fun h => hc.trans (congrArg Host.Outcome.next (if_neg h.not_gt)),
      fun h => hc.trans (congrArg Host.Outcome.next (if_pos h))⟩
  case lost =>
    rw [exec_cameraLinkLoss, ← State.dropLink_none hs]
    exact ⟨fun hw => congrArg Host.Outcome.next (State.linkLost_unwritten hr hs hw),
      fun w hw => congrArg Host.Outcome.next (State.linkLost_written hr hs hw)⟩

end Sys2Proof.Machine

/-! PROOFS. Control transactions with a camera, and the copy of its description file (O24). -/

namespace Sys2Proof.Machine

/-! ### What taking a command leaves of a port -/

/-- No register of a port is one that taking a command writes. -/
theorem State.takes_fld_ofPort (s : State) (h : Hdr) (op : Nat) {r : RN} (hr : r.ofPort)
    (hb : 0x900000 ≤ r.row.base) (p lo w : Nat) : (s.takes h op).1.fld r [p] lo w = s.fld r [p] lo w := by
  have hseat := h.seat.isLt
  have hring := h.ring.isLt
  have hoff : 0x900000 ≤ r.off [p] := (hr.off_eq p).symm ▸ Nat.le_add_right_of_le hb
  unfold State.fld
  rw [s.takes_stored h op r [p]]
  all_goals
    refine (Nat.lt_of_lt_of_le ?_ hoff).ne'
    simp only [RN.off, RN.row, List.zipWith, List.foldl]
    omega

theorem State.takes_status (s : State) (h : Hdr) (op p lo w : Nat) :
    (s.takes h op).1.fld .cxpPortStatus [p] lo w = s.fld .cxpPortStatus [p] lo w :=
  s.takes_fld_ofPort h op RN.cxpPortStatus_ofPort (by decide) p lo w

theorem State.takes_port (s : State) (h : Hdr) (op p : Nat) : (s.takes h op).1.port p = s.port p :=
  State.port_congr (s.takes_cam h op) p

theorem State.takes_linked (s : State) (h : Hdr) (op p : Nat) : (s.takes h op).1.linked p = s.linked p :=
  congrArg (· == 4) (s.takes_status h op p 0 4)

/-! ### CXP_CONTROL (R74) -/

/-- The transaction that a command asks for. -/
def ctrlOf (c : CmdRef) (op tagged : Byte) (a len : Word) (d : BitVec 64) : CtrlCmd :=
  ⟨c, op == 1, a, len.toNat, d.toNat, tagged == 1⟩

/-- A transaction joins the queue of a port. -/
def State.queueCtrl (s : State) (p : Nat) (t : CtrlCmd) : State :=
  s.updPort p fun x => { x with ctrl := x.ctrl ++ [t] }

/-- The operands of CXP_CONTROL that no check refuses (R74). -/
structure State.CtrlFits (s : State) (p op tagged : Byte) (len : Word) (d : BitVec 64) : Prop where
  op : op.toNat ≤ 1
  tagged : tagged.toNat ≤ 1
  addr : addrReserved d = false
  length : 4 ≤ len.toNat ∧ len.toNat ≤ 1024 ∧ len.toNat % 4 = 0
  port : p.toNat < 32
  buffer : bufferIn d len.toNat = true
  budget : (s.port p.toNat).budgetRefused = false
  linked : s.linked p.toNat = true

theorem State.linked_iff (s : State) (p : Nat) : s.linked p = true ↔ s.portState p = 4 := beq_iff_eq

theorem State.CtrlFits.takes {s : State} {p op tagged : Byte} {len : Word} {d : BitVec 64}
    (hf : s.CtrlFits p op tagged len d) (h : Hdr) (opc : Nat) : (s.takes h opc).1.CtrlFits p op tagged len d :=
  { hf with
    budget := by rw [State.takes_port, hf.budget]
    linked := by rw [State.takes_linked, hf.linked] }

section
variable {s : State} {p op tagged : Byte} {len : Word} {d : BitVec 64} (hf : s.CtrlFits p op tagged len d)
  (c : CmdRef) (a : Word)
include hf

/-- A transaction that fits joins the queue, and goes to the camera where it is the first. -/
theorem State.CtrlFits.runCxpControl (hq : (s.port p.toNat).ctrl.length < 17) :
    s.runCxpControl c p op tagged a len d =
      let u := s.queueCtrl p.toNat (ctrlOf c op tagged a len d)
      if (s.port p.toNat).ctrl.isEmpty then u.startCtrl p.toNat 1 else u := by
  obtain ⟨h4, h1024, hmod⟩ := hf.length
  have hstate : s.portState p.toNat = 4 := (s.linked_iff _).mp hf.linked
  have hones : len.toNat ≠ 0xFFFFFFFF := by omega
  unfold State.runCxpControl State.ctrlCommand
  rw [State.checked_ok]
  · rfl
  simp [hf.op, hf.tagged, hf.addr, h4, h1024, hmod, hones, hf.port, hf.buffer, hf.budget, hf.linked, hstate, hq]

theorem State.CtrlFits.runCxpControl_waits {first : CtrlCmd} {rest : List CtrlCmd}
    (hq : (s.port p.toNat).ctrl = first :: rest) (hr : rest.length < 16) :
    s.runCxpControl c p op tagged a len d = s.queueCtrl p.toNat (ctrlOf c op tagged a len d) := by
  have hlen : (s.port p.toNat).ctrl.length < 17 := by
    rw [hq]
    exact Nat.succ_lt_succ hr
  rw [hf.runCxpControl c a hlen, hq]
  rfl

/-- The first transaction of a port's queue is started at once. -/
theorem State.CtrlFits.runCxpControl_first (hq : (s.port p.toNat).ctrl = []) : s.runCxpControl c p op tagged a len d =
    (s.queueCtrl p.toNat (ctrlOf c op tagged a len d)).startCtrl p.toNat 1 := by
  rw [hf.runCxpControl c a (by simp [hq]), hq]
  rfl

end

/-! ### The transaction in progress (R74) -/

section
variable {s : State} {p : Nat} {t : CtrlCmd} {rest : List CtrlCmd} (hq : (s.port p).ctrl = t :: rest)
include hq

/-- A read goes to a LINKED camera with its length. -/
theorem State.startCtrl_read (hl : s.linked p = true) (hw : t.write = false) (fuel : Nat) : s.startCtrl p (fuel + 1) =
    s.emit (.camControl p false t.camAddr (natLe 4 t.length) t.tagged) := by
  simp [State.startCtrl, hq, hl, hw]

/-- A write goes to a LINKED camera with its data, and its seat is the one that last wrote to the camera. -/
theorem State.startCtrl_write (hl : s.linked p = true) (hw : t.write = true)
    (hb : s.badIn t.dataAddr t.length = none) (fuel : Nat) : s.startCtrl p (fuel + 1) =
    (s.updPort p fun x => { x with writer := some t.by'.seat }).emit
      (.camControl p true t.camAddr (s.load t.dataAddr t.length) t.tagged) := by
  simp [State.startCtrl, hq, hl, hw, hb]

/-- The end of the only transaction starts no other. -/
theorem State.endCtrl_only (hr : rest = []) (f : CtrlCmd → State → State) :
    s.endCtrl p f = f t (s.updPort p fun x => { x with ctrl := [] }) := by
  subst hr
  unfold State.endCtrl
  rw [hq]
  rfl

end

/-- A transaction queued where there was none is the queue. -/
theorem State.queueCtrl_first {s : State} {p : Nat} (hq : (s.port p).ctrl = []) (t : CtrlCmd) :
    ((s.queueCtrl p t).port p).ctrl = [t] := by
  rw [State.queueCtrl, State.port_updPort_same, hq]
  rfl

section
variable {s : State} {p tagged : Byte} {len : Word} {d : BitVec 64} (c : CmdRef) (a : Word)

theorem State.CtrlFits.runCxpControl_read (hf : s.CtrlFits p 0 tagged len d) (hq : (s.port p.toNat).ctrl = []) :
    s.runCxpControl c p 0 tagged a len d = (s.queueCtrl p.toNat (ctrlOf c 0 tagged a len d)).emit
      (.camControl p.toNat false a (natLe 4 len.toNat) (tagged == 1)) := by
  rw [hf.runCxpControl_first c a hq]
  exact State.startCtrl_read (State.queueCtrl_first hq _) hf.linked rfl 0

theorem State.CtrlFits.runCxpControl_write (hf : s.CtrlFits p 1 tagged len d) (hq : (s.port p.toNat).ctrl = [])
    (hb : s.badIn d.toNat len.toNat = none) : s.runCxpControl c p 1 tagged a len d =
      ((s.queueCtrl p.toNat (ctrlOf c 1 tagged a len d)).updPort p.toNat fun x => { x with writer := some c.seat }).emit
        (.camControl p.toNat true a (s.load d.toNat len.toNat) (tagged == 1)) := by
  rw [hf.runCxpControl_first c a hq]
  exact State.startCtrl_write (State.queueCtrl_first hq (ctrlOf c 1 tagged a len d)) hf.linked rfl hb 0

end

/-! ### CXP_DESCRIPTION (R77) -/

/-- The file that a port holds is copied into an area that takes it. -/
theorem State.runCxpDescription_held {s : State} {p : Byte} {a bytes : BitVec 64} (c : CmdRef)
    (ha : addrReserved a = false) (ho : allOnes64 bytes = false) (hp : p.toNat < 32)
    (hbuf : bufferIn a bytes.toNat = true) (hv : s.fld .cxpPortStatus [p.toNat] 12 1 = 1)
    (hlen : (s.port p.toNat).fileBytes ≤ bytes.toNat)
    (hb : s.badIn (fileAddr p.toNat) (s.port p.toNat).fileBytes = none) : s.runCxpDescription c p a bytes =
      (s.storeFor c.seat a.toNat (s.load (fileAddr p.toNat) (s.port p.toNat).fileBytes)).complete c Code.ok
        (s.port p.toNat).fileBytes := by
  unfold State.runCxpDescription
  rw [State.checked_ok]
  · rw [hb]
  simp [ha, ho, hp, hbuf, hv, hlen]

/-- Settles O24: taking a command leaves what its checks read of the port, so a transaction that fits joins the queue and
is started where it is the first; the end of the only one starts no other. -/
theorem cameraControl : Obligations.CameraControl := by
  refine ⟨fun s h p op tagged a len d hacc hop htag haddr h4 h1024 hmod hp hbuf hbudget hl => ?control,
    fun s p t hq => ?ends, fun s h p a bytes hacc ha ho hp hbuf hv hlen hb => ?description⟩
  case control =>
    have hf : s.CtrlFits p op tagged len d := ⟨hop, htag, haddr, ⟨h4, h1024, hmod⟩, hp, hbuf, hbudget, hl⟩
    have hf := hf.takes h 0x0501
    have hport := s.takes_port h 0x0501 p.toNat
    refine ⟨fun first rest hq hr => ?_, fun hq hop => ?_, fun hq hop hb => ?_⟩
    · exact exec_effect rfl rfl hacc _ (hf.runCxpControl_waits _ a (hport ▸ hq) hr)
    · subst hop
      exact exec_effect rfl rfl hacc _ (hf.runCxpControl_read _ a (hport ▸ hq))
    · subst hop
      refine exec_effect rfl rfl hacc _ ((hf.runCxpControl_write _ a (hport ▸ hq) ?_).trans ?_)
      · rw [State.badIn_congr (s.takes_mc h _), hb]
      · rw [State.load_congr (s.takes_mem h _)]
        rfl
  case ends =>
    refine ⟨fun data hw => ?_, fun data hw => ?_, fun code => ?_, ?_⟩
    · refine congrArg Host.Outcome.next ((State.endCtrl_only hq rfl _).trans ?_)
      simp only [hw, Bool.false_eq_true, if_false]
    · refine congrArg Host.Outcome.next ((State.endCtrl_only hq rfl _).trans ?_)
      simp only [hw, if_true]
    · exact congrArg Host.Outcome.next (State.endCtrl_only hq rfl _)
    · exact congrArg Host.Outcome.next (State.endCtrl_only hq rfl _)
  case description =>
    have hport := s.takes_port h 0x0502 p.toNat
    refine exec_effect rfl rfl hacc _ ((State.runCxpDescription_held _ ha ho hp hbuf ?_ ?_ ?_).trans ?_)
    · rw [State.takes_status, hv]
    · rw [hport]
      exact hlen
    · rw [hport, State.badIn_congr (s.takes_mc h _), hb]
    · rw [hport, State.load_congr (s.takes_mem h _)]

end Sys2Proof.Machine

/-! PROOFS. Headers, packets, events and lines of a camera stream (O25). -/

namespace Sys2Proof.Machine

/-! ### Packets of no stream (R79) -/

theorem State.streamOf_congr {s u : State} (hu : u.cam = s.cam) (p id : Nat) : u.streamOf p id = s.streamOf p id := by
  unfold State.streamOf
  rw [hu]

/-- A packet of no bound stream is counted, after the port's flag where its CRC is wrong. -/
theorem State.packet_unbound {s : State} {p id : Nat} (h : s.streamOf p id = none) (tag : Nat) (ok : Bool) (bytes : Nat)
    (els : List (BitVec 16)) : s.packet p id tag ok bytes els =
      (if ok then s else s.setFlag .cxpPortErr [p] 0).count .cxpUnboundCnt [] := by
  have hu : (if ok then s else s.setFlag .cxpPortErr [p] 0).streamOf p id = none := by
    rw [State.streamOf_congr _ p id, h]
    cases ok <;> simp
  unfold State.packet
  dsimp only
  rw [hu]
  rfl

theorem exec_imageHeader_unbound {s : State} {p : Fin 32} {id : Byte} (h : s.streamOf p id.toNat = none) (rect : Bool)
    (f : BitVec 16) (xo xs ls : Word) (t : BitVec 16) :
    exec (.imageHeader p id rect f xo xs ls t) s = .next (s.count .cxpUnboundCnt []) := by
  show execImageHeader p id rect f xo xs ls t s = _
  unfold execImageHeader
  rw [h]
  rfl

section
variable {s : State} {p : Fin 32} {id : Byte} {n : Nat} {x : Stream} (h : s.streamOf p id.toNat = some (n, x))
  (ho : s.orderBreak x.cfg = none)
include h ho

/-- A header of a bound stream whose connections are in order is the stream's. -/
theorem exec_imageHeader_bound (rect : Bool) (f : BitVec 16) (xo xs ls : Word) (t : BitVec 16) :
    exec (.imageHeader p id rect f xo xs ls t) s =
      .next (s.header n ⟨p, rect, f.toNat, xo.toNat, xs.toNat⟩ ls.toNat t.toNat) := by
  show execImageHeader p id rect f xo xs ls t s = _
  simp [execImageHeader, h, ho]

/-- And so is a packet of line data. -/
theorem exec_lineData_bound (tag : Byte) (bytes : Nat) (els : List (BitVec 16)) :
    exec (.lineData p id tag true bytes els) s = .next (s.lineData n tag.toNat true bytes els) := by
  show execLineData p id tag true bytes els s = _
  simp [execLineData, State.packet, h, ho]

end

/-! ### The open block -/

section
variable {s : State} {n : Nat} {x : Stream} (hs : s.stream n = some x)
include hs

/-- A header that is not held is judged already. -/
theorem State.decideHeader_judged (hb : ∀ b, x.block = some b → b.held = none) : s.decideHeader n = s := by
  have hnone : ((s.stream n).bind fun x => x.block.bind fun b => b.held) = none := by
    rw [hs, Option.bind_some, Option.bind_eq_none_iff]
    exact hb
  unfold State.decideHeader
  rw [hnone]

/-- Where no block is open, none is cut. -/
theorem State.cutBlock_none (hb : x.block = none) : s.cutBlock n = s := by
  unfold State.cutBlock
  rw [State.decideHeader_judged hs fun b h => by simp [hb] at h]
  simp [hs, hb]

/-- A block goes on until its declared lines have all arrived. -/
theorem State.blockDone_open {b : Block} (hb : x.block = some b) (hl : b.arrived < b.declared) : s.blockDone n = s := by
  simp [State.blockDone, hs, hb, hl]

end

@[simp] theorem State.putDesc_cam (s : State) (n : Nat) (b : Block) : (s.putDesc n b).cam = s.cam := by
  unfold State.putDesc
  split
  · rfl
  · rw [State.store_cam]

theorem State.stream_congr {s u : State} (hu : u.cam = s.cam) (n : Nat) : u.stream n = s.stream n := by
  unfold State.stream
  rw [hu]

/-! ### A header of the bound format (R80, R81) -/

/-- A header has the format and geometry of a STREAMS entry, and its block no more lines than the entry allows. -/
structure HdrInfo.Fits (h : HdrInfo) (cfg : Bytes) (lines : Nat) : Prop where
  rect : h.rect = false
  format : h.format = Strm.dataType cfg
  xOff : h.xOff = 0
  xSize : h.xSize = Strm.width cfg
  size : h.xSize ≠ 0xFFFFFFFF
  lines : lines ≤ Strm.blockLines cfg

/-- A block as a header that fits leaves it. -/
def Block.opened (b : Block) (cfg : Bytes) : Block :=
  { b with dropping := false, trusted := true, held := none, lineEls := Strm.width cfg * Strm.comps cfg, cause := 0 }

theorem Block.judged_fits {b : Block} {cfg : Bytes} {h : HdrInfo} (hf : h.Fits cfg b.declared) :
    b.judged cfg false h = b.opened cfg := by
  obtain ⟨hrect, hformat, hoff, hsize, hlong, hlines⟩ := hf
  have hcomps : hdrComps cfg h.format = Strm.comps cfg := by
    unfold hdrComps Strm.comps
    rw [hformat, ite_self]
  have hwidth : Strm.width cfg ≠ 0xFFFFFFFF := hsize ▸ hlong
  unfold Block.judged Block.opened
  rw [hcomps]
  simp [hrect, hformat, hoff, hsize, hwidth, hlines.not_gt]

theorem State.judgeHeader_fits (s : State) (n : Nat) {x : Stream} {b : Block} {h : HdrInfo}
    (hf : h.Fits (s.cfgNow n x) b.declared) (hd : x.descHeld b.number = false) : s.judgeHeader n x b h =
      (s.setStream n { x with block := some (b.opened (s.cfgNow n x)) }).putDesc n (b.opened (s.cfgNow n x)) := by
  have hlong : ¬(Strm.blockLines (s.cfgNow n x) < (b.opened (s.cfgNow n x)).declared ∨ h.xSize = 0xFFFFFFFF) :=
    not_or.mpr ⟨hf.lines.not_gt, hf.size⟩
  unfold State.judgeHeader
  simp only [hd, Block.judged_fits hf, hlong, if_false, Bool.false_eq_true]
  rfl

/-- The block that a header begins, before the header is judged. -/
def State.newBlock (s : State) (n : Nat) (x : Stream) (h : HdrInfo) (lines : Nat) (tag : BitVec 16) : Block :=
  { number := x.blockNext, declared := lines, arrived := 0, filed := 0, firstLine := x.nextRaw
    headerTime := s.tb0, flags := if (s.dividerOf n).isNone then 16 else 0
    sourceTag := tag, dropping := false, trusted := true, cause := 0, held := some h }

/-- A stream that has begun a block. -/
def State.began (s : State) (n : Nat) (x : Stream) (b : Block) : Stream :=
  { x with
    block := some b, blockNext := x.blockNext + 1, descProd := x.descProd + 1, partial' := [], window := []
    nextTag := none, offsetEn := bit (s.reg .cxpStreamCfg [n]) 0
    slack := slice (s.reg .cxpStreamCfg [n]) 4 4 }

/-- A header that fits, on a stream with no block open and no boundary to decide, opens its block. -/
theorem State.header_fits {s : State} {n : Nat} {x : Stream} {h : HdrInfo} {lines : Nat} (hs : s.stream n = some x)
    (hb : x.block = none) (ho : s.boundaryOpen n = false) (hf : h.Fits (s.cfgNow n x) lines) (hl : 0 < lines)
    (hd : ({ x with descProd := x.descProd + 1 } : Stream).descHeld x.blockNext = false)
    (tag : BitVec 16) : s.header n h lines tag.toNat =
      let b := (s.newBlock n x h lines tag).opened (s.cfgNow n x)
      (s.setStream n (s.began n x b)).putDesc n b := by
  let b := s.newBlock n x h lines tag
  have hjudge := (s.setStream n (s.began n x b)).judgeHeader_fits n (x := s.began n x b) (b := b) hf hd
  have hopen : ((s.setStream n (s.began n x b)).judgeHeader n (s.began n x b) b h).stream n =
      some (s.began n x (b.opened (s.cfgNow n x))) := by
    rw [hjudge, State.stream_congr (State.putDesc_cam _ _ _), State.stream_setStream_same]
    rfl
  unfold State.header
  rw [State.cutBlock_none hs hb]
  simp only [hs, ho, Bool.false_and, Bool.false_eq_true, if_false, BitVec.ofNat_toNat, BitVec.setWidth_eq]
  refine (State.blockDone_open hopen rfl hl).trans (hjudge.trans ?_)
  rw [State.setStream_setStream]
  rfl

/-! ### Line data in order (R80) -/

section
variable {s : State} {n : Nat} {x : Stream} (hs : s.stream n = some x)
include hs

/-- An incomplete line is not filed. -/
theorem State.fillLines_incomplete {b : Block} (hb : x.block = some b)
    (hl : b.lineEls = 0 ∨ x.partial'.length < b.lineEls) (fuel : Nat) : s.fillLines n fuel = s := by
  cases fuel with
  | zero => rfl
  | succ fuel => simp [State.fillLines, hs, hb, hl]

theorem State.drainWindow_empty (hw : x.window = []) (fuel : Nat) : s.drainWindow n fuel = s := by
  cases fuel with
  | zero => rfl
  | succ fuel => cases ht : x.nextTag <;> simp [State.drainWindow, hs, hw, ht]

end

/-- A stream whose line in progress takes elements at a TB0 time. -/
def Stream.joined (x : Stream) (els : List (BitVec 16)) (t : BitVec 64) : Stream :=
  { x with partialTime := if x.partial'.isEmpty then t else x.partialTime, partial' := x.partial' ++ els }

section
variable {s : State} {n : Nat} {x : Stream} {b : Block} {els : List (BitVec 16)} (hs : s.stream n = some x)
  (hb : x.block = some b) (hl : b.lineEls = 0 ∨ x.partial'.length + els.length < b.lineEls)
  (hr : ∀ r, x.remaining = some r → els.length ≤ r)
include hs hb hl hr

/-- Elements that the block can take and that complete no line join the line in progress. -/
theorem State.joinEls_incomplete : s.joinEls n els = s.setStream n (x.joined els s.tb0) := by
  have hfill : (s.updStream n fun y => y.joined els s.tb0).fillLines n (els.length + 1) =
      s.setStream n (x.joined els s.tb0) := by
    rw [State.updStream_bound hs]
    exact State.fillLines_incomplete (s.stream_setStream_same n (x.joined els s.tb0)) hb
      (by rwa [← List.length_append] at hl) _
  unfold State.joinEls
  rw [hs, Option.bind_some]
  cases h : x.remaining with
  | none => exact hfill
  | some r =>
    simp only [List.take_of_length_le (hr r h)]
    exact hfill

theorem State.takePacket_incomplete {bytes : Nat} (hbytes : bytes ≤ 8192) :
    s.takePacket n els true bytes = s.setStream n (x.joined els s.tb0) := by
  have hjoin := State.joinEls_incomplete hs hb hl hr
  cases h : x.remaining with
  | none => simp [State.takePacket, hs, h, hbytes, hjoin]
  | some r => simp [State.takePacket, hs, h, hbytes, hr r h, hjoin]

end

/-- A stream that has taken the packet of a tag expects the next tag, modulo 256. -/
def Stream.expecting (x : Stream) (tag : Nat) : Stream := { x with nextTag := some ((tag + 1) % 256) }

/-- A packet that is next in order and completes no line joins the line in progress, and the next tag is expected. -/
theorem State.lineData_incomplete {s : State} {n tag bytes : Nat} {x : Stream} {b : Block} {els : List (BitVec 16)}
    (hs : s.stream n = some x) (hb : x.block = some b) (hheld : b.held = none) (hdrop : b.dropping = false)
    (htag : x.nextTag.getD tag = tag) (hw : x.window = []) (hbytes : bytes ≤ 8192)
    (hl : b.lineEls = 0 ∨ x.partial'.length + els.length < b.lineEls)
    (hr : ∀ r, x.remaining = some r → els.length ≤ r) : s.lineData n tag true bytes els =
      s.setStream n ((x.expecting tag).joined els s.tb0) := by
  have htake : (s.setStream n (x.expecting tag)).takePacket n els true bytes =
      s.setStream n ((x.expecting tag).joined els s.tb0) :=
    (State.takePacket_incomplete (s.stream_setStream_same n (x.expecting tag)) hb hl hr hbytes).trans
      (s.setStream_setStream n _ _)
  have hheader : s.decideHeader n = s := State.decideHeader_judged hs fun b' h => by
    rw [hb] at h
    cases h
    exact hheld
  unfold State.lineData
  simp only [hheader, hs, hb, hdrop, htag, Bool.not_true, Bool.false_eq_true, if_false, if_true]
  rw [← hb]
  exact (congrArg (State.drainWindow · n 16) htake).trans
    (State.drainWindow_empty (s.stream_setStream_same n ((x.expecting tag).joined els s.tb0)) hw 16)

/-! ### A line of a free-running in-line stream (R84, R138, R286) -/

/-- A free-running stream's line takes the position at its time. -/
theorem State.pairLine_free {s : State} {n : Nat} (h : s.dividerOf n = none) (x : Stream) (t : BitVec 64) :
    s.pairLine n x t = (s, s.posAt (Strm.encoder x.cfg) (s.tb0Of t), t, 0) := by
  unfold State.pairLine
  rw [h]

/-- Outside an apply a raw line of an in-line stream waits for the pipe with its elements. -/
theorem State.fileRaw_inLine {s : State} {n : Nat} {x : Stream} (hs : s.stream n = some x)
    (hi : Strm.inLine x.cfg = true) (hp : passes x.cfg x.lp = true) {l : RawLine} (hg : l.gap = false) :
    s.fileRaw n l = s.setStream n { x with nextRaw := x.nextRaw + 1, rawLines := x.rawLines ++ [l] } := by
  simp [State.fileRaw, hs, hi, hp, hg, State.updStream_bound hs]

@[simp] theorem State.inGap_setStream (s : State) (n m : Nat) (x : Stream) :
    (s.setStream n x).inGap m = s.inGap m := rfl

theorem State.inGap_noApply {s : State} (h : s.img.apply = none) (n : Nat) : s.inGap n = false := by
  simp [State.inGap, h]

/-- A line of the open block that has arrived is filed under the next line number. -/
def State.filedLine (s : State) (n : Nat) (x : Stream) (b : Block) (time : BitVec 64) (pix : List Nat) (short : Bool) :
    RawLine :=
  { index := x.nextRaw, pos := s.posAt (Strm.encoder x.cfg) (s.tb0Of time), time := time, block := b.number
    blockTime := b.headerTime, last := b.arrived + 1 == b.declared && b.trusted
    short := short, cause := 0, gap := false, pix := pix, bracket := s.bracketOf n x time }

theorem State.consumeLine_inLine {s : State} {n : Nat} {x : Stream} {b : Block} (hs : s.stream n = some x)
    (hb : x.block = some b) (hd : s.dividerOf n = none) (ha : s.img.apply = none)
    (hp : passes x.cfg x.lp = true) (hi : Strm.inLine x.cfg = true) (time : BitVec 64) (pix : List Nat) (short : Bool) :
    s.consumeLine n time pix 0 true short = s.setStream n { x with
      paired := x.paired + 1, closed := false, lastLine := s.now
      block := some { b with arrived := b.arrived + 1, filed := b.filed + 1 }
      nextRaw := x.nextRaw + 1, rawLines := x.rawLines ++ [s.filedLine n x b time pix short] } := by
  unfold State.consumeLine
  simp only [hs, hb, State.pairLine_free hd, if_true, State.inGap_setStream, State.inGap_noApply ha]
  rw [State.fileRaw_inLine (State.stream_setStream_same _ _ _)]
  · exact s.setStream_setStream n _ _
  · exact hi
  · exact hp
  · rfl

/-- Settles O25: a header that fits opens its block, since no block is open that it would cut and its declared lines have
still to arrive; elements that complete no line file none; a line of a free-running in-line stream outside an apply is
filed at once. -/
theorem lineBlocks : Obligations.LineBlocks := by
  refine ⟨fun s p id tag rect ok f t xo xs ls bytes els hn => ?unbound,
    fun s p id f t xs ls n x hof hord hs hb ho => ?header,
    fun s p id tag bytes els n x b hof hord hs hb hheld hdrop htag hw hbytes hl hr => ?data,
    fun s p code data => rfl, fun s n x b time pix short hs hb hd ha hp hi => ?line⟩
  case unbound =>
    exact ⟨exec_imageHeader_unbound hn rect f xo xs ls t,
      congrArg Host.Outcome.next (State.packet_unbound hn _ _ _ _)⟩
  case header =>
    intro cfg hf hx hlong h0 hl hd
    have hfits : HdrInfo.Fits ⟨p, false, f.toNat, 0, xs.toNat⟩ cfg ls.toNat := ⟨rfl, hf, rfl, hx, hlong, hl⟩
    rw [exec_imageHeader_bound hof hord]
    exact congrArg Host.Outcome.next (State.header_fits hs hb ho hfits h0 hd t)
  case data =>
    have hdata := State.lineData_incomplete hs hb hheld hdrop htag hw hbytes hl hr
    refine ⟨_, (exec_lineData_bound hof hord tag bytes els).trans (congrArg Host.Outcome.next hdata), ?_, ?_, rfl⟩
    · exact s.stream_setStream_same n _
    · exact fun m hm => s.stream_setStream_other n _ hm
  case line =>
    exact ⟨_, _, State.consumeLine_inLine hs hb hd ha hp hi time pix short, s.stream_setStream_same n _, rfl, rfl, rfl,
      rfl, ⟨s.filedLine n x b time pix short, rfl, rfl, rfl, rfl, rfl, rfl, rfl, rfl⟩, rfl⟩

end Sys2Proof.Machine

/-! PROOFS. Closing a stream, its triggers and its buffer's header (O26). -/

namespace Sys2Proof.Machine

/-! ### Closing (R124) -/

/-- Without an overlay that is taking effect no boundary of one is reached. -/
theorem State.reachOverlays_none {s : State} (h : s.img.overlayRuns = []) (n t : Nat) (all : Bool) :
    s.reachOverlays n t all = s := by
  simp [State.reachOverlays, h]

theorem State.boundaryOpen_noApply {s : State} (h : s.img.apply = none) (n : Nat) : s.boundaryOpen n = false := by
  simp [State.boundaryOpen, h]

/-- Outside an apply an open stream closes by ending its pipe and its run of lines. -/
theorem State.closeStream_open {s : State} {n : Nat} {x : Stream} (hs : s.stream n = some x) (hc : x.closed = false)
    (ha : s.img.apply = none) (ho : s.img.overlayRuns = []) : s.closeStream n =
      (((s.setStream n { x with closed := true }).endPipe n).endRun n).settleRestores := by
  have hreach (y : Stream) : (s.setStream n y).reachOverlays n 0 true = s.setStream n y :=
    State.reachOverlays_none (s := s.setStream n y) ho n 0 true
  have hbound (y : Stream) : (s.setStream n y).boundaryOpen n = false :=
    State.boundaryOpen_noApply (s := s.setStream n y) ha n
  unfold State.closeStream
  simp only [hs, hc, hreach, hbound, State.inGap_setStream, State.inGap_noApply ha, Bool.false_eq_true, if_false]

/-! ### Events of a divider (R472) -/

/-- A divider's next event finds none lost before it. -/
theorem State.tickEvent_next {s : State} {d low : Nat} {x : Divider} (hx : s.divider d = some x)
    (hk : x.dieK % 256 = low) : s.tickEvent d low =
      (s.queueTrig (s.mapTrig d x x.dieK).1 false).setDivider d { x with dieK := x.dieK + 1 } := by
  have hnext : x.dieK + (low + 256 - x.dieK % 256) % 256 = x.dieK := by omega
  have hlost : s.lostEvents d x x.dieK = s := by simp [State.lostEvents]
  unfold State.tickEvent
  simp only [hx, hnext, hlost]

/-- A stream with fewer than two triggers waiting takes another, where it is the only one that the divider names. -/
theorem State.queueTrig_room {s : State} {t : Trig} {d : Divider} {n : Nat} {x : Stream}
    (hd : s.divider t.div = some d)
    (hf : s.cam.streams.filter (fun y => bit (Div.streams d.cfg) y.1) = [(n, x)]) (hs : s.stream n = some x)
    (hq : x.trigQueue.length < 2) :
    s.queueTrig t false = s.setStream n { x with trigQueue := x.trigQueue ++ [t] } := by
  simp [State.queueTrig, hd, hf, hs, hq]

/-! ### Trigger packets (R82) -/

/-- The stream's trigger packet starts on a master connection with the bit rate named: its first queued trigger counts as
sent, and the connection is taken for the length of a packet. -/
def State.sendTrig (s : State) (n : Nat) (x : Stream) (t : Trig) (rest : List Trig) (fast : Bool) (nominal start : Nat) :
    State :=
  let sent := x.sentTrigs ++ [t]
  (s.setStream n { x with
    trigQueue := rest, sent := x.sent + 1, sentTrigs := sent.drop (sent.length - max 16 (x.sent + 1 - x.paired))
    uplinkFree := start + if fast then 1680 else 3360 }).emit
      (.triggerPacket n start (if x.offsetEn then start - nominal else 0))

theorem uplinkTimes_eq (fast : Bool) : uplinkTimes fast = (if fast then 240 else 480, if fast then 1680 else 3360) := by
  cases fast <;> rfl

section
variable {s : State} {n : Nat} {x : Stream} {t : Trig} {rest : List Trig} (hs : s.stream n = some x)
  (hq : x.trigQueue = t :: rest) (hl : s.linked (Strm.portFirst x.cfg) = true) (ho : s.orderBreak x.cfg = none)
include hs hq hl ho

/-- Behind an earlier packet of the connection it starts where that one ends. -/
theorem State.startTrig_behind (hf : max (s.tb0Of t.time + 900) s.tb0Ns < s.uplinkFree (Strm.portFirst x.cfg)) :
    s.startTrig n = s.sendTrig n x t rest (s.fld .cxpPortStatus [Strm.portFirst x.cfg] 7 1 == 1)
      (s.tb0Of t.time + 900) (s.uplinkFree (Strm.portFirst x.cfg)) := by
  unfold State.startTrig State.sendTrig
  simp only [hs, hq, hl, ho, uplinkTimes_eq, hf.not_ge, Nat.add_sub_of_le hf.le, Bool.not_true, Bool.false_eq_true,
    Option.isSome_none, or_self, if_false]

/-- On a free connection it starts at a character boundary. -/
theorem State.startTrig_free (hf : s.uplinkFree (Strm.portFirst x.cfg) ≤ max (s.tb0Of t.time + 900) s.tb0Ns) :
    let fast := s.fld .cxpPortStatus [Strm.portFirst x.cfg] 7 1 == 1
    s.startTrig n = (s.draw (if fast then 240 else 480)).2.sendTrig n x t rest fast (s.tb0Of t.time + 900)
      (max (s.tb0Of t.time + 900) s.tb0Ns + (s.draw (if fast then 240 else 480)).1) := by
  unfold State.startTrig State.sendTrig
  simp only [hs, hq, hl, ho, uplinkTimes_eq, hf, Bool.not_true, Bool.false_eq_true, Option.isSome_none, or_self,
    if_false, if_true]

end

theorem State.draw_lt (s : State) {bound : Nat} (h : 0 < bound) : (s.draw bound).1 < bound := Nat.mod_lt _ h

/-! ### The header of a stream's buffer (R135) -/

theorem State.putHeader_bound {s : State} {n : Nat} {x : Stream} (hs : s.stream n = some x) : s.putHeader n =
    (s.setStream n { x with hdrSeq := x.hdrSeq + 1 }).store x.layout.base (x.header n (x.hdrSeq + 1)) := by
  simp [State.putHeader, hs]

theorem exec_tickWord_one (s : State) (d : Fin 8) (low : Byte) (r : Fin 4) :
    exec (.tickWord true [(d, low)] false r) s = .next (s.tickEvent d low.toNat) := rfl

theorem exec_triggerPacketStart (s : State) (n : Fin 64) :
    exec (.triggerPacketStart n) s = .next (s.startTrig n) := rfl

/-- Settles O26: outside an apply nothing stands between a close and the end of the stream's pipe; a divider's next event
has none lost before it; where the connection is taken, the wait for it ends with the earlier packet. -/
theorem streamsCloseAndTrigger : Obligations.StreamsCloseAndTrigger := by
  refine ⟨fun s n x hs hc ha ho => ?close, fun s flags pps r => rfl, fun s d low x r hx hk => ?tick,
    fun s t d n x hd hf hs hq => State.queueTrig_room hd hf hs hq, fun s n x t rest hs hq hl ho => ?trigger,
    fun s n x hs => congrArg Host.Outcome.next (State.putHeader_bound hs), fun s seat n v => rfl⟩
  case close => exact congrArg Host.Outcome.next (State.closeStream_open hs hc ha ho)
  case tick => exact (exec_tickWord_one s d low r).trans (congrArg Host.Outcome.next (State.tickEvent_next hx hk))
  case trigger =>
    intro nominal ready free fast sent sends
    rw [exec_triggerPacketStart]
    refine ⟨fun hf => ?behind, fun hf => ?free⟩
    case behind => exact congrArg Host.Outcome.next (State.startTrig_behind hs hq hl ho hf)
    case free =>
      refine ⟨(s.draw (if fast then 240 else 480)).1, s.draw_lt (by split <;> decide), ?_⟩
      exact congrArg Host.Outcome.next (State.startTrig_free hs hq hl ho hf)

end Sys2Proof.Machine

/-! PROOFS. Service, alignment, emission and re-entry of lines, hangs and statistics consumers (O27). -/

namespace Sys2Proof.Machine

/-! ### Service (R100) -/

section
variable {s : State} {p n : Nat} {x : Stream}
  (hf : s.cam.streams.filter (fun y => Strm.pipe y.2.cfg == p && y.2.hasWork) = [(n, x)])
include hf

/-- A pipe whose only stream with work is in-line serves it and keeps its place in the round robin. -/
theorem State.servePipe_inLine (hi : Strm.inLine x.cfg = true) : s.servePipe p = s.serveLine n := by
  simp [State.servePipe, hf, hi]

/-- A through-memory stream that is the only one with work has its turn wherever the round robin stands. -/
theorem State.servePipe_turn (hi : Strm.inLine x.cfg = false) : s.servePipe p =
    ({ s with cam := { s.cam with pipeNext := Tab.put s.cam.pipeNext p (n + 1) } } : State).serveLine n := by
  have hturn : (([(n, x)] : List (Nat × Stream)).find? fun y => decide (Tab.getD s.cam.pipeNext p 0 ≤ y.1)).orElse
      (fun _ => [(n, x)].head?) = some (n, x) := by
    by_cases h : Tab.getD s.cam.pipeNext p 0 ≤ n <;> simp [h]
  have hnone : [(n, x)].find? (fun y => Strm.inLine y.2.cfg) = none := by simp [hi]
  unfold State.servePipe
  simp only [hf, hnone, hturn]

end

section
variable {s : State} {n : Nat} {x : Stream} (hs : s.stream n = some x)
include hs

/-- A raw line that carries its elements needs no read of the raw area: it joins the lines that align. -/
theorem State.serveLine_carried {l : RawLine} {rest : List RawLine} {w : WorkLine} (hr : x.rawLines = l :: rest)
    (hp : l.pix ≠ []) (hw : enterPipe x l (s.rawComps x l) (s.enc (Strm.encoder x.cfg)).diePeriod = (w, false)) :
    s.serveLine n =
      let u := (s.updStream n fun x => { x with rawLines := rest, align := x.align ++ [w] }).drainAlign n false
        (x.align.length + 1)
      if l.cut then u.completeAlign n else u := by
  unfold State.serveLine
  simp only [hs, hr, List.isEmpty_eq_false_iff.mpr hp, Bool.false_eq_true, and_false, if_false, Option.isSome_none, hw]

/-! ### Alignment (R107) -/

/-- The only line that waits is completed as the head of the lines that align, and none is left to follow it. -/
theorem State.completeAlign_only {w l : WorkLine} {range : Bool} (ha : x.align = [w])
    (hh : alignHead x true = some (l, range, false)) : s.completeAlign n =
      let u := s.updStream n fun x => { x with align := [] }
      let u := if range then u.setFlag .lineStreamFlags [n] 0 else u
      let l' := outLine x (if range then { l with alignFlag := true } else l)
      (u.statLine n l').groupLine n l' := by
  have hdrop : s.updStream n (fun x => { x with align := x.align.drop 1 }) =
      s.updStream n fun x => { x with align := [] } := by
    rw [State.updStream_bound hs, State.updStream_bound hs, ha, List.drop_one, List.tail_cons]
  unfold State.completeAlign
  simp only [hs, ha, List.length_singleton, State.drainAlign, hh, hdrop, Bool.true_and, Bool.false_eq_true, if_false]

/-! ### Room and emission (R101, R104, R139, R141) -/

/-- Where a line has room already, no reference is given up. -/
theorem State.makeRoom_free {slots k : Nat} (h : x.room slots k = true) (fuel : Nat) :
    s.makeRoom n slots k fuel = s := by
  cases fuel with
  | zero => rfl
  | succ fuel => simp only [State.makeRoom, hs, h, if_true]

theorem State.tryRoom_free {slots k : Nat} (h : x.room slots k = true) : s.tryRoom n slots k = (s, true) := by
  unfold State.tryRoom
  simp only [State.makeRoom_free hs h, hs, Option.map_some, h, Option.getD_some]

/-- The first finished line of a stream takes its place in the corrected area where the line is unusable, and so writes
nothing, or where a through-memory stream has room for it. -/
theorem State.emitLine_corrected {l : WorkLine} {rest : List WorkLine} (hl : x.readyLines = l :: rest)
    (hc : Strm.inLine x.cfg = false ∨ l.cause ≠ 0) (hroom : x.room x.layout.corrSlots x.nextCorr = true) :
    s.emitLine n =
      let c := corrOf l x.nextCorr .corrected false
      ((((s.updStream n fun x => { x with readyLines := x.readyLines.drop 1 }).writeLine x c l.comps).lineArrives n
        c).sendStrips n x.nextCorr).finishStats n (StatAcc.doneAt l) := by
  unfold State.emitLine
  by_cases hcause : l.cause = 0
  · have hi : Strm.inLine x.cfg = false := hc.resolve_right (not_not_intro hcause)
    simp only [hs, hl, hcause, hi, State.tryRoom_free hs hroom, ne_eq, not_true_eq_false, Bool.false_eq_true, if_false,
      if_true, Option.getD_some]
  · simp only [hs, hl, hcause, ne_eq, not_false_eq_true, if_true, Option.getD_some]

/-- A spilled line that reads well and finds room in the row window is copied there. -/
theorem State.reenter_room {l : CorrLine} (hl : x.lines.find? (fun l => l.spilled) = some l)
    (hroom : x.room x.layout.winRows l.index = true) (ht : s.touchLine n l.index = s) : s.reenter n =
      (s.store (x.winAddr l.index) (s.load (x.corrAddr l.index) x.layout.corrLineBytes)).updStream n fun x => { x with
        lines := x.lines.map fun m =>
          if m.index = l.index then { m with loc := .window, spilled := false } else m } := by
  unfold State.reenter
  simp only [hs, hl, hroom, ht, Bool.not_true, Bool.false_eq_true, if_false]

end

/-- An unusable line writes no element. -/
theorem State.writeLine_unusable (s : State) (x : Stream) {c : CorrLine} (h : c.cause ≠ 0) (comps : List (List Nat)) :
    s.writeLine x c comps = s := by
  unfold State.writeLine
  exact if_pos h

/-! ### Hangs (R509, R518) -/

/-- A stream subsystem reset waits while an apply drains or loads. -/
theorem State.askStreamReset_waits {s : State} {a : ApplyRun} (ha : s.img.apply = some a)
    (hp : a.phase = .drain ∨ a.phase = .load) :
    s.askStreamReset = { s with boot := { s.boot with pendingStreams := true } } := by
  have hwait : (a.phase == .drain || a.phase == .load) = true := by simpa using hp
  unfold State.askStreamReset
  simp only [ha, hwait, if_true]

/-! ### Statistics consumers (R115) -/

section
variable {s : State} {n v : Nat} (seat : Nat)

/-- A value ahead of the producer is taken as the producer. -/
theorem State.writeCons_ahead (h : 2 ^ 31 ≤ (s.reg .lineStatProd [n] + 2 ^ 32 - v) % 2 ^ 32) :
    s.writeCons seat n v = s.setReg .lineStatCons [n] (s.reg .lineStatProd [n]) := by
  unfold State.writeCons
  exact if_pos h

/-- A value further behind than the ring has slots is ignored with a notice. -/
theorem State.writeCons_tooFar (h : (s.reg .lineStatProd [n] + 2 ^ 32 - v) % 2 ^ 32 < 2 ^ 31)
    (hs : 2 ^ s.fld .lineStatCfg [n] 0 5 < (s.reg .lineStatProd [n] + 2 ^ 32 - v) % 2 ^ 32) :
    s.writeCons seat n v =
      s.log { notice 10 with initiator := seat, arg0 := n64 (RN.off .lineStatCons [n]), arg1 := n64 v } := by
  unfold State.writeCons
  exact (if_neg h.not_ge).trans (if_pos hs)

/-- A value within the ring is stored. -/
theorem State.writeCons_within (h : (s.reg .lineStatProd [n] + 2 ^ 32 - v) % 2 ^ 32 < 2 ^ 31)
    (hs : (s.reg .lineStatProd [n] + 2 ^ 32 - v) % 2 ^ 32 ≤ 2 ^ s.fld .lineStatCfg [n] 0 5) :
    s.writeCons seat n v = s.setReg .lineStatCons [n] v := by
  unfold State.writeCons
  exact (if_neg h.not_ge).trans (if_neg hs.not_gt)

end

theorem exec_pipeHang (s : State) (p : Option (Fin 4)) : exec (.pipeHang p) s =
    .next (s.log { errorRec 10 with arg0 := n64 ((p.map fun p => p.val).getD 0xFF) }).askStreamReset := rfl

/-- Settles O27: the one stream with work has its turn, a line with its elements needs no read, a line that waits alone
leaves none behind it, and where there is room no reference is given up; a record leaves the apply that a reset waits
for as it is. -/
theorem linePipe : Obligations.LinePipe := by
  refine ⟨fun s p n x hf => ⟨fun hi => ?inLine, fun hi => ?turn⟩,
    fun s n x l rest w hs hr hp hw => State.serveLine_carried hs hr hp hw,
    fun s n x w l range hs ha hh => ?timeout, fun s p => ?hang, fun s n x l rest hs hl hc hroom => ?emitted,
    fun s x c comps h => s.writeLine_unusable x h comps, fun s n x l hs hl hroom ht => ?reentry,
    fun s seat n v => ?cons⟩
  case inLine => exact congrArg Host.Outcome.next (State.servePipe_inLine hf hi)
  case turn => exact congrArg Host.Outcome.next (State.servePipe_turn hf hi)
  case timeout => exact congrArg Host.Outcome.next (State.completeAlign_only hs ha hh)
  case hang =>
    refine ⟨exec_pipeHang s p, fun a ha hphase => (exec_pipeHang s p).trans (congrArg Host.Outcome.next ?_)⟩
    exact State.askStreamReset_waits (by rwa [State.log_img]) hphase
  case emitted => exact congrArg Host.Outcome.next (State.emitLine_corrected hs hl hc hroom)
  case reentry => exact congrArg Host.Outcome.next (State.reenter_room hs hl hroom ht)
  case cons =>
    intro prod behind slots
    exact ⟨fun h => congrArg Host.Outcome.next (State.writeCons_ahead seat h),
      fun h hs => congrArg Host.Outcome.next (State.writeCons_tooFar seat h hs),
      fun h hs => congrArg Host.Outcome.next (State.writeCons_within seat h hs)⟩

end Sys2Proof.Machine

/-! PROOFS. Part records, decisions, deadlines, windows, shadow limits and history writes (O47). -/

namespace Sys2Proof.Machine

/-! ### Part records (R256, R257) -/

/-- What a decision settles of the record in a slot: its state, VERDICT, SOURCE, CAUSE, time and PART_ID. -/
def Part.decision (p : Part) : PartSt × Nat × Nat × Nat × BitVec 64 × BitVec 64 :=
  (p.st, p.verdict, p.source, p.cause, p.tDecided, p.id)

/-- The decision of the part in a slot. -/
def State.decisionAt (s : State) (slot : Nat) : Option (PartSt × Nat × Nat × Nat × BitVec 64 × BitVec 64) :=
  (s.part slot).map Part.decision

theorem State.part_congr {s u : State} (h : u.ledg = s.ledg) (slot : Nat) : u.part slot = s.part slot := by
  rw [State.part, State.part, h]

theorem State.decisionAt_congr {s u : State} (h : u.ledg = s.ledg) (slot : Nat) :
    u.decisionAt slot = s.decisionAt slot := by
  rw [State.decisionAt, State.decisionAt, State.part_congr h]

theorem State.decisionAt_cap (s : State) (c : CaptureState) (slot : Nat) :
    ({ s with cap := c } : State).decisionAt slot = s.decisionAt slot := rfl

@[simp] theorem State.putPart_ledg (s : State) (slot : Nat) (p : Part) : (s.putPart slot p).ledg =
    { s.ledg with parts := Tab.put s.ledg.parts slot { p with seq := p.seq + 1, recordLost := false } } := by
  simp [State.putPart]

@[simp] theorem State.part_putPart_same (s : State) (slot : Nat) (p : Part) :
    (s.putPart slot p).part slot = some { p with seq := p.seq + 1, recordLost := false } := by
  simp [State.part]

theorem State.part_putPart_other (s : State) {slot k : Nat} (p : Part) (h : slot ≠ k) :
    (s.putPart k p).part slot = s.part slot := by
  simp [State.part, Tab.get_put_other _ _ _ _ h]

@[simp] theorem State.decisionAt_putPart_same (s : State) (slot : Nat) (p : Part) :
    (s.putPart slot p).decisionAt slot = some p.decision := by
  rw [State.decisionAt, State.part_putPart_same]; rfl

/-- An update that leaves the decision of every part alone changes none, whatever slot it is for. -/
theorem State.decisionAt_updPart (s : State) (slot k : Nat) {f : Part → Part}
    (hf : ∀ p, (f p).decision = p.decision) : (s.updPart k f).decisionAt slot = s.decisionAt slot := by
  unfold State.updPart
  cases hk : s.part k with
  | none => rfl
  | some p =>
    by_cases h : slot = k
    · subst h; simp [State.decisionAt, hk, ← hf p]; rfl
    · simp [State.decisionAt, State.part_putPart_other s _ h]

/-! ### What changes no part: crops, entries and handoffs (R266, R267, R269, R294) -/

/-- What each step of a fold keeps, the fold keeps. -/
theorem State.foldl_kept {α β : Type} (g : State → β) {f : State → α → State} (h : ∀ t a, g (f t a) = g t)
    (l : List α) (s : State) : g (l.foldl f s) = g s :=
  List.foldlRecOn (motive := fun t => g t = g s) l f rfl fun t ht a _ => (h t a).trans ht

@[simp] theorem State.cropRefs_ledg (s : State) (slot : Nat) : (s.cropRefs slot).ledg = s.ledg := by
  refine State.foldl_kept State.ledg (fun t c => ?_) _ s
  rfl

@[simp] theorem State.openCrops_ledg (s : State) (slot : Nat) (p : Part) : (s.openCrops slot p).ledg = s.ledg := by
  rw [State.openCrops, State.cropRefs_ledg]
  refine State.foldl_kept State.ledg (fun t (i, r) => ?_) _ s
  dsimp only
  split
  · rfl
  · refine State.foldl_kept State.ledg (fun u c => ?_) _ t
    rfl

@[simp] theorem State.dropCrop_ledg (s : State) (id : Nat) : (s.dropCrop id).ledg = s.ledg := rfl

@[simp] theorem State.abandonCrop_ledg (s : State) (id : Nat) : (s.abandonCrop id).ledg = s.ledg := by
  simp [State.abandonCrop]

@[simp] theorem State.queueCrops_ledg (s : State) : s.queueCrops.ledg = s.ledg := by
  refine State.foldl_kept State.ledg (fun t c => ?_) _ s
  split
  case h_1 => rfl
  case h_2 => simp only [apply_ite State.ledg, State.abandonCrop_ledg, State.setFlag_ledg, ite_self]

@[simp] theorem State.queueEntries_ledg (s : State) (slot : Nat) (es : List Eject) :
    (s.queueEntries slot es).ledg = s.ledg := by
  unfold State.queueEntries; split <;> rfl

@[simp] theorem State.groupSend_ledg (s : State) (peer : Option Nat) (type : Nat) (payload : Bytes) (acked : Bool)
    (id : BitVec 64) : (s.groupSend peer type payload acked id).ledg = s.ledg := by
  unfold State.groupSend; split <;> simp

@[simp] theorem State.handoffLost_ledg (s : State) (id : BitVec 64) : (s.handoffLost id).ledg = s.ledg := by
  simp [State.handoffLost]

/-- A rule that is settled changes CAPTURE_RULE of the part at most. -/
theorem State.settleCrops_decisionAt (s : State) (slot k : Nat) :
    (s.settleCrops k).decisionAt slot = s.decisionAt slot := by
  unfold State.settleCrops
  split
  · rfl
  split
  · rfl
  rw [State.decisionAt_congr (State.queueCrops_ledg _)]
  refine State.foldl_kept (·.decisionAt slot) (fun t (i, r) => ?_) _ s
  dsimp only
  split
  · split
    · exact t.decisionAt_cap _ slot
    · refine (State.decisionAt_updPart _ slot k fun _ => ?_).trans (t.decisionAt_cap _ slot)
      rfl
  split
  · rfl
  · exact State.foldl_kept (·.decisionAt slot) (fun t c => State.decisionAt_congr (t.dropCrop_ledg c) slot) _ t

/-- A handoff changes GROUP_PEER of the part at most. -/
theorem State.handoff_decisionAt (s : State) (p : Part) (kind : Nat) (damaged : Bool) (scores : List Word)
    (slot : Nat) : (s.handoff p kind damaged scores).decisionAt slot = s.decisionAt slot := by
  unfold State.handoff
  split
  case h_2 => rfl
  split
  · rfl
  have hf (dest : Nat) (q : Part) :
      (if q.id = p.id then { q with groupPeer := dest } else q).decision = q.decision := by split <;> rfl
  dsimp only
  split
  · exact (State.decisionAt_congr (State.groupSend_ledg ..) slot).trans (State.decisionAt_updPart _ _ _ (hf _))
  · exact (State.decisionAt_congr (State.handoffLost_ledg ..) slot).trans (State.decisionAt_updPart _ _ _ (hf _))

/-! ### Opening (R255, R270) -/

/-- Noting a cutoff changes the most recent cutoffs alone. -/
theorem State.noteCutoff_ledg (s : State) (p : Part) :
    ∃ c, (s.noteCutoff p).ledg = { s.ledg with lastCutoff := c } := by
  unfold State.noteCutoff
  split
  · exact ⟨_, rfl⟩
  · exact ⟨_, rfl⟩

/-- With room in the open queue the part stands in the slot a new record takes, its record written once. -/
theorem State.openPart_opened {s : State} {slot : Nat} (hf : s.openFull = false) (hn : s.newSlot = some slot)
    (stream : Nat) (ref : Pos) (f : Part → Part) :
    let p := f (s.newPart slot stream ref)
    (s.openPart stream ref f).2 = some slot ∧
    (s.openPart stream ref f).1.part slot = some { p with seq := p.seq + 1, recordLost := false } ∧
    (s.openPart stream ref f).1.ledg.seqNext = s.ledg.seqNext % (2 ^ 44 - 1) + 1 := by
  intro p
  simp only [State.openPart, hf, hn, Bool.false_eq_true, if_false, apply_ite State.ledg, State.openCrops_ledg,
    State.part, ite_self, State.putPart_ledg, Tab.get_put_same, true_and]
  obtain ⟨c, hc⟩ := State.noteCutoff_ledg { s with ledg := { s.ledg with
    seqNext := s.ledg.seqNext % (2 ^ 44 - 1) + 1, opened := s.ledg.opened + 1
    openFree := max s.ledg.openFree s.now + openNs, retired := s.ledg.retired.filter (· != slot)
    parts := Tab.put s.ledg.parts slot { p with seq := 0 } } } p
  exact ⟨rfl, congrArg LedgState.seqNext hc⟩

/-- Where the open queue is full or no slot is left, no part is opened, and LEDGER_FULL is recorded. -/
theorem State.openPart_none {s : State} (h : s.openFull = true ∨ s.newSlot = none) (stream : Nat) (ref : Pos)
    (f : Part → Part) : s.openPart stream ref f =
      (if s.openFull then (s.notOpened stream).setFlag .ledgFlags [] 1 else s.notOpened stream, none) := by
  unfold State.openPart
  split
  · rfl
  next hf => rw [h.resolve_left hf]

/-! ### Deciding (R257, R294) -/

section
variable {s : State} {slot : Nat} {p : Part} (hp : s.part slot = some p)
include hp

theorem State.decideNow_decided (hu : p.undecided = false) (verdict source cause : Nat) :
    s.decideNow slot verdict source cause = s := by
  simp [State.decideNow, hp, hu]

/-- What follows a decision leaves what it settled: counts, flags and records touch no part, the handoff its GROUP_PEER
and HANDOFF flag and the crops its CAPTURE_RULE. -/
theorem State.decideNow_decisionAt (hu : p.undecided = true) (verdict source cause : Nat) :
    (s.decideNow slot verdict source cause).decisionAt slot = some (.decided, verdict, source, cause, s.tb0, p.id) := by
  unfold State.decideNow
  simp -zeta only [hp, hu, Bool.not_true, Bool.false_eq_true, if_false]
  extract_lets det def' r waitF recipe model arith goOn q put counted flagged ledg timed warn told queued score sent
  have hcounted : counted.decisionAt slot = some q.decision :=
    (State.decisionAt_congr (put.count_ledg _ _ _) slot).trans (s.decisionAt_putPart_same slot q)
  have hflagged : flagged.decisionAt slot = counted.decisionAt slot := by
    unfold flagged; split
    · exact State.decisionAt_congr (counted.setFlag_ledg _ _ _) slot
    · rfl
  have htimed : timed.decisionAt slot = flagged.decisionAt slot := by
    unfold timed; split
    · split <;> rfl
    · rfl
  have htold : told.decisionAt slot = timed.decisionAt slot := by
    unfold told; split
    · exact State.decisionAt_congr (timed.log_ledg _) slot
    · rfl
  have hqueued : queued.decisionAt slot = told.decisionAt slot := by
    unfold queued; split
    · rfl
    · exact State.decisionAt_congr (told.queueEntries_ledg slot _) slot
  have hsent : sent.decisionAt slot = queued.decisionAt slot := by
    unfold sent; split
    · exact (State.decisionAt_updPart _ slot slot fun _ => by rfl).trans (queued.handoff_decisionAt q 2 _ _ slot)
    · rfl
  rw [State.settleCrops_decisionAt, hsent, hqueued, htold, htimed, hflagged, hcounted]
  rfl

/-- A part that has been decided keeps its decision. -/
theorem State.decidePart_decided (hu : p.undecided = false) (verdict source cause : Nat) :
    s.decidePart slot verdict source cause = s := by
  unfold State.decidePart
  split
  · exact State.decideNow_decided hp hu verdict source cause
  · simp [hp, hu]

/-- While a full insertion queue holds the deciding block back, the first decision a part is given waits. -/
theorem State.decidePart_held (hu : p.undecided = true) (hh : s.motion.insertHold ≠ [])
    (hw : ∀ d ∈ s.motion.decideWait, d.1 ≠ slot) (verdict source cause : Nat) :
    s.decidePart slot verdict source cause = { s with motion := { s.motion with
      decideWait := s.motion.decideWait ++ [(slot, verdict, source, cause)] } } := by
  have hnone : s.motion.decideWait.any (fun d => d.1 == slot) = false := by simpa using hw
  simp [State.decidePart, hh, hp, hu, hnone]

/-- With no entry held back the record of an undecided part takes the decision. -/
theorem State.decidePart_record (hu : p.undecided = true) (hh : s.motion.insertHold = []) (verdict source cause : Nat) :
    ∃ q, (s.decidePart slot verdict source cause).part slot = some q ∧
      q.decision = (.decided, verdict, source, cause, s.tb0, p.id) := by
  have hd := State.decideNow_decisionAt hp hu verdict source cause
  rw [State.decidePart, hh]
  exact Option.map_eq_some_iff.mp hd

/-! ### Deadlines (R263 to R265) -/

theorem State.deadlineOf_passed (hu : p.undecided = true) (hc : s.cutoffPassedNow p = true) :
    s.deadlineOf slot = s.decideDefault slot 3 Code.late := by
  simp [State.deadlineOf, hp, hu, hc, State.lateDefault]

section
variable (hu : p.undecided = true) (hc : s.cutoffPassedNow p = false) {i : Image} (hi : s.img.running = some i)
  {cut : Int} (ht : s.timeOf p.encoder p.cutoff = some cut)
include hu hc hi ht

/-- A part that cannot take the shoal model, or has it, is left to its cutoff. -/
theorem State.deadlineOf_noShoal (h : s.partDet p = true ∨ i.model 1 = none ∨ p.shoalRan = true ∨
    p.imageGen ≠ s.img.gen) : s.deadlineOf slot = s := by
  have hb : (s.partDet p || (i.model 1).isNone || p.shoalRan || p.imageGen != s.img.gen) = true := by
    simpa [or_assoc] using h
  simp only [State.deadlineOf, hp, hu, hc, hi, ht, hb, Bool.not_true, Bool.false_eq_true, if_false, if_true]

/-- The shoal model runs where the deep model is predicted late and the shoal model is not. -/
theorem State.deadlineOf_predicted (hd : s.partDet p = false) (hm : (i.model 1).isSome = true)
    (hr : p.shoalRan = false) (hg : p.imageGen = s.img.gen) {deep shoal : Int}
    (h0 : s.pred slot p 0 cut = some deep) (h1 : s.pred slot p 1 cut = some shoal) :
    s.deadlineOf slot = if cut < deep ∧ shoal ≤ cut then s.runShoal slot else s := by
  have hn : (i.model 1).isNone = false := by simpa [← Option.not_isSome] using hm
  simp [State.deadlineOf, hp, hu, hc, hi, ht, hd, hn, hr, hg, h0, h1]

end

theorem State.cutoffEvent_passed (hu : p.undecided = true) (hc : s.cutoffPassedNow p = true) :
    s.cutoffEvent slot = (s.decideDefault slot 3 Code.late).afterDecision := by
  simp [State.cutoffEvent, hp, hu, hc, State.lateDefault]

theorem State.cutoffEvent_ignored (h : p.undecided = false ∨ s.cutoffPassedNow p = false) :
    s.cutoffEvent slot = s := by
  have hb : (p.undecided && s.cutoffPassedNow p) = false := by obtain h | h := h <;> simp [h]
  simp [State.cutoffEvent, hp, hb]

/-! ### Windows and trials (R252, R360) -/

theorem State.windowEnd_passed {view : Nat} (hm : p.mode = 0)
    (hr : reached (s.diePos p.encoder) (posCounts p.windowEnd (s.viewOffset p view)) = true) :
    s.windowEnd slot view =
      ((s.updView slot view fun v => { v with passed := true }).windowCheck slot view).readyCheck.afterDecision := by
  simp [State.windowEnd, hp, hm, hr]

theorem State.windowEnd_ignored {view : Nat} (h : p.mode ≠ 0 ∨
    reached (s.diePos p.encoder) (posCounts p.windowEnd (s.viewOffset p view)) = false) : s.windowEnd slot view = s := by
  have hb : p.mode ≠ 0 ∨ (!reached (s.diePos p.encoder) (posCounts p.windowEnd (s.viewOffset p view))) = true := by
    simpa using h
  simp only [State.windowEnd, hp, hb, if_true]

theorem State.cancelShadow_trialled (hs : p.shadow = true) : s.cancelShadow slot =
    ((((s.updPart slot fun p => { p with shadow := false, candClass := 0xFF }).count .shadowCancelled []).setFlag
      .trainFlags [] 3).settleCrops slot).afterDecision := by
  simp only [State.cancelShadow, hp, hs, Bool.not_true, Bool.false_eq_true, if_false]

variable {r : Bytes} (hr : (s.seen p).imgRecord 15 4 p.stream = some r)
include hr

theorem State.shadowLimit_over (hs : p.shadow = true) (hu : p.undecided = false)
    (hl : p.decidedTb1 + leAt r 0x10 4 * 1000000 ≤ s.now) : s.shadowLimit slot = s.cancelShadow slot := by
  simp [State.shadowLimit, hp, hr, hs, hu, hl]

theorem State.shadowLimit_ignored (h : p.shadow = false ∨ p.undecided = true ∨
    s.now < p.decidedTb1 + leAt r 0x10 4 * 1000000) : s.shadowLimit slot = s := by
  have hb : (p.shadow && !p.undecided && decide (p.decidedTb1 + leAt r 0x10 4 * 1000000 ≤ s.now)) = false := by
    obtain h | h | h := h <;> simp [h]
  simp [State.shadowLimit, hp, hr, hb]

end

/-- With no uncorrectable granule the deadline monitor finds every record whole. -/
theorem State.checkRecord_good {s : State} (hb : s.mc.bad = []) (slot : Nat) : s.checkRecord slot = s := by
  simp [State.checkRecord, State.badIn, hb]

theorem State.deadlineTick_good {s : State} (hb : s.mc.bad = []) :
    let slots := s.undecidedParts.map Prod.fst
    let t := slots.foldl (fun u k => u.deadlineOf k) (slots.foldl (fun u k => u.refreshCutoff k) s)
    s.deadlineTick =
      ((t.cam.streams.map Prod.fst).foldl (fun u n => u.forgetLines n) t).releaseShoal.afterDecision := by
  intro slots t
  rw [State.deadlineTick, List.foldl_fixed' (State.checkRecord_good hb)]

/-! ### History writes (R200 to R206, R214) -/

/-- The rows of a scope that a write puts: at most half the ring. -/
def State.keptRows (s : State) (p : Part) (v : View) (h : HistStore) : List (HistRow × Nat × Bool) :=
  (s.scopeRows p v h).take (h.slots / 2)

/-- The entries of the rows kept and the counts of their store, before the header is rewritten. -/
def State.putScope (s : State) (n q : Nat) (p : Part) (v : View) (h : HistStore) : State :=
  let rows := s.scopeRows p v h
  let kept := s.keptRows p v h
  (kept.zipIdx.foldl (fun x (r, i) => x.store (h.slotAddr (h.nextIndex + i))
    (histEntry h (h.nextIndex + i) q p r.1 r.2.1 r.2.2 (v.arithDeep != 0) x.tb0)) s).updHist n fun h => { h with
      nextIndex := h.nextIndex + kept.length, settled := h.settled + 1
      truncated := (h.truncated + (rows.length - kept.length)) % 2 ^ 32
      damaged := (h.damaged + (kept.filter fun r => r.2.2).length) % 2 ^ 32 }

section
variable {s : State} {n q slot view : Nat} {p : Part} {v : View} {h : HistStore}
  (hd : s.countVoids.histDue n = some (q, slot, p, view, v)) (hs : s.countVoids.histStore n = some h)
include hs

theorem State.histHeader_eq : s.histHeader n =
    (s.countVoids.updHist n fun h => { h with seq := h.seq + 1 }).store h.base
      ({ h with seq := h.seq + 1 } : HistStore).header := by
  have hu : (s.countVoids.updHist n fun h => { h with seq := h.seq + 1 }).histStore n =
      some { h with seq := h.seq + 1 } := by
    rw [State.histStore, State.updHist, Tab.upd_of_get hs, Tab.get_put_same]
  simp only [State.histHeader, State.putHist, hu]

include hd

/-- A write waits for the scopes before its own and for the lookups that hold its slots. -/
theorem State.histWrite_waits (hw : s.countVoids.settledBefore n q = false ∨
    s.countVoids.slotsHeld n h (s.countVoids.keptRows p v h).length = true) : s.histWrite n = s.countVoids := by
  have hb : (!s.countVoids.settledBefore n q ||
      s.countVoids.slotsHeld n h (s.countVoids.keptRows p v h).length) = true := by simpa using hw
  simp only [State.histWrite, hd, hs]
  exact if_pos hb

/-- A due write puts its entries, marks its view written and rewrites the header. -/
theorem State.histWrite_due (hq : s.countVoids.settledBefore n q = true)
    (hl : s.countVoids.slotsHeld n h (s.countVoids.keptRows p v h).length = false) : s.histWrite n =
      (((((s.countVoids.putScope n q p v h).notePart slot fun p => { p with histDone := p.histDone ++ [view] }).putHist
        n).settleScope slot).readyCheck).afterDecision := by
  have hb : ¬(!s.countVoids.settledBefore n q ||
      s.countVoids.slotsHeld n h (s.countVoids.keptRows p v h).length) = true := by simp [hq, hl]
  simp only [State.histWrite, hd, hs]
  exact if_neg hb

end

/-- Settles O47: a part opens in the slot a new record takes or not at all, its record takes one decision, which nothing
that follows touches, and the monitor, the window's end, the trial's limit and the history write each act where their
guard holds and change nothing elsewhere. -/
theorem partsAndDeadlines : Obligations.PartsAndDeadlines := by
  refine ⟨fun s stream slot ref hf hn => ?opened, fun s stream ref f h => State.openPart_none h stream ref f,
    fun s slot verdict source cause p hp => ⟨fun hu => State.decidePart_decided hp hu verdict source cause,
      fun hu hh hw => State.decidePart_held hp hu hh hw verdict source cause, fun hu hh => ?decided⟩,
    fun s hb => congrArg Host.Outcome.next (State.deadlineTick_good hb),
    fun s slot p hp hu => ⟨State.deadlineOf_passed hp hu, fun hc i cut hi ht =>
      ⟨State.deadlineOf_noShoal hp hu hc hi ht, fun hd hm hr hg deep shoal h0 h1 =>
        State.deadlineOf_predicted hp hu hc hi ht hd hm hr hg h0 h1⟩⟩,
    fun s slot p hp => ⟨fun hu hc => congrArg Host.Outcome.next (State.cutoffEvent_passed hp hu hc),
      fun h => congrArg Host.Outcome.next (State.cutoffEvent_ignored hp h)⟩,
    fun s slot view p hp => ⟨fun hm hr => congrArg Host.Outcome.next (State.windowEnd_passed hp hm hr),
      fun h => congrArg Host.Outcome.next (State.windowEnd_ignored hp h)⟩,
    fun s slot p r hp hr => ⟨fun hs hu hl => congrArg Host.Outcome.next
        ((State.shadowLimit_over hp hr hs hu hl).trans (State.cancelShadow_trialled hp hs)),
      fun h => congrArg Host.Outcome.next (State.shadowLimit_ignored hp hr h)⟩,
    fun s n q slot view p v h => ?written,
    fun s n h hs => congrArg Host.Outcome.next (State.histHeader_eq hs)⟩
  case opened =>
    obtain ⟨hslot, hpart, hseq⟩ := State.openPart_opened hf hn stream ref fun p => p
    exact ⟨hslot, _, hpart, rfl, rfl, rfl, hseq⟩
  case decided =>
    obtain ⟨q, hq, hd⟩ := State.decidePart_record hp hu hh verdict source cause
    simp only [Part.decision, Prod.mk.injEq] at hd
    exact ⟨q, hq, hd⟩
  case written =>
    intro u hd hs rows kept
    exact ⟨fun hw => congrArg Host.Outcome.next (State.histWrite_waits hd hs hw),
      fun hq hl => congrArg Host.Outcome.next (State.histWrite_due hd hs hq hl)⟩

end Sys2Proof.Machine

/-! PROOFS. Host contexts: made, destroyed, and the jobs of a tag cancelled (O16). -/

namespace Sys2Proof.Machine

/-! ### What taking a command leaves of contexts and jobs -/

theorem State.ctx_congr {s u : State} (h : u.sched = s.sched) (n : Nat) : u.ctx n = s.ctx n := by
  rw [State.ctx, State.ctx, h]

theorem State.isHostCtx_congr {s u : State} (h : u.sched = s.sched) (n : Nat) : u.isHostCtx n = s.isHostCtx n := by
  rw [State.isHostCtx, State.isHostCtx, State.ctx_congr h]

/-- The jobs of a context whose command bears a tag. -/
def State.tagJobs (s : State) (n : Nat) (tag : Word) : List Job :=
  s.sched.jobs.filter fun j => j.ctx == n && j.by'.any fun b => b.tag == tag

/-- A job has a command that is neither committing nor done. -/
def State.cancellable (s : State) (j : Job) : Bool :=
  (s.jobCmds j.id).any fun x => x.st != .committing && x.st != .done

theorem State.tagJobs_congr {s u : State} (h : u.sched = s.sched) (n : Nat) (tag : Word) :
    u.tagJobs n tag = s.tagJobs n tag := by
  rw [State.tagJobs, State.tagJobs, h]

theorem State.cancellable_congr {s u : State} (h : u.sched = s.sched) : u.cancellable = s.cancellable := by
  funext j
  rw [State.cancellable, State.cancellable, State.jobCmds, State.jobCmds, h]

/-! ### Contexts (R216, R232) -/

theorem State.ctx_defineCtx_same (s : State) (n owner : Nat) (kind : CtxKind) (pinned : Bool) :
    (s.defineCtx n kind owner pinned).ctx n = some {
      kind := kind, owner := owner, pinned := pinned, slot := none, blockedSince := some s.now, starve := 0
      waiting := false, evicting := false } :=
  Tab.get_put_same ..

theorem State.ctx_defineCtx_other (s : State) (n owner : Nat) (kind : CtxKind) (pinned : Bool) {m : Nat} (h : m ≠ n) :
    (s.defineCtx n kind owner pinned).ctx m = s.ctx m :=
  Tab.get_put_other _ _ _ _ h

theorem State.ctx_destroyCtx (s : State) (n : Nat) : (s.destroyCtx n).ctx n = none := Tab.get_del_same ..

/-! ### The commands -/

section
variable {s : State} (c : CmdRef)

theorem State.runCtxCreate_free {pin : Byte} {k : Nat} (hp : pin.toNat ≤ 1)
    (hk : (List.range 864).find? (fun k => (s.ctx (160 + k)).isNone) = some k) (hr : pin = 0 ∨ s.pinnedCount < 128) :
    s.runCtxCreate c pin = (s.defineCtx (160 + k) .host c.seat (pin == 1)).complete c Code.ok 0 (160 + k) := by
  have hroom : pin = 1 → s.pinnedCount < 128 := by
    rintro rfl
    exact hr.resolve_left (by decide)
  simp only [State.runCtxCreate, hk]
  exact s.checked_ok c _ _ (by simpa [hp, imp_iff_not_or] using hroom)

variable {n : BitVec 16} (hn : n.toNat < 1024) (hh : s.isHostCtx n.toNat = true)
include hn hh

theorem State.runCtxDestroy_host :
    s.runCtxDestroy c n = ((s.destroyCtx n.toNat).turnCheck).complete c Code.ok :=
  s.checked_ok c _ _ (by simp [hn, hh])

/-- While one of its jobs can still be cancelled, the tag's jobs are withdrawn and the first such job's command is
answered. -/
theorem State.runJobCancel_open {tag : Word} {j : Job} {a : CmdRef} {rest : List Job}
    (ho : (s.tagJobs n.toNat tag).filter s.cancellable = j :: rest) (ha : j.by' = some a) :
    s.runJobCancel c n tag = (((s.tagJobs n.toNat tag).foldl (fun v j => v.withdraw j.id) s).complete a
      Code.cancelled).turnCheck.complete c Code.ok := by
  unfold State.runJobCancel
  extract_lets js open' asked
  have hjs : js = s.tagJobs n.toNat tag := by
    refine congrArg (s.sched.jobs.filter ·) (funext fun j => ?_)
    cases j.by' <;> rfl
  have hopen : open' = j :: rest := by
    rw [← ho, ← hjs]
    rfl
  have hasked : asked.head? = some a := by simp [asked, hopen, ha]
  rw [s.checked_ok c _ _ (by simp [hn, hh, hopen]), hasked, hjs]

end

/-- Settles O16: taking a command leaves contexts and jobs alone, so each command passes its refusals on the state that
its ring leaves. -/
theorem hostContexts : Obligations.HostContexts := by
  refine ⟨fun s h pin k ha hp hk hr => ?create, fun s n owner pinned => ⟨s.ctx_defineCtx_same n owner .host pinned,
      fun m hm => s.ctx_defineCtx_other n owner .host pinned hm⟩, fun s h n ha hn hh => ?destroy, State.ctx_destroyCtx,
    fun s h n tag j a rest ha hn hh => ?cancel⟩
  case create =>
    have hsched := s.takes_sched h 0x0301
    refine exec_effect rfl rfl ha _ (State.runCtxCreate_free _ hp ?_ ?_)
    · simpa only [State.ctx_congr hsched] using hk
    · rwa [State.pinnedCount, hsched]
  case destroy =>
    exact exec_effect rfl rfl ha _ (State.runCtxDestroy_host _ hn
      ((State.isHostCtx_congr (s.takes_sched h 0x0302) _).trans hh))
  case cancel =>
    intro js ho hj
    have hsched := s.takes_sched h 0x0304
    have htag := State.tagJobs_congr hsched n.toNat tag
    have hopen : ((s.takes h 0x0304).1.tagJobs n.toNat tag).filter (s.takes h 0x0304).1.cancellable = j :: rest := by
      rw [htag, State.cancellable_congr hsched]
      exact ho
    refine exec_effect rfl rfl ha _ ((State.runJobCancel_open _ hn ((State.isHostCtx_congr hsched _).trans hh) hopen
      hj).trans ?_)
    rw [htag]
    rfl

end Sys2Proof.Machine

/-! PROOFS. A command on its core: dispatched, running, committing, published, or killed (O18). -/

namespace Sys2Proof.Machine

/-! ### Cores after a write -/

@[simp] theorem SchedState.core_setCore_same (t : SchedState) (n : Nat) (c : Core) : (t.setCore n c).core n = c :=
  match n with
  | 0 | 1 | 2 | _ + 3 => rfl

@[simp] theorem SchedState.setCore_order (t : SchedState) (n : Nat) (c : Core) : (t.setCore n c).order = t.order :=
  match n with
  | 0 | 1 | 2 | _ + 3 => rfl

@[simp] theorem State.core_updCore_same (s : State) (n : Nat) (f : Core → Core) :
    (s.updCore n f).sched.core n = f (s.sched.core n) := SchedState.core_setCore_same ..

theorem State.core_ctxCheck (s : State) (k n : Nat) : (s.ctxCheck k).sched.core n = s.sched.core n := rfl

theorem State.order_ctxCheck (s : State) (k : Nat) : (s.ctxCheck k).sched.order = s.sched.order := rfl

/-! ### The command of a core (R214, R218 to R221) -/

section
variable {s : State} {n : Nat} {x : Cmd} (hx : s.onCore n = some x)
include hx

theorem State.dispatched_dispatched (hst : x.st = .dispatched) : s.dispatched n =
    ((s.fixLooks x).updCmd x.id fun c => { c with st := .running }).updCore n
      fun c => { c with st := .running, loading := false } := by
  simp only [State.dispatched, hx, hst, if_true]

theorem State.commitPhase_running (hst : x.st = .running) (long : Bool) : s.commitPhase n long =
    let u := (s.updCmd x.id fun c => { c with st := .committing }).updCore n fun c => { c with st := .committing }
    if long then u.setFlag .coreErr [n] 1 else u := by
  simp only [State.commitPhase, hx, hst, true_or, if_true]

/-- The commit point, in order: the core is free, the command is gone, its results are there, the parts it serves are
tested, and what became ready, the turn and decided parts follow. -/
theorem State.publish_committing (hst : x.st = .committing) {j : Job} (hj : s.job x.job = some j) : s.publish n =
    let u := (s.updCore n fun c => { c with st := .idle, cmd := none, stalled := 0 }).count .coreDone [n]
    let u : State := { u with sched := { u.sched with
      cmds := u.sched.cmds.filter fun c => c.id != x.id, acceptOrder := u.sched.acceptOrder + 1 } }
    let v := (u.servedSlots j).foldl (fun v k => v.deadlineOf k) ((u.commitCmd x j (s.lastCmd x j)).dropDoomed x)
    let v := v.readyCheck.ctxCheck j.ctx
    (if ctxClass j.ctx = 2 then v.turnCommit true else v.turnCheck).afterDecision := by
  simp only [State.publish, hx, hst, hj, ne_eq, not_true_eq_false, if_false]

end

theorem State.publish_uncommitted {s : State} {n : Nat} (h : ∀ x, s.onCore n = some x → x.st ≠ .committing) :
    s.publish n = s := by
  unfold State.publish
  split
  · rfl
  next x hx => exact if_pos (h x hx)

theorem State.killAck_killing {s : State} {n : Nat} (h : (s.sched.core n).st = .killing) :
    s.killAck n = s.updCore n fun c => { c with st := .idle, cmd := none, claim := none } := if_pos h

theorem State.reserveSpace_queued {s : State} {k : Nat} {x : Cmd} (hx : s.cmd k = some x) (hst : x.st = .queued) :
    s.reserveSpace k = (s.updCmd k fun x => { x with spaceReserved := true }).readyCheck := by
  simp only [State.reserveSpace, hx, hst, if_true]

/-! ### Dispatch (R222, R229) -/

/-- The core that a command goes to holds it. -/
theorem State.core_dispatchTo (s : State) (x : Cmd) (n : Nat) : (s.dispatchTo x n).sched.core n =
    { (s.loadSet x n).sched.core n with
      st := .dispatched, cmd := some x.id, stalled := 0, loading := !s.weightsOn x n, claim := none } := by
  unfold State.dispatchTo
  rw [State.core_ctxCheck, State.core_updCore_same]
  rfl

theorem State.order_dispatchTo (s : State) (x : Cmd) (n : Nat) :
    (s.dispatchTo x n).sched.order = (s.loadSet x n).sched.order + 1 := by
  unfold State.dispatchTo
  rw [State.order_ctxCheck]
  exact SchedState.setCore_order ..

/-- The core of a command that is killed for another's sake is claimed for that other, where it has one. -/
def State.claimFor (s : State) (x : Cmd) (n : Option Nat) : State :=
  n.toList.foldl (fun u n => u.updCore n fun c => { c with claim := some x.id }) s

section
variable {s : State} (ht : s.turnCheck = s)
include ht

theorem State.dispatch_none (hm : s.sched.cmds.filter s.mayDispatch = []) : s.dispatch = s := by
  simp only [State.dispatch, ht, hm]
  cases s.sched.cmds.length <;> rfl

variable {x : Cmd} (hm : s.sched.cmds.filter s.mayDispatch = [x])
include hm

/-- An only command that may be dispatched is the one the dispatcher looks at first. -/
theorem State.dispatch_only : ∃ fuel, s.dispatch = State.dispatch.go s (fuel + 1) [x] := by
  have hmem : x ∈ s.sched.cmds := List.mem_of_mem_filter (hm ▸ List.mem_singleton_self x)
  obtain ⟨fuel, hf⟩ := Nat.exists_eq_add_one_of_ne_zero (List.length_pos_of_mem hmem).ne'
  exact ⟨fuel, by simp only [State.dispatch, ht, hm, hf]⟩

theorem State.dispatch_free {n : Nat} (hc : s.chooseCore x = some n) : s.dispatch = s.dispatchTo x n := by
  obtain ⟨fuel, hd⟩ := State.dispatch_only ht hm
  simp only [hd, State.dispatch.go, State.firstOf, List.foldl_cons, List.foldl_nil, hc]

theorem State.dispatch_victim {v : Nat} (hc : s.chooseCore x = none) (hv : s.victim x = some v) :
    s.dispatch = (s.kill v true).claimFor x ((s.cmd v).bind (·.core)) := by
  obtain ⟨fuel, hd⟩ := State.dispatch_only ht hm
  simp only [hd, State.dispatch.go, State.firstOf, List.foldl_cons, List.foldl_nil, hc, hv]
  rfl

end

/-- With no weight granule lost COMMAND_DISPATCH is a dispatch decision. -/
theorem exec_commandDispatch {s : State} (hw : s.readWeights.faultLost = s) :
    exec .commandDispatch s = .next s.dispatch :=
  congrArg (fun u : State => Host.Outcome.next u.dispatch) hw

/-- Settles O18: each event of a core acts on the one command there, and an only command that may be dispatched is the
one looked at first. -/
theorem commandsOnCores : Obligations.CommandsOnCores := by
  refine ⟨fun s n x hx hst => congrArg Host.Outcome.next (State.dispatched_dispatched hx hst),
    fun s n x hx hst => ⟨congrArg Host.Outcome.next (State.commitPhase_running hx hst false),
      congrArg Host.Outcome.next (State.commitPhase_running hx hst true)⟩,
    fun s n hk => congrArg Host.Outcome.next (State.killAck_killing hk),
    fun s k x hx hst => congrArg Host.Outcome.next (State.reserveSpace_queued hx hst),
    fun s x n hw ht hm hc => ?free, fun s x n _ => ⟨s.core_dispatchTo x n, s.order_dispatchTo x n⟩,
    fun s x v hw ht hm hc hv => ?victim, fun s hw ht hm => ?none,
    fun s n x j hx hst hj => congrArg Host.Outcome.next (State.publish_committing hx hst hj),
    fun s n h => congrArg Host.Outcome.next (State.publish_uncommitted h)⟩
  case free => rw [exec_commandDispatch hw, State.dispatch_free ht hm hc]
  case victim =>
    rw [exec_commandDispatch hw, State.dispatch_victim ht hm hc hv]
    cases (s.cmd v).bind (·.core) <;> rfl
  case none => rw [exec_commandDispatch hw, State.dispatch_none ht hm]

end Sys2Proof.Machine

/-! PROOFS. Contexts get resident slots, and host turns end (O19). -/

namespace Sys2Proof.Machine

/-! ### Residency (R217, R231, R443) -/

section
variable {s : State} {c : Nat} {x : Ctx} (hc : s.ctx c = some x) (hs : x.slot = none) (hr : s.runnable c = true)
include hc hs hr

theorem State.swapIn_free {k : Nat} (hf : s.freeSlot = some k) :
    s.swapIn c = s.updCtx c fun x => { x with slot := some k, waiting := false } := by
  simp [State.swapIn, hc, hs, hr, hf]

theorem State.swapIn_evicts {v : Nat × Ctx} (hf : s.freeSlot = none)
    (hv : s.sched.ctxs.filter (fun y => y.2.slot.isSome && !y.2.pinned && !s.runnable y.1 && !s.ctxRunning y.1) = [v]) :
    s.swapIn c = ((s.updCtx v.1 fun y => { y with slot := none }).updCtx c fun x =>
      { x with slot := v.2.slot, waiting := false }).setFlag .schedFlags [] 1 := by
  simp [State.swapIn, hc, hs, hr, hf, hv]

/-- The one uncorrectable granule of a host context's state is reported, and the context goes. -/
theorem State.readContext_lost {g : Nat} (hg : s.mc.bad = [g]) (hlo : contextAddr c ≤ g)
    (hhi : g < contextAddr c + 256) (hk : x.kind = .host) :
    s.readContext c = ((s.reportUe g 0x40).destroyCtx c).turnCheck := by
  have hlt : contextAddr c < g + 64 := by omega
  have hbad : s.badIn (contextAddr c) 256 = some g := by simp [State.badIn, hg, hlt, hhi]
  simp [State.readContext, hc, hbad, hs, hr, hg, hlt, hhi, hk]

end

/-- A context's state without an uncorrectable granule is simply read. -/
theorem State.readContext_good {s : State} {c : Nat} (hb : s.badIn (contextAddr c) 256 = none) :
    s.readContext c = s.swapIn c := by
  unfold State.readContext
  rw [hb]
  cases s.ctx c <;> rfl

theorem State.starvation_waits {s : State} {w : Nat × Ctx}
    (hl : (s.sched.ctxs.filter fun c => c.2.slot.isSome).length = 128)
    (hp : ∀ c ∈ s.sched.ctxs, c.2.slot.isSome = true → c.2.pinned = true)
    (hw : s.sched.ctxs.filter (fun c => c.2.waiting && s.runnable c.1) = [w]) :
    s.starvation = (s.updCtx w.1 fun x => { x with starve := x.starve + 1 }).flagLog .schedFlags [] 0
      { warning 11 with arg0 := n64 w.1 } := by
  have hall : (s.sched.ctxs.filter fun c => c.2.slot.isSome).all (fun c => c.2.pinned) = true := by
    rw [List.all_eq_true]
    intro c hc
    obtain ⟨hmem, hslot⟩ := List.mem_filter.mp hc
    exact hp c hmem hslot
  rw [State.starvation, if_pos ⟨hl, hall⟩, hw]
  rfl

theorem State.starvation_room {s : State} (hl : (s.sched.ctxs.filter fun c => c.2.slot.isSome).length ≠ 128) :
    s.starvation = s := if_neg fun h => hl h.1

/-! ### The end of a turn (R225 to R227) -/

/-- A command is of the seat that has the turn. -/
def State.ofTurn (s : State) (c : Cmd) : Bool := (s.hostCtxs s.sched.turn.seat).contains (s.cmdCtx c)

/-- The commands that the end of the turn kills: those of its seat that are on a core and do not commit yet. -/
def State.turnKilled (s : State) : List Cmd :=
  s.sched.cmds.filter fun c => s.ofTurn c && (c.st == .dispatched || c.st == .running)

/-- What the end of a turn does to one such command. -/
def State.turnKill (s : State) (c : Cmd) : State :=
  let u := (s.kill c.id false).updCmd c.id fun c => { c with turnKills := c.turnKills + 1 }
  if 8 ≤ c.turnKills + 1 then (u.cancelJob c.job 0x70).setFlag .schedFlags [] 2 else u

section
variable {s : State} (ha : s.sched.turn.active = true)

/-- With none of the seat's commands on a core and short of committing, none is killed. -/
theorem State.turnKilled_nil (h : ∀ c ∈ s.sched.cmds, s.ofTurn c = true → c.st ≠ .dispatched ∧ c.st ≠ .running) :
    s.turnKilled = [] := by
  rw [State.turnKilled, List.filter_eq_nil_iff]
  intro c hc
  simpa using h c hc

include ha

/-- A turn that ends kills what is on a core; it passes, or it is extended for what commits. -/
theorem State.turnEnd_active : s.turnEnd =
    let u := s.turnKilled.foldl State.turnKill (s.endRows s.turnKilled)
    if ∃ c ∈ s.sched.cmds, s.ofTurn c = true ∧ c.st = .committing then
      ({ u with sched := { u.sched with turn := { s.sched.turn with extended := true } } } : State).setFlag
        .schedFlags [] 4
    else u.passTurn := by
  have hkill : (s.sched.cmds.filter s.ofTurn).filter (fun c => c.st == .dispatched || c.st == .running) =
      s.turnKilled := by
    rw [List.filter_filter]
    exact congrArg (s.sched.cmds.filter ·) (funext fun c => Bool.and_comm ..)
  have hcommit : ((s.sched.cmds.filter s.ofTurn).any fun c => c.st == .committing) = true ↔
      ∃ c ∈ s.sched.cmds, s.ofTurn c = true ∧ c.st = .committing := by
    simp
  simp only [← hcommit, ← hkill]
  simp only [State.turnEnd, ha, Bool.not_true, Bool.false_eq_true, if_false]
  rfl

theorem State.turnEnd_passes (hn : ∀ c ∈ s.sched.cmds, s.ofTurn c = true → c.st ≠ .committing) :
    s.turnEnd = (s.turnKilled.foldl State.turnKill (s.endRows s.turnKilled)).passTurn := by
  rw [State.turnEnd_active ha]
  refine if_neg ?_
  rintro ⟨c, hc, ht, hst⟩
  exact hn c hc ht hst

theorem State.turnEnd_extends (hk : s.turnKilled = [])
    (hc : ∃ c ∈ s.sched.cmds, s.ofTurn c = true ∧ c.st = .committing) :
    s.turnEnd = ({ s.endRows [] with sched := { (s.endRows []).sched with
      turn := { s.sched.turn with extended := true } } } : State).setFlag .schedFlags [] 4 := by
  rw [State.turnEnd_active ha, hk]
  exact if_pos hc

end

theorem State.passTurn_none {s : State} (h : s.nextSeat s.sched.turn.seat = none) : s.passTurn =
    { s with sched := { s.sched with turn := { s.sched.turn with active := false, extended := false } } } := by
  simp only [State.passTurn, h]

theorem State.passTurn_some {s : State} {n : Nat} (h : s.nextSeat s.sched.turn.seat = some n) :
    s.passTurn = s.beginTurn n := by
  simp only [State.passTurn, h]

/-- Settles O19: a context whose state is read takes a slot or another's, and a turn's end kills what is on a core and
then passes the turn, or extends it for what commits. -/
theorem contextsAndTurns : Obligations.ContextsAndTurns := by
  refine ⟨fun s c x k hc hs hr hf hb => congrArg Host.Outcome.next
      ((State.readContext_good hb).trans (State.swapIn_free hc hs hr hf)),
    fun s c x v hc hs hr hf hb hv => congrArg Host.Outcome.next
      ((State.readContext_good hb).trans (State.swapIn_evicts hc hs hr hf hv)),
    fun s c x g hc hs hr hg hlo hhi hk => congrArg Host.Outcome.next
      (State.readContext_lost hc hs hr hg hlo hhi hk),
    fun s w hl hp hw => congrArg Host.Outcome.next (State.starvation_waits hl hp hw),
    fun s hl => congrArg Host.Outcome.next (State.starvation_room hl),
    fun s ha h => ?idle, fun s x ha hx hn => ?killed, fun s ha h hc => congrArg Host.Outcome.next
      (State.turnEnd_extends ha (State.turnKilled_nil h) hc),
    fun s h => State.passTurn_none h, fun s n h => State.passTurn_some h⟩
  case idle =>
    have hst (c : Cmd) (hc : c ∈ s.sched.cmds) (ht : s.ofTurn c = true) :
        c.st ≠ .committing ∧ c.st ≠ .dispatched ∧ c.st ≠ .running := by
      obtain h | h | h := h c hc ht <;> simp [h]
    refine congrArg Host.Outcome.next ((State.turnEnd_passes ha fun c hc ht => (hst c hc ht).1).trans ?_)
    rw [State.turnKilled_nil fun c hc ht => (hst c hc ht).2]
    rfl
  case killed =>
    intro u
    have hkilled : s.turnKilled = [x] := hx
    have hend : s.turnEnd = ((s.endRows [x]).turnKill x).passTurn := by
      rw [State.turnEnd_passes ha hn, hkilled]
      rfl
    exact ⟨fun h => congrArg Host.Outcome.next (hend.trans (congrArg State.passTurn (if_neg (by omega)))),
      fun h => congrArg Host.Outcome.next (hend.trans (congrArg State.passTurn (if_pos (by omega))))⟩

end Sys2Proof.Machine

/-! PROOFS. Cores in and out of service (O20). -/

namespace Sys2Proof.Machine

/-! ### The core watchdog (R517) -/

/-- A core has work that a check without progress counts against. -/
def Core.busy (c : Core) : Bool :=
  c.st == .dispatched || c.st == .running || c.st == .committing || c.st == .killing

theorem Core.busy_iff (c : Core) :
    c.busy = true ↔ c.st = .dispatched ∨ c.st = .running ∨ c.st = .committing ∨ c.st = .killing := by
  simp [Core.busy, or_assoc]

section
variable {s : State} {n : Nat}

/-- An idle core and one with progress begin the count anew. -/
theorem State.watchCore_moving {progress : Bool} (h : (s.sched.core n).busy = false ∨ progress = true) :
    s.watchCore n progress = s.updCore n fun c => { c with stalled := 0 } := by
  have hb : (!(s.sched.core n).busy || progress) = true := by simpa using h
  exact if_pos hb

variable (hb : (s.sched.core n).busy = true)
include hb

theorem State.watchCore_stuck : s.watchCore n false =
    if 4 ≤ (s.sched.core n).stalled + 1 then s.coreHung n
    else s.updCore n fun c => { c with stalled := c.stalled + 1 } := by
  have hn : ¬(!(s.sched.core n).busy || false) = true := by simp [hb]
  exact if_neg hn

theorem State.watchCore_counts (h : (s.sched.core n).stalled < 3) :
    s.watchCore n false = s.updCore n fun c => { c with stalled := c.stalled + 1 } := by
  rw [State.watchCore_stuck hb, if_neg (by omega)]

theorem State.watchCore_hung (h : 3 ≤ (s.sched.core n).stalled) : s.watchCore n false = s.coreHung n := by
  rw [State.watchCore_stuck hb, if_pos (by omega)]

end

/-! ### Reload, OFFLINE and SLICE_US (R236, R245, R492) -/

theorem State.reloaded_reloading {s : State} {n : Nat} (h : (s.sched.core n).reloading = true) :
    s.reloaded n = s.updCore n fun c =>
      { c with st := .idle, reloading := false, mhz := min s.modeMhz c.targetMhz } := if_pos h

/-- With no image, or for OFFLINE cleared, no live stage is left without a core. -/
theorem State.setOffline_silent {s : State} {on : Bool} (h : on = false ∨ s.img.running = none) (seat n : Nat) :
    s.setOffline seat n on = s.setFld .coreCtrl [n] 0 1 (b2n on) := by
  obtain rfl | h := h
  · rfl
  · simp [State.setOffline, h]

section
variable (s : State) (who : Nat) {v : Nat}

theorem State.writeSlice_within (h : 100 ≤ v % 2 ^ 17 ∧ v % 2 ^ 17 ≤ 100000) :
    s.writeSlice who v = s.setFld .schedSlice [] 0 17 (v % 2 ^ 17) := if_neg (by omega)

theorem State.writeSlice_outside (h : v % 2 ^ 17 < 100 ∨ 100000 < v % 2 ^ 17) :
    s.writeSlice who v = s.log { notice 11 with
      initiator := who, arg0 := n64 (RN.off .schedSlice []), arg1 := n64 (v % 2 ^ 17) } := if_pos h

end

/-- Settles O20: a check follows whether the core is busy and how often it stood, and each of the three writes acts
where its guard holds. -/
theorem coreService : Obligations.CoreService := by
  refine ⟨fun s n _ => ?watchdog, fun s p0 p1 p2 p3 => rfl, fun s n hw hr => ?reload,
    fun s seat n on h => congrArg Host.Outcome.next (State.setOffline_silent h seat n),
    fun s seat v => ⟨fun hlo hhi => congrArg Host.Outcome.next (State.writeSlice_within s seat ⟨hlo, hhi⟩),
      fun h => congrArg Host.Outcome.next (State.writeSlice_outside s seat h)⟩⟩
  case watchdog =>
    intro c busy
    have hbusy : c.busy = true ↔ busy := c.busy_iff
    exact ⟨fun h => State.watchCore_moving (.inl (by simpa using mt hbusy.mp h)), State.watchCore_moving (.inr rfl),
      fun h => State.watchCore_counts (hbusy.mpr h), fun h => State.watchCore_hung (hbusy.mpr h)⟩
  case reload =>
    exact (congrArg (fun u : State => Host.Outcome.next (u.reloaded n)) hw).trans
      (congrArg Host.Outcome.next (State.reloaded_reloading hr))

end Sys2Proof.Machine

/-! PROOFS. Patrol scrub, refresh rates and the meters (O35). -/

namespace Sys2Proof.Machine

/-! ### Patrol scrub (R438, R440) -/

theorem State.fld_lt (s : State) (r : RN) (ix : List Nat) (lo w : Nat) : s.fld r ix lo w < 2 ^ w :=
  Nat.mod_lt _ (Nat.two_pow_pos w)

/-- A corrected error of a granule, flagged and counted in all and for its channel. -/
def State.scrubCorrected (s : State) (g : Nat) : State :=
  ((s.setFlag .memErr [] 0).count .memCeCount []).count .memChCe [channelOf g]

/-- A granule found uncorrectable by the scrub. -/
def State.scrubLost (s : State) (g : Nat) : State :=
  ({ s with mc := { s.mc with bad := g :: s.mc.bad.filter (· != g) } } : State).noteUe g true 0x40

/-- The scrub acts at an address: it is enabled, memory is trained, and the address lies in DRAM. -/
def State.scrubOpen (s : State) (a : Nat) : Prop :=
  s.fld .memScrubCfg [] 8 1 = 1 ∧ s.fld .memStatus [] 0 1 = 1 ∧ a < dramEnd

section
variable {s : State} {a : Nat}

theorem State.scrubOpen_iff :
    s.scrubOpen a ↔ ¬(s.fld .memScrubCfg [] 8 1 = 0 ∨ s.fld .memStatus [] 0 1 = 0 ∨ dramEnd ≤ a) := by
  have hcfg := s.fld_lt .memScrubCfg [] 8 1
  have hstatus := s.fld_lt .memStatus [] 0 1
  unfold State.scrubOpen
  omega

theorem State.scrub_closed (h : ¬s.scrubOpen a) (ue ce : Bool) : s.scrub a ue ce = s :=
  if_pos (not_not.mp (mt State.scrubOpen_iff.mpr h))

/-- The corrected error counts first, then the uncorrectable one is noted, and the position moves last. -/
theorem State.scrub_open (h : s.scrubOpen a) (ue ce : Bool) : s.scrub a ue ce =
    let u := if ce then s.scrubCorrected (granule a) else s
    (if ue then u.scrubLost (granule a) else u).scrubPos (granule a) :=
  if_neg (State.scrubOpen_iff.mp h)

end

/-! ### Refresh rates (R439) -/

/-- Some channel's refresh requirement is above the base rate. -/
def State.anyHot (s : State) : Bool := (List.range 32).any fun k => decide (3 < s.fld .memChStatus [k] 1 3)

theorem State.anyHot_eq_true {s : State} (h : ∃ k, k < 32 ∧ 3 < s.fld .memChStatus [k] 1 3) : s.anyHot = true := by
  simpa [State.anyHot] using h

theorem State.anyHot_eq_false {s : State} (h : ∀ k, k < 32 → s.fld .memChStatus [k] 1 3 ≤ 3) :
    s.anyHot = false := by
  simpa [State.anyHot] using h

section
variable {s : State} {c : Nat} (rate : Nat)

theorem State.refreshRead_unused (h : s.fld .memChStatus [c] 0 1 = 0) : s.refreshRead c rate = s := if_pos h

/-- The rate of a channel in use shows first, so its own rate counts for the hot bit. -/
theorem State.refreshRead_used (h : s.fld .memChStatus [c] 0 1 = 1) : s.refreshRead c rate =
    let u := s.setFld .memChStatus [c] 1 3 rate
    u.setFld .memStatus [] 7 1 (b2n u.anyHot) := if_neg (by omega)

end

/-! ### Utilisation meters (R117, R247, R452) -/

theorem State.meter_pipe (s : State) {p : Nat} (h : p < 4) (v : Nat) :
    s.meter p v = s.setReg .linePipeLoad [p] (load16 v 0) := if_pos h

theorem State.meter_core (s : State) {c : Nat} (h : c < 4) (v : Nat) :
    s.meter (4 + c) v = s.setReg .coreLoad [c] (load16 v 0 + load16 v 16 * 65536) := by
  rw [State.meter, if_neg (by omega), if_pos (by omega), Nat.add_sub_cancel_left]

/-! ### The counts of a second (R274, R277, R303) -/

/-- A number of the signed range reads back from its unsigned form. -/
theorem toSigned_toUnsigned (w : Nat) (v : Int) (hlo : -(2 ^ w) ≤ v) (hhi : v < 2 ^ w) :
    toSigned (w + 1) (toUnsigned (w + 1) v) = v := by
  have hpow : (2 : Int) ^ (w + 1) = 2 * 2 ^ w := by ring
  have hcast : ((toUnsigned (w + 1) v % 2 ^ (w + 1) : Nat) : Int) = v % 2 ^ (w + 1) := by
    have hnonneg : 0 ≤ v % (2 : Int) ^ (w + 1) := Int.emod_nonneg _ (by positivity)
    rw [toUnsigned, Int.natCast_mod, Int.toNat_of_nonneg hnonneg]
    exact Int.emod_emod_of_dvd v (by simp)
  have hhalf : ((2 ^ w : Nat) : Int) = 2 ^ w := by simp
  simp only [toSigned, Nat.add_sub_cancel]
  rcases le_or_gt 0 v with hpos | hneg
  · rw [Int.emod_eq_of_lt hpos (by omega)] at hcast
    rw [if_pos (by omega), hcast]
  · rw [← Int.add_emod_right, Int.emod_eq_of_lt (by omega) (by omega)] at hcast
    rw [if_neg (by omega), hcast, add_sub_cancel_right]

/-- The registers that the end of a second shows. -/
def State.showRates (s : State) : State :=
  (((s.setFld .ledgInFlight [] 0 21 s.liveParts.length).setFld .ledgOpenRate [] 0 18
    (sat s.ledg.opened (2 ^ 18 - 1))).setReg .ledgSlack []
      (toUnsigned 32 (max (-(2 ^ 31)) (min s.ledg.slack 0x7FFFFFFF)))).setReg .ejInsertRate []
        (sat s.motion.inserted 0xFFFFFFFF)

theorem State.rates_eq (s : State) : s.rates = { s.showRates with
    ledg := { s.ledg with opened := 0, slack := 0x7FFFFFFF }, motion := { s.motion with inserted := 0 } } := rfl

section
variable (s : State)

theorem State.ledgInFlight_showRates : s.showRates.fld .ledgInFlight [] 0 21 = s.liveParts.length % 2 ^ 21 := by
  rw [State.showRates, State.fld_setReg_other _ _ _ _ _ _ _ _ (by decide),
    State.fld_setReg_other _ _ _ _ _ _ _ _ (by decide), State.fld_setFld_other _ _ _ _ _ _ _ _ _ _ (by decide),
    State.fld_setFld_same _ _ _ _ _ _ (by decide)]

theorem State.ledgOpenRate_showRates : s.showRates.fld .ledgOpenRate [] 0 18 = min s.ledg.opened (2 ^ 18 - 1) := by
  rw [State.showRates, State.fld_setReg_other _ _ _ _ _ _ _ _ (by decide),
    State.fld_setReg_other _ _ _ _ _ _ _ _ (by decide), State.fld_setFld_same _ _ _ _ _ _ (by decide)]
  exact Nat.mod_eq_of_lt ((Nat.min_le_right ..).trans_lt (by decide))

theorem State.ejInsertRate_showRates : s.showRates.reg .ejInsertRate [] = min s.motion.inserted 0xFFFFFFFF := by
  rw [State.showRates, State.reg_setReg_same]
  exact Nat.mod_eq_of_lt ((Nat.min_le_right ..).trans_lt (by decide))

theorem State.ledgSlack_showRates (hlo : -(2 ^ 31) ≤ s.ledg.slack) (hhi : s.ledg.slack ≤ 0x7FFFFFFF) :
    toSigned 32 (s.showRates.reg .ledgSlack []) = s.ledg.slack := by
  rw [State.showRates, State.reg_setReg_other _ _ _ _ _ _ (by decide), State.reg_setReg_same, min_eq_left hhi,
    max_eq_right hlo, toSigned, Nat.mod_mod]
  exact toSigned_toUnsigned 31 _ hlo (by omega)

end

/-- Settles O35: the scrub and the refresh reading act where their guards hold, each meter is its own branch, and the
counts of a second read back from the registers that show them. -/
theorem scrubAndMeters : Obligations.ScrubAndMeters := by
  refine ⟨fun s a ue ce => ?scrub, fun s c r => ?refresh, fun s v => ?meters, fun s => ?rates⟩
  case scrub =>
    exact ⟨fun h => congrArg Host.Outcome.next (State.scrub_closed h ue ce),
      fun h => ⟨congrArg Host.Outcome.next (State.scrub_open h false false),
        congrArg Host.Outcome.next (State.scrub_open h false true),
        congrArg Host.Outcome.next (State.scrub_open h true false),
        congrArg Host.Outcome.next (State.scrub_open h true true)⟩,
      fun h => if_neg h⟩
  case refresh =>
    refine ⟨fun h => congrArg Host.Outcome.next (State.refreshRead_unused r.toNat h), fun h => ?_⟩
    intro u
    have hexec : exec (.refreshRateRead c r) s = .next (u.setFld .memStatus [] 7 1 (b2n u.anyHot)) :=
      congrArg Host.Outcome.next (State.refreshRead_used r.toNat h)
    exact ⟨fun hot => by rw [hexec, State.anyHot_eq_true hot]; rfl,
      fun cool => by rw [hexec, State.anyHot_eq_false cool]; rfl⟩
  case meters =>
    exact ⟨fun p hp => congrArg Host.Outcome.next (s.meter_pipe hp v.toNat),
      fun c hc => congrArg Host.Outcome.next (s.meter_core hc v.toNat), rfl, rfl, rfl⟩
  case rates =>
    refine ⟨s.rates, rfl, ?_⟩
    rw [State.rates_eq]
    exact ⟨s.ledgInFlight_showRates, s.ledgOpenRate_showRates, s.ejInsertRate_showRates,
      fun v hv hlo hhi => hv ▸ s.ledgSlack_showRates (hv ▸ hlo) (hv ▸ hhi), rfl, rfl, rfl⟩

end Sys2Proof.Machine

/-! PROOFS. Encoder channels: their edges, their index, their SSI reads, and their loss (O48). -/

namespace Sys2Proof.Machine

/-! ### Channels as parts of the state -/

theorem State.enc_congr {s u : State} (h : u.motion = s.motion) (n : Nat) : u.enc n = s.enc n := by
  rw [State.enc, State.enc, h]

section
variable (s : State) (n : Nat)

@[simp] theorem State.enc_setEnc_same (e : Enc) : (s.setEnc n e).enc n = e := Tab.getD_put_same _ n e _

@[simp] theorem State.enc_setFlag (r : RN) (ix : List Nat) (b : Nat) : (s.setFlag r ix b).enc n = s.enc n :=
  State.enc_congr (s.setFlag_motion r ix b) n

@[simp] theorem State.enc_flagLog (r : RN) (ix : List Nat) (b : Nat) (x : EvRec) :
    (s.flagLog r ix b x).enc n = s.enc n :=
  State.enc_congr (s.flagLog_motion r ix b x) n

@[simp] theorem State.now_setFlag (r : RN) (ix : List Nat) (b : Nat) : (s.setFlag r ix b).now = s.now :=
  congrArg (fun t : TimeState => t.tb1.ns) (s.setFlag_time r ix b)

end

/-! ### Position and state of a channel (R283 to R285) -/

/-- Settling RUN or STOPPED changes the state alone, and neither enters LOST nor leaves it. -/
theorem Enc.settleState_eq (e : Enc) (t : Nat) :
    ∃ st, e.settleState t = { e with st := st } ∧ (st = .lost ↔ e.st = .lost) := by
  unfold Enc.settleState
  split
  case isTrue => exact ⟨e.st, rfl, Iff.rfl⟩
  case isFalse h =>
    have hl : e.st ≠ .lost := fun hl => h (by simp [hl])
    split
    next p _ => exact ⟨if p ≤ 100000000 then .run else .stopped, rfl, by split <;> simp [hl]⟩
    next => exact ⟨.stopped, rfl, by simp [hl]⟩

theorem Enc.settleState_lost (e : Enc) (t : Nat) : (e.settleState t).st = .lost ↔ e.st = .lost := by
  obtain ⟨st, he, hst⟩ := e.settleState_eq t
  rw [he]
  exact hst

theorem posSub_self (a : Pos) : posSub a a = 0 := by simp [posSub]

/-- Forward, the held position is not behind the previous one. -/
theorem Enc.hold_forward {e : Enc} (h : e.forward = true) (before r : Pos) : 0 ≤ posSub (e.hold before r) before := by
  simp only [Enc.hold, h, if_true]
  split
  · exact (posSub_self before).ge
  · omega

/-- Backward, the previous position is not behind the held one. -/
theorem Enc.hold_backward {e : Enc} (h : e.forward = false) (before r : Pos) :
    0 ≤ posSub before (e.hold before r) := by
  simp only [Enc.hold, h, Bool.false_eq_true, if_false]
  split
  · exact (posSub_self before).ge
  · omega

section
variable (e : Enc) (up : Bool) (k te t : Nat)

/-- A move puts the counter, the direction and the latch time, and leaves MOTION record and LOST. -/
theorem Enc.move_fields : (e.move up k te t).count =
      (if up then e.count + BitVec.ofNat 48 k else e.count - BitVec.ofNat 48 k) ∧
    (e.move up k te t).forward = up ∧ (e.move up k te t).cfg = e.cfg ∧ (e.move up k te t).te = te := by
  unfold Enc.move
  extract_lets _ _ _ _ x raw
  obtain ⟨st, hx, -⟩ :=
    Enc.settleState_eq { x with p := if up != e.forward then raw else x.hold (e.posAt t) raw } te
  rw [hx]
  exact ⟨rfl, rfl, rfl, rfl⟩

theorem Enc.move_lost : (e.move up k te t).st = .lost ↔ e.st = .lost := Enc.settleState_lost _ te

/-- While the direction holds, a move holds P against the previous position. -/
theorem Enc.move_p (h : e.forward = up) :
    ∃ (x : Enc) (r : Pos), x.forward = up ∧ (e.move up k te t).p = x.hold (e.posAt t) r := by
  subst h
  unfold Enc.move
  extract_lets _ turned _ _ x raw
  obtain ⟨st, hx, -⟩ := Enc.settleState_eq { x with p := if turned then raw else x.hold (e.posAt t) raw } te
  have ht : turned = false := bne_self_eq_false _
  rw [hx]
  exact ⟨x, raw, rfl, by simp [ht]⟩

end

/-! ### A channel that is lost (R271, R285) -/

section
variable {s u : State} {n : Nat}

theorem State.loseEnc_live (h : (s.enc n).st ≠ .lost) : s.loseEnc n =
    (s.setEnc n { s.enc n with st := .lost, p := (s.enc n).posAt s.now }).flagLog .encErr [n] 7
      { errorRec 13 with status := 0x95, arg0 := n64 n } := by
  simp [State.loseEnc, h]

theorem State.afterEnc_keeps (h : (u.enc n).st = .lost → (s.enc n).st = .lost) : s.afterEnc u n = u := by
  by_cases hu : (u.enc n).st = .lost
  · simp [State.afterEnc, lostNow, h hu]
  · simp [State.afterEnc, lostNow, hu]

theorem State.afterEnc_setEnc {e : Enc} (h : e.st = .lost → (s.enc n).st = .lost) :
    s.afterEnc (u.setEnc n e) n = u.setEnc n e :=
  State.afterEnc_keeps (by rwa [State.enc_setEnc_same])

/-- A channel that an event takes into LOST has its undecided parts dealt with. -/
theorem State.afterEnc_loseEnc (hs : (s.enc n).st ≠ .lost) (hu : (u.enc n).st ≠ .lost) :
    s.afterEnc (u.loseEnc n) n = (u.loseEnc n).positionLost n := by
  have hl : ((u.loseEnc n).enc n).st = .lost := by rw [State.loseEnc_live hu]; simp
  simp [State.afterEnc, lostNow, hs, hl]

end

/-! ### Edges, wires and the index of a channel (R280, R281) -/

section
variable {s : State} {n : Nat}

theorem State.encEdge_counted (hi : (s.enc n).incremental = true) (hw : (s.enc n).wireLost = false) (a : Bool) :
    s.encEdge n a false = s.setEnc n ((s.enc n).move (a != EncCfg.direction (s.enc n).cfg) 1 s.now s.now) := by
  simp [State.encEdge, hi, hw]

theorem State.encEdge_illegal (hi : (s.enc n).incremental = true) (hw : (s.enc n).wireLost = false) (a : Bool) :
    s.encEdge n a true = (s.setFlag .encErr [n] 0).loseEnc n := by
  simp [State.encEdge, hi, hw]

theorem State.encWire_lost (ht : EncCfg.type (s.enc n).cfg = 1 ∨ EncCfg.type (s.enc n).cfg = 3)
    (hw : (s.enc n).wireLost = false) :
    s.encWire n = ((s.setEnc n { s.enc n with wireLost := true }).setFlag .encErr [n] 1).loseEnc n := by
  obtain ht | ht := ht <;> simp [State.encWire, ht, hw]

end

section
variable {s : State} {n : Nat} (hi : (s.enc n).incremental = true) (hw : (s.enc n).wireLost = false)
include hi hw

/-- The pulse is judged against the counts since the last one. -/
theorem State.encIndex_counted :
    let e := s.enc n
    let u := s.setEnc n { e with indexSeen := true, indexCount := e.count, indexPulses := e.indexPulses + 1 }
    let moved := ((e.count - e.indexCount).toInt).natAbs
    s.encIndex n = if EncCfg.indexCheck e.cfg ≠ 0 ∧ e.indexSeen = true ∧ moved ≠ EncCfg.indexCheck e.cfg then
      u.flagLog .encErr [n] 2 { warning 13 with arg0 := n64 n, arg1 := n64 moved } else u := by
  simp [State.encIndex, hi, hw, and_assoc]

end

/-! ### Stopping, and leaving LOST (R285) -/

section
variable {s : State} {n : Nat}

theorem State.encStop_slow (hr : (s.enc n).st = .run)
    (hp : ∀ p, (s.enc n).periodAt s.now = some p → 100000000 < p) :
    s.encStop n = s.setEnc n { s.enc n with st := .stopped, p := (s.enc n).posAt s.now } := by
  unfold State.encStop
  cases hq : (s.enc n).periodAt s.now with
  | none => simp [hr, hq]
  | some p => simp [hr, hq, hp p hq]

theorem State.encStop_ignored
    (h : (s.enc n).st ≠ .run ∨ ∃ p, (s.enc n).periodAt s.now = some p ∧ p ≤ 100000000) : s.encStop n = s := by
  unfold State.encStop
  obtain h | ⟨p, hp, hle⟩ := h
  · simp [h]
  · simp [hp, hle.not_gt]

theorem State.clearLost_lost (h : (s.enc n).st = .lost) : s.clearLost n = s.setEnc n
    (({ s.enc n with st := .stopped, ssiBad := 0, ssiValue := none } : Enc).settleState s.now) := by
  simp [State.clearLost, h]

theorem State.clearLost_live (h : (s.enc n).st ≠ .lost) : s.clearLost n = s := by
  simp [State.clearLost, h]

end

/-! ### SSI reads (R282) -/

theorem State.ssiStart_ssi {s : State} {n : Nat} (h : (s.enc n).ssi = true) :
    s.ssiStart n = s.setEnc n { s.enc n with ssiReadAt := s.now } := if_pos h

/-- The count and the flags of a bad read, before what ERR_LIMIT makes of them. -/
def State.noteBadRead (s : State) (n : Nat) (flags : List Nat) : State :=
  flags.foldl (fun u f => u.setFlag .encErr [n] f) (s.setEnc n { s.enc n with ssiBad := (s.enc n).ssiBad + 1 })

theorem State.enc_noteBadRead (s : State) (n : Nat) (flags : List Nat) :
    (s.noteBadRead n flags).enc n = { s.enc n with ssiBad := (s.enc n).ssiBad + 1 } :=
  (State.foldl_kept (·.enc n) (fun t f => t.enc_setFlag n .encErr [n] f) flags _).trans (s.enc_setEnc_same n _)

theorem State.afterEnc_ssiBad {s : State} {n : Nat} (h : (s.enc n).st ≠ .lost) (flags : List Nat) :
    s.afterEnc (s.ssiBad n flags) n =
      if (s.enc n).ssiBad + 1 < EncCfg.errLimit (s.enc n).cfg then s.noteBadRead n flags
      else ((s.noteBadRead n flags).loseEnc n).positionLost n := by
  have hb : ((s.noteBadRead n flags).enc n).st ≠ .lost := by rwa [State.enc_noteBadRead]
  split
  next hlt =>
    rw [State.ssiBad, if_neg hlt.not_ge]
    exact State.afterEnc_keeps fun hl => absurd hl hb
  next hge =>
    rw [State.ssiBad, if_pos (not_lt.mp hge)]
    exact State.afterEnc_loseEnc h hb

section
variable (e : Enc) (word : Nat) (errBit : Bool) (crc : Nat)

/-- The value that a word stands for. -/
def Enc.wordValue : Nat :=
  if EncCfg.gray e.cfg then grayDecode (EncCfg.wordBits e.cfg) (word % 2 ^ EncCfg.wordBits e.cfg)
  else word % 2 ^ EncCfg.wordBits e.cfg

/-- The CRC that a word ought to carry. -/
def Enc.wordCrc : Nat :=
  let w := EncCfg.wordBits e.cfg
  let raw := word % 2 ^ w
  let k := EncCfg.crcBits e.cfg
  let sum := if EncCfg.errBit e.cfg = 0 then crcBits k (EncCfg.crcPoly e.cfg) (EncCfg.crcInit e.cfg % 2 ^ k) w raw
    else crcBits k (EncCfg.crcPoly e.cfg) (EncCfg.crcInit e.cfg % 2 ^ k) (w + 1) (raw * 2 + b2n errBit)
  if EncCfg.crcInvert e.cfg then 2 ^ k - 1 - sum else sum

/-- How far a word lies from the last good one, modulo the word. -/
def Enc.wordStep : Int :=
  (e.ssiValue.map fun old => toSigned (EncCfg.wordBits e.cfg)
    ((e.wordValue word + 2 ^ EncCfg.wordBits e.cfg - old) % 2 ^ EncCfg.wordBits e.cfg)).getD 0

/-- The flags of the checks that a word fails. -/
def Enc.wordFails : List Nat :=
  (if EncCfg.crcBits e.cfg ≠ 0 ∧ crc % 2 ^ EncCfg.crcBits e.cfg ≠ e.wordCrc word errBit then [3] else []) ++
  (if (EncCfg.errBit e.cfg = 1 ∧ errBit = true) ∨ (EncCfg.errBit e.cfg = 2 ∧ errBit = false) then [4] else []) ++
  (if EncCfg.maxStep e.cfg < (e.wordStep word).natAbs then [6] else [])

/-- The counts that a word moves the channel by. -/
def Enc.wordMove : Int := if EncCfg.direction e.cfg then -e.wordStep word else e.wordStep word

/-- The channel after a good word that moves no count, with the counter given. -/
def Enc.keepWord (count : BitVec 48) (now : Nat) : Enc :=
  let y : Enc := { e with
    ssiValue := some (e.wordValue word), ssiBad := 0, count := count, te := e.ssiReadAt, lastStep := 1 }
  ({ y with p := y.hold (e.posAt now) (y.rawPos now) } : Enc).settleState now

end

/-- A word is a bad read by the checks it fails, else it moves the counter, else it keeps or places it. -/
theorem State.ssiWord_eq {s : State} {n : Nat} (hs : (s.enc n).ssi = true) (hw : (s.enc n).wireLost = false)
    (word : Nat) (errBit : Bool) (crc : Nat) : s.ssiWord n word errBit crc =
      if (s.enc n).wordFails word errBit crc ≠ [] then s.ssiBad n ((s.enc n).wordFails word errBit crc)
      else if (s.enc n).wordMove word ≠ 0 then s.setEnc n
        (({ s.enc n with ssiValue := some ((s.enc n).wordValue word), ssiBad := 0 } : Enc).move
          (decide (0 < (s.enc n).wordMove word)) ((s.enc n).wordMove word).natAbs (s.enc n).ssiReadAt s.now)
      else s.setEnc n ((s.enc n).keepWord word
        (if (s.enc n).ssiValue.isNone then BitVec.ofNat 48 ((s.enc n).wordValue word) else (s.enc n).count) s.now) := by
  unfold State.ssiWord
  extract_lets e w raw withErr bits k want want' v moved bad before good d count e1
  have hmoved : moved = e.wordStep word := by
    unfold moved Enc.wordStep
    cases e.ssiValue <;> rfl
  have hwant : want' = e.wordCrc word errBit := by
    unfold want' want bits withErr Enc.wordCrc
    by_cases h : EncCfg.errBit e.cfg = 0 <;> simp [h] <;> rfl
  have hbad : bad = e.wordFails word errBit crc := by
    unfold bad Enc.wordFails
    rw [hwant, hmoved]
    simp [k]
  have hd : d = e.wordMove word := by
    unfold d Enc.wordMove
    rw [hmoved]
  have hlive : (!e.ssi || e.wireLost) = false := by simp [e, hs, hw]
  rw [if_neg (by simp [hlive]), hbad, hd]
  simp only [Bool.not_eq_true', List.isEmpty_eq_false_iff]
  rfl

section
variable {s : State} {n : Nat} (hs : (s.enc n).ssi = true) (hw : (s.enc n).wireLost = false) {word : Nat}
  {errBit : Bool} {crc : Nat}
include hs hw

theorem State.ssiWord_bad (hf : (s.enc n).wordFails word errBit crc ≠ []) :
    s.ssiWord n word errBit crc = s.ssiBad n ((s.enc n).wordFails word errBit crc) := by
  rw [State.ssiWord_eq hs hw, if_pos hf]

variable (hf : (s.enc n).wordFails word errBit crc = [])
include hf

theorem State.afterEnc_ssiWord_first (hv : (s.enc n).ssiValue = none) : s.afterEnc (s.ssiWord n word errBit crc) n =
    s.setEnc n ((s.enc n).keepWord word (BitVec.ofNat 48 ((s.enc n).wordValue word)) s.now) := by
  have hd : (s.enc n).wordMove word = 0 := by simp [Enc.wordMove, Enc.wordStep, hv]
  rw [State.ssiWord_eq hs hw, if_neg (not_not.mpr hf), if_neg (not_not.mpr hd), if_pos (by simp [hv])]
  exact State.afterEnc_setEnc (Enc.settleState_lost _ _).mp

theorem State.afterEnc_ssiWord_same (hv : (s.enc n).ssiValue.isSome = true) (hd : (s.enc n).wordStep word = 0) :
    s.afterEnc (s.ssiWord n word errBit crc) n = s.setEnc n ((s.enc n).keepWord word (s.enc n).count s.now) := by
  have hd : (s.enc n).wordMove word = 0 := by simp [Enc.wordMove, hd]
  rw [State.ssiWord_eq hs hw, if_neg (not_not.mpr hf), if_neg (not_not.mpr hd),
    if_neg (by simpa [Option.isSome_iff_ne_none] using hv)]
  exact State.afterEnc_setEnc (Enc.settleState_lost _ _).mp

theorem State.afterEnc_ssiWord_moved (hd : (s.enc n).wordStep word ≠ 0) :
    s.afterEnc (s.ssiWord n word errBit crc) n = s.setEnc n
      (({ s.enc n with ssiValue := some ((s.enc n).wordValue word), ssiBad := 0 } : Enc).move
        (decide (0 < (s.enc n).wordMove word)) ((s.enc n).wordMove word).natAbs (s.enc n).ssiReadAt s.now) := by
  have hd : (s.enc n).wordMove word ≠ 0 := by
    unfold Enc.wordMove
    split
    · exact neg_ne_zero.mpr hd
    · exact hd
  rw [State.ssiWord_eq hs hw, if_neg (not_not.mpr hf), if_pos hd]
  exact State.afterEnc_setEnc (Enc.move_lost ..).mp

end

/-- Settles O48: each event acts where its guard holds, a channel that it takes into LOST has its parts dealt with, and
an SSI word is judged by the list of the checks it fails. -/
theorem encoders : Obligations.Encoders := by
  refine ⟨fun s n a hi hw => ?edge, fun e up k te t => ?move, fun s n hw hl => ?lost, fun s n => rfl,
    fun s n hi hw => ?index, fun s n => ⟨fun hr hp => congrArg Host.Outcome.next (State.encStop_slow hr hp),
      fun h => congrArg Host.Outcome.next (State.encStop_ignored h)⟩,
    fun s seat n => ⟨fun h => congrArg Host.Outcome.next (State.clearLost_lost h),
      fun h => congrArg Host.Outcome.next (State.clearLost_live h)⟩,
    fun s n h => congrArg Host.Outcome.next (State.ssiStart_ssi h), fun s n hs hl => ?ssi⟩
  case edge =>
    refine congrArg Host.Outcome.next ?_
    rw [State.encEdge_counted hi hw]
    exact State.afterEnc_setEnc (Enc.move_lost ..).mp
  case move =>
    obtain ⟨hcount, hforward, hcfg, hte⟩ := e.move_fields up k te t
    refine ⟨hcount, hforward, hcfg, hte, fun hup hf => ?_, fun hup hf => ?_⟩
    · obtain ⟨x, r, hx, hp⟩ := e.move_p up k te t (hf.trans hup.symm)
      exact hp ▸ Enc.hold_forward (hx.trans hup) _ r
    · obtain ⟨x, r, hx, hp⟩ := e.move_p up k te t (hf.trans hup.symm)
      exact hp ▸ Enc.hold_backward (hx.trans hup) _ r
  case lost =>
    intro e lost
    refine ⟨fun a hi => congrArg Host.Outcome.next ?_, fun ht => congrArg Host.Outcome.next ?_⟩
    · rw [State.encEdge_illegal hi hw, State.afterEnc_loseEnc hl (by simpa), State.loseEnc_live (by simpa)]
      simp only [State.enc_setFlag, State.now_setFlag, lost, e]
    · rw [State.encWire_lost ht hw, State.afterEnc_loseEnc hl (by simpa), State.loseEnc_live (by simpa)]
      simp only [State.enc_setFlag, State.now_setFlag, State.enc_setEnc_same]
      rfl
  case index =>
    intro e u moved check
    have hx : exec (.indexPulse n) s = .next (if check ≠ 0 ∧ e.indexSeen = true ∧ moved ≠ check then
      u.flagLog .encErr [n.val] 2 { warning 13 with arg0 := n64 n.val, arg1 := n64 moved } else u) :=
      congrArg Host.Outcome.next (State.encIndex_counted hi hw)
    refine ⟨fun h => hx.trans (congrArg Host.Outcome.next (if_neg ?_)), fun hc hseen hm =>
      hx.trans (congrArg Host.Outcome.next (if_pos ⟨hc, hseen, hm⟩))⟩
    rintro ⟨hc, hseen, hm⟩
    obtain h | h | h := h
    · exact hc h
    · exact Bool.false_ne_true (h.symm.trans hseen)
    · exact hm h
  case ssi =>
    intro e bad badRead w value
    have hbad (flags : List Nat) : s.afterEnc (s.ssiBad n flags) n = badRead flags := State.afterEnc_ssiBad hl flags
    refine ⟨congrArg Host.Outcome.next ((if_pos hs).trans (hbad [5])), fun hw word eb crc => ?_⟩
    exact ⟨fun hf => congrArg Host.Outcome.next
        ((congrArg (s.afterEnc · n) (State.ssiWord_bad hs hw hf)).trans (hbad _)),
      fun hf hv => congrArg Host.Outcome.next (State.afterEnc_ssiWord_first hs hw hf hv),
      fun hf hv hd => congrArg Host.Outcome.next (State.afterEnc_ssiWord_same hs hw hf hv hd),
      fun hf hd => congrArg Host.Outcome.next (State.afterEnc_ssiWord_moved hs hw hf hd)⟩

end Sys2Proof.Machine

/-! PROOFS. Ratio dividers, and what enters and leaves the eject list (O49). -/

namespace Sys2Proof.Machine

/-! ### Dividers (R287 to R290) -/

section
variable (s : State) (d : Nat) (x : Divider)

@[simp] theorem State.writeMap_motion (k : Nat) (suppressed : Bool) :
    (s.writeMap d x k suppressed).motion = s.motion := by
  simp only [State.writeMap, apply_ite State.motion, State.store_motion, ite_self]

@[simp] theorem State.writeMap_time (k : Nat) (suppressed : Bool) :
    (s.writeMap d x k suppressed).time = s.time := by
  simp only [State.writeMap, apply_ite State.time, State.store_time, ite_self]

@[simp] theorem State.writeMap_now (k : Nat) (suppressed : Bool) :
    (s.writeMap d x k suppressed).now = s.now := by
  rw [State.now, State.now, State.writeMap_time]

theorem State.trigPulse_motion (q ns : Nat) : (s.trigPulse q ns).motion = s.motion := by
  unfold State.trigPulse
  dsimp only
  split <;> rfl

theorem State.trigPulse_time (q ns : Nat) : (s.trigPulse q ns).time = s.time := by
  unfold State.trigPulse
  dsimp only
  split <;> rfl

end

/-- P at a channel is what its record and the time make of it. -/
theorem State.encPos_congr {s u : State} (he : u.motion.encs = s.motion.encs) (ht : u.time = s.time) (n : Nat) :
    u.encPos n = s.encPos n := by
  rw [State.encPos, State.encPos, State.enc, State.enc, State.now, State.now, he, ht]

/-- No further event is suppressed within the tick where P has not passed the next grid point. -/
theorem State.suppressPassed_before {s : State} {d : Nat} {x : Divider} (hx : s.divider d = some x)
    (hr : reached (s.encPos (Div.encoder x.cfg)) (x.grid x.k) = false) (fuel : Nat) : s.suppressPassed d fuel = s := by
  cases fuel with
  | zero => rfl
  | succ fuel => simp [State.suppressPassed, hx, hr]

/-- The state after a suppressed event of a divider. -/
def State.suppress (s : State) (d : Nat) (x : Divider) : State :=
  let u := (s.writeMap d x x.k true).setDivider d { x with k := x.k + 1 }
  ({ u with motion := { u.motion with
    suppressed := Tab.put u.motion.suppressed d (Tab.getD s.motion.suppressed d 0 + 1) } } : State).setFlag
      .divErr [d] 0

/-- The state after an event of a divider that its output shows. -/
def State.pulseDivider (s : State) (d : Nat) (x : Divider) : State :=
  let u := (s.writeMap d x x.k false).setDivider d { x with k := x.k + 1, lastEvent := some s.now }
  if Div.trigOut x.cfg = 0xFF then u else u.trigPulse (Div.trigOut x.cfg) (Div.pulseNs x.cfg)

section
variable (s : State) (d : Nat) (x : Divider)

theorem State.suppress_motion : (s.suppress d x).motion = { s.motion with
    divs := Tab.put s.motion.divs d { x with k := x.k + 1 }
    suppressed := Tab.put s.motion.suppressed d (Tab.getD s.motion.suppressed d 0 + 1) } := by
  simp [State.suppress, State.setDivider]

theorem State.suppress_time : (s.suppress d x).time = s.time := by
  simp [State.suppress, State.setDivider]

theorem State.pulseDivider_motion : (s.pulseDivider d x).motion = { s.motion with
    divs := Tab.put s.motion.divs d { x with k := x.k + 1, lastEvent := some s.now } } := by
  simp only [State.pulseDivider, apply_ite State.motion, State.trigPulse_motion, ite_self]
  simp [State.setDivider]

theorem State.pulseDivider_time : (s.pulseDivider d x).time = s.time := by
  simp only [State.pulseDivider, apply_ite State.time, State.trigPulse_time, ite_self]
  simp [State.setDivider]

end

section
variable {s : State} {d : Nat} {x : Divider} (hx : s.divider d = some x)
include hx

theorem State.suppressEvent_eq : s.suppressEvent d = s.suppress d x := by
  simp [State.suppressEvent, State.suppress, State.setDivider, hx]

theorem State.dividerEvent_ignored (h : (s.enc (Div.encoder x.cfg)).forward = false ∨
    reached (s.encPos (Div.encoder x.cfg)) (x.grid x.k) = false) : s.dividerEvent d = s := by
  rw [State.encPos] at h
  unfold State.dividerEvent
  rw [hx]
  obtain h | h := h <;> simp [h]

variable (hs : x.stopped = false) (hh : s.field.held = false) (he : (s.enc (Div.encoder x.cfg)).st ≠ .off)
  (hf : (s.enc (Div.encoder x.cfg)).forward = true) (hr : reached (s.encPos (Div.encoder x.cfg)) (x.grid x.k) = true)
include hs hh he hf hr

/-- An event is suppressed within MIN_PERIOD of the last one, and with it the grid points P has passed since. -/
theorem State.dividerEvent_reached : s.dividerEvent d =
    (if ∃ t, x.lastEvent = some t ∧ s.now < t + Div.minPeriod x.cfg then s.suppress d x
      else s.pulseDivider d x).suppressPassed d 65536 := by
  rw [State.encPos] at hr
  unfold State.dividerEvent
  rw [hx]
  dsimp only
  rw [if_neg (by simp [hs, hh, he, hf, hr]), State.suppressEvent_eq hx]
  cases x.lastEvent with
  | none => simp [State.pulseDivider]
  | some t => simp [State.pulseDivider]

variable (hn : reached (s.encPos (Div.encoder x.cfg)) (x.grid (x.k + 1)) = false)
include hn

theorem State.dividerEvent_early (ht : ∃ t, x.lastEvent = some t ∧ s.now < t + Div.minPeriod x.cfg) :
    s.dividerEvent d = s.suppress d x := by
  have hd : (s.suppress d x).divider d = some { x with k := x.k + 1 } := by
    rw [State.divider, State.suppress_motion]
    exact Tab.get_put_same _ d _
  rw [State.dividerEvent_reached hx hs hh he hf hr, if_pos ht]
  refine State.suppressPassed_before hd ?_ 65536
  rw [State.encPos_congr (by rw [State.suppress_motion]) (s.suppress_time d x)]
  exact hn

theorem State.dividerEvent_pulses (ht : ∀ t, x.lastEvent = some t → t + Div.minPeriod x.cfg ≤ s.now) :
    s.dividerEvent d = s.pulseDivider d x := by
  have hd : (s.pulseDivider d x).divider d = some { x with k := x.k + 1, lastEvent := some s.now } := by
    rw [State.divider, State.pulseDivider_motion]
    exact Tab.get_put_same _ d _
  have hlate : ¬∃ t, x.lastEvent = some t ∧ s.now < t + Div.minPeriod x.cfg :=
    fun ⟨t, hl, hlt⟩ => (ht t hl).not_gt hlt
  rw [State.dividerEvent_reached hx hs hh he hf hr, if_neg hlate]
  refine State.suppressPassed_before hd ?_ 65536
  rw [State.encPos_congr (by rw [State.pulseDivider_motion]) (s.pulseDivider_time d x)]
  exact hn

end

theorem State.writeMap_running {s : State} (h : s.img.running.isSome = true) (d : Nat) (x : Divider) (k : Nat)
    (suppressed : Bool) : s.writeMap d x k suppressed = s.store (mapAddr d k x.mapLog2)
      (natLe 8 ((x.grid k).toNat + b2n suppressed * 2 ^ 56) ++ natLe 8 s.tb0.toNat) := by
  have hr : ¬s.img.running.isNone = true := by simpa [Option.isSome_iff_ne_none] using h
  exact if_neg hr

section
variable {s : State} {d : Nat} {x : Divider} (hx : s.divider d = some x) (hq : Div.trigOut x.cfg ≠ 0xFF)
include hx hq

theorem State.trigEnd_running (he : s.now < (s.output (Div.trigOut x.cfg)).endAt) : s.trigEnd d = s := by
  simp [State.trigEnd, hx, hq, he.not_ge]

theorem State.trigEnd_over (ho : (s.output (Div.trigOut x.cfg)).on = true) (hm : s.outMode (Div.trigOut x.cfg) = 2)
    (he : (s.output (Div.trigOut x.cfg)).endAt ≤ s.now) : s.trigEnd d =
      s.setOutput (Div.trigOut x.cfg) ((s.output (Div.trigOut x.cfg)).off s.now) := by
  simp [State.trigEnd, hx, hq, ho, hm, he]

end

/-! ### Insertion (R292, R294, R295, R443) -/

/-- The lowest free number from one up: it is not taken, and every lower one is. -/
theorem lowestFree_spec {used : List Nat} (hu : used.Pairwise (· < ·)) (n : Nat) :
    n ≤ lowestFree n used ∧ lowestFree n used ∉ used ∧ ∀ j, n ≤ j → j < lowestFree n used → j ∈ used := by
  induction used generalizing n with
  | nil => simp [lowestFree]
  | cons k r ih =>
    obtain ⟨hk, hr⟩ := List.pairwise_cons.mp hu
    rcases Nat.lt_trichotomy k n with h | rfl | h
    · obtain ⟨hle, hfree, htaken⟩ := ih hr n
      rw [lowestFree, if_neg h.ne, if_pos h]
      refine ⟨hle, by simp [hfree]; omega, fun j hn hj => List.mem_cons_of_mem k (htaken j hn hj)⟩
    · obtain ⟨hle, hfree, htaken⟩ := ih hr (k + 1)
      rw [lowestFree, if_pos rfl]
      refine ⟨by omega, by simp [hfree]; omega, fun j hn hj => ?_⟩
      rcases hn.eq_or_lt with rfl | hn
      · exact List.mem_cons_self
      · exact List.mem_cons_of_mem k (htaken j hn hj)
    · rw [lowestFree, if_neg h.ne', if_neg h.not_gt]
      refine ⟨le_rfl, fun hn => (List.mem_cons.mp hn).elim h.ne fun hn => h.not_gt (hk n hn), fun j hn hj => by omega⟩

/-- The slots given are the lowest free ones, in order. -/
theorem freeSlots_spec {used : List Nat} (hu : used.Pairwise (· < ·)) (n lo : Nat) :
    (freeSlots used n lo).length = n ∧ (freeSlots used n lo).Pairwise (· < ·) ∧
    (∀ k ∈ freeSlots used n lo, lo ≤ k ∧ k ∉ used) ∧
    ∀ k ∈ freeSlots used n lo, ∀ j, lo ≤ j → j < k → j ∈ used ∨ j ∈ freeSlots used n lo := by
  induction n generalizing lo with
  | zero => simp [freeSlots]
  | succ n ih =>
    obtain ⟨hle, hfree, htaken⟩ := lowestFree_spec hu lo
    obtain ⟨hlen, hsorted, hout, hlow⟩ := ih (lowestFree lo used + 1)
    rw [freeSlots]
    refine ⟨congrArg (· + 1) hlen, List.pairwise_cons.mpr ⟨fun k hk => (hout k hk).1, hsorted⟩,
      List.forall_mem_cons.mpr ⟨⟨hle, hfree⟩, fun k hk => ⟨by have := (hout k hk).1; omega, (hout k hk).2⟩⟩,
      List.forall_mem_cons.mpr ⟨fun j hj hlt => .inl (htaken j hj hlt), fun k hk j hj hlt => ?_⟩⟩
    rcases Nat.lt_trichotomy j (lowestFree lo used) with h | rfl | h
    · exact .inl (htaken j hj h)
    · exact .inr List.mem_cons_self
    · exact (hlow k hk j h hlt).imp_right (List.mem_cons_of_mem _)

theorem State.readOrder_good {s : State} (h : ∀ g ∈ s.mc.bad, g < 0x58000000 ∨ 0x60000000 ≤ g) : s.readOrder = s := by
  have hnone : (s.mc.bad.filter fun g => decide (orderBase ≤ g) && decide (g < libIndexBase)) = [] := by
    refine List.filter_eq_nil_iff.mpr fun g hg => ?_
    have := h g hg
    simp only [orderBase, libIndexBase, Bool.and_eq_true, decide_eq_true_eq]
    omega
  rw [State.readOrder, hnone]
  rfl

theorem State.readOrder_bad {s : State} {g : Nat} (hb : s.mc.bad = [g]) (hlo : 0x58000000 ≤ g)
    (hhi : g < 0x60000000) : s.readOrder = s.reportUe g 0x40 := by
  simp [State.readOrder, hb, hlo, hhi]

theorem State.ejectInsert_direct {s : State} (hh : s.motion.insertHold = []) (hd : s.motion.decideWait = []) :
    s.ejectInsert = s.takeInsert := if_pos (by simp [State.waitingParts, hh, hd])

/-- The state in which a part's entries leave the insertion queue, with the queue that remains. -/
def State.dequeued (s : State) (rest : List (Nat × List Eject)) : State :=
  { s.readOrder with motion := { s.readOrder.motion with insertQueue := rest } }

/-- The entries of the part at the head of the queue enter the lowest free slots, or none does where the list has no
room for all. -/
theorem State.takeInsert_entries {s : State} {slot : Nat} {es : List Eject} {rest : List (Nat × List Eject)} {p : Part}
    (hq : s.motion.insertQueue = (slot, es) :: rest) (hp : s.part slot = some p) (hne : es ≠ [])
    (hm : ∀ e ∈ es, e.mask ≠ 0) : s.takeInsert =
      let u := s.dequeued rest
      if 2097152 < s.pendingSlots.length + es.length then
        (u.flagLog .ejFlags [] 2 { errorRec 13 with status := Code.ejectListFull, arg0 := p.id }).settlePart slot
      else
        let v := ((freeSlots s.pendingSlots es.length 0).zip es).foldl (fun s x => s.placeEntry x.1 x.2) u
        let v : State := { v with motion := { v.motion with inserted := v.motion.inserted + es.length } }
        (v.updPart slot fun p => { p with st := .scheduled, entries := es.length }).planWindows.settlePart slot := by
  have hledg : (s.dequeued rest).ledg = s.ledg := s.readOrder_ledg
  have hpending : (s.dequeued rest).pendingSlots = s.pendingSlots := by
    simp [State.pendingSlots, State.dequeued]
  have hnone : es.filter (fun e => e.mask == 0) = [] := List.filter_eq_nil_iff.mpr fun e he => by simpa using hm e he
  have hall : es.filter (fun e => e.mask != 0) = es := List.filter_eq_self.mpr fun e he => by simpa using hm e he
  have hpart : (s.dequeued rest).part slot = some p := (State.part_congr hledg slot).trans hp
  unfold State.takeInsert
  simp -zeta only [hq]
  extract_lets _ _ u id _ warned es' used
  have hid : id = p.id := by
    have hu : u.part slot = some p := hpart
    simp only [id, hu]
  have hwarned : warned = s.dequeued rest := by
    unfold warned
    rw [hnone]
    rfl
  have hused : used = s.pendingSlots := (congrArg State.pendingSlots hwarned).trans hpending
  have hes : es' = es := hall
  clear_value id warned es' used
  subst hid hwarned hused hes
  rw [if_neg (by simpa using hne)]

theorem State.ejectInsert_idle {s : State} (hq : s.motion.insertQueue = []) (hh : s.motion.insertHold = [])
    (hd : s.motion.decideWait = []) : s.ejectInsert = s := by
  rw [State.ejectInsert_direct hh hd, State.takeInsert, hq]

/-! ### Clearing the list (R571) -/

theorem State.endEntry_motion (s : State) (slot : Nat) (e : Eject) (st : Nat) (time : BitVec 64) :
    (s.endEntry slot e st time).motion =
      { s.motion with list := Tab.put s.motion.list slot { e with st := st, fired := time, seq := e.seq + 1 } } := by
  simp [State.endEntry, State.notePart, State.putEntry]

theorem State.endEntry_waitingParts (s : State) (slot : Nat) (e : Eject) (st : Nat) (time : BitVec 64) :
    (s.endEntry slot e st time).waitingParts = s.waitingParts := by
  simp [State.waitingParts, State.endEntry_motion]

/-- The state with the entries given ended in STATE 7. -/
def State.endAll (s : State) (es : List (Nat × Eject)) : State :=
  es.foldl (fun t e => t.endEntry e.1 e.2 7 e.2.fired) s

theorem State.endAll_waitingParts (s : State) (es : List (Nat × Eject)) :
    (s.endAll es).waitingParts = s.waitingParts :=
  State.foldl_kept State.waitingParts (f := fun t (e : Nat × Eject) => t.endEntry e.1 e.2 7 e.2.fired)
    (fun t e => t.endEntry_waitingParts e.1 e.2 7 e.2.fired) es s

/-- The state with both copies of the windows empty and no transfer on its way. -/
def State.unwindowed (s : State) : State :=
  { s with motion := { s.motion with windows := [], transfers := [], applied := [] } }

/-- With nothing queued what is discarded are the list's pending entries and the windows. -/
theorem State.discardAll_unqueued {s : State} (hq : s.motion.insertQueue = []) (hh : s.motion.insertHold = [])
    (hd : s.motion.decideWait = []) :
    s.discardAll = (s.unwindowed.endAll (s.motion.list.filter fun e => e.2.pending)).settleParts := by
  have hempty : ({ s with motion := { s.motion with
      insertQueue := [], insertHold := [], windows := [], transfers := [], applied := [] } } : State) =
      s.unwindowed := by
    simp only [State.unwindowed, hq, hh]
  have hwait : (s.unwindowed.endAll (s.motion.list.filter fun e => e.2.pending)).waitingParts = 0 := by
    rw [State.endAll_waitingParts]
    simp [State.waitingParts, State.unwindowed, hh, hd]
  unfold State.discardAll
  simp -zeta only [hq, hh]
  extract_lets queued m u ended done
  have hu : u = s.unwindowed := hempty
  clear_value u
  subst hu
  have hdone : done = s.unwindowed.endAll (s.motion.list.filter fun e => e.2.pending) := rfl
  rw [hdone, hwait]
  rfl

/-- Settles O49: a divider's event acts where P has reached its grid point, the queue's head enters the list where it
has room, into the lowest free slots, and a clear of the list discards what is pending. -/
theorem dividersAndList : Obligations.DividersAndList := by
  refine ⟨fun s d x hx hs hh he => ⟨fun h => congrArg Host.Outcome.next (State.dividerEvent_ignored hx h),
      fun hf hr hn => ⟨fun ht => congrArg Host.Outcome.next (State.dividerEvent_early hx hs hh he hf hr hn ht),
        fun ht => congrArg Host.Outcome.next (State.dividerEvent_pulses hx hs hh he hf hr hn ht)⟩⟩,
    fun s d x k sup h => State.writeMap_running h d x k sup,
    fun s d x hx hq ho hm => ⟨fun he => congrArg Host.Outcome.next (State.trigEnd_running hx hq he),
      fun he => congrArg Host.Outcome.next (State.trigEnd_over hx hq ho hm he)⟩,
    fun s hq hh hd => congrArg Host.Outcome.next (State.ejectInsert_idle hq hh hd),
    fun s slot es rest p hq hp hne hm hh hd => ?insert, fun s h => State.readOrder_good h,
    fun s g hb hlo hhi => State.readOrder_bad hb hlo hhi, fun used n hu => ?slots, fun s slot e => rfl,
    fun s seat hq hh hd => ?clear⟩
  case insert =>
    have hx := (State.ejectInsert_direct hh hd).trans (State.takeInsert_entries hq hp hne hm)
    exact ⟨fun hfull => congrArg Host.Outcome.next (hx.trans (if_pos hfull)),
      fun hroom => congrArg Host.Outcome.next (hx.trans (if_neg hroom.not_gt))⟩
  case slots =>
    obtain ⟨hlen, hsorted, hout, hlow⟩ := freeSlots_spec hu n 0
    exact ⟨hlen, hsorted, fun k hk => (hout k hk).2, fun k hk j hj => hlow k hk j (Nat.zero_le j) hj⟩
  case clear =>
    exact congrArg (fun u : State => Host.Outcome.next (u.flagLog .ejFlags [] 7 { warning 13 with initiator := seat }))
      (State.discardAll_unqueued hq hh hd)

end Sys2Proof.Machine

/-! PROOFS. Outputs: what a near window fires, and how pulses start, end, trip and are measured (O50). -/

namespace Sys2Proof.Machine

/-! ### The outputs of a mask -/

theorem mem_maskOutputs (m : BitVec 64) (q : Nat) : q ∈ maskOutputs m ↔ q < 64 ∧ m.getLsbD q = true := by
  simp [maskOutputs, bit_eq_testBit, BitVec.testBit_toNat]

/-- The outputs listed stand as bits beside those there before. -/
theorem getLsbD_foldl_outputs (l : List Nat) (m : BitVec 64) {i : Nat} (hi : i < 64) :
    (l.foldl (fun m q => m ||| n64 (2 ^ q)) m).getLsbD i = (m.getLsbD i || decide (i ∈ l)) := by
  induction l generalizing m with
  | nil => simp
  | cons q l ih =>
    rw [List.foldl_cons, ih]
    have hq : (n64 (2 ^ q)).getLsbD i = decide (i = q) := by
      simp only [n64, BitVec.getLsbD_ofNat, Nat.testBit_two_pow, hi, decide_true, Bool.true_and, eq_comm]
    rw [BitVec.getLsbD_or, hq, Bool.or_assoc]
    simp

/-- A mask is the sum of its outputs. -/
theorem foldl_maskOutputs (m : BitVec 64) : (maskOutputs m).foldl (fun m q => m ||| n64 (2 ^ q)) 0 = m := by
  refine BitVec.eq_of_getLsbD_eq fun i hi => ?_
  rw [getLsbD_foldl_outputs _ _ hi]
  simp [mem_maskOutputs, hi]

theorem maskOutputs_ne_nil {m : BitVec 64} (h : m ≠ 0) : maskOutputs m ≠ [] := by
  intro hn
  have hm := foldl_maskOutputs m
  rw [hn] at hm
  exact h hm.symm

/-! ### A near window (R296 to R299) -/

theorem State.evalWindow_held {s : State} {n : Nat} (h : s.outputsHeld = true ∨ (s.enc n).st = .off) :
    s.evalWindow n = s := by
  have hn : s.noFiring n = true := by simpa [State.noFiring] using h
  exact if_pos hn

theorem State.evalWindow_single {s : State} {n : Nat} {w : WinEntry} (hh : s.outputsHeld = false)
    (he : (s.enc n).st ≠ .off) (hw : s.window n = [w]) :
    s.evalWindow n = (s.evalEntry n w).1.setWindow n (s.evalEntry n w).2.toList := by
  simp [State.evalWindow, State.noFiring, hh, he, hw]

section
variable {s : State} {n : Nat} {w : WinEntry} (h0 : w.bad0 = false) (h1 : w.bad1 = false) (hc : w.copy0 = w.copy1)
include h0 h1 hc

/-- An undamaged entry is late or missed where it was first seen past its position, and else waits for its outputs. -/
theorem State.evalEntry_undamaged : s.evalEntry n w =
    let e := w.copy0
    let beyond := posSub (s.encPos n) e.pos
    if w.evaluated = false ∧ 0 < beyond then
      if beyond ≤ 256 * (e.lateCounts : Int) then
        ((s.switchOutputs (maskOutputs e.mask) ((s.entryView e).shape e.shape) n).report w.slot 4, none)
      else (s.report w.slot 5, none)
    else
      let todo := (maskOutputs (e.mask &&& ~~~w.switched)).filter fun q => (s.entryView e).switchNow n q e.pos
      let t := s.switchOutputs todo ((s.entryView e).shape e.shape) n
      let u := if w.switched = 0 ∧ todo ≠ [] then t.report w.slot 3 else t
      let on := todo.foldl (fun m q => m ||| n64 (2 ^ q)) w.switched
      if (e.mask ≠ 0 ∧ on &&& e.mask = e.mask) ∨ (e.mask = 0 ∧ u.switchNow n 0 e.pos = true) then (u, none)
      else (u, some { w with switched := on, evaluated := true }) := by
  unfold State.evalEntry
  simp [h0, h1, ← hc]

/-- An undamaged entry first seen past its position. -/
theorem State.evalEntry_past (hv : w.evaluated = false) (hp : 0 < posSub (s.encPos n) w.copy0.pos) :
    s.evalEntry n w = if posSub (s.encPos n) w.copy0.pos ≤ 256 * (w.copy0.lateCounts : Int) then
        ((s.switchOutputs (maskOutputs w.copy0.mask) ((s.entryView w.copy0).shape w.copy0.shape) n).report w.slot 4,
          none)
      else (s.report w.slot 5, none) := by
  rw [State.evalEntry_undamaged h0 h1 hc, if_pos ⟨hv, hp⟩]

/-- An undamaged entry all of whose outputs are due fires with all of them at once. -/
theorem State.evalEntry_due (hv : w.evaluated = true ∨ posSub (s.encPos n) w.copy0.pos ≤ 0) (hs : w.switched = 0)
    (hm : w.copy0.mask ≠ 0)
    (hd : ∀ q ∈ maskOutputs w.copy0.mask, (s.entryView w.copy0).switchNow n q w.copy0.pos = true) :
    s.evalEntry n w =
      ((s.switchOutputs (maskOutputs w.copy0.mask) ((s.entryView w.copy0).shape w.copy0.shape) n).report w.slot 3,
        none) := by
  have hwait : ¬(w.evaluated = false ∧ 0 < posSub (s.encPos n) w.copy0.pos) := by
    rintro ⟨he, hp⟩
    obtain hv | hv := hv
    · exact Bool.false_ne_true (he.symm.trans hv)
    · omega
  have hall : (maskOutputs (w.copy0.mask &&& ~~~w.switched)).filter
      (fun q => (s.entryView w.copy0).switchNow n q w.copy0.pos) = maskOutputs w.copy0.mask := by
    have hmask : w.copy0.mask &&& ~~~w.switched = w.copy0.mask := hs ▸ BitVec.and_allOnes
    rw [hmask, List.filter_eq_self.mpr hd]
  rw [State.evalEntry_undamaged h0 h1 hc, if_neg hwait]
  simp only [hall]
  rw [hs, foldl_maskOutputs, if_pos (.inl ⟨hm, BitVec.and_self⟩), if_pos ⟨rfl, maskOutputs_ne_nil hm⟩]

end

/-! ### Pulses (R297) -/

section
variable {s : State} {q : Nat}

/-- An output that was never on starts with its peak. -/
theorem State.pulseOn_first {shape : Bytes} (hh : s.outputsHeld = false) (ht : (s.output q).isTripped = false)
    (ho : (s.output q).on = false) (ha : (s.output q).offAt = none) (hm : Shape.mode shape = 0) (n : Nat) (p : Pos) :
    s.pulseOn q shape n p = s.setOutput q { s.output q with
      on := true, peak := decide (0 < Shape.peakNs shape), hold := Shape.holdDuty shape
      peakEnd := s.now + Shape.peakNs shape, endAt := s.now + Shape.onNs shape, endPos := none, more := []
      onAt := s.now, gap := Shape.minGapNs shape, host := false } := by
  simp [State.pulseOn, hh, ht, ho, ha, hm]

theorem State.peakEnd_peak (ho : (s.output q).on = true) (hp : (s.output q).peak = true) :
    s.peakEnd q = s.setOutput q { s.output q with peak := false } := by
  simp [State.peakEnd, ho, hp]

/-- Every end that an output's present pulse was given, those merged into it included. -/
def Output.ends (o : Output) : List (Nat × Option (Nat × Pos)) := (o.endAt, o.endPos) :: o.more

theorem State.pulseEnd_over (ho : (s.output q).on = true) (hh : (s.output q).host = false)
    (he : ∀ e ∈ (s.output q).ends, s.pulseOver e = true) :
    s.pulseEnd q = s.setOutput q ((s.output q).off s.now) := by
  have hall : (s.output q).ends.all s.pulseOver = true := List.all_eq_true.mpr he
  rw [Output.ends] at hall
  simp only [State.pulseEnd, ho, hh, hall, Bool.not_false, Bool.and_self, if_true]

theorem State.pulseEnd_ahead (he : ∃ e ∈ (s.output q).ends, s.pulseOver e = false) : s.pulseEnd q = s := by
  have hall : (s.output q).ends.all s.pulseOver = false := List.all_eq_false.mpr (by simpa using he)
  rw [Output.ends] at hall
  simp only [State.pulseEnd, hall, Bool.and_false, Bool.false_eq_true, if_false]

end

/-! ### Trips (R479) -/

section
variable {s : State} {q : Nat}

/-- A current above a limit trips an output that is on; one above the hold limit does so after the peak. -/
theorem State.trip_current (ho : (s.output q).on = true) {c : TripCause}
    (hc : c = .over1500mA ∨ c = .over1000mA ∨ (c = .overload ∧ (s.output q).peak = false)) :
    s.trip q c = (s.setOutput q { (s.output q).off s.now with tripped := true, peak := false }).flagLog .qErr [q] 0
      { errorRec 15 with status := 0xB1, arg0 := n64 q } := by
  have hon : ¬(!(s.output q).on) = true := by simp [ho]
  obtain rfl | rfl | ⟨rfl, hp⟩ := hc
  · exact if_neg hon
  · exact if_neg hon
  · have hpast : ¬(!((s.output q).on && !(s.output q).peak)) = true := by simp [ho, hp]
    exact if_neg hpast

theorem State.groupLimit_setFld (s : State) (r : RN) (ix : List Nat) (lo w x g : Nat) :
    (s.setFld r ix lo w x).groupLimit g = s.groupLimit g := by
  unfold State.groupLimit State.fieldRec
  rw [State.setFld_field]

theorem State.groupCheck_within {g ma : Nat} (h : ma ≤ s.groupLimit g) :
    s.groupCheck g ma = s.setFld .gCurrent [g] 0 13 ma := by
  rw [← State.groupLimit_setFld s .gCurrent [g] 0 13 ma] at h
  exact if_pos h

theorem State.groupCheck_above {g ma : Nat} (h : s.groupLimit g < ma) : s.groupCheck g ma =
    ((List.range 8).foldl (fun s k => s.setOutput (8 * g + k)
      { (s.output (8 * g + k)).off s.now with groupTripped := true }) (s.setFld .gCurrent [g] 0 13 ma)).flagLog
        .gErr [g] 0 { errorRec 15 with status := 0xB2, arg0 := n64 g } := by
  rw [← State.groupLimit_setFld s .gCurrent [g] 0 13 ma] at h
  exact if_neg h.not_ge

theorem State.fieldWrite_up (h : s.linkCode ≠ 0) (seat off : Nat) (f : State → State) :
    s.fieldWrite seat off f = f s := if_neg h

end

/-! ### Measurements (R480) -/

section
variable {s : State} {q : Nat} {ma mv : Nat}

theorem State.now_setFld (s : State) (r : RN) (ix : List Nat) (lo w x : Nat) :
    (s.setFld r ix lo w x).now = s.now := by
  rw [State.now, State.now, State.setFld_time]

theorem State.outMeasure_off (ho : (s.output q).on = false) (hv : mv ≤ 12000) :
    s.outMeasure q ma mv = s.setFld .qMeas [q] 0 10 (sat (ma / 2) 0x3FF) := by
  simp [State.outMeasure, ho, hv.not_gt]

theorem State.outMeasure_readback (ht : (s.output q).isTripped = false) (ho : (s.output q).on = false)
    (hv : 12000 < mv) : s.outMeasure q ma mv = (s.setFld .qMeas [q] 0 10 (sat (ma / 2) 0x3FF)).flagLog .qErr [q] 3
      { warning 15 with arg0 := n64 q, arg1 := n64 mv } := by
  simp [State.outMeasure, ht, ho, hv]

theorem State.outMeasure_open (ho : (s.output q).on = true) (ha : (s.output q).onAt + 1000000 ≤ s.now) (hm : ma < 4)
    (hv : 12000 ≤ mv) :
    s.outMeasure q ma mv = (s.setFld .qMeas [q] 0 10 (sat (ma / 2) 0x3FF)).setFlag .qErr [q] 2 := by
  simp [State.outMeasure, State.now_setFld, ho, ha, hm, hv.not_gt]

theorem State.openTest_open (hc : s.outOpenTest q = true) (ho : (s.output q).on = false) (hv : 18000 < mv) :
    s.openTest q mv = s.setFlag .qErr [q] 2 := by
  simp [State.openTest, hc, ho, hv]

theorem State.openTest_loaded (hv : mv ≤ 18000) : s.openTest q mv = s := by
  simp [State.openTest, hv.not_gt]

end

/-- Settles O50: a window of one entry is evaluated by that entry alone, and each event of an output acts where its
guard holds. -/
theorem outputsFire : Obligations.OutputsFire := by
  refine ⟨fun s n h => congrArg Host.Outcome.next (State.evalWindow_held h), fun s n w hh he hw h0 h1 hc => ?window,
    fun s q shape n p hh ht ho ha hm => State.pulseOn_first hh ht ho ha hm n p,
    fun s q ho => ⟨fun hp => congrArg Host.Outcome.next (State.peakEnd_peak ho hp),
      fun hh h => congrArg Host.Outcome.next (State.pulseEnd_over ho hh h),
      fun h => congrArg Host.Outcome.next (State.pulseEnd_ahead h),
      fun c hc => congrArg Host.Outcome.next (State.trip_current ho hc)⟩,
    fun s q => rfl,
    fun s g ma => ⟨fun h => congrArg Host.Outcome.next (State.groupCheck_within h),
      fun h => congrArg Host.Outcome.next (State.groupCheck_above h)⟩,
    fun s seat q g hl => ⟨congrArg Host.Outcome.next (State.fieldWrite_up hl ..),
      congrArg Host.Outcome.next (State.fieldWrite_up hl ..)⟩,
    fun s q ma mv ht => ⟨fun ho hv => congrArg Host.Outcome.next (State.outMeasure_off ho hv),
      fun ho hv => congrArg Host.Outcome.next (State.outMeasure_readback ht ho hv),
      fun ho ha hm hv => congrArg Host.Outcome.next (State.outMeasure_open ho ha hm hv),
      fun hc ho hv => congrArg Host.Outcome.next (State.openTest_open hc ho hv),
      fun hv => congrArg Host.Outcome.next (State.openTest_loaded hv)⟩⟩
  case window =>
    intro e t beyond
    have hx {r : State × Option WinEntry} (h : s.evalEntry n w = r) :
        exec (.outputSwitchOn n) s = .next (r.1.setWindow n r.2.toList) :=
      congrArg Host.Outcome.next (h ▸ State.evalWindow_single hh he hw)
    have hpast (hv : w.evaluated = false) (hp : 0 < beyond) := State.evalEntry_past h0 h1 hc hv hp
    exact ⟨fun hv hp hl => hx ((hpast hv hp).trans (if_pos hl)),
      fun hv hp hl => hx ((hpast hv hp).trans (if_neg hl.not_ge)),
      fun hv hs hm hd => hx (State.evalEntry_due h0 h1 hc hv hs hm hd)⟩

end Sys2Proof.Machine

/-! PROOFS. LAUNCH_EDGE: time is brought forward to the earliest pending count, and the items due there act (O14). -/

namespace Sys2Proof.Machine

/-! ### Time brought forward (R321, R386) -/

theorem ceilDiv_le_iff {a b c : Nat} (hb : 0 < b) : ceilDiv a b ≤ c ↔ a ≤ b * c := by
  rw [ceilDiv, ← Nat.ceilDiv_eq_add_pred_div]
  exact ceilDiv_le_iff_le_smul hb

/-- Before its cycle ends a time base passes its increments in a row. -/
theorem TimeBase.ns_after {b : TimeBase} {k : Nat} (h : b.value + b.inc * k < b.cycle * 2 ^ 32) :
    (b.after k).ns = (b.value + b.inc * k) / 2 ^ 32 := by
  rw [TimeBase.after, TimeBase.set, TimeBase.ns, Nat.mod_eq_of_lt h]

/-- Before its cycle ends a time base has reached an instant exactly when the ticks that the way there takes have
passed. -/
theorem TimeBase.le_ns_after_iff {b : TimeBase} {j n : Nat} (hi : b.inc ≠ 0)
    (h : b.value + b.inc * j < b.cycle * 2 ^ 32) :
    n ≤ (b.after j).ns ↔ ceilDiv (n * 2 ^ 32 - b.value) b.inc ≤ j := by
  rw [TimeBase.ns_after h, Nat.le_div_iff_mul_le (by decide), ceilDiv_le_iff (Nat.pos_of_ne_zero hi),
    Nat.sub_le_iff_le_add']

/-- TB0 reaches an instant after the ticks counted for it, and not before. -/
theorem State.tb0Ns_advance_ceilDiv {s : State} {n : Nat} (hi : s.time.tb0.inc ≠ 0)
    (h : s.time.tb0.value + s.time.tb0.inc * ceilDiv (n * 2 ^ 32 - s.time.tb0.value) s.time.tb0.inc <
      s.time.tb0.cycle * 2 ^ 32) :
    n ≤ (s.advance (ceilDiv (n * 2 ^ 32 - s.time.tb0.value) s.time.tb0.inc)).tb0Ns ∧
      ∀ j, j < ceilDiv (n * 2 ^ 32 - s.time.tb0.value) s.time.tb0.inc → (s.advance j).tb0Ns < n := by
  refine ⟨(TimeBase.le_ns_after_iff hi h).mpr le_rfl, fun j hj => ?_⟩
  have hle := Nat.mul_le_mul_left s.time.tb0.inc hj.le
  refine Nat.lt_of_not_le fun hn => hj.not_ge ?_
  exact (TimeBase.le_ns_after_iff hi (by omega)).mp hn

section
variable {s : State} {l : Nat} (hm : (s.img.items.map LaunchItem.launch).min? = some l)
include hm

theorem State.launchEdge_ahead (hl : s.tb0Ns < l * 1000) (hi : s.time.tb0.inc ≠ 0) : s.launchEdge =
    (s.advance (ceilDiv (l * 1000 * 2 ^ 32 - s.time.tb0.value) s.time.tb0.inc)).fireDue := by
  simp only [State.launchEdge, hm, hl.not_ge, hi, if_false]

theorem State.launchEdge_reached (hl : l * 1000 ≤ s.tb0Ns) : s.launchEdge = s.fireDue := by
  simp only [State.launchEdge, hm, hl, if_true]

end

/-! ### What the edges leave of the network state -/

@[simp] theorem State.stateChanged_net (s : State) (old : Word) : (s.stateChanged old).net = s.net := by
  unfold State.stateChanged
  split <;> simp

@[simp] theorem State.setPower_net (s : State) (m : PowerMode) : (s.setPower m).net = s.net := by
  unfold State.setPower
  rw [State.stateChanged_net]
  exact (State.foldl_kept State.net (fun _ _ => by rfl) _ _).trans rfl

/-! ### An only item at its edge (R22, R317, R322) -/

/-- The state with no launch item. -/
def State.noItems (s : State) : State := { s with img := { s.img with items := [] } }

/-- Where no group item is held, none leaves. -/
theorem State.filter_member {s : State} (h : s.net.member = []) (p : MemberItem → Bool) :
    { s with net := { s.net with member := s.net.member.filter p } } = s := by
  have hp : s.net.member.filter p = s.net.member := by rw [h, List.filter_nil]
  rw [hp]

/-- An only item is no seat's rival. -/
theorem State.noteRivals_single (s : State) (it : LaunchItem) : s.noteRivals [it] = s := by
  cases hk : it.kind <;> simp [State.noteRivals, hk]

section
variable {s : State} {it : LaunchItem}

/-- An only item of this module's own that is due leaves the list and acts, and is all that happens where no group item
is held. -/
theorem State.fireDue_only (hs : s.img.items = [it]) (hg : it.fromGroup = false) (hl : it.launch ≤ s.launchCounter)
    (hn : (s.noItems.fireItem it).net = s.net) (hm : s.net.member = []) : s.fireDue = s.noItems.fireItem it := by
  have hdue : (s.img.items.filter fun it => decide (it.launch ≤ s.launchCounter)) = [it] := by simp [hs, hl]
  have hleft : (s.img.items.filter fun it => decide (s.launchCounter < it.launch)) = [] := by simp [hs, hl]
  have hmember : (s.noItems.fireItem it).net.member = [] := by rw [hn, hm]
  have hfire : s.noItems.edgeItem it = s.noItems.fireItem it := by simp [State.edgeItem, hg]
  simp only [State.fireDue, hdue, hleft, List.mergeSort_singleton, List.isEmpty_cons, Bool.false_eq_true, if_false,
    State.noteRivals_single, List.foldl_cons, List.foldl_nil]
  rw [show ({ s with img := { s.img with items := [] } } : State) = s.noItems from rfl, hfire]
  exact State.filter_member hmember _

/-- LAUNCH_EDGE with an only item of this module's own, which is due. -/
theorem exec_launchEdge_only (hs : s.img.items = [it]) (hg : it.fromGroup = false) (hl : it.launch * 1000 ≤ s.tb0Ns)
    (hm : s.net.member = []) {v : State} (hv : s.noItems.fireItem it = v) (hn : v.net = s.net) :
    exec .launchEdge s = .next v := by
  subst hv
  have hdue : it.launch ≤ s.launchCounter := (Nat.le_div_iff_mul_le (by decide)).mpr hl
  have hmin : (s.img.items.map LaunchItem.launch).min? = some it.launch := by rw [hs]; rfl
  exact congrArg Host.Outcome.next
    ((State.launchEdge_reached hmin hl).trans (State.fireDue_only hs hg hdue hn hm))

theorem State.pauseEdge_bound {n : Nat} {x : Stream} (hx : s.stream n = some x) (pause : Bool) :
    s.pauseEdge it n pause = ((s.updStream n fun x => { x with paused := pause }).log
      { info 11 with initiator := initiatorOf it.by', arg0 := n64 n, arg1 := n64 (b2n pause) }).answer it.by' Code.ok := by
  simp only [State.pauseEdge, hx]

variable (ha : s.img.apply = none)
include ha

/-- Outside an apply a power mode does nothing else. -/
theorem State.powerEdge_idle (m : PowerMode) : s.powerEdge it m = (s.setPower m).answer it.by' Code.ok := by
  simp only [State.powerEdge, ha, Option.map_none]
  rw [← ha]

/-- Outside an apply a determinism override does nothing else. -/
theorem State.detEdge_idle (m : Nat) : s.detEdge it m = (({ s with img := { s.img with
      detOverride := m != 0xFF
      detMode := if m = 0xFF then (s.img.running.map Image.detMode).getD false else m == 1 } } :
      State).stateChanged (s.view .glbState [])).answer it.by' Code.ok := by
  simp only [State.detEdge, ha, Option.map_none]

end

/-- Settles O14: the ticks to the earliest count are the least that reach it, and an only item that is due does what its
kind says and leaves nothing held. -/
theorem launchEdge : Obligations.LaunchEdge := by
  refine ⟨fun s l hm hl hi => ?ahead, fun s it hs hg hl hm ha => ?due⟩
  case ahead =>
    exact ⟨congrArg Host.Outcome.next (State.launchEdge_ahead hm hl hi), fun h => State.tb0Ns_advance_ceilDiv hi h⟩
  case due =>
    have act {v : State} (hv : s.noItems.fireItem it = v) (hn : v.net = s.net) : exec .launchEdge s = .next v :=
      exec_launchEdge_only hs hg hl hm hv hn
    refine ⟨fun m hk => act ?_ ?_, fun m hk => act ?_ ?_, fun n x hk hx => act ?_ ?_, fun n x hk hx => act ?_ ?_⟩
    · rw [State.fireItem, hk]
      exact State.powerEdge_idle (s := s.noItems) ha m
    · rw [State.answer_net, State.setPower_net]
    · rw [State.fireItem, hk]
      exact State.detEdge_idle (s := s.noItems) ha m
    · rw [State.answer_net, State.stateChanged_net]
    · rw [State.fireItem, hk]
      exact State.pauseEdge_bound (s := s.noItems) hx true
    · rw [State.answer_net, State.log_net]
      rfl
    · rw [State.fireItem, hk]
      exact State.pauseEdge_bound (s := s.noItems) hx false
    · rw [State.answer_net, State.log_net]
      rfl

end Sys2Proof.Machine

/-! PROOFS. A stream is saved, and a restore is scheduled (O15). -/

namespace Sys2Proof.Machine

/-- A position sign-extended to a command's field is read back from it. -/
theorem ofNat_signExtend_pos (d : Pos) : BitVec.ofNat 56 (d.signExtend 64).toNat = d := by
  ext i hi
  have h64 : i < 64 := by omega
  rw [BitVec.ofNat_toNat, BitVec.getElem_setWidth, BitVec.getLsbD_signExtend]
  simp [hi, h64]

section
variable {s : State} {c : CmdRef} {n : Byte} {a : BitVec 64}

/-- A paused stream with nothing on a core is saved in an area that is long enough. -/
theorem State.runStreamSave_paused {bytes : BitVec 64} {x : Stream} (ha : addrReserved a = false)
    (hb : allOnes64 bytes = false) (hx : s.stream n.toNat = some x) (hp : x.paused = true)
    (hs : s.streamBusy n.toNat = false) (hl : (s.saveRecord n.toNat).length ≤ bytes.toNat)
    (hd : bufferIn a (s.saveRecord n.toNat).length = true) :
    s.runStreamSave c n a bytes = (s.storeFor c.seat a.toNat (s.saveRecord n.toNat)).complete c Code.ok
      (s.saveRecord n.toNat).length := by
  rw [State.runStreamSave, State.checked_ok]
  simp [ha, hb, hx, hp, hs, hl, hd]

/-- A record that lies in good memory and passes the checks has its restore scheduled. -/
theorem State.runStreamRestore_good {h : Hdr} {d : Pos} (ha : addrReserved a = false) (hb : bufferIn a 256 = true)
    (hg : s.badIn a.toNat 256 = none)
    (hf : s.restoreFail n.toNat (s.load a.toNat 256) (s.launchOf h.launch) = none)
    (hl : bufferIn a (Save.length (s.load a.toNat 256)) = true)
    (hr : s.badIn a.toNat (Save.length (s.load a.toNat 256)) = none) :
    s.runStreamRestore c h n a (d.signExtend 64) = s.addItem (s.launchOf h.launch)
      (.restore n.toNat (s.load a.toNat (Save.length (s.load a.toNat 256))) d) (some c) := by
  simp only [State.runStreamRestore, ofNat_signExtend_pos, ha, hb, hl, hf, State.readBuf_good hg, State.readBuf_good hr,
    bne_self_eq_false, Bool.or_false, Bool.not_true, Bool.false_eq_true, if_false]

end

/-- Settles O15: taking the command leaves time alone, so each command meets none of its refusals on the state that its
ring leaves. -/
theorem streamSaveRestore : Obligations.StreamSaveRestore := by
  refine ⟨fun s h n a bytes x hacc ha hb => ?save, fun s h n a delta d hacc ha hdelta hb => ?restore⟩
  case save =>
    intro u r hx hp hs hl hd
    exact exec_effect rfl rfl hacc _ (State.runStreamSave_paused ha hb hx hp hs hl hd)
  case restore =>
    intro u head hg hf hl hr
    subst hdelta
    have hlaunch := s.takes_launchOf h 0x0404 h.launch
    refine exec_effect rfl rfl (s.accepts_of h _ _ hacc) _ ((State.runStreamRestore_good ha hb hg ?_ hl hr).trans ?_)
    · rwa [hlaunch]
    · rw [hlaunch]

end Sys2Proof.Machine

/-! PROOFS. JOB_REPLAY makes a replay job with its commands (O17). -/

namespace Sys2Proof.Machine

/-! ### What readiness and the host turn leave of the scheduler's work -/

/-- The state without the scheduler, the registers and the host block. -/
def State.withoutRun (s : State) : State := { s with sched := {}, regs := [], host := {} }

/-- With those three parts as they were, a state is what it was. -/
theorem State.restored_of_withoutRun {s t : State} (h : t.withoutRun = s.withoutRun) :
    { t with sched := s.sched, regs := s.regs, host := s.host } = s :=
  congrArg (fun w : State => { w with sched := s.sched, regs := s.regs, host := s.host }) h

/-- What a job is from its making on: its number, kind, context, model, stream, last line and command. -/
def Job.made (j : Job) : Nat × JobKind × Nat × Nat × Nat × Nat × Option CmdRef :=
  (j.id, j.kind, j.ctx, j.model, j.stream, j.last, j.by')

/-- The work that a scheduler holds: its jobs as they were made, how many commands, the number of the next job, and the
buffers of its replays. -/
structure Work where
  jobs : List (Nat × JobKind × Nat × Nat × Nat × Nat × Option CmdRef)
  cmds : Nat
  nextJob : Nat
  replays : Tab (Nat × Nat × Nat × Nat)

def State.work (s : State) : Work :=
  ⟨s.sched.jobs.map Job.made, s.sched.cmds.length, s.sched.nextJob, s.sched.replays⟩

theorem State.takes_withoutRun (s : State) (h : Hdr) (op : Nat) : (s.takes h op).1.withoutRun = s.withoutRun := by
  have hregs {u v : State} (huv : u.withoutRegs = v.withoutRegs) : u.withoutRun = v.withoutRun :=
    show u.withoutRegs.withoutRun = v.withoutRegs.withoutRun from congrArg State.withoutRun huv
  have hhost (u : State) (x : HostState) : State.withoutRun { u with host := x } = u.withoutRun := rfl
  unfold State.takes State.arrive
  dsimp only
  rw [hhost, hregs (State.count_withoutRegs ..), hregs (State.setFld_withoutRegs ..),
    hregs (State.setFld_withoutRegs ..)]

/-- Changing commands in their places changes no work. -/
theorem State.mapCmds_work (s : State) (f : Cmd → Cmd) :
    ({ s with sched := { s.sched with cmds := s.sched.cmds.map f } } : State).work = s.work := by
  simp only [State.work, List.length_map]

/-- A change of a job that leaves it as it was made changes no work. -/
theorem State.updJob_work (s : State) (k : Nat) {f : Job → Job} (hf : ∀ j, (f j).made = j.made) :
    (s.updJob k f).work = s.work := by
  have hjobs : (s.sched.jobs.map fun x => if x.id = k then f x else x).map Job.made = s.sched.jobs.map Job.made := by
    rw [List.map_map]
    refine List.map_congr_left fun x _ => ?_
    rw [Function.comp_apply, apply_ite Job.made, hf, ite_self]
  simp only [State.work, State.updJob, hjobs]

theorem State.makeReady_kept (s : State) (k : Nat) :
    ((s.makeReady k).work, (s.makeReady k).withoutRun) = (s.work, s.withoutRun) := by
  unfold State.makeReady
  split
  case h_1 x hx =>
    refine Prod.ext ?_ rfl
    refine (State.mapCmds_work _ _).trans (s.updJob_work x.job fun j => ?_)
    split <;> rfl
  case h_2 => rfl

theorem State.readyCheck_kept (s : State) : (s.readyCheck.work, s.readyCheck.withoutRun) = (s.work, s.withoutRun) :=
  State.foldl_kept (fun t => (t.work, t.withoutRun)) (fun t c => t.makeReady_kept c.id) _ s

theorem State.turnCheck_kept (s : State) : (s.turnCheck.work, s.turnCheck.withoutRun) = (s.work, s.withoutRun) := by
  unfold State.turnCheck State.passTurn
  dsimp only
  split
  · rfl
  · split <;> rfl

/-! ### A job with its commands -/

theorem State.addCmds_kept (s : State) (job : Nat) (stages : List Nat) :
    (stages.foldl (fun t k => t.addCmd job k) s).work = { s.work with cmds := s.work.cmds + stages.length } ∧
    (stages.foldl (fun t k => t.addCmd job k) s).withoutRun = s.withoutRun := by
  induction stages generalizing s with
  | nil => exact ⟨rfl, rfl⟩
  | cons k ks ih =>
    obtain ⟨hw, hr⟩ := ih (s.addCmd job k)
    refine ⟨hw.trans ?_, hr⟩
    simp [State.work, State.addCmd, Nat.add_assoc, Nat.add_comm 1]

/-- The replay job of a command (12_reproducibility.md R316). -/
def State.replayJob (s : State) (c : CmdRef) (context : BitVec 16) (model stream : Byte) (lines : Word) : Job :=
  { id := s.sched.nextJob, kind := .replay, ctx := context.toNat, model := model.toNat, stream := stream.toNat
    stripe := 0, lane := 0, gen := s.img.gen, first := 0, last := lines.toNat, ownFirst := 0
    ownLast := lines.toNat - 1, slot := 0, view := 0, input := none, result := none, accepted := 0, closedEnd := true
    det := true, by' := some c, aux := if model.toNat = 2 then s.train.cand.current.getD 0 else s.overlayGen }

/-- The stages of a replay's commands: those of its stripe jobs, and then those of its tail. -/
def Image.replayStages (i : Image) (x : Stream) (model lines : Nat) : List Nat :=
  ((List.range (x.replayStripes lines * x.lanes)).flatMap fun _ => i.stagesOf model false) ++ i.stagesOf model true

theorem Image.replayStages_length (i : Image) (x : Stream) (model lines : Nat) : (i.replayStages x model lines).length =
    x.replayStripes lines * x.lanes * (i.stagesOf model false).length + (i.stagesOf model true).length := by
  simp [Image.replayStages, List.length_flatMap]

/-- The stages of a replay's commands, none without a running image and a bound stream. -/
def State.replayStages (s : State) (model stream lines : Nat) : List Nat :=
  match s.img.running, s.stream stream with
  | some i, some x => i.replayStages x model lines
  | _, _ => []

theorem State.replayStages_running {s : State} {i : Image} {n : Nat} {x : Stream} (hi : s.img.running = some i)
    (hx : s.stream n = some x) (model lines : Nat) : s.replayStages model n lines = i.replayStages x model lines := by
  simp only [State.replayStages, hi, hx]

/-- A job enters the scheduler with its buffers and a command, with space for its output, for each of some stages. -/
def State.queueReplay (s : State) (j : Job) (buffers : Nat × Nat × Nat × Nat) (stages : List Nat) : State :=
  let id := s.sched.nextJob
  let s := s.addJob j
  let s := { s with sched := { s.sched with replays := Tab.put s.sched.replays id buffers } }
  let s := stages.foldl (fun s k => s.addCmd id k) s
  { s with sched := { s.sched with cmds := s.sched.cmds.map fun d =>
    if d.job = id then { d with spaceReserved := true } else d } }

theorem State.queueReplay_kept (s : State) {j : Job} (hj : j.id = s.sched.nextJob) (buffers : Nat × Nat × Nat × Nat)
    (stages : List Nat) :
    (s.queueReplay j buffers stages).work = {
      jobs := s.work.jobs ++ [j.made], cmds := s.work.cmds + stages.length, nextJob := s.work.nextJob + 1
      replays := Tab.put s.work.replays s.work.nextJob buffers } ∧
    (s.queueReplay j buffers stages).withoutRun = s.withoutRun := by
  obtain ⟨hw, hr⟩ := ({ s.addJob j with sched := { (s.addJob j).sched with
    replays := Tab.put s.sched.replays s.sched.nextJob buffers } } : State).addCmds_kept s.sched.nextJob stages
  refine ⟨(State.mapCmds_work _ _).trans (hw.trans ?_), hr⟩
  simp only [State.work, State.addJob, ← hj, List.map_append, List.map_cons, List.map_nil]

/-- A replay of `lines` lines of a model and a stream meets none of its refusals: its context is a host's, the running
image has the model for the stream, and its buffers lie in DRAM and are long enough (R316). -/
structure State.ReplayFits (s : State) (n : BitVec 16) (model stream : Byte) (lines : Word) (la ra : BitVec 64)
    (bytes : Word) (i : Image) (x : Stream) : Prop where
  lineAddr : addrReserved la = false
  resultAddr : addrReserved ra = false
  someLines : 0 < lines.toNat
  linesField : lines.toNat < 2 ^ 32 - 1
  bytesField : bytes.toNat < 2 ^ 32 - 1
  context : n.toNat < 1024
  runs : s.img.running = some i
  isModel : model.toNat ≤ 2
  inModel : i.inModel model.toNat stream.toNat = true
  bound : s.stream stream.toNat = some x
  isHost : s.isHostCtx n.toNat = true
  room : i.replayBytes x model.toNat lines.toNat ≤ bytes.toNat
  linesIn : bufferIn la (x.corrBytes * lines.toNat) = true
  resultIn : bufferIn ra bytes.toNat = true
  candidate : model.toNat = 2 → s.train.cand.current ≠ none

section
variable {s : State} {n : BitVec 16} {model stream : Byte} {lines bytes : Word} {la ra : BitVec 64} {i : Image}
  {x : Stream} (hf : s.ReplayFits n model stream lines la ra bytes i x)
include hf

theorem State.ReplayFits.takes (h : Hdr) (op : Nat) :
    (s.takes h op).1.ReplayFits n model stream lines la ra bytes i x :=
  { hf with
    runs := (congrArg ImgState.running (s.takes_img h op)).trans hf.runs
    bound := (State.stream_congr (s.takes_cam h op) _).trans hf.bound
    isHost := (State.isHostCtx_congr (s.takes_sched h op) _).trans hf.isHost
    candidate := by rw [s.takes_train h op]; exact hf.candidate }

/-- Its job is queued, and then readiness and the host turn are judged. -/
theorem State.ReplayFits.runJobReplay (c : CmdRef) : s.runJobReplay c n model stream lines la ra bytes =
    (s.queueReplay (s.replayJob c n model stream lines) (la.toNat, lines.toNat, ra.toNat, bytes.toNat)
      (i.replayStages x model.toNat lines.toNat)).readyCheck.turnCheck := by
  unfold State.runJobReplay
  extract_lets m k y known need size
  have hknown : known = true := by simp [known, m, k, y, hf.runs, hf.bound, hf.isModel, hf.inModel]
  have hneed : need = i.replayBytes x model.toNat lines.toNat := by simp [need, m, k, y, hf.runs, hf.bound]
  have hsize : size = x.corrBytes * lines.toNat := by simp [size, k, y, hf.bound]
  have hlines : (lines == 0) = false := beq_false_of_ne fun h0 => by
    have h1 := hf.someLines
    simp [h0] at h1
  have hcand : (m == 2 && s.train.cand.current.isNone) = false := by
    simpa [m, ← Option.isNone_iff_eq_none] using hf.candidate
  rw [State.checked_ok]
  · exact congrArg (fun stages => (s.queueReplay (s.replayJob c n model stream lines)
      (la.toNat, lines.toNat, ra.toNat, bytes.toNat) stages).readyCheck.turnCheck)
      (State.replayStages_running hf.runs hf.bound model.toNat lines.toNat)
  · rw [hknown, hneed, hsize, hlines, hcand, hf.lineAddr, hf.resultAddr, hf.isHost, hf.linesIn, hf.resultIn,
      beq_false_of_ne hf.linesField.ne, beq_false_of_ne hf.bytesField.ne, decide_eq_false hf.context.not_ge,
      decide_eq_false hf.room.not_gt]
    rfl

/-- JOB_REPLAY adds its job, a command for each stage, and its buffers to the scheduler's work, and changes nothing
outside the scheduler and the registers. -/
theorem State.ReplayFits.runJobReplay_kept (c : CmdRef) :
    (s.runJobReplay c n model stream lines la ra bytes).work = {
      jobs := s.work.jobs ++ [(s.replayJob c n model stream lines).made]
      cmds := s.work.cmds + (i.replayStages x model.toNat lines.toNat).length, nextJob := s.work.nextJob + 1
      replays := Tab.put s.work.replays s.work.nextJob (la.toNat, lines.toNat, ra.toNat, bytes.toNat) } ∧
    (s.runJobReplay c n model stream lines la ra bytes).withoutRun = s.withoutRun := by
  rw [hf.runJobReplay c]
  obtain ⟨hqueue, hrest⟩ := s.queueReplay_kept (j := s.replayJob c n model stream lines) rfl
    (la.toNat, lines.toNat, ra.toNat, bytes.toNat) (i.replayStages x model.toNat lines.toNat)
  generalize s.queueReplay _ _ _ = v at hqueue hrest ⊢
  obtain ⟨hwork, hrun⟩ := Prod.mk.inj (v.readyCheck.turnCheck_kept.trans v.readyCheck_kept)
  exact ⟨hwork.trans hqueue, hrun.trans hrest⟩

end

/-- Settles O17: the command queues its job with the commands, which readiness and the host turn leave as they were
made, and nothing but the scheduler, the registers and the host block is written. -/
theorem jobReplay : Obligations.JobReplay := by
  intro s h n model stream lines la ra bytes i x hacc hla hra hl0 hl hb hn hi hm him hx hh hneed hlines hresult hcand
  have hfits : s.ReplayFits n model stream lines la ra bytes i x :=
    ⟨hla, hra, hl0, hl, hb, hn, hi, hm, him, hx, hh, hneed, hlines, hresult, hcand⟩
  obtain ⟨hwork, hrest⟩ := (hfits.takes h 0x0303).runJobReplay_kept (s.takes h 0x0303).2
  have hexec : exec (.jobReplay h n model stream lines la ra bytes) s = .next (s.ran h 0x0303 fun c u =>
      u.runJobReplay c n model stream lines la ra bytes) := exec_effect rfl rfl hacc _ rfl
  rw [State.ran] at hexec
  generalize (s.takes h 0x0303).1.runJobReplay _ n model stream lines la ra bytes = t at hwork hrest hexec
  simp only [State.work, Work.mk.injEq, s.takes_sched h, Image.replayStages_length] at hwork
  obtain ⟨hjobs, hcmds, hnext, hreplays⟩ := hwork
  refine ⟨t, hexec, ?job, hnext, ?buffers, hcmds.trans (Nat.add_assoc ..).symm,
    State.restored_of_withoutRun (hrest.trans (s.takes_withoutRun h _))⟩
  case job =>
    obtain ⟨j, hj, hmade⟩ := List.mem_map.mp (hjobs ▸ List.mem_append_right _ (List.mem_singleton_self _))
    simp only [Job.made, State.replayJob, Prod.mk.injEq, s.takes_sched h] at hmade
    exact ⟨j, hj, hmade⟩
  case buffers => rw [hreplays, Tab.get_put_same]

end Sys2Proof.Machine

/-! PROOFS. Group launches: offered, answered, released and ended (O32). -/

namespace Sys2Proof.Machine

/-! ### What the group's standing rests on -/

theorem State.group_congr {s u : State} (h : u.img = s.img) : u.group = s.group := by
  rw [State.group, State.group, h]

section
variable {s u : State} (hn : u.net = s.net)
include hn

theorem State.peerHere_congr : u.peerHere = s.peerHere := by
  funext i
  rw [State.peerHere, State.peerHere, hn]

theorem State.stripsPass_congr (hc : u.cam = s.cam) (g : Bytes) : u.stripsPass g = s.stripsPass g := by
  have hstream : u.stream = s.stream := funext (State.stream_congr hc)
  have hmember : u.memberStrips g = s.memberStrips g := by
    funext i
    rw [State.memberStrips, State.memberStrips, State.ownStrips, State.ownStrips, hstream, hn]
  rw [State.stripsPass, State.stripsPass, hmember]

variable (hi : u.img = s.img)
include hi

theorem State.groupMembers_congr : u.groupMembers = s.groupMembers := by
  rw [State.groupMembers, State.groupMembers, State.group_congr hi, State.peerHere_congr hn, hn]

variable (hc : u.cam = s.cam)
include hc

theorem State.groupWhole_congr (g : Bytes) : u.groupWhole g = s.groupWhole g := by
  have hdomain : u.ptpDomain = s.ptpDomain := by
    rw [State.ptpDomain, State.ptpDomain, State.imgRecord, State.imgRecord, hi]
  rw [State.groupWhole, State.groupWhole, State.peerHere_congr hn, State.stripsPass_congr hn hc, hdomain, hn]

theorem State.groupState_congr : u.groupState = s.groupState := by
  have hwhole : u.groupWhole = s.groupWhole := funext (State.groupWhole_congr hn hi hc)
  rw [State.groupState, State.groupState, State.group_congr hi, State.peerHere_congr hn, hwhole,
    State.groupMembers_congr hn hi, hn]

end

/-- This module leads a FORMED group (15_line_group_and_time.md R375). -/
def State.leads (s : State) : Prop := ∃ g, s.group = some g ∧ Grp.index g = 0 ∧ s.groupState = 2

theorem State.leads_takes (s : State) (h : Hdr) (op : Nat) : (s.takes h op).1.leads ↔ s.leads := by
  rw [State.leads, State.leads, State.group_congr (s.takes_img h op),
    State.groupState_congr (s.takes_net h op) (s.takes_img h op) (s.takes_cam h op)]

/-! ### What a message sent leaves alone -/

section
variable (s : State) (peer : Option Nat) (type : Nat) (payload : Bytes) (acked : Bool) (part : BitVec 64)

@[simp] theorem State.groupSend_img : (s.groupSend peer type payload acked part).img = s.img := by
  unfold State.groupSend
  split <;> rfl

@[simp] theorem State.groupSend_time : (s.groupSend peer type payload acked part).time = s.time := by
  unfold State.groupSend
  split <;> rfl

@[simp] theorem State.groupSend_launches : (s.groupSend peer type payload acked part).net.launches = s.net.launches := by
  unfold State.groupSend
  split <;> rfl

end

theorem State.launchCounter_congr {s u : State} (h : u.time = s.time) : u.launchCounter = s.launchCounter := by
  rw [State.launchCounter, State.launchCounter, State.tb0Ns, State.tb0Ns, h]

section
variable (s : State) (g : GrpHdr)

@[simp] theorem State.grpAck_img : (s.grpAck g).img = s.img := by
  unfold State.grpAck
  split <;> simp

@[simp] theorem State.grpAck_time : (s.grpAck g).time = s.time := by
  unfold State.grpAck
  split <;> simp

@[simp] theorem State.grpAck_launches : (s.grpAck g).net.launches = s.net.launches := by
  unfold State.grpAck
  split <;> simp

end

/-- A message that matches and has not been seen is noted, acknowledged and performed. -/
theorem State.receive_new {s : State} {g : GrpHdr} (hm : s.grpMatches g = true) (hs : s.grpSeen g = false)
    (body : State → State) : s.receive g body = body ((s.noteSeq g).grpAck g) := by
  simp [State.receive, hm, hs]

/-! ### GROUP_LAUNCH at the leader (R323, R419) -/

/-- The item goes to every other member, and the launch is held until they have answered; the leader answers first. -/
def State.offerLaunch (s : State) (c : CmdRef) (l : Nat) (e : Bytes) : State :=
  let v := ((List.range ((s.group.map Grp.size).getD 0)).drop 1).foldl
    (fun t m => t.groupSend (some m) 0x05 (e ++ natLe 8 l) true) s
  let w : State := { v with net := { v.net with launches := v.net.launches ++ [⟨l, e, some c, []⟩] } }
  (w.checkItem e l).1.groupAnswered l 0 (w.checkItem e l).2

section
variable {s : State} (c : CmdRef) {h : Hdr} {a : BitVec 64} (ha : addrReserved a = false)
include ha

theorem State.runGroupLaunch_unled (hl : ¬s.leads) :
    s.runGroupLaunch c h a = s.complete c Code.groupNotFormed 0 0xFF := by
  unfold State.runGroupLaunch
  extract_lets l lead
  have hlead : (!lead || decide (s.groupState ≠ 2)) = true := by
    by_contra hn
    refine hl ?_
    cases hg : s.group with
    | none => simp [lead, hg] at hn
    | some g =>
      refine ⟨g, hg, ?_⟩
      simpa [lead, hg] using hn
  rw [if_neg (by simp [ha]), if_pos (by simpa using hlead)]

theorem State.runGroupLaunch_unmapped (hl : s.leads) (hb : bufferIn a 64 = false) :
    s.runGroupLaunch c h a = s.complete c Code.addressUnmapped 0 0xFF := by
  obtain ⟨g, hg, hx, hf⟩ := hl
  simp [State.runGroupLaunch, ha, hb, hg, hx, hf]

/-- The leader reads the item, and judges it before any member sees it. -/
theorem State.runGroupLaunch_read (hl : s.leads) (hb : bufferIn a 64 = true) (hr : s.badIn a.toNat 64 = none) :
    s.runGroupLaunch c h a =
      if !groupItem (s.load a.toNat 64) then s.complete c Code.fieldReserved 0 0xFF
      else if s.launchOf h.launch < s.launchCounter + 5000 then s.complete c Code.launchLate 0 0xFF
      else s.offerLaunch c (s.launchOf h.launch) (s.load a.toNat 64) := by
  obtain ⟨g, hg, hx, hf⟩ := hl
  unfold State.runGroupLaunch
  extract_lets l lead
  have hlead : ¬(!lead || decide (s.groupState ≠ 2)) = true := by simp [lead, hg, hx, hf]
  rw [if_neg (by simp [ha]), if_neg (by simpa using hlead), if_neg (by simp [hb]), State.readBuf_good hr]
  rfl

end

/-! ### The end of a group launch (R323) -/

/-- The state with the group launches given. -/
def State.withLaunches (s : State) (rs : List GroupLaunch) : State := { s with net := { s.net with launches := rs } }

section
variable {s : State} {r : GroupLaunch} (hr : s.net.launches = [r])
include hr

/-- The only launch ends. -/
theorem State.endGroup_only (status refusing : Nat) : s.endGroup r.launch status refusing =
    (s.withLaunches []).answer r.by' status 0 refusing := by
  simp [State.endGroup, hr, State.withLaunches]

theorem State.groupDeadline_only : s.groupDeadline = (s.withLaunches []).answer r.by' Code.launchLate 0 0xFF := by
  have hmin : (s.net.launches.map GroupLaunch.launch).min? = some r.launch := by rw [hr]; rfl
  simp only [State.groupDeadline, hmin, State.endGroup_only hr]

variable {grp : Bytes} (hg : s.group = some grp)
include hg

/-- The launch goes on while an answer is missing, and when the time for GO is past. -/
theorem State.groupReady_waits (h : (∃ m, m < Grp.size grp ∧ m ∉ r.accepted) ∨ r.launch ≤ s.launchCounter + 1000) :
    s.groupReady r.launch = s := by
  simp only [State.groupReady, hg, hr, List.find?_cons, beq_self_eq_true]
  refine if_pos ?_
  simpa using h

/-- GO goes to every other member, and the launch ends with OK. -/
theorem State.groupReady_goes (hall : ∀ m, m < Grp.size grp → m ∈ r.accepted)
    (hl : s.launchCounter + 1000 < r.launch) : s.groupReady r.launch =
    (((((List.range (Grp.size grp)).drop 1).foldl (fun t m => t.groupSend (some m) 0x07 (natLe 8 r.launch) true)
      s).goNow r.launch).withLaunches []).answer r.by' Code.ok 0 0xFF := by
  simp only [State.groupReady, hg, hr, List.find?_cons, beq_self_eq_true]
  refine (if_neg (by simpa using ⟨hall, hl⟩)).trans (State.endGroup_only ?_ _ _)
  exact (State.foldl_kept (·.net.launches) (fun t m => t.groupSend_launches ..) _ _).trans hr

end

/-! ### The answers (R323, R374) -/

/-- The state without the item that a member's answer acknowledges among the messages kept. -/
def State.itemAcked (s : State) (sender launch : Nat) : State :=
  { s with net := { s.net with unacked := s.net.unacked.filter fun m =>
    !(m.peer == sender && m.type == 0x05 && leAt m.payload 64 8 == launch) } }

section
variable {s : State} {r : GroupLaunch} {sender launch : Nat} (hr : s.net.launches = [r]) (hl : r.launch = launch)
include hr hl

theorem State.launchAnswer_refused {status : Nat} (hs : status ≠ Code.ok) : s.launchAnswer sender launch status =
    ((s.itemAcked sender launch).withLaunches []).answer r.by' status 0 sender := by
  subst hl
  have hacked : (s.itemAcked sender r.launch).net.launches = [r] := hr
  exact (if_pos hs).trans (State.endGroup_only hacked _ _)

/-- An acceptance is noted, and may be the last. -/
theorem State.launchAnswer_accepted : s.launchAnswer sender launch Code.ok =
    ((s.itemAcked sender launch).withLaunches [{ r with accepted := (sender :: r.accepted).dedup }]).groupReady
      launch := by
  subst hl
  simp [State.launchAnswer, State.groupAnswered, State.itemAcked, State.withLaunches, hr]

end

/-! ### The commands -/

/-- GROUP_LAUNCH at a leader that can read the item. -/
theorem exec_groupLaunch_read {s : State} {h : Hdr} {a : BitVec 64} (hacc : s.accepts h true)
    (ha : addrReserved a = false) (hl : s.leads) (hb : bufferIn a 64 = true) (hr : s.badIn a.toNat 64 = none) :
    exec (.groupLaunch h a) s = .next (s.ran h 0x0203 fun c u =>
      if !groupItem (s.load a.toNat 64) then u.complete c Code.fieldReserved 0 0xFF
      else if s.launchOf h.launch < s.launchCounter + 5000 then u.complete c Code.launchLate 0 0xFF
      else u.offerLaunch c (s.launchOf h.launch) (s.load a.toNat 64)) := by
  have hgood := (State.badIn_congr (s.takes_mc h 0x0203) a.toNat 64).trans hr
  refine exec_effect rfl rfl (s.accepts_of h _ _ hacc) _
    ((State.runGroupLaunch_read _ ha ((s.leads_takes h _).mpr hl) hb hgood).trans ?_)
  rw [State.load_congr (s.takes_mem h _), State.takes_launchOf, State.takes_launchCounter]

section
variable {s : State} {g : GrpHdr} (hm : s.grpMatches g = true) (hs : s.grpSeen g = false) (l : BitVec 64)
include hm hs

theorem exec_launchItem (e : Bytes) : exec (.launchItem g e l) s =
    .next ((s.noteSeq g).launchItem g.sender.toNat g.seq e l.toNat) := by
  change execLaunchItem g e l s = _
  simp [execLaunchItem, hm, hs]

theorem exec_launchAnswer (st pt : Byte) : exec (.launchAnswer g l st pt) s =
    .next (((s.noteSeq g).grpAck g).launchAnswer g.sender.toNat l.toNat st.toNat) :=
  congrArg Host.Outcome.next (State.receive_new hm hs _)

end

theorem State.checkItem_listening {s : State} (h : s.time.tb0.st = .listening) (e : Bytes) (l : Nat) :
    s.checkItem e l = (s, Code.timeNotLocked) := by
  simp [State.checkItem, State.timeFit, h]

theorem State.groupDeadline_none {s : State} (h : s.net.launches = []) : s.groupDeadline = s := by
  simp [State.groupDeadline, h]

/-- Settles O32: what decides a launch is the group's standing, the item and the count on the state that taking the
command leaves, and each answer meets the only launch. -/
theorem groupLaunches : Obligations.GroupLaunches := by
  refine ⟨fun s h a hacc ha => ?launch, fun s e l h => State.checkItem_listening h e l,
    fun s g e l hm hs => ?item, fun s g l st pt r hm hs hr hl => ?answer,
    fun s h => congrArg Host.Outcome.next (State.groupDeadline_none h),
    fun s r hr => congrArg Host.Outcome.next (State.groupDeadline_only hr)⟩
  case launch =>
    intro l e lead refused
    have hled := s.leads_takes h 0x0203
    have hacc' := s.accepts_of h true false hacc
    refine ⟨fun hl => exec_effect rfl rfl hacc' _ (State.runGroupLaunch_unled _ ha (hled.not.mpr hl)),
      fun hl hb => exec_effect rfl rfl hacc' _ (State.runGroupLaunch_unmapped _ ha (hled.mpr hl) hb),
      fun hl hb hr => ?_⟩
    have hread : exec (.groupLaunch h a) s = .next (s.ran h 0x0203 fun c u =>
        if !groupItem e then u.complete c Code.fieldReserved 0 0xFF
        else if l < s.launchCounter + 5000 then u.complete c Code.launchLate 0 0xFF
        else u.offerLaunch c l e) := exec_groupLaunch_read hacc ha hl hb hr
    refine ⟨fun he => by simp [hread, he, refused], fun he hlate => by simp [hread, he, hlate, refused],
      fun he hfar => ?_⟩
    simp only [hread, he, hfar.not_gt, Bool.not_true, Bool.false_eq_true, if_false]
    rfl
  case item =>
    intro u answer
    rw [exec_launchItem hm hs]
    refine ⟨fun he => ?_, fun he => ?_⟩
    · simp only [State.launchItem, he, Bool.false_eq_true, if_false]
      rfl
    · simp only [State.launchItem, he, if_true]
      rfl
  case answer =>
    intro _ u
    have hu : ((s.noteSeq g).grpAck g).net.launches = [r] := (State.grpAck_launches ..).trans hr
    rw [exec_launchAnswer hm hs]
    refine ⟨fun hst => ?refused, fun hst grp hg => ?accepted⟩
    case refused =>
      have hcode : st.toNat ≠ Code.ok := fun h0 => hst (BitVec.eq_of_toNat_eq h0)
      exact congrArg Host.Outcome.next (State.launchAnswer_refused hu hl hcode)
    case accepted =>
      intro acc v
      have hgrp : v.group = some grp := (State.group_congr (State.grpAck_img ..)).trans hg
      have hcount : v.launchCounter = s.launchCounter := State.launchCounter_congr (State.grpAck_time ..)
      let r' : GroupLaunch := { r with accepted := acc }
      have hv : v.net.launches = [r'] := rfl
      have hstep : ((s.noteSeq g).grpAck g).launchAnswer g.sender.toNat l.toNat st.toNat = v.groupReady l.toNat := by
        subst hst
        exact State.launchAnswer_accepted hu hl
      rw [hstep, ← hl, ← hcount]
      exact ⟨fun h => congrArg Host.Outcome.next (State.groupReady_waits (r := r') hv hgrp h),
        fun hall hlt => congrArg Host.Outcome.next (State.groupReady_goes (r := r') hv hgrp hall hlt)⟩

end Sys2Proof.Machine

/-! PROOFS. Libraries attached and filled, samples decoded and delivered, and the cache emptied (O45). -/

namespace Sys2Proof.Machine

/-! ### LIBRARY_ATTACH (R326) -/

section
variable {s : State} {c : CmdRef} {k : Byte} {a n : BitVec 64} {l : Library} (hl : s.lib k.toNat = some l)
  (hn : allOnes64 n = false)
include hl hn

/-- A library that is not the seat's host library. -/
theorem State.runLibraryAttach_other (ho : Lib.inHost l.cfg = false ∨ byteAt l.cfg 5 ≠ c.seat) :
    s.runLibraryAttach c k a n = s.complete c Code.badIndex := by
  have hother : (Lib.inHost l.cfg && byteAt l.cfg 5 == c.seat) = false := by simpa [imp_iff_not_or] using ho
  simp [State.runLibraryAttach, State.checked, firstCode, hn, hl, hother]

section
variable (hin : Lib.inHost l.cfg = true) (hown : byteAt l.cfg 5 = c.seat) (hseat : c.seat < 2)
include hin hown hseat

theorem State.runLibraryAttach_zero (h0 : n = 0) :
    s.runLibraryAttach c k a n = (s.detachLib k.toNat).complete c Code.ok := by
  have h0' : n.toNat = 0 := congrArg BitVec.toNat h0
  rw [State.runLibraryAttach, State.checked_ok _ _ _ _ (by simp [hn, hl, hin, hown, hseat, h0'])]
  exact if_pos h0'

theorem State.runLibraryAttach_sized (hm : n.toNat % 65536 = 0) (hs : 1048576 ≤ n.toNat) :
    s.runLibraryAttach c k a n =
      (((s.updLib k.toNat fun l => { l with host := some (c.seat, a.toNat, n.toNat) }).libSettle k.toNat).log
        { info adaptSource with initiator := c.seat, arg0 := n64 k.toNat }).complete c Code.ok := by
  rw [State.runLibraryAttach, State.checked_ok _ _ _ _ (by simp [hn, hl, hin, hown, hseat, hm, hs])]
  exact if_neg (by omega)

theorem State.runLibraryAttach_badSize (h0 : n ≠ 0) (hs : n.toNat % 65536 ≠ 0 ∨ n.toNat < 1048576) :
    s.runLibraryAttach c k a n = s.complete c Code.lengthRange := by
  have hn0 : n.toNat ≠ 0 := fun h => h0 (BitVec.eq_of_toNat_eq h)
  have hbad : (n.toNat != 0 && (n.toNat % 65536 != 0 || decide (n.toNat < 1048576))) = true := by simpa [hn0] using hs
  simp [State.runLibraryAttach, State.checked, firstCode, hn, hl, hin, hown, hseat, hbad]

end

end

/-! ### A coded crop (R329) -/

section
variable {s : State} {c : Crop} {q : List Crop} {l : Library} {p : Part} (hw : s.cap.waiting = c :: q)
  (hl : s.lib c.library = some l) (hp : s.part c.slot = some p)
include hw hl hp

theorem State.encodeCrop_detached (hr : s.libReach l = false) : s.encodeCrop = s.abandonWith c.id 3 := by
  simp [State.encodeCrop, hw, hl, hp, hr]

section
variable (hr : s.libReach l = true) {u : State} {planes : List (List (List Nat))} {twelve damaged : Bool}
  (hc : s.cropPlanes c (Lib.shift16 l.cfg) = (u, planes, twelve, damaged)) {data : Bytes}
  (hd : jpegEncode (Lib.quality l.cfg) twelve planes = data)
include hr hc hd

/-- A sample longer than the library takes at all. -/
theorem State.encodeCrop_tooLong
    (hs : Lib.maxSample l.cfg < data.length ∨ (Lib.stopsFull l.cfg = false ∧ l.size < data.length)) :
    s.encodeCrop = u.abandonWith c.id 1 := by
  subst hd
  simp [State.encodeCrop, hw, hl, hp, hr, hc, hs]

variable (hm : data.length ≤ Lib.maxSample l.cfg) (hs : Lib.stopsFull l.cfg = true ∨ data.length ≤ l.size)
include hm hs

/-- A sample that the library takes goes in if it fits once room was made, and else is abandoned. -/
theorem State.encodeCrop_taken : s.encodeCrop =
    let v := u.libSettle c.library
    let w := if Lib.stopsFull l.cfg then v else v.makeFit c.library data.length (l.next - l.oldest + 1)
    if w.libFits c.library data.length then w.putSample c p c.library data planes.length twelve damaged
    else w.abandonWith c.id 2 := by
  have hfit : ¬(Lib.maxSample l.cfg < data.length ∨ ((!Lib.stopsFull l.cfg) = true ∧ l.size < data.length)) := by
    simpa [hm, ← imp_iff_or_not, imp_iff_not_or] using hs
  subst hd
  simp only [State.encodeCrop, hw, hl, hp, hr, hc, hfit, Bool.not_true, Bool.false_eq_true, if_false]

theorem State.encodeCrop_fits (hf : (u.libSettle c.library).libFits c.library data.length = true) :
    s.encodeCrop = (u.libSettle c.library).putSample c p c.library data planes.length twelve damaged := by
  have hkeep (f : Nat) : (u.libSettle c.library).makeFit c.library data.length (f + 1) = u.libSettle c.library :=
    if_pos hf
  rw [State.encodeCrop_taken hw hl hp hr hc hd hm hs]
  simp only [hkeep, ite_self, hf, if_true]

/-- A full library that keeps what it holds. -/
theorem State.encodeCrop_full (hf : (u.libSettle c.library).libFits c.library data.length = false)
    (hstop : Lib.stopsFull l.cfg = true) : s.encodeCrop = (u.libSettle c.library).abandonWith c.id 2 := by
  rw [State.encodeCrop_taken hw hl hp hr hc hd hm hs]
  simp [hstop, hf]

end

end

/-- What a sample put into a library writes and counts. -/
theorem State.putSample_of_lib {s : State} {k : Nat} {l : Library} (hl : s.lib k = some l) (c : Crop) (p : Part)
    (data : Bytes) (comps : Nat) (twelve damaged : Bool) :
    s.putSample c p k data comps twelve damaged =
      ((((((s.ringWrite l l.wr data).store (l.entryAddr l.next)
        (sampleEntry c p l.next l.wr data.length comps twelve damaged)).updLib k fun l => { l with
          next := l.next + 1, wr := (l.wr + data.length) % max 1 l.size }).libSettle k).count .capCount []).updPart
        c.slot fun p => { p with captured := true }).dropCrop c.id := by
  simp only [State.putSample, hl]

theorem exec_cropEncoded (s : State) : exec .cropEncoded s = .next s.encodeCrop.settleParts := rfl

/-! ### SAMPLE_DECODE (R330) -/

section
variable {s : State} {c : CmdRef} {k : Byte} {sample a : BitVec 64} {n : Word} (ha : addrReserved a = false)
  (hn : n.toNat ≠ 4294967295)
include ha hn

theorem State.runSampleDecode_unknown (hl : s.lib k.toNat = none) :
    s.runSampleDecode c k sample a n = s.complete c Code.badIndex := by
  simp [State.runSampleDecode, State.checked, firstCode, ha, hn, hl]

section
variable (hl : (s.lib k.toNat).isSome = true)
include hl

theorem State.runSampleDecode_unmapped (hb : bufferIn a n.toNat = false) :
    s.runSampleDecode c k sample a n = s.complete c Code.addressUnmapped := by
  obtain ⟨l, hl⟩ := Option.isSome_iff_exists.mp hl
  simp [State.runSampleDecode, State.checked, firstCode, ha, hn, hl, hb]

theorem State.runSampleDecode_good (hb : bufferIn a n.toNat = true) :
    s.runSampleDecode c k sample a n = (s.request (32 + c.seat) k.toNat sample.toNat
      (s.decStream (32 + c.seat)).nextIndex (some c) a.toNat n.toNat s.img.detMode).settleDec (32 + c.seat) :=
  s.checked_ok c _ _ (by simp [ha, hn, hl, hb])

end

end

/-! ### Decode streams as parts of the state -/

theorem State.decStream_congr {s u : State} (h : u.cap.streams = s.cap.streams) (n : Nat) :
    u.decStream n = s.decStream n := by
  rw [State.decStream, State.decStream, h]

@[simp] theorem State.decStream_setDec_same (s : State) (n : Nat) (d : DecStream) : (s.setDec n d).decStream n = d :=
  Tab.getD_put_same ..

theorem State.budgetOf_congr {s u : State} (h : u.img = s.img) (d : DecStream) (start mcus : Nat) :
    u.budgetOf d start mcus = s.budgetOf d start mcus := by
  have hlimits : u.decLimits = s.decLimits := by
    unfold State.decLimits State.imgRecord
    rw [h]
  rw [State.budgetOf, State.budgetOf, hlimits]

/-- Using a cached sample again changes the order of the cache alone. -/
theorem State.cacheSample_frame (s : State) (e : CacheEntry) :
    (s.cacheSample e).img = s.img ∧ (s.cacheSample e).cap.streams = s.cap.streams := by
  unfold State.cacheSample
  split <;> exact ⟨rfl, rfl⟩

/-! ### The outcome of a request (R334) -/

/-- A request that has taken its engine, its stamps and its outcome. -/
def DecReq.ended (r : DecReq) (o : Outcome') (engine start cycles : Nat) : DecReq :=
  { r with
    engine := engine, start := start, stop := start + cycles, cycles := cycles, mcus := o.mcus
    outcome := some o.code, lostMcu := o.lostMcu, lostByte := o.lostByte, lostCount := o.lostCount
    planes := o.planes, bits12 := o.bits12 }

/-- A decode stream after one of its requests has taken its outcome from the engine with the lowest stamp. -/
def DecStream.ended (d : DecStream) (r : DecReq) (o : Outcome') (cycles : Nat) : DecStream :=
  let start := (lowestStamp d.stamps).1
  let engine := (lowestStamp d.stamps).2
  { stamps := d.stamps.set engine (start + cycles)
    reqs := d.reqs.map fun x => if x.position = r.position then r.ended o engine start cycles else x
    hist := if o.code == Code.ok || o.code == Code.decodeDamaged then
      d.hist ++ [(start + cycles, cycles, o.mcus)] else d.hist }

theorem State.decStream_settleReq (s : State) (n : Nat) (r : DecReq) (o : Outcome') (cycles : Nat) :
    (s.settleReq n r o cycles).decStream n = (s.decStream n).ended r o cycles := by
  have hput : (s.setDec n ((s.decStream n).ended r o cycles)).decStream n = (s.decStream n).ended r o cycles :=
    s.decStream_setDec_same n _
  unfold State.settleReq
  dsimp only
  split
  · exact (State.decStream_congr (congrArg CaptureState.streams (State.setFlag_cap ..)) n).trans hput
  · exact hput

/-- Every request of the stream with that position has ended. -/
theorem DecStream.ended_of_position {d : DecStream} {r q : DecReq} {o : Outcome'} {cycles : Nat}
    (hq : q ∈ (d.ended r o cycles).reqs) (hp : q.position = r.position) :
    q = r.ended o (lowestStamp d.stamps).2 (lowestStamp d.stamps).1 cycles := by
  obtain ⟨x, -, rfl⟩ := List.mem_map.mp hq
  split
  case isTrue => rfl
  case isFalse hne => exact absurd (by rwa [if_neg hne] at hp) hne

/-! ### The budget of a decode (R335) -/

section
variable {s : State} {n : Nat} {r : DecReq} {mcus cycles : Nat} (f : State → State)

theorem State.withinBudget_below
    (h : cycles < s.budgetOf (s.decStream n) (lowestStamp (s.decStream n).stamps).1 mcus) :
    s.withinBudget n r mcus cycles f = f s := if_pos h

/-- A decode that reaches its budget ends there. -/
theorem State.withinBudget_reached
    (h : s.budgetOf (s.decStream n) (lowestStamp (s.decStream n).stamps).1 mcus ≤ cycles) :
    s.withinBudget n r mcus cycles f =
      let m := s.draw (max 1 mcus)
      let b := m.2.draw (max 1 (LEntry.length r.entry))
      b.2.settleReq n r { code := Code.decodeTimeout, lostMcu := m.1, lostByte := b.1, mcus := mcus }
        (s.budgetOf (s.decStream n) (lowestStamp (s.decStream n).stamps).1 mcus) := if_neg h.not_gt

end

theorem decodeBytes_mcus (data : Bytes) (maxW maxH : Nat) : (decodeBytes data maxW maxH).mcus =
    let j := readJpeg data
    if (j.refused maxW maxH).isSome then 0 else j.mcus.1 * j.mcus.2.1 := by
  unfold decodeBytes
  dsimp only
  cases (readJpeg data).refused maxW maxH <;> rfl

/-! ### A request that an engine works on (R330, R334, R338) -/

/-- A decode from the library that stayed below its budget: its entry is read again, and where it is unchanged the
request takes the outcome, and the cache may take the sample. -/
def State.endDecode (s : State) (n : Nat) (r : DecReq) (l : Library) (o : Outcome') (cycles : Nat) : State :=
  let v := s.libEntry l r.sample
  if v.2 ≠ r.entry then v.1.settleReq n r { code := Code.sampleGone } cycles else
  let w := v.1.settleReq n r o cycles
  if r.mayCache && (o.code == Code.ok || o.code == Code.decodeDamaged) then
    w.cacheSample { library := r.library, sample := r.sample, dataLength := LEntry.length r.entry, outcome := o.code
                    lostMcu := o.lostMcu, lostByte := o.lostByte, lostCount := o.lostCount
                    cycles := cycles, mcus := o.mcus, planes := o.planes, bits12 := o.bits12 }
  else w

section
variable {s : State} {r : DecReq}

section
variable {n : Nat} (hw : (s.decStream n).waiting = some r) (he : r.early = none)
include hw he

/-- While the first request without outcome waits for its engine, there is no early end to settle. -/
theorem State.settleDec_of_waiting : s.settleDec n = s := by
  unfold State.settleDec
  cases (s.decStream n).reqs.length with
  | zero => rfl
  | succ f => simp only [State.settleEarly, hw, he]

end

section
variable {n : Fin 36} (hw : (s.decStream n).waiting = some r) (he : r.early = none)
include hw he

theorem exec_decodeComplete : exec (.decodeComplete n) s = .next ((s.finishReq n r).settleDec n) := by
  change Host.Outcome.next (s.decodeDone n) = _
  simp only [State.decodeDone, State.settleDec_of_waiting hw he, hw]

theorem exec_decodeTimeout {l : Library} (hl : s.lib r.library = some l) (hc : s.cacheHit r = none) {u : State}
    {data : Bytes} (hr : s.ringRead l (LEntry.offset r.entry) (LEntry.length r.entry) = (u, data)) :
    exec (.decodeTimeout n) s = .next ((u.withinBudget n r (decodeBytes data s.decLimits.1 s.decLimits.2.1).mcus
      (Config.decodeCycles data) id).settleDec n) := by
  change Host.Outcome.next (s.decodeTimeout n) = _
  rw [decodeBytes_mcus]
  simp only [State.decodeTimeout, State.settleDec_of_waiting hw he, hw, hc, hl, hr]

end

end

section
variable {s : State} {n : Nat} {r : DecReq} {l : Library} (hl : s.lib r.library = some l)
include hl

/-- A decode from the cache reads the entry again, and ends as the sample did when it was decoded. -/
theorem State.finishReq_cached {e : CacheEntry} (hc : s.cacheHit r = some e) {u : State} {now : Bytes}
    (hn : ((s.cacheSample e).count .cacheHits []).libEntry l r.sample = (u, now))
    (hb : e.cycles < s.budgetOf (s.decStream n) (lowestStamp (s.decStream n).stamps).1 e.mcus) :
    s.finishReq n r = u.settleReq n r (if now ≠ r.entry then { code := Code.sampleGone } else
      { code := e.outcome, lostMcu := e.lostMcu, lostByte := e.lostByte, lostCount := e.lostCount, mcus := e.mcus
        planes := e.planes, bits12 := e.bits12 }) e.cycles := by
  obtain ⟨himg, hstreams⟩ := s.cacheSample_frame e
  have hdec : ((s.cacheSample e).count .cacheHits []).decStream n = s.decStream n :=
    State.decStream_congr ((congrArg CaptureState.streams (State.count_cap ..)).trans hstreams) n
  have hbudget : e.cycles < ((s.cacheSample e).count .cacheHits []).budgetOf
      (((s.cacheSample e).count .cacheHits []).decStream n)
      (lowestStamp (((s.cacheSample e).count .cacheHits []).decStream n).stamps).1 e.mcus := by
    rwa [hdec, State.budgetOf_congr ((State.count_img ..).trans himg)]
  simp only [State.finishReq, hl, hc]
  rw [State.withinBudget_below _ hbudget, hn]
  exact (apply_ite (u.settleReq n r · e.cycles) _ _ _).symm

/-- A decode from the library is tested against its budget, and below it ends as its entry, read again, says. -/
theorem State.finishReq_decoded (hc : s.cacheHit r = none) (hreach : s.libReach l = true) {u : State} {data : Bytes}
    (hr : s.ringRead l (LEntry.offset r.entry) (LEntry.length r.entry) = (u, data)) :
    s.finishReq n r = u.withinBudget n r (decodeBytes data s.decLimits.1 s.decLimits.2.1).mcus
      (Config.decodeCycles data) fun u =>
        u.endDecode n r l (decodeBytes data s.decLimits.1 s.decLimits.2.1) (Config.decodeCycles data) := by
  simp only [State.finishReq, hl, hc, hreach, hr, Bool.not_true, Bool.false_eq_true, if_false]
  rfl

end

section
variable {s v : State} {n : Nat} {r : DecReq} {l : Library} {e : Bytes} (hv : s.libEntry l r.sample = (v, e))
  (o : Outcome') (cycles : Nat)
include hv

theorem State.endDecode_gone (he : e ≠ r.entry) :
    s.endDecode n r l o cycles = v.settleReq n r { code := Code.sampleGone } cycles := by
  simp only [State.endDecode, hv]
  exact if_pos he

theorem State.endDecode_uncached (he : e = r.entry) (hm : r.mayCache = false) :
    s.endDecode n r l o cycles = v.settleReq n r o cycles := by
  simp [State.endDecode, hv, he, hm]

end

/-! ### Delivery (R336) -/

theorem DecStream.next_inOrder {d : DecStream} {r : DecReq} {q : List DecReq} (hq : d.reqs = r :: q)
    (hd : r.delivered = false) (hdet : r.det = true) : d.next = if r.outcome.isSome then some r else none := by
  simp [DecStream.next, hq, hd, hdet]

theorem exec_sampleDelivery_none {s : State} {n : Fin 36} (h : (s.decStream n).next = none) :
    exec (.sampleDelivery n) s = .next s := by
  change Host.Outcome.next (s.deliver n) = _
  rw [State.deliver, h]

theorem exec_sampleDelivery_seat {s : State} {n : Fin 36} {r : DecReq} (h : (s.decStream n).next = some r)
    (hn : 32 ≤ n.val) : exec (.sampleDelivery n) s = .next (s.deliverSeat n r) := by
  change Host.Outcome.next (s.deliver n) = _
  rw [State.deliver, h]
  exact congrArg Host.Outcome.next (if_neg hn.not_gt)

/-! ### FLUSH (R338, R344) -/

/-- The positions of a stream's requests whose decodes run. -/
def DecStream.running (d : DecStream) : List Nat :=
  ((d.reqs.filter fun r => r.outcome.isNone).take 4).map fun r => r.position

/-- A decode stream whose running decodes are not cached. -/
def DecStream.flushed (d : DecStream) : DecStream :=
  { d with reqs := d.reqs.map fun r => if d.running.contains r.position then { r with mayCache := false } else r }

theorem DecStream.mem_flushed {d : DecStream} {q : DecReq} (hq : q ∈ d.flushed.reqs) :
    q.mayCache = false ∨ q ∈ d.reqs := by
  obtain ⟨x, hx, rfl⟩ := List.mem_map.mp hq
  split
  · exact .inl rfl
  · exact .inr hx

theorem Tab.get_map {α : Type} (t : Tab α) (f : α → α) (k : Nat) :
    Tab.get (t.map fun e => (e.1, f e.2)) k = (Tab.get t k).map f := by
  induction t with
  | nil => rfl
  | cons e t ih =>
    simp only [List.map_cons, Tab.get, ih]
    split <;> rfl

theorem State.decStream_flushCache (s : State) (n : Nat) : s.flushCache.decStream n = (s.decStream n).flushed := by
  have hstreams : s.flushCache.cap.streams = s.cap.streams.map fun e => (e.1, e.2.flushed) := rfl
  unfold State.decStream Tab.getD
  rw [hstreams, Tab.get_map]
  cases Tab.get s.cap.streams n <;> rfl

/-- Settles O45: each command meets its refusals in order on the state its ring leaves; what becomes of a coded crop is
decided by its length and by the room of its library; and DECODE_COMPLETE and DECODE_TIMEOUT come to one test of the
decode's cycles against its budget, so that at the budget they agree. -/
theorem librariesAndDecoding : Obligations.LibrariesAndDecoding := by
  refine ⟨fun s h k a n l hacc hn hl => ?attach, fun s c q l p hw hl hp => ?crop,
    fun s c p k data comps twelve damaged l hl => State.putSample_of_lib hl c p data comps twelve damaged,
    fun s h k sample a n hacc ha hn => ?request, fun s n r l hw he hl => ?complete, fun s n r o cycles => ?ended,
    fun s n r l hw he hl u data hr => ?timeout, fun s n h => exec_sampleDelivery_none h,
    fun s n r q hq hd hdet => DecStream.next_inOrder hq hd hdet, fun s n r code hnext hn hcode => ?deliver,
    fun s seat => ?flush⟩
  case attach =>
    refine ⟨fun hin hown hseat => ⟨fun h0 => ?_, fun hm hs => ?_, fun h0 hs => ?_⟩, fun ho => ?_⟩
    · exact exec_effect rfl rfl hacc _ (State.runLibraryAttach_zero hl hn hin hown hseat h0)
    · exact exec_effect rfl rfl hacc _ (State.runLibraryAttach_sized hl hn hin hown hseat hm hs)
    · exact exec_effect rfl rfl hacc _ (State.runLibraryAttach_badSize hl hn hin hown hseat h0 hs)
    · exact exec_effect rfl rfl hacc _ (State.runLibraryAttach_other hl hn ho)
  case crop =>
    have hexec {t : State} (h : s.encodeCrop = t) : exec .cropEncoded s = .next t.settleParts := by
      rw [exec_cropEncoded, h]
    refine ⟨fun hr => hexec (State.encodeCrop_detached hw hl hp hr), fun hr u planes twelve damaged hc => ?_⟩
    exact ⟨fun hs => hexec (State.encodeCrop_tooLong hw hl hp hr hc rfl hs), fun hm hs =>
      ⟨fun hf => hexec (State.encodeCrop_fits hw hl hp hr hc rfl hm hs hf),
        fun hf hstop => hexec (State.encodeCrop_full hw hl hp hr hc rfl hm hs hf hstop)⟩⟩
  case request =>
    exact ⟨fun hl => exec_effect rfl rfl hacc _ (State.runSampleDecode_unknown ha hn hl),
      fun hl hb => exec_effect rfl rfl hacc _ (State.runSampleDecode_unmapped ha hn hl hb),
      fun hl hb => exec_effect rfl rfl hacc _ (State.runSampleDecode_good ha hn hl hb)⟩
  case complete =>
    have hexec {t : State} (h : s.finishReq n r = t) : exec (.decodeComplete n) s = .next (t.settleDec n) := by
      rw [exec_decodeComplete hw he, h]
    refine ⟨fun e u now hc hnow hb => hexec (State.finishReq_cached hl hc hnow hb),
      fun hc hreach u v data e hr hv hb => ?_⟩
    have hdecoded := (State.finishReq_decoded hl hc hreach hr).trans (State.withinBudget_below _ hb)
    exact ⟨fun hne => hexec (hdecoded.trans (State.endDecode_gone hv _ _ hne)),
      fun heq hm => hexec (hdecoded.trans (State.endDecode_uncached hv _ _ heq hm))⟩
  case ended =>
    intro d start e t
    have ht : t.decStream n = d.ended r o cycles := s.decStream_settleReq n r o cycles
    rw [ht]
    refine ⟨rfl, by simp [DecStream.ended, start], fun q hq hp => ?_⟩
    rw [DecStream.ended_of_position hq hp]
    exact ⟨rfl, rfl, rfl, rfl⟩
  case timeout =>
    intro j mcus m b budget hc
    have hmcus : (decodeBytes data s.decLimits.1 s.decLimits.2.1).mcus = mcus := decodeBytes_mcus ..
    have htimeout : exec (.decodeTimeout n) s =
        .next ((u.withinBudget n r mcus (Config.decodeCycles data) id).settleDec n) := by
      rw [exec_decodeTimeout hw he hl hc hr, hmcus]
    refine ⟨fun hb => ⟨?_, fun hreach => ?_⟩, fun hb => ?_⟩
    · rw [htimeout, State.withinBudget_reached _ hb]
    · rw [htimeout, exec_decodeComplete hw he, State.finishReq_decoded hl hc hreach hr, hmcus,
        State.withinBudget_reached _ hb, State.withinBudget_reached _ hb]
    · rw [htimeout, State.withinBudget_below _ hb]
      rfl
  case deliver =>
    intro t u r0
    rw [exec_sampleDelivery_seat hnext hn, State.deliverSeat, hcode]
    rfl
  case flush =>
    refine ⟨s.flushCache, rfl, rfl, rfl, fun n => ?_⟩
    rw [State.decStream_flushCache]
    exact ⟨rfl, rfl, fun q hq => DecStream.mem_flushed hq⟩

end Sys2Proof.Machine

/-! PROOFS. The queue, and that every command completes (O1, O2). -/

namespace Sys2Proof.Machine

theorem exec_imageStoreDone_completes (s : State) : ∃ t : State, exec .imageStoreDone s = .next t := by
  change ∃ t : State, execImageStoreDone s = .next t
  unfold execImageStoreDone
  split
  · exact ⟨_, rfl⟩
  · exact ⟨_, rfl⟩

/-- Every command answers a next state. -/
theorem exec_completes (i : Instr) (s : State) : ∃ t : State, exec i s = .next t := by
  cases i
  case imageStoreDone => exact exec_imageStoreDone_completes s
  all_goals exact ⟨_, rfl⟩

theorem step_runs (s : State) : s.runs := by
  unfold State.runs step
  split
  · exact ⟨_, rfl⟩
  · exact exec_completes _ _

/-- Settles O1: the front of the queue is what a step takes. -/
theorem stepRunsFrontCommand : Obligations.StepRunsFrontCommand := fun _ _ => rfl

/-- Settles O2: a tick answers a state, and so does the meaning of each command. -/
theorem everyStepRuns : Obligations.EveryStepRuns := ⟨step_runs, exec_completes⟩

end Sys2Proof.Machine

/-! PROOFS. Taking a ring command: what the ring, the count of commands and the list of outstanding ones show after it
(O4), which refusal it meets (O5), and what holds it back (O6). -/

namespace Sys2Proof.Machine

/-! ### Registers of a ring -/

theorem RN.sqHead_ne_sqTail (seat : Fin 4) (ring : Fin 16) :
    RN.sqHead.off [seat.val, ring.val] ≠ RN.sqTail.off [seat.val, ring.val] := by
  simp only [RN.off, RN.row, List.zipWith, List.foldl]
  omega

theorem RN.sqHead_ne_cmdArrived (seat : Fin 4) (ring : Fin 16) :
    RN.sqHead.off [seat.val, ring.val] ≠ RN.cmdArrived.off [seat.val] := by
  simp only [RN.off, RN.row, List.zipWith, List.foldl]
  omega

theorem RN.sqTail_ne_cmdArrived (seat : Fin 4) (ring : Fin 16) :
    RN.sqTail.off [seat.val, ring.val] ≠ RN.cmdArrived.off [seat.val] := by
  simp only [RN.off, RN.row, List.zipWith, List.foldl]
  omega

theorem RN.ringCfg_ne_sqTail (seat : Fin 4) (ring : Fin 16) :
    RN.ringCfg.off [seat.val, ring.val] ≠ RN.sqTail.off [seat.val, ring.val] := by
  simp only [RN.off, RN.row, List.zipWith, List.foldl]
  omega

theorem State.reg_count_same (s : State) (r : RN) (ix : List Nat) (n : Nat) :
    (s.count r ix n).reg r ix = (s.reg r ix + n) % 2 ^ 32 := State.reg_setReg_same s r ix _

theorem State.reg_setFld_other (s : State) (r q : RN) (ix jx : List Nat) (lo w x : Nat) (h : q.off jx ≠ r.off ix) :
    (s.setFld r ix lo w x).reg q jx = s.reg q jx :=
  congrArg BitVec.toNat (State.stored_setFld_other s r q ix jx lo w x h)

section
variable (s : State) (h : Hdr) (op : Nat)

/-- The registers of a command's taking: SQ_TAIL, SQ_HEAD and the count of commands arrived. -/
def State.takenRegs : State :=
  let ix := [h.seat.val, h.ring.val]
  let u := s.setFld .sqTail ix 0 16 ((s.fld .sqTail ix 0 16 + 1) % s.ringSize h.seat h.ring)
  (u.setFld .sqHead ix 0 16 ((u.fld .sqHead ix 0 16 + 1) % u.ringSize h.seat h.ring)).count .cmdArrived [h.seat.val]

theorem State.takes_eq : (s.takes h op).1 = { s.takenRegs h with
    host := { s.host with outstanding := s.host.outstanding ++ [(s.takes h op).2] } } := by
  have hh : (s.takenRegs h).host = s.host := by simp [State.takenRegs]
  rw [← hh]
  rfl

theorem State.takenRegs_withoutRegs : (s.takenRegs h).withoutRegs = s.withoutRegs := by
  simp [State.takenRegs]

theorem State.takes_sqTail : (s.takes h op).1.fld .sqTail [h.seat.val, h.ring.val] 0 16 =
    (s.fld .sqTail [h.seat.val, h.ring.val] 0 16 + 1) % s.ringSize h.seat h.ring % 2 ^ 16 := by
  rw [State.takes_eq]
  change (s.takenRegs h).fld _ _ _ _ = _
  unfold State.takenRegs
  dsimp only
  rw [State.fld_count_other _ _ _ _ _ _ _ _ (RN.sqTail_ne_cmdArrived h.seat h.ring),
    State.fld_setFld_other _ _ _ _ _ _ _ _ _ _ (RN.sqHead_ne_sqTail h.seat h.ring).symm,
    State.fld_setFld_same _ _ _ _ _ _ (by decide)]

theorem State.takes_sqHead : (s.takes h op).1.fld .sqHead [h.seat.val, h.ring.val] 0 16 =
    (s.fld .sqHead [h.seat.val, h.ring.val] 0 16 + 1) % s.ringSize h.seat h.ring % 2 ^ 16 := by
  rw [State.takes_eq]
  change (s.takenRegs h).fld _ _ _ _ = _
  unfold State.takenRegs State.ringSize
  dsimp only
  rw [State.fld_count_other _ _ _ _ _ _ _ _ (RN.sqHead_ne_cmdArrived h.seat h.ring),
    State.fld_setFld_same _ _ _ _ _ _ (by decide),
    State.fld_setFld_other _ _ _ _ _ _ _ _ _ _ (RN.sqHead_ne_sqTail h.seat h.ring),
    State.fld_setFld_other _ _ _ _ _ _ _ _ _ _ (RN.ringCfg_ne_sqTail h.seat h.ring)]

theorem State.takes_cmdArrived : (s.takes h op).1.reg .cmdArrived [h.seat.val] =
    (s.reg .cmdArrived [h.seat.val] + 1) % 2 ^ 32 := by
  rw [State.takes_eq]
  change (s.takenRegs h).reg _ _ = _
  unfold State.takenRegs
  dsimp only
  rw [State.reg_count_same, State.reg_setFld_other _ _ _ _ _ _ _ _ (RN.sqHead_ne_cmdArrived h.seat h.ring).symm,
    State.reg_setFld_other _ _ _ _ _ _ _ _ (RN.sqTail_ne_cmdArrived h.seat h.ring).symm]

end

/-- Settles O4: taking writes the ring's two pointers and the count, and only the list of outstanding commands of the
host block. -/
theorem commandIsTaken : Obligations.CommandIsTaken := by
  intro s h op t ix
  refine ⟨s.takes_sqTail h op, s.takes_sqHead h op, s.takes_cmdArrived h op, s.takes_ref h op, ?_,
    fun q jx h1 h2 h3 => s.takes_stored h op q jx h1 h2 h3, ?_⟩
  · exact congrArg State.host (s.takes_eq h op)
  · have hr := congrArg (fun u : State => { u with regs := s.regs, host := s.host }) (s.takenRegs_withoutRegs h)
    exact (congrArg (fun u : State => { u with regs := s.regs, host := s.host }) (s.takes_eq h op)).trans hr

/-! ### The refusals that every command shares (R414, R417, R427) -/

section
variable {s : State} {i : Instr} {e : Entry} (he : entryOf i = some e) (hr : s.ringReady e.hdr)
include he hr

/-- A command that a shared refusal meets completes with its code, whatever its opcode names. -/
theorem exec_refused {code : Nat} (hn : e.refused (s.dev == .recovery) (isUnknown i) = some code) :
    exec i s = .next ((s.takes e.hdr e.opcode).1.complete (s.takes e.hdr e.opcode).2 code) := by
  rw [exec_ring s i e he, s.takeNow_refused i e _ code he hr hn]

theorem exec_unknown (hu : isUnknown i = true) :
    exec i s = .next ((s.takes e.hdr e.opcode).1.complete (s.takes e.hdr e.opcode).2 Code.opcodeUnknown) :=
  exec_refused he hr (by rw [hu]; rfl)

theorem exec_closed (hu : isUnknown i = false) (hd : s.dev = .recovery) (hi : e.inRecovery = false) :
    exec i s = .next ((s.takes e.hdr e.opcode).1.complete (s.takes e.hdr e.opcode).2 Code.recoveryUnavailable) :=
  exec_refused he hr (by simp [Entry.refused, hu, hd, hi])

theorem exec_reserved (hu : isUnknown i = false) (hc : ¬(s.dev = .recovery ∧ e.inRecovery = false))
    (hf : e.hdr.reservedSet = true ∨ (e.launch = false ∧ e.hdr.launch ≠ 0)) :
    exec i s = .next ((s.takes e.hdr e.opcode).1.complete (s.takes e.hdr e.opcode).2 Code.fieldReserved) := by
  refine exec_refused he hr ?_
  have hopen : (s.dev == .recovery && !e.inRecovery) = false := by
    simpa using hc
  have hset : (e.hdr.reservedSet || (!e.launch && e.hdr.launch != 0)) = true := by
    simpa using hf
  unfold Entry.refused
  rw [hu, hopen, hset]
  rfl

end

/-- Settles O5: each shared refusal is met in its order, and NOP meets none. -/
theorem sharedRefusals : Obligations.SharedRefusals := by
  refine ⟨fun i e s he hr => ⟨?_, fun hu hc => exec_closed he hr hu hc.1 hc.2,
    fun hu hc hf => exec_reserved he hr hu hc hf, fun hu ha => exec_accepted s i e he ha hu⟩,
    fun s h op => ⟨fun ha => exec_effect rfl rfl ha (fun c u => u.complete c Code.ok) rfl,
      fun hr => exec_unknown (e := ⟨h, op.toNat, false, true, []⟩) rfl hr rfl⟩⟩
  rintro h op rfl
  exact exec_unknown he hr rfl

/-! ### A ring that does not take (R410 to R413, R416) -/

section
variable {s : State} {i : Instr} {e : Entry} (he : entryOf i = some e)
include he

theorem exec_ringOff (ho : s.connected e.hdr.seat = false ∨ s.ringOn e.hdr.seat e.hdr.ring = false) :
    exec i s = .next s := by
  have hb : (!s.connected e.hdr.seat || !s.ringOn e.hdr.seat e.hdr.ring) = true := by
    simpa using ho
  rw [exec_ring s i e he, State.takeNow, he]
  exact congrArg Host.Outcome.next (if_pos hb)

theorem exec_parked (hc : s.connected e.hdr.seat = true) (ho : s.ringOn e.hdr.seat e.hdr.ring = true)
    (hw : s.fld .sqHead [e.hdr.seat.val, e.hdr.ring.val] 0 16 ≠ s.fld .sqTail [e.hdr.seat.val, e.hdr.ring.val] 0 16 ∨
      s.holdOf e.hdr.seat e.hdr.ring e.hdr.fence ≠ none) :
    exec i s = .next (if s.holdOf e.hdr.seat e.hdr.ring e.hdr.fence = some .full then
      (s.park e.hdr.seat e.hdr.ring e.bytes).setFlag .ringStatus [e.hdr.seat.val, e.hdr.ring.val] 4
      else s.park e.hdr.seat e.hdr.ring e.bytes) := by
  have hb : ¬(!s.connected e.hdr.seat || !s.ringOn e.hdr.seat e.hdr.ring) = true := by
    simp [hc, ho]
  rw [exec_ring s i e he, State.takeNow, he]
  refine congrArg Host.Outcome.next ((if_neg hb).trans ?_)
  dsimp only
  split
  next hwait hhold =>
    obtain hw | hw := hw
    · exact absurd hwait (by simpa using hw)
    · exact absurd hhold hw
  next => rfl

end

/-- Settles O6: a ring that is off takes nothing, and one that waits or is held parks the entry. -/
theorem ringHoldsBack : Obligations.RingHoldsBack :=
  fun _ _ _ he => ⟨exec_ringOff he, exec_parked he⟩

end Sys2Proof.Machine

/-! PROOFS. A tick of the clock, and what a write leaves in memory (O59). -/

namespace Sys2Proof.Machine

/-! ### A tick with nothing to do -/

theorem State.fireDue_none {s : State} (h : s.img.items = []) : s.fireDue = s := by
  simp [State.fireDue, h]

theorem State.drainSyslog_none {s : State} (h : s.rec'.syslog = {}) : s.drainSyslog = s := by
  have hr : ({ s.rec' with syslog := {} } : RecState) = s.rec' := by rw [← h]
  simp only [State.drainSyslog, h]
  exact congrArg (fun r => ({ s with rec' := r } : State)) hr

theorem State.drainFanout_none {s : State} (h : s.rec'.fanout = {}) : s.drainFanout = s := by
  have hr : ({ s.rec' with fanout := {} } : RecState) = s.rec' := by rw [← h]
  simp only [State.drainFanout, h]
  exact congrArg (fun r => ({ s with rec' := r } : State)) hr

theorem State.takeAll_none {s : State} (h : s.entriesWaiting = 0) : s.takeAll = s := if_pos h

theorem State.idleTick_idle {s : State} (hi : s.img.items = []) (hs : s.rec'.syslog = {}) (hf : s.rec'.fanout = {})
    (hw : s.entriesWaiting = 0) : s.idleTick = s.advance 1 := by
  have hw' : (s.advance 1).entriesWaiting = 0 := hw
  rw [State.idleTick, State.fireDue_none (s := s.advance 1) hi, State.drainSyslog_none (s := s.advance 1) hs,
    State.drainFanout_none (s := s.advance 1) hf, State.takeAll_none hw']

theorem step_idle {s : State} (hp : s.pending = []) : step s = .next s.idleTick := by
  rw [step, hp]

/-! ### A granule that is uncorrectable (R436, R438, R443) -/

section
variable {s : State} {g : Nat} {d : Bytes}

theorem granules_aligned {n : Nat} (hg : g % 64 = 0) (h0 : 0 < n) (hn : n ≤ 64) : granules g n = [g] := by
  have hcount : (g + n - 1) / 64 - g / 64 + 1 = 1 := by omega
  have hbase : g / 64 * 64 = g := by omega
  simp [granules, hcount, hbase, h0.ne']

theorem State.badIn_alone {n : Nat} (hb : s.mc.bad = [g]) (h0 : 0 < n) : s.badIn g n = some g := by
  simp [State.badIn, hb, h0]

/-- A write into the only uncorrectable granule: a whole one replaces it, a part of it is discarded. -/
theorem State.store_bad (hg : g % 64 = 0) (hb : s.mc.bad = [g]) (h0 : 0 < d.length) (hn : d.length ≤ 64) :
    s.store g d = if d.length = 64 then ({ s with mc := { s.mc with bad := [] } } : State).poke g d
      else (s.setFlag .memErr [] 2).reportUe g 0x40 := by
  have hmin : min (g + d.length) (g + 64) = g + d.length := by omega
  rw [State.store, State.badIn_alone hb h0, granules_aligned hg h0 hn]
  simp [State.storeGranules, hb, hmin]

theorem State.reportUe_bad (s : State) (g i : Nat) : (s.reportUe g i).mc.bad = s.mc.bad.filter (· != g) := by
  unfold State.reportUe
  dsimp only
  split <;> simp [State.poke]

/-- The granule that is reported reads as zeros. -/
theorem State.load_reportUe (hw : Mem.wf s.mem = true) (g i : Nat) :
    (s.reportUe g i).load g 64 = List.replicate 64 0 := by
  have hm : (s.reportUe g i).mem = Mem.writeAll s.mem g (List.replicate 64 0) := by
    unfold State.reportUe
    dsimp only
    split <;> simp [State.poke]
  rw [State.load, hm]
  exact Mem.readAll_writeAll_same s.mem g (List.replicate 64 0) hw

end

/-- Settles O59: an idle tick only advances time, a good write is a poke, and a write into the only bad granule replaces
or reports it. -/
theorem ticksAndMemory : Obligations.TicksAndMemory := by
  refine ⟨fun s hp => ⟨step_idle hp, fun hi hs hf hw => ?_⟩, fun s k => ⟨rfl, rfl, rfl, rfl, rfl, rfl⟩,
    fun s a d hw hb => ?good, fun s a d hw => State.wf_store s a d hw, fun s g d hw hg hb => ?bad, fun s seat a d hw => ?host⟩
  · rw [step_idle hp, State.idleTick_idle hi hs hf hw]
  case good =>
    refine ⟨State.wf_store s a d hw, ?_, fun c hc => ?_, ?_⟩
    · rw [State.store_good hb]
      exact Mem.readAll_writeAll_same _ _ _ hw
    · rw [State.store_good hb, State.poke_written, Mem.read_writeAll _ _ _ _ hw, if_neg (by omega)]
    · rw [State.store_good hb]
      rfl
  case bad =>
    refine ⟨fun hl => ?_, fun h0 hl => ?_⟩
    · rw [State.store_bad hg hb (by omega) hl.le, if_pos hl]
      exact ⟨rfl, hl ▸ Mem.readAll_writeAll_same s.mem g d hw⟩
    · rw [State.store_bad hg hb h0 hl.le, if_neg hl.ne]
      exact ⟨rfl, by simp [State.reportUe_bad, hb], State.load_reportUe (by simpa using hw) g 0x40⟩
  case host =>
    have hw' := hw
    simp only [State.memWf, Bool.and_eq_true] at hw'
    obtain ⟨⟨-, h0⟩, h1⟩ := hw'
    refine ⟨State.memWf_hostStore s seat a d hw, fun hs => ?_, fun hs => ?_, State.hostStore_mem s seat a d⟩
    · simp only [State.hostStore, if_pos hs]
      exact ⟨Mem.readAll_writeAll_same _ _ _ h0, trivial⟩
    · simp only [State.hostStore, if_neg hs]
      exact ⟨Mem.readAll_writeAll_same _ _ _ h1, trivial⟩

end Sys2Proof.Machine

/-! PROOFS. Offset samples and the servo of a time base (O28). -/

namespace Sys2Proof.Machine

/-! ### Time bases -/

theorem TimeState.setBase_base (t : TimeState) : ∀ b, t.setBase b (t.base b) = t
  | 0 | 1 | 2 | _ + 3 => rfl

theorem State.updBase_id {s : State} {b : Nat} {f : TimeBase → TimeBase} (h : f (s.time.base b) = s.time.base b) :
    s.updBase b f = s := by
  rw [State.updBase, h, TimeState.setBase_base]

theorem State.updBase_congr {s : State} {b : Nat} {f g : TimeBase → TimeBase}
    (h : f (s.time.base b) = g (s.time.base b)) : s.updBase b f = s.updBase b g := by
  rw [State.updBase, State.updBase, h]

/-- What a command of the running image reads of a state whose image stands. -/
theorem State.timeRec_congr {s u : State} (h : u.img = s.img) (b : Nat) : u.timeRec b = s.timeRec b := by
  unfold State.timeRec State.imgRecord
  rw [h]

theorem State.sampleInterval_congr {s u : State} (h : u.img = s.img) (b : Nat) :
    u.sampleInterval b = s.sampleInterval b := by
  unfold State.sampleInterval State.ptpRec State.imgRecord
  rw [h]

/-! ### The servo (R388, R389) -/

/-- The state that shows an offset. -/
def State.showOffset (s : State) (b : Nat) (o : Int) : State :=
  s.setReg .tbOffset [b] (toUnsigned 32 (max (-(2 ^ 31)) (min o (2 ^ 31 - 1))))

/-- A sample is the first one of a base that steps initially. -/
def State.firstSample (s : State) (b : Nat) : Prop :=
  TRec.initialStep (s.timeRec b) = true ∧ (s.time.base b).sampled = false

/-- The lock count that an accepted sample leaves. -/
def State.lockAfter (s : State) (b : Nat) (o : Int) : Nat :=
  if o.natAbs ≤ TRec.lockNs (s.timeRec b) then (s.time.base b).lockCount + 1 else 0

/-- The integrator that a sample leaves. -/
def State.integAfter (s : State) (b : Nat) (o : Int) : Rat :=
  (s.time.base b).integ + TRec.gain (s.timeRec b) 0x10 (3 / 10) * (o : Rat) / s.sampleInterval b

/-- The adjustment that a sample asks for, before its limit. -/
def State.adjAsked (s : State) (b : Nat) (o : Int) : Rat :=
  -(TRec.gain (s.timeRec b) 0xC (7 / 10) * (o : Rat) / s.sampleInterval b + s.integAfter b o)

section
variable {s : State} {b : Nat} {o : Int}

theorem State.firstSample_iff : s.firstSample b ↔
    (TRec.initialStep (s.timeRec b) && !(s.time.base b).sampled) = true := by
  simp [State.firstSample]

theorem State.servo_refused (hf : ¬s.firstSample b) (hj : TRec.jumpNs (s.timeRec b) < o.natAbs) :
    s.servo b o = ((s.showOffset b o).updBase b fun t => { t with
      st := .refusing, sampled := true, lockCount := 0 }).flagLog .tbStatus [b] 3
        { warning 4 with arg0 := BitVec.ofInt 64 o } := by
  have hn := Bool.not_eq_true _ ▸ mt State.firstSample_iff.mpr hf
  exact if_pos ⟨hj, by rw [hn]; rfl⟩

theorem State.servo_first (hf : s.firstSample b) : s.servo b o = (s.showOffset b o).updBase b fun t =>
    { t.shift (-o) with sampled := true, stepped := true, lockCount := s.lockAfter b o
                        st := tbNext t.st (s.lockAfter b o) } := by
  have hn := State.firstSample_iff.mp hf
  refine (if_neg ?_).trans (if_pos hn)
  rw [hn]
  rintro ⟨-, h⟩
  exact Bool.false_ne_true h

/-- An accepted sample that is not the first goes on to the tests of a locked base. -/
theorem State.servo_accepted (hf : ¬s.firstSample b) (hj : o.natAbs ≤ TRec.jumpNs (s.timeRec b)) :
    s.servo b o = if (s.time.base b).st = .locked ∧ 900 < o.natAbs then
      (s.showOffset b o).updBase b fun t => { t with st := .holdover, sampled := true, lockCount := 0 }
    else ((s.showOffset b o).updBase b fun t => { t with
      integ := s.integAfter b o
      adj := (if s.adjAsked b o < -500000 then -500000 else if 500000 < s.adjAsked b o then 500000
        else s.adjAsked b o)
      sampled := true, lockCount := s.lockAfter b o, st := tbNext t.st (s.lockAfter b o) }).setInc b := by
  have hn : ¬(TRec.initialStep (s.timeRec b) && !(s.time.base b).sampled) = true := mt State.firstSample_iff.mpr hf
  have ht : (s.showOffset b o).sampleInterval b = s.sampleInterval b :=
    State.sampleInterval_congr (State.setReg_img ..) b
  refine (if_neg fun h => h.1.not_ge hj).trans ((if_neg hn).trans ?_)
  unfold State.adjAsked State.integAfter
  rw [← ht]
  by_cases hl : (s.time.base b).st = .locked ∧ 900 < o.natAbs
  · rw [if_pos hl]
    exact if_pos (by simp [hl.1, hl.2])
  · rw [if_neg hl]
    exact if_neg (by simpa using hl)

end

/-! ### The commands -/

theorem exec_ptpSync_servo {s : State} {r : Bytes} {m : Nat × Announce} (hr : s.ptpRec = some r)
    (hm : s.time.master = some m) (hs : TRec.source (s.timeRec 0) = 1) (o : Int) (delay : Word) :
    exec (.ptpSync o delay) s = .next ((s.setStored .timeMeanPathDelay [] delay).servo 0 o) := by
  have ht : (s.setStored .timeMeanPathDelay [] delay).timeRec 0 = s.timeRec 0 :=
    State.timeRec_congr (State.setStored_img ..) 0
  change Host.Outcome.next (s.ptpSample o delay) = _
  rw [State.ptpSample, hr, hm]
  exact congrArg Host.Outcome.next (if_pos (ht ▸ hs))

theorem exec_ptpSync_noMaster {s : State} (hm : s.time.master = none) (o : Int) (delay : Word) :
    exec (.ptpSync o delay) s = .next s := by
  change Host.Outcome.next (s.ptpSample o delay) = _
  unfold State.ptpSample
  rw [hm]
  cases s.ptpRec <;> rfl

theorem State.holdover_locked {s : State} {b : Nat} (h : (s.time.base b).st = .locked) :
    s.holdover b = s.updBase b fun t => { t with st := .holdover, lockCount := 0 } :=
  State.updBase_congr (by simp [h])

theorem State.holdover_unlocked {s : State} {b : Nat} (h : (s.time.base b).st ≠ .locked) : s.holdover b = s :=
  State.updBase_id (by simp [h])

/-- Settles O28: the servo reads the same record and base once the path delay is shown, and then takes one of its four
ways. -/
theorem servoSample : Obligations.ServoSample := by
  refine ⟨fun s o delay r m hr hm hs => ?_, fun s o delay hm => exec_ptpSync_noMaster hm o delay,
    fun s b => ⟨fun h => congrArg Host.Outcome.next (State.holdover_locked h),
      fun h => congrArg Host.Outcome.next (State.holdover_unlocked h)⟩⟩
  let u := s.setStored .timeMeanPathDelay [] delay
  have hu : u.img = s.img := State.setStored_img ..
  have hrec : u.timeRec 0 = s.timeRec 0 := State.timeRec_congr hu 0
  have hint : u.sampleInterval 0 = s.sampleInterval 0 := State.sampleInterval_congr hu 0
  have hfirst : u.firstSample 0 ↔ s.firstSample 0 := by
    unfold State.firstSample
    rw [hrec]
    rfl
  have hlock : u.lockAfter 0 o = s.lockAfter 0 o := by
    unfold State.lockAfter
    rw [hrec]
    rfl
  have hinteg : u.integAfter 0 o = s.integAfter 0 o := by
    unfold State.integAfter
    rw [hrec, hint]
    rfl
  have hadj : u.adjAsked 0 o = s.adjAsked 0 o := by
    unfold State.adjAsked
    rw [hrec, hint, hinteg]
  have hexec : exec (.ptpSync o delay) s = .next (u.servo 0 o) := exec_ptpSync_servo hr hm hs o delay
  rw [hexec]
  refine ⟨fun hf hj => ?_, fun hf => ?_, fun hf hj hl h9 => ?_, fun hf hj hl => ?_⟩
  · rw [State.servo_refused (mt hfirst.mp hf) (hrec ▸ hj)]
    rfl
  · rw [State.servo_first (hfirst.mpr hf), hlock]
    rfl
  · rw [State.servo_accepted (mt hfirst.mp hf) (hrec ▸ hj)]
    exact congrArg Host.Outcome.next (if_pos ⟨hl, h9⟩)
  · rw [State.servo_accepted (mt hfirst.mp hf) (hrec ▸ hj), hlock, hinteg, hadj]
    refine congrArg Host.Outcome.next (if_neg ?_)
    rintro ⟨h1, h2⟩
    exact hl.elim (fun h => h h1) (fun h => h2.not_ge h)

end Sys2Proof.Machine

/-! PROOFS. PTP messages, the 1PPS input, steps of a base and snapshots (O29). -/

namespace Sys2Proof.Machine

theorem State.ptpRec_congr {s u : State} (h : u.img = s.img) : u.ptpRec = s.ptpRec := by
  unfold State.ptpRec State.imgRecord
  rw [h]

/-! ### PTP messages (R384, R385) -/

theorem RN.timePtpStatus_ne_netPortStatus (port : Fin 2) :
    RN.timePtpStatus.off [] ≠ RN.netPortStatus.off [port.val] := by
  simp only [RN.off, RN.row, List.zipWith, List.foldl]
  omega

/-- The state that shows the mechanism of a port's partner. -/
def State.partnerSeen (s : State) (port : Nat) (peer : Bool) : State :=
  s.setFld .netPortStatus [port] (if peer then 5 else 6) 1 1

theorem State.partnerSeen_ptpMaster (s : State) (port : Fin 2) (peer : Bool) :
    (s.partnerSeen port.val peer).ptpMaster = s.ptpMaster :=
  congrArg (· == 2) (State.fld_setFld_other _ _ _ _ _ _ _ _ _ _ (RN.timePtpStatus_ne_netPortStatus port))

section
variable {s : State} {r : Bytes} (hr : s.ptpRec = some r)
include hr

/-- The first foreign master that a slave hears of is taken. -/
theorem State.announce_first {port : Nat} {a : Announce} (hrole : PtpRec.role r = 1) (hd : a.domain = PtpRec.domain r)
    (hp : port ∈ PtpRec.ports r) (hm : s.time.master = none) :
    s.announce port a = (({ s with time := { s.time with master := some (port, a) } } : State).showMaster 1 port
      a.identity).updBase 0 fun t => if t.st = .master then { t with st := .listening, lockCount := 0 } else t := by
  have hheard : ¬((PtpRec.role r ≠ 1 ∧ PtpRec.role r ≠ 3) ∨ a.domain ≠ PtpRec.domain r ∨
      (!(PtpRec.ports r).contains port) = true) := by
    simp [hrole, hd, hp]
  rw [State.announce, hr]
  dsimp only
  rw [if_neg hheard, hm]
  simp [hrole]

theorem State.announce_ignored {port : Nat} {a : Announce}
    (h : (PtpRec.role r ≠ 1 ∧ PtpRec.role r ≠ 3) ∨ a.domain ≠ PtpRec.domain r ∨ port ∉ PtpRec.ports r) :
    s.announce port a = s := by
  rw [State.announce, hr]
  exact if_pos (h.imp_right fun h => h.imp_right fun h => by simpa using h)

theorem State.delayReq_heard {port : Nat} {peer : Bool} (hrole : PtpRec.role r ≠ 0) (hp : port ∈ PtpRec.ports r)
    (seq : Nat) : s.delayReq port seq peer =
      if PtpRec.peer r ≠ peer then (s.partnerSeen port peer).setFlag .netPortErr [port] 2
      else if peer = true ∨ (s.partnerSeen port peer).ptpMaster = true then
        (s.partnerSeen port peer).emit (.ptp 3 port seq)
      else s.partnerSeen port peer := by
  have hr' : (s.partnerSeen port peer).ptpRec = some r := (State.ptpRec_congr (State.setFld_img ..)).trans hr
  have hheard : ¬(PtpRec.role r = 0 ∨ (!(PtpRec.ports r).contains port) = true) := by
    simp [hrole, hp]
  change (match (s.partnerSeen port peer).ptpRec with | none => _ | some r => _) = _
  rw [hr']
  exact if_neg hheard

end

/-- What one PTP message interval sends on a port. -/
def ptpMessages (kind : Fin 3) (seq : Nat) (twoStep : Bool) (p : Nat) : List Emission :=
  .ptp kind p seq :: (if kind = 0 ∧ twoStep = true then [.ptp 4 p seq] else [])

theorem State.sendPtp_eq (kind : Fin 3) (seq : Nat) (twoStep : Bool) (ports : List Nat) (s : State) :
    ports.foldl (fun s p => let s := s.emit (.ptp kind p seq)
      if kind.val = 0 ∧ twoStep then s.emit (.ptp 4 p seq) else s) s =
    { s with out := s.out ++ ports.flatMap (ptpMessages kind seq twoStep) } := by
  induction ports generalizing s with
  | nil => simp
  | cons p ports ih =>
    rw [List.foldl_cons, ih, List.flatMap_cons]
    by_cases h : kind = 0 ∧ twoStep = true <;> simp [h, ptpMessages, State.emit]

section
variable {s : State} {r : Bytes} (hr : s.ptpRec = some r) (hrole : PtpRec.role r ≠ 0) {kind : Fin 3}
include hr hrole

theorem State.ptpTimer_due (h : if kind = 2 then PtpRec.peer r = true ∨ s.ptpMaster = false else s.ptpMaster = true) :
    s.ptpTimer kind =
      { s with time := { s.time with ptpSeq := (s.time.ptpSeq + 1) % 65536 }
               out := s.out ++ (PtpRec.ports r).flatMap (ptpMessages kind s.time.ptpSeq (PtpRec.twoStep r)) } := by
  have hdue : ¬(!if kind.val = 2 then PtpRec.peer r || !s.ptpMaster else s.ptpMaster) = true := by
    by_cases hk : kind = 2
    · simpa [hk, imp_iff_not_or] using h
    · have hv : kind.val ≠ 2 := fun h => hk (Fin.ext h)
      simpa [hk, hv] using h
  rw [State.ptpTimer, hr]
  dsimp only
  rw [if_neg hrole, if_neg hdue, State.sendPtp_eq]

theorem State.ptpTimer_silent (hm : s.ptpMaster = (kind = 2)) (hp : kind = 2 → PtpRec.peer r = false) :
    s.ptpTimer kind = s := by
  have hdue : (!if kind.val = 2 then PtpRec.peer r || !s.ptpMaster else s.ptpMaster) = true := by
    by_cases hk : kind = 2
    · simp_all
    · have hv : kind.val ≠ 2 := fun h => hk (Fin.ext h)
      simpa [hk, hv] using hm
  rw [State.ptpTimer, hr]
  dsimp only
  rw [if_neg hrole, if_pos hdue]

end

/-! ### The 1PPS input (R481) -/

section
variable {s : State} {rising : Bool} {n : Nat} (hh : s.field.held = false) (he : rising ≠ s.ppsFalling) (hn : 10 ≤ n)
include hh he hn

theorem State.ppsEdge_taken : ¬(s.field.held || rising == s.ppsFalling || decide (n < 10)) = true := by
  simp [hh, he, hn]

theorem State.ppsEdge_latched (hl : ∀ l, s.field.ppsLast = some l → l + 500000000 ≤ s.now) :
    s.ppsEdge rising n =
      { s with field := { s.field with ppsLast := some s.now, ppsPending := true, ppsAt := s.now - 100 } } := by
  refine (if_neg (State.ppsEdge_taken hh he hn)).trans (if_neg ?_)
  split
  next l h => simpa using hl l h
  next => exact Bool.false_ne_true

theorem State.ppsEdge_early {l : Nat} (h : s.field.ppsLast = some l) (hl : s.now < l + 500000000) :
    s.ppsEdge rising n = { s with field := { s.field with ppsIgnored := s.field.ppsIgnored + 1 } } := by
  refine (if_neg (State.ppsEdge_taken hh he hn)).trans (if_pos ?_)
  rw [h]
  exact decide_eq_true hl

end

/-! ### Steps of a base (R390) -/

/-- The state that stores ABS of TB_STEP_CTRL. -/
def State.storeAbs (s : State) (b v : Nat) : State := s.setFld .tbStepCtrl [b] 1 1 (b2n (bit v 1))

theorem State.storeAbs_pair (s : State) (b : Fin 4) (v : Nat) :
    (s.storeAbs b.val v).pair .tbStepLo .tbStepHi [b.val] = s.pair .tbStepLo .tbStepHi [b.val] := by
  have hlo : RN.tbStepLo.off [b.val] ≠ RN.tbStepCtrl.off [b.val] := by
    simp only [RN.off, RN.row, List.zipWith, List.foldl]
    omega
  have hhi : RN.tbStepHi.off [b.val] ≠ RN.tbStepCtrl.off [b.val] := by
    simp only [RN.off, RN.row, List.zipWith, List.foldl]
    omega
  unfold State.pair State.storeAbs
  rw [State.reg_setFld_other _ _ _ _ _ _ _ _ hlo, State.reg_setFld_other _ _ _ _ _ _ _ _ hhi]

/-- What a step of a base shows: the base changed, TB_STATUS bit 4 and a notice. -/
def State.stepped (s : State) (by' b : Nat) (delta : Int) (f : TimeBase → TimeBase) : State :=
  ((s.updBase b fun t => { f t with integ := 0, lockCount := 0, stepped := true }).setFlag .tbStatus [b] 4).log
    { notice 4 with initiator := by', arg0 := n64 b, arg1 := BitVec.ofInt 64 delta }

section
variable {s : State} {by' v : Nat} {b : Fin 4} (hb : b ≠ 1)
include hb

theorem State.stepGo_stored (h0 : bit v 0 = false) : s.stepGo by' b v = s.storeAbs b v := by
  have hb' : (b : Nat) ≠ 1 := fun h => hb (Fin.ext h)
  simp [State.stepGo, State.storeAbs, h0, hb']

theorem State.stepGo_go (h0 : bit v 0 = true) : s.stepGo by' b v =
    let raw := s.pair .tbStepLo .tbStepHi [b.val]
    let t := s.time.base b
    (s.storeAbs b v).stepped by' b (if bit v 1 then (t.ofStored raw : Int) - t.ns else toSigned 64 raw) fun t =>
      if bit v 1 then t.set (t.ofStored raw * 2 ^ 32) else t.shift (toSigned 64 raw) := by
  have hb' : (b : Nat) ≠ 1 := fun h => hb (Fin.ext h)
  have ht : (s.storeAbs b.val v).time = s.time := State.setFld_time ..
  have hgo : ¬(!bit v 0) = true := by simp [h0]
  unfold State.stepGo
  rw [if_neg fun h => hb' h.2]
  dsimp only
  rw [if_neg hb', if_neg hgo]
  rw [← State.storeAbs, ht, s.storeAbs_pair b v]
  cases bit v 1 <;> rfl

end

theorem State.stepGo_tb1 (s : State) (by' v : Nat) : s.stepGo by' 1 v =
    if bit v 0 then s.log { notice 4 with status := Code.stepRefused, initiator := by', arg0 := n64 1 } else s := by
  cases h : bit v 0 <;> simp [State.stepGo, h]

/-! ### Snapshots (R399) -/

/-- What only registers change is the same state once they are put back. -/
theorem State.put_of_withoutRegs {s t : State} (h : t.withoutRegs = s.withoutRegs) : { t with regs := s.regs } = s :=
  congrArg (fun u : State => { u with regs := s.regs }) h

/-- A number is put into each of several registers of an array of two indices. -/
def State.setEach (s : State) (r : RN) (l : List (Nat × Nat)) (v : Nat × Nat → Nat) : State :=
  l.foldl (fun s p => s.setReg r [p.1, p.2] (v p)) s

section
variable {r : RN} {v : Nat × Nat → Nat}

theorem State.setEach_withoutRegs (s : State) (l : List (Nat × Nat)) :
    (s.setEach r l v).withoutRegs = s.withoutRegs :=
  State.foldl_kept (f := fun (s : State) (p : Nat × Nat) => s.setReg r [p.1, p.2] (v p)) State.withoutRegs (fun _ _ => rfl) l s

theorem State.stored_setEach_other {q : RN} {jx : List Nat} {l : List (Nat × Nat)}
    (h : ∀ p ∈ l, q.off jx ≠ r.off [p.1, p.2]) (s : State) : (s.setEach r l v).stored q jx = s.stored q jx := by
  induction l generalizing s with
  | nil => rfl
  | cons p l ih =>
    obtain ⟨hp, hl⟩ := List.forall_mem_cons.mp h
    exact (ih hl _).trans (State.stored_setReg_other _ _ _ _ _ _ hp)

theorem State.reg_setEach {l : List (Nat × Nat)} (hd : (l.map fun p => r.off [p.1, p.2]).Nodup) {p : Nat × Nat}
    (hp : p ∈ l) (s : State) : (s.setEach r l v).reg r [p.1, p.2] = v p % 2 ^ 32 := by
  induction l generalizing s with
  | nil => cases hp
  | cons a l ih =>
    rw [List.map_cons, List.nodup_cons] at hd
    obtain ⟨ha, hl⟩ := hd
    cases hp with
    | head =>
      have hother : ∀ q ∈ l, r.off [p.1, p.2] ≠ r.off [q.1, q.2] :=
        fun q hq h => ha (List.mem_map.mpr ⟨q, hq, h.symm⟩)
      have hkept : ((s.setReg r [p.1, p.2] (v p)).setEach r l v).reg r [p.1, p.2] =
          (s.setReg r [p.1, p.2] (v p)).reg r [p.1, p.2] := congrArg BitVec.toNat (State.stored_setEach_other hother _)
      exact hkept.trans (State.reg_setReg_same _ _ _ _)
    | tail _ hp => exact ih hl hp _

end

/-- The snapshot registers: three words of each of the four bases. -/
def snapWords : List (Nat × Nat) := (List.range 4).flatMap fun b => (List.range 3).map fun k => (b, k)

theorem mem_snapWords (b k : Nat) : (b, k) ∈ snapWords ↔ b < 4 ∧ k < 3 := by
  simp [snapWords]

theorem snapWords_nodup : (snapWords.map fun p => RN.snapW.off [p.1, p.2]).Nodup := by decide

theorem State.capture_eq (s : State) : s.capture = s.setEach .snapW snapWords fun p => (s.time.base p.1).word p.2 := by
  simp [State.capture, State.setEach, snapWords, List.range_succ]

/-- Settles O29: each message, edge, step and capture takes the branch that its conditions name. -/
theorem ptpAndSteps : Obligations.PtpAndSteps := by
  refine ⟨fun s port a r hr => ⟨fun hrole hd hp hm =>
      congrArg Host.Outcome.next (State.announce_first hr hrole hd hp hm),
      fun h => congrArg Host.Outcome.next (State.announce_ignored hr h)⟩,
    fun s port id seq peer r hr hrole hp => ⟨fun hm hans => ?answered, fun hm => ?refused⟩,
    fun s kind r hr hrole => ⟨fun hdue => ?due, fun hk hm => ?notMaster, fun hk hp hm => ?notPeer⟩,
    fun s rising n hh he hn => ⟨fun hl => congrArg Host.Outcome.next (State.ppsEdge_latched hh he hn hl),
      fun l h hl => congrArg Host.Outcome.next (State.ppsEdge_early hh he hn h hl)⟩,
    fun s seat v => congrArg Host.Outcome.next (s.stepGo_tb1 seat v.toNat),
    fun s seat b v hb => ⟨fun h0 => congrArg Host.Outcome.next (State.stepGo_stored hb h0), fun h0 h1 => ?step,
      fun h0 h1 => ?set⟩, fun s seat => ⟨s.capture, rfl, fun b k hb hk => ?_, fun q jx h => ?_, ?_⟩⟩
  case answered =>
    refine congrArg Host.Outcome.next ((State.delayReq_heard hr hrole hp seq.toNat).trans ?_)
    rw [if_neg (not_not_intro hm), State.partnerSeen_ptpMaster, if_pos hans]
    rfl
  case refused =>
    exact congrArg Host.Outcome.next ((State.delayReq_heard hr hrole hp seq.toNat).trans (if_pos hm))
  case due => exact congrArg Host.Outcome.next (State.ptpTimer_due hr hrole hdue)
  case notMaster =>
    exact congrArg Host.Outcome.next (State.ptpTimer_silent hr hrole (by simp [hm, hk]) fun h => absurd h hk)
  case notPeer =>
    exact congrArg Host.Outcome.next (State.ptpTimer_silent hr hrole (by simp [hm, hk]) fun _ => hp)
  case step =>
    have hgo := State.stepGo_go (s := s) (by' := seat) hb h0
    simp only [h1, Bool.false_eq_true, if_false] at hgo
    exact congrArg Host.Outcome.next hgo
  case set =>
    have hgo := State.stepGo_go (s := s) (by' := seat) hb h0
    simp only [h1, if_true] at hgo
    exact congrArg Host.Outcome.next hgo
  · rw [State.capture_eq]
    exact State.reg_setEach snapWords_nodup ((mem_snapWords b k).mpr ⟨hb, hk⟩) s
  · rw [State.capture_eq]
    exact State.stored_setEach_other (fun p hp => h p.1 p.2 ((mem_snapWords _ _).mp hp).1 ((mem_snapWords _ _).mp hp).2) s
  · rw [State.capture_eq]
    exact State.put_of_withoutRegs (s.setEach_withoutRegs _)

end Sys2Proof.Machine

/-! PROOFS. Group messages: checked, acknowledged, performed once and sent again (O30). -/

namespace Sys2Proof.Machine

/-! ### What hearing a message leaves alone (R373, R374) -/

/-- The state without the network and what it has sent. -/
def State.withoutNet (s : State) : State := { s with net := {}, out := [] }

theorem State.groupSend_withoutNet (s : State) (peer : Option Nat) (type : Nat) (payload : Bytes) (acked : Bool)
    (part : BitVec 64) : (s.groupSend peer type payload acked part).withoutNet = s.withoutNet := by
  unfold State.groupSend
  split <;> rfl

theorem State.grpAck_withoutNet (s : State) (g : GrpHdr) : (s.grpAck g).withoutNet = s.withoutNet := by
  unfold State.grpAck
  split
  · exact State.groupSend_withoutNet ..
  · rfl

/-- The state in which a message is noted and acknowledged. -/
abbrev State.heard (s : State) (g : GrpHdr) : State := (s.noteSeq g).grpAck g

section
variable (s : State) (g : GrpHdr)

theorem State.heard_withoutNet : (s.heard g).withoutNet = s.withoutNet := State.grpAck_withoutNet _ g

@[simp] theorem State.heard_regs : (s.heard g).regs = s.regs := (congrArg State.regs (s.heard_withoutNet g) :)
@[simp] theorem State.heard_mem : (s.heard g).mem = s.mem := (congrArg State.mem (s.heard_withoutNet g) :)
@[simp] theorem State.heard_img : (s.heard g).img = s.img := (congrArg State.img (s.heard_withoutNet g) :)
@[simp] theorem State.heard_time : (s.heard g).time = s.time := (congrArg State.time (s.heard_withoutNet g) :)
@[simp] theorem State.heard_cam : (s.heard g).cam = s.cam := (congrArg State.cam (s.heard_withoutNet g) :)
@[simp] theorem State.heard_motion : (s.heard g).motion = s.motion := (congrArg State.motion (s.heard_withoutNet g) :)

@[simp] theorem State.heard_group : (s.heard g).group = s.group := State.group_congr (s.heard_img g)

end

/-- A message of the group comes to a module of one. -/
theorem State.grpMatches_group {s : State} {g : GrpHdr} (h : s.grpMatches g = true) : ∃ grp, s.group = some grp := by
  unfold State.grpMatches at h
  split at h
  · cases h
  · next grp hg => exact ⟨grp, hg⟩

/-! ### The three ways of a message (R373, R374) -/

theorem State.receive_mismatch {s : State} {g : GrpHdr} (h : s.grpMatches g = false) (body : State → State) :
    s.receive g body = s.count .netGroupRxDrop [] := by
  simp [State.receive, h]

theorem State.receive_again {s : State} {g : GrpHdr} (hm : s.grpMatches g = true) (hs : s.grpSeen g = true)
    (body : State → State) : s.receive g body = s.grpAck g := by
  simp [State.receive, hm, hs]

theorem exec_caps_received {s : State} {g : GrpHdr} (h : g.mac ≠ Config.macAddress ∨ s.grpMatches g = false)
    (m : CapsMsg) : exec (.caps g m) s = .next (s.receive g fun s => s.caps g m) := by
  refine congrArg Host.Outcome.next (if_neg ?_)
  rintro hb
  simp only [Bool.and_eq_true, decide_eq_true_eq] at hb
  exact h.elim (fun h => h hb.1) fun h => Bool.false_ne_true (h.symm.trans hb.2)

theorem exec_handoff_mismatch {s : State} {g : GrpHdr} (h : s.grpMatches g = false) (m : HandoffMsg) :
    exec (.handoff g m) s = .next (s.count .netGroupRxDrop []) := by
  refine congrArg Host.Outcome.next (if_pos ?_)
  rw [h]
  rfl

theorem exec_launchItem_mismatch {s : State} {g : GrpHdr} (h : s.grpMatches g = false) (i : Bytes) (l : BitVec 64) :
    exec (.launchItem g i l) s = .next (s.count .netGroupRxDrop []) := by
  refine congrArg Host.Outcome.next (if_pos ?_)
  rw [h]
  rfl

theorem exec_launchItem_again {s : State} {g : GrpHdr} (hm : s.grpMatches g = true) (hs : s.grpSeen g = true)
    (i : Bytes) (l : BitVec 64) : exec (.launchItem g i l) s = .next (s.answerAgain g) := by
  change execLaunchItem g i l s = _
  simp [execLaunchItem, hm, hs]

/-! ### AXIS (R376) -/

/-- The encoders of both modules and TB0 allow an AXIS message to refresh the anchor. -/
def State.axisFits (s : State) (grp : Bytes) (e : Nat) : Prop :=
  Grp.index grp ≠ 0 ∧ (s.time.tb0.st = .locked ∨ s.time.tb0.st = .holdover) ∧
    ((s.enc (Grp.stretch grp 0x18 1)).dieSt = .run ∨ (s.enc (Grp.stretch grp 0x18 1)).dieSt = .stopped) ∧
    e ≠ 0 ∧ e ≠ 3

section
variable {s : State} {grp : Bytes} {t : BitVec 64} {p : Pos} {e : Nat} (hg : s.group = some grp)
include hg

theorem State.axis_fits (hf : s.axisFits grp e) : s.axis t p e =
    match (s.enc (Grp.stretch grp 0x18 1)).posAtTb0 (s.tb0Of t) with
    | none => s
    | some a => { s with net := { s.net with anchor := some (a, p), anchorAt := s.now } } := by
  obtain ⟨hx, ht, hd, h0, h3⟩ := hf
  rw [State.axis, hg]
  exact if_neg (by simp [hx, h0, h3, imp_iff_not_or, ht, hd])

theorem State.axis_unfit (hf : ¬s.axisFits grp e) : s.axis t p e = s := by
  rw [State.axis, hg]
  refine if_pos ?_
  by_contra h
  exact hf (by simpa [State.axisFits, imp_iff_not_or, and_assoc] using h)

omit hg in
/-- Hearing the message changes nothing that decides what its AXIS does. -/
theorem State.axisFits_heard (g : GrpHdr) : (s.heard g).axisFits grp e ↔ s.axisFits grp e := by
  simp only [State.axisFits, State.enc, State.heard_time, State.heard_motion]

end

/-! ### Messages sent again (R374) -/

section
variable {s : State} {peer : Nat} {seq : Word} {m : GroupMsg}
  (hm : s.net.unacked.find? (fun m => m.peer == peer && m.seq == seq) = some m) (h7 : m.type ≠ 0x07)
include hm h7

theorem State.regroup_again (ht : m.tries < 4) : s.regroup peer seq = { s with
    out := s.out ++ [.group (some peer) m.type seq true m.payload]
    net := { s.net with unacked := s.net.unacked.map fun x =>
      if x.peer == peer && x.seq == seq then { x with tries := x.tries + 1 } else x } } := by
  simp [State.regroup, hm, h7, ht, State.emit]

theorem State.regroup_lost (ht : 4 ≤ m.tries) (h3 : m.type ≠ 0x03) : s.regroup peer seq =
    (s.ackIn peer seq).flagLog .netGroupFlags [] 1
      { errorRec 5 with status := Code.peerLost, arg0 := n64 peer, arg1 := n64 m.type } := by
  simp [State.regroup, hm, h7, ht, h3]

end

/-- Settles O30: a message takes one of the three ways, a new one is performed on the state that has heard it, and one
that nobody acknowledges is sent again or lost. -/
theorem groupMessages : Obligations.GroupMessages := by
  refine ⟨fun s g hm => ?mismatch, fun s g hm hs => ?again, fun s g hm hs => ?new, fun s peer seq m hm h7 =>
    ⟨fun ht => congrArg Host.Outcome.next (State.regroup_again hm h7 ht),
      fun ht h3 => congrArg Host.Outcome.next (State.regroup_lost hm h7 ht h3)⟩⟩
  case mismatch =>
    have hdrop (body : State → State) : (.next (s.receive g body) : Res) = .next (s.count .netGroupRxDrop []) :=
      congrArg Host.Outcome.next (State.receive_mismatch hm body)
    exact ⟨fun m => (exec_caps_received (.inr hm) m).trans (hdrop _), fun t p e => hdrop _,
      exec_handoff_mismatch hm, fun m => hdrop _, exec_launchItem_mismatch hm, fun l st p => hdrop _,
      fun l => hdrop _, fun b => hdrop _, fun q => hdrop _⟩
  case again =>
    have hack (body : State → State) : (.next (s.receive g body) : Res) = .next (s.grpAck g) :=
      congrArg Host.Outcome.next (State.receive_again hm hs body)
    exact ⟨fun m h => (exec_caps_received (.inl h) m).trans (hack _), fun t p e => hack _, fun m => hack _,
      exec_launchItem_again hm hs, fun l st p => hack _, fun l => hack _, fun b => hack _, fun q => hack _⟩
  case new =>
    have hrun (body : State → State) : (.next (s.receive g body) : Res) = .next (body (s.heard g)) :=
      congrArg Host.Outcome.next (State.receive_new hm hs body)
    refine ⟨fun b => hrun _, fun q => hrun _, fun l => hrun _, fun t p e grp hg => ?_⟩
    intro x fit
    have hg' : (s.heard g).group = some grp := (s.heard_group g).trans hg
    have hfit : (s.heard g).axisFits grp e.val ↔ fit := by
      have h0 : (e.val ≠ 0 ∧ e.val ≠ 3) ↔ (e ≠ 0 ∧ e ≠ 3) := by simp only [ne_eq, Fin.ext_iff]; rfl
      rw [State.axisFits_heard, State.axisFits, h0]
    have hat : ((s.heard g).enc (Grp.stretch grp 0x18 1)).posAtTb0 ((s.heard g).tb0Of t) = x.posAtTb0 (s.tb0Of t) := by
      rw [State.enc, State.tb0Of, State.heard_motion, State.heard_time]
      rfl
    have hnow : (s.heard g).now = s.now := by rw [State.now, State.now, State.heard_time]
    refine ⟨fun a hf ha => (hrun _).trans (congrArg Host.Outcome.next ?_), fun hf =>
      (hrun _).trans (congrArg Host.Outcome.next ?_)⟩
    · rw [State.axis_fits hg' (hfit.mpr hf), hat, ha, hnow]
    · by_cases hf' : fit
      · rw [State.axis_fits hg' (hfit.mpr hf'), hat, hf.resolve_left (not_not_intro hf')]
      · exact State.axis_unfit hg' (mt hfit.mp hf')

end Sys2Proof.Machine

/-! PROOFS. The switch, and what answers on the die's own addresses (O33). -/

namespace Sys2Proof.Machine

/-! ### The ports of a frame (R369) -/

section
variable {s : State} {p : Nat} {f : Frame}

theorem State.egress_die (hd : f.dst = Config.macAddress) (hb : f.dst ≠ macAll) :
    s.egress p f = if p = 2 then [] else [2] := by
  rw [State.egress]
  exact (if_neg hb).trans (if_pos hd)

theorem State.mem_egress_broadcast (hd : f.dst = macAll) (hn : s.net.noForward = false) (hp : p < 3) (q : Nat) :
    q ∈ s.egress p f ↔ q < 3 ∧ q ≠ p := by
  rw [State.egress]
  simp only [hd, hn, if_true, Bool.false_eq_true, if_false]
  by_cases h2 : p = 2
  · simp only [h2, if_true, List.append_nil, List.mem_cons, List.not_mem_nil, or_false]
    omega
  · simp only [h2, if_false, List.mem_append, List.mem_cons, List.not_mem_nil, or_false]
    omega

/-! ### A transparent clock (R384) -/

/-- The state that has learned a frame's source, where the table has room. -/
def State.learned (s : State) (p : Nat) (src : BitVec 48) : State :=
  let rest := s.net.macTable.filter fun e => e.1 != src
  if rest.length < 1024 then { s with net := { s.net with macTable := rest ++ [(src, p)] } } else s

theorem State.learned_withoutNet (s : State) (p : Nat) (src : BitVec 48) :
    (s.learned p src).withoutNet = s.withoutNet := by
  unfold State.learned
  dsimp only
  split <;> rfl

theorem State.learned_img (s : State) (p : Nat) (src : BitVec 48) : (s.learned p src).img = s.img :=
  (congrArg State.img (s.learned_withoutNet p src) :)

theorem State.learned_free (s : State) (p : Nat) (src : BitVec 48) : (s.learned p src).free = s.free :=
  (congrArg State.free (s.learned_withoutNet p src) :)

theorem State.learned_out (s : State) (p : Nat) (src : BitVec 48) : (s.learned p src).out = s.out := by
  unfold State.learned
  dsimp only
  split <;> rfl

theorem State.learned_transparent (s : State) (p : Nat) (src : BitVec 48) :
    (s.learned p src).transparent = s.transparent := by
  unfold State.transparent State.imgRecord
  rw [State.learned_img]

/-- A frame that is no event message, or meets no transparent clock, passes as it is. -/
theorem State.throughClock_none (h : f.ptp = none ∨ s.transparent = false ∨ p = 2) : s.throughClock p f = (f, s) := by
  unfold State.throughClock
  split
  · rfl
  · next e he =>
    rw [he] at h
    have h := h.resolve_left (Option.some_ne_none e)
    refine if_pos ?_
    rcases h with h | h <;> simp [h]

/-- The link's delay is 0 for a message that is no Sync, and takes at most free values. -/
theorem State.linkDelay_eq (s : State) (p : Nat) (sync : Bool) : ∃ link k, (sync = false → link = 0) ∧
    s.linkDelay p sync = (link, { s with free := s.free + k }) := by
  unfold State.linkDelay
  split
  · exact ⟨0, 0, fun _ => rfl, rfl⟩
  · next h =>
    have hsync : sync ≠ false := by
      rintro rfl
      exact h rfl
    split
    · exact ⟨_, 0, fun h => absurd h hsync, rfl⟩
    · exact ⟨_, 1, fun h => absurd h hsync, rfl⟩

theorem State.throughClock_event {e : PtpEvent} (he : f.ptp = some e) (ht : s.transparent = true) (hp : p ≠ 2) :
    ∃ held link k : Nat, held < residenceBound f.bytes ∧ (e.sync = false → link = 0) ∧
      s.throughClock p f = ({ f with ptp := some { e with correction := e.correction + n64 (held + link) } },
        { s with free := s.free + k }) := by
  obtain ⟨link, k, hsync, hlink⟩ := State.linkDelay_eq ({ s with free := s.free + 1 }) p e.sync
  have hpos : 0 < residenceBound f.bytes := by
    unfold residenceBound
    split <;> decide
  refine ⟨Config.freeNat s.free % residenceBound f.bytes, link, 1 + k, Nat.mod_lt _ hpos, hsync, ?_⟩
  rw [State.throughClock, he]
  refine (if_neg (by simp [ht, hp])).trans ?_
  simp only [State.draw, hlink, Nat.add_assoc]

/-! ### Forwarding (R369) -/

theorem State.forward_long (h : 9216 < f.bytes) : s.forward p f = s := if_pos h

/-- A frame that is not too long is learned, passes the clock where it leaves between P0 and P1, and leaves. -/
theorem State.forward_eq (hb : f.bytes ≤ 9216) : s.forward p f =
    let u := s.learned p f.src
    let x := if (u.egress p f).any (· < 2) then u.throughClock p f else (f, u)
    x.2.emits ((u.egress p f).map fun q => .frame q (queueOf f.pcp) (if q = 2 then f else x.1)) :=
  if_neg hb.not_gt

theorem State.forward_plain (hb : f.bytes ≤ 9216) (h : f.ptp = none ∨ s.transparent = false ∨ p = 2) :
    s.forward p f = { s.learned p f.src with
      out := s.out ++ ((s.learned p f.src).egress p f).map fun q => .frame q (queueOf f.pcp) f } := by
  have h' : f.ptp = none ∨ (s.learned p f.src).transparent = false ∨ p = 2 := by rwa [State.learned_transparent]
  rw [State.forward_eq hb]
  simp only [State.throughClock_none h', ite_self, ← State.learned_out s p f.src]
  rfl

theorem State.forward_event {e : PtpEvent} (hb : f.bytes ≤ 9216) (he : f.ptp = some e) (ht : s.transparent = true)
    (hp : p ≠ 2) (hout : ((s.learned p f.src).egress p f).any (· < 2) = true) :
    ∃ held link k : Nat, held < residenceBound f.bytes ∧ (e.sync = false → link = 0) ∧
      s.forward p f = { s.learned p f.src with
        free := s.free + k
        out := s.out ++ ((s.learned p f.src).egress p f).map fun q => .frame q (queueOf f.pcp) (if q = 2 then f else
          { f with ptp := some { e with correction := e.correction + n64 (held + link) } }) } := by
  obtain ⟨held, link, k, hheld, hlink, heq⟩ := State.throughClock_event he ((s.learned_transparent p f.src).trans ht) hp
  refine ⟨held, link, k, hheld, hlink, ?_⟩
  rw [State.forward_eq hb, ← State.learned_out s p f.src, ← State.learned_free s p f.src]
  simp only [hout, if_true, heq]
  rfl

end

/-- Settles O33: a frame is learned and leaves by its ports, and each request is answered where its address is the
die's own. -/
theorem switchAndAddresses : Obligations.SwitchAndAddresses := by
  refine ⟨fun s p f => ⟨fun h => congrArg Host.Outcome.next (State.forward_long h), ?_⟩, fun s mac => rfl,
    fun s p m ip target frag data => ⟨fun ht => ⟨congrArg Host.Outcome.next (if_pos ht),
        fun hf => congrArg Host.Outcome.next (if_pos ⟨ht, by simp [hf]⟩)⟩,
      fun ht => congrArg Host.Outcome.next (if_neg ht), fun h => congrArg Host.Outcome.next (if_neg ?unanswered)⟩,
    fun s seat v => ⟨fun h => congrArg Host.Outcome.next (if_pos h), fun h => congrArg Host.Outcome.next (if_neg h)⟩⟩
  case unanswered =>
    rintro ⟨ht, hf⟩
    exact h.elim (fun h => h ht) fun h => by simp [h] at hf
  have hval : p ≠ 2 → p.val ≠ 2 := fun h hv => h (Fin.ext hv)
  refine ⟨fun hb h => congrArg Host.Outcome.next (State.forward_plain hb ?_), fun e hb he ht hp hout => ?_,
    fun hd hb => ?_, fun hd hn q => State.mem_egress_broadcast hd hn p.isLt q⟩
  · exact h.imp_right fun h => h.imp_right fun h => congrArg Fin.val h
  · obtain ⟨held, link, k, hheld, hlink, heq⟩ := State.forward_event hb he ht (hval hp) hout
    exact ⟨held, link, k, hheld, hlink, congrArg Host.Outcome.next heq⟩
  · rw [State.egress_die hd hb]
    exact if_congr ⟨fun h => Fin.ext h, fun h => congrArg Fin.val h⟩ rfl rfl

end Sys2Proof.Machine

/-! PROOFS. The modules of a group: CAPS, axis samples, strips and handoffs (O31). -/

namespace Sys2Proof.Machine

/-! ### What hearing a message keeps of the network (R373) -/

section
variable (s : State) (h : GrpHdr)

/-- What the group knows of its members, apart from the messages on their way. -/
def NetState.members (n : NetState) : NetState := { n with seen := [], txSeq := 0, unacked := [] }

theorem State.groupSend_members (peer : Option Nat) (type : Nat) (payload : Bytes) :
    (s.groupSend peer type payload).net.members = s.net.members := by
  unfold State.groupSend
  split <;> rfl

theorem State.heard_members : (s.heard h).net.members = s.net.members := by
  unfold State.heard State.grpAck
  split
  · exact State.groupSend_members ..
  · rfl

theorem State.heard_peers : (s.heard h).net.peers = s.net.peers := (congrArg NetState.peers (s.heard_members h) :)

theorem State.heard_strip (k : Nat) : (s.heard h).strip k = s.strip k := by
  unfold State.strip
  split
  · exact (congrArg NetState.strip0 (s.heard_members h) :)
  · exact (congrArg NetState.strip1 (s.heard_members h) :)

end

/-! ### CAPS (R370, R374, R375, R382) -/

section
variable {s : State} {g : Bytes} (hg : s.group = some g)
include hg

theorem State.caps_own {h : GrpHdr} {m : CapsMsg} (hm : h.mac = Config.macAddress) : s.caps h m =
    ({ s with net := { s.net with noForward := true } } : State).flagLog .netGroupFlags [] 6 (errorRec 5) := by
  rw [State.caps, hg]
  exact if_pos hm

theorem State.caps_claim {h : GrpHdr} {m : CapsMsg} (hm : h.mac ≠ Config.macAddress) (hi : m.index = Grp.index g) :
    s.caps h m = s.dupIndex m.index := by
  rw [State.caps, hg]
  exact (if_neg hm).trans (if_pos hi)

/-- A peer that is not in the table yet enters it, and what it says is new. -/
theorem State.caps_new {h : GrpHdr} {m : CapsMsg} (hm : h.mac ≠ Config.macAddress) (hi : m.index ≠ Grp.index g)
    (hp : Tab.get s.net.peers m.index = none) : s.caps h m = (({ s with net := { s.net with
      peers := Tab.put s.net.peers m.index { mac := h.mac, ip := h.ip, caps := m, present := true
                                             excluded := false } } } : State).checkStrips g m.index true).noteFormed := by
  rw [State.caps, hg]
  refine ((if_neg hm).trans (if_neg hi)).trans ?_
  rw [hp]
  rfl

omit hg in
/-- A fold that leaves its start alone at each of its steps leaves it alone. -/
theorem foldl_eq_of_fixed {α β : Type} {f : β → α → β} {b : β} {l : List α} (h : ∀ a ∈ l, f b a = b) :
    l.foldl f b = b := by
  induction l with
  | nil => rfl
  | cons a l ih =>
    rw [List.foldl_cons, h a List.mem_cons_self]
    exact ih fun x hx => h x (List.mem_cons_of_mem a hx)

/-- No own strip names the peer: its absence shows in the table only. -/
theorem State.peerAbsent_plain {i : Nat} {p : Peer} (hp : Tab.get s.net.peers i = some p)
    (hs : ∀ x ∈ s.ownStrips g, byteAt x.1 0 ≠ i) : s.peerAbsent i = { s with net := { s.net with
      peers := Tab.put s.net.peers i { p with present := false, excluded := false } } } := by
  rw [State.peerAbsent, hg, hp]
  exact foldl_eq_of_fixed fun x hx => if_neg (hs x.1 (List.fst_mem_of_mem_zipIdx hx))

/-! ### The timers (R374, R376) -/

theorem State.groupSend_all (type : Nat) (payload : Bytes) : s.groupSend none type payload = { s with
    out := s.out ++ [.group none type s.net.txSeq false payload]
    net := { s.net with txSeq := s.net.txSeq + 1 } } := by
  rw [State.groupSend, hg]
  simp only [State.emit, List.append_nil]

theorem State.sendCaps_eq : s.sendCaps = s.groupSend none 0x01 (s.capsBytes g) := by rw [State.sendCaps, hg]

theorem State.sendAxis_leader {t : Nat} {p : Pos} {rest : List (Nat × Pos)} (h0 : Grp.index g = 0)
    (hx : (s.enc (Grp.stretch g 0x18 1)).samples = (t, p) :: rest) : s.sendAxis = s.groupSend none 0x02
      (natLe 8 (s.storedTb0 t).toNat ++ natLe 8 p.toNat ++ natLe 1 (s.enc (Grp.stretch g 0x18 1)).dieSt.code) := by
  rw [State.sendAxis, hg]
  refine (if_neg (not_not_intro h0)).trans ?_
  dsimp only
  rw [hx]
  rfl

theorem State.sendAxis_member (h0 : Grp.index g ≠ 0) : s.sendAxis = s := by
  rw [State.sendAxis, hg]
  exact if_pos h0

theorem State.mapStale_anchored (ha : s.net.anchor.isSome = true) (ht : s.net.anchorAt + 10000000 ≤ s.now) :
    s.mapStale = true := by
  simp [State.mapStale, hg, ha, ht]

end

/-- A standalone module has no group to send to, and no axis map. -/
theorem State.timers_standalone {s : State} (hg : s.group = none) :
    s.sendCaps = s ∧ s.sendAxis = s ∧ s.mapStale = false := by
  simp [State.sendCaps, State.sendAxis, State.mapStale, hg]

/-! ### Strips (R381, R382) -/

/-- Strip k receives from a sender. -/
def State.takesStrip (s : State) (g : Bytes) (sender k : Nat) : Prop :=
  byteAt (Grp.strip g k) 0 = sender ∧ (s.strip k).active = true

/-- A line for strip 0 leaves strip 1 alone. -/
theorem State.stripLine_zero_strip (s : State) (g : Bytes) (m : StripMsg) :
    (s.stripLine g 0 m).net.strip1 = s.net.strip1 := by
  have hupd (t : State) (f : StripState → StripState) : (t.updStrip 0 f).net.strip1 = t.net.strip1 := rfl
  unfold State.stripLine
  dsimp only
  split
  · simp [hupd, apply_ite State.net]
  · split
    · simp [hupd, apply_ite State.net]
    · split <;> simp [hupd, apply_ite State.net]

section
variable {s : State} {g : Bytes} {sender : Nat} {m : StripMsg} (hg : s.group = some g)
include hg

theorem State.stripIn_eq : s.stripIn sender m =
    let t := if byteAt (Grp.strip g 0) 0 = sender ∧ (s.strip 0).active = true then s.stripLine g 0 m else s
    if byteAt (Grp.strip g 1) 0 = sender ∧ (t.strip 1).active = true then t.stripLine g 1 m else t := by
  rw [State.stripIn, hg]
  rfl

theorem State.stripIn_none (h0 : ¬s.takesStrip g sender 0) (h1 : ¬s.takesStrip g sender 1) : s.stripIn sender m = s := by
  unfold State.takesStrip at h0 h1
  simp only [State.stripIn_eq hg, if_neg h0, if_neg h1]

theorem State.stripIn_zero (h0 : s.takesStrip g sender 0) (h1 : ¬s.takesStrip g sender 1) :
    s.stripIn sender m = s.stripLine g 0 m := by
  have hkeep : (s.stripLine g 0 m).strip 1 = s.strip 1 := s.stripLine_zero_strip g m
  unfold State.takesStrip at h0 h1
  simp only [State.stripIn_eq hg, if_pos h0, hkeep, if_neg h1]

theorem State.stripIn_one (h0 : ¬s.takesStrip g sender 0) (h1 : s.takesStrip g sender 1) :
    s.stripIn sender m = s.stripLine g 1 m := by
  unfold State.takesStrip at h0 h1
  simp only [State.stripIn_eq hg, if_neg h0, if_pos h1]

end

/-- The next line of a strip that no own stream feeds goes into the ring, and nothing is compared. -/
theorem State.stripLine_next {s : State} {g : Bytes} {k : Nat} {m : StripMsg}
    (he : (s.strip k).expect = some m.lineIndex.toNat) (hs : s.stream (byteAt (Grp.strip g k) 1) = none) :
    s.stripLine g k m =
      ((s.store (s.stripBase g k + (s.strip k).slots % 2 ^ byteAt (Grp.strip g k) 6 * s.stripSlot g k)
        (padTo (s.stripSlot g k) ((natLe 8 m.lineIndex.toNat ++ natLe 8 m.group.toNat ++ natLe 8 m.tb0.toNat ++
          natLe 1 (b2n m.damaged) ++ natLe 7 0 ++ m.band).take (s.stripSlot g k)))).count .netStripRx [k]).updStrip
        k fun t => { t with expect := some (m.lineIndex.toNat + 1), slots := t.slots + 1 } := by
  have hcam (t : State) (f : StripState → StripState) : (t.updStrip k f).cam = t.cam := by
    unfold State.updStrip
    split <;> rfl
  have hstream (t : State) (h : t.cam = s.cam) : t.stream (byteAt (Grp.strip g k) 1) = none :=
    (State.stream_congr h _).trans hs
  unfold State.stripLine
  simp only [he, Nat.sub_self, if_true]
  rw [hstream _ (by simp [hcam])]

/-! ### Handoffs (R269, R377, R378, R380) -/

section
variable {s : State} {h : GrpHdr} {m : HandoffMsg} {g : Bytes} (hg : s.group = some g) (hm : s.grpMatches h = true)
include hg hm

theorem State.handoffIn_unanchored (ha : s.axisAnchor g = none) :
    s.handoffIn h m = s.handoffRefused h m Code.axisInvalid := by
  rw [State.handoffIn, hm, hg]
  simp only [ha]
  rfl

theorem State.handoffIn_new {a : Pos × Pos} (ha : s.axisAnchor g = some a) (hs : s.grpSeen h = false) :
    s.handoffIn h m = if m.kind = 1 then (s.heard h).handoffScores h m g a
      else if m.kind = 2 then (s.heard h).handoffDecided h m g a else s.heard h := by
  rw [State.handoffIn, hm, hg]
  simp only [ha]
  exact (if_neg Bool.false_ne_true).trans (State.receive_new hm hs _)

end

section
variable {s : State} {h : GrpHdr} {m : HandoffMsg} {g : Bytes} {a : Pos × Pos}

theorem State.handoffScores_strange (hp : s.handoffPart m (HandoffMsg.here m g a m.startPos) h.sender.toNat = none) :
    s.handoffScores h m g a = s.handoffRefused h m Code.handoffMismatch := by
  rw [State.handoffScores, hp]

theorem State.handoffScores_late {slot : Nat} {p : Part}
    (hp : s.handoffPart m (HandoffMsg.here m g a m.startPos) h.sender.toNat = some (slot, p))
    (hl : p.undecided = false ∨ s.cutoffBehind p.encoder p.cutoff = true) :
    s.handoffScores h m g a = s.handoffRefused h m Code.handoffLate := by
  rw [State.handoffScores, hp]
  exact if_pos (by simpa using hl)

theorem State.handoffScores_joins {slot : Nat} {p : Part} {r : Bytes}
    (hp : s.handoffPart m (HandoffMsg.here m g a m.startPos) h.sender.toNat = some (slot, p))
    (hu : p.undecided = true) (hc : s.cutoffBehind p.encoder p.cutoff = false) (h2 : m.source ≠ 2)
    (hd : m.damaged = false) (hr : (s.seen p).imgRecord 9 2 p.stream = some r) :
    s.handoffScores h m g a = (((s.updPart slot fun p => { p with
      views := listUpd p.views m.slot fun v => { v with
        deep := some (m.scores.take (byteAt r 6)), arithDeep := v.arithDeep ||| m.arith }
      groupPeer := if p.groupPeer = 0xFF then h.sender.toNat else p.groupPeer }).recordJoined slot
        0).judge slot).afterDecision := by
  rw [State.handoffScores, hp]
  simp [hu, hc, h2, hd, hr]

theorem State.handoffDecided_undefined (hp : s.partDef m.slot = none) :
    s.handoffDecided h m g a = s.handoffRefused h m Code.handoffMismatch := by
  rw [State.handoffDecided, hp]

end

/-! ### A sender's position here (R377) -/

theorem halfUp_int (n : Int) : halfUp n = n := by
  change ⌊(n : Rat) + 1 / 2⌋ = n
  rw [Int.floor_eq_iff]
  constructor <;> norm_num

theorem posAdd_add (a : Pos) (x y : Int) : posAdd (posAdd a x) y = posAdd a (x + y) := by
  rw [posAdd, posAdd, posAdd, BitVec.add_assoc, BitVec.ofInt_add]

theorem axisRatio_one {g : Bytes} (h : Grp.stretch g 0x1C 4 = 16777216) : axisRatio g = 1 := by
  rw [axisRatio, h]
  norm_num

/-- Modules of equal counts at equal distances: a position keeps its distance from the anchor. -/
theorem translate_one {g : Bytes} {d : Int} (hr : Grp.stretch g 0x1C 4 = 16777216) (hd : sleAt g 0x20 4 = d)
    (ap ag lp lg p : Pos) :
    translate ap ag 16777216 d lp lg g p = posAdd lp (posSub (posAdd ag (posSub p ap)) lg) := by
  have hone : ((16777216 : Nat) : Rat) / 16777216 = 1 := by norm_num
  unfold translate
  simp only [axisRatio_one hr, hd, hone, one_mul, div_one, one_ne_zero, if_false, halfUp_int]
  rw [posAdd_add, neg_add_cancel]
  simp [posAdd]

/-- Settles O31: each message of a member that is heard for the first time is performed on the state that has heard
it, and each timer sends what the group needs to know. -/
theorem groupMembership : Obligations.GroupMembership := by
  refine ⟨fun s h m g hg hm => ⟨fun hmac => ?own, fun hmac hs hi => ?claim, fun hmac hs hi hp => ?new⟩,
    fun s i g p hg hp hs => congrArg Host.Outcome.next (State.peerAbsent_plain hg hp hs),
    fun s g hg => ⟨congrArg Host.Outcome.next ((State.sendCaps_eq hg).trans (State.groupSend_all hg ..)),
      fun t p rest h0 hx => congrArg Host.Outcome.next ((State.sendAxis_leader hg h0 hx).trans (State.groupSend_all hg ..)),
      fun h0 => congrArg Host.Outcome.next (State.sendAxis_member hg h0),
      fun ha ht => congrArg Host.Outcome.next (if_pos (State.mapStale_anchored hg ha ht))⟩,
    fun s hg => ?standalone, fun s h m g hg hm hs => ?strip,
    fun s g k m _ he hs => State.stripLine_next he hs, fun s k => rfl, fun s h m g hg hm => ?handoff,
    fun ap ag lp lg d g p hr hd => translate_one hr hd ap ag lp lg p⟩
  case own =>
    refine congrArg Host.Outcome.next ((if_pos ?_).trans (State.caps_own hg hmac))
    simp [hmac, hm]
  case claim =>
    refine (exec_caps_received (.inl hmac) m).trans (congrArg Host.Outcome.next ?_)
    rw [State.receive_new hm hs]
    exact State.caps_claim ((s.heard_group h).trans hg) hmac hi
  case new =>
    refine (exec_caps_received (.inl hmac) m).trans (congrArg Host.Outcome.next ?_)
    rw [State.receive_new hm hs]
    exact State.caps_new ((s.heard_group h).trans hg) hmac hi ((congrArg (Tab.get · m.index) (s.heard_peers h)).trans hp)
  case standalone =>
    obtain ⟨hcaps, haxis, hmap⟩ := State.timers_standalone hg
    exact ⟨congrArg Host.Outcome.next hcaps, congrArg Host.Outcome.next haxis,
      congrArg Host.Outcome.next (if_neg (by simp [hmap]))⟩
  case strip =>
    have hg' : (s.heard h).group = some g := (s.heard_group h).trans hg
    have hrun : exec (.strip h m) s = .next ((s.heard h).stripIn h.sender.toNat m) :=
      congrArg Host.Outcome.next (State.receive_new hm hs _)
    have hmine (k : Nat) : (s.heard h).takesStrip g h.sender.toNat k ↔ s.takesStrip g h.sender.toNat k := by
      rw [State.takesStrip, State.heard_strip, State.takesStrip]
    exact ⟨fun h0 h1 => hrun.trans (congrArg Host.Outcome.next
        (State.stripIn_none hg' (mt (hmine 0).mp h0) (mt (hmine 1).mp h1))),
      fun h0 h1 => hrun.trans (congrArg Host.Outcome.next
        (State.stripIn_zero hg' ((hmine 0).mpr h0) (mt (hmine 1).mp h1))),
      fun h0 h1 => hrun.trans (congrArg Host.Outcome.next
        (State.stripIn_one hg' (mt (hmine 0).mp h0) ((hmine 1).mpr h1)))⟩
  case handoff =>
    have hnew {a : Pos × Pos} (ha : s.axisAnchor g = some a) (hs : s.grpSeen h = false) :=
      State.handoffIn_new (m := m) hg hm ha hs
    refine ⟨fun ha => congrArg Host.Outcome.next (State.handoffIn_unanchored hg hm ha), fun a ha hs h1 => ?_,
      fun a ha hs h2 => ⟨fun hp => ?_, fun hp => ?_⟩⟩
    · have hscores : exec (.handoff h m) s = .next ((s.heard h).handoffScores h m g a) :=
        congrArg Host.Outcome.next ((hnew ha hs).trans (if_pos h1))
      exact ⟨fun hp => hscores.trans (congrArg Host.Outcome.next (State.handoffScores_strange hp)),
        fun slot p hp => ⟨fun hl => hscores.trans (congrArg Host.Outcome.next (State.handoffScores_late hp hl)),
          fun r hu hc h2 hd hr => hscores.trans (congrArg Host.Outcome.next
            (State.handoffScores_joins hp hu hc h2 hd hr))⟩⟩
    all_goals
      have hdecided : exec (.handoff h m) s = .next ((s.heard h).handoffDecided h m g a) :=
        congrArg Host.Outcome.next ((hnew ha hs).trans ((if_neg (by simp [h2])).trans (if_pos h2)))
    · exact hdecided.trans (congrArg Host.Outcome.next (State.handoffDecided_undefined hp))
    · exact hdecided

end Sys2Proof.Machine

/-! PROOFS. A seat's connection comes and is lost (O36). -/

namespace Sys2Proof.Machine

/-! ### What an interrupt leaves alone (R420) -/

/-- A register apart from INT_STATUS of the seats and its counters. -/
def RN.apartInt (q : RN) (jx : List Nat) : Prop :=
  ∀ p < 4, q.off jx ≠ RN.intStatus.off [p] ∧ q.off jx ≠ RN.intStatusCnt.off [p]

theorem State.stored_raiseInt_other {q : RN} {jx : List Nat} (h : q.apartInt jx) (s : State) {p : Nat} (hp : p < 4)
    (b : Nat) : (s.raiseInt p b).stored q jx = s.stored q jx := by
  have hsig : (s.raiseInt p b).stored q jx = (s.setFlag .intStatus [p] b).stored q jx := by
    rw [State.raiseInt, State.stored, State.signalSeat_regs]
    rfl
  rw [hsig]
  refine State.stored_setFlag_other _ _ _ _ _ _ (h p hp).1 fun c kx n hc => ?_
  cases hc
  exact (h p hp).2

theorem State.stored_raisePeers_other {q : RN} {jx : List Nat} (h : q.apartInt jx) (s : State) (seat b : Nat) :
    (s.raisePeers seat b).stored q jx = s.stored q jx := by
  have hstep : ∀ (l : List Nat) (t : State), (∀ p ∈ l, p < 4) →
      (l.foldl (fun s p => if p ≠ seat ∧ s.connected p then s.raiseInt p b else s) t).stored q jx = t.stored q jx := by
    intro l
    induction l with
    | nil => exact fun t _ => rfl
    | cons p l ih =>
      intro t hl
      obtain ⟨hp, hl⟩ := List.forall_mem_cons.mp hl
      rw [List.foldl_cons, ih _ hl]
      split
      · exact State.stored_raiseInt_other h t hp b
      · rfl
  exact hstep (List.range 4) s fun p hp => List.mem_range.mp hp

theorem State.raiseInt_conns (s : State) (p b : Nat) : (s.raiseInt p b).host.conns = s.host.conns := by
  rw [State.raiseInt]
  have hsig : ((s.setFlag .intStatus [p] b).signalSeat p).host.conns = (s.setFlag .intStatus [p] b).host.conns :=
    (congrArg HostState.conns (State.signalSeat_withoutTalk _ p) :)
  rw [hsig, State.setFlag_host]

theorem State.raisePeers_conns (s : State) (seat b : Nat) : (s.raisePeers seat b).host.conns = s.host.conns :=
  State.foldl_kept (f := fun (s : State) p => if p ≠ seat ∧ s.connected p then s.raiseInt p b else s)
    (fun t => t.host.conns) (fun t p => by split <;> simp [State.raiseInt_conns]) _ s

/-! ### A connection begins (R406, R426) -/

/-- An aperture base leaves what the last connection wrote. -/
def State.clearBase (s : State) (seat n : Nat) : State := (s.setReg .apBaseLo [seat, n] 0).setReg .apBaseHi [seat, n] 0

theorem State.clearBase_lo (s : State) (seat m n : Nat) :
    (s.clearBase seat m).reg .apBaseLo [seat, n] = if n = m then 0 else s.reg .apBaseLo [seat, n] := by
  have hhi : RN.apBaseLo.off [seat, n] ≠ RN.apBaseHi.off [seat, m] := by
    simp only [RN.off, RN.row, List.zipWith, List.foldl]
    omega
  rw [State.clearBase, State.reg_setReg_other _ _ _ _ _ _ hhi]
  split
  · next h => exact h ▸ State.reg_setReg_same ..
  · next h =>
    refine State.reg_setReg_other _ _ _ _ _ _ ?_
    simp only [RN.off, RN.row, List.zipWith, List.foldl]
    omega

theorem State.clearBase_hi (s : State) (seat m n : Nat) :
    (s.clearBase seat m).reg .apBaseHi [seat, n] = if n = m then 0 else s.reg .apBaseHi [seat, n] := by
  rw [State.clearBase]
  split
  · next h => exact h ▸ State.reg_setReg_same ..
  · next h =>
    have hlo : RN.apBaseHi.off [seat, n] ≠ RN.apBaseLo.off [seat, m] := by
      simp only [RN.off, RN.row, List.zipWith, List.foldl]
      omega
    refine (State.reg_setReg_other _ _ _ _ _ _ ?_).trans (State.reg_setReg_other _ _ _ _ _ _ hlo)
    simp only [RN.off, RN.row, List.zipWith, List.foldl]
    omega

theorem State.clearBase_seatStatus (s : State) {seat m : Nat} (hm : m < 4) (lo w : Nat) :
    (s.clearBase seat m).fld .seatStatus [seat] lo w = s.fld .seatStatus [seat] lo w := by
  refine (State.fld_setReg_other _ _ _ _ _ _ _ _ ?_).trans (State.fld_setReg_other _ _ _ _ _ _ _ _ ?_) <;>
    (simp only [RN.off, RN.row, List.zipWith, List.foldl]; omega)

/-- The registers of a connection that has just begun, before the other seats hear of it. -/
def State.newConn (s : State) (seat : Nat) : State :=
  (((((({ s with host := { s.host with conns := Tab.put s.host.conns seat (s.conn seat + 1) } } : State).setFld
    .seatStatus [seat] 0 1 1).clearBase seat 0).clearBase seat 1).clearBase seat 2).clearBase seat 3)

theorem State.connect_eq (s : State) (seat : Nat) : s.connect seat = (s.newConn seat).raisePeers seat 3 := rfl

section
variable (s : State) {seat : Nat}

theorem State.connected_connect : (s.connect seat).connected seat = true := by
  have hapart : RN.seatStatus.apartInt [seat] := by
    intro p hp
    simp only [RN.off, RN.row, List.zipWith, List.foldl]
    omega
  have hfld : (s.connect seat).fld .seatStatus [seat] 0 1 = 1 := by
    rw [State.connect_eq, State.fld, State.stored_raisePeers_other hapart]
    change (s.newConn seat).fld .seatStatus [seat] 0 1 = 1
    rw [State.newConn, State.clearBase_seatStatus _ (by decide), State.clearBase_seatStatus _ (by decide),
      State.clearBase_seatStatus _ (by decide), State.clearBase_seatStatus _ (by decide),
      State.fld_setFld_same _ _ _ _ _ _ (by decide)]
    rfl
  rw [State.connected, hfld]
  rfl

theorem State.conn_connect : (s.connect seat).conn seat = s.conn seat + 1 := by
  rw [State.conn, State.connect_eq, State.raisePeers_conns]
  exact Tab.getD_put_same ..

theorem State.apBase_connect {n : Nat} (hn : n < 4) :
    (s.connect seat).reg .apBaseLo [seat, n] = 0 ∧ (s.connect seat).reg .apBaseHi [seat, n] = 0 := by
  have hlo : RN.apBaseLo.apartInt [seat, n] := by
    intro p hp
    simp only [RN.off, RN.row, List.zipWith, List.foldl]
    omega
  have hhi : RN.apBaseHi.apartInt [seat, n] := by
    intro p hp
    simp only [RN.off, RN.row, List.zipWith, List.foldl]
    omega
  rw [State.connect_eq, State.reg, State.reg, State.stored_raisePeers_other hlo, State.stored_raisePeers_other hhi]
  change (s.newConn seat).reg _ _ = 0 ∧ (s.newConn seat).reg _ _ = 0
  interval_cases n <;> simp [State.newConn, State.clearBase_lo, State.clearBase_hi]

end

/-- Settles O36: what a connection's beginning shows, and its loss step by step. -/
theorem seatConnections : Obligations.SeatConnections := by
  refine ⟨fun s seat gen3 => ⟨fun hc hu => congrArg Host.Outcome.next (if_neg (by simp [hc, hu])),
      fun h => congrArg Host.Outcome.next (if_pos (by simpa using h))⟩,
    fun s seat _ => ⟨s.connected_connect, s.conn_connect, fun n hn => s.apBase_connect hn⟩,
    fun s seat => ⟨fun hc => ⟨rfl, rfl, ?_⟩, fun hc => ?_⟩,
    fun s seat cause hc => if_neg (by simp [hc]), fun s seat ring hr => if_neg (by simp [hr]),
    fun s seat hc => ⟨congrArg Host.Outcome.next (if_neg (by simp [hc])),
      congrArg Host.Outcome.next (if_neg (by simp [hc]))⟩⟩
  · change Host.Outcome.next (State.disconnect (if s.connected seat then _ else s) seat .link) = _
    rw [if_pos hc]
  · have hlost (cause : LossCause) : s.disconnect seat cause = s := if_pos (by simp [hc])
    refine ⟨congrArg Host.Outcome.next (hlost _), congrArg Host.Outcome.next (hlost _), ?_⟩
    change Host.Outcome.next (State.disconnect (if s.connected seat then _ else s) seat .link) = _
    rw [if_neg (by simp [hc]), hlost]

end Sys2Proof.Machine

/-! PROOFS. Doorbells, heads, enabling and moderation of a ring (O37). -/

namespace Sys2Proof.Machine

/-! ### A write into another seat's registers (R404) -/

theorem State.crossNote_own (s : State) (seat : Nat) : s.crossNote seat seat = s := if_neg fun h => h.2 rfl

theorem State.crossNote_other (s : State) {w seat : Fin 4} (h : w ≠ seat) :
    s.crossNote w seat = s.log { notice 6 with initiator := w, arg0 := n64 seat.val } :=
  if_pos ⟨w.isLt, fun hv => h (Fin.ext hv)⟩

/-- A doorbell or a head written across seats acts as the owner's own, once the notice is left. -/
theorem State.doorbell_cross (s : State) (who seat ring v : Nat) :
    s.doorbell who seat ring v = (s.crossNote who seat).doorbell seat seat ring v := by
  rw [State.doorbell, State.doorbell, State.crossNote_own]

theorem State.moveCqHead_cross (s : State) (who seat ring v : Nat) :
    s.moveCqHead who seat ring v = (s.crossNote who seat).moveCqHead seat seat ring v := by
  rw [State.moveCqHead, State.moveCqHead, State.crossNote_own]

/-! ### Doorbells (R409, R412) -/

section
variable (s : State) {seat ring v : Nat}

theorem State.doorbell_stored (hon : s.ringOn seat ring = true) (hv : v % 65536 < s.ringSize seat ring) :
    s.doorbell seat seat ring v = (s.setFld .sqTail [seat, ring] 0 16 v).takeAll := by
  rw [State.doorbell, State.crossNote_own]
  exact if_neg (by simp [hon, hv])

theorem State.doorbell_refused (h : s.ringOn seat ring = false ∨ s.ringSize seat ring ≤ v % 65536) :
    s.doorbell seat seat ring v = s.setFlag .ringStatus [seat, ring] 3 := by
  rw [State.doorbell, State.crossNote_own]
  exact if_pos (by simpa using h)

/-- The host's own writes, before a doorbell of its own. -/
def State.hostWrites (s : State) (seat : Nat) (ws : List (Nat × Byte)) : State :=
  if seat < 2 then ws.foldl (fun s w => s.hostStore seat w.1 [w.2]) s else s

theorem State.hostWrites_nil (s : State) (seat : Nat) : s.hostWrites seat [] = s := ite_self s

theorem State.hostWrites_regs (s : State) (seat : Nat) (ws : List (Nat × Byte)) : (s.hostWrites seat ws).regs = s.regs := by
  unfold State.hostWrites
  split
  · exact State.foldl_kept (f := fun (s : State) w => s.hostStore seat w.1 [w.2]) State.regs (fun t w => by simp) ws s
  · rfl

theorem State.hostWrites_ringOn (s : State) (seat ring : Nat) (ws : List (Nat × Byte)) :
    (s.hostWrites seat ws).ringOn seat ring = s.ringOn seat ring :=
  congrArg (· == 1) (State.fld_congr (s.hostWrites_regs seat ws) ..)

theorem State.hostWrites_ringSize (s : State) (seat ring : Nat) (ws : List (Nat × Byte)) :
    (s.hostWrites seat ws).ringSize seat ring = s.ringSize seat ring :=
  congrArg (2 ^ ·) (State.fld_congr (s.hostWrites_regs seat ws) ..)

/-! ### Taking what waits (R405) -/

theorem State.takeAll_empty (h : s.entriesWaiting = 0) : s.takeAll = s := if_pos h

theorem State.takeAll_one {k : Nat} (h : s.entriesWaiting = 1) (hk : s.nextTurn = some k) :
    s.takeAll = (({ s with host := { s.host with turnPos := (k + 1) % 64 } } : State).takeHead (turnSeat k)
      (turnRing k)).showFull := by
  rw [State.takeAll, if_neg (by simp [h]), h, State.takeTurns, hk]
  rfl

/-! ### Completion heads (R413) -/

/-- TIME_US of a ring counts anew. -/
def State.restartTime (s : State) (seat ring : Nat) : State :=
  { s with host := { s.host with timeUp := s.host.timeUp.filter (· != (seat, ring)) } }

theorem State.moveCqHead_stored (hv : v % 65536 < s.ringSize seat ring) : s.moveCqHead seat seat ring v =
    (((s.setFld .cqHead [seat, ring] 0 16 v).restartTime seat ring).resignal seat ring).takeAll := by
  rw [State.moveCqHead, State.crossNote_own]
  exact if_neg hv.not_ge

theorem State.moveCqHead_refused (hv : s.ringSize seat ring ≤ v % 65536) : s.moveCqHead seat seat ring v = s := by
  rw [State.moveCqHead, State.crossNote_own]
  exact if_pos hv

/-! ### Enabling and disabling (R411, R429) -/

/-- The size and the place that a write of RING_CFG gives a ring that is off. -/
def State.sized (s : State) (seat ring v : Nat) : State := s.setFld .ringCfg [seat, ring] 1 6 (slice v 1 6)

theorem State.sized_ringStatus (seat ring v lo w : Nat) :
    (s.sized seat ring v).fld .ringStatus [seat, ring] lo w = s.fld .ringStatus [seat, ring] lo w := by
  refine State.fld_setFld_other _ _ _ _ _ _ _ _ _ _ ?_
  simp only [RN.off, RN.row, List.zipWith, List.foldl]
  omega

/-- A ring that is off starts empty with the phase bit set. -/
def State.startRing (s : State) (seat ring : Nat) : State :=
  (((((s.setFld .ringCfg [seat, ring] 0 1 1).setFld .ringStatus [seat, ring] 0 2 1).setReg .sqHead [seat, ring] 0).setReg
    .sqTail [seat, ring] 0).setReg .cqHead [seat, ring] 0).setReg .cqTail [seat, ring] 65536

theorem State.writeRingCfg_off (hon : s.ringOn seat ring = false) (hd : s.fld .ringStatus [seat, ring] 0 2 ≠ 2) :
    s.writeRingCfg seat seat ring v =
      if bit v 0 = false then s.sized seat ring v
      else if (s.sized seat ring v).ringOk seat ring = false then (s.sized seat ring v).setFlag .ringStatus [seat, ring] 2
      else (((s.sized seat ring v).startRing seat ring).restartTime seat ring).resignal seat ring := by
  rw [State.writeRingCfg, State.crossNote_own]
  refine (if_neg (by simp [hon])).trans ?_
  have hst : (s.sized seat ring v).fld .ringStatus [seat, ring] 0 2 ≠ 2 := s.sized_ringStatus .. ▸ hd
  cases hb : bit v 0
  · exact if_pos (.inl rfl)
  · refine (if_neg ?_).trans ?_
    · rintro (h | h)
      · cases h
      · exact hst h
    · cases hok : (s.sized seat ring v).ringOk seat ring
      · exact if_pos (congrArg (! ·) hok)
      · exact if_neg (by exact fun h => Bool.false_ne_true ((congrArg (! ·) hok).symm.trans h))

theorem State.writeRingCfg_on (hon : s.ringOn seat ring = true) (hv : slice v 1 6 = s.fld .ringCfg [seat, ring] 1 6) :
    s.writeRingCfg seat seat ring v = if bit v 0 then s else s.ringStop seat ring := by
  rw [State.writeRingCfg, State.crossNote_own]
  refine (if_pos hon).trans ?_
  rw [if_neg (not_not_intro hv)]

end

/-- Settles O37: each register of a ring, from both sides of its condition. -/
theorem ringRegisters : Obligations.RingRegisters := by
  refine ⟨fun s w seat ring v hw => ⟨?cqAcross, ?sqAcross⟩, fun s seat ring v ws => ⟨fun hon hv => ?sqIn, fun h => ?sqOut⟩,
    fun s h => s.takeAll_empty h, fun s k h hk => s.takeAll_one h hk,
    fun s seat ring v => ⟨fun hv => congrArg Host.Outcome.next (s.moveCqHead_stored hv),
      fun hv => congrArg Host.Outcome.next (s.moveCqHead_refused hv), fun hon hd => ⟨fun hb => ?off, fun hb hok => ?bad,
        fun hb hok => ?good⟩, fun hon hv => congrArg Host.Outcome.next (s.writeRingCfg_on hon hv)⟩,
    fun s seat ring => ⟨fun hd => congrArg Host.Outcome.next (if_neg (not_or.mpr hd)),
      fun hd => congrArg Host.Outcome.next (if_pos (by simpa only [not_and_or, not_not] using hd))⟩,
    fun s seat => ⟨fun h => congrArg Host.Outcome.next (if_pos (List.contains_iff_mem.mpr h)),
      fun h => congrArg Host.Outcome.next (if_neg (mt List.contains_iff_mem.mp h))⟩⟩
  case cqAcross =>
    refine congrArg Host.Outcome.next ((s.moveCqHead_cross ..).trans ?_)
    rw [s.crossNote_other hw]
  case sqAcross =>
    have hrun (t : State) (x : Fin 4) : exec (.sqTail x seat ring v []) t = .next (t.doorbell x seat ring v.toNat) :=
      congrArg (fun t : State => Host.Outcome.next (t.doorbell x seat ring v.toNat)) (t.hostWrites_nil x)
    rw [hrun, hrun, State.doorbell_cross, s.crossNote_other hw]
  case sqIn =>
    exact congrArg Host.Outcome.next ((s.hostWrites seat ws).doorbell_stored ((s.hostWrites_ringOn ..).trans hon)
      (hv.trans_eq (s.hostWrites_ringSize ..).symm))
  case sqOut =>
    refine congrArg Host.Outcome.next ((s.hostWrites seat ws).doorbell_refused ?_)
    rwa [State.hostWrites_ringOn, State.hostWrites_ringSize]
  case off => exact congrArg Host.Outcome.next ((s.writeRingCfg_off hon hd).trans (if_pos hb))
  case bad =>
    exact congrArg Host.Outcome.next ((s.writeRingCfg_off hon hd).trans ((if_neg (by simp [hb])).trans (if_pos hok)))
  case good =>
    exact congrArg Host.Outcome.next ((s.writeRingCfg_off hon hd).trans ((if_neg (by simp [hb])).trans
      (if_neg (ne_of_eq_of_ne hok (by decide)))))

end Sys2Proof.Machine

/-! PROOFS. Beyholdo sessions form, are kept and end (O38). -/

namespace Sys2Proof.Machine

/-! ### HELLO (R422, R425) -/

/-- What a HELLO must bring: the header's fields, a network seat and a payload within the range. -/
def helloGood (d : BhHdr) (req : Byte) (mp : BitVec 16) : Prop :=
  d.magic = 0x4842 ∧ d.version = 1 ∧ d.session = 0 ∧ d.length = 4 ∧ req ∈ [2, 3, (0xFF : Byte)] ∧
    1440 ≤ mp.toNat ∧ mp.toNat ≠ 0xFFFF

theorem Byte.mem_seats (req : Byte) : req ∈ [2, 3, (0xFF : Byte)] ↔ [2, 3, 0xFF].contains req.toNat = true := by
  simp only [List.mem_cons, List.not_mem_nil, or_false, List.contains_iff_mem, BitVec.toNat_eq]
  rfl

section
variable {s : State} {d : BhHdr} {req : Byte} {mp : BitVec 16} (hup : s.seatsUp 2 = true)
include hup

theorem State.hello_dropped (h : ¬helloGood d req mp) :
    s.hello d (.hello d req mp) req.toNat mp.toNat = s.bhDrop := by
  rw [State.hello, hup]
  refine (if_neg Bool.false_ne_true).trans (if_pos ?_)
  by_contra hc
  refine h ?_
  simp only [not_or, Bool.not_eq_true', Bool.not_eq_false, Bool.and_eq_true, beq_iff_eq, not_lt] at hc
  obtain ⟨⟨⟨⟨hm, hv⟩, hs⟩, hl⟩, hr, hlo, hff⟩ := hc
  exact ⟨hm, hv, hs, BitVec.eq_of_toNat_eq (Option.some.inj hl).symm, (Byte.mem_seats req).mpr hr, hlo, hff⟩

theorem State.hello_good (h : helloGood d req mp) :
    (s.helloSeat d req.toNat = none → s.hello d (.hello d req mp) req.toNat mp.toNat =
      s.helloAck d Code.seatBusy req.toNat (min mp.toNat bhMaxPayload) 0) ∧
    ∀ seat, s.helloSeat d req.toNat = some seat → s.hello d (.hello d req mp) req.toNat mp.toNat =
      s.openSession d seat (min mp.toNat bhMaxPayload) := by
  obtain ⟨hm, hv, hs, hl, hr, hlo, hff⟩ := h
  rw [← not_lt] at hlo
  refine ⟨fun hseat => ?_, fun seat hseat => ?_⟩ <;>
    (simp only [State.hello, hup, hm, hv, hs, hl, (Byte.mem_seats req).mp hr, hlo, hff, bhPayload, hseat]; rfl)

end

theorem State.helloSeat_lower {s : State} {d : BhHdr} (h : s.seatFree 2 = true) : s.helloSeat d 0xFF = some 2 := by
  simp [State.helloSeat, h]

theorem State.helloSeat_upper {s : State} {d : BhHdr} (h2 : s.seatFree 2 = false) (h3 : s.seatFree 3 = true) :
    s.helloSeat d 0xFF = some 3 := by
  simp [State.helloSeat, h2, h3]

theorem State.helloSeat_named {s : State} {d : BhHdr} {k : Nat} (h : s.seatFree k = true ∨ s.peerOf k d = true)
    (hk : k ≠ 0xFF) : s.helloSeat d k = some k :=
  (if_neg hk).trans (if_pos h)

theorem State.disconnect_unconnected {s : State} {seat : Nat} (h : s.connected seat = false) (cause : LossCause) :
    s.disconnect seat cause = s :=
  if_pos (by simp [h])

theorem State.openSession_free {s : State} {d : BhHdr} {seat limit : Nat} (h : s.connected seat = false) :
    s.openSession d seat limit =
      let id := s.host.nextSession
      let x : Session := { ip := d.ip, port := d.port, id := id, maxPayload := limit, txSeq := 0, rxSeq := 0
                           unacked := [], waiting := [], held := [], ackOwed := false }
      let u : State := { s with host := { s.host with
        sessions := Tab.put s.host.sessions seat x, nextSession := if id = 0xFFFFFFFF then 1 else id + 1 } }
      let u := ((u.setReg .peerIp [seat] d.ip.toNat).setReg .peerPort [seat] d.port.toNat).setReg .session [seat] id.toNat
      ((u.connect seat).helloAck d Code.ok seat limit id.toNat).signalSeat seat := by
  rw [State.openSession, State.disconnect_unconnected h]

/-! ### A datagram of a session (R421, R424) -/

section
variable {s : State} {d : BhHdr} {i : Instr} {f : Nat → State → State} (hup : s.seatsUp 2 = true)
include hup

theorem State.bhReceive_stray (hx : Tab.get s.host.sessions d.seat.toNat = none) : s.bhReceive d i f = s.bhDrop := by
  rw [State.bhReceive, hup]
  dsimp only
  rw [hx]
  rfl

theorem State.bhReceive_bad {x : Session} (hx : Tab.get s.host.sessions d.seat.toNat = some x)
    (hm : bhMatches d i x = false) : s.bhReceive d i f = s.bhDrop := by
  rw [State.bhReceive, hup]
  dsimp only
  rw [hx]
  exact (if_neg Bool.false_ne_true).trans (if_neg (by simp [hm]))

theorem State.bhReceive_good {x : Session} (hx : Tab.get s.host.sessions d.seat.toNat = some x)
    (hm : bhMatches d i x = true) : s.bhReceive d i f = f d.seat.toNat (s.bhAcked d.seat.toNat d.ack.toNat) := by
  rw [State.bhReceive, hup]
  dsimp only
  rw [hx]
  exact (if_neg Bool.false_ne_true).trans (if_pos hm)

end

theorem bhMatches_iff (d : BhHdr) (i : Instr) (x : Session) : bhMatches d i x = true ↔ d.magic = 0x4842 ∧
    d.version = 1 ∧ d.session = x.id ∧ bhPayload i = some d.length.toNat ∧ d.length.toNat ≤ x.maxPayload := by
  simp only [bhMatches, Bool.and_eq_true, beq_iff_eq, decide_eq_true_eq, and_assoc]

/-- A datagram without payload fits every session. -/
theorem bhMatches_bare {d : BhHdr} {i : Instr} {x : Session} (hi : bhPayload i = some 0) :
    bhMatches d i x = true ↔ d.magic = 0x4842 ∧ d.version = 1 ∧ d.session = x.id ∧ d.length = 0 := by
  rw [bhMatches_iff, hi]
  have hlen : some 0 = some d.length.toNat ↔ d.length = 0 := by
    rw [Option.some.injEq, BitVec.toNat_eq, eq_comm]
    rfl
  rw [hlen]
  refine and_congr_right fun _ => and_congr_right fun _ => and_congr_right fun _ => and_iff_left_of_imp fun h => ?_
  rw [h]
  exact Nat.zero_le _

/-! ### The timers (R424) -/

section
variable {s : State} {seat : Nat} {x : Session} (hx : Tab.get s.host.sessions seat = some x)
include hx

theorem State.bhPut_eq (type seq : Nat) (retry : Bool) (payload : Bytes) : s.bhPut seat type seq retry payload = { s with
    out := s.out ++ [.beyholdo seat x.ip x.port (bhBytes seat type x.id.toNat seq x.rxSeq retry payload)]
    host := { s.host with sessions := Tab.put s.host.sessions seat { x with ackOwed := false } } } := by
  rw [State.bhPut, hx]
  rfl

theorem State.bhAgain_none (hu : x.unacked = []) : s.bhAgain seat = s := by
  rw [State.bhAgain, hx]
  dsimp only
  rw [hu]

theorem State.bhAgain_lost {y : SentDgram} {rest : List SentDgram} (hu : x.unacked = y :: rest) (ht : 5 ≤ y.tries) :
    s.bhAgain seat = s.disconnect seat .retransmission := by
  rw [State.bhAgain, hx]
  dsimp only
  rw [hu]
  exact if_pos ht

theorem State.bhAgain_sent {y : SentDgram} {rest : List SentDgram} (hu : x.unacked = y :: rest) (ht : y.tries < 5) :
    s.bhAgain seat = (s.updSession seat fun x => { x with
      unacked := { y with tries := y.tries + 1 } :: rest }).bhPut seat y.type y.seq true y.payload := by
  rw [State.bhAgain, hx]
  dsimp only
  rw [hu]
  exact if_neg ht.not_ge

theorem State.seatFree_held : s.seatFree seat = false := by rw [State.seatFree, hx]; rfl

end

/-- Settles O38: HELLO by what it asks for, the bare datagrams by their header, and the timers by the session. -/
theorem beyholdoSessions : Obligations.BeyholdoSessions := by
  refine ⟨fun s d req mp hup => ⟨fun h => congrArg Host.Outcome.next (State.hello_dropped hup h), fun h hs => ?busy,
      fun seat h hs hc => ?opened⟩,
    fun s d => ⟨State.helloSeat_lower, State.helloSeat_upper, fun k => State.helloSeat_named⟩,
    fun s d hup hx => ?stray, fun s d x hup hx => ⟨fun h => ?bad, fun h => ?good⟩,
    fun s seat x hx => ⟨fun ho => ?owed, fun ho => ?unowed,
      congrArg Host.Outcome.next (if_neg (by simp [State.seatFree_held hx])),
      congrArg Host.Outcome.next (State.bhPut_eq hx ..), fun hu => congrArg Host.Outcome.next (State.bhAgain_none hx hu),
      fun y rest hu => ⟨fun ht => congrArg Host.Outcome.next (State.bhAgain_lost hx hu ht),
        fun ht => congrArg Host.Outcome.next (State.bhAgain_sent hx hu ht)⟩⟩⟩
  case busy =>
    exact congrArg Host.Outcome.next ((State.hello_good hup h).1 hs)
  case opened =>
    exact congrArg Host.Outcome.next (((State.hello_good hup h).2 seat hs).trans (State.openSession_free hc))
  case stray =>
    have hdrop (i : Instr) (f : Nat → State → State) : (.next (s.bhReceive d i f) : Res) = .next (s.count .hostBhDrop []) :=
      congrArg Host.Outcome.next (State.bhReceive_stray hup hx)
    exact ⟨hdrop .., hdrop .., hdrop ..⟩
  case bad =>
    have hdrop (i : Instr) (f : Nat → State → State) (hi : bhPayload i = some 0) :
        (.next (s.bhReceive d i f) : Res) = .next (s.count .hostBhDrop []) :=
      congrArg Host.Outcome.next (State.bhReceive_bad hup hx (Bool.eq_false_iff.mpr (mt (bhMatches_bare hi).mp h)))
    simp only [List.forall_mem_cons]
    exact ⟨hdrop _ _ rfl, hdrop _ _ rfl, hdrop _ _ rfl, fun i hi => absurd hi List.not_mem_nil⟩
  case good =>
    have hrun (i : Instr) (f : Nat → State → State) (hi : bhPayload i = some 0) : (.next (s.bhReceive d i f) : Res) =
        .next (f d.seat.toNat (s.bhAcked d.seat.toNat d.ack.toNat)) :=
      congrArg Host.Outcome.next (State.bhReceive_good hup hx ((bhMatches_bare hi).mpr h))
    exact ⟨hrun _ _ rfl, hrun _ _ rfl, hrun _ _ rfl⟩
  case owed =>
    change execBhAckTimer seat s = _
    rw [execBhAckTimer, hx]
    exact congrArg Host.Outcome.next (if_pos ho)
  case unowed =>
    change execBhAckTimer seat s = _
    rw [execBhAckTimer, hx]
    exact congrArg Host.Outcome.next (if_neg (by simp [ho]))

end Sys2Proof.Machine

/-! PROOFS. Beyholdo's sequenced datagrams (O39). -/

namespace Sys2Proof.Machine

/-! ### Order (R424) -/

/-- A change of a session that is there depends on what it makes of it alone. -/
theorem State.updSession_congr {s : State} {seat : Nat} {x : Session} (hx : Tab.get s.host.sessions seat = some x)
    {f g : Session → Session} (h : f x = g x) : s.updSession seat f = s.updSession seat g := by
  rw [State.updSession, State.updSession, Tab.upd_of_get hx, Tab.upd_of_get hx, h]

section
variable {s : State} {seat seq : Nat} {i : Instr} {y : Session} (hy : Tab.get s.host.sessions seat = some y)
include hy

theorem State.bhSequenced_old (hk : seqAhead seq y.rxSeq ≤ 0) : s.bhSequenced seat seq i = s.bhPut seat 0x0E 0 false [] := by
  rw [State.bhSequenced, hy]
  exact if_pos hk

theorem State.bhSequenced_far (hk : 64 < seqAhead seq y.rxSeq) : s.bhSequenced seat seq i = s := by
  rw [State.bhSequenced, hy]
  exact (if_neg (by omega)).trans (if_pos hk)

theorem State.bhSequenced_next (hk : seqAhead seq y.rxSeq = 1) :
    s.bhSequenced seat seq i = s.bhDeliver seat i (y.held.length + 1) := by
  rw [State.bhSequenced, hy]
  exact (if_neg (by omega)).trans ((if_neg (by omega)).trans (if_pos hk))

theorem State.bhSequenced_ahead (h1 : 1 < seqAhead seq y.rxSeq) (h64 : seqAhead seq y.rxSeq ≤ 64) :
    s.bhSequenced seat seq i = if (y.held.any fun h => h.1 == seq) = true then s.bhPut seat 0x0E 0 false []
      else s.updSession seat fun x => { x with held := x.held ++ [(seq, i)], ackOwed := true } := by
  rw [State.bhSequenced, hy]
  exact (if_neg (by omega)).trans ((if_neg (by omega)).trans (if_neg (by omega)))

/-- With none held back the datagram in order is performed, and no other follows it. -/
theorem State.bhDeliver_one : s.bhDeliver seat i 1 = (s.updSession seat fun x => { x with
    rxSeq := x.rxSeq + 1, ackOwed := true, held := x.held.filter fun h => seqAhead h.1 x.rxSeq != 1 }).bhPerform
      seat y.maxPayload i := by
  rw [State.bhDeliver, hy]
  dsimp only
  split <;> rfl

end

/-! ### A sequenced datagram arrives (R423, R424) -/

/-- The datagrams that R424 puts in order. -/
def sequenced (d : BhHdr) (i : Instr) : Prop :=
  (∃ r es, i = .submit d r es) ∨ (∃ o n, i = .regRead d o n) ∨ (∃ o vs, i = .regWrite d o vs) ∨
    (∃ a n, i = .memRead d a n) ∨ ∃ a b, i = .memWrite d a b

theorem exec_sequenced {d : BhHdr} {i : Instr} (h : sequenced d i) (s : State) :
    exec i s = .next (s.bhReceive d i fun seat s => s.bhSequenced seat d.seq.toNat i) := by
  obtain ⟨r, es, rfl⟩ | ⟨o, n, rfl⟩ | ⟨o, vs, rfl⟩ | ⟨a, n, rfl⟩ | ⟨a, b, rfl⟩ := h <;> rfl

/-- The session has received the datagram that is next in order. -/
def State.received (s : State) (seat : Nat) : State :=
  s.updSession seat fun x => { x with rxSeq := x.rxSeq + 1, ackOwed := true, held := [] }

section
variable {s : State} {d : BhHdr} {i : Instr} {x y : Session} (hi : sequenced d i) (hup : s.seatsUp 2 = true)
  (hx : Tab.get s.host.sessions d.seat.toNat = some x)
include hi hup hx

theorem exec_sequenced_bad (hm : bhMatches d i x = false) : exec i s = .next (s.count .hostBhDrop []) :=
  (exec_sequenced hi s).trans (congrArg Host.Outcome.next (State.bhReceive_bad hup hx hm))

theorem exec_sequenced_good (hm : bhMatches d i x = true) : exec i s =
    .next ((s.bhAcked d.seat.toNat d.ack.toNat).bhSequenced d.seat.toNat d.seq.toNat i) :=
  (exec_sequenced hi s).trans (congrArg Host.Outcome.next (State.bhReceive_good hup hx hm))

/-- The datagram that is next in order in a session that holds none back is performed. -/
theorem exec_sequenced_next (hm : bhMatches d i x = true)
    (hy : Tab.get (s.bhAcked d.seat.toNat d.ack.toNat).host.sessions d.seat.toNat = some y)
    (hk : seqAhead d.seq.toNat y.rxSeq = 1) (hh : y.held = []) : exec i s =
    .next (((s.bhAcked d.seat.toNat d.ack.toNat).received d.seat.toNat).bhPerform d.seat.toNat y.maxPayload i) := by
  rw [exec_sequenced_good hi hup hx hm, State.bhSequenced_next hy hk, hh, List.length_nil, State.bhDeliver_one hy,
    State.received]
  rw [State.updSession_congr hy]
  simp [hh]

end

/-! ### What each does (R423) -/

section
variable (s : State) (seat seq limit : Nat) {d : BhHdr}

theorem State.bhSubmit_ring {r : Nat} (es : List Bytes) (h : 16 ≤ r) :
    s.bhSubmit seat seq r es = s.bhError seat seq Code.badIndex := if_pos h

/-- The free entries of a ring. -/
def State.ringRoom (r : Nat) : Nat :=
  (s.fld .sqHead [seat, r] 0 16 + s.ringSize seat r - s.fld .sqTail [seat, r] 0 16 - 1) % s.ringSize seat r

/-- The entries in the ring at SQ_TAIL, and the doorbell rung. -/
def State.submitted (r : Nat) (es : List Bytes) : State :=
  (es.zipIdx.foldl (fun t e => t.storeFor seat (s.pair .sqBaseLo .sqBaseHi [seat, r] +
    64 * ((s.fld .sqTail [seat, r] 0 16 + e.2) % s.ringSize seat r)) e.1) s).doorbell seat seat r
      ((s.fld .sqTail [seat, r] 0 16 + es.length) % s.ringSize seat r)

theorem State.bhSubmit_on {r : Nat} {es : List Bytes} (h : r < 16) (hon : s.ringOn seat r = true) :
    s.bhSubmit seat seq r es = if s.ringRoom seat r < es.length then s.bhError seat seq Code.ringFull
      else s.submitted seat r es :=
  (if_neg h.not_ge).trans (if_neg (by simp [hon]))

theorem State.bhRegRead_range {off count : Nat} (h : count = 0 ∨ 64 < count) (hff : count ≠ 0xFFFF) :
    s.bhRegRead seat seq off count = s.bhError seat seq Code.lengthRange :=
  (if_neg hff).trans (if_pos h)

theorem State.bhRegRead_good {off count : Nat} (h0 : 0 < count) (h64 : count ≤ 64) :
    s.bhRegRead seat seq off count = (s.readWords seat off count).1.bhSend seat 0x06
      (natLe 4 off ++ natLe 2 count ++ (s.readWords seat off count).2) :=
  (if_neg (by omega)).trans (if_neg (by omega))

/-- One aligned register is read. -/
theorem State.readWords_one {off : Nat} (h : off % 4 = 0) :
    s.readWords seat off 1 = ((s.ctlRead seat off).1, natLe 4 (s.ctlRead seat off).2.toNat) := by
  simp [State.readWords, h]

theorem State.bhRegWrite_range {off : Nat} {vs : List Word} (h : vs = [] ∨ 64 < vs.length) :
    s.bhRegWrite seat seq off vs = s.bhError seat seq Code.lengthRange :=
  if_pos (h.imp_left List.isEmpty_iff.mpr)

theorem State.bhRegWrite_good {off : Nat} {vs : List Word} (h0 : vs ≠ []) (h64 : vs.length ≤ 64) :
    s.bhRegWrite seat seq off vs = s.writeWords seat off (vs.map BitVec.toNat) :=
  if_neg (by simp [h0, h64])

/-- Two aligned registers are written, the lower one first. -/
theorem State.writeWords_two {off : Nat} (h : off % 4 = 0) (v w : Nat) :
    s.writeWords seat off [v, w] = (s.ctlWrite seat off v).ctlWrite seat (off + 4) w := by
  simp [State.writeWords, h]

section
variable {a n : Nat} (hff : n ≠ 2 ^ 32 - 1)
include hff

theorem State.bhMemRead_range (h : limit < n + 16) :
    s.bhMemRead seat seq a n limit = s.bhError seat seq Code.lengthRange :=
  (if_neg hff).trans (if_pos h)

theorem State.bhMemRead_alignment (hl : n + 16 ≤ limit) (hc : touchesControl a n = true) (h : a % 4 ≠ 0 ∨ n % 4 ≠ 0) :
    s.bhMemRead seat seq a n limit = s.bhError seat seq Code.alignment :=
  (if_neg hff).trans ((if_neg hl.not_gt).trans ((if_pos hc).trans (if_pos h)))

theorem State.bhMemRead_good (hl : n + 16 ≤ limit) (hc : touchesControl a n = false) (hb : s.badDram a n = false) :
    s.bhMemRead seat seq a n limit = (s.devRead seat a n).1.bhSend seat 0x09
      (natLe 8 a ++ natLe 4 n ++ (s.devRead seat a n).2) :=
  (if_neg hff).trans ((if_neg hl.not_gt).trans ((if_neg (by simp [hc])).trans (if_neg (by simp [hb]))))

end

theorem State.bhMemWrite_good {a : Nat} {data : Bytes} (hc : touchesControl a data.length = false) :
    s.bhMemWrite seat seq a data = s.devWrite seat a data :=
  if_neg (by simp [hc])

end

/-- Settles O39: a sequenced datagram by its place in the order, and what each of the five does once it is its turn. -/
theorem beyholdoDatagrams : Obligations.BeyholdoDatagrams := by
  refine ⟨fun s i d x y hi hup hx => ⟨fun h => ?bad, fun h hy => ?order⟩, fun s d x y hup hx => ?performed,
    fun s d limit => ⟨fun r es => ⟨s.bhSubmit_ring _ _ es, fun h hon hr => (s.bhSubmit_on _ _ h hon).trans (if_pos hr),
        fun h hon hr => (s.bhSubmit_on _ _ h hon).trans (if_neg hr.not_gt)⟩, fun o => rfl, fun a => rfl,
      fun o n h hff => s.bhRegRead_range _ _ h hff, fun o ho => ?one, fun o vs h => s.bhRegWrite_range _ _ h,
      fun o v w ho => ?two, fun a n hff => ⟨s.bhMemRead_range _ _ _ hff, s.bhMemRead_alignment _ _ _ hff,
        s.bhMemRead_good _ _ _ hff⟩, fun a data => s.bhMemWrite_good _ _⟩⟩
  case bad => exact exec_sequenced_bad hi hup hx (Bool.eq_false_iff.mpr (mt (bhMatches_iff d i x).mp h))
  case order =>
    have hrun := exec_sequenced_good hi hup hx ((bhMatches_iff d i x).mpr h)
    refine ⟨fun hk => ?_, fun hk => ?_, fun h1 h64 hn => ?_, fun h1 h64 hn => ?_, fun hk hh => ?_⟩
    · rw [hrun, State.bhSequenced_old hy hk]
    · rw [hrun, State.bhSequenced_far hy hk]
    · rw [hrun, State.bhSequenced_ahead hy h1 h64, if_neg (by simpa only [List.any_eq_true, beq_iff_eq, not_exists, not_and] using hn)]
    · rw [hrun, State.bhSequenced_ahead hy h1 h64, if_pos (by simpa only [List.any_eq_true, beq_iff_eq] using hn)]
    · rw [hrun, State.bhSequenced_next hy hk, hh, List.length_nil, State.bhDeliver_one hy]
  case performed =>
    intro seat u hy hk hh hm hv hs hl
    have hrun (i : Instr) (hi : sequenced d i) (hp : bhPayload i = some d.length.toNat) :=
      exec_sequenced_next hi hup hx ((bhMatches_iff d i x).mpr ⟨hm, hv, hs, hp, hl⟩) hy hk hh
    refine ⟨fun r es hp hr hon => ?_, fun o n hlen h0 h64 => ?_, fun o vs hlen h0 h64 => ?_,
      fun a n hlen hff hmax hc hb => ?_, fun a data hlen hc => ?_⟩
    · intro ix n tail hroom
      refine (hrun _ (.inl ⟨r, es, rfl⟩) hp).trans (congrArg Host.Outcome.next ?_)
      exact (State.bhSubmit_on _ _ _ hr hon).trans (if_neg hroom.not_gt)
    · refine (hrun _ (.inr (.inl ⟨o, n, rfl⟩)) (by rw [hlen]; rfl)).trans (congrArg Host.Outcome.next ?_)
      exact State.bhRegRead_good _ _ _ h0 h64
    · refine (hrun _ (.inr (.inr (.inl ⟨o, vs, rfl⟩))) (by rw [hlen]; rfl)).trans (congrArg Host.Outcome.next ?_)
      exact State.bhRegWrite_good _ _ _ h0 h64
    · refine (hrun _ (.inr (.inr (.inr (.inl ⟨a, n, rfl⟩)))) (by rw [hlen]; rfl)).trans (congrArg Host.Outcome.next ?_)
      exact State.bhMemRead_good _ _ _ _ hff hmax hc hb
    · refine (hrun _ (.inr (.inr (.inr (.inr ⟨a, data, rfl⟩)))) (by rw [hlen]; rfl)).trans
        (congrArg Host.Outcome.next ?_)
      exact State.bhMemWrite_good _ _ _ hc
  case one =>
    refine (s.bhRegRead_good _ _ (by decide) (by decide)).trans ?_
    rw [show (1 : BitVec 16).toNat = 1 from rfl, s.readWords_one _ ho]
  case two =>
    exact (s.bhRegWrite_good _ _ (by simp) (by simp)).trans (s.writeWords_two _ ho _ _)

end Sys2Proof.Machine

/-! PROOFS. The recovery console (O43). -/

namespace Sys2Proof.Machine

/-! ### PEEK and POKE reach control space only (R428) -/

section
variable {s : State} {a : Nat} {f : Nat → State → State}

theorem State.consoleAt_outside (h : touchesControl a 4 = false) : s.consoleAt a f = s.sayErr Code.addressUnmapped :=
  if_pos (by simp [h])

theorem State.consoleAt_odd (h : touchesControl a 4 = true) (ha : a % 4 ≠ 0) :
    s.consoleAt a f = (s.ctlNotice consoleInit (a - 0x3000000000)).sayErr Code.alignment :=
  (if_neg (by simp [h])).trans (if_pos ha)

theorem State.consoleAt_aligned (h : touchesControl a 4 = true) (ha : a % 4 = 0) :
    s.consoleAt a f = f (a - 0x3000000000) s :=
  (if_neg (by simp [h])).trans (if_neg (not_not_intro ha))

end

/-! ### Firmware files (R508, R554) -/

section
variable {s : State} {f : Bytes}

theorem State.noteFw_valid (h : Fw.valid f = true) : s.noteFw f = s.noteSig true := by
  have hform : Fw.formOk f = true := by
    rw [Fw.valid, Bool.and_eq_true] at h
    exact h.1
  rw [State.noteFw, if_pos hform, h]

theorem State.noteFw_bad (h : Fw.valid f = false) : s.noteFw f = if Fw.formOk f then s.noteSig false else s := by
  rw [State.noteFw, h]

/-- A valid file waits to be written, behind those that wait already. -/
theorem State.storeFirmware_valid (by' : Option CmdRef) (h : Fw.valid f = true) : s.storeFirmware by' f =
    { s.noteSig true with boot := { s.boot with fwStore := s.boot.fwStore ++ [(by', f)] } } := by
  rw [State.storeFirmware, State.noteFw_valid h]
  exact if_pos h

theorem State.storeFirmware_bad (by' : Option CmdRef) (h : Fw.valid f = false) : s.storeFirmware by' f =
    (if Fw.formOk f then s.noteSig false else s).storedReply by' f Code.firmwareInvalid := by
  rw [State.storeFirmware, State.noteFw_bad h]
  exact if_neg (by simp [h])

end

/-- FWLOAD proceeds as FIRMWARE_STORE, with the file as long as its header says (R428). -/
theorem exec_fwload (s : State) (f : Bytes) : exec (.fwload f) s = .next (if 16777216 < f.length then
    s.sayErr Code.lengthRange else s.storeFirmware none (f.take (Fw.length f))) := rfl

theorem exec_events (s : State) (n : Nat) : exec (.events n) s = .next (if n = 0 ∨ 1024 < n then
    s.sayErr Code.lengthRange else s.say ((s.newestRecs.take n).reverse.map fun r => hexBytes r.2)) := rfl

/-- What PEEK does in control space. -/
def State.peekAt (off : Nat) (s : State) : State :=
  (s.ctlRead consoleInit off).1.say [hexDigits 8 (s.ctlRead consoleInit off).2.toNat]

/-- What POKE does in control space: the write is recorded with the console as its initiator. -/
def State.pokeAt (a : BitVec 40) (v : Word) (off : Nat) (s : State) : State :=
  ((s.log { info 0x21 with initiator := consoleInit, arg0 := n64 a.toNat, arg1 := n64 v.toNat }).ctlWrite consoleInit
    off v.toNat).say []

theorem exec_peek (s : State) (a : BitVec 40) : exec (.peek a) s = .next (s.consoleAt a.toNat State.peekAt) := rfl

theorem exec_poke (s : State) (a : BitVec 40) (v : Word) :
    exec (.poke a v) s = .next (s.consoleAt a.toNat (State.pokeAt a v)) := rfl

/-- Settles O43: each line of the console, by its own condition. -/
theorem console : Obligations.Console := by
  refine ⟨fun s => rfl, fun s n => ⟨fun h => ?_, fun h0 h => ?_⟩,
    fun s a v => ⟨fun h => ⟨?_, ?_⟩, fun h ha => ⟨?_, ?_⟩, fun h ha => ⟨?_, ?_⟩⟩,
    fun s => rfl, fun s f => ⟨fun h => ?_, fun h hv => ⟨s.noteSig true, ?_, rfl⟩,
      fun h hv => ?_⟩, fun s => rfl⟩
  · rw [exec_events, if_pos h]
    rfl
  · rw [exec_events, if_neg (by omega)]
    rfl
  · rw [exec_peek, State.consoleAt_outside h]
  · rw [exec_poke, State.consoleAt_outside h]
  · rw [exec_peek, State.consoleAt_odd h ha]
  · rw [exec_poke, State.consoleAt_odd h ha]
  · rw [exec_peek, State.consoleAt_aligned h ha, State.peekAt]
  · rw [exec_poke, State.consoleAt_aligned h ha, State.pokeAt]
  · rw [exec_fwload, if_pos h]
  · rw [exec_fwload, if_neg h.not_gt, State.storeFirmware_valid none hv]
    rfl
  · rw [exec_fwload, if_neg h.not_gt, State.storeFirmware_bad none hv]
    rfl

end Sys2Proof.Machine

/-! PROOFS. Keys, certificate, attestation and firmware (O44). -/

namespace Sys2Proof.Machine

/-! ### Conditions and buffers -/

theorem State.checked_refused {s : State} {c : CmdRef} {cs : List (Bool × Nat)} {code : Nat}
    (h : firstCode cs = some code) (body : State → State) : s.checked c cs body = s.complete c code := by
  rw [State.checked, h]

theorem State.withBuf_good {s : State} {a : BitVec 64} {n : Nat} (hb : bufferIn a n = true)
    (hg : s.badIn a.toNat n = none) (c : CmdRef) (body : Bytes → State → State) :
    s.withBuf c a n body = body (s.load a.toNat n) s := by
  rw [State.withBuf, hb, State.readBuf_good hg]
  rfl

/-! ### KEY_LOAD (R543) -/

section
variable {s : State} {c : CmdRef} {slot : Byte} {a : BitVec 64} (ha : addrReserved a = false)
include ha

theorem State.runKeyLoad_slot (hs : 4 ≤ slot.toNat) : s.runKeyLoad c slot a = s.complete c Code.badIndex := by
  unfold State.runKeyLoad
  exact State.checked_refused (by simp [firstCode, ha, hs]) _

/-- The enrolled slot has the hash of a key block. -/
def State.enrolledAs (s : State) (k : Nat) (b : Bytes) : Prop :=
  Keys.enrolled s.boot.option k = true ∧ keyHash b = Keys.hash s.boot.option k

variable {b : Bytes} (hs : slot.toNat < 4) (hb : bufferIn a 1024 = true) (hg : s.badIn a.toNat 1024 = none)
  (hl : s.load a.toNat 1024 = b)
include hs hb hg hl

theorem State.runKeyLoad_block : s.runKeyLoad c slot a = s.checked c
      [(!keyBlockOk b, Code.keyFormat),
       (!Keys.enrolled s.boot.option slot.toNat || keyHash b != Keys.hash s.boot.option slot.toNat, Code.imageKey)]
      fun s => ({ s with sec := { s.sec with keyRam := Tab.put s.sec.keyRam slot.toNat b } } : State).complete c
        Code.ok := by
  rw [State.runKeyLoad, State.checked_ok _ _ _ _ (by simp [ha, hs]), State.withBuf_good hb hg, hl]

theorem State.runKeyLoad_format (hk : keyBlockOk b = false) : s.runKeyLoad c slot a = s.complete c Code.keyFormat :=
  (State.runKeyLoad_block ha hs hb hg hl).trans (State.checked_refused (by simp [firstCode, hk]) _)

theorem State.runKeyLoad_stranger (hk : keyBlockOk b = true) (hm : ¬s.enrolledAs slot.toNat b) :
    s.runKeyLoad c slot a = s.complete c Code.imageKey := by
  refine (State.runKeyLoad_block ha hs hb hg hl).trans (State.checked_refused ?_ _)
  have hcond : (!Keys.enrolled s.boot.option slot.toNat || keyHash b != Keys.hash s.boot.option slot.toNat) = true := by
    by_contra h
    simp only [Bool.or_eq_true, Bool.not_eq_true', bne_iff_ne, not_or, Bool.not_eq_false, not_not] at h
    exact hm h
  simp [firstCode, hk, hcond]

theorem State.runKeyLoad_mine (hk : keyBlockOk b = true) (hm : s.enrolledAs slot.toNat b) : s.runKeyLoad c slot a =
    ({ s with sec := { s.sec with keyRam := Tab.put s.sec.keyRam slot.toNat b } } : State).complete c Code.ok :=
  (State.runKeyLoad_block ha hs hb hg hl).trans (State.checked_ok _ _ _ _ (by simp [hk, hm.1, hm.2]))

end

/-! ### KEY_ENROL (R546) -/

theorem State.runKeyEnrol_good {s : State} {c : CmdRef} {a : BitVec 64} (ha : addrReserved a = false)
    (hb : bufferIn a 1664 = true) (hg : s.badIn a.toNat 1664 = none) :
    s.runKeyEnrol c a = s.enrol c (s.load a.toNat 1664) := by
  rw [State.runKeyEnrol, State.checked_ok _ _ _ _ (by simp [ha]), State.withBuf_good hb hg]

theorem State.enrolKey_congr {s u : State} (hb : u.boot = s.boot) (hs : u.sec = s.sec) (r : Bytes) :
    u.enrolKey r = s.enrolKey r := by
  unfold State.enrolKey State.imageKey
  rw [hb, hs]

section
variable {s : State} {c : CmdRef} {r : Bytes}

theorem State.enrol_malformed (hw : Enrol.wellFormed r = false) : s.enrol c r = s.enrolRefused c Code.keyFormat :=
  if_pos (by simp [hw])

variable (hw : Enrol.wellFormed r = true)
include hw

theorem State.enrol_epoch (he : Enrol.epoch r ≠ Keys.epoch s.boot.option (Enrol.target r) + 1 ∨
    Enrol.epoch r = 0xFFFFFFFF) : s.enrol c r = s.enrolRefused c Code.keySequence :=
  (if_neg (by simp [hw])).trans (if_pos he)

variable (he : ¬(Enrol.epoch r ≠ Keys.epoch s.boot.option (Enrol.target r) + 1 ∨ Enrol.epoch r = 0xFFFFFFFF))
include he

theorem State.enrol_unpermitted (hp : Enrol.permitted s.boot.option r = false) :
    s.enrol c r = s.enrolRefused c Code.keyAuthority :=
  (if_neg (by simp [hw])).trans ((if_neg he).trans (if_pos (by simp [hp])))

variable (hp : Enrol.permitted s.boot.option r = true)
include hp

theorem State.enrol_missing (hk : s.enrolKey r = none) : s.enrol c r = s.enrolRefused c Code.keyMissing := by
  refine (if_neg (by simp [hw])).trans ((if_neg he).trans ((if_neg (by simp [hp])).trans ?_))
  rw [hk]

theorem State.enrol_key {key : Bytes} (hk : s.enrolKey r = some key) : s.enrol c r =
    if trailerOk key (Enrol.message r) (Enrol.trailer r) = false then
      (s.noteSig false).enrolRefused c Code.imageSignature
    else if s.boot.commit.isSome = true then (s.noteSig true).enrolRefused c Code.optionBusy
    else (s.noteSig true).enrolNow c r := by
  refine (if_neg (by simp [hw])).trans ((if_neg he).trans ((if_neg (by simp [hp])).trans ?_))
  rw [hk]
  dsimp only
  cases hok : trailerOk key (Enrol.message r) (Enrol.trailer r)
  · rw [if_pos rfl]
    rfl
  · rw [if_neg Bool.noConfusion]
    rfl

end

/-! ### CERT_READ and ATTEST (R548, R550) -/

section
variable {s : State} {c : CmdRef} {a n : BitVec 64} (ha : addrReserved a = false)
include ha

theorem State.runCertRead_short (hn : allOnes64 n = false) (h : n.toNat < Config.certificate.length) :
    s.runCertRead c a n = s.complete c Code.lengthRange := by
  unfold State.runCertRead
  exact State.checked_refused (by simp [firstCode, ha, hn, h]) _

theorem State.runCertRead_good (hn : allOnes64 n = false) (h : Config.certificate.length ≤ n.toNat)
    (hb : bufferIn a Config.certificate.length = true) : s.runCertRead c a n =
      (s.storeFor c.seat a.toNat Config.certificate).complete c Code.ok Config.certificate.length := by
  unfold State.runCertRead
  exact State.checked_ok _ _ _ _ (by simp [ha, hn, h, hb])

theorem State.runAttest_good (nonce : BitVec 256) (hb : bufferIn a 848 = true) : s.runAttest c nonce a =
    ((({ s with free := s.free + 1 } : State).count .secAttestCount []).storeFor c.seat a.toNat (s.report848 nonce ++
      bytesAt (Config.identitySign s.free (sha512 (s.report848 nonce))) 0 512)).complete c Code.ok := by
  unfold State.runAttest
  exact State.checked_ok _ _ _ _ (by simp [ha, hb])

/-! ### FIRMWARE_STORE (R508) -/

theorem State.runFirmwareStore_long (hn : allOnes64 n = false) (h : 16777216 < n.toNat) :
    s.runFirmwareStore c a n = s.complete c Code.lengthRange := by
  unfold State.runFirmwareStore
  exact State.checked_refused (by simp [firstCode, ha, hn, h]) _

theorem State.runFirmwareStore_file (hn : allOnes64 n = false) (h : n.toNat ≤ 16777216) (hb : bufferIn a n.toNat = true)
    (hg : s.badIn a.toNat n.toNat = none) : s.runFirmwareStore c a n = s.storeFirmware (some c)
      ((s.load a.toNat n.toNat).take (Fw.length (s.load a.toNat n.toNat))) := by
  rw [State.runFirmwareStore, State.checked_ok _ _ _ _ (by simp [ha, hn, h]), State.withBuf_good hb hg]

end

theorem State.firmwareStored_first {s : State} {by' : Option CmdRef} {f : Bytes} {rest : List (Option CmdRef × Bytes)}
    (h : s.boot.fwStore = (by', f) :: rest) (ok : Bool) : s.firmwareStored ok =
      ({ s with boot := { s.boot with fwStore := rest }
                flash := { s.flash with firmware := if ok then f else [] } } : State).storedReply by' f
        (if ok then Code.ok else Code.firmwareInvalid) := by
  rw [State.firmwareStored, h]

theorem State.firmwareStored_none {s : State} (h : s.boot.fwStore = []) (ok : Bool) : s.firmwareStored ok = s := by
  rw [State.firmwareStored, h]

/-- Settles O44: each command on the state that its taking leaves, by the first of its conditions that holds. -/
theorem keysAndFirmware : Obligations.KeysAndFirmware := by
  refine ⟨fun s h slot a hacc ha => ⟨fun hs => ?slotRange, fun hs hb hg => ?keyLoad⟩,
    fun s h a hacc ha hb hg => ?keyEnrol, fun o r hp ht => ?root, fun s h a n hacc ha hn =>
      ⟨fun hl => ?_, fun hl hb => ?_⟩, fun s h nonce a hacc ha hb => ?_,
    fun s h a n hacc ha hn => ⟨fun hl => ?_, fun hl hb hg => ?firmware⟩,
    fun s c f rest hf => ⟨congrArg Host.Outcome.next (State.firmwareStored_first hf true),
      congrArg Host.Outcome.next (State.firmwareStored_first hf false)⟩,
    fun s ok hf => congrArg Host.Outcome.next (State.firmwareStored_none hf ok)⟩
  case slotRange => exact exec_effect rfl rfl hacc _ (State.runKeyLoad_slot ha hs)
  case keyLoad =>
    have hload : (s.takes h 0x0701).1.load a.toNat 1024 = s.load a.toNat 1024 := State.load_congr (s.takes_mem h _) ..
    have hbad : (s.takes h 0x0701).1.badIn a.toNat 1024 = none := (State.badIn_congr (s.takes_mc h _) ..).trans hg
    have hmine : (s.takes h 0x0701).1.enrolledAs slot.toNat (s.load a.toNat 1024) ↔
        s.enrolledAs slot.toNat (s.load a.toNat 1024) := by rw [State.enrolledAs, State.takes_boot, State.enrolledAs]
    exact ⟨fun hk => exec_effect rfl rfl hacc _ (State.runKeyLoad_format ha hs hb hbad hload hk),
      fun hk hm => exec_effect rfl rfl hacc _ (State.runKeyLoad_stranger ha hs hb hbad hload hk (mt hmine.mp hm)),
      fun hk hm => exec_effect rfl rfl hacc _ (State.runKeyLoad_mine ha hs hb hbad hload hk (hmine.mpr hm))⟩
  case keyEnrol =>
    have hload : (s.takes h 0x0702).1.load a.toNat 1664 = s.load a.toNat 1664 := State.load_congr (s.takes_mem h _) ..
    have hbad : (s.takes h 0x0702).1.badIn a.toNat 1664 = none := (State.badIn_congr (s.takes_mc h _) ..).trans hg
    have hboot := s.takes_boot h 0x0702
    have hkey := State.enrolKey_congr hboot (s.takes_sec h 0x0702) (s.load a.toNat 1664)
    have hrun {effect : CmdRef → State → State} (he : (s.takes h 0x0702).1.enrol (s.takes h 0x0702).2
        (s.load a.toNat 1664) = effect (s.takes h 0x0702).2 (s.takes h 0x0702).1) :
        exec (.keyEnrol h a) s = .next (s.ran h 0x0702 effect) :=
      exec_effect rfl rfl hacc _ ((State.runKeyEnrol_good ha hb hbad).trans ((congrArg _ hload).trans he))
    refine ⟨fun hw => hrun (State.enrol_malformed hw), fun hw he => hrun (State.enrol_epoch hw (hboot ▸ he)),
      fun hw he => ?_⟩
    have he' := hboot.symm ▸ he
    refine ⟨fun hp => hrun (State.enrol_unpermitted hw he' (hboot ▸ hp)),
      fun hp hk => hrun (State.enrol_missing hw he' (hboot ▸ hp) (hkey.trans hk)), fun key hp hk => ?_⟩
    have hcase := State.enrol_key (c := (s.takes h 0x0702).2) hw he' (hboot ▸ hp) (hkey.trans hk)
    exact ⟨fun hok => hrun (hcase.trans (if_pos hok)),
      fun hok hc => hrun (hcase.trans ((if_neg (by simp [hok])).trans (if_pos (hboot ▸ hc)))),
      fun hok hc => hrun (hcase.trans ((if_neg (by simp [hok])).trans (if_neg (by simp [hc]))))⟩
  case root =>
    by_contra hr
    simp [Enrol.permitted, hr, ht] at hp
  case firmware =>
    have hload : (s.takes h 0x0801).1.load a.toNat n.toNat = s.load a.toNat n.toNat := State.load_congr (s.takes_mem h _) ..
    have hbad : (s.takes h 0x0801).1.badIn a.toNat n.toNat = none := (State.badIn_congr (s.takes_mc h _) ..).trans hg
    have hfile := State.runFirmwareStore_file (c := (s.takes h 0x0801).2) ha hn hl hb hbad
    rw [hload] at hfile
    exact ⟨fun hv => exec_effect rfl rfl hacc _ (hfile.trans (State.storeFirmware_bad _ hv)),
      fun hv => exec_effect rfl rfl hacc _ (hfile.trans (State.storeFirmware_valid _ hv))⟩
  · exact exec_effect rfl rfl hacc _ (State.runCertRead_short ha hn hl)
  · exact exec_effect rfl rfl hacc _ (State.runCertRead_good ha hn hl hb)
  · exact exec_effect rfl rfl hacc _ (State.runAttest_good ha nonce hb)
  · exact exec_effect rfl rfl hacc _ (State.runFirmwareStore_long ha hn hl)

end Sys2Proof.Machine

/-! PROOFS. Lanes align, are trained and tested (O34). -/

namespace Sys2Proof.Machine

/-! ### The kinds of lanes (R455) -/

section
variable {n : Nat}

theorem laneCxp_low (h : n < 32) : laneCxp n = true := decide_eq_true h
theorem laneCxp_high (h : 32 ≤ n) : laneCxp n = false := decide_eq_false h.not_gt
theorem laneEth_mid (h : 32 ≤ n) (h' : n < 40) : laneEth n = true := decide_eq_true ⟨h, h'⟩
theorem laneEth_low (h : n < 32) : laneEth n = false := decide_eq_false fun h' => absurd h'.1 h.not_ge
theorem laneEth_high (h : 40 ≤ n) : laneEth n = false := decide_eq_false fun h' => absurd h'.2 h.not_gt
theorem laneUsb4_high (h : 40 ≤ n) : laneUsb4 n = true := decide_eq_true h
theorem laneUsb4_low (h : n < 40) : laneUsb4 n = false := decide_eq_false h.not_ge

theorem laneW_low (h : n < 32) : laneW n = 10 := if_pos (laneCxp_low h)
theorem laneW_high (h : 32 ≤ n) : laneW n = 66 := if_neg (by simp [laneCxp_high h])

end

/-! ### Alignment (R456) -/

section
variable {s : State} {n p : Nat}

theorem State.laneAlign_left (h : s.laneRaw n = true ∨ s.laneUp n = true) : s.laneAlign n p = s := if_pos h

/-- A lane that has found its boundary shows its signal. -/
def State.laneSeen (s : State) (n : Nat) : State :=
  ((s.setFld .laneStatus [n] 0 1 1).setFld .laneStatus [n] 1 1 1).setFld .laneStatus [n] 2 1 1

theorem State.laneAlign_searching (hr : s.laneRaw n = false) (hu : s.laneUp n = false) : s.laneAlign n p =
    if laneUsb4 n then s.laneSeen n
    else if laneEth n then
      (((s.laneSeen n).setFld .laneStatus [n] 4 7 (p % laneW n)).setFld .laneStatus [n] 12 4 8).ethUp (ethPort n)
    else (s.laneSeen n).setFld .laneStatus [n] 4 7 (p % laneW n) :=
  if_neg (by simp [hr, hu])

/-- What a loss of alignment takes away, seen from the lane's alignment before it. -/
theorem State.loseAlign_of_laneUp {t : State} (h : t.laneUp n = s.laneUp n) : t.loseAlign n =
    (if s.laneUp n then (t.setFld .laneStatus [n] 2 1 0).setFlag .laneErr [n] 1 else t).laneLink n := by
  rw [State.loseAlign, h]

theorem RN.laneStatus_ne_laneErr (n : Nat) : RN.laneStatus.off [n] ≠ RN.laneErr.off [n] := by
  simp only [RN.off, RN.row, List.zipWith, List.foldl]
  omega

theorem RN.laneStatus_ne_laneCodeErr (n : Nat) : RN.laneStatus.off [n] ≠ RN.laneCodeErr.off [n] := by
  simp only [RN.off, RN.row, List.zipWith, List.foldl]
  omega

theorem RN.laneTxCoef_ne_laneTrain (n : Nat) : RN.laneTxCoef.off [n] ≠ RN.laneTrain.off [n] := by
  simp only [RN.off, RN.row, List.zipWith, List.foldl]
  omega

theorem State.laneUp_count_codeErr (s : State) (n d : Nat) : (s.count .laneCodeErr [n] d).laneUp n = s.laneUp n :=
  congrArg (· == 1) (State.fld_count_other _ _ _ _ _ _ _ _ (RN.laneStatus_ne_laneCodeErr n))

theorem State.laneUp_setFlag_laneErr (s : State) (n : Nat) : (s.setFlag .laneErr [n] 0).laneUp n = s.laneUp n := by
  unfold State.laneUp State.fld
  rw [State.stored_setFlag_other _ _ _ _ _ _ (RN.laneStatus_ne_laneErr n)]
  intro c kx k hc
  cases hc
  simp only [RN.off, RN.row, List.zipWith, List.foldl]
  omega

theorem State.laneUp_setFld_apart (s : State) (n lo x : Nat) (h : lo < 2) :
    (s.setFld .laneStatus [n] lo 1 x).laneUp n = s.laneUp n :=
  congrArg (· == 1) (State.fld_setFld_apart _ _ _ _ _ _ _ _ (by omega) (by omega))

theorem State.alignLoss_raw (h : s.laneRaw n = true) (los : Bool) : s.alignLoss n los = s := if_pos h

theorem State.alignLoss_signal (h : s.laneRaw n = false) : s.alignLoss n true =
    (if s.laneUp n then (((((({ s with free := s.free + 1 } : State).setFlag .laneErr [n] 0).setFld .laneStatus [n] 0 1
      0).setFld .laneStatus [n] 1 1 0).count .laneCodeErr [n] (Config.freeNat s.free % 2 ^ 32)).setFld .laneStatus [n] 2 1
        0).setFlag .laneErr [n] 1
    else (((({ s with free := s.free + 1 } : State).setFlag .laneErr [n] 0).setFld .laneStatus [n] 0 1 0).setFld
      .laneStatus [n] 1 1 0).count .laneCodeErr [n] (Config.freeNat s.free % 2 ^ 32)).laneLink n := by
  refine (if_neg (by simp [h])).trans (State.loseAlign_of_laneUp ?_)
  rw [State.laneUp_count_codeErr]
  simp only [if_true]
  rw [State.laneUp_setFld_apart _ _ _ _ (by decide), State.laneUp_setFld_apart _ _ _ _ (by decide),
    State.laneUp_setFlag_laneErr]
  rfl

theorem State.alignLoss_code (h : s.laneRaw n = false) : s.alignLoss n false =
    (if s.laneUp n then ((((({ s with free := s.free + 1 } : State).count .laneCodeErr [n] 16).count .laneCodeErr [n]
      (Config.freeNat s.free % 2 ^ 32))).setFld .laneStatus [n] 2 1 0).setFlag .laneErr [n] 1
    else (({ s with free := s.free + 1 } : State).count .laneCodeErr [n] 16).count .laneCodeErr [n]
      (Config.freeNat s.free % 2 ^ 32)).laneLink n := by
  refine (if_neg (by simp [h])).trans (State.loseAlign_of_laneUp ?_)
  rw [State.laneUp_count_codeErr]
  exact State.laneUp_count_codeErr ..

theorem State.laneLink_cxp (h : n < 32) : s.laneLink n = s.linkLost n true := if_pos (laneCxp_low h)

theorem State.laneLink_eth (h : 32 ≤ n) (h' : n < 40) (hp : s.fld .netPortStatus [ethPort n] 0 1 = 0) :
    s.laneLink n = s :=
  (if_neg (by simp [laneCxp_high h])).trans ((if_pos (laneEth_mid h h')).trans (if_pos hp))

theorem State.laneLink_usb4 (h : 40 ≤ n) :
    s.laneLink n = (s.usb4Lanes (n / 2 % 2) 0).disconnect (n / 2 % 2) .link :=
  (if_neg (by simp [laneCxp_high (by omega : 32 ≤ n)])).trans (if_neg (by simp [laneEth_high h]))

/-! ### Training (R458) -/

/-- A training lane with one more request counted. -/
def State.requested (s : State) (n : Nat) : State :=
  (s.setFld .laneTrain [n] 0 2 1).setFld .laneTrain [n] 16 16 (min (s.fld .laneTrain [n] 16 16 + 1) 0xFFFF)

/-- A request stands until hold frees the next. -/
def State.requestHeld (s : State) (n : Nat) : State := { s with lanes := Tab.put s.lanes n ⟨true⟩ }

theorem State.requested_lanes : (s.requested n).lanes = s.lanes := by simp [State.requested]

theorem State.requested_fixed : ((s.requested n).requestHeld n).fld .laneTrain [n] 2 1 = s.fld .laneTrain [n] 2 1 :=
  (State.fld_setFld_apart _ _ _ _ _ _ _ _ (by decide) (by decide)).trans
    (State.fld_setFld_apart _ _ _ _ _ _ _ _ (by decide) (by decide))

theorem State.requested_coef (lo w : Nat) :
    ((s.requested n).requestHeld n).fld .laneTxCoef [n] lo w = s.fld .laneTxCoef [n] lo w :=
  (State.fld_setFld_other _ _ _ _ _ _ _ _ _ _ (RN.laneTxCoef_ne_laneTrain n)).trans
    (State.fld_setFld_other _ _ _ _ _ _ _ _ _ _ (RN.laneTxCoef_ne_laneTrain n))

section
variable (h32 : 32 ≤ n) (h40 : n < 40) (hr : s.laneRaw n = false) (hp : s.fld .netPortStatus [ethPort n] 0 1 = 0)
include h32 h40 hr hp

theorem State.coefRequest_guard :
    ¬((!laneEth n) = true ∨ s.laneRaw n = true ∨ s.fld .netPortStatus [ethPort n] 0 1 = 1) := by
  simp [laneEth_mid h32 h40, hr, hp]

theorem State.coefRequest_hold : s.coefRequest n .hold = { s.requested n with
    lanes := Tab.del (s.requested n).lanes n
    out := (s.requested n).out ++ [.coefStatus n 0 0, .coefStatus n 1 0, .coefStatus n 2 0] } := by
  refine (if_neg (State.coefRequest_guard h32 h40 hr hp)).trans ?_
  change { s.requested n with
    lanes := Tab.del (s.requested n).lanes n
    out := (s.requested n).out ++ [Emission.coefStatus n 0 0] ++ [Emission.coefStatus n 1 0] ++
      [Emission.coefStatus n 2 0] } = _
  rw [List.append_assoc, List.append_assoc]
  rfl

/-- A request that comes before hold is ignored. -/
theorem State.coefRequest_busy (hb : (Tab.getD s.lanes n {}).pendingReq = true) {r : CoefReq} (hh : r ≠ .hold) :
    s.coefRequest n r = s.requested n := by
  have hb' : (Tab.getD (s.requested n).lanes n {}).pendingReq = true := by rw [State.requested_lanes, hb]
  refine (if_neg (State.coefRequest_guard h32 h40 hr hp)).trans ?_
  cases r with
  | hold => exact absurd rfl hh
  | change k up => exact if_pos hb'
  | preset => exact if_pos hb'
  | initial => exact if_pos hb'

theorem State.coefRequest_change (hb : (Tab.getD s.lanes n {}).pendingReq = false) (k : Fin 3) (up : Bool) :
    s.coefRequest n (.change k up) = ((s.requested n).requestHeld n).coefStep n k up := by
  refine (if_neg (State.coefRequest_guard h32 h40 hr hp)).trans (if_neg ?_)
  change ¬(Tab.getD (s.requested n).lanes n {}).pendingReq = true
  simp [State.requested_lanes, hb]

end

/-- The place and the width of a coefficient in TX_COEF. -/
def coefPlace (k : Fin 3) : Nat := if k = 0 then 0 else if k = 1 then 4 else 10
def coefWidth (k : Fin 3) : Nat := if k = 0 then 4 else if k = 1 then 6 else 5

theorem coefField_eq (k : Fin 3) : coefField k = (coefPlace k, coefWidth k, 2 ^ coefWidth k - 1) := by
  fin_cases k <;> rfl

theorem State.coefStep_eq (k : Fin 3) (up : Bool) : s.coefStep n k up =
    if s.fld .laneTrain [n] 2 1 = 1 ∨ s.fld .laneTxCoef [n] (coefPlace k) (coefWidth k) =
        (if up then 2 ^ coefWidth k - 1 else 0) then s.emit (.coefStatus n k (if up then 3 else 2))
    else (s.setFld .laneTxCoef [n] (coefPlace k) (coefWidth k)
      (if up then s.fld .laneTxCoef [n] (coefPlace k) (coefWidth k) + 1
        else s.fld .laneTxCoef [n] (coefPlace k) (coefWidth k) - 1)).emit (.coefStatus n k 1) := by
  rw [State.coefStep, coefField_eq]
  cases up <;> simp [State.coefAnswer]

theorem State.trainFail_training (h : s.fld .laneTrain [n] 0 2 = 1) : s.trainFail n =
    { (s.setFld .laneTrain [n] 0 2 3).setFlag .laneErr [n] 3 with lanes := Tab.del s.lanes n } := by
  refine (if_neg (not_not_intro h)).trans ?_
  simp

/-! ### Test functions (R459 to R463) -/

theorem State.laneWrite_usb4 (h : 40 ≤ n) (who : Nat) (f : State → State) :
    s.laneWrite who n f = s.log { notice 8 with initiator := who, arg0 := n64 n } := if_pos (laneUsb4_high h)

theorem State.laneWrite_other (h : n < 40) (who : Nat) (f : State → State) : s.laneWrite who n f = f s :=
  if_neg (by simp [laneUsb4_low h])

section
variable (who : Nat)

theorem State.laneMode_same {m : Bool} (h : s.laneRaw n = m) : s.laneMode who n m = s := if_pos h

theorem State.laneMode_enter (h : s.laneRaw n = false) :
    s.laneMode who n true = ((s.loseAlign n).setFld .laneCtrl [n] 0 1 1).laneNotice who n :=
  if_neg (by simp [h])

theorem State.laneMode_leave (h : s.laneRaw n = true) :
    s.laneMode who n false = (s.setFld .laneCtrl [n] 0 1 0).laneNotice who n :=
  if_neg (by simp [h])

theorem State.laneSlip_normal (h : s.laneRaw n = false) : s.laneSlip who n = s.laneNotice who n := if_pos (by simp [h])

theorem State.laneSlip_raw (h : s.laneRaw n = true) : s.laneSlip who n = (s.setFld .laneStatus [n] 4 7
    ((s.fld .laneStatus [n] 4 7 + 1) % (if n < 32 then 10 else 66))).setReg .laneMatchCnt [n] 0 := by
  have hw : laneW n = if n < 32 then 10 else 66 := by
    split
    · next hn => exact laneW_low hn
    · next hn => exact laneW_high (by omega)
  rw [← hw]
  exact if_neg (by simp [h])

theorem State.laneLoop_refused {m : Nat} (h : m = 3 ∨ (m = 2 ∧ n < 32)) : s.laneLoop who n m = s.laneNotice who n :=
  if_pos (h.imp_right (And.imp_right laneCxp_low))

theorem State.laneLoop_taken {m : Nat} (h3 : m ≠ 3) (h2 : m ≠ 2 ∨ 32 ≤ n) : s.laneLoop who n m =
    ((if m = 0 ∨ s.fld .laneCtrl [n] 1 2 = m then s else s.laneLink n).setFld .laneCtrl [n] 1 2 m).laneBack n := by
  refine if_neg ?_
  rintro (h | ⟨h, hc⟩)
  · exact h3 h
  · rw [laneCxp_high (h2.resolve_left (not_not_intro h))] at hc
    cases hc

end

theorem State.laneChk_on (h : s.fld .laneCtrl [n] 4 1 = 0) : s.laneChk n true = ((((s.setFld .laneCtrl [n] 4 1 1).setFld
    .laneStatus [n] 3 1 0).setReg .lanePrbsBitsLo [n] 0).setReg .lanePrbsBitsHi [n] 0).setReg .lanePrbsErr [n] 0 :=
  if_neg (by simp [h])

theorem State.laneChk_off (h : s.fld .laneCtrl [n] 4 1 = 1) :
    s.laneChk n false = (s.setFld .laneCtrl [n] 4 1 0).setFld .laneStatus [n] 3 1 0 :=
  if_neg (by simp [h])

end

/-- Settles O34: each command of a lane, by its kind and its mode. -/
theorem lanes : Obligations.Lanes := by
  refine ⟨fun s n p => ⟨fun h => congrArg Host.Outcome.next (State.laneAlign_left h), fun hr hu => ?align⟩,
    fun s n => ⟨fun h los => congrArg Host.Outcome.next (State.alignLoss_raw h los),
      fun h => congrArg Host.Outcome.next (State.alignLoss_signal h),
      fun h => congrArg Host.Outcome.next (State.alignLoss_code h)⟩,
    fun s n => ⟨State.laneLink_cxp, State.laneLink_eth, State.laneLink_usb4⟩,
    fun s n k up h32 h40 hr hp => ⟨fun hb => ?busy, fun hb => ?change,
      congrArg Host.Outcome.next (State.coefRequest_hold h32 h40 hr hp)⟩,
    fun s n => ⟨fun h => congrArg Host.Outcome.next (State.trainFail_training h),
      fun h => congrArg Host.Outcome.next (if_pos h)⟩,
    fun s seat n h => ?usb4, fun s seat n h => ?test, fun s n => ⟨fun h => congrArg Host.Outcome.next (if_pos h),
      fun h => congrArg Host.Outcome.next (if_neg (by simp [h])),
      fun h => congrArg Host.Outcome.next (if_pos (by simp [h]))⟩⟩
  case align =>
    have hal := State.laneAlign_searching (p := p) hr hu
    refine ⟨fun h => ?_, fun h => ?_, fun h h' => ?_⟩ <;> refine congrArg Host.Outcome.next (hal.trans ?_)
    · exact if_pos (laneUsb4_high h)
    · rw [if_neg (by simp [laneUsb4_low (by omega : n.val < 40)]), if_neg (by simp [laneEth_low h]), laneW_low h]
      rfl
    · rw [if_neg (by simp [laneUsb4_low h']), if_pos (laneEth_mid h h'), laneW_high h]
      rfl
  case busy =>
    exact ⟨congrArg Host.Outcome.next (State.coefRequest_busy h32 h40 hr hp hb (by simp)),
      congrArg Host.Outcome.next (State.coefRequest_busy h32 h40 hr hp hb (by simp)),
      congrArg Host.Outcome.next (State.coefRequest_busy h32 h40 hr hp hb (by simp))⟩
  case change =>
    have hstep := (State.coefRequest_change h32 h40 hr hp hb k up).trans (State.coefStep_eq k up)
    rw [State.requested_fixed, State.requested_coef] at hstep
    exact ⟨fun h => congrArg Host.Outcome.next (hstep.trans (if_pos h)),
      fun h hv => congrArg Host.Outcome.next (hstep.trans (if_neg (by
        rintro (h' | h')
        · rw [h] at h'
          cases h'
        · exact hv h')))⟩
  case usb4 =>
    exact ⟨fun m => congrArg Host.Outcome.next (State.laneWrite_usb4 h ..),
      congrArg Host.Outcome.next (State.laneWrite_usb4 h ..), congrArg Host.Outcome.next (State.laneWrite_usb4 h ..),
      fun m => congrArg Host.Outcome.next (State.laneWrite_usb4 h ..),
      fun on => congrArg Host.Outcome.next (State.laneWrite_usb4 h ..)⟩
  case test =>
    have hw {f : State → State} {t : State} (hf : f s = t) : (.next (s.laneWrite seat n f) : Res) = .next t :=
      congrArg Host.Outcome.next ((State.laneWrite_other h seat f).trans hf)
    refine ⟨fun hr => hw (State.laneMode_enter _ hr), fun hr => hw (State.laneMode_leave _ hr),
      fun m hr => hw (State.laneMode_same _ hr), fun hr => hw (State.laneSlip_normal _ hr),
      fun hr => hw (State.laneSlip_raw _ hr), fun hi => hw (if_pos hi), fun hi => hw (if_neg hi),
      fun m => ⟨fun hm => hw (State.laneLoop_refused _ ?_), fun h3 h2 => hw ?_⟩,
      fun hc => hw (State.laneChk_on hc), fun hc => hw (State.laneChk_off hc)⟩
    · exact hm.imp (fun h => congrArg BitVec.toNat h) (And.imp_left fun h => congrArg BitVec.toNat h)
    · refine (State.laneLoop_taken _ (fun h => h3 (BitVec.eq_of_toNat_eq h))
        (h2.imp_left fun h h' => h (BitVec.eq_of_toNat_eq h'))).trans ?_
      have h0 : m.toNat = 0 ↔ m = 0 := (BitVec.toNat_eq (x := m) (y := 0)).symm
      simp only [h0]

end Sys2Proof.Machine

/-! PROOFS. Field inputs, counters, host outputs and mirrored registers (O51). -/

namespace Sys2Proof.Machine

/-! ### Inputs and counters (R476, R477) -/

section
variable {s : State} {i : Nat} {a : Bool}

/-- The input's filtered level is another. -/
def State.withInput (s : State) (i : Nat) (a : Bool) : State :=
  { s with field := { s.field with inputs := BitVec.ofNat 32 (putSlice s.field.inputs.toNat i 1 (b2n a)) } }

theorem State.inputEdge_unchanged (h : s.field.held = true ∨ bit s.field.inputs.toNat i = a) : s.inputEdge i a = s :=
  if_pos (by simpa using h)

theorem State.countEdge_unused {c : Nat} (h : s.fieldRec 4 c = none) : s.countEdge c i a = s := by
  rw [State.countEdge, h]

/-- An edge that no counter counts shows, and is queued where the input reports its position. -/
theorem State.inputEdge_uncounted (hh : s.field.held = false) (hb : bit s.field.inputs.toNat i ≠ a)
    (hc : ∀ c, c < 4 → s.fieldRec 4 c = none) : (s.inEncoder i = none → s.inputEdge i a = s.withInput i a) ∧
      ∀ n, s.inEncoder i = some n → s.inputEdge i a = (s.withInput i a).queueEdge (.edge i a (s.edgePos i n)) := by
  have hcount : (List.range 4).foldl (fun s c => s.countEdge c i a) (s.withInput i a) = s.withInput i a :=
    foldl_eq_of_fixed fun c hc' => State.countEdge_unused (hc c (List.mem_range.mp hc'))
  have hsame : (s.withInput i a).inEncoder i = s.inEncoder i := rfl
  have hpos (n : Nat) : (s.withInput i a).edgePos i n = s.edgePos i n := rfl
  rw [← hsame]
  unfold State.withInput at hcount hpos ⊢
  refine ⟨fun hn => ?_, fun n hn => ?_⟩
  · rw [State.inputEdge, if_neg (by simp [hh, hb])]
    simp only [hcount, hn]
  · rw [State.inputEdge, if_neg (by simp [hh, hb])]
    simp only [hcount, hn, hpos]

theorem State.countEdge_both {c : Nat} {r : Bytes} (hr : s.fieldRec 4 c = some r) (hi : byteAt r 4 = i)
    (he : byteAt r 5 = 2) : s.countEdge c i a = { s with field := { s.field with
      counters := Tab.put s.field.counters c { Tab.getD s.field.counters c {} with
        count := (Tab.getD s.field.counters c {}).count + 1, edges := (Tab.getD s.field.counters c {}).edges + 1
        last := s.now, first := if (Tab.getD s.field.counters c {}).edges = 0 then s.now
          else (Tab.getD s.field.counters c {}).first } } } := by
  rw [State.countEdge, hr]
  exact if_neg (by simp [hi, he])

theorem State.counterGate_record {c : Nat} {r : Bytes} (hr : s.fieldRec 4 c = some r) : s.counterGate c =
    { s with field := { s.field with counters := Tab.put s.field.counters c { Tab.getD s.field.counters c {} with
      edges := 0
      freq := n32 (if (Tab.getD s.field.counters c {}).edges < 2 ∨
          (Tab.getD s.field.counters c {}).last ≤ (Tab.getD s.field.counters c {}).first then 0
        else min (((Tab.getD s.field.counters c {}).edges - 1) * 256000000000 /
          ((Tab.getD s.field.counters c {}).last - (Tab.getD s.field.counters c {}).first)) 0xFFFFFFFF) } } } := by
  rw [State.counterGate, hr]
  rfl

end

/-! ### Host outputs (R478, R483) -/

/-- A number is made of its bits. -/
theorem foldl_bits (v n : Nat) : (List.range n).foldl (fun a k => a + b2n (bit v k) * 2 ^ k) 0 = v % 2 ^ n := by
  induction n with
  | zero => simp [Nat.mod_one]
  | succ n ih =>
    have hbit : b2n (bit v n) = v / 2 ^ n % 2 := by
      rcases Nat.mod_two_eq_zero_or_one (v / 2 ^ n) with h | h <;> simp [bit, b2n, h]
    rw [List.range_succ, List.foldl_append, ih, List.foldl_cons, List.foldl_nil, hbit, Nat.mod_pow_succ, Nat.mul_comm]

theorem State.writeQHost_host {s : State} (h : ∀ q, q < 64 → s.outMode q = 3) (seat : Nat) (high : Bool) (v : Word) :
    s.writeQHost seat high v = ({ s with field := { s.field with
      qHost := BitVec.ofNat 64 (putSlice s.field.qHost.toNat (if high then 32 else 0) 32 v.toNat) } } :
        State).applyHost := by
  have hmode : ∀ k ∈ List.range 32, s.outMode ((if high then 32 else 0) + k) = 3 := by
    intro k hk
    rw [List.mem_range] at hk
    exact h _ (by split <;> omega)
  have hquiet : (List.range 32).foldl (fun t k =>
      if t.outMode ((if high then 32 else 0) + k) != 3 && bit (slice s.field.qHost.toNat (if high then 32 else 0) 32) k !=
        bit v.toNat k then t.log { notice 15 with initiator := seat, arg0 := n64 ((if high then 32 else 0) + k) } else t) s =
      s :=
    foldl_eq_of_fixed fun k hk => if_neg (by simp [hmode k hk])
  have hkeep : (List.range 32).foldl (fun a k =>
      a + b2n (s.outMode ((if high then 32 else 0) + k) == 3 && bit v.toNat k) * 2 ^ k) 0 = v.toNat := by
    refine Eq.trans (List.foldl_ext _ _ _ fun a k hk => ?_) ((foldl_bits v.toNat 32).trans (Nat.mod_eq_of_lt v.isLt))
    rw [hmode k hk]
    rfl
  rw [State.writeQHost]
  dsimp only
  rw [hquiet, hkeep]

/-! ### Mirrored registers (R483, R484) -/

theorem State.fieldWrite_down {s : State} (h : s.linkCode = 0) (seat off : Nat) (f : State → State) :
    s.fieldWrite seat off f = s.log { notice 15 with initiator := seat, arg0 := n64 off } := if_pos h

theorem mirrored_field {o : Nat} (h : 0x14 ≤ o) (ho : o < 2 ^ 20) : mirrored (0xF00000 + o) = true := by
  unfold mirrored
  exact decide_eq_true (by omega)

section
variable {s : State} {off : Nat} {r : RN} {ix : List Nat} (hr : regAt off = some (r, ix)) (hm : mirrored off = true)
include hr hm

theorem State.ctlRead_mirror (hg : r ∉ [.laneMatchCnt, .lanePrbsBitsLo, .lanePrbsErr]) (who : Nat) :
    s.ctlRead who off = s.readMirror r ix := by
  simp only [List.mem_cons, List.not_mem_nil, or_false, not_or] at hg
  obtain ⟨h1, h2, h3⟩ := hg
  simp [State.ctlRead, hr, hm]

theorem State.ctlWrite_mirror (who v : Nat) :
    s.ctlWrite who off v = (s.unlatch who off).fieldWrite who off fun s => s.writeReg who r ix v := by
  simp only [State.ctlWrite, hr, hm, if_true]

end

theorem State.readMirror_up {s : State} (h : s.linkCode ≠ 0) (r : RN) (ix : List Nat) : s.readMirror r ix =
    ({ s with field := { s.field with mirror := Tab.put s.field.mirror (r.off ix) (s.view r ix) } }, s.view r ix) :=
  if_neg h

theorem State.readMirror_down {s : State} (h : s.linkCode = 0) (r : RN) (ix : List Nat) : s.readMirror r ix =
    ({ s with free := s.free + 1 }, n32 (Config.freeNat s.free % 2 ^ 32)) := if_pos h

theorem State.seatRead_aligned {s : State} {off : Nat} (h : off % 4 = 0) (who : Nat) : s.seatRead who off =
    (s.ctlRead who off).1.emit (.readData who (natLe 4 (s.ctlRead who off).2.toNat)) := if_neg (not_not_intro h)

theorem exec_fieldMirrorWrite_aligned {s : State} {off : BitVec 20} (h : off.toNat % 4 = 0) (seat : Fin 4) (v : Word) :
    exec (.fieldMirrorWrite seat off v) s = .next (s.ctlWrite seat (0xF00000 + off.toNat) v.toNat) :=
  congrArg Host.Outcome.next (if_neg (not_not_intro h))

/-- Settles O51: the inputs by their records, and each access by the state of the link. -/
theorem fieldInputs : Obligations.FieldInputs := by
  refine ⟨fun s i a => ⟨fun h => congrArg Host.Outcome.next (State.inputEdge_unchanged h), fun hh hb hc =>
      ⟨fun hn => congrArg Host.Outcome.next ((State.inputEdge_uncounted hh hb hc).1 hn),
        fun n hn => congrArg Host.Outcome.next ((State.inputEdge_uncounted hh hb hc).2 n hn)⟩⟩,
    fun s c i a r => State.countEdge_both, fun s c r hr => congrArg Host.Outcome.next (State.counterGate_record hr),
    fun s seat c h => congrArg Host.Outcome.next (State.fieldWrite_up h ..), fun s seat c q g v h => ?down,
    fun s seat high v h hm => congrArg Host.Outcome.next ((State.fieldWrite_up h ..).trans
      (State.writeQHost_host hm seat high v)),
    fun s seat off r ix v ha h14 hr hg => ?mirror⟩
  case down =>
    have hd (off : Nat) (f : State → State) : (.next (s.fieldWrite seat off f) : Res) =
        .next (s.log { notice 15 with initiator := seat, arg0 := n64 off }) :=
      congrArg Host.Outcome.next (State.fieldWrite_down h ..)
    exact ⟨hd .., hd .., hd .., hd .., hd ..⟩
  case mirror =>
    have hm := mirrored_field h14 off.isLt
    have hread : exec (.fieldMirrorRead seat off) s = .next ((s.readMirror r ix).1.emit
        (.readData seat (natLe 4 (s.readMirror r ix).2.toNat))) := by
      refine congrArg Host.Outcome.next ((State.seatRead_aligned (by omega) seat).trans ?_)
      rw [State.ctlRead_mirror hr hm hg]
    refine ⟨fun hl => ?_, fun hl => ?_, fun hl => ⟨s.unlatch seat (0xF00000 + off.toNat), ?_, rfl⟩⟩
    · rw [hread, State.readMirror_up hl]
    · rw [hread, State.readMirror_down hl, BitVec.toNat_ofNat, Nat.mod_mod]
    · rw [exec_fieldMirrorWrite_aligned ha, State.ctlWrite_mirror hr hm]
      exact congrArg Host.Outcome.next (State.fieldWrite_down (s := s.unlatch _ _) hl ..)

end Sys2Proof.Machine

/-! PROOFS. The barrier link (O52). -/

namespace Sys2Proof.Machine

/-! ### A line that waits for its position (R84, R286) -/

/-- A line filed before a sample of its encoder has come after it: its position waits. -/
def waitingLine : RawLine :=
  { index := 0, pos := 0, time := 0, block := 0, blockTime := 0, last := false, short := false, cause := 0, gap := false
    pix := [], bracket := some 3 }

/-- A stream through a pipe, on encoder 0, whose only raw line waits for its position. -/
def waitingStream : Stream :=
  { cfg := List.replicate 64 0, lp := some ([], []), imageGen := 0, rawLines := [waitingLine]
    layout := { base := 0, size := 0, statOff := 0, rawOff := 0, corrOff := 0, rawLineBytes := 0, corrLineBytes := 0
                laneRowBytes := 0, corrSlots := 0, winOff := 0, winRows := 0 } }

/-- That stream, bound, with a sample of its encoder from after the line. -/
def awaitingSample : State := { State.reset with
  cam := { streams := [(0, waitingStream)] }
  motion := { State.reset.motion with encs := [(0, { samples := [(5, 0)] })] } }

/-- What the raw lines of all streams still wait for. -/
def State.brackets (s : State) : List (List (Option Nat)) := s.cam.streams.map fun x => x.2.rawLines.map RawLine.bracket

/-- BARRIER_UP_FRAME settles the positions of waiting lines, whether its frame is good or not. -/
theorem exec_barrierUpFrame (s : State) (good : Bool) :
    exec (.barrierUpFrame good) s = .next (s.upFrame good).settlePositions := rfl

theorem awaitingSample_settled : (awaitingSample.upFrame false).settlePositions.brackets = [[none]] := by decide +kernel

/-- Refutes O52: a BARRIER_UP_FRAME that is bad also settles the position of a line that a sample brackets by then
(R84), which the statement's outcome leaves waiting. -/
theorem not_barrierLink : ¬ Obligations.BarrierLink := by
  intro h
  obtain ⟨_, _, _, _, _, hup, _⟩ := h
  have hframe := (hup awaitingSample rfl).1
  rw [exec_barrierUpFrame] at hframe
  injection hframe with hstate
  have hsettled := awaitingSample_settled
  rw [hstate] at hsettled
  revert hsettled
  decide +kernel

end Sys2Proof.Machine

/-! PROOFS. Every reset source, and what a die reset leaves (O53). -/

namespace Sys2Proof.Machine

/-! ### What breaking off a commit, a firmware write and the barrier link leaves alone (R490, R507, R508) -/

/-- The state without the barrier side, the free values and what is being written into flash. -/
def State.withoutBreak (s : State) : State :=
  { s with motion := {}, field := {}, free := 0, flash := { s.flash with firmware := [], options := [] } }

section
variable (s : State)

theorem State.tornOptions_withoutBreak : s.tornOptions.withoutBreak = s.withoutBreak := by
  unfold State.tornOptions
  split <;> rfl

theorem State.tornOptions_motion : s.tornOptions.motion = s.motion := by
  unfold State.tornOptions
  split <;> rfl

theorem State.tornFirmware_withoutBreak : s.tornFirmware.withoutBreak = s.withoutBreak := by
  unfold State.tornFirmware
  split <;> rfl

theorem State.tornFirmware_motion : s.tornFirmware.motion = s.motion := by
  unfold State.tornFirmware
  split <;> rfl

/-- The outputs in their safe states, one after another. -/
def State.safeOutputs : State := (List.range 64).foldl (fun s q =>
  if (s.output q).on && (s.outSafe q == 0 || s.outMode q == 3) then s.setOutput q ((s.output q).off s.now) else s) s

theorem State.safeOutputs_withoutBreak : s.safeOutputs.withoutBreak = s.withoutBreak :=
  State.foldl_kept (f := fun (s : State) q =>
    if (s.output q).on && (s.outSafe q == 0 || s.outMode q == 3) then s.setOutput q ((s.output q).off s.now) else s)
    State.withoutBreak (fun t q => by split <;> rfl) _ s

theorem State.safeOutputs_motion : s.safeOutputs.motion = s.motion :=
  State.foldl_kept (f := fun (s : State) q =>
    if (s.output q).on && (s.outSafe q == 0 || s.outMode q == 3) then s.setOutput q ((s.output q).off s.now) else s)
    State.motion (fun t q => by split <;> rfl) _ s

theorem State.enterSafe_eq : s.enterSafe = if s.field.fcSafe then s else { s.safeOutputs with
    field := { s.safeOutputs.field with fcSafe := true }, motion := { s.safeOutputs.motion with windows := [] } } := by
  unfold State.enterSafe State.safeOutputs
  dsimp only

/-- The barrier side is no part of what is left. -/
theorem State.withoutBreak_barrier (f : FieldState) (m : MotionState) :
    ({ s with field := f, motion := m } : State).withoutBreak = s.withoutBreak := rfl

theorem State.enterSafe_withoutBreak : s.enterSafe.withoutBreak = s.withoutBreak := by
  rw [State.enterSafe_eq]
  split
  · rfl
  · rw [State.withoutBreak_barrier, State.safeOutputs_withoutBreak]

theorem State.enterSafe_fcSafe : s.enterSafe.field.fcSafe = true := by
  rw [State.enterSafe_eq]
  split
  · next h => exact h
  · rfl

theorem State.enterSafe_encs : s.enterSafe.motion.encs = s.motion.encs := by
  rw [State.enterSafe_eq]
  split
  · rfl
  · dsimp only
    rw [State.safeOutputs_motion]

/-- The state as a die reset finds it once the writes and the link are broken off. -/
def State.broken : State := s.tornOptions.tornFirmware.breakBarrier

theorem State.breakBarrier_withoutBreak : s.breakBarrier.withoutBreak = s.enterSafe.withoutBreak := by
  unfold State.breakBarrier
  generalize s.enterSafe = t
  rfl

theorem State.broken_withoutBreak : s.broken.withoutBreak = s.withoutBreak := by
  rw [State.broken, State.breakBarrier_withoutBreak, State.enterSafe_withoutBreak, State.tornFirmware_withoutBreak,
    State.tornOptions_withoutBreak]

theorem State.broken_encs : s.broken.motion.encs = s.motion.encs.map fun e => (e.1, e.2.dieCleared) := by
  have h : s.tornOptions.tornFirmware.enterSafe.motion.encs = s.motion.encs := by
    rw [State.enterSafe_encs, State.tornFirmware_motion, State.tornOptions_motion]
  rw [← h]
  rfl

theorem State.broken_fcSafe : s.broken.field.fcSafe = true := s.tornOptions.tornFirmware.enterSafe_fcSafe

/-- The edges that an encoder has counted are the field controller's, and go on. -/
theorem Tab.getD_dieCleared_count (t : Tab Enc) (e : Nat) :
    (Tab.getD (t.map fun x : Nat × Enc => (x.1, x.2.dieCleared)) e {}).count = (Tab.getD t e {}).count := by
  rw [Tab.getD, Tab.get_map, Tab.getD]
  cases Tab.get t e <;> rfl

/-! ### A die reset (R491, R501) -/

variable (cause : Nat) (warm : Bool) (rail : Option Nat) (ff rn : Bool)

/-- What a die reset leaves before its registers and the recorder are set up. -/
def State.stripped : State :=
  { s.cleared warm with
    backup := s.broken.backup.step1 cause warm rail
    boot := { step := 2, warm := warm, sendFieldReset := ff } }

theorem State.dieReset_eq : s.dieReset cause warm rail ff rn =
    let t := (s.stripped cause warm rail ff).setReg .rstBootStatus []
      (b2n s.broken.backup.valid * 256 + b2n (!rn) * 2048 + b2n warm * 4096)
    let t := if warm then t.rebuildRecorder else t
    if rail.isSome then t.setFlag .rstPwrErr [] 4 else t := rfl

theorem State.rebuildRecorder_withoutLog : s.rebuildRecorder.withoutLog = s.withoutLog := by
  unfold State.rebuildRecorder
  dsimp only
  rw [State.log_withoutLog]
  rfl

theorem State.dieReset_withoutLog :
    (s.dieReset cause warm rail ff rn).withoutLog = (s.stripped cause warm rail ff).withoutLog := by
  rw [State.dieReset_eq]
  cases warm <;> cases rail <;> simp [State.rebuildRecorder_withoutLog]

theorem State.broken_backup : s.broken.backup = s.backup := (congrArg State.backup s.broken_withoutBreak :)
theorem State.broken_mem : s.broken.mem = s.mem := (congrArg State.mem s.broken_withoutBreak :)
theorem State.broken_host : s.broken.host = s.host := (congrArg State.host s.broken_withoutBreak :)

/-- A cold reset that no rail has caused leaves the one register that it sets. -/
theorem State.dieReset_cold_regs : (s.dieReset cause false none ff rn).regs =
    (({} : State).setReg .rstBootStatus [] (b2n s.backup.valid * 256 + b2n (!rn) * 2048)).regs := by
  have hregs : (s.stripped cause false none ff).regs = ({} : State).regs := rfl
  have hcold : b2n false * 4096 = 0 := rfl
  simp only [State.dieReset_eq, State.broken_backup, State.setReg, State.setStored, hregs, hcold, Nat.add_zero,
    Bool.false_eq_true, if_false, Option.isSome_none]

/-- What R491 lists of a die reset. -/
theorem State.dieReset_leaves (t : State) (ht : t = s.dieReset cause warm rail ff rn) :
    t.dev = .boot ∧ t.boot = { step := 2, warm := warm, sendFieldReset := ff } ∧
    t.backup = { s.backup with
      valid := true, cause := cause, warm := warm, rail := rail.getD 0, count := s.backup.count + 1
      attempts := min 15 (s.backup.attempts + 1) } ∧
    t.img = {} ∧ t.ledg = {} ∧ t.sched = {} ∧ t.cam = {} ∧ t.cap = {} ∧ t.train = {} ∧ t.net = {} ∧ t.sec = {} ∧
    t.pending = s.pending ∧ t.flash.slot = s.flash.slot ∧ t.mem = s.keptMem warm ∧
    t.host.conns = s.host.conns ∧ t.host.mem0 = s.host.mem0 ∧ t.host.mem1 = s.host.mem1 ∧
    (∀ e, (Tab.getD t.motion.encs e {}).count = (Tab.getD s.motion.encs e {}).count) ∧
    t.motion.list = [] ∧ t.motion.insertQueue = [] ∧ t.motion.insertHold = [] ∧ t.motion.decideWait = [] ∧
    t.motion.suppressed = [] ∧ t.field.fcSafe = true ∧ t.field.linkState = 0 := by
  have hkeep : t.withoutLog = (s.stripped cause warm rail ff).withoutLog :=
    (congrArg State.withoutLog ht).trans (s.dieReset_withoutLog cause warm rail ff rn)
  have hbroken := s.broken_withoutBreak
  have hmotion : t.motion = s.broken.motion := (congrArg State.motion hkeep :)
  have hhost : t.host = { conns := s.broken.host.conns, mem0 := s.broken.host.mem0, mem1 := s.broken.host.mem1
                          nextSession := s.broken.host.nextSession } := (congrArg State.host hkeep :)
  have hmem : t.mem = s.broken.keptMem warm := (congrArg State.mem hkeep :)
  have hfield : t.field = s.broken.field := (congrArg State.field hkeep :)
  have hback : t.backup = s.broken.backup.step1 cause warm rail := (congrArg State.backup hkeep :)
  refine ⟨(congrArg State.dev hkeep :), (congrArg State.boot hkeep :), ?_, (congrArg State.img hkeep :),
    (congrArg State.ledg hkeep :), (congrArg State.sched hkeep :), (congrArg State.cam hkeep :),
    (congrArg State.cap hkeep :), (congrArg State.train hkeep :), (congrArg State.net hkeep :),
    (congrArg State.sec hkeep :), ?_, ?_, ?_, ?_, ?_, ?_, fun e => ?_, ?_, ?_, ?_, ?_, ?_, ?_, ?_⟩
  · rw [hback, State.broken_backup]
    rfl
  · exact (congrArg State.pending hkeep :).trans (congrArg State.pending hbroken :)
  · exact (congrArg (fun u : State => u.flash.slot) hkeep :).trans (congrArg (fun u : State => u.flash.slot) hbroken :)
  · rw [hmem, State.keptMem, State.broken_mem, State.keptMem]
  · rw [hhost, State.broken_host]
  · rw [hhost, State.broken_host]
  · rw [hhost, State.broken_host]
  · rw [hmotion, State.broken_encs, Tab.getD_dieCleared_count]
  case refine_14 => rw [hfield, State.broken_fcSafe]
  case refine_15 => rw [hfield]; rfl
  all_goals rw [hmotion]; rfl

end

/-! ### SW_RESET (R494) -/

section
variable {s : State} {seat v : Nat} {rn : Bool}

/-- The recorder names the seat and its requests. -/
def State.told (s : State) (seat v : Nat) : State := s.log { warning 1 with initiator := seat, arg0 := n64 (slice v 0 6) }

theorem State.swReset_unkeyed (hk : slice v 24 8 ≠ 0xA5) : s.swReset seat v rn =
    s.log { notice 1 with initiator := seat, arg0 := n64 (RN.off .rstSwReset []) } := if_pos hk

theorem State.swReset_none (hk : slice v 24 8 = 0xA5) (h0 : slice v 0 6 = 0) : s.swReset seat v rn = s :=
  (if_neg (not_not_intro hk)).trans (if_pos h0)

theorem State.swReset_asked (hk : slice v 24 8 = 0xA5) (h0 : slice v 0 6 ≠ 0) : s.swReset seat v rn =
    if bit v 0 then (s.told seat v).flushRecorder.dieReset 5 true none false rn
    else
      let t := ((List.range 4).filter fun n => bit v (1 + n)).foldl (fun s n => s.coreReset n 5) (s.told seat v)
      if bit v 5 && t.dev != .recovery then t.askStreamReset else t :=
  (if_neg (not_not_intro hk)).trans (if_neg h0)

/-- The request bits are the low bits of the word. -/
theorem bit_of_slice {k : Nat} (hk : k < 6) : bit v k = bit (slice v 0 6) k := by
  have h : v / 2 ^ 0 % 2 ^ 6 / 2 ^ k % 2 = v / 2 ^ k % 2 := by interval_cases k <;> omega
  rw [bit, bit, slice, h]

theorem State.swReset_die (hk : slice v 24 8 = 0xA5) (h1 : v % 2 = 1) :
    s.swReset seat v rn = (s.told seat v).flushRecorder.dieReset 5 true none false rn := by
  rw [State.swReset_asked hk (by unfold slice; omega)]
  exact if_pos (by simp [bit, h1])

theorem State.swReset_core {n : Nat} (hn : n < 4) (hk : slice v 24 8 = 0xA5) (hs : slice v 0 6 = 2 ^ (1 + n)) :
    s.swReset seat v rn = (s.told seat v).coreReset n 5 := by
  rw [State.swReset_asked hk (hs ▸ (Nat.two_pow_pos _).ne')]
  have hbits : ((List.range 4).filter fun k => bit v (1 + k)) = [n] ∧ bit v 0 = false ∧ bit v 5 = false := by
    have hb : ((List.range 4).filter fun k => bit v (1 + k)) = (List.range 4).filter fun k => bit (2 ^ (1 + n)) (1 + k) :=
      List.filter_congr fun k hk' => by rw [bit_of_slice (by have := List.mem_range.mp hk'; omega), hs]
    rw [hb, bit_of_slice (k := 0) (by decide), bit_of_slice (k := 5) (by decide), hs]
    interval_cases n <;> decide
  obtain ⟨hl, h0, h5⟩ := hbits
  simp [hl, h0, h5]

theorem State.swReset_streams (hk : slice v 24 8 = 0xA5) (hs : slice v 0 6 = 32) (hd : (s.told seat v).dev ≠ .recovery) :
    s.swReset seat v rn = (s.told seat v).askStreamReset := by
  rw [State.swReset_asked hk (by omega)]
  have hbits : ((List.range 4).filter fun k => bit v (1 + k)) = [] ∧ bit v 0 = false ∧ bit v 5 = true := by
    have hb : ((List.range 4).filter fun k => bit v (1 + k)) = (List.range 4).filter fun k => bit 32 (1 + k) :=
      List.filter_congr fun k hk' => by rw [bit_of_slice (by have := List.mem_range.mp hk'; omega), hs]
    rw [hb, bit_of_slice (k := 0) (by decide), bit_of_slice (k := 5) (by decide), hs]
    decide
  obtain ⟨hl, h0, h5⟩ := hbits
  simp [hl, h0, h5, hd]

/-! ### Cores, streams and islands (R492, R493, R496) -/

theorem State.coreReset_running {n : Nat} (hd : s.dev ≠ .recovery) (source : Nat) :
    s.coreReset n source = s.holdCore n .off source := if_neg hd

theorem State.coreReset_recovery {n : Nat} (hd : s.dev = .recovery) (source : Nat) : s.coreReset n source = s := if_pos hd

theorem State.askStreamReset_now (ha : s.img.apply = none) : s.askStreamReset = s.streamReset := by
  rw [State.askStreamReset, ha]
  exact if_neg Bool.false_ne_true

theorem State.forceRelease_left {i : Nat} (h : s.islandOff i = true ∨ s.fld .rstIslands [] i 1 = 1) :
    s.forceRelease i = s := if_pos (by simpa using h)

theorem State.forceRelease_held {i : Nat} (ho : s.islandOff i = false) (hf : s.fld .rstIslands [] i 1 ≠ 1) :
    s.forceRelease i =
      let t := (s.setFld .rstIslands [] (16 + i) 1 1).flagLog .rstPwrErr [] 5
        { errorRec 1 with status := Code.clockFault, arg0 := n64 i }
      if i < 4 then (t.setFlag .coreErr [i] 3).updCore i fun c => { c with st := .clockFault, reloading := false } else t :=
  if_neg (by simp [ho, hf])

end

/-- Settles O53: each source by its scope, SW_RESET by its key and requests, and a die reset by what R491 lists. -/
theorem dieResets : Obligations.DieResets := by
  refine ⟨fun s rn bv rail => ⟨rfl, rfl, rfl, rfl, rfl, rfl, rfl, fun h => congrArg Host.Outcome.next (if_pos h),
      fun h => congrArg Host.Outcome.next (if_neg (by simp [h]))⟩,
    fun s rn n => ⟨fun hd => ⟨congrArg Host.Outcome.next (State.coreReset_running hd 6),
        congrArg Host.Outcome.next (if_neg hd), congrArg Host.Outcome.next (State.coreReset_running hd 8)⟩,
      fun hd => ⟨congrArg Host.Outcome.next (State.coreReset_recovery hd 6), congrArg Host.Outcome.next (if_pos hd),
        congrArg Host.Outcome.next (State.coreReset_recovery hd 8)⟩⟩,
    fun s seat v rn => ⟨fun hk => ?unkeyed, fun hk h0 => ?none,
      fun hk h1 => congrArg Host.Outcome.next (State.swReset_die hk h1),
      fun n hk hs => congrArg Host.Outcome.next (State.swReset_core n.isLt hk hs),
      fun hk hs hd => congrArg Host.Outcome.next (State.swReset_streams hk hs hd)⟩,
    fun s a ha hp => State.askStreamReset_waits ha hp, fun s ha => State.askStreamReset_now ha,
    fun s cause warm rail ff rn => ?leaves,
    fun s i => ⟨fun h => congrArg Host.Outcome.next (State.forceRelease_left h),
      fun ho hf => congrArg Host.Outcome.next (State.forceRelease_held ho hf)⟩⟩
  case unkeyed =>
    exact ⟨congrArg Host.Outcome.next (State.swReset_unkeyed hk), congrArg Host.Outcome.next (State.swReset_unkeyed hk),
      congrArg Host.Outcome.next (State.swReset_unkeyed hk)⟩
  case none =>
    exact ⟨congrArg Host.Outcome.next (State.swReset_none hk h0), congrArg Host.Outcome.next (State.swReset_none hk h0),
      congrArg Host.Outcome.next (State.swReset_none hk h0)⟩
  case leaves =>
    obtain ⟨hdev, hboot, hback, himg, hledg, hsched, hcam, hcap, htrain, hnet, hsec, hpend, hslot, hmem, hconns, hmem0,
      hmem1, hcount, hlist, hqueue, hhold, hwait, hsupp, hsafe, hlink⟩ := s.dieReset_leaves cause warm rail ff rn _ rfl
    refine ⟨hdev, hboot, hback, himg, hledg, hsched, hcam, hcap, htrain, hnet, hsec, hpend, hslot, hmem, hconns, hmem0,
      hmem1, hcount, hlist, hqueue, hhold, hwait, hsupp, hsafe, hlink, ?_⟩
    rintro rfl rfl
    exact s.dieReset_cold_regs cause ff rn

end Sys2Proof.Machine

/-! PROOFS. The steps of bring-up, in order (O54). -/

namespace Sys2Proof.Machine

/-! ### Trims, options and the causes of recovery (R501 to R505) -/

section
variable (s : State) (equal : List Bool)

theorem State.loadTrims_agrees : (s.loadTrims equal).2 = (equal.take 4).any id := by
  have h : (equal.take 4).any id = ((equal.take 4).findIdx? id).isSome := by rw [List.findIdx?_isSome]
  rw [h]
  exact Option.isSome_map

theorem State.loadTrims_shown : (s.loadTrims equal).1.fld .rstTrimStatus [] 0 3 =
    (((equal.take 4).findIdx? id).map (· + 1)).getD 4 := by
  have hsmall : (((equal.take 4).findIdx? id).map (· + 1)).getD 4 < 2 ^ 3 := by
    cases hf : (equal.take 4).findIdx? id with
    | none => decide
    | some n =>
      have hn := (List.findIdx?_eq_some_iff_findIdx_eq.mp hf).1
      have h4 : (equal.take 4).length ≤ 4 := by simp
      simp only [Option.map_some, Option.getD_some]
      omega
  refine (State.fld_setFld_apart _ _ _ _ _ _ _ _ (by decide) (by decide)).trans ?_
  rw [State.fld_setFld_same _ _ _ _ _ _ (by decide), Nat.mod_eq_of_lt hsmall]

/-- The state once the trims and the options are loaded. -/
def State.supplied : State :=
  let u := ((s.loadTrims equal).1.loadOptions).1
  let u := u.setFld .rstBoot [] 4 3 (Opt.bootLimit u.boot.option)
  { u with boot := { u.boot with step := 5 } }

/-- The first cause of recovery that holds. -/
def State.recoveryCause (t : State) (trims : Bool) (options : Option Nat) : Option Nat :=
  if t.fld .rstBootStatus [] 11 1 = 1 then some Code.recoveryStrap
  else if Opt.bootLimit t.boot.option < t.backup.attempts then some Code.bootLimit
  else if !trims then some Code.trimFailure
  else options

theorem State.supplyGood_due (h : s.boot.step = 2) : s.supplyGood equal =
    ((s.supplied equal).recoveryCause (s.loadTrims equal).2 ((s.loadTrims equal).1.loadOptions).2).elim
      (s.supplied equal) (s.supplied equal).enterRecovery := by
  have hsplit (o : Option Nat) (t : State) : (match o with
      | some c => t.enterRecovery c
      | none => t) = o.elim t t.enterRecovery := by cases o <;> rfl
  exact (if_neg (not_not_intro h)).trans (hsplit _ _)

end

/-! ### The three copies of the options (R505) -/

section
variable {r q p : Bytes}

theorem chooseOption_two (hr : Opt.valid r = true) :
    chooseOption [r, r, p] = .ok (r, if p = r then [0, 1, 2] else [0, 1]) := by
  by_cases hpr : p = r
  · subst hpr
    simp [chooseOption, List.zipIdx, hr]
  · cases hp : Opt.valid p <;> simp [chooseOption, List.zipIdx, hr, hp, hpr]

theorem chooseOption_one (hr : Opt.valid r = true) (hq : Opt.valid q = false) (hp : Opt.valid p = false) :
    chooseOption [q, r, p] = .ok (r, [1]) := by
  simp [chooseOption, List.zipIdx, hr, hq, hp]

theorem chooseOption_divergent (hr : Opt.valid r = true) (hq : Opt.valid q = true) (hp : Opt.valid p = false)
    (hne : q ≠ r) : chooseOption [r, q, p] = .error Code.optionDivergence := by
  simp [chooseOption, List.zipIdx, hr, hq, hp, hne, hne.symm]

theorem chooseOption_none (hr : Opt.valid r = false) (hq : Opt.valid q = false) (hp : Opt.valid p = false) :
    chooseOption [r, q, p] = .error Code.optionNone := by
  simp [chooseOption, List.zipIdx, hr, hq, hp]

end

/-! ### Clocks (R496, R500) -/

section
variable {s : State}

theorem State.clocksDone_all (h5 : s.boot.step = 5) (hd : s.dev ≠ .recovery)
    (hall : ∀ i, i < 15 → s.fld .rstIslands [] i 1 = 1) :
    s.clocksDone = { s with boot := { s.boot with step := 6 } } := by
  have hgood : ((List.range 15).all fun i => s.islandOff i || s.fld .rstIslands [] i 1 == 1) = true := by
    rw [List.all_eq_true]
    intro i hi
    simp [hall i (List.mem_range.mp hi)]
  exact (if_neg (by simp only [h5, hgood]; decide)).trans (if_neg hd)

theorem State.clocksDone_wait (hd : s.dev ≠ .recovery) {i : Nat} (hi : i < 15) (hf : s.fld .rstIslands [] i 1 ≠ 1) :
    s.clocksDone = s := by
  refine if_pos (.inr ?_)
  rw [Bool.not_eq_true', ← Bool.not_eq_true, List.all_eq_true]
  intro h
  have hoff : s.islandOff i = false := by simp [State.islandOff, hd]
  have := h i (List.mem_range.mpr hi)
  simp [hoff, hf] at this

/-! ### Firmware, memory and links (R501, R544, R446) -/

theorem State.firmwareVerified_left (h : s.boot.step ≠ 6 ∨ s.boot.failed = true) : s.firmwareVerified = s := if_pos h

section
variable (h6 : s.boot.step = 6) (hf : s.boot.failed = false)
include h6 hf

theorem State.firmwareVerified_bad (hv : Fw.valid s.flash.firmware = false) :
    s.firmwareVerified = s.bootFails Code.firmwareInvalid :=
  (if_neg (by simp [h6, hf])).trans (if_pos (by simp [hv]))

theorem State.firmwareVerified_good (hv : Fw.valid s.flash.firmware = true) : s.firmwareVerified = ({ s with
    boot := { s.boot with step := 7, fwVersion := n32 (Fw.version s.flash.firmware), fwHash := sha512 s.flash.firmware }
    sec := { s.sec with root := some (Fw.keyBlock s.flash.firmware) } } : State).loadAddress :=
  (if_neg (by simp [h6, hf])).trans (if_neg (by simp [hv]))

end

/-- Memory trains, or its values of before a warm reset stand. -/
def State.trains (s : State) (channels : Nat) : Prop := 32 ≤ channels ∨ s.boot.warm = true ∧ s.backup.trained = true

theorem State.trains_iff (channels : Nat) :
    (decide (32 ≤ channels) || (s.boot.warm && s.backup.trained)) = true ↔ s.trains channels := by
  simp [State.trains]

section
variable {channels : Nat} (h7 : s.boot.step = 7) (hf : s.boot.failed = false)
include h7 hf

theorem State.memoryTrained_good (hd : s.dev ≠ .recovery) (hg : s.trains channels) : s.memoryTrained channels =
    { s.memoryUp.sendFieldReset with boot := { s.memoryUp.sendFieldReset.boot with step := 9 } } :=
  (if_neg (by simp [h7, hf])).trans ((if_neg hd).trans (if_neg (by
    rw [Bool.not_eq_true', Bool.not_eq_false]
    exact State.trains_iff channels |>.mpr hg)))

theorem State.memoryTrained_fails (hd : s.dev ≠ .recovery) (hg : ¬s.trains channels) : s.memoryTrained channels =
    (s.setFld .memStatus [] 1 6 channels).bootFails Code.memoryTraining :=
  (if_neg (by simp [h7, hf])).trans ((if_neg hd).trans (if_pos (by
    rw [Bool.not_eq_true', ← Bool.not_eq_true]
    exact mt (State.trains_iff channels).mp hg)))

theorem State.memoryTrained_recovery (hd : s.dev = .recovery) : s.memoryTrained channels =
    (fun t : State => { t with boot := { t.boot with step := 0 } })
      (if (decide (32 ≤ channels) || (s.boot.warm && s.backup.trained)) = true then s.memoryUp else s).sendFieldReset :=
  (if_neg (by simp [h7, hf])).trans (if_pos hd)

end

theorem State.bootComplete_left {up : Bool} (h : s.boot.step ≠ 9 ∨ s.boot.failed = true ∨ s.dev ≠ .boot) :
    s.bootComplete up = s := if_pos h

section
variable (h9 : s.boot.step = 9) (hf : s.boot.failed = false) (hd : s.dev = .boot)
include h9 hf hd

theorem State.bootComplete_guard : ¬(s.boot.step ≠ 9 ∨ s.boot.failed = true ∨ s.dev ≠ .boot) := by simp [h9, hf, hd]

theorem State.bootComplete_down : s.bootComplete false = s.bootFails Code.internal :=
  (if_neg (State.bootComplete_guard h9 hf hd)).trans (if_pos rfl)

theorem State.bootComplete_up : s.bootComplete true = (({ s with
    boot := { s.boot with step := 0 }
    backup := { s.backup with attempts := 0 }
    img := { s.img with autoLoad := if Opt.autoLoad s.boot.option then 1 else 0 } } : State).setFld
      .rstBootStatus [] 13 1 1).setDev .idle :=
  (if_neg (State.bootComplete_guard h9 hf hd)).trans (if_neg Bool.false_ne_true)

end

end

/-! ### A write into memory does not meet the keys (R436) -/

/-- A state with another key store. -/
def State.withSec (s : State) (x : SecState) : State := { s with sec := x }

section
variable (s : State) (x : SecState)

theorem State.withSec_setFlag (r : RN) (ix : List Nat) (b : Nat) :
    (s.withSec x).setFlag r ix b = (s.setFlag r ix b).withSec x := by
  unfold State.setFlag
  split <;> rfl

theorem State.withSec_countDrop (n : Nat) : (s.withSec x).countDrop n = (s.countDrop n).withSec x := rfl

theorem State.withSec_enqueueRec (r : EvRec) : (s.withSec x).enqueueRec r = (s.enqueueRec r).withSec x := by
  unfold State.enqueueRec
  have hq : (s.withSec x).rec' = s.rec' := rfl
  rw [hq, State.withSec_setFlag]
  split
  · rfl
  · have hq' : ((s.setFlag .evrFlags [] 4).withSec x).rec' = (s.setFlag .evrFlags [] 4).rec' := rfl
    dsimp only
    rw [hq']
    split <;> rfl

theorem State.withSec_log (r : EvRec) : (s.withSec x).log r = (s.log r).withSec x := State.withSec_enqueueRec s x _

theorem State.withSec_flagLog (r : RN) (ix : List Nat) (b : Nat) (e : EvRec) :
    (s.withSec x).flagLog r ix b e = (s.flagLog r ix b e).withSec x := by
  rw [State.flagLog, State.withSec_setFlag, State.withSec_log, State.flagLog]

theorem State.withSec_count (r : RN) (ix : List Nat) (n : Nat) :
    (s.withSec x).count r ix n = (s.count r ix n).withSec x := rfl

theorem State.withSec_setReg (r : RN) (ix : List Nat) (v : Nat) :
    (s.withSec x).setReg r ix v = (s.setReg r ix v).withSec x := rfl

theorem State.withSec_poke (a : Nat) (d : Bytes) : (s.withSec x).poke a d = (s.poke a d).withSec x := rfl

theorem State.withSec_noteUe (g : Nat) (scrub : Bool) (who : Nat) :
    (s.withSec x).noteUe g scrub who = (s.noteUe g scrub who).withSec x := by
  have hregion : (s.withSec x).regionOf g = s.regionOf g := rfl
  simp only [State.noteUe, hregion, State.withSec_count, State.withSec_setReg, State.withSec_flagLog]

/-- A granule's uncorrectable error is over: it is not bad, and when it was rewritten is known. -/
def State.rewritten (g : Nat) : State :=
  { s with mc := { s.mc with bad := s.mc.bad.filter (· != g), rewritten := Tab.put s.mc.rewritten g s.now } }

theorem State.withSec_rewritten (g : Nat) : (s.withSec x).rewritten g = (s.rewritten g).withSec x := rfl

theorem State.reportUe_eq (g who : Nat) : s.reportUe g who = ((if (s.noteUe g false who).badAgain g then
    (s.noteUe g false who).flagLog .memErr [] 3 { critical 7 with status := Code.memoryUncorrectable, arg0 := n64 g }
    else s.noteUe g false who).poke g (List.replicate 64 0)).rewritten g := by
  delta State.reportUe State.rewritten
  dsimp only

theorem State.withSec_reportUe (g who : Nat) : (s.withSec x).reportUe g who = (s.reportUe g who).withSec x := by
  rw [State.reportUe_eq, State.reportUe_eq, State.withSec_noteUe, ← State.withSec_rewritten, ← State.withSec_poke]
  generalize s.noteUe g false who = u
  have hbad : (u.withSec x).badAgain g = u.badAgain g := rfl
  rw [hbad, State.withSec_flagLog, ← apply_ite (State.withSec · x)]

theorem State.withSec_storeGranules (a : Nat) (d : Bytes) (gs : List Nat) :
    (s.withSec x).storeGranules a d gs = (s.storeGranules a d gs).withSec x := by
  induction gs generalizing s with
  | nil => rfl
  | cons g gs ih =>
    have hmc : (s.withSec x).mc = s.mc := rfl
    have hset (m : McState) : ({ s.withSec x with mc := m } : State) = ({ s with mc := m } : State).withSec x := rfl
    simp only [State.storeGranules, hmc]
    split
    · split
      · rw [hset, State.withSec_poke, ih]
      · rw [State.withSec_setFlag, State.withSec_reportUe, ih]
    · rw [State.withSec_poke, ih]

theorem State.withSec_store (a : Nat) (d : Bytes) : (s.withSec x).store a d = (s.store a d).withSec x := by
  have hbad : (s.withSec x).badIn a d.length = s.badIn a d.length := rfl
  unfold State.store
  rw [hbad]
  split
  · rfl
  · exact State.withSec_storeGranules ..

end

/-! ### The automatic load (R65) -/

theorem State.slotCopied_left {s : State} (h : s.img.autoLoad ≠ 1 ∨ s.dev ≠ .idle) : s.slotCopied = s := if_pos h

theorem State.slotCopied_empty {s : State} (ha : s.img.autoLoad = 1) (hd : s.dev = .idle) (hs : s.flash.slot = []) :
    s.slotCopied = s.autoFail Code.imageFormat :=
  (if_neg (by simp [ha, hd])).trans (if_pos (by simp [hs]))

/-- The slot's image lies in the staging region and its verification runs, whatever became of its key block. -/
theorem State.slotCopied_image {s : State} (ha : s.img.autoLoad = 1) (hd : s.dev = .idle) (hs : s.flash.slot ≠ []) :
    ∃ x : SecState, s.slotCopied = { (s.store (halfBase s.stagingHalf) s.flash.slot).withSec x with
      img := { s.img with
        staging := .verifying, staged := none, verify := some ⟨none, s.flash.slot.length⟩, autoLoad := 2 } } := by
  have hcopy (x : SecState) (u : State) (hu : u = s.withSec x) :
      ({ u.store (halfBase u.stagingHalf) s.flash.slot with img := {
        (u.store (halfBase u.stagingHalf) s.flash.slot).img with
        staging := .verifying, staged := none, verify := some ⟨none, s.flash.slot.length⟩, autoLoad := 2 } } : State) =
      { (s.store (halfBase s.stagingHalf) s.flash.slot).withSec x with
        img := { s.img with
          staging := .verifying, staged := none, verify := some ⟨none, s.flash.slot.length⟩, autoLoad := 2 } } := by
    have hhalf : (s.withSec x).stagingHalf = s.stagingHalf := rfl
    have himg : ((s.store (halfBase s.stagingHalf) s.flash.slot).withSec x).img = s.img := State.store_img ..
    rw [hu, hhalf, State.withSec_store, himg]
  rw [State.slotCopied, if_neg (by simp [ha, hd])]
  dsimp only
  rw [if_neg (by simp [hs])]
  split
  · exact ⟨_, hcopy _ _ rfl⟩
  · exact ⟨s.sec, hcopy _ _ rfl⟩

/-- Settles O54: each step when it is due, by what it finds. -/
theorem bringUp : Obligations.BringUp := by
  refine ⟨fun s equal => ⟨fun h => congrArg Host.Outcome.next (if_pos h), fun h => ?supply⟩,
    fun s equal => ⟨s.loadTrims_agrees equal, ?trims⟩,
    fun r q p hr => ⟨chooseOption_two hr, chooseOption_one hr, chooseOption_divergent hr, fun x hx hp hq =>
      chooseOption_none hx hq hp⟩,
    fun s i => ⟨fun h => congrArg Host.Outcome.next (if_pos h), fun h hi => ?core, fun h hi => ?island⟩,
    fun s n h => if_pos h,
    fun s h5 hd => ⟨State.clocksDone_all h5 hd, fun i hi hf => State.clocksDone_wait hd hi hf⟩,
    fun s => ⟨fun h => congrArg Host.Outcome.next (State.firmwareVerified_left h), fun h6 hf => ?firmware⟩,
    fun s channels => ⟨fun h => congrArg Host.Outcome.next (if_pos h), fun h7 hf => ?memory⟩,
    fun s up => ⟨fun h => congrArg Host.Outcome.next (State.bootComplete_left h), fun h9 hf hd =>
      ⟨congrArg Host.Outcome.next (State.bootComplete_down h9 hf hd),
        congrArg Host.Outcome.next (State.bootComplete_up h9 hf hd)⟩⟩,
    fun s => ⟨fun h => congrArg Host.Outcome.next (State.slotCopied_left h),
      fun ha hd hs => congrArg Host.Outcome.next (State.slotCopied_empty ha hd hs), fun ha hd hs => ?slot⟩⟩
  case supply =>
    intro a b u t strap tried
    have hdue {o : Option Nat} (ho : t.recoveryCause a.2 b.2 = o) :
        exec (.supplyGood equal) s = .next (o.elim t t.enterRecovery) :=
      congrArg Host.Outcome.next ((s.supplyGood_due equal h).trans (congrArg (fun o : Option Nat =>
        o.elim t t.enterRecovery) ho))
    exact ⟨fun hs => hdue (if_pos hs), fun hs ht => hdue ((if_neg hs).trans (if_pos ht)),
      fun hs ht ha => hdue ((if_neg hs).trans ((if_neg ht).trans (if_pos (by simp [ha])))),
      fun hs ht ha e hb => hdue ((if_neg hs).trans ((if_neg ht).trans ((if_neg (by simp [ha])).trans hb))),
      fun hs ht ha hb => hdue ((if_neg hs).trans ((if_neg ht).trans ((if_neg (by simp [ha])).trans hb)))⟩
  case trims =>
    rw [s.loadTrims_shown equal]
    cases (equal.take 4).findIdx? id <;> rfl
  case core => exact congrArg Host.Outcome.next ((if_neg (by simp [h])).trans (congrArg State.clocksDone (if_pos hi)))
  case island =>
    exact congrArg Host.Outcome.next ((if_neg (by simp [h])).trans (congrArg State.clocksDone (if_neg hi.not_gt)))
  case firmware =>
    exact ⟨fun hv => congrArg Host.Outcome.next (State.firmwareVerified_bad h6 hf hv),
      fun hv => congrArg Host.Outcome.next (State.firmwareVerified_good h6 hf hv)⟩
  case memory =>
    refine ⟨fun hd hg => congrArg Host.Outcome.next (State.memoryTrained_good h7 hf hd hg),
      fun hd hg => congrArg Host.Outcome.next (State.memoryTrained_fails h7 hf hd hg), fun hd hg => ?_, fun hd hg => ?_⟩
    all_goals refine congrArg Host.Outcome.next ((State.memoryTrained_recovery h7 hf hd).trans ?_)
    · rw [if_pos ((State.trains_iff channels).mpr hg)]
    · rw [if_neg (mt (State.trains_iff channels).mp hg)]
  case slot =>
    obtain ⟨x, hx⟩ := State.slotCopied_image ha hd hs
    refine ⟨_, congrArg Host.Outcome.next hx, rfl, rfl, ?_⟩
    have hsec : (s.store (halfBase s.stagingHalf) s.flash.slot).sec = s.sec := State.store_sec ..
    have himg : (s.store (halfBase s.stagingHalf) s.flash.slot).img = s.img := State.store_img ..
    rw [← hsec, ← himg]
    rfl

end Sys2Proof.Machine

/-! PROOFS. Options are committed, and clocks, temperatures and supplies are watched (O55). -/

namespace Sys2Proof.Machine

/-! ### Options changed by a seat (R506, R507, R512) -/

/-- The record that COMMIT would write: the window, with the KEYS area of the record in use. -/
def State.nextOption (s : State) : Bytes :=
  Opt.next (spliceBytes (bytesAt s.boot.window 0 1024) 0x100 (bytesAt s.boot.option 0x100 764)) (Opt.seq s.boot.option)

section
variable {s : State}

theorem State.commitOptions_busy (h : s.boot.commit.isSome = true) :
    s.commitOptions = s.setFld .rstOptStatus [] 8 8 Code.optionBusy := if_pos h

theorem State.revertOptions_busy (h : s.boot.commit.isSome = true) :
    s.revertOptions = s.setFld .rstOptStatus [] 8 8 Code.optionBusy := if_pos h

theorem State.revertOptions_free (h : s.boot.commit = none) :
    s.revertOptions = { s with boot := { s.boot with window := s.boot.option } } := if_neg (by simp [h])

theorem State.commitOptions_free (h : s.boot.commit = none) :
    s.commitOptions = if !Opt.reservedOk s.nextOption then s.setFld .rstOptStatus [] 8 8 Code.fieldReserved
      else if !Opt.fieldsOk s.nextOption then s.setFld .rstOptStatus [] 8 8 Code.optionFormat
      else s.startCommit s.nextOption none := if_neg (by simp [h])

theorem State.commitOptions_reserved (h : s.boot.commit = none) (hr : Opt.reservedOk s.nextOption = false) :
    s.commitOptions = s.setFld .rstOptStatus [] 8 8 Code.fieldReserved :=
  (State.commitOptions_free h).trans (if_pos (by simp [hr]))

theorem State.commitOptions_format (h : s.boot.commit = none) (hr : Opt.reservedOk s.nextOption = true)
    (hf : Opt.fieldsOk s.nextOption = false) : s.commitOptions = s.setFld .rstOptStatus [] 8 8 Code.optionFormat := by
  rw [State.commitOptions_free h, if_neg (by simp [hr]), if_pos (by simp [hf])]

theorem State.commitOptions_starts (h : s.boot.commit = none) (hr : Opt.reservedOk s.nextOption = true)
    (hf : Opt.fieldsOk s.nextOption = true) : s.commitOptions = s.startCommit s.nextOption none := by
  rw [State.commitOptions_free h, if_neg (by simp [hr]), if_neg (by simp [hf])]

theorem State.copiesWritten_none (h : s.boot.commit = none) : s.copiesWritten = s := by
  unfold State.copiesWritten
  rw [h]

theorem State.copiesWritten_some {k : OptCommit} (h : s.boot.commit = some k) : s.copiesWritten = (((({ s with
      boot := { s.boot with option := k.record, window := k.record, commit := none }
      flash := { s.flash with options := [k.record, k.record, k.record] } } : State).setFld .rstOptStatus [] 7 1
        0).setFld .rstOptStatus [] 8 8 Code.ok)).answer k.by' Code.ok 0
          ((k.slot.map fun n => Keys.epoch k.record n).getD 0) := by
  unfold State.copiesWritten
  rw [h]
  rfl

end

/-! ### Operating points and throttling (R497, R499, R500) -/

theorem SchedState.setCore_core (t : SchedState) (n : Nat) : t.setCore n (t.core n) = t :=
  match n with
  | 0 => rfl
  | 1 => rfl
  | 2 => rfl
  | _ + 3 => rfl

theorem State.updCore_fixed {s : State} {n : Nat} {f : Core → Core} (h : f (s.sched.core n) = s.sched.core n) :
    s.updCore n f = s := by
  rw [State.updCore, h, SchedState.setCore_core]

/-- A core at its new clock. -/
theorem State.operatingPoint_done {s : State} {n : Nat} (h : (s.sched.core n).mhz ≠ 0) :
    (s.updCore n fun c => if c.mhz = 0 then c else { c with mhz := c.targetMhz }) =
      s.updCore n fun c => { c with mhz := c.targetMhz } := by
  rw [State.updCore, State.updCore, if_neg h]

theorem State.operatingPoint_kept {s : State} {n : Nat}
    (h : (s.sched.core n).mhz = 0 ∨ (s.sched.core n).targetMhz = (s.sched.core n).mhz) :
    (s.updCore n fun c => if c.mhz = 0 then c else { c with mhz := c.targetMhz }) = s := by
  refine State.updCore_fixed ?_
  split
  · rfl
  · next hz =>
    have hmhz := h.resolve_left hz
    cases hc : s.sched.core n
    rw [hc] at hmhz
    cases hmhz
    rfl

section
variable (c : Core) (mode : Nat)

theorem Core.throttleStep_free {clear : Bool} (h : c.throttled = false) : c.throttleStep mode false clear = c := by
  simp [Core.throttleStep, h]

theorem Core.throttleStep_unclear (h : c.throttled = true) :
    c.throttleStep mode false false = { c with clearMs := 0 } := by
  simp [Core.throttleStep, h]

theorem Core.throttleStep_counts (h : c.throttled = true) (hc : c.clearMs < 100) :
    c.throttleStep mode false true = { c with clearMs := c.clearMs + 1 } := by
  simp [Core.throttleStep, h, hc]

theorem Core.throttleStep_recovers (h : c.throttled = true) (hc : 100 ≤ c.clearMs) :
    c.throttleStep mode false true = { c.retune (min mode (c.targetMhz + 50)) with
      throttled := decide (min mode (c.targetMhz + 50) < mode) } := by
  have hc' : ¬c.clearMs < 100 := by omega
  simp [Core.throttleStep, Core.retune, h, hc']

end

/-- The temperatures that a check has measured are shown. -/
def State.showTemps (s : State) (tj : List Int) (plate : Int) : State :=
  (List.range 4).foldl (fun u n => u.setFld .rstTempCore [] (8 * n) 8 (toUnsigned 8 (tj.getD n 0)))
    (s.setFld .rstTempPlate [] 0 16 (toUnsigned 16 plate))

/-- Showing the temperatures leaves alone what writing a register's field does. -/
theorem State.showTemps_kept {β : Type} (g : State → β)
    (hg : ∀ (t : State) r ix lo w x, g (t.setFld r ix lo w x) = g t) (s : State) (tj : List Int) (plate : Int) :
    g (s.showTemps tj plate) = g s :=
  (State.foldl_kept
    (f := fun (u : State) n => u.setFld .rstTempCore [] (8 * n) 8 (toUnsigned 8 (tj.getD n 0)))
    g (fun _ _ => hg ..) _ _).trans (hg ..)

/-- The three conditions of the check, as THROTTLE shows them. -/
def State.showLimits (s : State) (power plate hot : Bool) : State :=
  ((s.setFld .rstThrottle [] 4 1 (b2n power)).setFld .rstThrottle [] 5 1 (b2n plate)).setFld .rstThrottle [] 6 1 (b2n hot)

theorem State.showLimits_sched (s : State) (power plate hot : Bool) : (s.showLimits power plate hot).sched = s.sched := by
  simp [State.showLimits]

/-- No junction is too hot for throttling. -/
theorem junctions_cool {tj : List Int} (h : ∀ t ∈ tj, t ≤ 105) (n : Nat) : tj.getD n 0 ≤ 105 := by
  rcases Nat.lt_or_ge n tj.length with hn | hn
  · rw [List.getD_eq_getElem _ _ hn]
    exact h _ (List.getElem_mem hn)
  · rw [List.getD_eq_default _ _ hn]
    decide

/-- With nothing above its limit and no core slowed, a check only shows what it measured. -/
theorem State.throttleCheck_cool {s : State} {tj : List Int} {plate : Int} {power : Nat} (hd : s.dev ≠ .recovery)
    (hj : ∀ t ∈ tj, t ≤ 105) (hp : power ≤ s.img.power.limits.1) (hpl : plate ≤ s.img.power.limits.2)
    (hth : ∀ n, (s.sched.core n).throttled = false) :
    s.throttleCheck tj plate power = (s.showTemps tj plate).showLimits false false false := by
  have hdev : (s.showTemps tj plate).dev ≠ .recovery := by rwa [State.showTemps_kept State.dev State.setFld_dev]
  have himg : (s.showTemps tj plate).img = s.img := State.showTemps_kept State.img State.setFld_img ..
  have hsched : ((s.showTemps tj plate).showLimits false false false).sched = s.sched :=
    (State.showLimits_sched ..).trans (State.showTemps_kept State.sched State.setFld_sched ..)
  have hhot (n : Nat) : decide (105 < tj.getD n 0) = false := decide_eq_false (not_lt.2 (junctions_cool hj n))
  have hP : decide (s.img.power.limits.1 < power) = false := decide_eq_false (by omega)
  have hT : decide (s.img.power.limits.2 < plate) = false := decide_eq_false (by omega)
  have hfree (n : Nat) : (((s.showTemps tj plate).showLimits false false false).sched.core n).throttled = false := by
    rw [hsched]
    exact hth n
  have hany : (List.range 4).any (fun _ => false) = false := rfl
  unfold State.throttleCheck
  dsimp only
  rw [← State.showTemps, if_neg hdev]
  simp only [himg, hP, hT, hhot, hany]
  rw [← State.showLimits]
  generalize (s.showTemps tj plate).showLimits false false false = t at hfree
  rw [foldl_eq_of_fixed (b := t) (l := List.range 4) fun n _ => State.updCore_fixed
    (Core.throttleStep_free _ _ (hfree n)), foldl_eq_of_fixed]
  · exact if_neg (by simp [hfree])
  · intro n _
    exact if_neg (by have := junctions_cool hj n; omega)

theorem State.overtemp_off {s : State} {n : Nat} {t : Int} (h : (s.sched.core n).hotOff = true) : s.overtemp n t = s :=
  if_pos h

theorem State.overtemp_on {s : State} {n : Nat} {t : Int} (h : (s.sched.core n).hotOff = false) :
    s.overtemp n t = (((s.fence n).updCore n fun c => { c with
      st := .off, cmd := none, sets := [], lostSets := [], stalled := 0, reloading := false, hotOff := true
      resetSince := false, mhz := 0 }).setFld .rstIslands [] n 1 0).flagLog .rstPwrErr [] 3
        { critical 1 with arg0 := n64 n, arg1 := n64 (toUnsigned 64 t) } := if_neg (by simp [h])

/-! ### Supplies (R498, R503) -/

/-- What a measurement of the supplies shows. -/
def State.showSupplies (s : State) (mv dw : Nat) (rails : List Nat) : State :=
  (List.range 8).foldl (fun u n => u.setReg .rstRail [n]
      (sat (rails.getD n 0) 65535 + b2n (u.railOk n (rails.getD n 0)) * 65536))
    (s.setReg .rstJ1 [] (sat mv 65535 + sat dw 65535 * 65536))

section
variable (s : State) (mv dw : Nat) (rails : List Nat)

/-- A warning comes where the supply passes a limit, not while it stays beyond it. -/
theorem State.supplyMeasure_eq : s.supplyMeasure mv dw rails =
    (let before := s.fld .rstJ1 [] 0 16
    let u := s.showSupplies mv dw rails
    let low := if mv < 17000 ∧ (17000 ≤ before ∨ before = 0) then
      u.flagLog .rstPwrErr [] 1 { warning 1 with arg0 := n64 mv } else u
    if 33000 < mv ∧ before ≤ 33000 then low.flagLog .rstPwrErr [] 2 { warning 1 with arg0 := n64 mv } else low) := by
  unfold State.supplyMeasure State.showSupplies
  dsimp only

end

/-- Settles O55: each event, by what it finds. -/
theorem optionsAndSupplies : Obligations.OptionsAndSupplies := by
  refine ⟨fun s seat => ⟨fun h => ⟨congrArg Host.Outcome.next (State.commitOptions_busy h),
      congrArg Host.Outcome.next (State.revertOptions_busy h)⟩,
      fun h hr => congrArg Host.Outcome.next (State.commitOptions_reserved h hr),
      fun h hr hf => congrArg Host.Outcome.next (State.commitOptions_format h hr hf),
      fun h hr hf => congrArg Host.Outcome.next (State.commitOptions_starts h hr hf),
      fun h => congrArg Host.Outcome.next (State.revertOptions_free h), rfl, fun _ => rfl⟩,
    fun s => ⟨fun h => congrArg Host.Outcome.next (State.copiesWritten_none h),
      fun k h => congrArg Host.Outcome.next (State.copiesWritten_some h)⟩,
    fun s n h => congrArg Host.Outcome.next (State.operatingPoint_kept h),
    fun s n h => congrArg Host.Outcome.next (State.operatingPoint_done h),
    fun c mode clear => ⟨rfl, rfl, Core.throttleStep_free c mode, Core.throttleStep_unclear c mode,
      Core.throttleStep_counts c mode, fun h hc => ?recovers⟩,
    fun s tj plate power hd hj hp hpl hth => congrArg Host.Outcome.next (State.throttleCheck_cool hd hj hp hpl hth),
    fun s n t => ⟨State.overtemp_off, State.overtemp_on⟩,
    fun s mv dw rails => ?supplies⟩
  case recovers =>
    rw [Core.throttleStep_recovers c mode h hc]
    exact ⟨rfl, rfl⟩
  case supplies =>
    have hexec : exec (.supplyMeasure mv dw rails) s = .next (s.supplyMeasure mv dw rails) := rfl
    dsimp only
    rw [hexec, State.supplyMeasure_eq]
    dsimp only
    rw [← State.showSupplies]
    refine ⟨fun hlo hhi => ?_, fun hlo hb => ?_, fun hlo hb hz => ?_, fun hhi hb => ?_, fun hhi hb => ?_⟩
    · rw [if_neg (by omega), if_neg (by omega)]
    · rw [if_neg (by omega), if_pos ⟨hlo, hb⟩]
    · rw [if_neg (by omega), if_neg (by omega)]
    · rw [if_pos ⟨hhi, hb⟩, if_neg (by omega)]
    · rw [if_neg (by omega), if_neg (by omega)]

end Sys2Proof.Machine

/-! PROOFS. Records take tokens, are coalesced, spilled and cleared (O57). -/

namespace Sys2Proof.Machine

/-! ### What the recorder keeps is not what a write into memory reports (R436, R524) -/

/-- What the recorder has accepted: the records on chip, the index of the spill ring and the next SEQ. -/
def State.accepted (s : State) : List EvRec × List (Nat × Nat × Nat) × Nat :=
  (s.rec'.chip, s.rec'.ring, s.rec'.seqNext)

section
variable (s : State)

theorem State.accepted_of_rec {s t : State} (h : t.rec' = s.rec') : t.accepted = s.accepted := by
  rw [State.accepted, h, State.accepted]

theorem State.setFlag_accepted (r : RN) (ix : List Nat) (b : Nat) : (s.setFlag r ix b).accepted = s.accepted :=
  State.accepted_of_rec (State.setFlag_rec_ ..)

theorem State.countDrop_accepted (n : Nat) : (s.countDrop n).accepted = s.accepted := rfl

/-- The queue is no part of what is accepted. -/
theorem State.accepted_enqueued (q : List EvRec) :
    ({ s with rec' := { s.rec' with queue := q } } : State).accepted = s.accepted := rfl

theorem State.enqueueRec_accepted (r : EvRec) : (s.enqueueRec r).accepted = s.accepted := by
  unfold State.enqueueRec
  split
  · rfl
  · dsimp only
    split
    · exact (State.accepted_enqueued ..).trans ((State.countDrop_accepted ..).trans (State.setFlag_accepted ..))
    · exact (State.countDrop_accepted ..).trans (State.setFlag_accepted ..)

theorem State.log_accepted (r : EvRec) : (s.log r).accepted = s.accepted := State.enqueueRec_accepted ..

theorem State.flagLog_accepted (r : RN) (ix : List Nat) (b : Nat) (e : EvRec) :
    (s.flagLog r ix b e).accepted = s.accepted :=
  (State.log_accepted ..).trans (State.setFlag_accepted ..)

theorem State.noteUe_accepted (g : Nat) (scrub : Bool) (who : Nat) : (s.noteUe g scrub who).accepted = s.accepted :=
  (State.flagLog_accepted ..).trans rfl

theorem State.accepted_rewritten (g a : Nat) (d : Bytes) : ((s.poke a d).rewritten g).accepted = s.accepted := rfl

theorem State.reportUe_accepted (g who : Nat) : (s.reportUe g who).accepted = s.accepted := by
  rw [State.reportUe_eq]
  refine Eq.trans ?_ (s.noteUe_accepted g false who)
  generalize s.noteUe g false who = u
  refine (State.accepted_rewritten ..).trans ?_
  split
  · exact State.flagLog_accepted ..
  · rfl

theorem State.storeGranules_accepted (a : Nat) (d : Bytes) (gs : List Nat) :
    (s.storeGranules a d gs).accepted = s.accepted := by
  induction gs generalizing s with
  | nil => rfl
  | cons g gs ih =>
    simp only [State.storeGranules]
    split
    · split
      · exact ih _
      · exact (ih _).trans ((State.reportUe_accepted ..).trans (State.setFlag_accepted ..))
    · exact ih _

theorem State.store_accepted (a : Nat) (d : Bytes) : (s.store a d).accepted = s.accepted := by
  unfold State.store
  split
  · rfl
  · exact State.storeGranules_accepted ..

end

/-! ### Acceptance (R522, R524, R525) -/

/-- With room on chip a record of no snapshot class takes the next SEQ. -/
theorem State.accept_room {s : State} {r : EvRec} (hk : s.snapClass r = none) (hroom : s.onChip + r.size ≤ 8192) :
    s.accept r = some (
      let u : State := { s with rec' := { s.rec' with
        chip := s.rec'.chip ++ [{ r with seq := s.rec'.seqNext }], seqNext := s.rec'.seqNext + r.size } }
      if 4 ≤ r.severity then (u.exportRec { r with seq := s.rec'.seqNext }).raiseAll 0
        else u.exportRec { r with seq := s.rec'.seqNext }) := by
  have h0 : s.onChip + r.size - 8192 = 0 := by omega
  unfold State.accept
  rw [hk]
  dsimp only
  rw [h0, displaced, Option.map_some]
  simp only [List.contains_nil, Bool.not_false, List.filter_true]
  rfl

theorem State.acceptOrDrop_some {s t : State} {r : EvRec} (h : s.accept r = some t) : s.acceptOrDrop r = t := by
  unfold State.acceptOrDrop
  rw [h]

/-! ### Tokens, coalescing and floods (R528, R529) -/

section
variable {s : State}

theorem State.recordOne_empty (h : s.rec'.queue = []) : s.recordOne = s := by
  unfold State.recordOne
  rw [h]

theorem State.recordOne_cons {r : EvRec} {q : List EvRec} (h : s.rec'.queue = r :: q) : s.recordOne =
    (let u : State := { s with rec' := { s.rec' with queue := q } }
    let b := u.bucket r.key r.severity
    if 0 < b.tokens then ((u.setBucket { b with tokens := b.tokens - 1 }).floodCount r false).acceptOrDrop r
    else (u.setBucket (b.coalesce r)).floodCount r true) := by
  unfold State.recordOne
  rw [h]

theorem Bucket.coalesce_first {b : Bucket} {r : EvRec} (h : b.pending = none) : (b.coalesce r).pending =
    some { r with flags := r.flags ||| 0x02, count := 1, arg1 := r.time } := by
  unfold Bucket.coalesce
  rw [h]

theorem Bucket.coalesce_joins {b : Bucket} {r p : EvRec} (h : b.pending = some p) : (b.coalesce r).pending =
    some { p with count := min (p.count + 1) 0xFFFF, arg1 := r.time } := by
  unfold Bucket.coalesce
  rw [h]
  rfl

theorem State.refill_missing {i : Nat} (h : s.rec'.buckets[i]? = none) : s.refill i = s := by
  unfold State.refill
  rw [h]

section
variable {i : Nat} {b : Bucket} (hb : s.rec'.buckets[i]? = some b)
include hb

theorem State.refill_idle (hp : b.pending = none) : s.refill i =
    s.setBucket { b with tokens := min (b.tokens + 1) (s.burst b.severity) } := by
  unfold State.refill
  rw [hb]
  dsimp only
  rw [hp]

theorem State.refill_pending {p : EvRec} {t : State} (hp : b.pending = some p) (h0 : 0 < s.burst b.severity)
    (ha : s.accept p = some t) : s.refill i = t.setBucket { b with
      tokens := min (b.tokens + 1) (s.burst b.severity) - 1, pending := none } := by
  have htokens : decide (0 < min (b.tokens + 1) (s.burst b.severity)) = true := decide_eq_true (by omega)
  unfold State.refill
  rw [hb]
  dsimp only
  rw [hp, htokens]
  dsimp only
  rw [ha]

end

theorem State.floodEnd_missing {i : Nat} (h : s.rec'.floods[i]? = none) : s.floodEnd i = s := by
  unfold State.floodEnd
  rw [h]

section
variable {i : Nat} {f : Flood} (hf : s.rec'.floods[i]? = some f)
include hf

theorem State.floodEnd_goesOn (hq : s.keyQuiet f.key = false) : s.floodEnd i = s := by
  unfold State.floodEnd
  rw [hf]
  exact if_pos (by simp [hq])

theorem State.floodEnd_quiet (hq : s.keyQuiet f.key = true) : s.floodEnd i =
    ({ s with rec' := { s.rec' with floods := s.rec'.floods.eraseIdx i } } : State).acceptOrDrop
      { ev f.severity f.key.source with
        time := s.tb0, tb1 := n64 s.now, status := f.key.status, flags := 0x04, flagReg := f.key.flagReg
        flagBit := f.key.flagBit, arg0 := n64 f.total, arg1 := n64 ((s.now - f.start) / 1000) } := by
  unfold State.floodEnd
  rw [hf]
  exact if_neg (by simp [hq])

end

/-! ### The spill ring (R524) -/

theorem State.checkSpill_good (h : s.mc.bad = []) : s.checkSpill = s := by
  have hbad (a n : Nat) : s.badIn a n = none := by rw [State.badIn, h, List.find?_nil]
  unfold State.checkSpill
  simp only [hbad, Option.isSome_none, List.filter_false, List.foldl_nil]

theorem State.spillMove_waits (h : s.rec'.spillOk = false ∨ s.rec'.chip = []) : s.spillMove = s := by
  unfold State.spillMove
  split
  · next hok hchip => simp [hok, hchip] at h
  · rfl

theorem State.dropSlots_nil : s.dropSlots [] = s := by
  unfold State.dropSlots
  simp only [List.foldl_nil, List.contains_nil, Bool.not_false, List.filter_true]

/-- With room in the ring the oldest record on chip moves, and nothing is displaced. -/
theorem State.spillMove_room {r : EvRec} {q : List EvRec} (hok : s.rec'.spillOk = true) (hc : s.rec'.chip = r :: q)
    (hroom : s.rec'.ring.length + r.size ≤ 524288) : s.spillMove =
    (let slots := s.spillSlots r.size
    let t := (slots.zip r.parts).foldl (fun t (k, p) => t.store (spillAddr k) p.2) s
    { t with rec' := { t.rec' with
      chip := q
      ring := t.rec'.ring ++ (slots.zip r.parts).map fun (k, p) => (k, p.1, r.severity)
      ringNext := ((slots.getLast?).getD t.rec'.ringNext + 1) % 524288 } }) := by
  have h0 : r.size - (524288 - s.rec'.ring.length) = 0 := by omega
  unfold State.spillMove
  rw [hok, hc]
  dsimp only
  rw [h0, displaced]
  dsimp only [List.flatten_nil]
  rw [State.dropSlots_nil]

/-- A write into good memory is no report. -/
theorem State.store_rec_of_good {a : Nat} {d : Bytes} (h : s.mc.bad = []) :
    (s.store a d).rec' = s.rec' ∧ (s.store a d).mc.bad = [] := by
  rw [State.store_good (by rw [State.badIn, h, List.find?_nil])]
  exact ⟨rfl, h⟩

theorem State.foldl_store_rec_of_good (h : s.mc.bad = []) (l : List (Nat × Nat × Bytes)) :
    (l.foldl (fun t (k, p) => t.store (spillAddr k) p.2) s).rec' = s.rec' := by
  induction l generalizing s with
  | nil => rfl
  | cons x l ih =>
    obtain ⟨hrec, hbad⟩ := State.store_rec_of_good (a := spillAddr x.1) (d := x.2.2) h
    exact (ih hbad).trans hrec

/-! ### Clearing (R534, R521) -/

/-- The ring without some slots, and the rest of what is accepted. -/
theorem State.dropSlots_accepted (slots : List Nat) : (s.dropSlots slots).accepted =
    (s.rec'.chip, s.rec'.ring.filter (fun r => !slots.contains r.1), s.rec'.seqNext) := by
  have hkept := State.foldl_kept (f := fun (s : State) k => s.store (spillAddr k) (List.replicate 64 0))
    State.accepted (fun t k => t.store_accepted ..) slots s
  obtain ⟨hchip, hring, hseq⟩ : _ ∧ _ ∧ _ := by simpa only [State.accepted, Prod.mk.injEq] using hkept
  rw [State.dropSlots, State.accepted]
  dsimp only
  rw [hchip, hring, hseq]

theorem State.clearRecs_accepted (f : Nat → Bool) : (s.clearRecs f).accepted =
    (s.rec'.chip.filter (fun r => !f r.severity),
      s.rec'.ring.filter (fun r => !((s.rec'.ring.filter fun r => f r.2.2).map Prod.fst).contains r.1),
      s.rec'.seqNext) := State.dropSlots_accepted _

/-- With nothing in the spill ring, clearing touches the chip alone. -/
theorem State.clearRecs_chip (h : s.rec'.ring = []) (f : Nat → Bool) : s.clearRecs f =
    { s with rec' := { s.rec' with chip := s.rec'.chip.filter fun r => !f r.severity } } := by
  unfold State.clearRecs
  dsimp only
  rw [h, List.filter_nil, List.map_nil, State.dropSlots_nil]

/-- What clearing leaves in the ring was there and is not of a cleared severity. -/
theorem State.mem_clearRecs_ring {f : Nat → Bool} {r : Nat × Nat × Nat} (h : r ∈ (s.clearRecs f).rec'.ring) :
    r ∈ s.rec'.ring ∧ f r.2.2 = false := by
  have hring : (s.clearRecs f).rec'.ring =
      s.rec'.ring.filter fun r => !((s.rec'.ring.filter fun r => f r.2.2).map Prod.fst).contains r.1 :=
    congrArg (fun x => x.2.1) (s.clearRecs_accepted f)
  obtain ⟨hmem, hleft⟩ := List.mem_filter.1 (hring ▸ h)
  refine ⟨hmem, Bool.eq_false_iff.2 fun hf => ?_⟩
  have hcleared : r.1 ∈ (s.rec'.ring.filter fun r => f r.2.2).map Prod.fst :=
    List.mem_map_of_mem (List.mem_filter.2 ⟨hmem, hf⟩)
  simp [hcleared] at hleft

theorem State.clearRecs_all_ring : (s.clearRecs fun _ => true).rec'.ring = [] :=
  List.eq_nil_iff_forall_not_mem.2 fun _ h => Bool.true_eq_false.mp (State.mem_clearRecs_ring h).2

/-- What is no counter stays, and no counter does. -/
theorem State.mem_zeroCounters_regs {e : Nat × Word} : e ∈ s.zeroCounters.regs ↔
    e ∈ s.regs ∧ ((regAt e.1).map fun r => r.1.isCounter) ≠ some true := by
  unfold State.zeroCounters
  dsimp only
  rw [List.mem_filter]
  generalize (regAt e.1).map (fun r => r.1.isCounter) = o
  cases o <;> simp

end

/-- Settles O57: each event by what the recorder holds. -/
theorem eventRecorder : Obligations.EventRecorder := by
  refine ⟨fun s => ⟨fun h => congrArg Host.Outcome.next (State.recordOne_empty h), fun r q h => ?record⟩,
    fun s r hk hroom => ?room,
    fun b r => ⟨Bucket.coalesce_first, fun p => Bucket.coalesce_joins, rfl⟩,
    fun s hok hgood r q hc hroom => ?spill,
    fun s hgood h => ?noSpill,
    fun s i => ⟨fun h => congrArg Host.Outcome.next (State.refill_missing h),
      fun b hb hp => congrArg Host.Outcome.next (State.refill_idle hb hp),
      fun b p t hb hp h0 ha => congrArg Host.Outcome.next (State.refill_pending hb hp h0 ha)⟩,
    fun s i => ⟨fun h => congrArg Host.Outcome.next (State.floodEnd_missing h),
      fun f hf => ⟨fun hq => congrArg Host.Outcome.next (State.floodEnd_goesOn hf hq),
        fun hq => congrArg Host.Outcome.next (State.floodEnd_quiet hf hq)⟩⟩,
    fun s seat hring => ?clearChip, fun s seat => ?clear, fun s seat => ?zero⟩
  case record =>
    have hone := State.recordOne_cons h
    refine ⟨fun ht => congrArg Host.Outcome.next (hone.trans (if_pos ht)),
      fun ht => congrArg Host.Outcome.next (hone.trans (if_neg (by simp [ht])))⟩
  case room =>
    have hacc := State.accept_room hk hroom
    split
    · next h4 => exact (State.acceptOrDrop_some hacc).trans (if_pos h4)
    · next h4 => exact (State.acceptOrDrop_some hacc).trans (if_neg h4)
  case spill =>
    have hrec := State.foldl_store_rec_of_good hgood ((s.spillSlots r.size).zip r.parts)
    have hmove := State.spillMove_room hok hc hroom
    have hexec : exec .spillMove s = .next s.checkSpill.spillMove := rfl
    dsimp only at hmove ⊢
    rw [hexec, State.checkSpill_good hgood, hmove, hrec]
  case noSpill =>
    have hexec : exec .spillMove s = .next s.checkSpill.spillMove := rfl
    rw [hexec, State.checkSpill_good hgood, State.spillMove_waits h]
  case clearChip =>
    refine ⟨congrArg Host.Outcome.next (congrArg (State.log · _) (State.clearRecs_chip hring (· == 5))),
      congrArg Host.Outcome.next (congrArg (State.log · _) ((State.clearRecs_chip hring fun _ => true).trans ?_))⟩
    simp only [Bool.not_true, List.filter_false]
  case clear =>
    have hall := s.clearRecs_accepted fun _ => true
    refine ⟨s.clearRecs (· == 5), s.clearRecs fun _ => true, rfl, congrArg Prod.fst (s.clearRecs_accepted (· == 5)),
      fun r hr => ?_, rfl, (congrArg Prod.fst hall).trans (by simp), State.clearRecs_all_ring,
      congrArg (fun x => x.2.2) hall⟩
    obtain ⟨hmem, hsev⟩ := State.mem_clearRecs_ring hr
    exact ⟨hmem, by simpa using hsev⟩
  case zero =>
    exact ⟨s.zeroCounters, rfl, rfl, fun e he => State.mem_zeroCounters_regs.1 he,
      fun e he hc => State.mem_zeroCounters_regs.2 ⟨he, hc⟩⟩

end Sys2Proof.Machine

/-! PROOFS. Training jobs (O46). -/

namespace Sys2Proof.Machine

/-! ### A damaged sample without a label (R336, R350, R351) -/

/-- The record of training job 0: KIND 3, INDEX 0, and no use of damaged samples. -/
def plainTrainRecord : Bytes := 3#8 :: List.replicate 63 0#8

/-- An image of that record alone, in its section of TYPE 15. -/
def trainOnlyImage : Image :=
  { half := 0, header := List.replicate 128 0, secs := List.replicate 14 [] ++ [plainTrainRecord]
    counts := List.replicate 14 0 ++ [1], digest := List.replicate 64 0 }

/-- A decoded sample that came damaged, and whose entry holds no label. -/
def damagedSample : DecReq :=
  { library := 0, sample := 0, by' := none, outAddr := 0, outBytes := 0, position := 0, engine := 0, start := 0, stop := 0
    cycles := 0, mcus := 0, early := none, outcome := some Code.decodeDamaged, lostMcu := 0, lostByte := 0
    lostCount := 0, planes := [], bits12 := false, entry := List.replicate 64 0, delivered := false, event := 0
    det := true, mayCache := false }

/-- A device with that image running, whose job's next sample is that one. -/
def damagedDelivery : State := { State.reset with
  img := { State.reset.img with running := some trainOnlyImage }
  cap := { State.reset.cap with streams := [(0, { reqs := [damagedSample] })] } }

/-- The delivery flags the damage as well as the missing label. -/
theorem damagedDelivery_flags : (damagedDelivery.deliver 0).fld .trainFlags [] 1 2 = 3 := by decide +kernel

theorem damagedDelivery_next : (damagedDelivery.decStream (0 : Fin 36)).next = some damagedSample ∧
    damagedDelivery.trainRec (0 : Fin 36) = some plainTrainRecord := by decide +kernel

theorem damagedSample_unlabelled : sampleLabel plainTrainRecord damagedSample.entry = none := by decide +kernel

/-- Refutes O46: a sample that came damaged to a job that does not use damaged ones and has no label sets TRAIN.FLAGS
bits 1 and 2, where the statement's outcome for a sample without a label sets bit 1 alone. -/
theorem not_trainingJobs : ¬ Obligations.TrainingJobs := by
  intro h
  obtain ⟨_, _, _, _, _, hdeliver⟩ := h
  obtain ⟨hnext, hrec⟩ := damagedDelivery_next
  have hout := (hdeliver damagedDelivery 0 damagedSample plainTrainRecord Code.decodeDamaged (by decide) hnext hrec
    rfl).2.1 rfl (by rw [damagedSample_unlabelled]; rfl)
  have hexec : exec (.sampleDelivery 0) damagedDelivery = .next (damagedDelivery.deliver 0) := rfl
  rw [hexec] at hout
  injection hout with hstate
  have hflags := damagedDelivery_flags
  rw [hstate] at hflags
  revert hflags
  decide +kernel

end Sys2Proof.Machine

/-! PROOFS. The registers, memory and completions keep the memories canonical (O60). -/

namespace Sys2Proof.Machine

namespace State

set_option Elab.async false

/-! ### What the form of the memories rests on

Whatever a step does, it reaches the three memories through a write of bytes, a range zeroed or a reset; the rest of the
state is put together around them. So each operation of the model keeps their form because the operations it is made of
do, and the lemmas below say so operation by operation, in the model's order. -/

/-- Nothing but memory and the host block matters. -/
theorem memWf_kept {regs dev img flash rec time net cam sched ledg motion field cap train backup boot sec lanes mc free out
    pending} (t : State) : State.memWf ⟨regs, t.mem, dev, img, flash, t.host, rec, time, net, cam, sched, ledg, motion,
      field, cap, train, backup, boot, sec, lanes, mc, free, out, pending⟩ = t.memWf := rfl

/-- Nothing but the two host memories matters of the host block. -/
theorem memWf_keptHost {regs dev img flash rec time net cam sched ledg motion field cap train backup boot sec lanes mc free out
    pending conns lost turn outst sent up spacing held latches done sess next ans} (t : State) :
    State.memWf ⟨regs, t.mem, dev, img, flash, ⟨conns, lost, turn, outst, sent, up, spacing, held, latches, t.host.mem0,
      t.host.mem1, done, sess, next, ans⟩, rec, time, net, cam, sched, ledg, motion, field, cap, train, backup, boot, sec,
      lanes, mc, free, out, pending⟩ = t.memWf := rfl

/-- Where the host memories stay, the module's own memory is all there is to look at. -/
theorem memWf_of_mem {s t : State} (hs : s.memWf = true) (hm : Mem.wf s.mem = true → Mem.wf t.mem = true)
    (h0 : t.host.mem0 = s.host.mem0) (h1 : t.host.mem1 = s.host.mem1) : t.memWf = true := by
  unfold State.memWf at hs ⊢
  simp only [Bool.and_eq_true] at hs ⊢
  obtain ⟨⟨hown, hhost0⟩, hhost1⟩ := hs
  rw [h0, h1]
  exact ⟨⟨hm hown, hhost0⟩, hhost1⟩

theorem memWf_ite {c : Prop} [Decidable c] {a b : State} (ha : a.memWf = true) (hb : b.memWf = true) :
    (if c then a else b).memWf = true := by
  split
  · exact ha
  · exact hb

theorem memWf_elim {α : Type} (o : Option α) (s : State) (f : α → State) (hs : s.memWf = true)
    (hf : ∀ a, (f a).memWf = true) : (o.elim s f).memWf = true := by
  cases o with
  | none => exact hs
  | some a => exact hf a

theorem memWf_foldl {α : Type} (f : State → α → State) (l : List α) (s : State) (hs : s.memWf = true)
    (hf : ∀ t a, t.memWf = true → (f t a).memWf = true) : (l.foldl f s).memWf = true :=
  List.foldlRecOn (motive := fun t => t.memWf = true) l f hs fun t ht a _ => hf t a ht

/-- A fold that carries something along with the state. -/
theorem memWf_foldl_fst {α β : Type} (f : State × β → α → State × β) (l : List α) (x : State × β)
    (hx : x.1.memWf = true) (hf : ∀ t a, t.1.memWf = true → (f t a).1.memWf = true) : (l.foldl f x).1.memWf = true :=
  List.foldlRecOn (motive := fun t => t.1.memWf = true) l f hx fun t ht a _ => hf t a ht


section
variable {s : State} (hs : s.memWf = true)
include hs

/-! ### Registers, status flags and records on their way (R434, R520 to R522) -/

theorem memWf_setStored (r : RN) (ix : List Nat) (v : Word) : (s.setStored r ix v).memWf = true := hs

theorem memWf_setFld (r : RN) (ix : List Nat) (lo w x : Nat) :
    (s.setFld r ix lo w x).memWf = true := memWf_setStored hs ..

theorem memWf_setReg (r : RN) (ix : List Nat) (x : Nat) : (s.setReg r ix x).memWf = true := memWf_setStored hs ..

theorem memWf_count (r : RN) (ix : List Nat) (n : Nat) : (s.count r ix n).memWf = true := memWf_setReg hs ..

theorem memWf_countSat (r : RN) (ix : List Nat) (n : Nat) : (s.countSat r ix n).memWf = true := memWf_setReg hs ..

theorem memWf_setPair (lo hi : RN) (ix : List Nat) (v : Nat) :
    (s.setPair lo hi ix v).memWf = true := memWf_setReg (memWf_setReg hs ..) ..

theorem memWf_emit (e : Emission) : (s.emit e).memWf = true := hs

theorem memWf_emits (es : List Emission) : (s.emits es).memWf = true := hs

theorem memWf_draw (bound : Nat) : (s.draw bound).2.memWf = true := hs

theorem memWf_countDrop (sev : Nat) : (s.countDrop sev).memWf = true := memWf_count hs ..

theorem memWf_setFlag (r : RN) (ix : List Nat) (b : Nat) : (s.setFlag r ix b).memWf = true := by
  unfold setFlag
  grind [memWf_setFld]

theorem memWf_enqueueRec (r : EvRec) : (s.enqueueRec r).memWf = true := by
  unfold enqueueRec
  grind [memWf_kept, memWf_countDrop, memWf_setFlag]

theorem memWf_log (r : EvRec) : (s.log r).memWf = true := memWf_enqueueRec hs ..

theorem memWf_flagLog (r : RN) (ix : List Nat) (b : Nat) (e : EvRec) :
    (s.flagLog r ix b e).memWf = true := memWf_log (memWf_setFlag hs ..) ..

/-! ### Memory and its granules (R436, R438, R443) -/

theorem memWf_noteUe (g : Nat) (scrub : Bool) (initiator : Nat) : (s.noteUe g scrub initiator).memWf = true := by
  unfold noteUe
  grind [memWf_setReg, memWf_count, memWf_flagLog]

theorem memWf_reportUe (g initiator : Nat) : (s.reportUe g initiator).memWf = true := by
  unfold reportUe
  grind [memWf_kept, memWf_flagLog, memWf_poke, memWf_noteUe]

theorem memWf_storeGranules (a : Nat) (data : Bytes) (gs : List Nat) : (s.storeGranules a data gs).memWf = true := by
  fun_induction storeGranules <;> grind [memWf_kept, memWf_setFlag, memWf_poke, memWf_reportUe]

theorem memWf_store (a : Nat) (data : Bytes) : (s.store a data).memWf = true := by
  unfold store
  grind [memWf_poke, memWf_storeGranules]

/-! ### The host block (R413 to R424) -/

theorem memWf_bhPut (seat type seq : Nat) (retry : Bool) (payload : Bytes) :
    (s.bhPut seat type seq retry payload).memWf = true := by
  unfold bhPut
  grind [memWf_kept, memWf_keptHost, memWf_emit]

theorem memWf_bhSend (seat type : Nat) (payload : Bytes) (ring completions : Nat) :
    (s.bhSend seat type payload ring completions).memWf = true := by
  unfold bhSend
  grind [memWf_kept, memWf_keptHost, memWf_bhPut]

theorem memWf_sendInterrupt (seat : Nat) : (s.sendInterrupt seat).memWf = true := memWf_bhSend hs ..

theorem memWf_signalSeat (seat : Nat) : (s.signalSeat seat).memWf = true := by
  unfold signalSeat
  grind [memWf_kept, memWf_keptHost, memWf_emits, memWf_sendInterrupt]

theorem memWf_resignal (seat c : Nat) : (s.resignal seat c).memWf = true := by
  unfold resignal
  grind [memWf_kept, memWf_keptHost, memWf_signalSeat]

theorem memWf_raiseInt (seat b : Nat) : (s.raiseInt seat b).memWf = true := memWf_signalSeat (memWf_setFlag hs ..) ..

theorem memWf_raiseAll (b : Nat) : (s.raiseAll b).memWf = true := by
  unfold raiseAll
  grind [memWf_raiseInt]

theorem memWf_raisePeers (seat b : Nat) : (s.raisePeers seat b).memWf = true := by
  unfold raisePeers
  grind [memWf_foldl, memWf_raiseInt]

theorem memWf_setDev (d : DevState) : (s.setDev d).memWf = true := by
  unfold setDev
  grind [memWf_kept, memWf_raiseAll]

theorem memWf_ringSettle (seat ring : Nat) :
    (s.ringSettle seat ring).memWf = true := memWf_ite (memWf_setFld hs ..) hs

theorem memWf_writeCqe (c : CmdRef) (status r0 r1 : Nat) : (s.writeCqe c status r0 r1).memWf = true := by
  unfold writeCqe
  grind [memWf_setFld, memWf_store, memWf_hostStore, memWf_bhSend, memWf_signalSeat]

theorem memWf_finish (c : CmdRef) (status r0 r1 : Nat) : (s.finish c status r0 r1).memWf = true := by
  unfold finish
  grind [memWf_kept, memWf_keptHost, memWf_count, memWf_ringSettle, memWf_writeCqe]

theorem memWf_finishFor (c : Option CmdRef) (status : Nat) : (s.finishFor c status).memWf = true := by
  unfold finishFor
  grind [memWf_finish]

theorem memWf_dropItem (it : LaunchItem) : (s.dropItem it).memWf = true := hs

theorem memWf_autoFail (code : Nat) : (s.autoFail code).memWf = true := by
  unfold autoFail
  grind [memWf_kept, memWf_log]

theorem memWf_watchStaging (initiator a n : Nat) : (s.watchStaging initiator a n).memWf = true := by
  unfold watchStaging
  grind [memWf_kept, memWf_log, memWf_finishFor, memWf_dropItem, memWf_autoFail]

theorem memWf_storeFor (initiator a : Nat) (data : Bytes) :
    (s.storeFor initiator a data).memWf = true := memWf_store (memWf_watchStaging hs ..) ..

theorem memWf_complete (c : CmdRef) (status r0 r1 : Nat) : (s.complete c status r0 r1).memWf = true := by
  unfold complete
  grind [memWf_finish, memWf_watchStaging]

theorem memWf_answer (c : Option CmdRef) (status r0 r1 : Nat) : (s.answer c status r0 r1).memWf = true := by
  unfold answer
  grind [memWf_complete]

/-! ### Images (R36 to R53) -/

theorem memWf_seen (p : Part) : (s.seen p).memWf = true := by
  unfold seen
  grind [memWf_kept]

end

end State

end Sys2Proof.Machine

/-! PROOFS. What the field controller does keeps the memories canonical (O60). -/

namespace Sys2Proof.Machine

namespace State

set_option Elab.async false

section
variable {s : State} (hs : s.memWf = true)
include hs

/-! ### Encoder channels (R278 to R286) -/

theorem memWf_setEnc (n : Nat) (e : Enc) : (s.setEnc n e).memWf = true := hs

theorem memWf_loseEnc (n : Nat) : (s.loseEnc n).memWf = true := by
  unfold loseEnc
  grind [memWf_flagLog, memWf_setEnc]

theorem memWf_encEdge (n : Nat) (aLeads illegal : Bool) : (s.encEdge n aLeads illegal).memWf = true := by
  unfold encEdge
  grind [memWf_setFlag, memWf_setEnc, memWf_loseEnc]

theorem memWf_encWire (n : Nat) : (s.encWire n).memWf = true := by
  unfold encWire
  grind [memWf_setFlag, memWf_setEnc, memWf_loseEnc]

theorem memWf_encIndex (n : Nat) : (s.encIndex n).memWf = true := by
  unfold encIndex
  grind [memWf_flagLog, memWf_setEnc]

theorem memWf_ssiBad (n : Nat) (flags : List Nat) : (s.ssiBad n flags).memWf = true := by
  unfold ssiBad
  grind [memWf_foldl, memWf_setFlag, memWf_setEnc, memWf_loseEnc]

theorem memWf_ssiWord (n word : Nat) (errBit : Bool) (crc : Nat) : (s.ssiWord n word errBit crc).memWf = true := by
  unfold ssiWord
  grind [memWf_setEnc, memWf_ssiBad]

theorem memWf_clearLost (n : Nat) : (s.clearLost n).memWf = true := memWf_ite hs (memWf_setEnc hs ..)

/-! ### Inputs, outputs and the barrier link (R470 to R484) -/

theorem memWf_setOutput (q : Nat) (o : Output) : (s.setOutput q o).memWf = true := hs

theorem memWf_pulseOn (q : Nat) (shape : Bytes) (encN : Nat) (p : Pos) : (s.pulseOn q shape encN p).memWf = true := by
  unfold pulseOn
  grind [memWf_setFlag, memWf_setOutput]

theorem memWf_peakEnd (q : Nat) : (s.peakEnd q).memWf = true := memWf_ite (memWf_setOutput hs ..) hs

theorem memWf_pulseEnd (q : Nat) : (s.pulseEnd q).memWf = true := memWf_ite (memWf_setOutput hs ..) hs

theorem memWf_trigPulse (q ns : Nat) : (s.trigPulse q ns).memWf = true := memWf_ite hs (memWf_setOutput hs ..)

theorem memWf_applyHost : s.applyHost.memWf = true := by
  unfold applyHost
  grind [memWf_foldl, memWf_setOutput]

theorem memWf_enterSafe : s.enterSafe.memWf = true := by
  unfold enterSafe
  grind [memWf_kept, memWf_foldl, memWf_setOutput]

theorem memWf_outputsOff : s.outputsOff.memWf = true := hs

theorem memWf_trip (q : Nat) (cause : TripCause) : (s.trip q cause).memWf = true := by
  unfold trip
  grind [memWf_flagLog, memWf_setOutput]

theorem memWf_groupCheck (g meanMa : Nat) : (s.groupCheck g meanMa).memWf = true := by
  unfold groupCheck
  grind [memWf_foldl, memWf_setFld, memWf_flagLog, memWf_setOutput]

theorem memWf_outMeasure (q meanMa pinMv : Nat) : (s.outMeasure q meanMa pinMv).memWf = true := by
  unfold outMeasure
  grind [memWf_setFld, memWf_setFlag, memWf_flagLog]

theorem memWf_openTest (q pinMv : Nat) : (s.openTest q pinMv).memWf = true := memWf_ite (memWf_setFlag hs ..) hs

theorem memWf_queueEdge (m : BarMsg) : (s.queueEdge m).memWf = true := by
  unfold queueEdge
  grind [memWf_kept, memWf_setFlag]

theorem memWf_countEdge (c i : Nat) (active : Bool) : (s.countEdge c i active).memWf = true := by
  unfold countEdge
  grind [memWf_kept]

theorem memWf_inputEdge (i : Nat) (active : Bool) : (s.inputEdge i active).memWf = true := by
  unfold inputEdge
  grind [memWf_kept, memWf_foldl, memWf_queueEdge, memWf_countEdge]

theorem memWf_counterGate (c : Nat) : (s.counterGate c).memWf = true := by
  unfold counterGate
  grind [memWf_kept]

theorem memWf_counterZero (c : Nat) : (s.counterZero c).memWf = true := hs

theorem memWf_ppsEdge (rising : Bool) (held : Nat) : (s.ppsEdge rising held).memWf = true := by
  unfold ppsEdge
  grind [memWf_kept]

theorem memWf_resetFc : s.resetFc.memWf = true := memWf_outputsOff hs ..

theorem memWf_supplyOn (mv : Nat) : (s.supplyOn mv).memWf = true := by
  unfold supplyOn
  grind [memWf_kept, memWf_log, memWf_resetFc]

theorem memWf_supplyLoss (mv : Nat) : (s.supplyLoss mv).memWf = true := by
  unfold supplyLoss
  grind [memWf_kept, memWf_log, memWf_resetFc]

theorem memWf_sendFrames : s.sendFrames.memWf = true := by
  unfold sendFrames
  grind [memWf_kept, memWf_emit]

theorem memWf_downFailed : s.downFailed.memWf = true := by
  unfold downFailed
  grind [memWf_kept, memWf_count, memWf_setFlag, memWf_enterSafe]

theorem memWf_upFailed : s.upFailed.memWf = true := by
  unfold upFailed
  grind [memWf_kept, memWf_count, memWf_setFlag, memWf_log]

end

end State

end Sys2Proof.Machine

/-! PROOFS. What the scheduler does keeps the memories canonical (O60). -/

namespace Sys2Proof.Machine

namespace State

set_option Elab.async false

section
variable {s : State} (hs : s.memWf = true)
include hs

/-! ### Streams and their lines (R123, R138, R139) -/

theorem memWf_setStream (n : Nat) (x : Stream) : (s.setStream n x).memWf = true := hs

theorem memWf_updStream (n : Nat) (f : Stream → Stream) : (s.updStream n f).memWf = true := hs

theorem memWf_mapStreams (f : Stream → Stream) : (s.mapStreams f).memWf = true := hs

theorem memWf_releaseJob (job : Nat) : (s.releaseJob job).memWf = true := memWf_mapStreams hs ..

theorem memWf_releaseCrop (crop : Nat) : (s.releaseCrop crop).memWf = true := memWf_mapStreams hs ..

/-! ### The scheduler (R215 to R236) -/

theorem memWf_updCtx (c : Nat) (f : Ctx → Ctx) : (s.updCtx c f).memWf = true := hs

theorem memWf_defineCtx (c : Nat) (kind : CtxKind) (owner : Nat) (pinned : Bool) :
    (s.defineCtx c kind owner pinned).memWf = true := hs

theorem memWf_updJob (j : Nat) (f : Job → Job) : (s.updJob j f).memWf = true := hs

theorem memWf_updCmd (c : Nat) (f : Cmd → Cmd) : (s.updCmd c f).memWf = true := hs

theorem memWf_updCore (n : Nat) (f : Core → Core) : (s.updCore n f).memWf = true := hs

theorem memWf_ctxCheck (c : Nat) : (s.ctxCheck c).memWf = true := memWf_updCtx hs ..

theorem memWf_addJob (j : Job) : (s.addJob j).memWf = true := hs

theorem memWf_addCmd (job stage : Nat) : (s.addCmd job stage).memWf = true := hs

theorem memWf_makeReady (c : Nat) : (s.makeReady c).memWf = true := by
  unfold makeReady
  grind [memWf_updJob, memWf_updCmd, memWf_ctxCheck]

theorem memWf_countKill (n : Nat) (preempt : Bool) :
    (s.countKill n preempt).memWf = true := memWf_ite hs (memWf_setFld hs ..)

theorem memWf_killOnCore (x : Cmd) (preempt : Bool) : (s.killOnCore x preempt).memWf = true := by
  unfold killOnCore
  grind [memWf_updCore, memWf_countKill]

theorem memWf_forgetLooks (x : Cmd) : (s.forgetLooks x).memWf = true := memWf_ite (memWf_updJob hs ..) hs

theorem memWf_kill (c : Nat) (preempt : Bool) : (s.kill c preempt).memWf = true := by
  unfold kill
  grind [memWf_updCmd, memWf_ctxCheck, memWf_killOnCore, memWf_forgetLooks]

theorem memWf_withdraw (j : Nat) : (s.withdraw j).memWf = true := by
  unfold withdraw
  grind [memWf_kept, memWf_foldl, memWf_releaseJob, memWf_ctxCheck, memWf_killOnCore]

theorem memWf_cancelJob (j status : Nat) : (s.cancelJob j status).memWf = true := by
  unfold cancelJob
  grind [memWf_answer, memWf_withdraw]

theorem memWf_beginTurn (seat : Nat) : (s.beginTurn seat).memWf = true := (memWf_kept _).trans (memWf_setFld hs ..)

theorem memWf_passTurn : s.passTurn.memWf = true := by
  unfold passTurn
  grind [memWf_kept, memWf_beginTurn]

theorem memWf_turnCheck : s.turnCheck.memWf = true := memWf_ite hs (memWf_passTurn hs ..)

theorem memWf_loadSet (x : Cmd) (n : Nat) : (s.loadSet x n).memWf = true := by
  unfold loadSet
  grind [memWf_foldl, memWf_setFlag, memWf_updCore]

theorem memWf_dispatchTo (x : Cmd) (n : Nat) : (s.dispatchTo x n).memWf = true := by
  unfold dispatchTo
  grind [memWf_kept, memWf_updCmd, memWf_updCore, memWf_ctxCheck, memWf_loadSet]

theorem memWf_dispatch_go (fuel : Nat) (cs : List Cmd) : (State.dispatch.go s fuel cs).memWf = true := by
  induction fuel generalizing cs with
  | zero => exact hs
  | succ n ih =>
    unfold dispatch.go
    grind [memWf_foldl, memWf_updCore, memWf_kill, memWf_dispatchTo]

theorem memWf_dispatch : s.dispatch.memWf = true := memWf_dispatch_go (memWf_turnCheck hs) ..

theorem memWf_killAck (n : Nat) : (s.killAck n).memWf = true := memWf_ite (memWf_updCore hs ..) hs

theorem memWf_fixLooks (x : Cmd) : (s.fixLooks x).memWf = true := memWf_ite (memWf_updJob hs ..) hs

theorem memWf_dispatched (n : Nat) : (s.dispatched n).memWf = true := by
  unfold dispatched
  grind [memWf_updCmd, memWf_updCore, memWf_fixLooks]

theorem memWf_commitPhase (n : Nat) (long : Bool) : (s.commitPhase n long).memWf = true := by
  unfold commitPhase
  grind [memWf_setFlag, memWf_updCmd, memWf_updCore]

theorem memWf_swapIn (c : Nat) : (s.swapIn c).memWf = true := by
  unfold swapIn
  grind [memWf_foldl, memWf_setFlag, memWf_updCtx]

theorem memWf_starvation : s.starvation.memWf = true := by
  unfold starvation
  grind [memWf_foldl, memWf_flagLog, memWf_updCtx]

theorem memWf_destroyCtx (c : Nat) : (s.destroyCtx c).memWf = true := by
  unfold destroyCtx
  grind [memWf_kept, memWf_foldl, memWf_cancelJob]

theorem memWf_readContext (c : Nat) : (s.readContext c).memWf = true := by
  unfold readContext
  grind [memWf_foldl, memWf_reportUe, memWf_turnCheck, memWf_swapIn, memWf_destroyCtx]

theorem memWf_endRows (kill : List Cmd) : (s.endRows kill).memWf = true := hs

theorem memWf_turnEnd : s.turnEnd.memWf = true := by
  unfold turnEnd
  grind [memWf_kept, memWf_foldl, memWf_setFlag, memWf_updCmd, memWf_kill, memWf_cancelJob, memWf_passTurn,
    memWf_endRows]

theorem memWf_turnCommit (committed : Bool) : (s.turnCommit committed).memWf = true := by
  unfold turnCommit
  grind [memWf_kept, memWf_setFld, memWf_passTurn, memWf_turnCheck]

theorem memWf_fence (n : Nat) : (s.fence n).memWf = true := by
  unfold fence
  grind [memWf_updCmd, memWf_updCore, memWf_ctxCheck, memWf_countKill, memWf_forgetLooks, memWf_turnCommit]

/-! ### Messages of the line group (R372 to R374) -/

theorem memWf_groupSend (peer : Option Nat) (type : Nat) (payload : Bytes) (acked : Bool) (partId : BitVec 64) :
    (s.groupSend peer type payload acked partId).memWf = true := by
  unfold groupSend
  grind [memWf_kept, memWf_emit]

theorem memWf_handoffLost (partId : BitVec 64) : (s.handoffLost partId).memWf = true := memWf_flagLog hs ..

end

end State

end Sys2Proof.Machine

/-! PROOFS. What parts and deadlines do keeps the memories canonical (O60). -/

namespace Sys2Proof.Machine

namespace State

set_option Elab.async false

section
variable {s : State} (hs : s.memWf = true)
include hs

/-! ### Parts and verdicts (R250 to R272) -/

theorem memWf_putPart (slot : Nat) (p : Part) : (s.putPart slot p).memWf = true := by
  unfold putPart
  grind [memWf_kept, memWf_store]

theorem memWf_updPart (slot : Nat) (f : Part → Part) : (s.updPart slot f).memWf = true := by
  unfold updPart
  grind [memWf_putPart]

theorem memWf_updView (slot view : Nat) (f : View → View) : (s.updView slot view f).memWf = true := hs

theorem memWf_notePart (slot : Nat) (f : Part → Part) : (s.notePart slot f).memWf = true := hs

theorem memWf_cropRefs (slot : Nat) : (s.cropRefs slot).memWf = true := by
  unfold cropRefs
  grind [memWf_foldl, memWf_updStream]

theorem memWf_openCrops (slot : Nat) (p : Part) : (s.openCrops slot p).memWf = true := by
  unfold openCrops
  grind [memWf_kept, memWf_foldl, memWf_cropRefs]

theorem memWf_dropCrop (id : Nat) : (s.dropCrop id).memWf = true := by
  unfold dropCrop
  grind [memWf_kept, memWf_releaseCrop]

theorem memWf_abandonCrop (id : Nat) : (s.abandonCrop id).memWf = true := memWf_dropCrop (memWf_count hs ..) ..

theorem memWf_queueCrops : s.queueCrops.memWf = true := by
  unfold queueCrops
  grind [memWf_kept, memWf_foldl, memWf_setFlag, memWf_abandonCrop]

theorem memWf_handoff (p : Part) (kind : Nat) (damaged : Bool) (scores : List Word) :
    (s.handoff p kind damaged scores).memWf = true := by
  unfold handoff
  grind [memWf_seen, memWf_groupSend, memWf_handoffLost, memWf_updPart]

theorem memWf_queueEntries (slot : Nat) (es : List Eject) : (s.queueEntries slot es).memWf = true := by
  unfold queueEntries
  grind [memWf_kept]

theorem memWf_settlePart (slot : Nat) : (s.settlePart slot).memWf = true := by
  unfold settlePart
  grind [memWf_kept, memWf_updPart]

theorem memWf_settleParts : s.settleParts.memWf = true := by
  unfold settleParts
  grind [memWf_foldl, memWf_settlePart]

theorem memWf_settleCrops (slot : Nat) : (s.settleCrops slot).memWf = true := by
  unfold settleCrops
  grind [memWf_kept, memWf_foldl, memWf_seen, memWf_updPart, memWf_dropCrop, memWf_queueCrops]

theorem memWf_decideNow (slot verdict source cause : Nat) : (s.decideNow slot verdict source cause).memWf = true := by
  unfold decideNow
  grind [memWf_kept, memWf_foldl, memWf_count, memWf_setFlag, memWf_log, memWf_seen, memWf_putPart, memWf_updPart,
    memWf_handoff, memWf_queueEntries, memWf_settleCrops]

theorem memWf_decidePart (slot verdict source cause : Nat) :
    (s.decidePart slot verdict source cause).memWf = true := by
  unfold decidePart
  grind [memWf_kept, memWf_decideNow]

theorem memWf_decideDefault (slot source cause : Nat) : (s.decideDefault slot source cause).memWf = true := by
  unfold decideDefault
  grind [memWf_seen, memWf_decidePart]

theorem memWf_damageView (slot view cause : Nat) : (s.damageView slot view cause).memWf = true := by
  unfold damageView
  grind [memWf_updPart]

theorem memWf_scored (slot : Nat) : (s.scored slot).memWf = true := by
  unfold scored
  grind [memWf_updPart]

theorem memWf_judge (slot : Nat) : (s.judge slot).memWf = true := by
  unfold judge
  grind [memWf_updPart, memWf_decidePart, memWf_decideDefault, memWf_scored]

theorem memWf_noteCutoff (p : Part) : (s.noteCutoff p).memWf = true := by
  unfold noteCutoff
  grind [memWf_kept, memWf_foldl]

theorem memWf_notOpened (stream : Nat) : (s.notOpened stream).memWf = true := memWf_flagLog hs ..

theorem memWf_openPart (stream : Nat) (ref : Pos) (f : Part → Part) : (s.openPart stream ref f).1.memWf = true := by
  unfold openPart
  grind [memWf_kept, memWf_setFlag, memWf_putPart, memWf_openCrops, memWf_noteCutoff, memWf_notOpened]

/-! ### Stripe jobs, tails and deadlines (R263 to R266) -/

theorem memWf_addStripe (stream o j lane model aux : Nat) : (s.addStripe stream o j lane model aux).memWf = true := by
  unfold addStripe
  grind [memWf_foldl, memWf_updStream, memWf_addJob, memWf_addCmd]

theorem memWf_ensureStripes (p : Part) (v : View) (model aux : Nat) :
    (s.ensureStripes p v model aux).memWf = true := by
  unfold ensureStripes
  grind [memWf_foldl, memWf_addStripe]

theorem memWf_forgetLines (n : Nat) : (s.forgetLines n).memWf = true := by
  unfold forgetLines
  grind [memWf_setStream]

theorem memWf_withdrawUnneeded : s.withdrawUnneeded.memWf = true := by
  unfold withdrawUnneeded
  grind [memWf_kept, memWf_foldl, memWf_withdraw]

theorem memWf_afterDecision : s.afterDecision.memWf = true := memWf_settleParts (memWf_withdrawUnneeded hs ..) ..

theorem memWf_numberScope (n slot view : Nat) : (s.numberScope n slot view).memWf = true := by
  unfold numberScope
  grind [memWf_kept, memWf_updPart, memWf_updView]

theorem memWf_numberScopes (n : Nat) : (s.numberScopes n).memWf = true := by
  unfold numberScopes
  grind [memWf_foldl, memWf_numberScope]

theorem memWf_readyCheck : s.readyCheck.memWf = true := by
  unfold readyCheck
  grind [memWf_foldl, memWf_makeReady]

theorem memWf_reserveSpace (c : Nat) : (s.reserveSpace c).memWf = true := by
  unfold reserveSpace
  grind [memWf_updCmd, memWf_readyCheck]

theorem memWf_addTail (slot view model : Nat) : (s.addTail slot view model).memWf = true := by
  unfold addTail
  grind [memWf_foldl, memWf_addJob, memWf_addCmd]

/-- A view's completion is followed by its models' stripes and tails and by the part's end position, one by one. -/
theorem memWf_viewComplete (slot view : Nat) : (s.viewComplete slot view).memWf = true := by
  unfold viewComplete
  split
  · exact hs
  · split
    · exact hs
    · next v _ =>
      split
      · exact hs
      · extract_lets s1 p s2 s3 s4 s5 s6 s7 all s8
        have h1 : s1.memWf = true := memWf_numberScopes (memWf_updView hs ..) ..
        have h2 : s2.memWf = true := memWf_ite (memWf_ensureStripes h1 ..) h1
        have h3 : s3.memWf = true := memWf_ite (memWf_ensureStripes h2 ..) h2
        have h4 : s4.memWf = true := memWf_ite (memWf_addTail h3 ..) h3
        have h5 : s5.memWf = true := memWf_ite (memWf_addTail h4 ..) h4
        have h6 : s6.memWf = true := memWf_ite (memWf_addTail h5 ..) h5
        have h7 : s7.memWf = true := by
          clear_value s6
          unfold s7
          grind [memWf_updPart]
        exact memWf_readyCheck (memWf_ite (memWf_updPart h7 ..) h7)

theorem memWf_runShoal (slot : Nat) : (s.runShoal slot).memWf = true := by
  unfold runShoal
  grind [memWf_foldl, memWf_setFlag, memWf_updPart, memWf_ensureStripes, memWf_readyCheck, memWf_addTail]

theorem memWf_lateDefault (slot : Nat) : (s.lateDefault slot).memWf = true := memWf_decideDefault hs ..

theorem memWf_deadlineOf (slot : Nat) : (s.deadlineOf slot).memWf = true := by
  unfold deadlineOf
  grind [memWf_runShoal, memWf_lateDefault]

theorem memWf_releaseShoal : s.releaseShoal.memWf = true := by
  unfold releaseShoal
  grind [memWf_foldl, memWf_setStream]

theorem memWf_refreshCutoff (slot : Nat) : (s.refreshCutoff slot).memWf = true := by
  unfold refreshCutoff
  grind [memWf_seen, memWf_updPart, memWf_noteCutoff]

theorem memWf_undecide (slot : Nat) : (s.undecide slot).memWf = true := by
  unfold undecide
  grind [memWf_kept, memWf_notePart]

theorem memWf_checkRecord (slot : Nat) : (s.checkRecord slot).memWf = true := by
  unfold checkRecord
  grind [memWf_reportUe, memWf_notePart, memWf_decideDefault, memWf_undecide]

theorem memWf_deadlineTick : s.deadlineTick.memWf = true := by
  unfold deadlineTick
  grind [memWf_foldl, memWf_forgetLines, memWf_afterDecision, memWf_deadlineOf, memWf_releaseShoal,
    memWf_refreshCutoff, memWf_checkRecord]

theorem memWf_cutoffEvent (slot : Nat) : (s.cutoffEvent slot).memWf = true := by
  unfold cutoffEvent
  grind [memWf_afterDecision, memWf_lateDefault]

theorem memWf_cancelShadow (slot : Nat) : (s.cancelShadow slot).memWf = true := by
  unfold cancelShadow
  grind [memWf_count, memWf_setFlag, memWf_updPart, memWf_settleCrops, memWf_afterDecision]

theorem memWf_shadowLimit (slot : Nat) : (s.shadowLimit slot).memWf = true := by
  unfold shadowLimit
  grind [memWf_seen, memWf_cancelShadow]

theorem memWf_positionLost (enc : Nat) : (s.positionLost enc).memWf = true := by
  unfold positionLost
  grind [memWf_foldl, memWf_decideDefault, memWf_afterDecision]

/-! ### Joined scores (R260, R360) -/

theorem memWf_tallyPart (p : Part) : (s.tallyPart p).memWf = true := by
  unfold tallyPart
  grind [memWf_kept, memWf_count, memWf_log, memWf_store]

theorem memWf_recordJoined (slot model : Nat) : (s.recordJoined slot model).memWf = true := by
  unfold recordJoined
  grind [memWf_count, memWf_updPart, memWf_settleCrops, memWf_tallyPart]

end

end State

end Sys2Proof.Machine

/-! PROOFS. What lines and scopes do keeps the memories canonical (O60). -/

namespace Sys2Proof.Machine

namespace State

set_option Elab.async false

section
variable {s : State} (hs : s.memWf = true)
include hs

/-! ### Corrected lines and scopes (R254 to R259) -/

theorem memWf_startStripes (stream k : Nat) : (s.startStripes stream k).memWf = true := by
  unfold startStripes
  grind [memWf_foldl, memWf_addStripe]

theorem memWf_startAsked (stream : Nat) : (s.startAsked stream).memWf = true := by
  unfold startAsked
  grind [memWf_foldl, memWf_ensureStripes]

theorem memWf_takeRefs (stream k : Nat) : (s.takeRefs stream k).memWf = true := memWf_updStream hs ..

theorem memWf_fixModes (stream : Nat) : (s.fixModes stream).memWf = true := by
  unfold fixModes
  grind [memWf_kept]

theorem memWf_viewFirst (slot view : Nat) (l : CorrLine) : (s.viewFirst slot view l).memWf = true := by
  unfold viewFirst
  grind [memWf_elim, memWf_updPart, memWf_updView, memWf_numberScopes, memWf_cropRefs]

theorem memWf_viewLast (slot view last : Nat) :
    (s.viewLast slot view last).memWf = true := memWf_viewComplete (memWf_updView hs ..) ..

theorem memWf_lineDamage (slot view : Nat) (l : CorrLine) : (s.lineDamage slot view l).memWf = true := by
  unfold lineDamage
  grind [memWf_damageView, memWf_judge]

theorem memWf_lineInSecond (slot view : Nat) (l : CorrLine) : (s.lineInSecond slot view l).memWf = true := by
  unfold lineInSecond
  grind [memWf_viewComplete, memWf_viewFirst, memWf_viewLast, memWf_lineDamage]

theorem memWf_scanSecond (slot view : Nat) : (s.scanSecond slot view).memWf = true := by
  unfold scanSecond
  grind [memWf_foldl, memWf_lineInSecond]

theorem memWf_secondViews (slot : Nat) : (s.secondViews slot).memWf = true := by
  unfold secondViews
  grind [memWf_foldl, memWf_scanSecond]

theorem memWf_lineInView (slot view : Nat) (l : CorrLine) : (s.lineInView slot view l).memWf = true := by
  unfold lineInView
  grind [memWf_viewFirst, memWf_viewLast, memWf_lineDamage, memWf_lineInSecond, memWf_secondViews]

theorem memWf_lineInParts (stream : Nat) (l : CorrLine) : (s.lineInParts stream l).memWf = true := by
  unfold lineInParts
  grind [memWf_foldl, memWf_lineInView]

theorem memWf_webOpen (stream : Nat) (l : CorrLine) : (s.webOpen stream l).memWf = true := by
  unfold webOpen
  grind [memWf_cropRefs, memWf_openPart, memWf_numberScopes, memWf_secondViews]

theorem memWf_openAtEdge (input : Nat) (active : Bool) (pos : Pos) (streams : Nat → Bool) :
    (s.openAtEdge input active pos streams).memWf = true := by
  unfold openAtEdge
  split <;> grind [memWf_foldl, memWf_openPart, memWf_lineInView]

theorem memWf_presenceEdge (input : Nat) (active : Bool) (pos : Pos) :
    (s.presenceEdge input active pos).memWf = true := by
  unfold presenceEdge
  grind [memWf_kept, memWf_openAtEdge]

theorem memWf_windowCheck (slot view : Nat) : (s.windowCheck slot view).memWf = true := by
  unfold windowCheck
  grind [memWf_viewComplete, memWf_viewLast]

theorem memWf_windowsOf (stream : Nat) : (s.windowsOf stream).memWf = true := by
  unfold windowsOf
  grind [memWf_foldl, memWf_windowCheck]

theorem memWf_windowEnd (slot view : Nat) : (s.windowEnd slot view).memWf = true := by
  unfold windowEnd
  grind [memWf_updView, memWf_afterDecision, memWf_readyCheck, memWf_windowCheck]

theorem memWf_cutJobs (stream stop : Nat) : (s.cutJobs stream stop).memWf = true := hs

theorem memWf_dropEmptyJobs (stream stop : Nat) : (s.dropEmptyJobs stream stop).memWf = true := by
  unfold dropEmptyJobs
  grind [memWf_foldl, memWf_withdraw]

theorem memWf_closeViews (stream stop : Nat) : (s.closeViews stream stop).memWf = true := by
  unfold closeViews
  grind [memWf_foldl, memWf_updPart, memWf_viewLast, memWf_secondViews]

theorem memWf_updObjects (n : Nat) (f : ObjState → ObjState) : (s.updObjects n f).memWf = true := hs

theorem memWf_resultDamage (slot view : Nat) : (s.resultDamage slot view).memWf = true := by
  unfold resultDamage
  grind [memWf_damageView]

theorem memWf_closeObject (n next : Nat) (o : Obj) : (s.closeObject n next o).memWf = true := by
  unfold closeObject
  split <;> grind [memWf_kept, memWf_cropRefs, memWf_damageView, memWf_judge, memWf_openPart, memWf_viewComplete,
    memWf_secondViews, memWf_resultDamage]

theorem memWf_closeObjects (n next : Nat) (os : List Obj) : (s.closeObjects n next os).memWf = true := by
  unfold closeObjects
  grind [memWf_foldl, memWf_updObjects, memWf_closeObject]

theorem memWf_closeRun (n : Nat) : (s.closeRun n).memWf = true := by
  unfold closeRun
  grind [memWf_closeObjects]

theorem memWf_endRun (stream : Nat) : (s.endRun stream).memWf = true := by
  unfold endRun
  grind [memWf_updStream, memWf_queueCrops, memWf_afterDecision, memWf_numberScopes, memWf_readyCheck, memWf_fixModes,
    memWf_cutJobs, memWf_dropEmptyJobs, memWf_closeViews, memWf_closeRun]

theorem memWf_lineArrives (stream : Nat) (l : CorrLine) : (s.lineArrives stream l).memWf = true := by
  unfold lineArrives
  grind [memWf_updStream, memWf_queueCrops, memWf_forgetLines, memWf_afterDecision, memWf_readyCheck,
    memWf_startStripes, memWf_startAsked, memWf_takeRefs, memWf_fixModes, memWf_lineInParts, memWf_webOpen,
    memWf_windowsOf, memWf_closeViews]

theorem memWf_cutParts (stream : Nat) : (s.cutParts stream).memWf = true := by
  unfold cutParts
  grind [memWf_foldl, memWf_damageView, memWf_judge, memWf_afterDecision]

end

end State

end Sys2Proof.Machine

/-! PROOFS. What motion does keeps the memories canonical (O60). -/

namespace Sys2Proof.Machine

namespace State

set_option Elab.async false

section
variable {s : State} (hs : s.memWf = true)
include hs

/-! ### Firing, dividers and what crosses the barrier (R287 to R301) -/

theorem memWf_putEntry (slot : Nat) (e : Eject) : (s.putEntry slot e).memWf = true := by
  unfold putEntry
  grind [memWf_kept, memWf_store]

theorem memWf_placeEntry (slot : Nat) (e : Eject) : (s.placeEntry slot e).memWf = true := memWf_putEntry hs ..

theorem memWf_endEntry (slot : Nat) (e : Eject) (st : Nat) (time : BitVec 64) :
    (s.endEntry slot e st time).memWf = true := memWf_notePart (memWf_putEntry hs ..) ..

theorem memWf_setWindow (enc : Nat) (w : List WinEntry) : (s.setWindow enc w).memWf = true := hs

theorem memWf_readEntry (slot : Nat) : (s.readEntry slot).memWf = true := by
  unfold readEntry
  grind [memWf_count, memWf_flagLog, memWf_reportUe, memWf_putEntry, memWf_endEntry]

theorem memWf_planWindow (enc : Nat) : (s.planWindow enc).memWf = true := by
  unfold planWindow
  grind [memWf_kept, memWf_foldl, memWf_readEntry]

theorem memWf_planWindows : s.planWindows.memWf = true := by
  unfold planWindows
  grind [memWf_foldl, memWf_planWindow]

theorem memWf_readOrder : s.readOrder.memWf = true := by
  unfold readOrder
  grind [memWf_foldl, memWf_reportUe]

theorem memWf_pumpDecide (fuel : Nat) : (s.pumpDecide fuel).memWf = true := by
  induction fuel generalizing s with
  | zero => exact hs
  | succ n ih =>
    unfold pumpDecide
    grind [memWf_kept, memWf_decidePart]

theorem memWf_takeInsert : s.takeInsert.memWf = true := by
  unfold takeInsert
  grind [memWf_kept, memWf_foldl, memWf_flagLog, memWf_updPart, memWf_settlePart, memWf_placeEntry, memWf_planWindows,
    memWf_readOrder]

theorem memWf_ejectInsert : s.ejectInsert.memWf = true := by
  unfold ejectInsert
  grind [memWf_afterDecision, memWf_pumpDecide, memWf_takeInsert]

theorem memWf_discardAll : s.discardAll.memWf = true := by
  unfold discardAll
  grind [memWf_kept, memWf_foldl, memWf_updPart, memWf_settleParts, memWf_placeEntry, memWf_endEntry,
    memWf_pumpDecide]

theorem memWf_listClear (seat : Nat) : (s.listClear seat).memWf = true := memWf_flagLog (memWf_discardAll hs ..) ..

theorem memWf_report (slot st : Nat) : (s.report slot st).memWf = true := hs

theorem memWf_switchOutputs (outs : List Nat) (shape : Bytes) (enc : Nat) :
    (s.switchOutputs outs shape enc).memWf = true := by
  unfold switchOutputs
  grind [memWf_foldl, memWf_pulseOn]

theorem memWf_entryView (e : Eject) : (s.entryView e).memWf = true := by
  unfold entryView
  grind [memWf_seen]

theorem memWf_evalEntry (enc : Nat) (w : WinEntry) : (s.evalEntry enc w).1.memWf = true := by
  unfold evalEntry
  grind [memWf_kept, memWf_foldl, memWf_foldl_fst, memWf_flagLog, memWf_report, memWf_switchOutputs, memWf_entryView]

theorem memWf_evalWindow (enc : Nat) : (s.evalWindow enc).memWf = true := by
  unfold evalWindow
  grind [memWf_foldl, memWf_foldl_fst, memWf_setWindow, memWf_evalEntry]

theorem memWf_fired (slot st time : Nat) : (s.fired slot st time).memWf = true := by
  unfold fired
  grind [memWf_count, memWf_flagLog, memWf_updPart, memWf_settlePart, memWf_endEntry, memWf_planWindow]

theorem memWf_setDivider (d : Nat) (x : Divider) : (s.setDivider d x).memWf = true := hs

theorem memWf_startDivider (d : Nat) (cfg : Bytes) (mapLog2 : Nat) :
    (s.startDivider d cfg mapLog2).memWf = true := memWf_setDivider hs ..

theorem memWf_restartDividers : s.restartDividers.memWf = true := by
  unfold restartDividers
  grind [memWf_foldl, memWf_startDivider]

theorem memWf_writeMap (d : Nat) (x : Divider) (k : Nat) (suppressed : Bool) :
    (s.writeMap d x k suppressed).memWf = true := memWf_ite hs (memWf_store hs ..)

theorem memWf_suppressEvent (d : Nat) : (s.suppressEvent d).memWf = true := by
  unfold suppressEvent
  grind [memWf_kept, memWf_setFlag, memWf_setDivider, memWf_writeMap]

theorem memWf_suppressPassed (d fuel : Nat) : (s.suppressPassed d fuel).memWf = true := by
  induction fuel generalizing s with
  | zero => exact hs
  | succ n ih =>
    unfold suppressPassed
    grind [memWf_suppressEvent]

theorem memWf_dividerEvent (d : Nat) : (s.dividerEvent d).memWf = true := by
  unfold dividerEvent
  grind [memWf_trigPulse, memWf_setDivider, memWf_writeMap, memWf_suppressEvent, memWf_suppressPassed]

theorem memWf_applyTransfer : s.applyTransfer.memWf = true := by
  unfold applyTransfer
  grind [memWf_kept, memWf_setWindow, memWf_evalEntry]

theorem memWf_downFrame (good : Bool) : (s.downFrame good).memWf = true := by
  unfold downFrame
  grind [memWf_kept, memWf_setFlag, memWf_applyHost, memWf_enterSafe, memWf_downFailed, memWf_applyTransfer]

theorem memWf_fcResetSeen : s.fcResetSeen.memWf = true := by
  unfold fcResetSeen
  grind [memWf_kept, memWf_foldl, memWf_flagLog, memWf_decideDefault, memWf_afterDecision, memWf_discardAll,
    memWf_restartDividers]

theorem memWf_rotationMsg : s.rotationMsg.memWf = true := by
  unfold rotationMsg
  grind [memWf_kept, memWf_setFld, memWf_log, memWf_setEnc]

theorem memWf_upMessage : s.upMessage.memWf = true := by
  unfold upMessage
  grind [memWf_kept, memWf_presenceEdge, memWf_fired]

theorem memWf_ackTransfers : s.ackTransfers.memWf = true := by
  unfold ackTransfers
  grind [memWf_kept, memWf_foldl, memWf_putEntry]

theorem memWf_upSamples : s.upSamples.memWf = true := by
  unfold upSamples
  grind [memWf_foldl, memWf_setEnc, memWf_positionLost]

theorem memWf_linkCheck : s.linkCheck.memWf = true := memWf_ite (memWf_planWindows hs ..) hs

theorem memWf_upAccept : s.upAccept.memWf = true := hs

theorem memWf_safeSeen : s.safeSeen.memWf = true := by
  unfold safeSeen
  grind [memWf_kept]

theorem memWf_upItem : s.upItem.memWf = true := memWf_ite (memWf_rotationMsg hs ..) (memWf_upMessage hs ..)

theorem memWf_upGood : s.upGood.memWf = true := by
  unfold upGood
  grind [memWf_ackTransfers, memWf_upSamples, memWf_linkCheck, memWf_safeSeen, memWf_upItem]

theorem memWf_upFrame (good : Bool) : (s.upFrame good).memWf = true := by
  unfold upFrame
  grind [memWf_upFailed, memWf_fcResetSeen, memWf_upAccept, memWf_upGood]

omit hs in
theorem memWf_afterEnc (s : State) {t : State} (ht : t.memWf = true) (n : Nat) : (s.afterEnc t n).memWf = true :=
  memWf_ite (memWf_positionLost ht _) ht

/-! ### Commands of the field controller (R278 to R301, R470 to R484) -/

theorem memWf_ssiStart (n : Nat) : (s.ssiStart n).memWf = true := memWf_ite (memWf_setEnc hs ..) hs

theorem memWf_encStop (n : Nat) : (s.encStop n).memWf = true := memWf_ite (memWf_setEnc hs ..) hs

theorem memWf_trigEnd (d : Nat) : (s.trigEnd d).memWf = true := by
  unfold trigEnd
  grind [memWf_setOutput]

theorem memWf_fieldWrite (seat off : Nat) (f : State → State) (hf : ∀ t : State, t.memWf = true → (f t).memWf = true) :
    (s.fieldWrite seat off f).memWf = true := by
  unfold fieldWrite
  grind [memWf_log]

theorem memWf_clearTrip (q : Nat) : (s.clearTrip q).memWf = true := memWf_setOutput hs ..

theorem memWf_clearGroup (g : Nat) : (s.clearGroup g).memWf = true := by
  unfold clearGroup
  grind [memWf_foldl, memWf_setOutput]

theorem memWf_writeQHost (seat : Nat) (high : Bool) (v : Word) : (s.writeQHost seat high v).memWf = true := by
  unfold writeQHost
  grind [memWf_kept, memWf_foldl, memWf_log, memWf_applyHost]

end

end State

end Sys2Proof.Machine

/-! PROOFS. What the recorder and the time bases do keeps the memories canonical (O60). -/

namespace Sys2Proof.Machine

namespace State

set_option Elab.async false

section
variable {s : State} (hs : s.memWf = true)
include hs

/-! ### The event recorder (R522 to R539) -/

theorem memWf_dropSlots (slots : List Nat) : (s.dropSlots slots).memWf = true := by
  unfold dropSlots
  grind [memWf_kept, memWf_foldl, memWf_store]

theorem memWf_spillMove : s.spillMove.memWf = true := by
  unfold spillMove
  grind [memWf_kept, memWf_foldl, memWf_store, memWf_dropSlots]

theorem memWf_exportRec (r : EvRec) : (s.exportRec r).memWf = true := by
  unfold exportRec
  grind [memWf_kept, memWf_count, memWf_setFlag]

theorem memWf_drainSyslog : s.drainSyslog.memWf = true := by
  unfold drainSyslog
  grind [memWf_kept, memWf_foldl, memWf_emit]

theorem memWf_drainFanout : s.drainFanout.memWf = true := by
  unfold drainFanout
  grind [memWf_kept, memWf_foldl, memWf_groupSend]

theorem memWf_accept (r : EvRec) : ∀ t, s.accept r = some t → t.memWf = true := by
  intro t ht
  unfold accept at ht
  dsimp only at ht
  obtain ⟨gone, _, rfl⟩ := Option.map_eq_some_iff.1 ht
  grind [memWf_kept, memWf_raiseAll, memWf_exportRec]

theorem memWf_acceptOrDrop (r : EvRec) : (s.acceptOrDrop r).memWf = true := by
  unfold acceptOrDrop
  grind [memWf_countDrop, memWf_setFlag, memWf_accept]

theorem memWf_setBucket (b : Bucket) : (s.setBucket b).memWf = true := hs

theorem memWf_floodCount (r : EvRec) (coalesced : Bool) : (s.floodCount r coalesced).memWf = true := by
  unfold floodCount
  grind [memWf_kept, memWf_setFlag]

theorem memWf_recordOne : s.recordOne.memWf = true := by
  unfold recordOne
  grind [memWf_kept, memWf_acceptOrDrop, memWf_setBucket, memWf_floodCount]

theorem memWf_refill (i : Nat) : (s.refill i).memWf = true := by
  unfold refill
  grind [memWf_countDrop, memWf_setFlag, memWf_accept, memWf_setBucket]

theorem memWf_floodEnd (i : Nat) : (s.floodEnd i).memWf = true := by
  unfold floodEnd
  grind [memWf_kept, memWf_acceptOrDrop]

theorem memWf_clearRecs (f : Nat → Bool) : (s.clearRecs f).memWf = true := by
  unfold clearRecs
  grind [memWf_kept, memWf_dropSlots]

theorem memWf_clearCritical (by' : Nat) : (s.clearCritical by').memWf = true := memWf_log (memWf_clearRecs hs ..) ..

theorem memWf_clearAll (by' : Nat) : (s.clearAll by').memWf = true := memWf_log (memWf_clearRecs hs ..) ..

theorem memWf_zeroCounters : s.zeroCounters.memWf = true := hs

theorem memWf_rebuildRecorder : s.rebuildRecorder.memWf = true := by
  unfold rebuildRecorder
  grind [memWf_kept, memWf_foldl, memWf_log]

theorem memWf_checkSpill : s.checkSpill.memWf = true := by
  unfold checkSpill
  grind [memWf_foldl, memWf_reportUe, memWf_dropSlots]

/-! ### Time bases and PTP (R384 to R401) -/

theorem memWf_updBase (b : Nat) (f : TimeBase → TimeBase) : (s.updBase b f).memWf = true := hs

theorem memWf_setInc (b : Nat) : (s.setInc b).memWf = true := memWf_ite hs (memWf_updBase hs ..)

theorem memWf_servo (b : Nat) (o : ℤ) : (s.servo b o).memWf = true := by
  unfold servo
  grind [memWf_setReg, memWf_flagLog, memWf_updBase, memWf_setInc]

theorem memWf_holdover (b : Nat) : (s.holdover b).memWf = true := memWf_updBase hs ..

theorem memWf_ppsSample (edgeAgoNs : Nat) : (s.ppsSample edgeAgoNs).memWf = true := memWf_ite hs (memWf_servo hs ..)

theorem memWf_showMaster (role port : Nat) (id : BitVec 64) : (s.showMaster role port id).memWf = true := by
  unfold showMaster
  grind [memWf_setFld, memWf_setReg]

theorem memWf_ptpStart : s.ptpStart.memWf = true := by
  unfold ptpStart
  grind [memWf_kept, memWf_updBase, memWf_showMaster]

theorem memWf_announce (port : Nat) (a : Announce) : (s.announce port a).memWf = true := by
  unfold announce
  grind [memWf_kept, memWf_updBase, memWf_showMaster, memWf_ptpStart]

theorem memWf_ptpSample (offsetNs : ℤ) (delay : Word) : (s.ptpSample offsetNs delay).memWf = true := by
  unfold ptpSample
  grind [memWf_setStored, memWf_servo]

theorem memWf_delayReq (port seq : Nat) (peer : Bool) : (s.delayReq port seq peer).memWf = true := by
  unfold delayReq
  grind [memWf_setFld, memWf_emit, memWf_setFlag]

theorem memWf_ptpTimer (kind : Nat) : (s.ptpTimer kind).memWf = true := by
  unfold ptpTimer
  grind [memWf_kept, memWf_foldl, memWf_emit]

theorem memWf_stepGo (by' b v : Nat) : (s.stepGo by' b v).memWf = true := by
  unfold stepGo
  grind [memWf_setFld, memWf_setFlag, memWf_log, memWf_updBase]

theorem memWf_capture : s.capture.memWf = true := by
  unfold capture
  grind [memWf_foldl, memWf_setReg]

end

end State

end Sys2Proof.Machine

/-! PROOFS. What the line pipes do keeps the memories canonical (O60). -/

namespace Sys2Proof.Machine

namespace State

set_option Elab.async false

section
variable {s : State} (hs : s.memWf = true)
include hs

/-! ### Lines in memory (R132 to R136) -/

theorem memWf_touchLine (stream k : Nat) : (s.touchLine stream k).memWf = true := by
  unfold touchLine
  grind [memWf_reportUe, memWf_updStream]

theorem memWf_sendStrips (n k : Nat) : (s.sendStrips n k).memWf = true := by
  unfold sendStrips
  grind [memWf_foldl, memWf_groupSend]

/-! ### The line pipes (R99 to R115) -/

theorem memWf_putStat (n : Nat) (a : StatAcc) (r : Nat × Nat × Bytes) : (s.putStat n a r).memWf = true := by
  unfold putStat
  split
  · exact hs
  · split
    · exact hs
    · extract_lets slots size prod seq s1 rec s2
      have h1 : s1.memWf = true := memWf_ite hs (memWf_setFlag (memWf_count (memWf_count hs ..) ..) ..)
      have h2 : s2.memWf = true := memWf_store h1 ..
      exact memWf_count ((memWf_kept s2).trans h2) ..

theorem memWf_finishStats (n : Nat) (done : StatAcc → Bool) : (s.finishStats n done).memWf = true := by
  unfold finishStats
  grind [memWf_foldl, memWf_updStream, memWf_putStat]

theorem memWf_flushStats (n : Nat) : (s.flushStats n).memWf = true := memWf_finishStats hs ..

theorem memWf_statLine (n : Nat) (l : WorkLine) : (s.statLine n l).memWf = true := by
  unfold statLine
  grind [memWf_updStream]

theorem memWf_flushGroup (n : Nat) : (s.flushGroup n).memWf = true := memWf_updStream hs ..

theorem memWf_groupLine (n : Nat) (l : WorkLine) : (s.groupLine n l).memWf = true := by
  unfold groupLine
  grind [memWf_updStream, memWf_flushGroup]

theorem memWf_drainAlign (n : Nat) (force : Bool) (fuel : Nat) : (s.drainAlign n force fuel).memWf = true := by
  induction fuel generalizing s with
  | zero => exact hs
  | succ n ih =>
    unfold drainAlign
    grind [memWf_setFlag, memWf_updStream, memWf_statLine, memWf_groupLine]

theorem memWf_completeAlign (n : Nat) : (s.completeAlign n).memWf = true := by
  unfold completeAlign
  grind [memWf_drainAlign]

theorem memWf_endPipe (n : Nat) : (s.endPipe n).memWf = true := by
  unfold endPipe
  grind [memWf_setStream, memWf_flushGroup, memWf_completeAlign]

theorem memWf_serveLine (n : Nat) : (s.serveLine n).memWf = true := by
  unfold serveLine
  grind [memWf_setFlag, memWf_reportUe, memWf_updStream, memWf_drainAlign, memWf_completeAlign]

theorem memWf_servePipe (pipe : Nat) : (s.servePipe pipe).memWf = true := by
  unfold servePipe
  grind [memWf_kept, memWf_serveLine]

theorem memWf_giveUpOne (n slots k : Nat) : ∀ t, s.giveUpOne n slots k = some t → t.memWf = true := by
  unfold giveUpOne
  grind [memWf_updStream, memWf_withdraw, memWf_abandonCrop, memWf_cancelShadow]

theorem memWf_makeRoom (n slots k fuel : Nat) : (s.makeRoom n slots k fuel).memWf = true := by
  induction fuel generalizing s with
  | zero => exact hs
  | succ n ih =>
    unfold makeRoom
    grind [memWf_giveUpOne]

theorem memWf_tryRoom (n slots k : Nat) : (s.tryRoom n slots k).1.memWf = true := by
  unfold tryRoom
  grind [memWf_foldl, memWf_foldl_fst, memWf_makeRoom]

theorem memWf_overflow (n : Nat) (block : Word) :
    (s.overflow n block).memWf = true := memWf_setFlag (memWf_updStream hs ..) ..

theorem memWf_writeLine (x : Stream) (l : CorrLine) (comps : List (List Nat)) :
    (s.writeLine x l comps).memWf = true := by
  unfold writeLine
  grind [memWf_foldl, memWf_store]

theorem memWf_emitLine (n : Nat) : (s.emitLine n).memWf = true := by
  unfold emitLine
  grind [memWf_setFlag, memWf_updStream, memWf_lineArrives, memWf_sendStrips, memWf_finishStats, memWf_tryRoom,
    memWf_overflow, memWf_writeLine]

theorem memWf_reenter (n : Nat) : (s.reenter n).memWf = true := by
  unfold reenter
  grind [memWf_store, memWf_updStream, memWf_touchLine]

theorem memWf_writeCons (seat n v : Nat) : (s.writeCons seat n v).memWf = true :=
  memWf_ite (memWf_setReg hs ..) (memWf_ite (memWf_log hs _) (memWf_setReg hs ..))

/-! ### Restores (R206, R319) -/

theorem memWf_updHist (n : Nat) (f : HistStore → HistStore) : (s.updHist n f).memWf = true := hs

theorem memWf_putHist (n : Nat) : (s.putHist n).memWf = true := by
  unfold putHist
  grind [memWf_store, memWf_updHist]

theorem memWf_restoreNow (n : Nat) (r : Bytes) (delta : Pos) (by' : Option CmdRef) :
    (s.restoreNow n r delta by').memWf = true := by
  unfold restoreNow
  grind [memWf_kept, memWf_foldl, memWf_store, memWf_answer, memWf_updHist, memWf_putHist]

theorem memWf_settleRestores : s.settleRestores.memWf = true := by
  unfold settleRestores
  grind [memWf_foldl, memWf_setStream, memWf_restoreNow]

end

end State

end Sys2Proof.Machine

/-! PROOFS. What camera streams do keeps the memories canonical (O60). -/

namespace Sys2Proof.Machine

namespace State

set_option Elab.async false

section
variable {s : State} (hs : s.memWf = true)
include hs

/-! ### Camera streams (R79 to R84) -/

theorem memWf_unbound : s.unbound.memWf = true := memWf_count hs ..

theorem memWf_putDesc (n : Nat) (b : Block) : (s.putDesc n b).memWf = true := by
  unfold putDesc
  grind [memWf_store]

theorem memWf_putHeader (n : Nat) : (s.putHeader n).memWf = true := by
  unfold putHeader
  grind [memWf_store, memWf_setStream]

theorem memWf_takeBoundary (n tb0Ns : Nat) : (s.takeBoundary n tb0Ns).memWf = true := by
  unfold takeBoundary
  grind [memWf_kept, memWf_endRun, memWf_cutParts, memWf_endPipe, memWf_settleRestores]

theorem memWf_clearTally : s.clearTally.memWf = true := by
  unfold clearTally
  grind [memWf_kept, memWf_store]

theorem memWf_promoted (gen : Nat) : (s.promoted gen).memWf = true := memWf_clearTally hs ..

theorem memWf_reachOverlays (n tb0Ns : Nat) (all : Bool) : (s.reachOverlays n tb0Ns all).memWf = true := by
  unfold reachOverlays
  grind [memWf_kept, memWf_foldl, memWf_updStream, memWf_endRun, memWf_endPipe, memWf_settleRestores, memWf_promoted]

theorem memWf_pairLine (n : Nat) (x : Stream) (firstTime : BitVec 64) :
    (s.pairLine n x firstTime).1.memWf = true := by
  unfold pairLine
  grind [memWf_reportUe]

theorem memWf_slotFor (n : Nat) : (s.slotFor n).1.memWf = true := by
  unfold slotFor
  grind [memWf_tryRoom]

theorem memWf_rawArrives (n : Nat) (l : RawLine) : (s.rawArrives n l).memWf = true := by
  unfold rawArrives
  grind [memWf_lineArrives, memWf_sendStrips]

theorem memWf_fileRaw (n : Nat) (l : RawLine) : (s.fileRaw n l).memWf = true := by
  unfold fileRaw
  grind [memWf_store, memWf_updStream, memWf_rawArrives]

theorem memWf_releaseRaw (n fuel : Nat) : (s.releaseRaw n fuel).memWf = true := by
  induction fuel generalizing s with
  | zero => exact hs
  | succ n ih =>
    unfold releaseRaw
    grind [memWf_setStream, memWf_rawArrives]

theorem memWf_settlePositions : s.settlePositions.memWf = true := by
  unfold settlePositions
  grind [memWf_foldl, memWf_updStream, memWf_releaseRaw]

theorem memWf_consumeLine (n : Nat) (firstTime : BitVec 64) (pix : List Nat) (cause : Nat) (arrived short : Bool) :
    (s.consumeLine n firstTime pix cause arrived short).memWf = true := by
  unfold consumeLine
  grind [memWf_setStream, memWf_pairLine, memWf_fileRaw]

theorem memWf_dropLine (n : Nat) (firstTime : BitVec 64) (arrived short : Bool) :
    (s.dropLine n firstTime arrived short).memWf = true := memWf_count (memWf_consumeLine hs ..) ..

theorem memWf_dropRest (n cause : Nat) : (s.dropRest n cause).memWf = true := memWf_updStream hs ..

theorem memWf_mismatch (n : Nat) (x : Stream) (b : Block) : (s.mismatch n x b).memWf = true := by
  unfold mismatch
  grind [memWf_foldl, memWf_flagLog, memWf_setStream, memWf_damageView, memWf_judge, memWf_afterDecision]

theorem memWf_endBlock (n : Nat) : (s.endBlock n).memWf = true := by
  unfold endBlock
  grind [memWf_setStream, memWf_updStream, memWf_putDesc, memWf_putHeader, memWf_mismatch]

theorem memWf_nameWriter (p status : Nat) : (s.nameWriter p status).memWf = true := by
  unfold nameWriter
  grind [memWf_log]

theorem memWf_judgeHeader (n : Nat) (x : Stream) (b : Block) (h : HdrInfo) :
    (s.judgeHeader n x b h).memWf = true := by
  unfold judgeHeader
  grind [memWf_setFlag, memWf_setStream, memWf_putDesc, memWf_nameWriter]

theorem memWf_boundaryCheck (n : Nat) (firstTime : BitVec 64) : (s.boundaryCheck n firstTime).memWf = true := by
  unfold boundaryCheck
  grind [memWf_takeBoundary, memWf_reachOverlays]

theorem memWf_decideHeader (n : Nat) : (s.decideHeader n).memWf = true := by
  unfold decideHeader
  grind [memWf_judgeHeader, memWf_boundaryCheck]

theorem memWf_consumeMissing (n fuel : Nat) : (s.consumeMissing n fuel).memWf = true := by
  induction fuel generalizing s with
  | zero => exact hs
  | succ n ih =>
    unfold consumeMissing
    grind [memWf_dropLine]

theorem memWf_cutBlock (n : Nat) : (s.cutBlock n).memWf = true := by
  unfold cutBlock
  grind [memWf_setFlag, memWf_updStream, memWf_endBlock, memWf_decideHeader, memWf_consumeMissing]

theorem memWf_blockDone (n : Nat) : (s.blockDone n).memWf = true := by
  unfold blockDone
  grind [memWf_endBlock]

theorem memWf_header (n : Nat) (h : HdrInfo) (lines tag : Nat) : (s.header n h lines tag).memWf = true := by
  unfold header
  grind [memWf_setStream, memWf_judgeHeader, memWf_cutBlock, memWf_blockDone]

theorem memWf_fileLine (n : Nat) (els : List (BitVec 16)) (firstTime : BitVec 64) :
    (s.fileLine n els firstTime).memWf = true := by
  unfold fileLine
  grind [memWf_updStream, memWf_overflow, memWf_slotFor, memWf_consumeLine, memWf_dropLine, memWf_boundaryCheck,
    memWf_blockDone]

theorem memWf_fillLines (n fuel : Nat) : (s.fillLines n fuel).memWf = true := by
  induction fuel generalizing s with
  | zero => exact hs
  | succ n ih =>
    unfold fillLines
    grind [memWf_setStream, memWf_updStream, memWf_fileLine]

theorem memWf_joinEls (n : Nat) (els : List (BitVec 16)) :
    (s.joinEls n els).memWf = true := memWf_fillLines (memWf_updStream hs ..) ..

theorem memWf_spillWindow (n : Nat) : (s.spillWindow n).memWf = true := by
  unfold spillWindow
  grind [memWf_foldl, memWf_updStream, memWf_joinEls]

theorem memWf_takePacket (n : Nat) (els : List (BitVec 16)) (crcOk : Bool) (bytes : Nat) :
    (s.takePacket n els crcOk bytes).memWf = true := by
  unfold takePacket
  grind [memWf_setFlag, memWf_dropRest, memWf_joinEls, memWf_spillWindow]

theorem memWf_drainWindow (n fuel : Nat) : (s.drainWindow n fuel).memWf = true := by
  induction fuel generalizing s with
  | zero => exact hs
  | succ n ih =>
    unfold drainWindow
    grind [memWf_setStream, memWf_takePacket]

theorem memWf_lineData (n tag : Nat) (crcOk : Bool) (bytes : Nat) (els : List (BitVec 16)) :
    (s.lineData n tag crcOk bytes els).memWf = true := by
  unfold lineData
  grind [memWf_setFlag, memWf_setStream, memWf_dropRest, memWf_decideHeader, memWf_spillWindow, memWf_takePacket,
    memWf_drainWindow]

theorem memWf_closeStream (n : Nat) : (s.closeStream n).memWf = true := by
  unfold closeStream
  grind [memWf_setStream, memWf_endRun, memWf_endPipe, memWf_settleRestores, memWf_takeBoundary, memWf_reachOverlays]

theorem memWf_queueTrig (t : Trig) (lost : Bool) : (s.queueTrig t lost).memWf = true := by
  unfold queueTrig
  grind [memWf_foldl, memWf_flagLog, memWf_setStream]

theorem memWf_lostEvents (d : Nat) (x : Divider) (k : Nat) : (s.lostEvents d x k).memWf = true := by
  unfold lostEvents
  grind [memWf_foldl, memWf_queueTrig]

theorem memWf_tickEvent (d low : Nat) : (s.tickEvent d low).memWf = true := by
  unfold tickEvent
  grind [memWf_setDivider, memWf_queueTrig, memWf_lostEvents]

theorem memWf_tickWord (crcOk : Bool) (flags : List (Nat × Nat)) (pps : Bool) :
    (s.tickWord crcOk flags pps).memWf = true := by
  unfold tickWord
  grind [memWf_foldl, memWf_setFlag, memWf_ppsSample, memWf_tickEvent]

theorem memWf_startTrig (n : Nat) : (s.startTrig n).memWf = true := by
  unfold startTrig
  grind [memWf_emit, memWf_draw, memWf_setStream]

theorem memWf_packet (port id tag : Nat) (crcOk : Bool) (bytes : Nat) (els : List (BitVec 16)) :
    (s.packet port id tag crcOk bytes els).memWf = true := by
  unfold packet
  grind [memWf_setFlag, memWf_unbound, memWf_lineData]

theorem memWf_writeStreamCfg (n : Nat) (v : Word) : (s.writeStreamCfg n v).memWf = true := memWf_setStored hs ..

end

end State

end Sys2Proof.Machine

/-! PROOFS. What the taking of commands and camera ports do keeps the memories canonical (O60). -/

namespace Sys2Proof.Machine

namespace State

set_option Elab.async false

section
variable {s : State} (hs : s.memWf = true)
include hs

/-! ### The taking of a command (R405, R411 to R419) -/

theorem memWf_arrive (h : Hdr) (opcode : Nat) :
    (s.arrive h opcode).1.memWf = true := memWf_count (memWf_setFld hs ..) ..

theorem memWf_runTaken (i : Instr) (e : Entry) (body : CmdRef → State → State)
    (hf : ∀ x (t : State), t.memWf = true → (body x t).memWf = true) : (s.runTaken i e body).memWf = true := by
  unfold runTaken
  grind [memWf_complete, memWf_arrive]

theorem memWf_park (seat ring : Nat) (entry : Bytes) : (s.park seat ring entry).memWf = true := by
  unfold park
  grind [memWf_setFld, memWf_hostStore, memWf_storeFor]

theorem memWf_takeNow (i : Instr) (body : CmdRef → State → State)
    (hf : ∀ x (t : State), t.memWf = true → (body x t).memWf = true) : (s.takeNow i body).memWf = true := by
  unfold takeNow
  grind [memWf_setFld, memWf_setFlag, memWf_runTaken, memWf_park]

theorem memWf_checked (c : CmdRef) (cs : List (Bool × Nat)) (body : State → State)
    (hf : ∀ t : State, t.memWf = true → (body t).memWf = true) : (s.checked c cs body).memWf = true := by
  unfold checked
  grind [memWf_complete]

theorem memWf_addItem (launch : Nat) (k : LaunchKind) (by' : Option CmdRef) :
    (s.addItem launch k by').memWf = true := hs

/-! ### Camera ports (R74 to R86) -/

theorem memWf_updPort (p : Nat) (f : Port → Port) : (s.updPort p f).memWf = true := hs

theorem memWf_noRate (p : Nat) : (s.noRate p).memWf = true := memWf_setFld (memWf_setFld hs ..) ..

theorem memWf_cutStreams (p : Nat) : (s.cutStreams p).memWf = true := by
  unfold cutStreams
  grind [memWf_foldl, memWf_cutBlock]

theorem memWf_dropLink (p : Nat) : (s.dropLink p).memWf = true := by
  unfold dropLink
  grind [memWf_setFld, memWf_updPort, memWf_noRate, memWf_cutStreams]

theorem memWf_unpower (p st : Nat) : (s.unpower p st).memWf = true := by
  unfold unpower
  grind [memWf_setFld, memWf_updPort, memWf_noRate, memWf_cutStreams]

theorem memWf_powerUp (p : Nat) (loadFound : Bool) : (s.powerUp p loadFound).memWf = true := by
  unfold powerUp
  grind [memWf_setFld, memWf_setFlag, memWf_updPort, memWf_noRate]

theorem memWf_powerDown (p : Nat) : (s.powerDown p).memWf = true := memWf_updPort (memWf_unpower hs ..) ..

theorem memWf_tripPort (p flag : Nat) : (s.tripPort p flag).memWf = true := by
  unfold tripPort
  grind [memWf_flagLog, memWf_unpower]

theorem memWf_rediscover (p : Nat) : (s.rediscover p).memWf = true := by
  unfold rediscover
  grind [memWf_setFld, memWf_updPort, memWf_dropLink]

theorem memWf_setRate (p rate : Nat) : (s.setRate p rate).memWf = true := by
  unfold setRate
  grind [memWf_setFld]

theorem memWf_cable (p eq length : Nat) : (s.cable p eq length).memWf = true := by
  unfold cable
  grind [memWf_setFld, memWf_flagLog]

theorem memWf_rateGroup (ports : List Nat) : (s.rateGroup ports).memWf = true := by
  unfold rateGroup
  grind [memWf_foldl, memWf_setRate]

theorem memWf_linkUp (p rates conns index : Nat) (master : Bool) (eq length : Nat) :
    (s.linkUp p rates conns index master eq length).memWf = true := by
  unfold linkUp
  grind [memWf_setFld, memWf_setReg, memWf_emit, memWf_updPort, memWf_cable, memWf_rateGroup]

theorem memWf_orderCheck (n : Nat) : (s.orderCheck n).memWf = true := by
  unfold orderCheck
  grind [memWf_setFlag]

theorem memWf_bindPorts (n : Nat) : (s.bindPorts n).memWf = true := by
  unfold bindPorts
  grind [memWf_emit, memWf_rateGroup, memWf_orderCheck]

theorem memWf_describe (p : Nat) (file : Bytes) : (s.describe p file).memWf = true := by
  unfold describe
  grind [memWf_foldl, memWf_setFld, memWf_store, memWf_updPort, memWf_orderCheck]

theorem memWf_linkLost (p : Nat) (report : Bool) : (s.linkLost p report).memWf = true := by
  unfold linkLost
  grind [memWf_setFlag, memWf_flagLog, memWf_dropLink]

theorem memWf_measurePort (p ma dv totalDw supplyMv : Nat) :
    (s.measurePort p ma dv totalDw supplyMv).memWf = true := by
  unfold measurePort
  grind [memWf_kept, memWf_setReg, memWf_log, memWf_updPort, memWf_tripPort, memWf_linkLost]

theorem memWf_startCtrl (p fuel : Nat) : (s.startCtrl p fuel).memWf = true := by
  induction fuel generalizing s with
  | zero => exact hs
  | succ n ih =>
    unfold startCtrl
    grind [memWf_emit, memWf_reportUe, memWf_complete, memWf_updPort]

theorem memWf_endCtrl (p : Nat) (f : CtrlCmd → State → State)
    (hf : ∀ x (t : State), t.memWf = true → (f x t).memWf = true) : (s.endCtrl p f).memWf = true := by
  unfold endCtrl
  grind [memWf_updPort, memWf_startCtrl]

theorem memWf_camAnswer (p : Nat) (a : CamAnswer) : (s.camAnswer p a).memWf = true := by
  unfold camAnswer
  grind [memWf_storeFor, memWf_complete, memWf_endCtrl]

theorem memWf_ctrlCommand (c : CmdRef) (port op tagged : Byte) (camAddr length : Word) (dataAddr : BitVec 64) :
    (s.ctrlCommand c port op tagged camAddr length dataAddr).memWf = true := by
  unfold ctrlCommand
  grind [memWf_checked, memWf_updPort, memWf_startCtrl]

theorem memWf_writeLimit (seat p watts : Nat) : (s.writeLimit seat p watts).memWf = true := by
  unfold writeLimit
  grind [memWf_setFld, memWf_log, memWf_flagLog]

theorem memWf_writeBudget (watts : Nat) : (s.writeBudget watts).memWf = true := memWf_setFld hs ..

theorem memWf_runCxpControl (c : CmdRef) (port op tagged : Byte) (camAddr length : Word) (dataAddr : BitVec 64) :
    (s.runCxpControl c port op tagged camAddr length dataAddr).memWf = true := memWf_ctrlCommand hs ..

theorem memWf_runCxpDescription (c : CmdRef) (port : Byte) (areaAddr areaBytes : BitVec 64) :
    (s.runCxpDescription c port areaAddr areaBytes).memWf = true := by
  unfold runCxpDescription
  grind [memWf_setFld, memWf_reportUe, memWf_storeFor, memWf_complete, memWf_checked]

end

end State

end Sys2Proof.Machine

/-! PROOFS. What the line group and the scheduler's commands do keeps the memories canonical (O60). -/

namespace Sys2Proof.Machine

namespace State

set_option Elab.async false

section
variable {s : State} (hs : s.memWf = true)
include hs

/-! ### Line group messages and the switch (R369 to R383) -/

theorem memWf_grpAck (h : GrpHdr) : (s.grpAck h).memWf = true := memWf_ite (memWf_groupSend hs ..) hs

theorem memWf_noteSeq (h : GrpHdr) : (s.noteSeq h).memWf = true := hs

theorem memWf_receive (h : GrpHdr) (body : State → State) (hf : ∀ t : State, t.memWf = true → (body t).memWf = true) :
    (s.receive h body).memWf = true := by
  unfold receive
  grind [memWf_count, memWf_grpAck, memWf_noteSeq]

theorem memWf_updStrip (k : Nat) (f : StripState → StripState) : (s.updStrip k f).memWf = true := by
  unfold updStrip
  grind [memWf_kept]

theorem memWf_checkStrips (g : Bytes) (peer : Nat) (fresh : Bool) : (s.checkStrips g peer fresh).memWf = true := by
  unfold checkStrips
  grind [memWf_foldl, memWf_flagLog, memWf_updStrip]

theorem memWf_noteFormed : s.noteFormed.memWf = true := by
  unfold noteFormed
  grind [memWf_kept]

theorem memWf_dupIndex (i : Nat) : (s.dupIndex i).memWf = true := memWf_flagLog hs ..

theorem memWf_caps (h : GrpHdr) (m : CapsMsg) : (s.caps h m).memWf = true := by
  unfold caps
  grind [memWf_kept, memWf_flagLog, memWf_checkStrips, memWf_noteFormed, memWf_dupIndex]

theorem memWf_sendCaps : s.sendCaps.memWf = true := by
  unfold sendCaps
  grind [memWf_groupSend]

theorem memWf_peerAbsent (i : Nat) : (s.peerAbsent i).memWf = true := by
  unfold peerAbsent
  grind [memWf_kept, memWf_foldl, memWf_updStrip]

theorem memWf_axis (tb0 : BitVec 64) (p : Pos) (encState : Nat) : (s.axis tb0 p encState).memWf = true := by
  unfold axis
  grind [memWf_kept]

theorem memWf_sendAxis : s.sendAxis.memWf = true := by
  unfold sendAxis
  grind [memWf_groupSend]

theorem memWf_handoffRefused (h : GrpHdr) (m : HandoffMsg) (code : Nat) :
    (s.handoffRefused h m code).memWf = true := memWf_log (memWf_setFlag hs ..) ..

theorem memWf_handoffScores (h : GrpHdr) (m : HandoffMsg) (g : Bytes) (anchor : Pos × Pos) :
    (s.handoffScores h m g anchor).memWf = true := by
  unfold handoffScores
  grind [memWf_seen, memWf_updPart, memWf_damageView, memWf_judge, memWf_afterDecision, memWf_recordJoined,
    memWf_handoffRefused]

theorem memWf_handoffDecided (h : GrpHdr) (m : HandoffMsg) (g : Bytes) (anchor : Pos × Pos) :
    (s.handoffDecided h m g anchor).memWf = true := by
  unfold handoffDecided
  grind [memWf_count, memWf_setFlag, memWf_log, memWf_queueEntries, memWf_settleParts, memWf_openPart,
    memWf_handoffRefused]

theorem memWf_handoffIn (h : GrpHdr) (m : HandoffMsg) : (s.handoffIn h m).memWf = true := by
  unfold handoffIn
  grind [memWf_count, memWf_receive, memWf_handoffRefused, memWf_handoffScores, memWf_handoffDecided]

theorem memWf_stripLine (g : Bytes) (k : Nat) (m : StripMsg) : (s.stripLine g k m).memWf = true := by
  unfold stripLine
  grind [memWf_foldl, memWf_count, memWf_setFlag, memWf_store, memWf_updStrip]

theorem memWf_stripIn (sender : Nat) (m : StripMsg) : (s.stripIn sender m).memWf = true := by
  unfold stripIn
  grind [memWf_foldl, memWf_stripLine]

theorem memWf_seam (k : Nat) : (s.seam k).memWf = true := memWf_updStrip (memWf_setReg hs ..) ..

theorem memWf_eventIn (sender : Nat) (bs : Bytes) : (s.eventIn sender bs).memWf = true := memWf_enqueueRec hs ..

theorem memWf_ackIn (sender : Nat) (seq : Word) : (s.ackIn sender seq).memWf = true := hs

theorem memWf_regroup (peer : Nat) (seq : Word) : (s.regroup peer seq).memWf = true := by
  unfold regroup
  grind [memWf_kept, memWf_emit, memWf_flagLog, memWf_handoffLost, memWf_ackIn]

theorem memWf_linkDelay (inPort : Nat) (sync : Bool) : (s.linkDelay inPort sync).2.memWf = true := by
  unfold linkDelay
  grind [memWf_draw]

theorem memWf_throughClock (inPort : Nat) (f : Frame) : (s.throughClock inPort f).2.memWf = true := by
  unfold throughClock
  grind [memWf_draw, memWf_linkDelay]

theorem memWf_forward (inPort : Nat) (f : Frame) : (s.forward inPort f).memWf = true := by
  unfold forward
  grind [memWf_kept, memWf_emits, memWf_throughClock]

/-! ### Uncorrectable granules of an image (R443, R68) -/

theorem memWf_imageUe (pinned : Bool) (g : Nat) : (s.imageUe pinned g).memWf = true := by
  unfold imageUe
  grind [memWf_kept, memWf_setFlag, memWf_log, memWf_reportUe]

theorem memWf_readSet (set : Nat) : (s.readSet set).memWf = true := by
  unfold readSet
  grind [memWf_foldl, memWf_imageUe]

theorem memWf_readWeights : s.readWeights.memWf = true := by
  unfold readWeights
  grind [memWf_foldl, memWf_readSet]

theorem memWf_readPinned (n : Nat) : (s.readPinned n).memWf = true := by
  unfold readPinned
  grind [memWf_foldl, memWf_readSet]

theorem memWf_faultLost : s.faultLost.memWf = true := by
  unfold faultLost
  grind [memWf_foldl, memWf_decideDefault, memWf_afterDecision]

/-! ### Commands of the scheduler (R215 to R245) -/

theorem memWf_runCtxCreate (c : CmdRef) (pin : Byte) : (s.runCtxCreate c pin).memWf = true := by
  unfold runCtxCreate
  grind [memWf_complete, memWf_defineCtx, memWf_checked]

theorem memWf_runCtxDestroy (c : CmdRef) (context : BitVec 16) : (s.runCtxDestroy c context).memWf = true := by
  unfold runCtxDestroy
  grind [memWf_complete, memWf_turnCheck, memWf_destroyCtx, memWf_checked]

theorem memWf_runJobCancel (c : CmdRef) (context : BitVec 16) (jobTag : Word) :
    (s.runJobCancel c context jobTag).memWf = true := by
  unfold runJobCancel
  grind [memWf_foldl, memWf_complete, memWf_withdraw, memWf_turnCheck, memWf_checked]

theorem memWf_holdCore (n : Nat) (st : CoreSt) (source : Nat) : (s.holdCore n st source).memWf = true := by
  unfold holdCore
  grind [memWf_setFld, memWf_log, memWf_updCore, memWf_fence]

theorem memWf_coreHung (n : Nat) : (s.coreHung n).memWf = true := memWf_holdCore (memWf_flagLog hs ..) ..

theorem memWf_watchCore (n : Nat) (progress : Bool) : (s.watchCore n progress).memWf = true := by
  unfold watchCore
  grind [memWf_updCore, memWf_coreHung]

theorem memWf_reloaded (n : Nat) : (s.reloaded n).memWf = true := memWf_ite (memWf_updCore hs ..) hs

theorem memWf_setOffline (seat n : Nat) (on : Bool) : (s.setOffline seat n on).memWf = true := by
  unfold setOffline
  grind [memWf_setFld, memWf_log]

theorem memWf_writeSlice (who v : Nat) :
    (s.writeSlice who v).memWf = true := memWf_ite (memWf_log hs ..) (memWf_setFld hs ..)

end

end State

end Sys2Proof.Machine

/-! PROOFS. What capture and decoding do keeps the memories canonical (O60). -/

namespace Sys2Proof.Machine

namespace State

set_option Elab.async false

section
variable {s : State} (hs : s.memWf = true)
include hs

/-! ### Capture and decoding (R325 to R345) -/

theorem memWf_updLib (k : Nat) (f : Library → Library) : (s.updLib k f).memWf = true := hs

theorem memWf_libEntry (l : Library) (k : Nat) : (s.libEntry l k).1.memWf = true := by
  unfold libEntry
  grind [memWf_poke, memWf_reportUe]

theorem memWf_ringWrite (l : Library) (off : Nat) (data : Bytes) : (s.ringWrite l off data).memWf = true := by
  unfold ringWrite
  grind [memWf_store, memWf_hostStore]

theorem memWf_ringRead (l : Library) (off n : Nat) : (s.ringRead l off n).1.memWf = true := by
  unfold ringRead
  grind [memWf_reportUe]

theorem memWf_libSettle (k : Nat) : (s.libSettle k).memWf = true := by
  unfold libSettle
  grind [memWf_updLib]

theorem memWf_dropOldest (k : Nat) : (s.dropOldest k).memWf = true := by
  unfold dropOldest
  grind [memWf_poke, memWf_updLib, memWf_libSettle]

theorem memWf_makeFit (k n fuel : Nat) : (s.makeFit k n fuel).memWf = true := by
  induction fuel generalizing s with
  | zero => exact hs
  | succ n ih =>
    unfold makeFit
    grind [memWf_dropOldest]

theorem memWf_cropPlanes (c : Crop) (shift : Nat) : (s.cropPlanes c shift).1.memWf = true := by
  unfold cropPlanes
  grind [memWf_foldl, memWf_foldl_fst, memWf_touchLine]

theorem memWf_abandonWith (id flag : Nat) :
    (s.abandonWith id flag).memWf = true := memWf_abandonCrop (memWf_setFlag hs ..) ..

theorem memWf_putSample (c : Crop) (p : Part) (k : Nat) (data : Bytes) (comps : Nat) (twelve damaged : Bool) :
    (s.putSample c p k data comps twelve damaged).memWf = true := by
  unfold putSample
  grind [memWf_count, memWf_store, memWf_updPart, memWf_dropCrop, memWf_abandonCrop, memWf_updLib, memWf_ringWrite,
    memWf_libSettle]

theorem memWf_encodeCrop : s.encodeCrop.memWf = true := by
  unfold encodeCrop
  grind [memWf_abandonCrop, memWf_libSettle, memWf_makeFit, memWf_cropPlanes, memWf_abandonWith, memWf_putSample]

theorem memWf_detachLib (k : Nat) : (s.detachLib k).memWf = true := memWf_updLib hs ..

theorem memWf_detachSeat (seat : Nat) : (s.detachSeat seat).memWf = true := by
  unfold detachSeat
  grind [memWf_foldl, memWf_log, memWf_detachLib]

theorem memWf_runLibraryAttach (c : CmdRef) (library : Byte) (hostAddr bytes : BitVec 64) :
    (s.runLibraryAttach c library hostAddr bytes).memWf = true := by
  unfold runLibraryAttach
  grind [memWf_log, memWf_complete, memWf_checked, memWf_updLib, memWf_libSettle, memWf_detachLib]

theorem memWf_setDec (n : Nat) (d : DecStream) : (s.setDec n d).memWf = true := hs

theorem memWf_lookUp (library sample : Nat) : (s.lookUp library sample).1.memWf = true := by
  unfold lookUp
  grind [memWf_libEntry]

theorem memWf_request (n library sample position : Nat) (by' : Option CmdRef) (outAddr outBytes : Nat) (det : Bool) :
    (s.request n library sample position by' outAddr outBytes det).memWf = true := memWf_setDec (memWf_lookUp hs ..) ..

theorem memWf_settleReq (n : Nat) (r : DecReq) (o : Outcome') (cycles : Nat) :
    (s.settleReq n r o cycles).memWf = true := by
  unfold settleReq
  grind [memWf_setFlag, memWf_setDec]

theorem memWf_settleEarly (n fuel : Nat) : (s.settleEarly n fuel).memWf = true := by
  induction fuel generalizing s with
  | zero => exact hs
  | succ n ih =>
    unfold settleEarly
    grind [memWf_settleReq]

theorem memWf_settleDec (n : Nat) : (s.settleDec n).memWf = true := memWf_settleEarly hs ..

theorem memWf_cacheSample (e : CacheEntry) : (s.cacheSample e).memWf = true := by
  unfold cacheSample
  grind [memWf_kept]

theorem memWf_withinBudget (n : Nat) (r : DecReq) (mcus cycles : Nat) (f : State → State)
    (hf : ∀ t : State, t.memWf = true → (f t).memWf = true) : (s.withinBudget n r mcus cycles f).memWf = true := by
  unfold withinBudget
  grind [memWf_draw, memWf_settleReq]

theorem memWf_finishReq (n : Nat) (r : DecReq) : (s.finishReq n r).memWf = true := by
  unfold finishReq
  grind [memWf_count, memWf_draw, memWf_libEntry, memWf_ringRead, memWf_settleReq, memWf_cacheSample,
    memWf_withinBudget]

theorem memWf_decodeDone (n : Nat) : (s.decodeDone n).memWf = true := by
  unfold decodeDone
  grind [memWf_settleDec, memWf_finishReq]

theorem memWf_decodeTimeout (n : Nat) : (s.decodeTimeout n).memWf = true := by
  unfold decodeTimeout
  grind [memWf_ringRead, memWf_settleDec, memWf_withinBudget]

theorem memWf_markDelivered (n : Nat) (r : DecReq) (event : Nat) : (s.markDelivered n r event).memWf = true := by
  unfold markDelivered
  grind [memWf_count, memWf_flagLog, memWf_setDec]

theorem memWf_deliverSeat (n : Nat) (r : DecReq) : (s.deliverSeat n r).memWf = true := by
  unfold deliverSeat
  grind [memWf_storeFor, memWf_answer, memWf_setDec, memWf_markDelivered]

theorem memWf_runSampleDecode (c : CmdRef) (library : Byte) (sampleIndex outAddr : BitVec 64) (outBytes : Word) :
    (s.runSampleDecode c library sampleIndex outAddr outBytes).memWf = true := by
  unfold runSampleDecode
  grind [memWf_checked, memWf_request, memWf_settleDec]

theorem memWf_flushCache : s.flushCache.memWf = true := hs

end

end State

end Sys2Proof.Machine

/-! PROOFS. What training does keeps the memories canonical (O60). -/

namespace Sys2Proof.Machine

namespace State

set_option Elab.async false

section
variable {s : State} (hs : s.memWf = true)
include hs

/-! ### Training (R346 to R367) -/

theorem memWf_updTrain (j : Nat) (f : TrainJob → TrainJob) : (s.updTrain j f).memWf = true := hs

theorem memWf_startTrain (j : Nat) : (s.startTrain j).memWf = true := by
  unfold startTrain
  grind [memWf_setDec, memWf_updTrain]

theorem memWf_addUnit (j : Nat) (k : JobKind) (stage aux : Nat) : (s.addUnit j k stage aux).memWf = true := by
  unfold addUnit
  grind [memWf_updCmd, memWf_addJob, memWf_addCmd, memWf_makeReady]

theorem memWf_checkBoundary (j batch : Nat) :
    (s.checkBoundary j batch).memWf = true := memWf_ite (memWf_updTrain hs ..) hs

theorem memWf_publishBoundary (j : Nat) (r : Bytes) :
    (s.publishBoundary j r).memWf = true := memWf_ite (memWf_addUnit hs ..) hs

theorem memWf_feedUnits (j fuel : Nat) : (s.feedUnits j fuel).memWf = true := by
  induction fuel generalizing s with
  | zero => exact hs
  | succ n ih =>
    unfold feedUnits
    grind [memWf_addUnit]

theorem memWf_pumpTrain (j : Nat) : (s.pumpTrain j).memWf = true := by
  unfold pumpTrain
  grind [memWf_updTrain, memWf_addUnit, memWf_feedUnits]

theorem memWf_stopTrain (j status : Nat) : (s.stopTrain j status).memWf = true := by
  unfold stopTrain
  grind [memWf_foldl, memWf_complete, memWf_withdraw, memWf_setDec, memWf_updTrain]

theorem memWf_cacheUe (j : Nat) : (s.cacheUe j).memWf = true := by
  unfold cacheUe
  grind [memWf_kept, memWf_foldl, memWf_draw, memWf_reportUe, memWf_stopTrain]

theorem memWf_requestAt (j : Nat) (r : Bytes) (p : Nat) : (s.requestAt j r p).memWf = true := by
  unfold requestAt
  grind [memWf_request]

theorem memWf_epochStart (j : Nat) : (s.epochStart j).memWf = true := by
  unfold epochStart
  grind [memWf_foldl, memWf_setDec, memWf_settleDec, memWf_updTrain, memWf_requestAt]

theorem memWf_deliverTrain (j : Nat) (q : DecReq) : (s.deliverTrain j q).memWf = true := by
  unfold deliverTrain
  grind [memWf_setFlag, memWf_markDelivered, memWf_updTrain, memWf_pumpTrain]

theorem memWf_deliver (n : Nat) : (s.deliver n).memWf = true := by
  unfold deliver
  grind [memWf_deliverSeat, memWf_deliverTrain]

theorem memWf_commitSample (j event : Nat) : (s.commitSample j event).memWf = true := by
  unfold commitSample
  grind [memWf_updTrain, memWf_pumpTrain, memWf_cacheUe]

theorem memWf_consumeReqs (j stop : Nat) : (s.consumeReqs j stop).memWf = true := memWf_setDec hs ..

theorem memWf_stepOver (j : Nat) (r : Bytes) : (s.stepOver j r).memWf = true := by
  unfold stepOver
  grind [memWf_updTrain, memWf_checkBoundary, memWf_publishBoundary, memWf_pumpTrain, memWf_consumeReqs]

theorem memWf_commitStep (j : Nat) : (s.commitStep j).memWf = true := by
  unfold commitStep
  grind [memWf_flagLog, memWf_updTrain, memWf_stopTrain, memWf_cacheUe, memWf_stepOver]

theorem memWf_commitPublish (j : Nat) : (s.commitPublish j).memWf = true := by
  unfold commitPublish
  grind [memWf_kept, memWf_foldl, memWf_setFlag, memWf_complete, memWf_cancelShadow, memWf_clearTally, memWf_updTrain,
    memWf_pumpTrain]

theorem memWf_onJob (c : CmdRef) (job : Byte) (ok : List TrainSt) (more : List (Bool × Nat)) (body : State → State)
    (hf : ∀ t : State, t.memWf = true → (body t).memWf = true) : (s.onJob c job ok more body).memWf = true := by
  unfold onJob
  grind [memWf_checked]

theorem memWf_runTrainStart (c : CmdRef) (job : Byte) : (s.runTrainStart c job).memWf = true := by
  unfold runTrainStart
  grind [memWf_complete, memWf_startTrain, memWf_onJob]

theorem memWf_runTrainPause (c : CmdRef) (job : Byte) : (s.runTrainPause c job).memWf = true := by
  unfold runTrainPause
  grind [memWf_complete, memWf_updTrain, memWf_onJob]

theorem memWf_runTrainResume (c : CmdRef) (job : Byte) : (s.runTrainResume c job).memWf = true := by
  unfold runTrainResume
  grind [memWf_complete, memWf_updTrain, memWf_pumpTrain, memWf_onJob]

theorem memWf_runTrainStop (c : CmdRef) (job : Byte) : (s.runTrainStop c job).memWf = true := by
  unfold runTrainStop
  grind [memWf_complete, memWf_stopTrain, memWf_onJob]

theorem memWf_runTrainCheckpoint (c : CmdRef) (job : Byte) (areaAddr areaBytes : BitVec 64) :
    (s.runTrainCheckpoint c job areaAddr areaBytes).memWf = true := by
  unfold runTrainCheckpoint
  grind [memWf_updTrain, memWf_checkBoundary, memWf_onJob]

theorem memWf_runCandidatePublish (c : CmdRef) (job : Byte) : (s.runCandidatePublish c job).memWf = true := by
  unfold runCandidatePublish
  grind [memWf_updTrain, memWf_publishBoundary, memWf_onJob]

theorem memWf_writeCheckpoint (j : Nat) : (s.writeCheckpoint j).memWf = true := by
  unfold writeCheckpoint
  grind [memWf_storeFor, memWf_complete, memWf_updTrain, memWf_pumpTrain]

theorem memWf_readBuf (a n seat : Nat) : (s.readBuf a n seat).1.memWf = true := by
  unfold readBuf
  grind [memWf_reportUe]

theorem memWf_restoreTrain (j : Nat) (r b : Bytes) (i : Image) : (s.restoreTrain j r b i).memWf = true := by
  unfold restoreTrain
  grind [memWf_foldl, memWf_draw, memWf_setDec, memWf_settleDec, memWf_updTrain, memWf_requestAt]

theorem memWf_runTrainRestore (c : CmdRef) (job : Byte) (recordAddr : BitVec 64) :
    (s.runTrainRestore c job recordAddr).memWf = true := by
  unfold runTrainRestore
  grind [memWf_foldl, memWf_complete, memWf_onJob, memWf_readBuf, memWf_restoreTrain]

/-! ### Stripe jobs (R123, R128) -/

theorem memWf_takeInput (i : Image) (j : Job) : (s.takeInput i j).memWf = true := by
  unfold takeInput
  grind [memWf_foldl, memWf_releaseJob, memWf_updJob, memWf_touchLine]

end

end State

end Sys2Proof.Machine

/-! PROOFS. What image commands, tails and the commit point do keeps the memories canonical (O60). -/

namespace Sys2Proof.Machine

namespace State

set_option Elab.async false

section
variable {s : State} (hs : s.memWf = true)
include hs

/-! ### Image commands (R54 to R71) -/

theorem memWf_setLock (o : Option (Fin 4)) : (s.setLock o).memWf = true := by
  unfold setLock
  grind [memWf_kept, memWf_raiseAll]

theorem memWf_noteOverride (seat : Fin 4) : (s.noteOverride seat).memWf = true := memWf_log hs ..

theorem memWf_imageGate (c : CmdRef) (h : Hdr) (body : State → State)
    (hf : ∀ t : State, t.memWf = true → (body t).memWf = true) : (s.imageGate c h body).memWf = true := by
  unfold imageGate
  grind [memWf_complete, memWf_noteOverride]

theorem memWf_runImageLock (c : CmdRef) (h : Hdr) : (s.runImageLock c h).memWf = true := by
  unfold runImageLock
  grind [memWf_complete, memWf_setLock, memWf_noteOverride]

theorem memWf_runImageVerify (c : CmdRef) (h : Hdr) (length : BitVec 64) :
    (s.runImageVerify c h length).memWf = true := by
  unfold runImageVerify
  grind [memWf_kept, memWf_complete, memWf_imageGate]

theorem memWf_noteSig (ok : Bool) : (s.noteSig ok).memWf = true := by
  unfold noteSig
  grind [memWf_count, memWf_setFlag]

theorem memWf_verified : s.verified.memWf = true := by
  unfold verified
  grind [memWf_kept, memWf_reportUe, memWf_autoFail, memWf_answer, memWf_addItem, memWf_noteSig]

theorem memWf_runImageApply (c : CmdRef) (h : Hdr) (fieldChange : Byte) :
    (s.runImageApply c h fieldChange).memWf = true := by
  unfold runImageApply
  grind [memWf_kept, memWf_complete, memWf_checked, memWf_addItem, memWf_imageGate]

theorem memWf_runApplyCancel (c : CmdRef) (h : Hdr) : (s.runApplyCancel c h).memWf = true := by
  unfold runApplyCancel
  grind [memWf_kept, memWf_dropItem, memWf_complete, memWf_answer, memWf_imageGate]

theorem memWf_runImageStore (c : CmdRef) (h : Hdr) : (s.runImageStore c h).memWf = true := by
  unfold runImageStore
  grind [memWf_kept, memWf_complete, memWf_checked, memWf_imageGate]

theorem memWf_runImageQuery (c : CmdRef) (addr : BitVec 64) : (s.runImageQuery c addr).memWf = true := by
  unfold runImageQuery
  grind [memWf_storeFor, memWf_complete, memWf_checked]

theorem memWf_runOverlayApply (c : CmdRef) (h : Hdr) (addr : BitVec 64) :
    (s.runOverlayApply c h addr).memWf = true := by
  unfold runOverlayApply
  refine memWf_ite (memWf_complete hs ..) (memWf_imageGate hs _ _ _ fun t ht => ?_)
  refine memWf_ite (memWf_complete ht ..) (memWf_ite (memWf_complete ht ..) ?_)
  have hread := memWf_readBuf ht addr.toNat 64 c.seat
  split
  · next u hu =>
    rw [hu] at hread
    exact memWf_complete hread ..
  · next u header hu =>
    rw [hu] at hread
    split
    · exact memWf_complete hread ..
    · refine memWf_ite (memWf_complete hread ..) ?_
      grind [memWf_store, memWf_complete, memWf_addItem, memWf_readBuf, memWf_noteSig]

theorem memWf_runOverlayRevert (c : CmdRef) (h : Hdr) (gen : Byte) : (s.runOverlayRevert c h gen).memWf = true := by
  unfold runOverlayRevert
  grind [memWf_checked, memWf_addItem, memWf_imageGate]

theorem memWf_signed (body : Bytes) : (s.signed body).1.memWf = true := hs

theorem memWf_runPromote (c : CmdRef) (h : Hdr) (force : Byte) : (s.runPromote c h force).memWf = true := by
  unfold runPromote
  dsimp only
  refine memWf_checked hs _ _ _ fun t ht => ?_
  generalize promotionBody _ _ _ = body
  have hsigned := memWf_signed ht body
  generalize t.signed body = p at hsigned
  exact memWf_ite (memWf_complete hsigned ..) (memWf_addItem hsigned ..)

theorem memWf_storePromotion : s.storePromotion.memWf = true := by
  unfold storePromotion
  grind [memWf_kept, memWf_store]

/-! ### Object mode (R254, R270) -/

theorem memWf_takeMember (n next : Nat) (r : Bytes) (m : Anchor) : (s.takeMember n next r m).memWf = true := by
  unfold takeMember
  grind [memWf_setFlag, memWf_updObjects, memWf_closeObjects]

theorem memWf_takeStripes (n fuel : Nat) : (s.takeStripes n fuel).memWf = true := by
  induction fuel generalizing s with
  | zero => exact hs
  | succ n ih =>
    unfold takeStripes
    grind [memWf_foldl, memWf_numberScopes, memWf_updObjects, memWf_closeObjects, memWf_closeRun, memWf_takeMember]

theorem memWf_publishMembers (j : Job) (r : JobResult) (t : InTensor) : (s.publishMembers j r t).memWf = true := by
  unfold publishMembers
  grind [memWf_setFlag, memWf_updObjects, memWf_takeStripes]

/-! ### Tails and history (R200 to R209) -/

theorem memWf_countVoid (slot : Nat) : (s.countVoid slot).memWf = true := by
  unfold countVoid
  grind [memWf_foldl, memWf_notePart, memWf_updHist]

theorem memWf_countVoids : s.countVoids.memWf = true := by
  unfold countVoids
  grind [memWf_foldl, memWf_countVoid]

theorem memWf_settleScope (slot : Nat) : (s.settleScope slot).memWf = true := by
  unfold settleScope
  grind [memWf_notePart]

theorem memWf_histWrite (n : Nat) : (s.histWrite n).memWf = true := by
  unfold histWrite
  grind [memWf_foldl, memWf_store, memWf_notePart, memWf_afterDecision, memWf_readyCheck, memWf_updHist,
    memWf_putHist, memWf_countVoids, memWf_settleScope]

theorem memWf_histHeader (n : Nat) : (s.histHeader n).memWf = true := memWf_putHist (memWf_countVoids hs ..) ..

theorem memWf_noteLookups (out : TailOut) : (s.noteLookups out).memWf = true := by
  unfold noteLookups
  grind [memWf_foldl, memWf_reportUe, memWf_updHist]

theorem memWf_fillDigests (slot : Nat) : (s.fillDigests slot).memWf = true := by
  unfold fillDigests
  grind [memWf_updPart]

theorem memWf_handScores (slot model : Nat) (vs : List View) : (s.handScores slot model vs).memWf = true := by
  unfold handScores
  grind [memWf_foldl, memWf_handoff]

theorem memWf_commitTail (i : Image) (j : Job) : (s.commitTail i j).memWf = true := by
  unfold commitTail
  grind [memWf_updPart, memWf_judge, memWf_recordJoined, memWf_settleScope, memWf_noteLookups, memWf_fillDigests,
    memWf_handScores]

/-! ### The commit point (R218 to R220) -/

theorem memWf_readStages : s.readStages.1.memWf = true := by
  unfold readStages
  grind [memWf_foldl, memWf_foldl_fst, memWf_draw, memWf_reportUe]

theorem memWf_commitStripe (i : Image) (j : Job) : (s.commitStripe i j).memWf = true := by
  unfold commitStripe
  grind [memWf_foldl, memWf_updStream, memWf_updJob, memWf_damageView, memWf_judge, memWf_publishMembers,
    memWf_readStages]

theorem memWf_commitReplay (i : Image) (job : Job) : (s.commitReplay i job).memWf = true := by
  unfold commitReplay
  grind [memWf_kept, memWf_foldl, memWf_reportUe, memWf_storeFor, memWf_answer]

theorem memWf_runJobReplay (c : CmdRef) (context : BitVec 16) (model stream : Byte) (lines : Word)
    (lineAddr resultAddr : BitVec 64) (resultBytes : Word) :
    (s.runJobReplay c context model stream lines lineAddr resultAddr resultBytes).memWf = true := by
  unfold runJobReplay
  grind [memWf_kept, memWf_foldl, memWf_addJob, memWf_addCmd, memWf_turnCheck, memWf_readyCheck, memWf_checked]

theorem memWf_commitCmd (x : Cmd) (j : Job) (last : Bool) : (s.commitCmd x j last).memWf = true := by
  unfold commitCmd
  grind [memWf_kept, memWf_commitSample, memWf_commitStep, memWf_commitPublish, memWf_takeInput, memWf_commitTail,
    memWf_commitStripe, memWf_commitReplay]

theorem memWf_dropDoomed (x : Cmd) : (s.dropDoomed x).memWf = true := by
  unfold dropDoomed
  grind [memWf_kept, memWf_releaseJob]

theorem memWf_publish (n : Nat) : (s.publish n).memWf = true := by
  unfold publish
  grind [memWf_kept, memWf_foldl, memWf_count, memWf_updCore, memWf_ctxCheck, memWf_turnCheck, memWf_turnCommit,
    memWf_afterDecision, memWf_readyCheck, memWf_deadlineOf, memWf_commitCmd, memWf_dropDoomed]

end

end State

end Sys2Proof.Machine

/-! PROOFS. What the load of an image does keeps the memories canonical (O60). -/

namespace Sys2Proof.Machine

namespace State

set_option Elab.async false

section
variable {s : State} (hs : s.memWf = true)
include hs

/-! ### The load phase (R63) -/

theorem memWf_showRegion (n base size : Nat) :
    (s.showRegion n base size).memWf = true := memWf_setReg (memWf_setPair hs ..) ..

theorem memWf_loadPlan (p : Plan) : (s.loadPlan p).memWf = true := by
  unfold loadPlan
  grind [memWf_kept, memWf_foldl, memWf_showRegion]

theorem memWf_zero (a n : Nat) : (s.zero a n).memWf = true := memWf_of_mem hs (wf_zero s a n) rfl rfl

theorem memWf_closeOldParts (kept : Nat → Bool) : (s.closeOldParts kept).memWf = true := by
  unfold closeOldParts
  grind [memWf_kept, memWf_foldl, memWf_numberScopes, memWf_countVoids, memWf_histWrite]

theorem memWf_finishCommits : s.finishCommits.memWf = true := by
  unfold finishCommits
  grind [memWf_foldl, memWf_publish]

theorem memWf_clearWork : s.clearWork.memWf = true := by
  unfold clearWork
  grind [memWf_kept, memWf_foldl, memWf_updCore, memWf_withdraw, memWf_cancelJob]

theorem memWf_loadContexts (i : Image) : (s.loadContexts i).memWf = true := by
  unfold loadContexts
  grind [memWf_kept, memWf_foldl, memWf_defineCtx, memWf_swapIn]

theorem memWf_moveDescs (old : StreamLayout) (b : Word) (line n : Nat) (y : StreamLayout) :
    (s.moveDescs old b line n y).memWf = true := by
  unfold moveDescs
  grind [memWf_foldl, memWf_store]

theorem memWf_loadStatRing (n : Nat) (old : Option Stream) (x : Stream) : (s.loadStatRing n old x).memWf = true := by
  unfold loadStatRing
  grind [memWf_setFld, memWf_setReg, memWf_count, memWf_setPair, memWf_store]

theorem memWf_dropStatRing (n : Nat) : (s.dropStatRing n).memWf = true := by
  unfold dropStatRing
  grind [memWf_setReg, memWf_count, memWf_setPair]

theorem memWf_loadStreams (i : Image) (p : Plan) (restart : Bool) : (s.loadStreams i p restart).memWf = true := by
  unfold loadStreams
  grind [memWf_kept, memWf_foldl, memWf_store, memWf_setStream, memWf_flushStats, memWf_putHeader, memWf_zero,
    memWf_moveDescs, memWf_loadStatRing, memWf_dropStatRing]

theorem memWf_fileGap (n : Nat) : (s.fileGap n).memWf = true := by
  unfold fileGap
  grind [memWf_foldl, memWf_setStream, memWf_fileRaw]

theorem memWf_loadStores (i : Image) (p : Plan) : (s.loadStores i p).memWf = true := by
  unfold loadStores
  grind [memWf_kept, memWf_foldl, memWf_store, memWf_putHist]

theorem memWf_loadLibraries (i : Image) (p : Plan) : (s.loadLibraries i p).memWf = true := by
  unfold loadLibraries
  grind [memWf_kept, memWf_foldl, memWf_setReg, memWf_setPair, memWf_zero]

theorem memWf_dropCrops (kept : Nat → Bool) : (s.dropCrops kept).memWf = true := by
  unfold dropCrops
  grind [memWf_foldl, memWf_abandonCrop]

theorem memWf_clearTraining : s.clearTraining.memWf = true := by
  unfold clearTraining
  grind [memWf_kept, memWf_foldl, memWf_setReg, memWf_updTrain, memWf_stopTrain]

theorem memWf_loadTraining (i : Image) : (s.loadTraining i).memWf = true := by
  unfold loadTraining
  grind [memWf_kept, memWf_foldl, memWf_setPair, memWf_clearTally, memWf_startTrain, memWf_pumpTrain]

theorem memWf_loadEnc (n : Nat) (r : Bytes) : (s.loadEnc n r).memWf = true := memWf_setEnc hs ..

theorem memWf_loadField (i : Image) : (s.loadField i).memWf = true := by
  unfold loadField
  grind [memWf_kept, memWf_foldl, memWf_setPair, memWf_startDivider, memWf_loadEnc]

theorem memWf_loadTime (same : Bool) : (s.loadTime same).memWf = true := by
  unfold loadTime
  grind [memWf_foldl, memWf_updBase, memWf_ptpStart]

theorem memWf_dropGroup : s.dropGroup.memWf = true := by
  unfold dropGroup
  grind [memWf_kept, memWf_foldl, memWf_answer]

theorem memWf_loadGroup (same : Bool) : (s.loadGroup same).memWf = true := by
  unfold loadGroup
  grind [memWf_sendCaps, memWf_dropGroup]

theorem memWf_powerPorts (i : Image) : (s.powerPorts i).memWf = true := by
  unfold powerPorts
  grind [memWf_foldl, memWf_draw, memWf_powerUp, memWf_bindPorts]

end

end State

end Sys2Proof.Machine

/-! PROOFS. What launch edges and an apply do keeps the memories canonical (O60). -/

namespace Sys2Proof.Machine

namespace State

set_option Elab.async false

section
variable {s : State} (hs : s.memWf = true)
include hs

/-! ### Launch edges and an apply (R59 to R68, R321) -/

theorem memWf_stateChanged (old : Word) : (s.stateChanged old).memWf = true := memWf_ite hs (memWf_raiseAll hs ..)

theorem memWf_setPower (m : PowerMode) : (s.setPower m).memWf = true := by
  unfold setPower
  grind [memWf_kept, memWf_foldl, memWf_updCore, memWf_stateChanged]

theorem memWf_overlayStarts (launch addr : Nat) (record : Bytes) (by' : Option CmdRef) (promoted : Option Nat) :
    (s.overlayStarts launch addr record by' promoted).memWf = true := by
  unfold overlayStarts
  grind [memWf_kept, memWf_foldl, memWf_reachOverlays]

theorem memWf_overlayEdge (it : LaunchItem) (addr : Nat) (record : Bytes) (promoted : Option Nat) :
    (s.overlayEdge it addr record promoted).memWf = true := by
  unfold overlayEdge
  grind [memWf_answer, memWf_overlayStarts]

theorem memWf_revertEdge (it : LaunchItem) (gen : Nat) : (s.revertEdge it gen).memWf = true := by
  unfold revertEdge
  grind [memWf_kept, memWf_answer, memWf_mapStreams]

theorem memWf_overlayGapEnd : s.overlayGapEnd.memWf = true := by
  unfold overlayGapEnd
  grind [memWf_kept, memWf_answer]

theorem memWf_closedBoundaries (t : Nat) : (s.closedBoundaries t).memWf = true := by
  unfold closedBoundaries
  grind [memWf_foldl, memWf_takeBoundary]

theorem memWf_applyEdge (it : LaunchItem) (fieldChange : Bool) : (s.applyEdge it fieldChange).memWf = true := by
  unfold applyEdge
  split
  · exact memWf_answer hs ..
  · extract_lets img1 s1 change run img2 s2
    have h1 : s1.memWf = true := (memWf_kept s).trans hs
    have h2 : s2.memWf = true := (memWf_kept s1).trans h1
    exact memWf_ite (memWf_ite (memWf_answer h1 ..) (memWf_autoFail h1 ..))
      (memWf_closedBoundaries (memWf_setDev h2 ..) ..)

theorem memWf_fieldWaitEnd : s.fieldWaitEnd.memWf = true := by
  unfold fieldWaitEnd
  grind [memWf_kept, memWf_closedBoundaries]

theorem memWf_startLoad : s.startLoad.memWf = true := by
  unfold startLoad
  grind [memWf_kept]

theorem memWf_drainEnd : s.drainEnd.memWf = true := by
  unfold drainEnd
  grind [memWf_startLoad]

theorem memWf_drainTimeout : s.drainTimeout.memWf = true := by
  unfold drainTimeout
  grind [memWf_foldl, memWf_withdraw, memWf_decideDefault, memWf_afterDecision, memWf_takeBoundary, memWf_startLoad]

theorem memWf_loadModes (a : ApplyRun) : (s.loadModes a).memWf = true := by
  unfold loadModes
  grind [memWf_kept, memWf_setFld, memWf_setPower]

theorem memWf_dropOverlays : s.dropOverlays.memWf = true := by
  unfold dropOverlays
  grind [memWf_kept, memWf_foldl, memWf_answer]

theorem memWf_replayEdges (a : ApplyRun) : (s.replayEdges a).memWf = true := by
  unfold replayEdges
  grind [memWf_foldl, memWf_openAtEdge]

theorem memWf_dropRestores : s.dropRestores.memWf = true := by
  unfold dropRestores
  grind [memWf_foldl, memWf_answer, memWf_mapStreams]

theorem memWf_loadDone (a : ApplyRun) (p : Plan) : (s.loadDone a p).memWf = true := by
  unfold loadDone
  grind [memWf_kept, memWf_foldl, memWf_setDev, memWf_answer, memWf_loadPlan, memWf_closeOldParts,
    memWf_finishCommits, memWf_clearWork, memWf_loadContexts, memWf_loadStreams, memWf_fileGap, memWf_loadStores,
    memWf_loadLibraries, memWf_dropCrops, memWf_clearTraining, memWf_loadTraining, memWf_loadField, memWf_loadTime,
    memWf_loadGroup, memWf_powerPorts, memWf_loadModes, memWf_dropOverlays, memWf_replayEdges, memWf_dropRestores]

theorem memWf_loadFailed (a : ApplyRun) (code : Nat) : (s.loadFailed a code).memWf = true := by
  unfold loadFailed
  extract_lets streams img1 s1 divs motion s2 warn s3 old s4 s5 new s6 s7
  have h2 : s2.memWf = true := (memWf_kept s1).trans ((memWf_kept s).trans hs)
  have h3 : s3.memWf = true := memWf_log (memWf_setDev h2 ..) ..
  have h4 : s4.memWf = true := memWf_foldl _ _ _ h3 fun t n ht => memWf_updStream ht ..
  have h5 : s5.memWf = true := memWf_replayEdges h4 ..
  have h6 : s6.memWf = true := memWf_foldl _ _ _ h5 fun t k ht => memWf_decideDefault ht ..
  have h7 : s7.memWf = true := memWf_afterDecision (memWf_foldl _ _ _ h6 fun t n ht => memWf_fileGap ht ..)
  exact memWf_answer h7 ..

theorem memWf_loadEnd (failed : Option Nat) : (s.loadEnd failed).memWf = true := by
  unfold loadEnd
  split
  · exact hs
  · refine memWf_ite hs ?_
    split
    · exact memWf_loadFailed hs ..
    · exact memWf_loadFailed hs ..
    · exact memWf_loadDone hs ..

theorem memWf_detEdge (it : LaunchItem) (mode : Nat) : (s.detEdge it mode).memWf = true := by
  unfold detEdge
  grind [memWf_kept, memWf_answer, memWf_stateChanged]

theorem memWf_powerEdge (it : LaunchItem) (m : PowerMode) : (s.powerEdge it m).memWf = true := by
  unfold powerEdge
  grind [memWf_kept, memWf_answer, memWf_setPower]

theorem memWf_pauseEdge (it : LaunchItem) (n : Nat) (pause : Bool) : (s.pauseEdge it n pause).memWf = true := by
  unfold pauseEdge
  grind [memWf_log, memWf_answer, memWf_updStream]

theorem memWf_restoreEdge (it : LaunchItem) (n : Nat) (r : Bytes) (delta : Pos) :
    (s.restoreEdge it n r delta).memWf = true := by
  unfold restoreEdge
  grind [memWf_answer, memWf_setStream, memWf_restoreNow]

theorem memWf_fireItem (it : LaunchItem) : (s.fireItem it).memWf = true := by
  unfold fireItem
  grind [memWf_answer, memWf_overlayEdge, memWf_revertEdge, memWf_applyEdge, memWf_detEdge, memWf_powerEdge,
    memWf_pauseEdge, memWf_restoreEdge]

theorem memWf_discardItem (it : LaunchItem) : (s.discardItem it).memWf = true := by
  unfold discardItem
  grind [memWf_kept, memWf_log]

theorem memWf_noteRivals (due : List LaunchItem) : (s.noteRivals due).memWf = true := by
  unfold noteRivals
  grind [memWf_foldl, memWf_log]

theorem memWf_edgeItem (it : LaunchItem) : (s.edgeItem it).memWf = true := by
  unfold edgeItem
  grind [memWf_log, memWf_fireItem, memWf_discardItem]

theorem memWf_fireDue : s.fireDue.memWf = true := by
  unfold fireDue
  grind [memWf_kept, memWf_foldl, memWf_noteRivals, memWf_edgeItem]

/-! ### Launches, saves and restores (R317 to R324) -/

theorem memWf_runPowerMode (c : CmdRef) (h : Hdr) (mode : Byte) : (s.runPowerMode c h mode).memWf = true := by
  unfold runPowerMode
  grind [memWf_checked, memWf_addItem]

theorem memWf_runDetOverride (c : CmdRef) (h : Hdr) (mode : Byte) : (s.runDetOverride c h mode).memWf = true := by
  unfold runDetOverride
  grind [memWf_checked, memWf_addItem]

theorem memWf_runPause (c : CmdRef) (h : Hdr) (stream : Byte) (pause : Bool) :
    (s.runPause c h stream pause).memWf = true := by
  unfold runPause
  grind [memWf_checked, memWf_addItem]

theorem memWf_runStreamSave (c : CmdRef) (stream : Byte) (areaAddr areaBytes : BitVec 64) :
    (s.runStreamSave c stream areaAddr areaBytes).memWf = true := by
  unfold runStreamSave
  grind [memWf_storeFor, memWf_complete, memWf_checked]

theorem memWf_runStreamRestore (c : CmdRef) (h : Hdr) (stream : Byte) (addr delta : BitVec 64) :
    (s.runStreamRestore c h stream addr delta).memWf = true := by
  unfold runStreamRestore
  grind [memWf_complete, memWf_addItem, memWf_readBuf]

theorem memWf_runLaunched (c : CmdRef) (i : Instr) : ∀ t, s.runLaunched c i = some t → t.memWf = true := by
  unfold runLaunched
  grind [memWf_runImageApply, memWf_runOverlayApply, memWf_runOverlayRevert, memWf_runPromote, memWf_runPowerMode,
    memWf_runDetOverride, memWf_runPause, memWf_runStreamRestore]

theorem memWf_checkItem (e : Bytes) (launch : Nat) : (s.checkItem e launch).1.memWf = true := by
  unfold checkItem
  grind [memWf_kept, memWf_keptHost, memWf_runLaunched]

theorem memWf_goNow (launch : Nat) : (s.goNow launch).memWf = true := hs

theorem memWf_endGroup (launch status refusing : Nat) : (s.endGroup launch status refusing).memWf = true := by
  unfold endGroup
  grind [memWf_kept, memWf_answer]

theorem memWf_groupReady (launch : Nat) : (s.groupReady launch).memWf = true := by
  unfold groupReady
  grind [memWf_foldl, memWf_groupSend, memWf_goNow, memWf_endGroup]

theorem memWf_groupAnswered (launch sender status : Nat) : (s.groupAnswered launch sender status).memWf = true := by
  unfold groupAnswered
  grind [memWf_kept, memWf_endGroup, memWf_groupReady]

theorem memWf_runGroupLaunch (c : CmdRef) (h : Hdr) (addr : BitVec 64) :
    (s.runGroupLaunch c h addr).memWf = true := by
  unfold runGroupLaunch
  grind [memWf_kept, memWf_foldl, memWf_complete, memWf_groupSend, memWf_readBuf, memWf_checkItem,
    memWf_groupAnswered]

theorem memWf_sendAnswer (sender : Nat) (seq : Word) (payload : Bytes) :
    (s.sendAnswer sender seq payload).memWf = true := by
  unfold sendAnswer
  grind [memWf_kept, memWf_groupSend]

theorem memWf_launchItem (sender : Nat) (seq : Word) (e : Bytes) (launch : Nat) :
    (s.launchItem sender seq e launch).memWf = true := by
  unfold launchItem
  grind [memWf_checkItem, memWf_sendAnswer]

theorem memWf_answerAgain (g : GrpHdr) : (s.answerAgain g).memWf = true := by
  unfold answerAgain
  grind [memWf_groupSend]

theorem memWf_launchAnswer (sender launch status : Nat) : (s.launchAnswer sender launch status).memWf = true := by
  unfold launchAnswer
  grind [memWf_kept, memWf_groupAnswered]

theorem memWf_groupDeadline : s.groupDeadline.memWf = true := by
  unfold groupDeadline
  grind [memWf_endGroup]

theorem memWf_advance (ticks : Nat) : (s.advance ticks).memWf = true := hs

theorem memWf_launchEdge : s.launchEdge.memWf = true := by
  unfold launchEdge
  grind [memWf_fireDue, memWf_advance]

end

end State

end Sys2Proof.Machine

/-! PROOFS. What resets and bring-up do keeps the memories canonical (O60). -/

namespace Sys2Proof.Machine

namespace State

set_option Elab.async false

section
variable {s : State} (hs : s.memWf = true)
include hs

/-! ### Resets (R490 to R494, R509) -/

theorem memWf_tornOptions : s.tornOptions.memWf = true := by
  unfold tornOptions
  grind [memWf_kept, memWf_draw]

theorem memWf_tornFirmware : s.tornFirmware.memWf = true := by
  unfold tornFirmware
  grind [memWf_kept]

theorem memWf_breakBarrier : s.breakBarrier.memWf = true := memWf_enterSafe hs ..

theorem memWf_cleared (warm : Bool) : (s.cleared warm).memWf = true :=
  memWf_of_mem (memWf_breakBarrier (memWf_tornFirmware (memWf_tornOptions hs))) (wf_keptMem _ warm) rfl rfl

theorem memWf_dieReset (cause : Nat) (warm : Bool) (rail : Option Nat) (fieldReset recoveryN : Bool) :
    (s.dieReset cause warm rail fieldReset recoveryN).memWf = true := by
  unfold dieReset
  grind [memWf_kept, memWf_setReg, memWf_setFlag, memWf_rebuildRecorder, memWf_cleared]

theorem memWf_powerOn (recoveryN backupValid : Bool) : (s.powerOn recoveryN backupValid).memWf = true := by
  unfold powerOn
  grind [memWf_kept, memWf_dieReset]

theorem memWf_coreReset (n source : Nat) : (s.coreReset n source).memWf = true := memWf_ite hs (memWf_holdCore hs ..)

theorem memWf_coreRelease (n : Nat) : (s.coreRelease n).memWf = true := memWf_ite hs (memWf_updCore hs ..)

theorem memWf_clearCxpLine : s.clearCxpLine.memWf = true := hs

theorem memWf_dropPorts : s.dropPorts.memWf = true := by
  unfold dropPorts
  grind [memWf_kept, memWf_foldl, memWf_complete]

theorem memWf_detachParts : s.detachParts.memWf = true := memWf_countVoids hs ..

theorem memWf_killStripes : s.killStripes.memWf = true := by
  unfold killStripes
  grind [memWf_foldl, memWf_withdraw, memWf_decideDefault, memWf_afterDecision]

theorem memWf_rebindStreams : s.rebindStreams.memWf = true := by
  unfold rebindStreams
  extract_lets names s1 s2 s3 lineStore cam ledg s4
  have h3 : s3.memWf = true := memWf_clearCxpLine (memWf_detachParts (memWf_dropCrops hs ..) ..) ..
  have h4 : s4.memWf = true := memWf_of_mem h3 (Mem.wf_filter s3.mem lineStore) rfl rfl
  refine memWf_foldl _ _ _ h4 fun t n ht => ?_
  grind [memWf_loadStatRing, memWf_putHeader]

theorem memWf_streamReset : s.streamReset.memWf = true := by
  unfold streamReset
  grind [memWf_setFld, memWf_powerPorts, memWf_dropPorts, memWf_killStripes, memWf_rebindStreams]

theorem memWf_askStreamReset : s.askStreamReset.memWf = true := memWf_ite hs (memWf_streamReset hs ..)

theorem memWf_afterApply : s.afterApply.memWf = true := memWf_ite (memWf_streamReset hs ..) hs

theorem memWf_flushRecorder : s.flushRecorder.memWf = true := by
  unfold flushRecorder
  grind [memWf_foldl, memWf_spillMove, memWf_recordOne]

theorem memWf_swReset (seat v : Nat) (recoveryN : Bool) : (s.swReset seat v recoveryN).memWf = true := by
  unfold swReset
  grind [memWf_foldl, memWf_log, memWf_dieReset, memWf_coreReset, memWf_askStreamReset, memWf_flushRecorder]

theorem memWf_coreClockLost (n : Nat) : (s.coreClockLost n).memWf = true := by
  unfold coreClockLost
  grind [memWf_flagLog, memWf_coreReset]

theorem memWf_forceRelease (i : Nat) : (s.forceRelease i).memWf = true := by
  unfold forceRelease
  grind [memWf_setFld, memWf_setFlag, memWf_flagLog, memWf_updCore]

/-! ### Bring-up and supplies (R495 to R514) -/

theorem memWf_loadOptions : s.loadOptions.1.memWf = true := by
  unfold loadOptions
  grind [memWf_kept, memWf_setFld, memWf_log]

theorem memWf_loadAddress : s.loadAddress.memWf = true := memWf_setFld (memWf_setReg hs ..) ..

theorem memWf_enterRecovery (cause : Nat) : (s.enterRecovery cause).memWf = true := by
  unfold enterRecovery
  grind [memWf_setFld, memWf_setDev, memWf_loadAddress]

theorem memWf_loadTrims (equal : List Bool) :
    (s.loadTrims equal).1.memWf = true := memWf_setFld (memWf_setFld hs ..) ..

theorem memWf_supplyGood (equal : List Bool) : (s.supplyGood equal).memWf = true := by
  unfold supplyGood
  grind [memWf_kept, memWf_setFld, memWf_loadOptions, memWf_enterRecovery, memWf_loadTrims]

theorem memWf_showFirmware : s.showFirmware.memWf = true := by
  unfold showFirmware
  grind [memWf_kept]

theorem memWf_clocksDone : s.clocksDone.memWf = true := by
  unfold clocksDone
  grind [memWf_kept, memWf_showFirmware]

theorem memWf_clockGood (i : Nat) : (s.clockGood i).memWf = true := by
  unfold clockGood
  grind [memWf_setFld, memWf_coreRelease, memWf_clocksDone]

theorem memWf_bootFails (cause : Nat) : (s.bootFails cause).memWf = true := by
  unfold bootFails
  grind [memWf_kept, memWf_log]

theorem memWf_firmwareVerified : s.firmwareVerified.memWf = true := by
  unfold firmwareVerified
  grind [memWf_kept, memWf_loadAddress, memWf_bootFails]

theorem memWf_memoryUp : s.memoryUp.memWf = true := by
  unfold memoryUp
  grind [memWf_kept, memWf_foldl, memWf_setFld, memWf_setPair, memWf_showRegion]

theorem memWf_sendFieldReset : s.sendFieldReset.memWf = true := by
  unfold sendFieldReset
  grind [memWf_kept, memWf_resetFc]

theorem memWf_memoryTrained (channels : Nat) : (s.memoryTrained channels).memWf = true := by
  unfold memoryTrained
  grind [memWf_kept, memWf_setFld, memWf_bootFails, memWf_memoryUp, memWf_sendFieldReset]

theorem memWf_bootComplete (linksUp : Bool) : (s.bootComplete linksUp).memWf = true := by
  unfold bootComplete
  grind [memWf_kept, memWf_setFld, memWf_setDev, memWf_bootFails]

theorem memWf_slotCopied : s.slotCopied.memWf = true := by
  unfold slotCopied
  grind [memWf_kept, memWf_store, memWf_autoFail]

theorem memWf_optResult (code : Nat) : (s.optResult code).memWf = true := memWf_setFld hs ..

theorem memWf_startCommit (r : Bytes) (by' : Option CmdRef) : (s.startCommit r by').memWf = true := by
  unfold startCommit
  grind [memWf_kept, memWf_setFld]

theorem memWf_commitOptions : s.commitOptions.memWf = true := by
  unfold commitOptions
  grind [memWf_optResult, memWf_startCommit]

theorem memWf_copiesWritten : s.copiesWritten.memWf = true := by
  unfold copiesWritten
  grind [memWf_kept, memWf_setFld, memWf_answer, memWf_optResult]

theorem memWf_revertOptions : s.revertOptions.memWf = true := memWf_ite (memWf_optResult hs ..) hs

theorem memWf_bootClear : s.bootClear.memWf = true := hs

theorem memWf_setRtc (hi : Nat) : (s.setRtc hi).memWf = true := by
  unfold setRtc
  grind [memWf_kept]

theorem memWf_overtemp (n : Nat) (t : ℤ) : (s.overtemp n t).memWf = true := by
  unfold overtemp
  grind [memWf_setFld, memWf_flagLog, memWf_updCore, memWf_fence]

theorem memWf_throttleCheck (junction : List ℤ) (plate : ℤ) (power : Nat) :
    (s.throttleCheck junction plate power).memWf = true := by
  unfold throttleCheck
  grind [memWf_foldl, memWf_setFld, memWf_flagLog, memWf_updCore, memWf_overtemp]

theorem memWf_supplyMeasure (mv dw : Nat) (rails : List Nat) : (s.supplyMeasure mv dw rails).memWf = true := by
  unfold supplyMeasure
  grind [memWf_foldl, memWf_setReg, memWf_flagLog]

end

end State

end Sys2Proof.Machine

/-! PROOFS. What security, connections and lanes do keeps the memories canonical (O60). -/

namespace Sys2Proof.Machine

namespace State

set_option Elab.async false

section
variable {s : State} (hs : s.memWf = true)
include hs

/-! ### Keys and firmware (R540 to R554) -/

theorem memWf_withBuf (c : CmdRef) (a : BitVec 64) (n : Nat) (body : Bytes → State → State)
    (hf : ∀ x (t : State), t.memWf = true → (body x t).memWf = true) : (s.withBuf c a n body).memWf = true := by
  unfold withBuf
  grind [memWf_complete, memWf_readBuf]

theorem memWf_runKeyLoad (c : CmdRef) (slot : Byte) (addr : BitVec 64) : (s.runKeyLoad c slot addr).memWf = true := by
  unfold runKeyLoad
  grind [memWf_kept, memWf_complete, memWf_checked, memWf_withBuf]

theorem memWf_dropStagedKey (k : Nat) : (s.dropStagedKey k).memWf = true := by
  unfold dropStagedKey
  grind [memWf_kept, memWf_dropItem, memWf_autoFail, memWf_answer]

theorem memWf_enrolNow (c : CmdRef) (r : Bytes) : (s.enrolNow c r).memWf = true := by
  unfold enrolNow
  grind [memWf_kept, memWf_setFld, memWf_flagLog, memWf_dropStagedKey]

theorem memWf_enrolRefused (c : CmdRef) (code : Nat) :
    (s.enrolRefused c code).memWf = true := memWf_complete (memWf_setFlag hs ..) ..

theorem memWf_enrol (c : CmdRef) (r : Bytes) : (s.enrol c r).memWf = true := by
  unfold enrol
  grind [memWf_noteSig, memWf_enrolNow, memWf_enrolRefused]

theorem memWf_runKeyEnrol (c : CmdRef) (addr : BitVec 64) : (s.runKeyEnrol c addr).memWf = true := by
  unfold runKeyEnrol
  grind [memWf_checked, memWf_withBuf, memWf_enrol]

theorem memWf_runCertRead (c : CmdRef) (areaAddr areaBytes : BitVec 64) :
    (s.runCertRead c areaAddr areaBytes).memWf = true := by
  unfold runCertRead
  grind [memWf_storeFor, memWf_complete, memWf_checked]

theorem memWf_runAttest (c : CmdRef) (nonce : BitVec 256) (addr : BitVec 64) :
    (s.runAttest c nonce addr).memWf = true := by
  unfold runAttest
  grind [memWf_kept, memWf_count, memWf_storeFor, memWf_complete, memWf_checked]

theorem memWf_storedReply (by' : Option CmdRef) (f : Bytes) (code : Nat) :
    (s.storedReply by' f code).memWf = true := by
  unfold storedReply
  grind [memWf_emit, memWf_complete]

theorem memWf_noteFw (f : Bytes) : (s.noteFw f).memWf = true := memWf_ite (memWf_noteSig hs ..) hs

theorem memWf_storeFirmware (by' : Option CmdRef) (f : Bytes) : (s.storeFirmware by' f).memWf = true := by
  unfold storeFirmware
  grind [memWf_kept, memWf_storedReply, memWf_noteFw]

theorem memWf_runFirmwareStore (c : CmdRef) (addr length : BitVec 64) :
    (s.runFirmwareStore c addr length).memWf = true := by
  unfold runFirmwareStore
  grind [memWf_checked, memWf_withBuf, memWf_storeFirmware]

theorem memWf_firmwareStored (ok : Bool) : (s.firmwareStored ok).memWf = true := by
  unfold firmwareStored
  grind [memWf_kept, memWf_storedReply]

/-! ### Connections (R403, R406, R426) -/

theorem memWf_ringStop (seat ring : Nat) : (s.ringStop seat ring).memWf = true := by
  unfold ringStop
  grind [memWf_setFld]

theorem memWf_dropSeatCtxs (seat : Nat) : (s.dropSeatCtxs seat).memWf = true := by
  unfold dropSeatCtxs
  grind [memWf_foldl, memWf_turnCheck, memWf_destroyCtx]

theorem memWf_loseHeld (seat : Nat) : (s.loseHeld seat).memWf = true := by
  unfold loseHeld
  grind [memWf_kept, memWf_keptHost, memWf_foldl, memWf_count, memWf_ringSettle]

theorem memWf_dropSignals (seat : Nat) : (s.dropSignals seat).memWf = true := hs

theorem memWf_disconnect (seat : Nat) (cause : LossCause) : (s.disconnect seat cause).memWf = true := by
  unfold disconnect
  grind [memWf_foldl, memWf_setFld, memWf_log, memWf_raisePeers, memWf_detachSeat, memWf_setLock, memWf_ringStop,
    memWf_dropSeatCtxs, memWf_loseHeld, memWf_dropSignals]

theorem memWf_connect (seat : Nat) : (s.connect seat).memWf = true := by
  unfold connect
  grind [memWf_kept, memWf_keptHost, memWf_foldl, memWf_setFld, memWf_setReg, memWf_raisePeers]

theorem memWf_usb4Lanes (seat rate : Nat) : (s.usb4Lanes seat rate).memWf = true := by
  unfold usb4Lanes
  grind [memWf_foldl, memWf_setFld]

/-! ### Lanes (R455 to R469) -/

theorem memWf_laneNotice (who n : Nat) : (s.laneNotice who n).memWf = true := memWf_log hs ..

theorem memWf_ethUp (p : Nat) : (s.ethUp p).memWf = true := by
  unfold ethUp
  grind [memWf_kept, memWf_foldl, memWf_setFld, memWf_setReg, memWf_draw]

theorem memWf_ethDown (p : Nat) : (s.ethDown p).memWf = true := by
  unfold ethDown
  grind [memWf_kept, memWf_foldl, memWf_setFld, memWf_setReg, memWf_setFlag]

theorem memWf_laneAlign (n position : Nat) : (s.laneAlign n position).memWf = true := by
  unfold laneAlign
  grind [memWf_setFld, memWf_ethUp]

theorem memWf_laneLink (n : Nat) : (s.laneLink n).memWf = true := by
  unfold laneLink
  grind [memWf_linkLost, memWf_disconnect, memWf_usb4Lanes, memWf_ethDown]

theorem memWf_loseAlign (n : Nat) : (s.loseAlign n).memWf = true := by
  unfold loseAlign
  grind [memWf_setFld, memWf_setFlag, memWf_laneLink]

theorem memWf_alignLoss (n : Nat) (los : Bool) : (s.alignLoss n los).memWf = true := by
  unfold alignLoss
  grind [memWf_setFld, memWf_count, memWf_draw, memWf_setFlag, memWf_loseAlign]

theorem memWf_coefAnswer (n k code : Nat) : (s.coefAnswer n k code).memWf = true := memWf_emit hs ..

theorem memWf_coefStep (n k : Nat) (up : Bool) : (s.coefStep n k up).memWf = true := by
  unfold coefStep
  grind [memWf_setFld, memWf_coefAnswer]

theorem memWf_coefAll (n v : Nat) : (s.coefAll n v).memWf = true := by
  unfold coefAll
  grind [memWf_foldl, memWf_setReg, memWf_draw, memWf_coefAnswer]

theorem memWf_coefRequest (n : Nat) (r : CoefReq) : (s.coefRequest n r).memWf = true := by
  unfold coefRequest
  grind [memWf_kept, memWf_setFld, memWf_coefAnswer, memWf_coefStep, memWf_coefAll]

theorem memWf_trainFail (n : Nat) : (s.trainFail n).memWf = true := by
  unfold trainFail
  grind [memWf_kept, memWf_setFld, memWf_setFlag]

theorem memWf_laneWrite (who n : Nat) (f : State → State) (hf : ∀ t : State, t.memWf = true → (f t).memWf = true) :
    (s.laneWrite who n f).memWf = true := by
  unfold laneWrite
  grind [memWf_laneNotice]

theorem memWf_laneMode (who n : Nat) (raw : Bool) : (s.laneMode who n raw).memWf = true := by
  unfold laneMode
  grind [memWf_setFld, memWf_laneNotice, memWf_loseAlign]

theorem memWf_laneSlip (who n : Nat) : (s.laneSlip who n).memWf = true := by
  unfold laneSlip
  grind [memWf_setFld, memWf_setReg, memWf_laneNotice]

theorem memWf_laneInject (n : Nat) : (s.laneInject n).memWf = true := memWf_ite (memWf_countSat hs ..) hs

theorem memWf_laneBack (n : Nat) : (s.laneBack n).memWf = true := memWf_ite (memWf_ethUp hs ..) hs

theorem memWf_laneLoop (who n mode : Nat) : (s.laneLoop who n mode).memWf = true := by
  unfold laneLoop
  grind [memWf_setFld, memWf_laneNotice, memWf_laneLink, memWf_laneBack]

theorem memWf_laneChk (n : Nat) (on : Bool) : (s.laneChk n on).memWf = true := by
  unfold laneChk
  grind [memWf_setFld, memWf_setReg]

theorem memWf_prbsCount (n bits errors : Nat) :
    (s.prbsCount n bits errors).memWf = true := memWf_countSat (memWf_setPair hs ..) ..

theorem memWf_prbsLoss (n : Nat) : (s.prbsLoss n).memWf = true := by
  unfold prbsLoss
  grind [memWf_setFld, memWf_draw, memWf_setFlag, memWf_prbsCount]

theorem memWf_writeLaneCtrl (who n v : Nat) : (s.writeLaneCtrl who n v).memWf = true := by
  unfold writeLaneCtrl
  grind [memWf_setFld, memWf_laneNotice, memWf_loseAlign, memWf_laneWrite, memWf_laneMode, memWf_laneBack,
    memWf_laneLoop, memWf_laneChk]

theorem memWf_laneGrow (n : Nat) : (s.laneGrow n).memWf = true := by
  unfold laneGrow
  grind [memWf_countSat, memWf_draw, memWf_prbsCount]

end

end State

end Sys2Proof.Machine

/-! PROOFS. What rings, accesses and meters do keeps the memories canonical (O60). -/

namespace Sys2Proof.Machine

namespace State

set_option Elab.async false

section
variable {s : State} (hs : s.memWf = true)
include hs

/-! ### Rings (R404 to R429) -/

theorem memWf_runRing (c : CmdRef) (i : Instr) : (s.runRing c i).memWf = true := by
  unfold runRing
  grind [memWf_complete, memWf_runCxpControl, memWf_runCxpDescription, memWf_runCtxCreate, memWf_runCtxDestroy,
    memWf_runJobCancel, memWf_runLibraryAttach, memWf_runSampleDecode, memWf_runTrainStart, memWf_runTrainPause,
    memWf_runTrainResume, memWf_runTrainStop, memWf_runTrainCheckpoint, memWf_runCandidatePublish,
    memWf_runTrainRestore, memWf_runImageLock, memWf_runImageVerify, memWf_runImageApply, memWf_runApplyCancel,
    memWf_runImageStore, memWf_runImageQuery, memWf_runOverlayApply, memWf_runOverlayRevert, memWf_runPromote,
    memWf_runJobReplay, memWf_runPowerMode, memWf_runDetOverride, memWf_runPause, memWf_runStreamSave,
    memWf_runStreamRestore, memWf_runGroupLaunch, memWf_runKeyLoad, memWf_runKeyEnrol, memWf_runCertRead,
    memWf_runAttest, memWf_runFirmwareStore]

theorem memWf_takeHead (seat : Fin 4) (ring : Fin 16) : (s.takeHead seat ring).memWf = true := by
  unfold takeHead
  grind [memWf_reportUe, memWf_complete, memWf_runTaken, memWf_runRing]

theorem memWf_takeTurns (fuel : Nat) : (s.takeTurns fuel).memWf = true := by
  induction fuel generalizing s with
  | zero => exact hs
  | succ n ih =>
    unfold takeTurns
    grind [memWf_kept, memWf_keptHost, memWf_takeHead]

theorem memWf_showFull : s.showFull.memWf = true := by
  unfold showFull
  grind [memWf_foldl, memWf_setFlag]

theorem memWf_takeAll : s.takeAll.memWf = true := by
  unfold takeAll
  grind [memWf_takeTurns, memWf_showFull]

theorem memWf_crossNote (who seat : Nat) : (s.crossNote who seat).memWf = true := memWf_ite (memWf_log hs ..) hs

theorem memWf_doorbell (who seat ring v : Nat) : (s.doorbell who seat ring v).memWf = true := by
  unfold doorbell
  grind [memWf_setFld, memWf_setFlag, memWf_takeAll, memWf_crossNote]

theorem memWf_moveCqHead (who seat ring v : Nat) : (s.moveCqHead who seat ring v).memWf = true := by
  unfold moveCqHead
  grind [memWf_kept, memWf_keptHost, memWf_setFld, memWf_resignal, memWf_takeAll, memWf_crossNote]

theorem memWf_writeRingCfg (who seat ring v : Nat) : (s.writeRingCfg who seat ring v).memWf = true := by
  unfold writeRingCfg
  grind [memWf_kept, memWf_keptHost, memWf_setFld, memWf_setReg, memWf_setFlag, memWf_log, memWf_resignal,
    memWf_ringStop, memWf_crossNote]

theorem memWf_writeBase (who : Nat) (r : RN) (seat ring v : Nat) : (s.writeBase who r seat ring v).memWf = true := by
  unfold writeBase
  grind [memWf_setReg, memWf_log, memWf_crossNote]

theorem memWf_busMasterOn (seat : Nat) : (s.busMasterOn seat).memWf = true := by
  unfold busMasterOn
  grind [memWf_kept, memWf_keptHost, memWf_foldl, memWf_signalSeat, memWf_ringSettle, memWf_writeCqe, memWf_takeAll]

theorem memWf_modTimeUp (seat ring : Nat) : (s.modTimeUp seat ring).memWf = true := by
  unfold modTimeUp
  grind [memWf_kept, memWf_keptHost, memWf_signalSeat]

/-! ### Accesses (R6 to R10, R408) -/

theorem memWf_ctlNotice (who off : Nat) : (s.ctlNotice who off).memWf = true := memWf_log hs ..

theorem memWf_unlatch (who off : Nat) : (s.unlatch who off).memWf = true := hs

theorem memWf_latch (who : Nat) (r : RN) (ix : List Nat) : (s.latch who r ix).memWf = true := by
  unfold latch
  grind [memWf_kept, memWf_keptHost, memWf_foldl, memWf_unlatch]

theorem memWf_readMirror (r : RN) (ix : List Nat) : (s.readMirror r ix).1.memWf = true := by
  unfold readMirror
  grind [memWf_kept, memWf_draw]

theorem memWf_ctlRead (who off : Nat) : (s.ctlRead who off).1.memWf = true := by
  unfold ctlRead
  grind [memWf_laneGrow, memWf_ctlNotice, memWf_unlatch, memWf_latch, memWf_readMirror]

theorem memWf_ctlOdd (who off : Nat) : (s.ctlOdd who off).memWf = true := memWf_ctlNotice hs ..

theorem memWf_writeFields (r : RN) (ix : List Nat) (v : Nat) : (s.writeFields r ix v).memWf = true := by
  unfold writeFields
  grind [memWf_foldl, memWf_setReg]

theorem memWf_refuseWrite (who : Nat) (r : RN) (ix : List Nat) (v : Nat) :
    (s.refuseWrite who r ix v).memWf = true := memWf_log hs ..

theorem memWf_writeIp (v : Nat) : (s.writeIp v).memWf = true := by
  unfold writeIp
  grind [memWf_setReg, memWf_disconnect]

theorem memWf_writeInc (who : Nat) (r : RN) (b v : Nat) :
    (s.writeInc who r b v).memWf = true := memWf_ite (memWf_refuseWrite hs ..) (memWf_updBase hs ..)

theorem memWf_writePpb (b v : Nat) : (s.writePpb b v).memWf = true := by
  unfold writePpb
  grind [memWf_setReg, memWf_draw, memWf_setInc]

theorem memWf_writePort (who p v : Nat) : (s.writePort who p v).memWf = true := by
  unfold writePort
  grind [memWf_setFld, memWf_draw, memWf_powerUp, memWf_powerDown, memWf_rediscover, memWf_writeLimit]

theorem memWf_writeReset (who v : Nat) : (s.writeReset who v).memWf = true := by
  unfold writeReset
  grind [memWf_draw, memWf_swReset]

theorem memWf_writeEvrCtrl (who v : Nat) : (s.writeEvrCtrl who v).memWf = true := by
  unfold writeEvrCtrl
  grind [memWf_setFld, memWf_clearCritical, memWf_clearAll, memWf_zeroCounters]

theorem memWf_writeWindow (k v : Nat) : (s.writeWindow k v).memWf = true := hs

theorem memWf_writeTrain (n v : Nat) : (s.writeTrain n v).memWf = true := memWf_ite (memWf_setFld hs ..) hs

theorem memWf_writeReg (who : Nat) (r : RN) (ix : List Nat) (v : Nat) : (s.writeReg who r ix v).memWf = true := by
  unfold writeReg
  grind [memWf_kept, memWf_setFld, memWf_signalSeat, memWf_resignal, memWf_clearLost, memWf_counterZero,
    memWf_listClear, memWf_clearTrip, memWf_clearGroup, memWf_writeQHost, memWf_setInc, memWf_stepGo, memWf_capture,
    memWf_writeCons, memWf_writeStreamCfg, memWf_writeBudget, memWf_setOffline, memWf_writeSlice, memWf_flushCache,
    memWf_commitOptions, memWf_revertOptions, memWf_bootClear, memWf_setRtc, memWf_laneWrite, memWf_laneSlip,
    memWf_laneInject, memWf_writeLaneCtrl, memWf_crossNote, memWf_doorbell, memWf_moveCqHead, memWf_writeRingCfg,
    memWf_writeBase, memWf_writeFields, memWf_refuseWrite, memWf_writeIp, memWf_writeInc, memWf_writePpb,
    memWf_writePort, memWf_writeReset, memWf_writeEvrCtrl, memWf_writeWindow, memWf_writeTrain]

theorem memWf_ctlWrite (who off v : Nat) : (s.ctlWrite who off v).memWf = true := by
  unfold ctlWrite
  grind [memWf_fieldWrite, memWf_ctlNotice, memWf_unlatch, memWf_writeReg]

theorem memWf_unmappedNote (who a : Nat) : (s.unmappedNote who a).memWf = true := memWf_log hs ..

theorem memWf_drawBytes (n : Nat) : (s.drawBytes n).1.memWf = true := hs

theorem memWf_seatUe (who a n : Nat) : (s.seatUe who a n).memWf = true := by
  unfold seatUe
  grind [memWf_foldl, memWf_noteUe, memWf_reportUe]

theorem memWf_readPart (who a n : Nat) : (s.readPart who a n).1.memWf = true := by
  unfold readPart
  grind [memWf_ctlOdd, memWf_drawBytes, memWf_seatUe]

theorem memWf_unmappedParts (who : Nat) (parts : List (Nat × Nat)) : (s.unmappedParts who parts).memWf = true := by
  unfold unmappedParts
  split
  · exact memWf_unmappedNote hs ..
  · exact hs

theorem memWf_devRead (who a n : Nat) : (s.devRead who a n).1.memWf = true := by
  have hread := memWf_ctlRead hs who (a - 0x3000000000)
  unfold devRead
  revert hread
  generalize s.ctlRead who (a - 0x3000000000) = p
  obtain ⟨t, v⟩ := p
  intro hread
  split
  · split
    · exact hread
    · exact memWf_ctlOdd hs ..
  · exact memWf_foldl_fst _ _ _ (memWf_unmappedParts hs ..) fun x p hx => memWf_readPart hx ..

theorem memWf_usedNote (who a : Nat) : (s.usedNote who a).memWf = true := memWf_ite (memWf_log hs ..) hs

theorem memWf_writePart (who a : Nat) (data : Bytes) : (s.writePart who a data).memWf = true := by
  unfold writePart
  grind [memWf_poke, memWf_storeFor, memWf_ctlOdd, memWf_usedNote]

theorem memWf_devWrite (who a : Nat) (data : Bytes) : (s.devWrite who a data).memWf = true := by
  unfold devWrite
  grind [memWf_foldl, memWf_ctlOdd, memWf_ctlWrite, memWf_unmappedParts, memWf_writePart]

omit hs in
theorem memWf_returned {r : State × Bytes} (hr : r.1.memWf = true) (who : Nat) : (State.returned r who).memWf = true := hr

theorem memWf_devAccess (who a : Nat) (x : Access) : (s.devAccess who a x).memWf = true := by
  unfold devAccess
  grind [memWf_devRead, memWf_devWrite, memWf_returned]

theorem memWf_clearFlags (who off v sets : Nat) : (s.clearFlags who off v sets).memWf = true := by
  unfold clearFlags
  grind [memWf_foldl, memWf_setFlag, memWf_signalSeat, memWf_fieldWrite, memWf_ctlNotice, memWf_writeReg]

theorem memWf_seatRead (who off : Nat) : (s.seatRead who off).memWf = true := by
  unfold seatRead
  grind [memWf_emit, memWf_ctlRead, memWf_ctlOdd]

/-! ### Scrub and meters (R439, R440, R449) -/

theorem memWf_scrubPos (g : Nat) : (s.scrubPos g).memWf = true := memWf_ite hs (memWf_setFld hs ..)

theorem memWf_scrub (a : Nat) (ue ce : Bool) : (s.scrub a ue ce).memWf = true := by
  unfold scrub
  grind [memWf_kept, memWf_count, memWf_setFlag, memWf_noteUe, memWf_scrubPos]

theorem memWf_refreshRead (c rate : Nat) : (s.refreshRead c rate).memWf = true := by
  unfold refreshRead
  grind [memWf_setFld]

theorem memWf_meter (u v : Nat) : (s.meter u v).memWf = true := by
  unfold meter
  grind [memWf_foldl, memWf_setReg]

theorem memWf_rates : s.rates.memWf = true := by
  unfold rates
  grind [memWf_kept, memWf_setFld, memWf_setReg]

end

end State

end Sys2Proof.Machine

/-! PROOFS. What sessions, the console and a tick do keeps the memories canonical (O60). -/

namespace Sys2Proof.Machine

namespace State

set_option Elab.async false

section
variable {s : State} (hs : s.memWf = true)
include hs

/-! ### Sessions (R421 to R425) -/

theorem memWf_bhDrop : s.bhDrop.memWf = true := memWf_count hs ..

theorem memWf_updSession (seat : Nat) (f : Session → Session) : (s.updSession seat f).memWf = true := hs

theorem memWf_bhAdvance (seat : Nat) (d : SentDgram) :
    (s.bhAdvance seat d).memWf = true := memWf_ite hs (memWf_moveCqHead hs ..)

theorem memWf_bhFlush (seat fuel : Nat) : (s.bhFlush seat fuel).memWf = true := by
  induction fuel generalizing s with
  | zero => exact hs
  | succ n ih =>
    unfold bhFlush
    grind [memWf_bhSend, memWf_updSession]

theorem memWf_bhAcked (seat ack : Nat) : (s.bhAcked seat ack).memWf = true := by
  unfold bhAcked
  grind [memWf_foldl, memWf_updSession, memWf_bhAdvance, memWf_bhFlush]

theorem memWf_bhError (seat seq status : Nat) : (s.bhError seat seq status).memWf = true := memWf_bhSend hs ..

theorem memWf_bhSubmit (seat seq ring : Nat) (es : List Bytes) : (s.bhSubmit seat seq ring es).memWf = true := by
  unfold bhSubmit
  grind [memWf_foldl, memWf_setFlag, memWf_storeFor, memWf_doorbell, memWf_bhError]

theorem memWf_readWords (who off fuel : Nat) : (s.readWords who off fuel).1.memWf = true := by
  fun_induction readWords <;> grind [memWf_ctlRead, memWf_ctlOdd]

theorem memWf_writeWords (who off : Nat) (vs : List Nat) : (s.writeWords who off vs).memWf = true := by
  fun_induction writeWords <;> grind [memWf_ctlOdd, memWf_ctlWrite]

theorem memWf_bhRegRead (seat seq off count : Nat) : (s.bhRegRead seat seq off count).memWf = true := by
  unfold bhRegRead
  grind [memWf_bhSend, memWf_bhError, memWf_readWords]

theorem memWf_bhRegWrite (seat seq off : Nat) (vs : List Word) :
    (s.bhRegWrite seat seq off vs).memWf = true := memWf_ite (memWf_bhError hs ..) (memWf_writeWords hs ..)

theorem memWf_memWords (who a fuel : Nat) : (s.memWords who a fuel).1.memWf = true := by
  fun_induction memWords <;> grind [memWf_devRead]

theorem memWf_bhMemRead (seat seq a n limit : Nat) : (s.bhMemRead seat seq a n limit).memWf = true := by
  unfold bhMemRead
  grind [memWf_bhSend, memWf_seatUe, memWf_devRead, memWf_bhError, memWf_memWords]

theorem memWf_bhMemWrite (seat seq a : Nat) (data : Bytes) : (s.bhMemWrite seat seq a data).memWf = true := by
  unfold bhMemWrite
  grind [memWf_foldl, memWf_devWrite, memWf_bhError]

theorem memWf_bhPerform (seat limit : Nat) (i : Instr) : (s.bhPerform seat limit i).memWf = true := by
  unfold bhPerform
  grind [memWf_bhSubmit, memWf_bhRegRead, memWf_bhRegWrite, memWf_bhMemRead, memWf_bhMemWrite]

theorem memWf_bhDeliver (seat : Nat) (i : Instr) (fuel : Nat) : (s.bhDeliver seat i fuel).memWf = true := by
  fun_induction bhDeliver <;> grind [memWf_updSession, memWf_bhPerform]

theorem memWf_bhSequenced (seat seq : Nat) (i : Instr) : (s.bhSequenced seat seq i).memWf = true := by
  unfold bhSequenced
  split
  · exact hs
  · exact memWf_ite (memWf_bhPut hs ..) (memWf_ite hs (memWf_ite (memWf_bhDeliver hs ..)
      (memWf_ite (memWf_bhPut hs ..) (memWf_updSession hs ..))))

theorem memWf_bhReceive (d : BhHdr) (i : Instr) (f : Nat → State → State)
    (hf : ∀ x (t : State), t.memWf = true → (f x t).memWf = true) : (s.bhReceive d i f).memWf = true := by
  unfold bhReceive
  grind [memWf_bhDrop, memWf_bhAcked]

theorem memWf_helloAck (d : BhHdr) (status seat limit session : Nat) :
    (s.helloAck d status seat limit session).memWf = true := memWf_emit hs ..

theorem memWf_openSession (d : BhHdr) (seat limit : Nat) : (s.openSession d seat limit).memWf = true := by
  unfold openSession
  grind [memWf_kept, memWf_keptHost, memWf_setReg, memWf_signalSeat, memWf_disconnect, memWf_connect, memWf_helloAck]

theorem memWf_hello (d : BhHdr) (i : Instr) (req maxPayload : Nat) : (s.hello d i req maxPayload).memWf = true := by
  unfold hello
  grind [memWf_bhDrop, memWf_helloAck, memWf_openSession]

theorem memWf_bhAgain (seat : Nat) : (s.bhAgain seat).memWf = true := by
  unfold bhAgain
  grind [memWf_bhPut, memWf_disconnect, memWf_updSession]

/-! ### The console (R428) -/

theorem memWf_say (lines : List String) : (s.say lines).memWf = true := memWf_emit hs ..

theorem memWf_sayErr (code : Nat) : (s.sayErr code).memWf = true := memWf_emit hs ..

theorem memWf_consoleAt (a : Nat) (f : Nat → State → State)
    (hf : ∀ x (t : State), t.memWf = true → (f x t).memWf = true) : (s.consoleAt a f).memWf = true := by
  unfold consoleAt
  grind [memWf_ctlOdd, memWf_sayErr]

/-! ### A tick (R388) -/

theorem memWf_idleTick : s.idleTick.memWf = true := by
  unfold idleTick
  grind [memWf_drainSyslog, memWf_drainFanout, memWf_fireDue, memWf_advance, memWf_takeAll]

end

end State

end Sys2Proof.Machine

/-! PROOFS. Every step keeps the canonical form of memory (O60). -/

namespace Sys2Proof.Machine

namespace State

set_option Elab.async false

/-! ### The commands (16_host_interface.md, 17_memory.md) -/

section
variable {s : State} (hs : s.memWf = true)
include hs

theorem exec_events_memWf (n : Nat) : ∃ t, exec (.events n) s = .next t ∧ t.memWf = true :=
  ⟨_, rfl, by grind [memWf_say, memWf_sayErr]⟩

theorem exec_peek_memWf (addr : BitVec 40) : ∃ t, exec (.peek addr) s = .next t ∧ t.memWf = true :=
  ⟨_, rfl, by grind [memWf_ctlRead, memWf_say, memWf_consoleAt]⟩

theorem exec_poke_memWf (addr : BitVec 40) (v : Word) : ∃ t, exec (.poke addr v) s = .next t ∧ t.memWf = true :=
  ⟨_, rfl, by grind [memWf_log, memWf_ctlWrite, memWf_say, memWf_consoleAt]⟩

theorem exec_fwload_memWf (file : Bytes) : ∃ t, exec (.fwload file) s = .next t ∧ t.memWf = true :=
  ⟨_, rfl, by grind [memWf_storeFirmware, memWf_sayErr]⟩

theorem exec_reset_memWf : ∃ t, exec .reset s = .next t ∧ t.memWf = true := by
  change ∃ t, execReset s = .next t ∧ t.memWf = true
  unfold execReset
  grind [memWf_draw, memWf_swReset, memWf_say]

theorem exec_bhAckTimer_memWf (seat : Fin 4) : ∃ t, exec (.bhAckTimer seat) s = .next t ∧ t.memWf = true :=
  ⟨_, rfl, by grind [memWf_bhPut]⟩

theorem exec_bhSilence_memWf (seat : Fin 4) : ∃ t, exec (.bhSilence seat) s = .next t ∧ t.memWf = true :=
  ⟨_, rfl, by grind [memWf_disconnect]⟩

theorem exec_usb4LinkLoss_memWf (seat : Fin 2) : ∃ t, exec (.usb4LinkLoss seat) s = .next t ∧ t.memWf = true :=
  ⟨_, rfl, by grind [memWf_disconnect, memWf_usb4Lanes]⟩

theorem exec_seatConnect_memWf (seat : Fin 2) (gen3 : Bool) :
    ∃ t, exec (.seatConnect seat gen3) s = .next t ∧ t.memWf = true :=
  ⟨_, rfl, by grind [memWf_setFld, memWf_connect, memWf_usb4Lanes]⟩

theorem exec_busMasterEnable_memWf (seat : Fin 2) (on : Bool) :
    ∃ t, exec (.busMasterEnable seat on) s = .next t ∧ t.memWf = true :=
  ⟨_, rfl, by grind [memWf_setFld, memWf_busMasterOn]⟩

theorem exec_bar2Access_memWf (seat : Fin 2) (aperture : Fin 4) (offset : BitVec 30) (a : Access) :
    ∃ t, exec (.bar2Access seat aperture offset a) s = .next t ∧ t.memWf = true :=
  ⟨_, rfl, by grind [memWf_devAccess]⟩

theorem exec_sqTail_memWf (writer seat : Fin 4) (ring : Fin 16) (value : Word) (hostWrites : List (Nat × Byte)) :
    ∃ t, exec (.sqTail writer seat ring value hostWrites) s = .next t ∧ t.memWf = true :=
  ⟨_, rfl, by grind [memWf_foldl, memWf_hostStore, memWf_doorbell]⟩

theorem exec_caps_memWf (g : GrpHdr) (m : CapsMsg) : ∃ t, exec (.caps g m) s = .next t ∧ t.memWf = true :=
  ⟨_, rfl, by grind [memWf_receive, memWf_caps]⟩

theorem exec_axisStale_memWf : ∃ t, exec .axisStale s = .next t ∧ t.memWf = true :=
  ⟨_, rfl, by grind [memWf_setFlag]⟩

theorem exec_launchItem_memWf (g : GrpHdr) (item : Bytes) (launch : BitVec 64) :
    ∃ t, exec (.launchItem g item launch) s = .next t ∧ t.memWf = true :=
  ⟨_, rfl, by grind [memWf_count, memWf_noteSeq, memWf_launchItem, memWf_answerAgain]⟩

theorem exec_addressAgeing_memWf (mac : BitVec 48) : ∃ t, exec (.addressAgeing mac) s = .next t ∧ t.memWf = true :=
  ⟨_, rfl, by grind [memWf_kept]⟩

theorem exec_arpRequest_memWf (inPort : Fin 2) (senderMac : BitVec 48) (senderIp targetIp : Word) :
    ∃ t, exec (.arpRequest inPort senderMac senderIp targetIp) s = .next t ∧ t.memWf = true :=
  ⟨_, rfl, by grind [memWf_emit]⟩

theorem exec_icmpEcho_memWf (senderIp targetIp : Word) (fragmented : Bool) (data : Bytes) :
    ∃ t, exec (.icmpEcho senderIp targetIp fragmented data) s = .next t ∧ t.memWf = true :=
  ⟨_, rfl, by grind [memWf_emit]⟩

theorem exec_powerEn_memWf (seat : Fin 4) (port : Fin 32) (on loadFound : Bool) :
    ∃ t, exec (.powerEn seat port on loadFound) s = .next t ∧ t.memWf = true :=
  ⟨_, rfl, by grind [memWf_powerUp, memWf_powerDown]⟩

theorem exec_discoveryAttempt_memWf (port : Fin 32) :
    ∃ t, exec (.discoveryAttempt port) s = .next t ∧ t.memWf = true :=
  ⟨_, rfl, by grind [memWf_noRate]⟩

theorem exec_cableEstimate_memWf (port : Fin 32) (eqSetting lengthM : Nat) :
    ∃ t, exec (.cableEstimate port eqSetting lengthM) s = .next t ∧ t.memWf = true :=
  ⟨_, rfl, by grind [memWf_cable]⟩

theorem exec_cxpTimeout_memWf (port : Fin 32) : ∃ t, exec (.cxpTimeout port) s = .next t ∧ t.memWf = true :=
  ⟨_, rfl, by grind [memWf_setFlag, memWf_complete, memWf_endCtrl]⟩

theorem exec_imageHeader_memWf (port : Fin 32) (cxpStream : Byte) (rectangular : Bool) (format : BitVec 16) (xOffset xSize lines : Word) (sourceTag : BitVec 16) :
    ∃ t, exec (.imageHeader port cxpStream rectangular format xOffset xSize lines sourceTag) s = .next t ∧ t.memWf = true :=
  ⟨_, rfl, by grind [memWf_unbound, memWf_header]⟩

theorem exec_commandDispatch_memWf : ∃ t, exec .commandDispatch s = .next t ∧ t.memWf = true :=
  ⟨_, rfl, by grind [memWf_dispatch, memWf_readWeights, memWf_faultLost]⟩

theorem exec_coreWatchdog_memWf (progress : List Bool) :
    ∃ t, exec (.coreWatchdog progress) s = .next t ∧ t.memWf = true :=
  ⟨_, rfl, by grind [memWf_foldl, memWf_watchCore]⟩

theorem exec_coreSetReloaded_memWf (core : Fin 4) : ∃ t, exec (.coreSetReloaded core) s = .next t ∧ t.memWf = true :=
  ⟨_, rfl, by grind [memWf_readPinned, memWf_faultLost, memWf_reloaded]⟩

theorem exec_encoderEdge_memWf (enc : Fin 8) (aLeads illegal : Bool) :
    ∃ t, exec (.encoderEdge enc aLeads illegal) s = .next t ∧ t.memWf = true :=
  ⟨_, rfl, by grind [memWf_encEdge, memWf_afterEnc]⟩

theorem exec_wireLoss_memWf (enc : Fin 8) : ∃ t, exec (.wireLoss enc) s = .next t ∧ t.memWf = true :=
  ⟨_, rfl, by grind [memWf_encWire, memWf_afterEnc]⟩

theorem exec_ssiWord_memWf (enc : Fin 8) (word : Word) (errBit : Bool) (crc : BitVec 16) :
    ∃ t, exec (.ssiWord enc word errBit crc) s = .next t ∧ t.memWf = true :=
  ⟨_, rfl, by grind [memWf_ssiWord, memWf_afterEnc]⟩

theorem exec_ssiTimeout_memWf (enc : Fin 8) : ∃ t, exec (.ssiTimeout enc) s = .next t ∧ t.memWf = true :=
  ⟨_, rfl, by grind [memWf_ssiBad, memWf_afterEnc]⟩

theorem exec_fieldMirrorWrite_memWf (seat : Fin 4) (offset : BitVec 20) (value : Word) :
    ∃ t, exec (.fieldMirrorWrite seat offset value) s = .next t ∧ t.memWf = true :=
  ⟨_, rfl, by grind [memWf_ctlOdd, memWf_ctlWrite]⟩

theorem exec_frameTimeout_memWf (down : Bool) : ∃ t, exec (.frameTimeout down) s = .next t ∧ t.memWf = true :=
  ⟨_, rfl, by grind [memWf_downFailed, memWf_upFailed]⟩

theorem exec_fcWatchdog_memWf : ∃ t, exec .fcWatchdog s = .next t ∧ t.memWf = true :=
  ⟨_, rfl, by grind [memWf_resetFc]⟩

theorem exec_debugReset_memWf (u : Scope) (recoveryN : Bool) :
    ∃ t, exec (.debugReset u recoveryN) s = .next t ∧ t.memWf = true :=
  ⟨_, rfl, by grind [memWf_dieReset, memWf_coreReset]⟩

theorem exec_clockFailure_memWf (u : Scope) (recoveryN : Bool) :
    ∃ t, exec (.clockFailure u recoveryN) s = .next t ∧ t.memWf = true :=
  ⟨_, rfl, by grind [memWf_dieReset, memWf_coreClockLost]⟩

theorem exec_lockUp_memWf (u : Scope) (recoveryN : Bool) :
    ∃ t, exec (.lockUp u recoveryN) s = .next t ∧ t.memWf = true :=
  ⟨_, rfl, by grind [memWf_dieReset, memWf_coreReset]⟩

theorem exec_bootFailureReset_memWf (recoveryN : Bool) :
    ∃ t, exec (.bootFailureReset recoveryN) s = .next t ∧ t.memWf = true :=
  ⟨_, rfl, by grind [memWf_dieReset]⟩

theorem exec_unmappedAccess_memWf (initiator : Byte) (addr : BitVec 64) (a : Access) :
    ∃ t, exec (.unmappedAccess initiator addr a) s = .next t ∧ t.memWf = true :=
  ⟨_, rfl, by grind [memWf_emit, memWf_unmappedNote]⟩

theorem exec_sampleSetRetake_memWf (job : Fin 32) : ∃ t, exec (.sampleSetRetake job) s = .next t ∧ t.memWf = true :=
  ⟨_, rfl, by grind [memWf_epochStart]⟩

theorem exec_w1cClear_memWf (seat : Fin 4) (offset : BitVec 28) (value hardwareSets : Word) :
    ∃ t, exec (.w1cClear seat offset value hardwareSets) s = .next t ∧ t.memWf = true :=
  ⟨_, rfl, by grind [memWf_ctlOdd, memWf_clearFlags]⟩

theorem exec_registerWrite_memWf (seat : Fin 4) (offset : BitVec 28) (value : Word) :
    ∃ t, exec (.registerWrite seat offset value) s = .next t ∧ t.memWf = true :=
  ⟨_, rfl, by grind [memWf_ctlOdd, memWf_ctlWrite]⟩

theorem exec_unalignedAccess_memWf (initiator : Byte) (offset : BitVec 28) (bytes : Nat) (write : Bool) :
    ∃ t, exec (.unalignedAccess initiator offset bytes write) s = .next t ∧ t.memWf = true :=
  ⟨_, rfl, by grind [memWf_emit, memWf_ctlOdd]⟩

theorem exec_unoccupiedAccess_memWf (initiator : Byte) (offset : BitVec 28) (write : Bool) :
    ∃ t, exec (.unoccupiedAccess initiator offset write) s = .next t ∧ t.memWf = true :=
  ⟨_, rfl, by grind [memWf_emit, memWf_ctlNotice]⟩

theorem exec_imageStoreDone_memWf : ∃ t, exec .imageStoreDone s = .next t ∧ t.memWf = true := by
  change ∃ t, execImageStoreDone s = .next t ∧ t.memWf = true
  unfold execImageStoreDone
  grind [memWf_kept, memWf_complete]

theorem exec_prbsLock_memWf (lane : Fin 44) : ∃ t, exec (.prbsLock lane) s = .next t ∧ t.memWf = true :=
  ⟨_, rfl, by grind [memWf_setFld]⟩

theorem exec_interruptDatagramInterval_memWf (seat : Fin 4) :
    ∃ t, exec (.interruptDatagramInterval seat) s = .next t ∧ t.memWf = true :=
  ⟨_, rfl, by grind [memWf_kept, memWf_keptHost, memWf_sendInterrupt]⟩

/-- Each command's effect is made of operations that keep the form. -/
theorem exec_memWf (c : Instr) : ∃ t, exec c s = .next t ∧ t.memWf = true := by
  cases c with
  | nop _ => exact ⟨_, rfl, memWf_takeNow hs _ _ fun c t ht => memWf_complete ht ..⟩
  | imageVerify _ _ => exact ⟨_, rfl, memWf_takeNow hs _ _ fun c t ht => memWf_runImageVerify ht ..⟩
  | verificationComplete => exact ⟨_, rfl, memWf_verified hs ..⟩
  | imageApply _ _ => exact ⟨_, rfl, memWf_takeNow hs _ _ fun c t ht => memWf_runImageApply ht ..⟩
  | imageApplyCancel _ => exact ⟨_, rfl, memWf_takeNow hs _ _ fun c t ht => memWf_runApplyCancel ht ..⟩
  | imageStore _ => exact ⟨_, rfl, memWf_takeNow hs _ _ fun c t ht => memWf_runImageStore ht ..⟩
  | imageLock _ => exact ⟨_, rfl, memWf_takeNow hs _ _ fun c t ht => memWf_runImageLock ht ..⟩
  | imageQuery _ _ => exact ⟨_, rfl, memWf_takeNow hs _ _ fun c t ht => memWf_runImageQuery ht ..⟩
  | overlayApply _ _ => exact ⟨_, rfl, memWf_takeNow hs _ _ fun c t ht => memWf_runOverlayApply ht ..⟩
  | overlayRevert _ _ => exact ⟨_, rfl, memWf_takeNow hs _ _ fun c t ht => memWf_runOverlayRevert ht ..⟩
  | powerMode _ _ => exact ⟨_, rfl, memWf_takeNow hs _ _ fun c t ht => memWf_runPowerMode ht ..⟩
  | detOverride _ _ => exact ⟨_, rfl, memWf_takeNow hs _ _ fun c t ht => memWf_runDetOverride ht ..⟩
  | groupLaunch _ _ => exact ⟨_, rfl, memWf_takeNow hs _ _ fun c t ht => memWf_runGroupLaunch ht ..⟩
  | ctxCreate _ _ => exact ⟨_, rfl, memWf_takeNow hs _ _ fun c t ht => memWf_runCtxCreate ht ..⟩
  | ctxDestroy _ _ => exact ⟨_, rfl, memWf_takeNow hs _ _ fun c t ht => memWf_runCtxDestroy ht ..⟩
  | jobReplay _ _ _ _ _ _ _ _ => exact ⟨_, rfl, memWf_takeNow hs _ _ fun c t ht => memWf_runJobReplay ht ..⟩
  | jobCancel _ _ _ => exact ⟨_, rfl, memWf_takeNow hs _ _ fun c t ht => memWf_runJobCancel ht ..⟩
  | streamPause _ _ => exact ⟨_, rfl, memWf_takeNow hs _ _ fun c t ht => memWf_runPause ht ..⟩
  | streamResume _ _ => exact ⟨_, rfl, memWf_takeNow hs _ _ fun c t ht => memWf_runPause ht ..⟩
  | streamSave _ _ _ _ => exact ⟨_, rfl, memWf_takeNow hs _ _ fun c t ht => memWf_runStreamSave ht ..⟩
  | streamRestore _ _ _ _ => exact ⟨_, rfl, memWf_takeNow hs _ _ fun c t ht => memWf_runStreamRestore ht ..⟩
  | cxpControl _ _ _ _ _ _ _ => exact ⟨_, rfl, memWf_takeNow hs _ _ fun c t ht => memWf_runCxpControl ht ..⟩
  | cxpDescription _ _ _ _ => exact ⟨_, rfl, memWf_takeNow hs _ _ fun c t ht => memWf_runCxpDescription ht ..⟩
  | libraryAttach _ _ _ _ => exact ⟨_, rfl, memWf_takeNow hs _ _ fun c t ht => memWf_runLibraryAttach ht ..⟩
  | sampleDecode _ _ _ _ _ => exact ⟨_, rfl, memWf_takeNow hs _ _ fun c t ht => memWf_runSampleDecode ht ..⟩
  | trainStart _ _ => exact ⟨_, rfl, memWf_takeNow hs _ _ fun c t ht => memWf_runTrainStart ht ..⟩
  | trainPause _ _ => exact ⟨_, rfl, memWf_takeNow hs _ _ fun c t ht => memWf_runTrainPause ht ..⟩
  | trainResume _ _ => exact ⟨_, rfl, memWf_takeNow hs _ _ fun c t ht => memWf_runTrainResume ht ..⟩
  | trainStop _ _ => exact ⟨_, rfl, memWf_takeNow hs _ _ fun c t ht => memWf_runTrainStop ht ..⟩
  | trainCheckpoint _ _ _ _ => exact ⟨_, rfl, memWf_takeNow hs _ _ fun c t ht => memWf_runTrainCheckpoint ht ..⟩
  | trainRestore _ _ _ => exact ⟨_, rfl, memWf_takeNow hs _ _ fun c t ht => memWf_runTrainRestore ht ..⟩
  | candidatePublish _ _ => exact ⟨_, rfl, memWf_takeNow hs _ _ fun c t ht => memWf_runCandidatePublish ht ..⟩
  | candidatePromote _ _ => exact ⟨_, rfl, memWf_takeNow hs _ _ fun c t ht => memWf_runPromote ht ..⟩
  | firmwareStore _ _ _ => exact ⟨_, rfl, memWf_takeNow hs _ _ fun c t ht => memWf_runFirmwareStore ht ..⟩
  | keyLoad _ _ _ => exact ⟨_, rfl, memWf_takeNow hs _ _ fun c t ht => memWf_runKeyLoad ht ..⟩
  | keyEnrol _ _ => exact ⟨_, rfl, memWf_takeNow hs _ _ fun c t ht => memWf_runKeyEnrol ht ..⟩
  | certRead _ _ _ => exact ⟨_, rfl, memWf_takeNow hs _ _ fun c t ht => memWf_runCertRead ht ..⟩
  | attest _ _ _ => exact ⟨_, rfl, memWf_takeNow hs _ _ fun c t ht => memWf_runAttest ht ..⟩
  | opcodeUnknown _ _ => exact ⟨_, rfl, memWf_takeNow hs _ _ fun c t ht => memWf_complete ht ..⟩
  | status => exact ⟨_, rfl, memWf_say hs ..⟩
  | events _ => exact exec_events_memWf hs ..
  | peek _ => exact exec_peek_memWf hs ..
  | poke _ _ => exact exec_poke_memWf hs ..
  | options => exact ⟨_, rfl, memWf_say hs ..⟩
  | fwload _ => exact exec_fwload_memWf hs ..
  | reset => exact exec_reset_memWf hs
  | hello _ _ _ => exact ⟨_, rfl, memWf_hello hs ..⟩
  | submit _ _ _ => exact ⟨_, rfl, memWf_bhReceive hs _ _ _ fun k t ht => memWf_bhSequenced ht ..⟩
  | regRead _ _ _ => exact ⟨_, rfl, memWf_bhReceive hs _ _ _ fun k t ht => memWf_bhSequenced ht ..⟩
  | regWrite _ _ _ => exact ⟨_, rfl, memWf_bhReceive hs _ _ _ fun k t ht => memWf_bhSequenced ht ..⟩
  | memRead _ _ _ => exact ⟨_, rfl, memWf_bhReceive hs _ _ _ fun k t ht => memWf_bhSequenced ht ..⟩
  | memWrite _ _ _ => exact ⟨_, rfl, memWf_bhReceive hs _ _ _ fun k t ht => memWf_bhSequenced ht ..⟩
  | keepalive _ => exact ⟨_, rfl, memWf_bhReceive hs _ _ _ fun k t ht => ht⟩
  | ack _ => exact ⟨_, rfl, memWf_bhReceive hs _ _ _ fun k t ht => ht⟩
  | bye _ => exact ⟨_, rfl, memWf_bhReceive hs _ _ _ fun k t ht => memWf_disconnect ht ..⟩
  | bhAckTimer _ => exact exec_bhAckTimer_memWf hs ..
  | bhRetransmit _ => exact ⟨_, rfl, memWf_bhAgain hs ..⟩
  | bhSilence _ => exact exec_bhSilence_memWf hs ..
  | bhKeepaliveTimer _ => exact ⟨_, rfl, memWf_bhPut hs ..⟩
  | usb4LinkLoss _ => exact exec_usb4LinkLoss_memWf hs ..
  | hotReset _ => exact ⟨_, rfl, memWf_disconnect hs ..⟩
  | functionLevelReset _ => exact ⟨_, rfl, memWf_disconnect hs ..⟩
  | seatConnect _ _ => exact exec_seatConnect_memWf hs ..
  | busMasterEnable _ _ => exact exec_busMasterEnable_memWf hs ..
  | bar2Access _ _ _ _ => exact exec_bar2Access_memWf hs ..
  | sqTail _ _ _ _ _ => exact exec_sqTail_memWf hs ..
  | cqHead _ _ _ _ => exact ⟨_, rfl, memWf_moveCqHead hs ..⟩
  | enable _ _ _ _ => exact ⟨_, rfl, memWf_writeRingCfg hs ..⟩
  | cqModTimer _ _ => exact ⟨_, rfl, memWf_modTimeUp hs ..⟩
  | caps _ _ => exact exec_caps_memWf hs ..
  | capsTimer => exact ⟨_, rfl, memWf_sendCaps hs ..⟩
  | peerAbsent _ => exact ⟨_, rfl, memWf_peerAbsent hs ..⟩
  | axis _ _ _ _ => exact ⟨_, rfl, memWf_receive hs _ _ fun t ht => memWf_axis ht ..⟩
  | axisTimer => exact ⟨_, rfl, memWf_sendAxis hs ..⟩
  | axisStale => exact exec_axisStale_memWf hs
  | handoff _ _ => exact ⟨_, rfl, memWf_handoffIn hs ..⟩
  | strip _ _ => exact ⟨_, rfl, memWf_receive hs _ _ fun t ht => memWf_stripIn ht ..⟩
  | stripSeamUpdate _ => exact ⟨_, rfl, memWf_seam hs ..⟩
  | launchItem _ _ _ => exact exec_launchItem_memWf hs ..
  | launchAnswer _ _ _ _ => exact ⟨_, rfl, memWf_receive hs _ _ fun t ht => memWf_launchAnswer ht ..⟩
  | go _ _ => exact ⟨_, rfl, memWf_receive hs _ _ fun t ht => memWf_goNow ht ..⟩
  | groupLaunchDeadline => exact ⟨_, rfl, memWf_groupDeadline hs ..⟩
  | event _ _ => exact ⟨_, rfl, memWf_receive hs _ _ fun t ht => memWf_eventIn ht ..⟩
  | groupAck _ _ => exact ⟨_, rfl, memWf_receive hs _ _ fun t ht => memWf_ackIn ht ..⟩
  | groupRetransmit _ _ => exact ⟨_, rfl, memWf_regroup hs ..⟩
  | frameForward _ _ => exact ⟨_, rfl, memWf_forward hs ..⟩
  | addressAgeing _ => exact exec_addressAgeing_memWf hs ..
  | arpRequest _ _ _ _ => exact exec_arpRequest_memWf hs ..
  | icmpEcho _ _ _ _ => exact exec_icmpEcho_memWf hs ..
  | coefficientRequest _ _ => exact ⟨_, rfl, memWf_coefRequest hs ..⟩
  | trainingTimeout _ => exact ⟨_, rfl, memWf_trainFail hs ..⟩
  | ptpSync _ _ => exact ⟨_, rfl, memWf_ptpSample hs ..⟩
  | ptpAnnounce _ _ => exact ⟨_, rfl, memWf_announce hs ..⟩
  | ptpDelayReq _ _ _ _ => exact ⟨_, rfl, memWf_delayReq hs ..⟩
  | ptpMessageTimer _ => exact ⟨_, rfl, memWf_ptpTimer hs ..⟩
  | holdover _ => exact ⟨_, rfl, memWf_holdover hs ..⟩
  | launchEdge => exact ⟨_, rfl, memWf_launchEdge hs ..⟩
  | tbStepGo _ _ _ => exact ⟨_, rfl, memWf_stepGo hs ..⟩
  | snapCapture _ => exact ⟨_, rfl, memWf_capture hs ..⟩
  | ipAddr _ _ => exact ⟨_, rfl, memWf_writeIp hs ..⟩
  | powerEn _ _ _ _ => exact exec_powerEn_memWf hs ..
  | rediscover _ _ => exact ⟨_, rfl, memWf_rediscover hs ..⟩
  | limit _ _ _ => exact ⟨_, rfl, memWf_writeLimit hs ..⟩
  | budgetW _ _ => exact ⟨_, rfl, memWf_writeBudget hs ..⟩
  | streamCfg _ _ _ => exact ⟨_, rfl, memWf_writeStreamCfg hs ..⟩
  | discoveryAttempt _ => exact exec_discoveryAttempt_memWf hs ..
  | cameraLinkUp _ _ _ _ _ _ _ => exact ⟨_, rfl, memWf_linkUp hs ..⟩
  | descriptionRetrieved _ _ => exact ⟨_, rfl, memWf_describe hs ..⟩
  | cableEstimate _ _ _ => exact exec_cableEstimate_memWf hs ..
  | pocxpMeasure _ _ _ _ _ => exact ⟨_, rfl, memWf_measurePort hs ..⟩
  | pocxpShort _ => exact ⟨_, rfl, memWf_tripPort hs ..⟩
  | cameraAcknowledge _ _ => exact ⟨_, rfl, memWf_camAnswer hs ..⟩
  | cxpTimeout _ => exact exec_cxpTimeout_memWf hs ..
  | imageHeader _ _ _ _ _ _ _ _ => exact exec_imageHeader_memWf hs ..
  | lineData _ _ _ _ _ _ => exact ⟨_, rfl, memWf_packet hs ..⟩
  | eventPacket _ _ _ => exact ⟨_, rfl, memWf_log hs ..⟩
  | cameraLinkLoss _ => exact ⟨_, rfl, memWf_linkLost hs ..⟩
  | streamClose _ => exact ⟨_, rfl, memWf_closeStream hs ..⟩
  | tickWord _ _ _ _ => exact ⟨_, rfl, memWf_tickWord hs ..⟩
  | triggerPacketStart _ => exact ⟨_, rfl, memWf_startTrig hs ..⟩
  | lineServed _ => exact ⟨_, rfl, memWf_servePipe hs ..⟩
  | lineEmitted _ => exact ⟨_, rfl, memWf_emitLine hs ..⟩
  | spillReentry _ => exact ⟨_, rfl, memWf_reenter hs ..⟩
  | alignmentTimeout _ => exact ⟨_, rfl, memWf_completeAlign hs ..⟩
  | pipeHang _ => exact ⟨_, rfl, memWf_askStreamReset (memWf_log hs ..) ..⟩
  | statCons _ _ _ => exact ⟨_, rfl, memWf_writeCons hs ..⟩
  | streamHeaderUpdate _ => exact ⟨_, rfl, memWf_putHeader hs ..⟩
  | stageSpaceReserved _ => exact ⟨_, rfl, memWf_reserveSpace hs ..⟩
  | commandDispatch => exact exec_commandDispatch_memWf hs
  | killAck _ => exact ⟨_, rfl, memWf_killAck hs ..⟩
  | dispatchComplete _ => exact ⟨_, rfl, memWf_dispatched hs ..⟩
  | contextSwap _ => exact ⟨_, rfl, memWf_readContext hs ..⟩
  | commitPhase _ _ => exact ⟨_, rfl, memWf_commitPhase hs ..⟩
  | publish _ => exact ⟨_, rfl, memWf_publish hs ..⟩
  | histWrite _ => exact ⟨_, rfl, memWf_histWrite hs ..⟩
  | turnEnd => exact ⟨_, rfl, memWf_turnEnd hs ..⟩
  | starvation => exact ⟨_, rfl, memWf_starvation hs ..⟩
  | coreWatchdog _ => exact exec_coreWatchdog_memWf hs ..
  | coreSetReloaded _ => exact exec_coreSetReloaded_memWf hs ..
  | sliceUs _ _ => exact ⟨_, rfl, memWf_writeSlice hs ..⟩
  | offline _ _ _ => exact ⟨_, rfl, memWf_setOffline hs ..⟩
  | deadlineTest => exact ⟨_, rfl, memWf_deadlineTick hs ..⟩
  | cutoffPassed _ => exact ⟨_, rfl, memWf_cutoffEvent hs ..⟩
  | partWindowEnd _ _ => exact ⟨_, rfl, memWf_windowEnd hs ..⟩
  | shadowLimit _ => exact ⟨_, rfl, memWf_shadowLimit hs ..⟩
  | ejectInsert => exact ⟨_, rfl, memWf_ejectInsert hs ..⟩
  | listCtrlClear _ => exact ⟨_, rfl, memWf_listClear hs ..⟩
  | cropEncoded => exact ⟨_, rfl, memWf_settleParts (memWf_encodeCrop hs ..) ..⟩
  | encoderEdge _ _ _ => exact exec_encoderEdge_memWf hs ..
  | wireLoss _ => exact exec_wireLoss_memWf hs ..
  | indexPulse _ => exact ⟨_, rfl, memWf_encIndex hs ..⟩
  | ssiRead _ => exact ⟨_, rfl, memWf_ssiStart hs ..⟩
  | ssiWord _ _ _ _ => exact exec_ssiWord_memWf hs ..
  | ssiTimeout _ => exact exec_ssiTimeout_memWf hs ..
  | encoderStopped _ => exact ⟨_, rfl, memWf_encStop hs ..⟩
  | clearLost _ _ => exact ⟨_, rfl, memWf_clearLost hs ..⟩
  | dividerEvent _ => exact ⟨_, rfl, memWf_dividerEvent hs ..⟩
  | trigOutPulseEnd _ => exact ⟨_, rfl, memWf_trigEnd hs ..⟩
  | outputSwitchOn _ => exact ⟨_, rfl, memWf_evalWindow hs ..⟩
  | peakPhaseEnd _ => exact ⟨_, rfl, memWf_peakEnd hs ..⟩
  | pulseEnd _ => exact ⟨_, rfl, memWf_pulseEnd hs ..⟩
  | inputEdge _ _ => exact ⟨_, rfl, memWf_inputEdge hs ..⟩
  | counterGate _ => exact ⟨_, rfl, memWf_counterGate hs ..⟩
  | cntCtrlZero _ _ => exact ⟨_, rfl, memWf_fieldWrite hs _ _ _ fun t ht => memWf_counterZero ht ..⟩
  | outputOvercurrent _ _ => exact ⟨_, rfl, memWf_trip hs ..⟩
  | groupCurrentCheck _ _ => exact ⟨_, rfl, memWf_groupCheck hs ..⟩
  | outputMeasure _ _ _ => exact ⟨_, rfl, memWf_outMeasure hs ..⟩
  | openLoadTest _ _ => exact ⟨_, rfl, memWf_openTest hs ..⟩
  | clearTrip _ _ => exact ⟨_, rfl, memWf_fieldWrite hs _ _ _ fun t ht => memWf_clearTrip ht ..⟩
  | gCtrlClear _ _ => exact ⟨_, rfl, memWf_fieldWrite hs _ _ _ fun t ht => memWf_clearGroup ht ..⟩
  | qHost _ _ _ => exact ⟨_, rfl, memWf_fieldWrite hs _ _ _ fun t ht => memWf_writeQHost ht ..⟩
  | fieldMirrorRead _ _ => exact ⟨_, rfl, memWf_seatRead hs ..⟩
  | fieldMirrorWrite _ _ _ => exact exec_fieldMirrorWrite_memWf hs ..
  | barrierFrameSend => exact ⟨_, rfl, memWf_sendFrames hs ..⟩
  | barrierDownFrame _ => exact ⟨_, rfl, memWf_downFrame hs ..⟩
  | barrierUpFrame _ => exact ⟨_, rfl, memWf_settlePositions (memWf_upFrame hs ..) ..⟩
  | frameTimeout _ => exact exec_frameTimeout_memWf hs ..
  | fcWatchdog => exact exec_fcWatchdog_memWf hs
  | fieldSupplyOn _ => exact ⟨_, rfl, memWf_supplyOn hs ..⟩
  | powerOn _ _ => exact ⟨_, rfl, memWf_powerOn hs ..⟩
  | brownOut _ _ => exact ⟨_, rfl, memWf_dieReset hs ..⟩
  | resetN _ => exact ⟨_, rfl, memWf_dieReset hs ..⟩
  | controlWatchdog _ => exact ⟨_, rfl, memWf_dieReset hs ..⟩
  | swResetDie _ _ _ => exact ⟨_, rfl, memWf_swReset hs ..⟩
  | swResetCore _ _ => exact ⟨_, rfl, memWf_swReset hs ..⟩
  | swResetStreams _ _ => exact ⟨_, rfl, memWf_swReset hs ..⟩
  | debugReset _ _ => exact exec_debugReset_memWf hs ..
  | debugForceRelease _ => exact ⟨_, rfl, memWf_forceRelease hs ..⟩
  | clockFailure _ _ => exact exec_clockFailure_memWf hs ..
  | lockUp _ _ => exact exec_lockUp_memWf hs ..
  | islandClockGood _ => exact ⟨_, rfl, memWf_clockGood hs ..⟩
  | supplyGood _ => exact ⟨_, rfl, memWf_supplyGood hs ..⟩
  | firmwareVerified => exact ⟨_, rfl, memWf_firmwareVerified hs ..⟩
  | memoryTrained _ => exact ⟨_, rfl, memWf_memoryTrained hs ..⟩
  | bootComplete _ => exact ⟨_, rfl, memWf_bootComplete hs ..⟩
  | bootFailureReset _ => exact exec_bootFailureReset_memWf hs ..
  | slotCopyComplete => exact ⟨_, rfl, memWf_slotCopied hs ..⟩
  | throttleCheck _ _ _ => exact ⟨_, rfl, memWf_throttleCheck hs ..⟩
  | operatingPointDone _ => exact ⟨_, rfl, memWf_updCore hs ..⟩
  | supplyMeasure _ _ _ => exact ⟨_, rfl, memWf_supplyMeasure hs ..⟩
  | bootClear _ => exact ⟨_, rfl, memWf_bootClear hs ..⟩
  | commit _ => exact ⟨_, rfl, memWf_commitOptions hs ..⟩
  | optionCopiesWritten => exact ⟨_, rfl, memWf_copiesWritten hs ..⟩
  | revert _ => exact ⟨_, rfl, memWf_revertOptions hs ..⟩
  | rtcHi _ _ => exact ⟨_, rfl, memWf_setRtc hs ..⟩
  | patrolScrub _ _ _ => exact ⟨_, rfl, memWf_scrub hs ..⟩
  | refreshRateRead _ _ => exact ⟨_, rfl, memWf_refreshRead hs ..⟩
  | stagingWrite _ _ _ => exact ⟨_, rfl, memWf_devWrite hs ..⟩
  | unmappedAccess _ _ _ => exact exec_unmappedAccess_memWf hs ..
  | drainEnd => exact ⟨_, rfl, memWf_drainEnd hs ..⟩
  | drainTimeout => exact ⟨_, rfl, memWf_drainTimeout hs ..⟩
  | loadPhaseEnd _ => exact ⟨_, rfl, memWf_afterApply (memWf_loadEnd hs ..) ..⟩
  | fieldWaitEnd => exact ⟨_, rfl, memWf_fieldWaitEnd hs ..⟩
  | decodeComplete _ => exact ⟨_, rfl, memWf_decodeDone hs ..⟩
  | decodeTimeout _ => exact ⟨_, rfl, memWf_decodeTimeout hs ..⟩
  | sampleDelivery _ => exact ⟨_, rfl, memWf_deliver hs ..⟩
  | epochStart _ => exact ⟨_, rfl, memWf_epochStart hs ..⟩
  | sampleSetRetake _ => exact exec_sampleSetRetake_memWf hs ..
  | checkpointWrite _ => exact ⟨_, rfl, memWf_writeCheckpoint hs ..⟩
  | candidateRecordStored => exact ⟨_, rfl, memWf_storePromotion hs ..⟩
  | flush _ => exact ⟨_, rfl, memWf_flushCache hs ..⟩
  | eventRecord => exact ⟨_, rfl, memWf_recordOne hs ..⟩
  | spillMove => exact ⟨_, rfl, memWf_spillMove (memWf_checkSpill hs ..) ..⟩
  | tokenRefill _ => exact ⟨_, rfl, memWf_refill hs ..⟩
  | floodEnd _ => exact ⟨_, rfl, memWf_floodEnd hs ..⟩
  | clearCritical _ => exact ⟨_, rfl, memWf_clearCritical hs ..⟩
  | clearAll _ => exact ⟨_, rfl, memWf_clearAll hs ..⟩
  | zeroCounters _ => exact ⟨_, rfl, memWf_zeroCounters hs ..⟩
  | w1cClear _ _ _ _ => exact exec_w1cClear_memWf hs ..
  | registerWrite _ _ _ => exact exec_registerWrite_memWf hs ..
  | unalignedAccess _ _ _ _ => exact exec_unalignedAccess_memWf hs ..
  | unoccupiedAccess _ _ _ => exact exec_unoccupiedAccess_memWf hs ..
  | loReadLatch _ _ => exact ⟨_, rfl, memWf_seatRead hs ..⟩
  | laneAligned _ _ => exact ⟨_, rfl, memWf_laneAlign hs ..⟩
  | alignmentLoss _ _ => exact ⟨_, rfl, memWf_alignLoss hs ..⟩
  | laneCtrlMode _ _ _ => exact ⟨_, rfl, memWf_laneWrite hs _ _ _ fun t ht => memWf_laneMode ht ..⟩
  | slip _ _ => exact ⟨_, rfl, memWf_laneWrite hs _ _ _ fun t ht => memWf_laneSlip ht ..⟩
  | inject _ _ => exact ⟨_, rfl, memWf_laneWrite hs _ _ _ fun t ht => memWf_laneInject ht ..⟩
  | loopback _ _ _ => exact ⟨_, rfl, memWf_laneWrite hs _ _ _ fun t ht => memWf_laneLoop ht ..⟩
  | prbsChk _ _ _ => exact ⟨_, rfl, memWf_laneWrite hs _ _ _ fun t ht => memWf_laneChk ht ..⟩
  | fieldSupplyLoss _ => exact ⟨_, rfl, memWf_supplyLoss hs ..⟩
  | wireSignalReturn _ => exact ⟨_, rfl, memWf_setEnc hs ..⟩
  | ppsInEdge _ _ => exact ⟨_, rfl, memWf_ppsEdge hs ..⟩
  | imageStoreDone => exact exec_imageStoreDone_memWf hs
  | firmwareStoreDone _ => exact ⟨_, rfl, memWf_firmwareStored hs ..⟩
  | overlayApplyGapEnd => exact ⟨_, rfl, memWf_overlayGapEnd hs ..⟩
  | prbsLock _ => exact exec_prbsLock_memWf hs ..
  | prbsLockLoss _ => exact ⟨_, rfl, memWf_prbsLoss hs ..⟩
  | historyHeaderUpdate _ => exact ⟨_, rfl, memWf_histHeader hs ..⟩
  | interruptDatagramInterval _ => exact exec_interruptDatagramInterval_memWf hs ..
  | loadMeterRefresh _ _ => exact ⟨_, rfl, memWf_meter hs ..⟩
  | rateCountRefresh => exact ⟨_, rfl, memWf_rates hs ..⟩

end

end State

/-- A step of any command, and a tick. -/
theorem step_memWf {s t : State} (hs : s.memWf = true) (hstep : step s = .next t) : t.memWf = true := by
  unfold step at hstep
  split at hstep
  · injection hstep with ht
    exact ht ▸ State.memWf_idleTick hs
  · next c rest _ =>
    obtain ⟨u, hu, hw⟩ := State.exec_memWf (s := { s with pending := rest }) hs c
    rw [hu] at hstep
    injection hstep with ht
    exact ht ▸ hw

/-- Settles O60: what a command does is made of operations of the model, and each keeps the form of the memories. -/
theorem everyStepKeepsMemory : Obligations.EveryStepKeepsMemory := fun _ _ => step_memWf

end Sys2Proof.Machine
